-- ==== Sys2Proof/Word.lean ====
section
/-! DEFINITION. The word types of the OVT-4064 model: bytes, the 32-bit and 64-bit words that registers and descriptors
are made of, and the index types of the parts the spec counts. -/

namespace Sys2Proof

/-- A byte of memory. -/
abbrev Byte := BitVec 8
/-- A 32-bit word: an FP32 or INT32 value, a command tag, a scalar file entry. -/
abbrev U32 := BitVec 32
/-- A 64-bit register (R10: all registers are 64 bits wide). -/
abbrev U64 := BitVec 64
/-- A digest of SHA-512. -/
abbrev Digest := BitVec 512

/-- Tile index (R29: 64 tiles). -/
abbrev TileIx := Fin 64
/-- Wayfarer index (R178). -/
abbrev WayIx := Fin 16
/-- Tally or Kiln index (R178). -/
abbrev EngIx := Fin 8
/-- Link port index (R262: 0 to 14 mesh, 15 U0, 16 U1, 17 P). -/
abbrev PortIx := Fin 18
/-- DRAM stack index (R209). -/
abbrev StackIx := Fin 32
/-- DRAM channel index 9 × stack + physical channel (R209). -/
abbrev ChIx := Fin 288
/-- Power domain index (R297). -/
abbrev DomIx := Fin 155
/-- Counter block index (R413). -/
abbrev PerfIx := Fin 119
/-- Pigeonhole channel (R361). -/
abbrev MbxIx := Fin 32
/-- Telemetry ring index (R354). -/
abbrev RingIx := Fin 8

end Sys2Proof
end

