-- ==== Sys2Proof/Syntax.lean ====
section
/-! DEFINITION. The commands of the block, one constructor per row of spec/opcode_table.json, and the operands they carry.
A descriptor of 64 bytes is a bit vector of 512 bits, one of 32 bytes of 256 bits; word w, bit b stands at bit 64 w + b.
What the spec obtains by physics or by cryptography (which tile fails its self-test, under which keys a signature
verifies) is an operand. -/

namespace Sys2Proof

/-- The straps sampled at the end of start-up step 2 (R441) and XSPI_EXT_N sampled with them (R443). -/
structure Straps where
  moduleSlot  : BitVec 11
  xtalWait    : BitVec 3
  feedId      : Byte
  xspiExtHigh : Bool
  deriving DecidableEq, Repr

/-- What start-up steps 4 to 9 meet (R324, R325, R334). -/
structure StartEnv where
  /-- The step that does not end by itself and waits for START_STEP_TIMEOUT; 0 for none. -/
  hangStep     : Nat
  romKatOk     : Bool
  pufOk        : Bool
  helperOk     : Bool
  ownerMacOk   : Bool
  devCertOk    : Bool
  flashOk      : Bool
  domainsOk    : Bool
  /-- Bit n: tile n fails its self-test at step 7. -/
  tilesFailed  : BitVec 64
  /-- Engine self-test failures, laid out as FLT_FENCE_ENG bits 35:0. -/
  engFailed    : BitVec 36
  memPllOk     : Bool
  /-- Bit k: stack k fails training at step 8. -/
  stacksFailed : BitVec 32
  /-- A valid NAND copy of the Ledger exists (R387). -/
  ledgerNandOk : Bool
  deriving DecidableEq, Repr

/-- The first 256 bytes of a Waybill (R332); its reserved bytes stand in the image alone. -/
structure WbHeader where
  magic         : U64
  format        : U32
  totalSize     : U32
  part          : BitVec 16
  generation    : Byte
  stepping      : Byte
  seqNo         : U32
  jobTag        : BitVec 16
  sections      : BitVec 16
  persistDigest : Digest
  ownerKeyId    : BitVec 128
  deriving DecidableEq, Repr

/-- One entry of the section table (R332). -/
structure WbSection where
  typ    : BitVec 16
  offset : U32
  length : U32
  digest : Digest
  deriving DecidableEq, Repr

/-- A wire scale entry (R106). -/
structure WireEntry where
  wireId : BitVec 24
  fmt    : BitVec 4
  sT     : U32
  sW     : Byte
  deriving DecidableEq, Repr

/-- A ladder entry (R253); the layer is its position in the list. -/
structure LadderEntry where
  initRung    : Nat
  rungMask    : Byte
  rotR0       : BitVec 2
  rotR1       : BitVec 2
  satLimit    : U32
  satSteps    : Nat
  nonfinSteps : Nat
  cleanSteps  : BitVec 16
  deriving DecidableEq, Repr

/-- An optimiser group (R170); FP32 values as bits. -/
structure OptGroup where
  beta1  : U32
  beta2  : U32
  eps    : U32
  lambda : U32
  gscale : U32
  rate   : List (Nat × U32)
  mScale : U32
  vScale : U32
  sr     : Bool
  clipFloor : U32
  clipCeil  : U32
  deriving DecidableEq, Repr

/-- One member of a group (R278). -/
structure Member where
  id       : BitVec 16
  route    : Nat
  altRoute : Nat
  deriving DecidableEq, Repr

/-- A group-table entry (R278). -/
structure Group where
  members   : List Member
  leaderPos : Nat
  selfPos   : Nat
  hier      : Bool
  sealGrp   : Bool
  deriving DecidableEq, Repr

/-- A freeze mask (R165): the wire tensor's frozen blocks in the order of R276, and the module address ranges (base, bytes)
of the codes, scales, residuals and moments of the frozen blocks, or of a frozen range or small parameter. -/
structure FreezeMask where
  wireId : BitVec 24
  blocks : List Nat
  ranges : List (Nat × Nat)
  deriving DecidableEq, Repr

/-- The frames of one stack's shadow pool (R176). -/
structure ShadowPool where
  stack  : StackIx
  base   : Nat
  frames : Nat
  deriving DecidableEq, Repr

/-- Range parameters in FP32 (R91, R172): their persistent module address, where S0 copies them in a tile's memory, and the optimiser group
that gives their clip interval. -/
structure RangeCopy where
  src   : Nat
  tile  : TileIx
  dst   : Nat
  bytes : Nat
  group : Nat
  deriving DecidableEq, Repr

/-- The LAYOUT section (R332, R174, R176, R230, R233, R238, R395). -/
structure Layout where
  /-- Persistent regions (base, bytes), in whole 64 KiB pages. -/
  persistent   : List (Nat × Nat)
  /-- Pages of wire residuals, which the assay excludes (R377). -/
  wireResidual : List (Nat × Nat)
  pools        : List ShadowPool
  /-- Stash bytes per tile, one list per layer (R233). -/
  stash        : List (List (TileIx × Nat))
  /-- The reload buffer of each tile, in its memory (R234). -/
  reload       : List (TileIx × Nat)
  globalExtent : Nat
  /-- Fixed addresses of a resident plan (R238). -/
  resident     : List (Nat × Nat)
  rangeCopies  : List RangeCopy
  guestBase    : Nat
  deriving DecidableEq, Repr

/-- A work item of the period plan (R320); `phase` is coded as MGT_PERIOD_STAT.PHASE. -/
structure WorkItem where
  id       : Nat
  phase    : Nat
  cls      : Nat
  power    : Nat
  duration : Nat
  heatQ    : List (Nat × Nat)
  heatS    : List (Nat × Nat)
  burstOk  : Bool
  after    : List Nat
  cells    : Nat
  tile     : TileIx
  deriving DecidableEq, Repr

/-- A part of a split plan (R134): the tile that runs it (none where it runs on another module), its first 256-channel reduction block and how
many follow. -/
structure SplitPart where
  tile   : Option TileIx
  first  : Nat
  blocks : Nat
  deriving DecidableEq, Repr

/-- A split plan (R134): its parts in channel order, the GROUP and ACC they share, the combining tile and where its partial buffer stands in that
tile's memory (R136). -/
structure SplitPlan where
  parts  : List SplitPart
  group  : Nat
  acc    : Nat
  tile   : TileIx
  buffer : Nat
  deriving DecidableEq, Repr

/-- The PERIOD_PLAN section (R18 to R28, R134, R320, R358). -/
structure Plan where
  items       : List WorkItem
  splits      : List SplitPlan
  stepTicks   : Nat
  cellsTotal  : Nat
  recordBytes : Nat
  tick0       : List DomIx
  deriving DecidableEq, Repr

/-- What the sections of a Waybill say whose byte layout the spec leaves to Tilod (R332). The images of the Timetable and the sequencers and
the wire scales are read from the bytes. -/
structure WbData where
  /-- REGISTERS: function 0 offset and value of the fields whose Reset is Waybill. -/
  regs   : List (Nat × U64)
  plan   : Plan
  groups : List Group
  ladder : List LadderEntry
  optim  : List OptGroup
  freeze : List FreezeMask
  layout : Layout
  /-- THRESHOLDS: function 0 offset and value of further fault settings. -/
  thresholds : List (Nat × U64)
  deriving DecidableEq, Repr

/-- A Waybill image (R332): its bytes from offset 0, the public keys under which its signature verifies (R333), and what its sections say. -/
structure WaybillImage where
  bytes    : List Byte
  signedBy : List (BitVec 1064)
  data     : WbData
  deriving DecidableEq, Repr

/-- How the host link trained (R345): lanes, and the rate in 0.1 GT/s. -/
structure CxlLink where
  lanes : Nat
  rate  : Nat
  deriving DecidableEq, Repr

/-- A power state of a domain (R298), coded as PWR_DOMd_STAT.STATE. -/
inductive PState where
  | off | retained | gated | on | powerDown
  deriving DecidableEq, Repr

/-- The three PLLs that R323 names. -/
inductive Pll where
  | core | fab | mem
  deriving DecidableEq, Repr

/-- What PERST_ASSERT stands for (R360). -/
inductive HostReset where
  | perst | hotReset | linkDown
  deriving DecidableEq, Repr

/-- One request of a domain to the Reckoner (R311). -/
structure PowerReq where
  dom   : DomIx
  cls   : Nat
  watts : Nat
  deriving DecidableEq, Repr

/-- What the Reckoner measures in an interval and the requests it holds (R310 to R318). Temperatures in 0.25 °C. -/
structure IntervalIn where
  base      : Nat
  inputW    : Nat
  vinMv     : Nat
  iin10mA   : Nat
  tileTemp  : Vector Nat 64
  stackTemp : Vector Nat 32
  requests  : List PowerReq
  deriving DecidableEq, Repr

/-- What arrives for one ring record (R355, R357). -/
inductive RecordArrival where
  | good (bytes : List Byte) | poisoned | completionError
  deriving DecidableEq, Repr

/-- An array fault during a matrix command: the n-th group result of an output position is formed as `value` (R128). -/
structure Upset where
  row   : Nat
  col   : Nat
  ix    : Nat
  value : U32
  deriving DecidableEq, Repr

/-- The part status that stands with a partial in the partial buffer (R136), and the tile that ran the part (none: on another module). -/
structure PartRef where
  index   : Nat
  origin  : Option TileIx
  mstatus : U32
  mflags  : Byte
  poison  : Bool
  deriving DecidableEq, Repr

/-- A combine of a split plan (R136 to R138): the plan's place in the period plan, the partials that have arrived in its buffer since the last
such command, where the result goes. -/
structure CombineCmd where
  plan    : Nat
  arrived : List PartRef
  dst     : Nat
  tag     : U32
  deriving DecidableEq, Repr

/-- The link header of a frame (R270). -/
structure LinkHeader where
  seqNo   : BitVec 16
  ackSeq  : BitVec 16
  ftype   : BitVec 4
  gen     : BitVec 4
  nak     : Bool
  credits : Byte
  deriving DecidableEq, Repr

/-- The chunk header of a data frame (R270). -/
structure ChunkHeader where
  srcId    : BitVec 16
  dstId    : BitVec 16
  group    : Byte
  kind     : Byte
  cflags   : Byte
  fmt      : Byte
  period   : U32
  collSeq  : U32
  chunkIdx : U32
  len      : BitVec 16
  wireId   : BitVec 24
  sW       : Byte
  sT       : U32
  crc      : U32
  deriving DecidableEq, Repr

/-- A data frame as it leaves FEC decode; `fecOk` is false for a frame of an uncorrectable codeword, `corrected` counts the codewords that FEC
corrected in it (R264). -/
structure DataFrame where
  link    : LinkHeader
  chunk   : ChunkHeader
  payload : List Byte
  fecOk   : Bool
  corrected : Nat
  deriving DecidableEq, Repr

/-- The body of an IDENT frame (R268). -/
structure IdentBody where
  genMin   : Nat
  genMax   : Nat
  memberId : BitVec 16
  port     : Nat
  jobTag   : BitVec 16
  bridge   : Bool
  plane    : Nat
  bridgePort : Byte
  feedId   : Byte
  deriving DecidableEq, Repr

/-- The body of a PROBE frame (R272), in CORE cycles; a request has no echo time yet, which is 0. -/
structure ProbeBody where
  sendTime : U64
  echoTime : U64
  deriving DecidableEq, Repr

/-- What a port's training stage ends with (R265, R267). -/
inductive TrainStage where
  | electrical (lanes : Nat) | fecLock (ok : Bool) | identification | latency (ok : Bool)
  deriving DecidableEq, Repr

/-- The name of a collective within the job (R284). -/
structure CollKey where
  group   : Byte
  period  : U32
  collSeq : U32
  deriving DecidableEq, Repr

/-- The body of a READY frame (R272). -/
structure ReadyBody where
  key     : CollKey
  opcode  : Byte
  wire    : Bool
  combine : BitVec 3
  length  : U32
  wireId  : BitVec 24
  deriving DecidableEq, Repr

/-- A seal decision (R246). -/
structure Decision where
  step     : U64
  lossSum  : U32
  commit   : Bool
  reason   : BitVec 7
  epoch    : Byte
  votes    : Nat
  /-- Four event bits per layer, two layers a byte (R242). -/
  layerMap : List Byte
  deriving DecidableEq, Repr

/-- An error as a unit posts it (R368, R369); `answers` says whether a DRAM channel still answers. -/
structure PostedError where
  cls      : Byte
  index    : BitVec 16
  severity : Nat
  kind     : BitVec 16
  syndrome : U64
  address  : U64
  count    : U32
  persistLoss : Bool
  answers  : Bool
  deriving DecidableEq, Repr

/-- The control cores a watchdog or signature checker watches (R372). -/
inductive CoreUnit where
  | sequencer (n : TileIx) | timetable (core : Fin 4) | innkeeper
  deriving DecidableEq, Repr

/-- The two ends of a Pigeonhole channel (R361). -/
inductive MbxEnd where
  | a | b
  deriving DecidableEq, Repr

/-- A cast tier that is copied in the background (R394 to R396). -/
inductive Tier where
  | partner | nand
  deriving DecidableEq, Repr

/-- A cast image (R389): header fields, ladder record, pages as (module address, non-zero bytes), poisoned lines. -/
structure CastImage where
  magic         : U64
  jobTag        : BitVec 16
  memberId      : BitVec 16
  gen           : U32
  step          : U64
  period        : U32
  epoch         : Byte
  damaged       : Bool
  persistDigest : Digest
  root          : Digest
  ladder        : List U64
  pages         : List (Nat × List (Nat × Byte))
  poison        : List Nat
  deriving DecidableEq, Repr

/-- How the fetch of a restore ends (R403, R411). -/
inductive FetchOutcome where
  | ownSlotRead | received (img : CastImage) | lost
  deriving DecidableEq, Repr

/-- A request of the platform agent or requester that carries a signature (R337, R349): the public keys under which it
verifies, and whether one of them is certified under the ROM root. -/
structure Signed where
  keys : List (BitVec 1064)
  root : Bool
  deriving DecidableEq, Repr

/-- The commands of the block, one constructor per row of the table, in the table's order. -/
inductive Instr where
  | powerOn (straps : Straps)
  | xtalWaitExpire (toggling : Bool) (env : StartEnv)
  | startStepTimeout
  | startRetryTimer (env : StartEnv)
  | cxlLinkUp (link : CxlLink) (cxl : Bool)
  | underVoltageTurnOff
  | overVoltageTurnOff
  | overCurrentTurnOff
  | pwrbrkAssert
  | pwrbrkRelease
  | perstAssert (kind : HostReset)
  | perstDeassert
  | flrFunction0
  | flrFunction1
  | xspiExtRelease (env : StartEnv)
  | pllLockLoss (pll : Pll)
  | deepSleepEnter
  | wakeLeadTimer
  | domainStateRequest (reqs : List (DomIx × PState))
  | domainWakeDone (d : DomIx)
  | grantInterval (inp : IntervalIn)
  | meterLimitReached (d : DomIx)
  | thermalTrip
  | powerLimitWrite (value : BitVec 12)
  | workItemComplete (id : Nat)
  | periodBoundary
  | boundaryPhaseEnd (prods : Vector U64 8)
  | ringRecordArrive (r : RingIx) (rec : RecordArrival)
  | ingestComplete
  | ingestDeadline
  | inferenceComplete
  | inferDeadline
  | trainDeadline
  | trainingStepStart
  | knownAnswerTest (cls : Byte) (index : Nat) (firstOk repeatOk : Bool)
  | operandIn (n : TileIx) (l : Fin 4) (d : BitVec 512)
  | transposeIn (n : TileIx) (l : Fin 4) (d : BitVec 512)
  | convert (n : TileIx) (l : Fin 4) (d : BitVec 512)
  | resultOut (n : TileIx) (l : Fin 4) (d : BitVec 512)
  | matmul (n : TileIx) (d : BitVec 256) (stalls : Nat) (upsets : List Upset)
  | cruCopy (n : TileIx) (d : BitVec 256)
  | splitCombine (n : TileIx) (c : CombineCmd)
  | dwqPost (n : TileIx) (e : BitVec 128)
  | dwqEntryStart (n : TileIx)
  | dwqDrain (n : TileIx)
  | memFence (n : TileIx)
  | scalarFileWrite (n : TileIx) (i : Fin 32) (v : U32)
  | sealVote (n : TileIx) (lossEntry : Fin 32)
  | gatherCsr (q : WayIx) (n : TileIx) (d : BitVec 512)
  | gatherIdx (q : WayIx) (n : TileIx) (d : BitVec 512)
  | scatterIdx (q : WayIx) (n : TileIx) (d : BitVec 512)
  | copyIn (q : WayIx) (n : TileIx) (d : BitVec 512)
  | copyOut (q : WayIx) (n : TileIx) (d : BitVec 512)
  | segSum (t : EngIx) (n : TileIx) (d : BitVec 512)
  | segMax (t : EngIx) (n : TileIx) (d : BitVec 512)
  | segMean (t : EngIx) (n : TileIx) (d : BitVec 512)
  | segCount (t : EngIx) (n : TileIx) (d : BitVec 512)
  | segDot (t : EngIx) (n : TileIx) (d : BitVec 512)
  | segPair (t : EngIx) (n : TileIx) (d : BitVec 512)
  | exp (k : EngIx) (n : TileIx) (d : BitVec 256)
  | log (k : EngIx) (n : TileIx) (d : BitVec 256)
  | recip (k : EngIx) (n : TileIx) (d : BitVec 256)
  | rsqrt (k : EngIx) (n : TileIx) (d : BitVec 256)
  | tanh (k : EngIx) (n : TileIx) (d : BitVec 256)
  | sigmoid (k : EngIx) (n : TileIx) (d : BitVec 256)
  | add (n : TileIx) (d : BitVec 512)
  | mul (n : TileIx) (d : BitVec 512)
  | fma (n : TileIx) (d : BitVec 512)
  | cmp (n : TileIx) (d : BitVec 512)
  | sel (n : TileIx) (d : BitVec 512)
  | min (n : TileIx) (d : BitVec 512)
  | max (n : TileIx) (d : BitVec 512)
  | perm (n : TileIx) (d : BitVec 512)
  | cvt (n : TileIx) (d : BitVec 512)
  | scrub (c : ChIx) (line : Nat) (symErrs rereadErrs : Nat)
  | refresh (c : ChIx) (temp : Nat)
  | recalibration (c : ChIx)
  | recalibrationEnd (c : ChIx) (ok : Bool)
  | wcTimerExpire (k : StackIx) (pos : Fin 8) (line : Nat)
  | migrationReq (value : U64)
  | migrationLineCopy (symErrs : Nat)
  | channelDead (c : ChIx)
  | vote (p : PortIx) (f : DataFrame)
  | voteDeadline
  | commit (dec : Decision)
  | discard (dec : Decision)
  | decisionQuery (p : PortIx) (src : BitVec 16) (step : U64)
  | portTrainingDone (p : PortIx) (st : TrainStage)
  | ident (p : PortIx) (body : Option IdentBody)
  | probe (p : PortIx) (body : ProbeBody) (arrival : U64)
  | laneFail (p : PortIx) (usable : Nat)
  | linkAck (p : PortIx) (hdr : LinkHeader)
  | resendTimeout (p : PortIx)
  | bcast (n : TileIx) (d : BitVec 512)
  | reduce (n : TileIx) (d : BitVec 512)
  | send (n : TileIx) (d : BitVec 512)
  | recv (n : TileIx) (d : BitVec 512)
  | ready (src : BitVec 16) (body : ReadyBody)
  | broadcastData (p : PortIx) (f : DataFrame)
  | reduceContribution (p : PortIx) (f : DataFrame)
  | podPartial (p : PortIx) (f : DataFrame)
  | sendData (p : PortIx) (f : DataFrame)
  | bridgeSlotResult (p : PortIx) (f : DataFrame)
  | go (key : CollKey) (slot0 slot1 : Option Nat)
  | slotGrant (plane : Fin 2) (key : CollKey) (slot : Nat)
  | slotBusy (plane : Fin 2) (key : CollKey)
  | slotReqTimeout (plane : Fin 2) (key : CollKey)
  | markerSend
  | marker (p : PortIx) (period phaseTick : U32) (corrNs : Nat) (ownPhaseNs : Int)
  | markerLossTimeout
  | releaseBuffer (value : U64)
  | returnGranule (value : U64)
  | returnAll (value : U64)
  | hostMemRead (off len : Nat)
  | hostMemWrite (off : Nat) (bytes : List Byte)
  | cxlSnoop (addr : U64)
  | globalPersistentFlush
  | mbxDataWrite (c : MbxIx) (sender : MbxEnd) (col : Fin 8) (w : Fin 8) (v : U64)
  | doorbell (c : MbxIx) (sender : MbxEnd) (col : Fin 8)
  | rxEmpty (c : MbxIx) (receiver : MbxEnd) (col : Fin 8)
  | rxReset (c : MbxIx) (receiver : MbxEnd) (col : Fin 8)
  | waybillWrite (part : BitVec 16) (last : Bool) (img : WaybillImage)
  | enrol (key : BitVec 1064) (devIdDigest : Digest) (nonce : BitVec 256) (sig : Signed)
  | setMinSeq (value : U32) (sig : Signed)
  | restartAtBoundary (fromFn1 : Bool) (env : StartEnv)
  | restartImmediate (fromFn1 : Bool) (env : StartEnv)
  | startRetry (fromFn1 : Bool) (env : StartEnv)
  | status
  | doeDiscovery (fn1 : Bool) (index : Nat)
  | cxlTableAccess (entry : Nat)
  | getVersion
  | getCapabilities
  | negotiateAlgorithms
  | getDigests
  | getCertificate (slot : Nat) (off len : Nat)
  | challenge (slot : Nat) (nonce : BitVec 256)
  | getMeasurements (index : Nat) (signed : Bool) (nonce : BitVec 256)
  | spdmUnsupportedRequest (code : Byte)
  | errorRecordPost (errs : List PostedError)
  | errorRecordHandle
  | watchdogExpire (u : CoreUnit)
  | innkeeperRestartDone
  | cperGet (c : MbxIx)
  | cperAck (c : MbxIx) (record : U32)
  | ledgerWrite
  | ledgerXspiCopy
  | assaySweepDone
  | castReq
  | castPageCopy (t : Tier)
  | castTierComplete (t : Tier)
  | exportSlot
  | castWindowFill
  | nextWindow
  | stored
  | restoreGo (value : U64)
  | restoreFetchDone (r : FetchOutcome)
  | dumpAll
  | clear (b : PerfIx)
  | perfSelWrite (b : PerfIx) (i : Fin 8) (value : U64)
  | perfDump (b : PerfIx)
  | perfRingRecordWrite
  | registerWrite (fn1 : Bool) (off : Nat) (half : Bool) (value : U64)
  | collectiveAck (key : CollKey) (src : BitVec 16) (chunkIdx : U32)
  | uncorrectableCodeword (p : PortIx)
  | guestCastData (first : Bool) (off : Nat) (bytes : List Byte)
  | guestSlotFetch (step : U64)
  | partnerCastReport (imageSize : Option Nat) (noUsableCast : Bool)
  | dramCeHourlyRecord
  | markerMissed
  | presentSMade
  deriving DecidableEq, Repr

end Sys2Proof
end

