-- ==== Sys2Proof/Decode.lean ====
section
/-! DEFINITION. The command that a word of the table spells: the table gives bits to no row, so no word spells a command. -/

namespace Sys2Proof

/-- The command of a word of `nbits` bits: none, for spec/opcode_table.json gives no row bits (R10 to R16 give registers, not words,
and the commands are the block's own events). -/
def decodeTableWord (_nbits _w : Nat) : Option Instr := none

end Sys2Proof
end

