-- ==== Sys2Proof/Machine/Bits.lean ====
section
/-! DEFINITION. Bit fields of numbers, little-endian bytes (R52, R72, R241, R270), saturating counts. -/

namespace Sys2Proof.Machine

/-- Bits hi:lo of a number (R4). -/
def bits (x hi lo : Nat) : Nat := x / 2 ^ lo % 2 ^ (hi + 1 - lo)

/-- Bit b of a number (R4). -/
def bit (x b : Nat) : Bool := x / 2 ^ b % 2 == 1

/-- 1 for true, 0 for false. -/
def b2n (b : Bool) : Nat := if b then 1 else 0

/-- Bits hi:lo of word w of a descriptor of 64-bit words. -/
def dfld {n : Nat} (d : BitVec n) (w hi lo : Nat) : Nat := bits d.toNat (64 * w + hi) (64 * w + lo)

/-- Bit b of word w of a descriptor. -/
def dbit {n : Nat} (d : BitVec n) (w b : Nat) : Bool := bit d.toNat (64 * w + b)

/-- The value of bytes in little-endian order. -/
def leNat : List Byte → Nat
  | [] => 0
  | b :: bs => b.toNat + 256 * leNat bs

/-- `n` bytes of a number in little-endian order. -/
def leBytes : Nat → Nat → List Byte
  | 0, _ => []
  | n + 1, x => BitVec.ofNat 8 x :: leBytes n (x / 256)

/-- Sum that saturates at `top`. -/
def satAdd (top a b : Nat) : Nat := Nat.min top (a + b)

/-- The `n` bytes from byte `o` of a list, zeros past its end. -/
def sliceBytes (l : List Byte) (o n : Nat) : List Byte :=
  let t := (l.drop o).take n
  t ++ List.replicate (n - t.length) 0

/-- Cut a list into pieces of `n` (the last may be shorter); `fuel` bounds the number of pieces. -/
def chunksOf {α : Type} (n : Nat) : Nat → List α → List (List α)
  | 0, _ => []
  | fuel + 1, l => if l.isEmpty then [] else l.take n :: chunksOf n fuel (l.drop n)

/-- FP32 words of bytes. -/
def words32 (b : List Byte) : List U32 := (chunksOf 4 b.length b).map (fun w => BitVec.ofNat 32 (leNat w))

/-- Bytes of FP32 words. -/
def wordBytes (l : List U32) : List Byte := (l.map (fun w => leBytes 4 w.toNat)).flatten

/-- A packed number from elements of w bits at their positions. -/
def packElems (w : Nat) (l : List (Nat × Nat)) : Nat := l.foldl (fun x e => x + e.2 % 2 ^ w * 2 ^ (w * e.1)) 0

/-- Element e of a packed number of elements of w bits (R52, R54). -/
def elemOf (w x e : Nat) : Nat := x / 2 ^ (w * e) % 2 ^ w

/-- Least multiple of `m` that is at least `x`. -/
def roundUp (x m : Nat) : Nat := (x + m - 1) / m * m

/-- Two's complement value of the low `w` bits. -/
def toSigned (w x : Nat) : Int := if x % 2 ^ w < 2 ^ (w - 1) then (x % 2 ^ w : Nat) else (x % 2 ^ w : Nat) - (2 ^ w : Nat)

/-- The low `w` bits of a two's complement value. -/
def ofSigned (w : Nat) (v : Int) : Nat := (v % (2 ^ w : Nat)).toNat

end Sys2Proof.Machine
end

