-- ==== Sys2Proof/Machine/Fp.lean ====
section
/-! DEFINITION. Binary floating point: exact dyadic values, rounding to nearest even under IEEE 754, and the FP32 operations of the
vector lanes, adders and combines (R46, R203, R243, R289). -/

namespace Sys2Proof.Machine

/-- The value of a floating-point code: not a number, an infinity, or (−1)^neg × m × 2^e. -/
inductive Fv where
  | nan
  | inf (neg : Bool)
  | fin (neg : Bool) (m : Nat) (e : Int)
  deriving DecidableEq, Repr

/-- Number of bits of a natural number. -/
def bitLen (n : Nat) : Nat := if n = 0 then 0 else Nat.log2 n + 1

/-- m × 2^(−k) rounded to the nearest integer, ties to even. -/
def shiftRne (m k : Nat) : Nat :=
  let q := m / 2 ^ k
  let r := m % 2 ^ k
  if k = 0 then m
  else if r * 2 < 2 ^ k then q
  else if r * 2 = 2 ^ k then q + q % 2
  else q + 1

/-- n / d rounded to the nearest integer, ties to even. -/
def divRne (n d : Nat) : Nat :=
  let q := n / d
  let r := n % d
  if r * 2 < d then q else if r * 2 = d then q + q % 2 else q + 1

/-- A binary format: exponent bits, mantissa bits, bias (IEEE layout with infinities and NaNs). -/
structure Bin where
  ebits : Nat
  mbits : Nat
  bias  : Nat
  deriving DecidableEq, Repr

def binFp32 : Bin := ⟨8, 23, 127⟩
def binBf16 : Bin := ⟨8, 7, 127⟩
def binFp16 : Bin := ⟨5, 10, 15⟩

/-- The value of a code of a format with infinities and NaNs. -/
def Bin.value (b : Bin) (c : Nat) : Fv :=
  let neg := bit c (b.ebits + b.mbits)
  let e := bits c (b.ebits + b.mbits - 1) b.mbits
  let m := c % 2 ^ b.mbits
  if e = 2 ^ b.ebits - 1 then (if m = 0 then .inf neg else .nan)
  else if e = 0 then .fin neg m (1 - (b.bias : Int) - b.mbits)
  else .fin neg (2 ^ b.mbits + m) ((e : Int) - b.bias - b.mbits)

/-- The code of the nearest value of a format (RNE); overflow gives infinity. -/
def Bin.round (b : Bin) (neg : Bool) (m : Nat) (e : Int) : Nat :=
  let s := if neg then 2 ^ (b.ebits + b.mbits) else 0
  if m = 0 then s else
  let emin : Int := 1 - (b.bias : Int) - b.mbits
  let q : Int := max ((bitLen m : Int) + e - (b.mbits + 1)) emin
  let r := if q ≤ e then m * 2 ^ (e - q).toNat else shiftRne m (q - e).toNat
  -- r has at most mbits + 2 bits; a carry to 2^(mbits+1) moves to the next exponent by itself
  let c := if r < 2 ^ b.mbits then r else (q - emin).toNat * 2 ^ b.mbits + r
  s + Nat.min c ((2 ^ b.ebits - 1) * 2 ^ b.mbits)

def binFp64 : Bin := ⟨11, 52, 1023⟩

/-- The code nearest to the quotient n / d (RNE): 64 quotient bits with what remains as a sticky bit settle every rounding. -/
def Bin.roundQuot (b : Bin) (neg : Bool) (n d : Nat) : Nat :=
  let k := bitLen d + 66 - bitLen n
  let q := n * 2 ^ k / d
  let r := n * 2 ^ k % d
  b.round neg (2 * q + (if r = 0 then 0 else 1)) (-(k : Int) - 1)

/-- The code of a value in a format; a NaN is the quiet NaN with no payload. -/
def Bin.code (b : Bin) (v : Fv) : Nat :=
  match v with
  | .nan => (2 ^ b.ebits - 1) * 2 ^ b.mbits + 2 ^ (b.mbits - 1)
  | .inf n => (2 ^ b.ebits - 1) * 2 ^ b.mbits + (if n then 2 ^ (b.ebits + b.mbits) else 0)
  | .fin n m e => b.round n m e

/-- Canonical NaN of FP32 (R46). -/
def nan32 : U32 := 0x7FC00000#32

def fv32 (x : U32) : Fv := binFp32.value x.toNat

def round32 (neg : Bool) (m : Nat) (e : Int) : U32 := BitVec.ofNat 32 (binFp32.round neg m e)

def inf32 (neg : Bool) : U32 := if neg then 0xFF800000#32 else 0x7F800000#32

def isNan32 (x : U32) : Bool := match fv32 x with | .nan => true | _ => false
def isFin32 (x : U32) : Bool := match fv32 x with | .fin _ _ _ => true | _ => false
def neg32 (x : U32) : Bool := x.toNat / 2 ^ 31 == 1

/-- The code of a value in FP32. -/
def code32 (v : Fv) : U32 :=
  match v with
  | .nan => nan32
  | .inf n => inf32 n
  | .fin n m e => round32 n m e

/-- Signed integer value of a dyadic at exponent e0 ≤ e. -/
def scaled (neg : Bool) (m : Nat) (e e0 : Int) : Int :=
  let v : Int := (m * 2 ^ (e - e0).toNat : Nat)
  if neg then -v else v

/-- Exact sum of two values; a zero sum of values of unlike sign is +0. -/
def addFv (a b : Fv) : Fv :=
  match a, b with
  | .nan, _ => .nan
  | _, .nan => .nan
  | .inf x, .inf y => if x == y then .inf x else .nan
  | .inf x, _ => .inf x
  | _, .inf y => .inf y
  | .fin x m e, .fin y m' e' =>
    let e0 := min e e'
    let v := scaled x m e e0 + scaled y m' e' e0
    if v = 0 then .fin (x && y) 0 e0 else .fin (decide (v < 0)) v.natAbs e0

/-- Exact product. -/
def mulFv (a b : Fv) : Fv :=
  match a, b with
  | .nan, _ => .nan
  | _, .nan => .nan
  | .inf x, .inf y => .inf (x != y)
  | .inf x, .fin y m _ => if m = 0 then .nan else .inf (x != y)
  | .fin x m _, .inf y => if m = 0 then .nan else .inf (x != y)
  | .fin x m e, .fin y m' e' => .fin (x != y) (m * m') (e + e')

def negFv : Fv → Fv
  | .nan => .nan
  | .inf x => .inf (!x)
  | .fin x m e => .fin (!x) m e

/-- FP32 operations, RNE. -/
def add32 (a b : U32) : U32 := code32 (addFv (fv32 a) (fv32 b))
def sub32 (a b : U32) : U32 := code32 (addFv (fv32 a) (negFv (fv32 b)))
def mul32 (a b : U32) : U32 := code32 (mulFv (fv32 a) (fv32 b))

/-- Order of two values that are not NaN: a < b. -/
def ltFv (a b : Fv) : Bool :=
  match a, b with
  | .nan, _ => false
  | _, .nan => false
  | .inf x, .inf y => x && !y
  | .inf x, _ => x
  | _, .inf y => !y
  | .fin x m e, .fin y m' e' =>
    let e0 := min e e'
    decide (scaled x m e e0 < scaled y m' e' e0)

/-- Numeric equality of two values that are not NaN. -/
def eqFv (a b : Fv) : Bool :=
  match a, b with
  | .nan, _ => false
  | _, .nan => false
  | .inf x, .inf y => x == y
  | .inf _, _ => false
  | _, .inf _ => false
  | .fin x m e, .fin y m' e' =>
    let e0 := min e e'
    decide (scaled x m e e0 = scaled y m' e' e0)

/-- One level of the pairwise order of R137. -/
def pairUp {α : Type} (add : α → α → α) : List α → List α
  | a :: b :: l => add a b :: pairUp add l
  | l => l

/-- The pairwise order of R137; `fuel` at least the number of levels. -/
def pairwiseFuel {α : Type} (add : α → α → α) : Nat → List α → List α
  | 0, l => l
  | fuel + 1, l => if l.length ≤ 1 then l else pairwiseFuel add fuel (pairUp add l)

def pairwise {α : Type} (add : α → α → α) (z : α) (l : List α) : α := ((pairwiseFuel add (bitLen l.length + 1) l).head?).getD z

end Sys2Proof.Machine
end

