-- ==== Sys2Proof/Machine/Formats.lean ====
section
/-! DEFINITION. The element formats (R36 to R47), their values, rounding onto their grids (R58 to R64), saturation and flush (R66 to R69),
non-finite inputs (R70), and conversion of one element (R48, R49). -/

namespace Sys2Proof.Machine

/-! Format codes of R79. -/

def fFp4 : Nat := 0
def fInt4 : Nat := 1
def fG4 : Nat := 2
def fW2 : Nat := 3
def fW1 : Nat := 4
def fInt8 : Nat := 5
def fE4m3 : Nat := 6
def fE5m2 : Nat := 7
def fUe5m3 : Nat := 8
def fBf16 : Nat := 9
def fFp16 : Nat := 10
def fFp32 : Nat := 11
def fInt32 : Nat := 12

/-- A format code that is not reserved (R79). -/
def fmtOk (f : Nat) : Bool := decide (f ≤ 12)

/-- Formats that are always block-scaled: FP4, INT4, G4, W2, W1 (R50). -/
def narrow (f : Nat) : Bool := decide (f ≤ 4)

/-- The eight-bit floating formats. -/
def fp8 (f : Nat) : Bool := decide (6 ≤ f ∧ f ≤ 8)

/-- Formats without any block scale: INT8, BF16, FP16, FP32, INT32. -/
def plain (f : Nat) : Bool := f == 5 || decide (9 ≤ f)

/-- Bits of an element (R36). -/
def fmtBits (f : Nat) : Nat :=
  if f ≤ 2 then 4 else if f == 3 then 2 else if f == 4 then 1 else if f ≤ 8 then 8 else if f ≤ 10 then 16 else 32

/-- Bytes of a block of 64 elements (R50). -/
def blockBytes (f : Nat) : Nat := 8 * fmtBits f

/-- Bytes of an element of a format of at least 8 bits. -/
def elemBytes (f : Nat) : Nat := fmtBits f / 8

/-! Values (R38 to R46). -/

/-- Value of a small float without special codes: sign, exponent of bias b, mantissa. -/
def miniValue (eb mb bias c : Nat) : Fv :=
  let neg := bit c (eb + mb)
  let e := bits c (eb + mb - 1) mb
  let m := c % 2 ^ mb
  if e = 0 then .fin neg m (1 - (bias : Int) - mb) else .fin neg (2 ^ mb + m) ((e : Int) - bias - mb)

/-- The value of a code as a signed integer of w bits. -/
def intValue (w c : Nat) : Fv := let v := toSigned w c; .fin (decide (v < 0)) v.natAbs 0

/-- A UE5M3 code (R45). -/
def ue5m3Value (c : Nat) : Fv := miniValue 5 3 15 (c % 256)

def fmtBin (f : Nat) : Bin := if f == 7 then ⟨5, 2, 15⟩ else if f == 9 then binBf16 else if f == 10 then binFp16 else binFp32

/-- The value of a code (R38 to R46); FP4 and G4 code 0b1000 read as zero (R42). -/
def elemValue (f c : Nat) : Fv :=
  if f == 0 then (if c % 16 == 8 then .fin false 0 0 else miniValue 2 1 1 (c % 16))
  else if f == 1 then intValue 4 c
  else if f == 2 then (if c % 8 == 0 then .fin false 0 0 else .fin (bit c 3) 1 (((c % 8 : Nat) : Int) - 4))
  else if f == 3 then .fin (bit c 1) (if bit c 0 then 3 else 1) (-1)
  else if f == 4 then .fin (bit c 0) 1 0
  else if f == 5 then intValue 8 c
  else if f == 6 then (if c % 128 == 127 then .nan else miniValue 4 3 7 (c % 256))
  else if f == 8 then ue5m3Value c
  else if f == 12 then intValue 32 c
  else (fmtBin f).value c

/-! Codes of special results. -/

/-- Bits of the sign position. -/
def signBit (f : Nat) (neg : Bool) : Nat :=
  if !neg then 0 else if f == 8 || f == 1 || f == 5 || f == 12 then 0 else 2 ^ (fmtBits f - 1)

/-- Code of the largest finite magnitude without its sign. -/
def maxCode (f : Nat) : Nat :=
  if f == 0 then 7 else if f == 1 then 7 else if f == 2 then 7 else if f == 3 then 1 else if f == 4 then 0 else if f == 5 then 127
  else if f == 6 then 0x7E else if f == 7 then 0x7B else if f == 8 then 0xFF else if f == 9 then 0x7F7F else if f == 10 then 0x7BFF
  else if f == 11 then 0x7F7FFFFF else 0x7FFFFFFF

/-- The largest magnitude with a sign; the most negative integer for an integer format, 0x00 for a negative UE5M3 (R67, R70). -/
def satCode (f : Nat) (neg : Bool) : Nat :=
  if neg && (f == 1 || f == 5 || f == 12) then 2 ^ (fmtBits f - 1)
  else if neg && f == 8 then 0
  else maxCode f + signBit f neg

/-- The canonical NaN, or what a NaN gives in a format without one (R46, R70). -/
def nanCode (f : Nat) : Nat :=
  if f == 6 then 0x7F else if f == 7 then 0x7E else if f == 9 then 0x7FC0 else if f == 10 then 0x7E00 else if f == 11 then 0x7FC00000 else 0

/-- What an overflow gives (R67), and an infinity (R70): OVF = 1 gives an infinity, or NaN with the sign in E4M3. -/
def overCode (f : Nat) (neg ovf : Bool) : Nat :=
  if !ovf then satCode f neg
  else if f == 6 then 0x7F + signBit f neg
  else if f == 7 || f == 9 || f == 10 || f == 11 then (fmtBin f).code (.inf neg)
  else satCode f neg

/-! Rounding. -/

/-- Significant bits of a floating target, and the exponent of its smallest spacing: the grid of R66. -/
def gridP (f : Nat) : Nat :=
  if f == 0 then 2 else if f == 2 then 1 else if f == 6 || f == 8 then 4 else if f == 7 then 3 else if f == 9 then 8 else if f == 10 then 11 else 24

def gridE (f : Nat) : Int :=
  if f == 0 then -1 else if f == 2 then -3 else if f == 6 then -9 else if f == 8 then -17 else if f == 7 then -16 else if f == 9 then -133
  else if f == 10 then -24 else -149

/-- An integer target. -/
def isIntFmt (f : Nat) : Bool := f == 1 || f == 5 || f == 12

/-- The lower neighbour of m × 2^e on the unbounded grid: how many spacings, the spacing's exponent, and the part above it as a fraction. -/
structure Below where
  n : Nat
  qe : Int
  num : Nat
  den : Nat
  deriving DecidableEq, Repr

def below (f m : Nat) (e : Int) : Below :=
  let qe : Int := if isIntFmt f then 0 else max ((bitLen m : Int) + e - gridP f) (gridE f)
  if qe ≤ e then ⟨m * 2 ^ (e - qe).toNat, qe, 0, 1⟩
  else let d := 2 ^ (qe - e).toNat; ⟨m / d, qe, m % d, d⟩

/-- The lower neighbour is the one a tie goes to (R60): an even mantissa or integer, an even exponent field for G4. -/
def tieDown (f : Nat) (b : Below) : Bool :=
  if f == 2 then (if b.n == 0 then true else (b.qe + 4) % 2 == 0) else b.n % 2 == 0

/-- Rounding modes of R58; 3 is performed as RNE. -/
def rndMode (r : Nat) : Nat := if r == 3 then 0 else r

/-- Whether rounding moves up from the lower neighbour of the magnitude: RNE, RTZ, or SR with the draw `u` (R60, R61). -/
def roundsUp (f rnd u : Nat) (neg : Bool) (b : Below) : Bool :=
  if b.num == 0 then false
  else if rndMode rnd == 0 then (if 2 * b.num == b.den then !tieDown f b else decide (b.den < 2 * b.num))
  else if rndMode rnd == 1 then false
  else if neg then !decide (u < 65536 * (b.den - b.num) / b.den)
  else decide (u < 65536 * b.num / b.den)

/-- The magnitude's code, unbounded, for n spacings of 2^qe. -/
def gridCode (f n : Nat) (qe : Int) : Nat :=
  if isIntFmt f then n
  else if f == 2 then (if n == 0 then 0 else (qe + 4).toNat + (n - 1))
  else
    let mb := gridP f - 1
    if n < 2 ^ mb then n else (qe - gridE f).toNat * 2 ^ mb + n

/-- What the conversion of one element gives. -/
structure Elem where
  code : Nat
  sat : Bool
  flush : Bool
  nonfin : Bool
  deriving DecidableEq, Repr

def exactElem (c : Nat) : Elem := ⟨c, false, false, false⟩

/-- W2 (R41, R60, R66): spacings of 1 from 0.5. q is m × 2^e. -/
def roundW2 (rnd u : Nat) (neg : Bool) (m : Nat) (e : Int) : Elem :=
  -- twice the magnitude as a fraction a / d
  let d := if e + 1 < 0 then 2 ^ (-(e + 1)).toNat else 1
  let a := if e + 1 < 0 then m else m * 2 ^ (e + 1).toNat
  if a < d then
    -- below 0.5: nearest and toward zero keep the sign, SR draws between −0.5 and 0.5
    let up := if neg then decide (u < 65536 * (d - a) / (2 * d)) else decide (u < 65536 * (d + a) / (2 * d))
    if rndMode rnd == 2 then exactElem (if up then 0 else 2) else exactElem (if neg then 2 else 0)
  else
    let n := (a - d) / (2 * d)
    let r := (a - d) % (2 * d)
    let up := if r == 0 then false
      else if rndMode rnd == 0 then decide (d < r)
      else if rndMode rnd == 1 then false
      else if neg then !decide (u < 65536 * (2 * d - r) / (2 * d))
      else decide (u < 65536 * r / (2 * d))
    let k := if up then n + 1 else n
    ⟨Nat.min k 1 + (if neg then 2 else 0), decide (1 < k), false, false⟩

/-- A magnitude below half the smallest non-zero one of the target (R68). -/
def belowHalf (f m : Nat) (e : Int) : Bool :=
  let ge : Int := if isIntFmt f then 0 else gridE f
  let t : Int := ge - 1 - e
  decide (0 < t) && decide (m < 2 ^ t.toNat)

/-- Zero with the sign where the format keeps one (R42, R68). -/
def zeroCode (f : Nat) (neg : Bool) : Nat := if f ≤ 2 || f == 8 then 0 else signBit f neg

/-- A finite q rounded to a target (R49, R60 to R69). -/
def roundFin (f rnd u : Nat) (ovf neg : Bool) (m : Nat) (e : Int) : Elem :=
  if f == 4 then exactElem (b2n neg)
  else if f == 3 then roundW2 rnd u neg m e
  else if m = 0 then exactElem (zeroCode f neg)
  else if f == 8 && neg then ⟨0, true, false, false⟩
  else if belowHalf f m e then ⟨zeroCode f neg, false, true, false⟩
  else
    let b := below f m e
    let n := if roundsUp f rnd u neg b then b.n + 1 else b.n
    let c := gridCode f n b.qe
    if c == 0 then ⟨zeroCode f neg, false, true, false⟩
    else if isIntFmt f then
      if neg then (if 2 ^ (fmtBits f - 1) < c then ⟨satCode f true, true, false, false⟩ else exactElem (2 ^ fmtBits f - c))
      else if maxCode f < c then ⟨satCode f false, true, false, false⟩ else exactElem c
    else if maxCode f < c then ⟨overCode f neg ovf, true, false, false⟩
    else exactElem (c + signBit f neg)

/-- A non-finite input (R70, R71). -/
def roundNonfin (f : Nat) (ovf : Bool) (x : Fv) : Elem :=
  match x with
  | .inf neg => ⟨if f == 4 then b2n neg else overCode f neg ovf, false, false, true⟩
  | _ => ⟨nanCode f, false, false, true⟩

/-- A value rounded to a target; `finite` says that the input of the conversion was finite: q itself may still exceed every magnitude. -/
def roundElem (f rnd u : Nat) (ovf : Bool) (finite : Bool) (q : Fv) : Elem :=
  match q with
  | .fin neg m e => roundFin f rnd u ovf neg m e
  | .inf neg =>
    if !finite then roundNonfin f ovf q
    else if f == 4 then exactElem (b2n neg)
    else ⟨if f == 8 && neg then 0 else overCode f neg ovf, true, false, false⟩
  | .nan => if finite then exactElem (zeroCode f false) else roundNonfin f ovf q

/-! Dequantise and quantise (R48, R49). -/

def fone : Fv := .fin false 1 0

def isFinFv (v : Fv) : Bool := match v with | .fin _ _ _ => true | _ => false

/-- The magnitude. -/
def absFv : Fv → Fv
  | .nan => .nan
  | .inf _ => .inf false
  | .fin _ m e => .fin false m e

def isZeroFv (v : Fv) : Bool := match v with | .fin _ m _ => m == 0 | _ => false

/-- The quotient of two finite values, rounded once to FP32; a zero divisor gives an infinity, or NaN for 0 ÷ 0. -/
def div32 (a b : Fv) : U32 :=
  match a, b with
  | .nan, _ => nan32
  | _, .nan => nan32
  | .inf _, .inf _ => nan32
  | .inf x, .fin y _ _ => inf32 (x != y)
  | .fin x _ _, .inf y => if x != y then 0x80000000#32 else 0#32
  | .fin x m e, .fin y m' e' =>
    if m' = 0 then (if m = 0 then nan32 else inf32 (x != y)) else
    let d := e - e'
    let n := if 0 ≤ d then m * 2 ^ d.toNat else m
    let k := if 0 ≤ d then m' else m' * 2 ^ (-d).toNat
    BitVec.ofNat 32 (binFp32.roundQuot (x != y) n k)

/-- k = 1 ÷ (s_b × s_t), rounded once to FP32 (R49). -/
def quantK (sb st : Fv) : Fv := fv32 (div32 fone (mulFv sb st))

/-- A valid tensor scale: positive, finite, normal (R37). -/
def scaleOk (st : U32) : Bool := !neg32 st && isFin32 st && decide (0x00800000 ≤ st.toNat)

/-- An element's value in FP32 (R48); a block scale of 0x00 makes every element zero (R49). A NaN or infinity code in such a block reads as +0 too, and
so counts as no non-finite input: the spec fixes the zero and not the count (DESIGN CHOICE, log entry 83). -/
def dequant (f code : Nat) (sb st : Fv) : U32 :=
  if isZeroFv sb then 0#32 else code32 (mulFv (mulFv (elemValue f code) sb) st)

/-- Quantise a value: q = x × k exactly, rounded once (R49). A finite source element whose dequantised value overflowed FP32 arrives here as an
infinity and is counted and converted as one, and takes no part in the block maximum (DESIGN CHOICE, log entry 83). -/
def quantise (f rnd u : Nat) (ovf : Bool) (k x : Fv) : Elem :=
  if isZeroFv x then roundElem f rnd u ovf true x
  else roundElem f rnd u ovf (isFinFv x) (mulFv x k)

/-- The draw of R62. -/
def srMix (z : BitVec 64) : Nat :=
  let z1 := (z ^^^ (z >>> 30)) * 0xBF58476D1CE4E5B9#64
  let z2 := (z1 ^^^ (z1 >>> 27)) * 0x94D049BB133111EB#64
  (z2 ^^^ (z2 >>> 31)).toNat % 65536

def srDraw (step tensor idx : Nat) : Nat :=
  let key : BitVec 64 := BitVec.ofNat 64 (tensor % 2 ^ 24 * 2 ^ 40 + idx % 2 ^ 40)
  srMix (BitVec.ofNat 64 step + key * 0x9E3779B97F4A7C15#64)

/-! Block scales (R88 to R90). -/

/-- Q_max of R88 (R171 for UE5M3). -/
def qMax (f : Nat) : Fv :=
  if f == 0 then .fin false 6 0 else if f == 1 then .fin false 7 0 else if f == 2 then .fin false 8 0 else if f == 3 then .fin false 3 (-1)
  else if f == 4 then .fin false 1 0 else if f == 6 then .fin false 448 0 else if f == 7 then .fin false 57344 0 else .fin false 122880 0

/-- The smallest UE5M3 code whose value is not less than r; 0x01 below the smallest, 0xFF above the largest (R88, R89). -/
def ue5m3Ceil (r : Fv) : Nat :=
  match r with
  | .fin _ m e =>
    if m = 0 then 1 else
    let b := below 8 m e
    let n := if b.num == 0 then b.n else b.n + 1
    Nat.max 1 (Nat.min 255 (gridCode 8 n b.qe))
  | _ => 255

def maxFv (a b : Fv) : Fv := if ltFv a b then b else a
def minFv (a b : Fv) : Fv := if ltFv b a then b else a

/-- The block scale of R88 and R89 over values with their clip values: (x, C). -/
def deriveScale (f : Nat) (st : Fv) (xs : List (Fv × Fv)) : Nat :=
  let fins := xs.filter (fun p => isFinFv p.1)
  let mx := fins.foldl (fun a p => maxFv a (minFv (absFv p.1) p.2)) (.fin false 0 0)
  if isZeroFv mx then (if xs.any (fun p => match p.1 with | .inf _ => true | _ => false) then 0x78 else 0)
  else ue5m3Ceil (fv32 (div32 mx (fv32 (code32 (mulFv (qMax f) st)))))

/-- The block scale of R90: MEAN_ABS. -/
def meanScale (st : Fv) (xs : List Fv) : Nat :=
  let fins := xs.filter isFinFv
  if fins.isEmpty then 0x78 else
  let sum := fins.foldl (fun (a : U32) x => code32 (addFv (fv32 a) (absFv x))) 0#32
  let mean := div32 (fv32 sum) (.fin false fins.length 0)
  (roundElem 8 0 0 false true (fv32 (div32 (fv32 mean) st))).code

end Sys2Proof.Machine
end

