-- ==== Sys2Proof/Config.lean ====
section
/-! DEFINITION. What the spec leaves open: the free values. None of them has a body, so no proof can see what it is.
The counter `State.free`, or the operands a value depends on, are their arguments. -/

namespace Sys2Proof.Config

/-- A byte whose contents the spec leaves undefined: tile memory after a boundary or a start (R27), persistent pages after a
failed restore (R403). Arguments: the epoch, the address. -/
opaque freeByte : Nat → Nat → Byte

/-- A 32-bit word whose contents the spec leaves undefined: Crucible entries (R27, R132), scalar file entries released at a
boundary (R207). Arguments: the epoch, an index. -/
opaque freeWord : Nat → Nat → U32

/-- Which of the tiles that remain takes the work of a fenced tile (R31, R140: the spec names no rule). Arguments: the tile, the fenced tiles
as a mask. The meaning takes it modulo the number of tiles that remain. -/
opaque standIn : Nat → Nat → Nat

/-- What a Kiln would answer for an operation code and FP32 input bits (R195, R197: a fixed function of the input, known only
within an error bound). The meaning takes it only where it lies within the bound. -/
opaque kiln : Nat → U32 → U32

/-- The nonce of the n-th STATUS request (R337: a fresh nonce of 32 bytes). -/
opaque nonce : Nat → BitVec 256

/-- The seed that the PUF and the helper data give (R334: 512 bits, fixed for the module, not stated). -/
opaque seed : BitVec 512

/-- The public key of a P-521 private key, 133 bytes uncompressed (R334: the curve's arithmetic is not written out here). -/
opaque publicKey : Nat → BitVec 1064

/-- The certificates that Vorast writes at manufacture, in DER (R331, R335): 0 the root CA, 1 the product CA, 2 the DeviceID certificate. -/
opaque vorastCert : Nat → List Byte

/-- The DER bytes of an Alias certificate (R335: X.509 v3). Arguments: the Alias public key, the DeviceID public key that issues it, the values of
its extension in the order of R335. -/
opaque aliasCert : BitVec 1064 → BitVec 1064 → List Nat → List Byte

/-- The bytes of an entry of the CDAT (R348: not stated). Arguments: the entry, HDM_SIZE. -/
opaque cdat : Nat → Nat → List Byte

/-- The measurement of the ROM (R343: fixed for the stepping, its value not given). -/
opaque romDigest : Digest

/-- The measurement of MGT_IDENT and the straps (R343: the bytes hashed are not laid out). Arguments: MGT_IDENT, the straps' values. -/
opaque strapDigest : Nat → Nat → Nat → Nat → Digest

/-- FMT of a chunk whose payload is bytes without an element format (R270: the field holds a format code; such a chunk has none). -/
opaque byteFormat : BitVec 4

/-- COLL_SEQ of the chunks that the Timetable itself sends: votes, decisions, assay digests and verdicts (R284 numbers posted collectives). -/
opaque timetableSeq : U32

end Sys2Proof.Config
end

