-- ==== Sys2Proof/Machine/Regs.lean ====
section
/-! DEFINITION. The registers of the module: every field of every register card (offset, lowest bit, width), and the table of
cards with reset values and access masks (R10, R12, R425, the register index of Address Map and Register Index). The names are
the spec's, BLOCK_REG_FIELD; the number of a unit is an argument. Pigeonhole registers stand in State.mbx. -/

namespace Sys2Proof.Machine

/-- A register field (R9): offset of its register in function 0, lowest bit, width. -/
structure Field where
  off : Nat
  lo  : Nat
  w   : Nat
  deriving DecidableEq, Repr

/-- A register card: offset of the first of its registers, two strides with their counts, and for the register the reset value
(R12: the number; 0 for Waybill, start and strap) and the masks of its RW, RW1C and WO bits and of those a Waybill sets. -/
structure Card where
  base    : Nat
  stride  : Nat
  count   : Nat
  stride2 : Nat
  count2  : Nat
  reset   : Nat
  rw      : Nat
  rw1c    : Nat
  wo      : Nat
  waybill : Nat
  deriving DecidableEq, Repr

/-- Whether a register of the card stands at offset `o`; R426: counter blocks from 64 have four counters. -/
def Card.holds (c : Card) (o : Nat) : Bool :=
  if o < c.base then false else
  let r := o - c.base
  let i := if c.stride = 0 then 0 else Nat.min (r / c.stride) (c.count - 1)
  let r2 := r - i * c.stride
  let j := if c.stride2 = 0 then 0 else r2 / c.stride2
  let n2 := if c.count2 = 8 && 64 ≤ i then 4 else c.count2
  r2 - j * c.stride2 == 0 && decide (j < n2)

namespace F

/-! MGT_PERIOD_CFG0 (01_period_and_job.md) -/
/-- MGT_PERIOD_CFG0.INGEST_DL, bits 55:28, RO, reset Waybill. -/
def MGT_PERIOD_CFG0_INGEST_DL : Field := ⟨0x100, 28, 28⟩
/-- MGT_PERIOD_CFG0.PERIOD_TICKS, bits 27:0, RO, reset Waybill. -/
def MGT_PERIOD_CFG0_PERIOD_TICKS : Field := ⟨0x100, 0, 28⟩
/-! MGT_PERIOD_CFG1 (01_period_and_job.md) -/
/-- MGT_PERIOD_CFG1.TRAIN_DL, bits 55:28, RO, reset Waybill. -/
def MGT_PERIOD_CFG1_TRAIN_DL : Field := ⟨0x108, 28, 28⟩
/-- MGT_PERIOD_CFG1.INFER_DL, bits 27:0, RO, reset Waybill. -/
def MGT_PERIOD_CFG1_INFER_DL : Field := ⟨0x108, 0, 28⟩
/-! MGT_PERIOD_STAT (01_period_and_job.md) -/
/-- MGT_PERIOD_STAT.STEPS_DROPPED_LAST, bits 63:56, RO/V, reset 0. -/
def MGT_PERIOD_STAT_STEPS_DROPPED_LAST : Field := ⟨0x110, 56, 8⟩
/-- MGT_PERIOD_STAT.STEPS_SEALED_LAST, bits 55:48, RO/V, reset 0. -/
def MGT_PERIOD_STAT_STEPS_SEALED_LAST : Field := ⟨0x110, 48, 8⟩
/-- MGT_PERIOD_STAT.OUT_BLOCKED, bit 43, RW1C, reset 0. -/
def MGT_PERIOD_STAT_OUT_BLOCKED : Field := ⟨0x110, 43, 1⟩
/-- MGT_PERIOD_STAT.STEP_DROPPED, bit 42, RW1C, reset 0. -/
def MGT_PERIOD_STAT_STEP_DROPPED : Field := ⟨0x110, 42, 1⟩
/-- MGT_PERIOD_STAT.INFER_LATE, bit 41, RW1C, reset 0. -/
def MGT_PERIOD_STAT_INFER_LATE : Field := ⟨0x110, 41, 1⟩
/-- MGT_PERIOD_STAT.INGEST_LATE, bit 40, RW1C, reset 0. -/
def MGT_PERIOD_STAT_INGEST_LATE : Field := ⟨0x110, 40, 1⟩
/-- MGT_PERIOD_STAT.PHASE, bits 34:32, RO/V, reset 0. -/
def MGT_PERIOD_STAT_PHASE : Field := ⟨0x110, 32, 3⟩
/-- MGT_PERIOD_STAT.PERIOD_NUM, bits 31:0, RO/V, reset 0. -/
def MGT_PERIOD_STAT_PERIOD_NUM : Field := ⟨0x110, 0, 32⟩
/-! MGT_PERIOD_T0 (01_period_and_job.md) -/
/-- MGT_PERIOD_T0.T0, bits 63:0, RO/V, reset 0. -/
def MGT_PERIOD_T0_T0 : Field := ⟨0x118, 0, 64⟩
/-! TILEn_LDL_STAT (03_ladles_rotation_sprue.md) -/
/-- TILEn_LDL_STAT.LAST_REFUSED_TAG, bits 47:16, RO/V, reset 0. -/
def TILE_LDL_STAT_LAST_REFUSED_TAG (n : Nat) : Field := ⟨0x100400 + n * 0x10000, 16, 32⟩
/-- TILEn_LDL_STAT.LAST_REFUSED_LADLE, bits 15:14, RO/V, reset 0. -/
def TILE_LDL_STAT_LAST_REFUSED_LADLE (n : Nat) : Field := ⟨0x100400 + n * 0x10000, 14, 2⟩
/-- TILEn_LDL_STAT.BASIS_MISMATCH, bit 7, RW1C, reset 0. -/
def TILE_LDL_STAT_BASIS_MISMATCH (n : Nat) : Field := ⟨0x100400 + n * 0x10000, 7, 1⟩
/-- TILEn_LDL_STAT.BAD_LAYOUT, bit 6, RW1C, reset 0. -/
def TILE_LDL_STAT_BAD_LAYOUT (n : Nat) : Field := ⟨0x100400 + n * 0x10000, 6, 1⟩
/-- TILEn_LDL_STAT.BAD_SCALE, bit 5, RW1C, reset 0. -/
def TILE_LDL_STAT_BAD_SCALE (n : Nat) : Field := ⟨0x100400 + n * 0x10000, 5, 1⟩
/-- TILEn_LDL_STAT.ESCAPE_CAP, bit 4, RW1C, reset 0. -/
def TILE_LDL_STAT_ESCAPE_CAP (n : Nat) : Field := ⟨0x100400 + n * 0x10000, 4, 1⟩
/-- TILEn_LDL_STAT.OUTLIER_SPILL, bit 3, RW1C, reset 0. -/
def TILE_LDL_STAT_OUTLIER_SPILL (n : Nat) : Field := ⟨0x100400 + n * 0x10000, 3, 1⟩
/-- TILEn_LDL_STAT.NONFIN, bit 2, RW1C, reset 0. -/
def TILE_LDL_STAT_NONFIN (n : Nat) : Field := ⟨0x100400 + n * 0x10000, 2, 1⟩
/-- TILEn_LDL_STAT.FLUSH, bit 1, RW1C, reset 0. -/
def TILE_LDL_STAT_FLUSH (n : Nat) : Field := ⟨0x100400 + n * 0x10000, 1, 1⟩
/-- TILEn_LDL_STAT.SAT, bit 0, RW1C, reset 0. -/
def TILE_LDL_STAT_SAT (n : Nat) : Field := ⟨0x100400 + n * 0x10000, 0, 1⟩
/-! TILEn_LDL_STEP (03_ladles_rotation_sprue.md) -/
/-- TILEn_LDL_STEP.SPILL_CH, bits 63:32, RO/V, reset 0. -/
def TILE_LDL_STEP_SPILL_CH (n : Nat) : Field := ⟨0x100408 + n * 0x10000, 32, 32⟩
/-- TILEn_LDL_STEP.ESC_PASSES, bits 31:16, RO/V, reset 0. -/
def TILE_LDL_STEP_ESC_PASSES (n : Nat) : Field := ⟨0x100408 + n * 0x10000, 16, 16⟩
/-- TILEn_LDL_STEP.LAST_SPILL_LAYER, bits 11:0, RO/V, reset 0. -/
def TILE_LDL_STEP_LAST_SPILL_LAYER (n : Nat) : Field := ⟨0x100408 + n * 0x10000, 0, 12⟩
/-! TILEn_SPRUE_STAT (03_ladles_rotation_sprue.md) -/
/-- TILEn_SPRUE_STAT.SPRUE_PASSES, bits 63:32, RO/V, reset 0. -/
def TILE_SPRUE_STAT_SPRUE_PASSES (n : Nat) : Field := ⟨0x100410 + n * 0x10000, 32, 32⟩
/-- TILEn_SPRUE_STAT.TWO_PASS_BLOCKS, bits 31:16, RO/V, reset 0. -/
def TILE_SPRUE_STAT_TWO_PASS_BLOCKS (n : Nat) : Field := ⟨0x100410 + n * 0x10000, 16, 16⟩
/-- TILEn_SPRUE_STAT.BUSY, bit 0, RO/V, reset 0. -/
def TILE_SPRUE_STAT_BUSY (n : Nat) : Field := ⟨0x100410 + n * 0x10000, 0, 1⟩
/-! TILEn_MX_CFG (04_matrix_and_crucible.md) -/
/-- TILEn_MX_CFG.CKS_TOL, bits 12:8, RW, reset Waybill. -/
def TILE_MX_CFG_CKS_TOL (n : Nat) : Field := ⟨0x100300 + n * 0x10000, 8, 5⟩
/-- TILEn_MX_CFG.CKS_ACTION, bit 1, RW, reset Waybill. -/
def TILE_MX_CFG_CKS_ACTION (n : Nat) : Field := ⟨0x100300 + n * 0x10000, 1, 1⟩
/-- TILEn_MX_CFG.CKS_EN, bit 0, RW, reset Waybill. -/
def TILE_MX_CFG_CKS_EN (n : Nat) : Field := ⟨0x100300 + n * 0x10000, 0, 1⟩
/-! TILEn_MX_STAT (04_matrix_and_crucible.md) -/
/-- TILEn_MX_STAT.QUEUE_DEPTH, bits 39:32, RO/V, reset 0. -/
def TILE_MX_STAT_QUEUE_DEPTH (n : Nat) : Field := ⟨0x100308 + n * 0x10000, 32, 8⟩
/-- TILEn_MX_STAT.BUSY, bit 7, RO/V, reset 0. -/
def TILE_MX_STAT_BUSY (n : Nat) : Field := ⟨0x100308 + n * 0x10000, 7, 1⟩
/-- TILEn_MX_STAT.REFUSED, bit 4, RW1C, reset 0. -/
def TILE_MX_STAT_REFUSED (n : Nat) : Field := ⟨0x100308 + n * 0x10000, 4, 1⟩
/-- TILEn_MX_STAT.CKS_SKIPPED, bit 3, RW1C, reset 0. -/
def TILE_MX_STAT_CKS_SKIPPED (n : Nat) : Field := ⟨0x100308 + n * 0x10000, 3, 1⟩
/-- TILEn_MX_STAT.CKS_FAIL, bit 2, RW1C, reset 0. -/
def TILE_MX_STAT_CKS_FAIL (n : Nat) : Field := ⟨0x100308 + n * 0x10000, 2, 1⟩
/-- TILEn_MX_STAT.NONFIN_OUT, bit 1, RW1C, reset 0. -/
def TILE_MX_STAT_NONFIN_OUT (n : Nat) : Field := ⟨0x100308 + n * 0x10000, 1, 1⟩
/-- TILEn_MX_STAT.INT_SAT, bit 0, RW1C, reset 0. -/
def TILE_MX_STAT_INT_SAT (n : Nat) : Field := ⟨0x100308 + n * 0x10000, 0, 1⟩
/-! TILEn_MX_CKS (04_matrix_and_crucible.md) -/
/-- TILEn_MX_CKS.LAST_FAIL_TAG, bits 63:32, RO/V, reset 0. -/
def TILE_MX_CKS_LAST_FAIL_TAG (n : Nat) : Field := ⟨0x100310 + n * 0x10000, 32, 32⟩
/-- TILEn_MX_CKS.FAIL_OPS_STEP, bits 31:24, RO/V, reset 0. -/
def TILE_MX_CKS_FAIL_OPS_STEP (n : Nat) : Field := ⟨0x100310 + n * 0x10000, 24, 8⟩
/-- TILEn_MX_CKS.COL_VALID, bit 17, RO/V, reset 0. -/
def TILE_MX_CKS_COL_VALID (n : Nat) : Field := ⟨0x100310 + n * 0x10000, 17, 1⟩
/-- TILEn_MX_CKS.ROW_VALID, bit 16, RO/V, reset 0. -/
def TILE_MX_CKS_ROW_VALID (n : Nat) : Field := ⟨0x100310 + n * 0x10000, 16, 1⟩
/-- TILEn_MX_CKS.LAST_FAIL_COL, bits 15:8, RO/V, reset 0. -/
def TILE_MX_CKS_LAST_FAIL_COL (n : Nat) : Field := ⟨0x100310 + n * 0x10000, 8, 8⟩
/-- TILEn_MX_CKS.LAST_FAIL_ROW, bits 7:0, RO/V, reset 0. -/
def TILE_MX_CKS_LAST_FAIL_ROW (n : Nat) : Field := ⟨0x100310 + n * 0x10000, 0, 8⟩
/-! TILEn_MX_CRU (04_matrix_and_crucible.md) -/
/-- TILEn_MX_CRU.PEAK_SLOTS, bits 23:16, RO/V, reset 0. -/
def TILE_MX_CRU_PEAK_SLOTS (n : Nat) : Field := ⟨0x100318 + n * 0x10000, 16, 8⟩
/-- TILEn_MX_CRU.LIVE_SLOTS, bits 7:0, RO/V, reset 0. -/
def TILE_MX_CRU_LIVE_SLOTS (n : Nat) : Field := ⟨0x100318 + n * 0x10000, 0, 8⟩
/-! TILEn_DWQ_STAT (06_backward_and_update.md) -/
/-- TILEn_DWQ_STAT.FLUSHED, bit 62, RW1C, reset 0. -/
def TILE_DWQ_STAT_FLUSHED (n : Nat) : Field := ⟨0x100500 + n * 0x10000, 62, 1⟩
/-- TILEn_DWQ_STAT.DRAIN_REQ, bit 61, RO/V, reset 0. -/
def TILE_DWQ_STAT_DRAIN_REQ (n : Nat) : Field := ⟨0x100500 + n * 0x10000, 61, 1⟩
/-- TILEn_DWQ_STAT.DRAINED, bit 60, RO/V, reset 0. -/
def TILE_DWQ_STAT_DRAINED (n : Nat) : Field := ⟨0x100500 + n * 0x10000, 60, 1⟩
/-- TILEn_DWQ_STAT.FORCED, bits 47:32, RO/V, reset 0. -/
def TILE_DWQ_STAT_FORCED (n : Nat) : Field := ⟨0x100500 + n * 0x10000, 32, 16⟩
/-- TILEn_DWQ_STAT.PEAK_DEPTH, bits 24:16, RO/V, reset 0. -/
def TILE_DWQ_STAT_PEAK_DEPTH (n : Nat) : Field := ⟨0x100500 + n * 0x10000, 16, 9⟩
/-- TILEn_DWQ_STAT.DEPTH, bits 8:0, RO/V, reset 0. -/
def TILE_DWQ_STAT_DEPTH (n : Nat) : Field := ⟨0x100500 + n * 0x10000, 0, 9⟩
/-! TILEn_UPD_STAT (06_backward_and_update.md) -/
/-- TILEn_UPD_STAT.UPDATE_SKIPPED, bit 57, RW1C, reset 0. -/
def TILE_UPD_STAT_UPDATE_SKIPPED (n : Nat) : Field := ⟨0x100508 + n * 0x10000, 57, 1⟩
/-- TILEn_UPD_STAT.SHADOW_EXHAUST, bit 56, RW1C, reset 0. -/
def TILE_UPD_STAT_SHADOW_EXHAUST (n : Nat) : Field := ⟨0x100508 + n * 0x10000, 56, 1⟩
/-- TILEn_UPD_STAT.SHADOW_PAGES, bits 47:32, RO/V, reset 0. -/
def TILE_UPD_STAT_SHADOW_PAGES (n : Nat) : Field := ⟨0x100508 + n * 0x10000, 32, 16⟩
/-- TILEn_UPD_STAT.RANGE_CLAMP, bits 31:24, RO/V, reset 0. -/
def TILE_UPD_STAT_RANGE_CLAMP (n : Nat) : Field := ⟨0x100508 + n * 0x10000, 24, 8⟩
/-- TILEn_UPD_STAT.RESID_SAT, bits 23:0, RO/V, reset 0. -/
def TILE_UPD_STAT_RESID_SAT (n : Nat) : Field := ⟨0x100508 + n * 0x10000, 0, 24⟩
/-! TILEn_VE_STATUS (07_graph_and_vector_engines.md) -/
/-- TILEn_VE_STATUS.LAST_OOR_TAG, bits 63:32, RO/V, reset 0. -/
def TILE_VE_STATUS_LAST_OOR_TAG (n : Nat) : Field := ⟨0x100600 + n * 0x10000, 32, 32⟩
/-- TILEn_VE_STATUS.QUEUE_DEPTH, bits 23:16, RO/V, reset 0. -/
def TILE_VE_STATUS_QUEUE_DEPTH (n : Nat) : Field := ⟨0x100600 + n * 0x10000, 16, 8⟩
/-- TILEn_VE_STATUS.BUSY, bit 7, RO/V, reset 0. -/
def TILE_VE_STATUS_BUSY (n : Nat) : Field := ⟨0x100600 + n * 0x10000, 7, 1⟩
/-- TILEn_VE_STATUS.SCALAR_STALL, bit 4, RW1C, reset 0. -/
def TILE_VE_STATUS_SCALAR_STALL (n : Nat) : Field := ⟨0x100600 + n * 0x10000, 4, 1⟩
/-- TILEn_VE_STATUS.REFUSED, bit 3, RW1C, reset 0. -/
def TILE_VE_STATUS_REFUSED (n : Nat) : Field := ⟨0x100600 + n * 0x10000, 3, 1⟩
/-- TILEn_VE_STATUS.NONFIN_OUT, bit 2, RW1C, reset 0. -/
def TILE_VE_STATUS_NONFIN_OUT (n : Nat) : Field := ⟨0x100600 + n * 0x10000, 2, 1⟩
/-- TILEn_VE_STATUS.INT_SAT, bit 1, RW1C, reset 0. -/
def TILE_VE_STATUS_INT_SAT (n : Nat) : Field := ⟨0x100600 + n * 0x10000, 1, 1⟩
/-- TILEn_VE_STATUS.LANE_OOR, bit 0, RW1C, reset 0. -/
def TILE_VE_STATUS_LANE_OOR (n : Nat) : Field := ⟨0x100600 + n * 0x10000, 0, 1⟩
/-! ENG_WAYq_STAT (07_graph_and_vector_engines.md) -/
/-- ENG_WAYq_STAT.ROWS_STEP, bits 63:32, RO/V, reset 0. -/
def ENG_WAY_STAT_ROWS_STEP (q : Nat) : Field := ⟨0x600000 + q * 0x1000, 32, 32⟩
/-- ENG_WAYq_STAT.QUEUE_DEPTH, bits 23:16, RO/V, reset 0. -/
def ENG_WAY_STAT_QUEUE_DEPTH (q : Nat) : Field := ⟨0x600000 + q * 0x1000, 16, 8⟩
/-- ENG_WAYq_STAT.FENCED, bit 8, RO/V, reset 0. -/
def ENG_WAY_STAT_FENCED (q : Nat) : Field := ⟨0x600000 + q * 0x1000, 8, 1⟩
/-- ENG_WAYq_STAT.BUSY, bit 7, RO/V, reset 0. -/
def ENG_WAY_STAT_BUSY (q : Nat) : Field := ⟨0x600000 + q * 0x1000, 7, 1⟩
/-- ENG_WAYq_STAT.REBOUND, bit 6, RW1C, reset 0. -/
def ENG_WAY_STAT_REBOUND (q : Nat) : Field := ⟨0x600000 + q * 0x1000, 6, 1⟩
/-- ENG_WAYq_STAT.TRUNC, bit 5, RW1C, reset 0. -/
def ENG_WAY_STAT_TRUNC (q : Nat) : Field := ⟨0x600000 + q * 0x1000, 5, 1⟩
/-- ENG_WAYq_STAT.POISON, bit 4, RW1C, reset 0. -/
def ENG_WAY_STAT_POISON (q : Nat) : Field := ⟨0x600000 + q * 0x1000, 4, 1⟩
/-- ENG_WAYq_STAT.BAD_OFFSET, bit 3, RW1C, reset 0. -/
def ENG_WAY_STAT_BAD_OFFSET (q : Nat) : Field := ⟨0x600000 + q * 0x1000, 3, 1⟩
/-- ENG_WAYq_STAT.BAD_INDEX, bit 2, RW1C, reset 0. -/
def ENG_WAY_STAT_BAD_INDEX (q : Nat) : Field := ⟨0x600000 + q * 0x1000, 2, 1⟩
/-- ENG_WAYq_STAT.REFUSED, bit 1, RW1C, reset 0. -/
def ENG_WAY_STAT_REFUSED (q : Nat) : Field := ⟨0x600000 + q * 0x1000, 1, 1⟩
/-! ENG_TALt_STAT (07_graph_and_vector_engines.md) -/
/-- ENG_TALt_STAT.SEGS_STEP, bits 63:32, RO/V, reset 0. -/
def ENG_TAL_STAT_SEGS_STEP (t : Nat) : Field := ⟨0x610000 + t * 0x1000, 32, 32⟩
/-- ENG_TALt_STAT.QUEUE_DEPTH, bits 23:16, RO/V, reset 0. -/
def ENG_TAL_STAT_QUEUE_DEPTH (t : Nat) : Field := ⟨0x610000 + t * 0x1000, 16, 8⟩
/-- ENG_TALt_STAT.FENCED, bit 8, RO/V, reset 0. -/
def ENG_TAL_STAT_FENCED (t : Nat) : Field := ⟨0x610000 + t * 0x1000, 8, 1⟩
/-- ENG_TALt_STAT.BUSY, bit 7, RO/V, reset 0. -/
def ENG_TAL_STAT_BUSY (t : Nat) : Field := ⟨0x610000 + t * 0x1000, 7, 1⟩
/-- ENG_TALt_STAT.INT_SAT, bit 3, RW1C, reset 0. -/
def ENG_TAL_STAT_INT_SAT (t : Nat) : Field := ⟨0x610000 + t * 0x1000, 3, 1⟩
/-- ENG_TALt_STAT.BAD_OFFSET, bit 2, RW1C, reset 0. -/
def ENG_TAL_STAT_BAD_OFFSET (t : Nat) : Field := ⟨0x610000 + t * 0x1000, 2, 1⟩
/-- ENG_TALt_STAT.EMPTY_SEG, bit 1, RW1C, reset 0. -/
def ENG_TAL_STAT_EMPTY_SEG (t : Nat) : Field := ⟨0x610000 + t * 0x1000, 1, 1⟩
/-- ENG_TALt_STAT.REFUSED, bit 0, RW1C, reset 0. -/
def ENG_TAL_STAT_REFUSED (t : Nat) : Field := ⟨0x610000 + t * 0x1000, 0, 1⟩
/-! ENG_KILk_STAT (07_graph_and_vector_engines.md) -/
/-- ENG_KILk_STAT.ELEMS_STEP, bits 63:32, RO/V, reset 0. -/
def ENG_KIL_STAT_ELEMS_STEP (k : Nat) : Field := ⟨0x618000 + k * 0x1000, 32, 32⟩
/-- ENG_KILk_STAT.QUEUE_DEPTH, bits 23:16, RO/V, reset 0. -/
def ENG_KIL_STAT_QUEUE_DEPTH (k : Nat) : Field := ⟨0x618000 + k * 0x1000, 16, 8⟩
/-- ENG_KILk_STAT.FENCED, bit 8, RO/V, reset 0. -/
def ENG_KIL_STAT_FENCED (k : Nat) : Field := ⟨0x618000 + k * 0x1000, 8, 1⟩
/-- ENG_KILk_STAT.BUSY, bit 7, RO/V, reset 0. -/
def ENG_KIL_STAT_BUSY (k : Nat) : Field := ⟨0x618000 + k * 0x1000, 7, 1⟩
/-- ENG_KILk_STAT.DOMAIN, bit 3, RW1C, reset 0. -/
def ENG_KIL_STAT_DOMAIN (k : Nat) : Field := ⟨0x618000 + k * 0x1000, 3, 1⟩
/-- ENG_KILk_STAT.NONFIN, bit 2, RW1C, reset 0. -/
def ENG_KIL_STAT_NONFIN (k : Nat) : Field := ⟨0x618000 + k * 0x1000, 2, 1⟩
/-- ENG_KILk_STAT.SAT, bit 1, RW1C, reset 0. -/
def ENG_KIL_STAT_SAT (k : Nat) : Field := ⟨0x618000 + k * 0x1000, 1, 1⟩
/-- ENG_KILk_STAT.REFUSED, bit 0, RW1C, reset 0. -/
def ENG_KIL_STAT_REFUSED (k : Nat) : Field := ⟨0x618000 + k * 0x1000, 0, 1⟩
/-! MEM_MAP_CFG (08_memory_and_larder.md) -/
/-- MEM_MAP_CFG.LAYOUT_MODE, bit 40, RO, reset Waybill. -/
def MEM_MAP_CFG_LAYOUT_MODE : Field := ⟨0xC0000, 40, 1⟩
/-- MEM_MAP_CFG.CELLAR_SIZE, bits 39:32, RO, reset Waybill. -/
def MEM_MAP_CFG_CELLAR_SIZE : Field := ⟨0xC0000, 32, 8⟩
/-- MEM_MAP_CFG.HOME_NEED, bits 31:24, RO, reset Waybill. -/
def MEM_MAP_CFG_HOME_NEED : Field := ⟨0xC0000, 24, 8⟩
/-- MEM_MAP_CFG.HOME_SIZE, bits 5:0, RO, reset Waybill. -/
def MEM_MAP_CFG_HOME_SIZE : Field := ⟨0xC0000, 0, 6⟩
/-! MEM_LARDER_CFG (08_memory_and_larder.md) -/
/-- MEM_LARDER_CFG.RECOMP_RESERVE, bits 14:8, RO, reset Waybill. -/
def MEM_LARDER_CFG_RECOMP_RESERVE : Field := ⟨0xC0008, 8, 7⟩
/-- MEM_LARDER_CFG.LARDER_SIZE, bits 6:0, RO, reset Waybill. -/
def MEM_LARDER_CFG_LARDER_SIZE : Field := ⟨0xC0008, 0, 7⟩
/-! MEM_MAP_STAT (08_memory_and_larder.md) -/
/-- MEM_MAP_STAT.SPARES_LEFT, bits 63:56, RO/V, reset start. -/
def MEM_MAP_STAT_SPARES_LEFT : Field := ⟨0xC0010, 56, 8⟩
/-- MEM_MAP_STAT.GLOBAL_SIZE, bits 47:32, RO, reset start. -/
def MEM_MAP_STAT_GLOBAL_SIZE : Field := ⟨0xC0010, 32, 16⟩
/-- MEM_MAP_STAT.CELLAR_MIN, bits 31:16, RO, reset start. -/
def MEM_MAP_STAT_CELLAR_MIN : Field := ⟨0xC0010, 16, 16⟩
/-- MEM_MAP_STAT.FENCED_CH, bits 15:9, RO, reset start. -/
def MEM_MAP_STAT_FENCED_CH : Field := ⟨0xC0010, 9, 7⟩
/-- MEM_MAP_STAT.ACTIVE_CH, bits 8:0, RO, reset start. -/
def MEM_MAP_STAT_ACTIVE_CH : Field := ⟨0xC0010, 0, 9⟩
/-! MEM_STAT (08_memory_and_larder.md) -/
/-- MEM_STAT.RESTART_REQ, bit 7, RO/V, reset 0. -/
def MEM_STAT_RESTART_REQ : Field := ⟨0xC0018, 7, 1⟩
/-- MEM_STAT.CELLAR_CUT, bit 6, RW1C, reset 0. -/
def MEM_STAT_CELLAR_CUT : Field := ⟨0xC0018, 6, 1⟩
/-- MEM_STAT.REQ_IGNORED, bit 5, RW1C, reset 0. -/
def MEM_STAT_REQ_IGNORED : Field := ⟨0xC0018, 5, 1⟩
/-- MEM_STAT.MIG_DONE, bit 4, RW1C, reset 0. -/
def MEM_STAT_MIG_DONE : Field := ⟨0xC0018, 4, 1⟩
/-- MEM_STAT.CH_DEAD, bit 3, RW1C, reset 0. -/
def MEM_STAT_CH_DEAD : Field := ⟨0xC0018, 3, 1⟩
/-- MEM_STAT.FENCE_PENDING, bit 2, RW1C, reset 0. -/
def MEM_STAT_FENCE_PENDING : Field := ⟨0xC0018, 2, 1⟩
/-- MEM_STAT.POISON_READ, bit 1, RW1C, reset 0. -/
def MEM_STAT_POISON_READ : Field := ⟨0xC0018, 1, 1⟩
/-- MEM_STAT.UNMAPPED, bit 0, RW1C, reset 0. -/
def MEM_STAT_UNMAPPED : Field := ⟨0xC0018, 0, 1⟩
/-! MEM_MIG_CTL (08_memory_and_larder.md) -/
/-- MEM_MIG_CTL.CORR_THRESH, bits 47:32, RW, reset Waybill. -/
def MEM_MIG_CTL_CORR_THRESH : Field := ⟨0xC0020, 32, 16⟩
/-- MEM_MIG_CTL.REQ_STACK, bits 12:8, RW, reset 0. -/
def MEM_MIG_CTL_REQ_STACK : Field := ⟨0xC0020, 8, 5⟩
/-- MEM_MIG_CTL.REQ_CH, bits 7:4, RW, reset 0. -/
def MEM_MIG_CTL_REQ_CH : Field := ⟨0xC0020, 4, 4⟩
/-- MEM_MIG_CTL.MIG_RATE, bits 3:1, RW, reset Waybill. -/
def MEM_MIG_CTL_MIG_RATE : Field := ⟨0xC0020, 1, 3⟩
/-- MEM_MIG_CTL.REQ, bit 0, WO, reset 0. -/
def MEM_MIG_CTL_REQ : Field := ⟨0xC0020, 0, 1⟩
/-! MEM_MIG_STAT (08_memory_and_larder.md) -/
/-- MEM_MIG_STAT.PROGRESS, bits 63:40, RO/V, reset 0. -/
def MEM_MIG_STAT_PROGRESS : Field := ⟨0xC0028, 40, 24⟩
/-- MEM_MIG_STAT.QUEUED, bits 39:32, RO/V, reset 0. -/
def MEM_MIG_STAT_QUEUED : Field := ⟨0xC0028, 32, 8⟩
/-- MEM_MIG_STAT.SRC_STACK, bits 22:18, RO/V, reset 0. -/
def MEM_MIG_STAT_SRC_STACK : Field := ⟨0xC0028, 18, 5⟩
/-- MEM_MIG_STAT.SRC_CH, bits 17:14, RO/V, reset 0. -/
def MEM_MIG_STAT_SRC_CH : Field := ⟨0xC0028, 14, 4⟩
/-- MEM_MIG_STAT.DST_CH, bits 13:10, RO/V, reset 0. -/
def MEM_MIG_STAT_DST_CH : Field := ⟨0xC0028, 10, 4⟩
/-- MEM_MIG_STAT.STATE, bits 1:0, RO/V, reset 0. -/
def MEM_MIG_STAT_STATE : Field := ⟨0xC0028, 0, 2⟩
/-! MEM_STASH_STAT (08_memory_and_larder.md) -/
/-- MEM_STASH_STAT.STASH_POISON, bits 63:56, RO/V, reset 0. -/
def MEM_STASH_STAT_STASH_POISON : Field := ⟨0xC0030, 56, 8⟩
/-- MEM_STASH_STAT.RECOMPUTES, bits 55:40, RO/V, reset 0. -/
def MEM_STASH_STAT_RECOMPUTES : Field := ⟨0xC0030, 40, 16⟩
/-- MEM_STASH_STAT.NOT_STASHED, bits 35:24, RO/V, reset 0. -/
def MEM_STASH_STAT_NOT_STASHED : Field := ⟨0xC0030, 24, 12⟩
/-- MEM_STASH_STAT.CELLAR_LAYERS, bits 23:12, RO/V, reset 0. -/
def MEM_STASH_STAT_CELLAR_LAYERS : Field := ⟨0xC0030, 12, 12⟩
/-- MEM_STASH_STAT.LARDER_LAYERS, bits 11:0, RO/V, reset 0. -/
def MEM_STASH_STAT_LARDER_LAYERS : Field := ⟨0xC0030, 0, 12⟩
/-! MEM_CHk_STAT (08_memory_and_larder.md) -/
/-- MEM_CHk_STAT.CORR_HOUR, bits 63:48, RO/V, reset 0. -/
def MEM_CH_STAT_CORR_HOUR (k : Nat) : Field := ⟨0xC1000 + k * 0x8, 48, 16⟩
/-- MEM_CHk_STAT.UNCORR, bits 47:32, RO/V, reset 0. -/
def MEM_CH_STAT_UNCORR (k : Nat) : Field := ⟨0xC1000 + k * 0x8, 32, 16⟩
/-- MEM_CHk_STAT.RECAL_FAIL, bits 31:24, RO/V, reset 0. -/
def MEM_CH_STAT_RECAL_FAIL (k : Nat) : Field := ⟨0xC1000 + k * 0x8, 24, 8⟩
/-- MEM_CHk_STAT.SLOT, bits 14:6, RO, reset start. -/
def MEM_CH_STAT_SLOT (k : Nat) : Field := ⟨0xC1000 + k * 0x8, 6, 9⟩
/-- MEM_CHk_STAT.REFRESH_2X, bit 5, RO/V, reset 0. -/
def MEM_CH_STAT_REFRESH_2X (k : Nat) : Field := ⟨0xC1000 + k * 0x8, 5, 1⟩
/-- MEM_CHk_STAT.RECAL, bit 4, RO/V, reset 0. -/
def MEM_CH_STAT_RECAL (k : Nat) : Field := ⟨0xC1000 + k * 0x8, 4, 1⟩
/-- MEM_CHk_STAT.STATE, bits 2:0, RO/V, reset start. -/
def MEM_CH_STAT_STATE (k : Nat) : Field := ⟨0xC1000 + k * 0x8, 0, 3⟩
/-! SEAL_STEP (09_seal_and_recipe_ladder.md) -/
/-- SEAL_STEP.STEP_COUNTER, bits 63:0, RO/V, reset start. -/
def SEAL_STEP_STEP_COUNTER : Field := ⟨0x60000, 0, 64⟩
/-! SEAL_CFG (09_seal_and_recipe_ladder.md) -/
/-- SEAL_CFG.SEAL_GROUP, bits 55:48, RO, reset Waybill. -/
def SEAL_CFG_SEAL_GROUP : Field := ⟨0x60008, 48, 8⟩
/-- SEAL_CFG.LOSS_HALT_STEPS, bits 47:40, RO, reset Waybill. -/
def SEAL_CFG_LOSS_HALT_STEPS : Field := ⟨0x60008, 40, 8⟩
/-- SEAL_CFG.DISCARD_ALERT, bits 39:32, RO, reset Waybill. -/
def SEAL_CFG_DISCARD_ALERT : Field := ⟨0x60008, 32, 8⟩
/-- SEAL_CFG.SEAL_MARGIN, bits 27:0, RO, reset Waybill. -/
def SEAL_CFG_SEAL_MARGIN : Field := ⟨0x60008, 0, 28⟩
/-! SEAL_STAT (09_seal_and_recipe_ladder.md) -/
/-- SEAL_STAT.DISCARD_RUN, bits 63:56, RO/V, reset 0. -/
def SEAL_STAT_DISCARD_RUN : Field := ⟨0x60010, 56, 8⟩
/-- SEAL_STAT.LAST_REASON, bits 55:48, RO/V, reset 0. -/
def SEAL_STAT_LAST_REASON : Field := ⟨0x60010, 48, 8⟩
/-- SEAL_STAT.LADDER_EPOCH, bits 47:40, RO/V, reset start. -/
def SEAL_STAT_LADDER_EPOCH : Field := ⟨0x60010, 40, 8⟩
/-- SEAL_STAT.LOSS_HALT_RUN, bits 39:32, RO/V, reset 0. -/
def SEAL_STAT_LOSS_HALT_RUN : Field := ⟨0x60010, 32, 8⟩
/-- SEAL_STAT.SEAL_STATE, bits 10:9, RO/V, reset 0. -/
def SEAL_STAT_SEAL_STATE : Field := ⟨0x60010, 9, 2⟩
/-- SEAL_STAT.PAGE_GEN, bit 8, RO/V, reset 0. -/
def SEAL_STAT_PAGE_GEN : Field := ⟨0x60010, 8, 1⟩
/-- SEAL_STAT.QUERY_DISCARD, bit 7, RW1C, reset 0. -/
def SEAL_STAT_QUERY_DISCARD : Field := ⟨0x60010, 7, 1⟩
/-- SEAL_STAT.UNRESOLVED, bit 6, RW1C, reset 0. -/
def SEAL_STAT_UNRESOLVED : Field := ⟨0x60010, 6, 1⟩
/-- SEAL_STAT.DISCARD_ALERT, bit 5, RW1C, reset 0. -/
def SEAL_STAT_DISCARD_ALERT : Field := ⟨0x60010, 5, 1⟩
/-- SEAL_STAT.MISMATCH, bit 4, RW1C, reset 0. -/
def SEAL_STAT_MISMATCH : Field := ⟨0x60010, 4, 1⟩
/-- SEAL_STAT.LATE, bit 3, RW1C, reset 0. -/
def SEAL_STAT_LATE : Field := ⟨0x60010, 3, 1⟩
/-- SEAL_STAT.RUNG_DOWN, bit 2, RW1C, reset 0. -/
def SEAL_STAT_RUNG_DOWN : Field := ⟨0x60010, 2, 1⟩
/-- SEAL_STAT.RUNG_UP, bit 1, RW1C, reset 0. -/
def SEAL_STAT_RUNG_UP : Field := ⟨0x60010, 1, 1⟩
/-- SEAL_STAT.HALT, bit 0, RW1C, reset 0. -/
def SEAL_STAT_HALT : Field := ⟨0x60010, 0, 1⟩
/-! SEAL_LAST (09_seal_and_recipe_ladder.md) -/
/-- SEAL_LAST.LAST_LOSS, bits 63:32, RO/V, reset 0. -/
def SEAL_LAST_LAST_LOSS : Field := ⟨0x60018, 32, 32⟩
/-- SEAL_LAST.VOTES, bits 26:16, RO/V, reset 0. -/
def SEAL_LAST_VOTES : Field := ⟨0x60018, 16, 11⟩
/-- SEAL_LAST.LAST_COMMIT, bit 0, RO/V, reset 0. -/
def SEAL_LAST_LAST_COMMIT : Field := ⟨0x60018, 0, 1⟩
/-! SEAL_LADDER_SEL (09_seal_and_recipe_ladder.md) -/
/-- SEAL_LADDER_SEL.LAYER, bits 11:0, RW, reset 0. -/
def SEAL_LADDER_SEL_LAYER : Field := ⟨0x60020, 0, 12⟩
/-! SEAL_LADDER_DATA (09_seal_and_recipe_ladder.md) -/
/-- SEAL_LADDER_DATA.CLEAN_CNT, bits 63:48, RO/V, reset 0. -/
def SEAL_LADDER_DATA_CLEAN_CNT : Field := ⟨0x60028, 48, 16⟩
/-- SEAL_LADDER_DATA.SPILL_CNT, bits 47:44, RO/V, reset 0. -/
def SEAL_LADDER_DATA_SPILL_CNT : Field := ⟨0x60028, 44, 4⟩
/-- SEAL_LADDER_DATA.SAT_CNT, bits 43:40, RO/V, reset 0. -/
def SEAL_LADDER_DATA_SAT_CNT : Field := ⟨0x60028, 40, 4⟩
/-- SEAL_LADDER_DATA.NONFIN_CNT, bits 39:36, RO/V, reset 0. -/
def SEAL_LADDER_DATA_NONFIN_CNT : Field := ⟨0x60028, 36, 4⟩
/-- SEAL_LADDER_DATA.RUNG_MASK, bits 31:24, RO, reset Waybill. -/
def SEAL_LADDER_DATA_RUNG_MASK : Field := ⟨0x60028, 24, 8⟩
/-- SEAL_LADDER_DATA.CHANGES, bits 23:16, RO/V, reset 0. -/
def SEAL_LADDER_DATA_CHANGES : Field := ⟨0x60028, 16, 8⟩
/-- SEAL_LADDER_DATA.PENDING, bit 3, RO/V, reset 0. -/
def SEAL_LADDER_DATA_PENDING : Field := ⟨0x60028, 3, 1⟩
/-- SEAL_LADDER_DATA.RUNG, bits 2:0, RO/V, reset start. -/
def SEAL_LADDER_DATA_RUNG : Field := ⟨0x60028, 0, 3⟩
/-! SEAL_LOG (09_seal_and_recipe_ladder.md) -/
/-- SEAL_LOG.HEAD, bits 49:40, RO/V, reset 0. -/
def SEAL_LOG_HEAD : Field := ⟨0x60030, 40, 10⟩
/-- SEAL_LOG.LOG_BASE, bits 39:0, RO, reset Waybill. -/
def SEAL_LOG_LOG_BASE : Field := ⟨0x60030, 0, 40⟩
/-! LINK_IDENT (10_nybrylink_and_collectives.md) -/
/-- LINK_IDENT.GEN_MAX, bits 47:44, RO, reset 1. -/
def LINK_IDENT_GEN_MAX : Field := ⟨0x80000, 44, 4⟩
/-- LINK_IDENT.GEN_MIN, bits 43:40, RO, reset 1. -/
def LINK_IDENT_GEN_MIN : Field := ⟨0x80000, 40, 4⟩
/-- LINK_IDENT.JOB_TAG, bits 31:16, RO, reset Waybill. -/
def LINK_IDENT_JOB_TAG : Field := ⟨0x80000, 16, 16⟩
/-- LINK_IDENT.MEMBER_ID, bits 15:0, RO/V, reset strap. -/
def LINK_IDENT_MEMBER_ID : Field := ⟨0x80000, 0, 16⟩
/-! LINK_ALIGN (10_nybrylink_and_collectives.md) -/
/-- LINK_ALIGN.MISSED, bits 47:32, RO/V, reset 0. -/
def LINK_ALIGN_MISSED : Field := ⟨0x80008, 32, 16⟩
/-- LINK_ALIGN.OFFSET, bits 31:8, RO/V, reset 0. -/
def LINK_ALIGN_OFFSET : Field := ⟨0x80008, 8, 24⟩
/-- LINK_ALIGN.PERIOD_JUMP, bit 4, RW1C, reset 0. -/
def LINK_ALIGN_PERIOD_JUMP : Field := ⟨0x80008, 4, 1⟩
/-- LINK_ALIGN.STEP_CORR, bit 3, RW1C, reset 0. -/
def LINK_ALIGN_STEP_CORR : Field := ⟨0x80008, 3, 1⟩
/-- LINK_ALIGN.ALIGN_LOST, bit 2, RW1C, reset 0. -/
def LINK_ALIGN_ALIGN_LOST : Field := ⟨0x80008, 2, 1⟩
/-- LINK_ALIGN.MASTER, bit 1, RO, reset Waybill. -/
def LINK_ALIGN_MASTER : Field := ⟨0x80008, 1, 1⟩
/-- LINK_ALIGN.ALIGNED, bit 0, RO/V, reset 0. -/
def LINK_ALIGN_ALIGNED : Field := ⟨0x80008, 0, 1⟩
/-! LINK_PORTn_STAT (10_nybrylink_and_collectives.md) -/
/-- LINK_PORTn_STAT.PEER_ID, bits 63:48, RO/V, reset 0. -/
def LINK_PORT_STAT_PEER_ID (n : Nat) : Field := ⟨0x80100 + n * 0x10, 48, 16⟩
/-- LINK_PORTn_STAT.RETRAINS, bits 47:32, RO/V, reset 0. -/
def LINK_PORT_STAT_RETRAINS (n : Nat) : Field := ⟨0x80100 + n * 0x10, 32, 16⟩
/-- LINK_PORTn_STAT.GEN, bits 31:28, RO/V, reset 0. -/
def LINK_PORT_STAT_GEN (n : Nat) : Field := ⟨0x80100 + n * 0x10, 28, 4⟩
/-- LINK_PORTn_STAT.LAT, bits 23:16, RO/V, reset 0. -/
def LINK_PORT_STAT_LAT (n : Nat) : Field := ⟨0x80100 + n * 0x10, 16, 8⟩
/-- LINK_PORTn_STAT.WIDTH, bits 15:12, RO/V, reset 0. -/
def LINK_PORT_STAT_WIDTH (n : Nat) : Field := ⟨0x80100 + n * 0x10, 12, 4⟩
/-- LINK_PORTn_STAT.DEGRADED, bit 8, RW1C, reset 0. -/
def LINK_PORT_STAT_DEGRADED (n : Nat) : Field := ⟨0x80100 + n * 0x10, 8, 1⟩
/-- LINK_PORTn_STAT.JOB_MISMATCH, bit 7, RW1C, reset 0. -/
def LINK_PORT_STAT_JOB_MISMATCH (n : Nat) : Field := ⟨0x80100 + n * 0x10, 7, 1⟩
/-- LINK_PORTn_STAT.GEN_MISMATCH, bit 6, RW1C, reset 0. -/
def LINK_PORT_STAT_GEN_MISMATCH (n : Nat) : Field := ⟨0x80100 + n * 0x10, 6, 1⟩
/-- LINK_PORTn_STAT.MISWIRED, bit 5, RW1C, reset 0. -/
def LINK_PORT_STAT_MISWIRED (n : Nat) : Field := ⟨0x80100 + n * 0x10, 5, 1⟩
/-- LINK_PORTn_STAT.STATE, bits 2:0, RO/V, reset 0. -/
def LINK_PORT_STAT_STATE (n : Nat) : Field := ⟨0x80100 + n * 0x10, 0, 3⟩
/-! LINK_PORTn_ERR (10_nybrylink_and_collectives.md) -/
/-- LINK_PORTn_ERR.FEC_UNCORR, bits 63:48, RO/V, reset 0. -/
def LINK_PORT_ERR_FEC_UNCORR (n : Nat) : Field := ⟨0x80108 + n * 0x10, 48, 16⟩
/-- LINK_PORTn_ERR.REPLAYS, bits 47:32, RO/V, reset 0. -/
def LINK_PORT_ERR_REPLAYS (n : Nat) : Field := ⟨0x80108 + n * 0x10, 32, 16⟩
/-- LINK_PORTn_ERR.FEC_CORR, bits 31:0, RO/V, reset 0. -/
def LINK_PORT_ERR_FEC_CORR (n : Nat) : Field := ⟨0x80108 + n * 0x10, 0, 32⟩
/-! COLL_STAT (10_nybrylink_and_collectives.md) -/
/-- COLL_STAT.QUEUE_DEPTH, bits 47:40, RO/V, reset 0. -/
def COLL_STAT_QUEUE_DEPTH : Field := ⟨0xA0000, 40, 8⟩
/-- COLL_STAT.ACTIVE, bits 39:32, RO/V, reset 0. -/
def COLL_STAT_ACTIVE : Field := ⟨0xA0000, 32, 8⟩
/-- COLL_STAT.SLOT_TIMEOUT, bit 9, RW1C, reset 0. -/
def COLL_STAT_SLOT_TIMEOUT : Field := ⟨0xA0000, 9, 1⟩
/-- COLL_STAT.WIRE_MISS, bit 8, RW1C, reset 0. -/
def COLL_STAT_WIRE_MISS : Field := ⟨0xA0000, 8, 1⟩
/-- COLL_STAT.MISMATCH, bit 7, RW1C, reset 0. -/
def COLL_STAT_MISMATCH : Field := ⟨0xA0000, 7, 1⟩
/-- COLL_STAT.STALE, bit 6, RW1C, reset 0. -/
def COLL_STAT_STALE : Field := ⟨0xA0000, 6, 1⟩
/-- COLL_STAT.ABANDONED, bit 5, RW1C, reset 0. -/
def COLL_STAT_ABANDONED : Field := ⟨0xA0000, 5, 1⟩
/-- COLL_STAT.ALT_ROUTE, bit 4, RW1C, reset 0. -/
def COLL_STAT_ALT_ROUTE : Field := ⟨0xA0000, 4, 1⟩
/-- COLL_STAT.RELAY, bit 3, RW1C, reset 0. -/
def COLL_STAT_RELAY : Field := ⟨0xA0000, 3, 1⟩
/-- COLL_STAT.POISON_RX, bit 2, RW1C, reset 0. -/
def COLL_STAT_POISON_RX : Field := ⟨0xA0000, 2, 1⟩
/-- COLL_STAT.REFUSED, bit 1, RW1C, reset 0. -/
def COLL_STAT_REFUSED : Field := ⟨0xA0000, 1, 1⟩
/-! COLL_CNT (10_nybrylink_and_collectives.md) -/
/-- COLL_CNT.RELAY_PLANES, bits 63:48, RO/V, reset 0. -/
def COLL_CNT_RELAY_PLANES : Field := ⟨0xA0008, 48, 16⟩
/-- COLL_CNT.SLOT_GRANTS, bits 47:32, RO/V, reset 0. -/
def COLL_CNT_SLOT_GRANTS : Field := ⟨0xA0008, 32, 16⟩
/-- COLL_CNT.RESENT, bits 31:16, RO/V, reset 0. -/
def COLL_CNT_RESENT : Field := ⟨0xA0008, 16, 16⟩
/-- COLL_CNT.STALE_CHUNKS, bits 15:0, RO/V, reset 0. -/
def COLL_CNT_STALE_CHUNKS : Field := ⟨0xA0008, 0, 16⟩
/-! COLL_GRP_SEL (10_nybrylink_and_collectives.md) -/
/-- COLL_GRP_SEL.POS, bits 25:16, RW, reset 0. -/
def COLL_GRP_SEL_POS : Field := ⟨0xA0010, 16, 10⟩
/-- COLL_GRP_SEL.GROUP, bits 7:0, RW, reset 0. -/
def COLL_GRP_SEL_GROUP : Field := ⟨0xA0010, 0, 8⟩
/-! COLL_GRP_DATA (10_nybrylink_and_collectives.md) -/
/-- COLL_GRP_DATA.MEMBERS, bits 58:48, RO/V, reset Waybill. -/
def COLL_GRP_DATA_MEMBERS : Field := ⟨0xA0018, 48, 11⟩
/-- COLL_GRP_DATA.LEADER_POS, bits 47:38, RO/V, reset Waybill. -/
def COLL_GRP_DATA_LEADER_POS : Field := ⟨0xA0018, 38, 10⟩
/-- COLL_GRP_DATA.SELF_POS, bits 37:28, RO/V, reset Waybill. -/
def COLL_GRP_DATA_SELF_POS : Field := ⟨0xA0018, 28, 10⟩
/-- COLL_GRP_DATA.SELF_VALID, bit 27, RO/V, reset Waybill. -/
def COLL_GRP_DATA_SELF_VALID : Field := ⟨0xA0018, 27, 1⟩
/-- COLL_GRP_DATA.HIER, bit 26, RO/V, reset Waybill. -/
def COLL_GRP_DATA_HIER : Field := ⟨0xA0018, 26, 1⟩
/-- COLL_GRP_DATA.ALT_ROUTE, bits 25:21, RO/V, reset Waybill. -/
def COLL_GRP_DATA_ALT_ROUTE : Field := ⟨0xA0018, 21, 5⟩
/-- COLL_GRP_DATA.ROUTE, bits 20:16, RO/V, reset Waybill. -/
def COLL_GRP_DATA_ROUTE : Field := ⟨0xA0018, 16, 5⟩
/-- COLL_GRP_DATA.MEMBER_ID, bits 15:0, RO/V, reset Waybill. -/
def COLL_GRP_DATA_MEMBER_ID : Field := ⟨0xA0018, 0, 16⟩
/-! PWR_LIMIT (11_power_clocks_scheduling.md) -/
/-- PWR_LIMIT.BRAKE_LIMIT, bits 47:36, RO, reset Waybill. -/
def PWR_LIMIT_BRAKE_LIMIT : Field := ⟨0x10000, 36, 12⟩
/-- PWR_LIMIT.PEAK_LIMIT, bits 35:24, RO, reset Waybill. -/
def PWR_LIMIT_PEAK_LIMIT : Field := ⟨0x10000, 24, 12⟩
/-- PWR_LIMIT.LIMIT_MAX, bits 23:12, RO, reset Waybill. -/
def PWR_LIMIT_LIMIT_MAX : Field := ⟨0x10000, 12, 12⟩
/-- PWR_LIMIT.POWER_LIMIT, bits 11:0, RW, reset Waybill. -/
def PWR_LIMIT_POWER_LIMIT : Field := ⟨0x10000, 0, 12⟩
/-! PWR_STAT (11_power_clocks_scheduling.md) -/
/-- PWR_STAT.CREDIT, bits 63:40, RO/V, reset 250,000. -/
def PWR_STAT_CREDIT : Field := ⟨0x10008, 40, 24⟩
/-- PWR_STAT.BURST_RUN, bits 39:29, RO/V, reset 0. -/
def PWR_STAT_BURST_RUN : Field := ⟨0x10008, 29, 11⟩
/-- PWR_STAT.BASE_TRIP, bit 13, RO/V, reset 0. -/
def PWR_STAT_BASE_TRIP : Field := ⟨0x10008, 13, 1⟩
/-- PWR_STAT.THERM_TRIP, bit 12, RO/V, reset 0. -/
def PWR_STAT_THERM_TRIP : Field := ⟨0x10008, 12, 1⟩
/-- PWR_STAT.THERM_LIMIT, bit 11, RW1C, reset 0. -/
def PWR_STAT_THERM_LIMIT : Field := ⟨0x10008, 11, 1⟩
/-- PWR_STAT.DERATED, bit 10, RW1C, reset 0. -/
def PWR_STAT_DERATED : Field := ⟨0x10008, 10, 1⟩
/-- PWR_STAT.DROOP, bit 9, RW1C, reset 0. -/
def PWR_STAT_DROOP : Field := ⟨0x10008, 9, 1⟩
/-- PWR_STAT.BRAKE, bit 8, RW1C, reset 0. -/
def PWR_STAT_BRAKE : Field := ⟨0x10008, 8, 1⟩
/-- PWR_STAT.OVER_BASE, bit 7, RW1C, reset 0. -/
def PWR_STAT_OVER_BASE : Field := ⟨0x10008, 7, 1⟩
/-- PWR_STAT.LIMIT_CLAMP, bit 6, RW1C, reset 0. -/
def PWR_STAT_LIMIT_CLAMP : Field := ⟨0x10008, 6, 1⟩
/-- PWR_STAT.BURST_DENIED, bit 5, RW1C, reset 0. -/
def PWR_STAT_BURST_DENIED : Field := ⟨0x10008, 5, 1⟩
/-- PWR_STAT.OVERSIZE, bit 4, RW1C, reset 0. -/
def PWR_STAT_OVERSIZE : Field := ⟨0x10008, 4, 1⟩
/-- PWR_STAT.SKIP_BLOCK, bit 3, RW1C, reset 0. -/
def PWR_STAT_SKIP_BLOCK : Field := ⟨0x10008, 3, 1⟩
/-- PWR_STAT.BURST, bit 1, RO/V, reset 0. -/
def PWR_STAT_BURST : Field := ⟨0x10008, 1, 1⟩
/-- PWR_STAT.BRAKE_ACTIVE, bit 0, RO/V, reset 0. -/
def PWR_STAT_BRAKE_ACTIVE : Field := ⟨0x10008, 0, 1⟩
/-! PWR_GRANT (11_power_clocks_scheduling.md) -/
/-- PWR_GRANT.INPUT_W, bits 63:52, RO/V, reset 0. -/
def PWR_GRANT_INPUT_W : Field := ⟨0x10010, 52, 12⟩
/-- PWR_GRANT.TOTAL_GRANT, bits 51:40, RO/V, reset 0. -/
def PWR_GRANT_TOTAL_GRANT : Field := ⟨0x10010, 40, 12⟩
/-- PWR_GRANT.BASE, bits 39:28, RO/V, reset 0. -/
def PWR_GRANT_BASE : Field := ⟨0x10010, 28, 12⟩
/-- PWR_GRANT.DYN_GRANT, bits 27:16, RO/V, reset 0. -/
def PWR_GRANT_DYN_GRANT : Field := ⟨0x10010, 16, 12⟩
/-- PWR_GRANT.UNMET, bits 11:0, RO/V, reset 0. -/
def PWR_GRANT_UNMET : Field := ⟨0x10010, 0, 12⟩
/-! PWR_INPUT (11_power_clocks_scheduling.md) -/
/-- PWR_INPUT.VIN, bits 63:48, RO/V, reset 0. -/
def PWR_INPUT_VIN : Field := ⟨0x10018, 48, 16⟩
/-- PWR_INPUT.IIN, bits 47:32, RO/V, reset 0. -/
def PWR_INPUT_IIN : Field := ⟨0x10018, 32, 16⟩
/-- PWR_INPUT.DROOP_EVENTS, bits 31:16, RO/V, reset 0. -/
def PWR_INPUT_DROOP_EVENTS : Field := ⟨0x10018, 16, 16⟩
/-- PWR_INPUT.VIN_MIN, bits 15:0, RO/V, reset 0xFFFF. -/
def PWR_INPUT_VIN_MIN : Field := ⟨0x10018, 0, 16⟩
/-! PWR_THERM (11_power_clocks_scheduling.md) -/
/-- PWR_THERM.JT_MAX, bits 63:54, RO/V, reset 0. -/
def PWR_THERM_JT_MAX : Field := ⟨0x10020, 54, 10⟩
/-- PWR_THERM.JT_MAX_TILE, bits 53:48, RO/V, reset 0. -/
def PWR_THERM_JT_MAX_TILE : Field := ⟨0x10020, 48, 6⟩
/-- PWR_THERM.DT_MAX, bits 47:38, RO/V, reset 0. -/
def PWR_THERM_DT_MAX : Field := ⟨0x10020, 38, 10⟩
/-- PWR_THERM.DT_MAX_STACK, bits 37:33, RO/V, reset 0. -/
def PWR_THERM_DT_MAX_STACK : Field := ⟨0x10020, 33, 5⟩
/-- PWR_THERM.JT_WARN, bits 31:22, RO, reset Waybill. -/
def PWR_THERM_JT_WARN : Field := ⟨0x10020, 22, 10⟩
/-- PWR_THERM.DT_WARN, bits 21:12, RO, reset Waybill. -/
def PWR_THERM_DT_WARN : Field := ⟨0x10020, 12, 10⟩
/-! PWR_SCHED (11_power_clocks_scheduling.md) -/
/-- PWR_SCHED.LOOKAHEAD, bits 47:40, RO, reset Waybill. -/
def PWR_SCHED_LOOKAHEAD : Field := ⟨0x10028, 40, 8⟩
/-- PWR_SCHED.SKIP_MAX, bits 39:32, RO, reset Waybill. -/
def PWR_SCHED_SKIP_MAX : Field := ⟨0x10028, 32, 8⟩
/-- PWR_SCHED.OVERSIZE_STARTS, bits 31:16, RO/V, reset 0. -/
def PWR_SCHED_OVERSIZE_STARTS : Field := ⟨0x10028, 16, 16⟩
/-- PWR_SCHED.SKIPS, bits 15:0, RO/V, reset 0. -/
def PWR_SCHED_SKIPS : Field := ⟨0x10028, 0, 16⟩
/-! PWR_DOMd_STAT (11_power_clocks_scheduling.md) -/
/-- PWR_DOMd_STAT.GRANT_W, bits 63:52, RO/V, reset 0. -/
def PWR_DOM_STAT_GRANT_W (d : Nat) : Field := ⟨0x10100 + d * 0x8, 52, 12⟩
/-- PWR_DOMd_STAT.REQ_W, bits 51:40, RO/V, reset 0. -/
def PWR_DOM_STAT_REQ_W (d : Nat) : Field := ⟨0x10100 + d * 0x8, 40, 12⟩
/-- PWR_DOMd_STAT.WAKES, bits 31:16, RO/V, reset 0. -/
def PWR_DOM_STAT_WAKES (d : Nat) : Field := ⟨0x10100 + d * 0x8, 16, 16⟩
/-- PWR_DOMd_STAT.LAST_WAKE, bits 15:12, RO/V, reset 0. -/
def PWR_DOM_STAT_LAST_WAKE (d : Nat) : Field := ⟨0x10100 + d * 0x8, 12, 4⟩
/-- PWR_DOMd_STAT.CLASS, bits 7:6, RO/V, reset 0. -/
def PWR_DOM_STAT_CLASS (d : Nat) : Field := ⟨0x10100 + d * 0x8, 6, 2⟩
/-- PWR_DOMd_STAT.REQ_STATE, bits 5:3, RO/V, reset start. -/
def PWR_DOM_STAT_REQ_STATE (d : Nat) : Field := ⟨0x10100 + d * 0x8, 3, 3⟩
/-- PWR_DOMd_STAT.STATE, bits 2:0, RO/V, reset start. -/
def PWR_DOM_STAT_STATE (d : Nat) : Field := ⟨0x10100 + d * 0x8, 0, 3⟩
/-! CLK_CFG (11_power_clocks_scheduling.md) -/
/-- CLK_CFG.MGMT_DIV, bits 55:48, RO, reset Waybill. -/
def CLK_CFG_MGMT_DIV : Field := ⟨0x20000, 48, 8⟩
/-- CLK_CFG.MEM_MHZ, bits 47:36, RO, reset Waybill. -/
def CLK_CFG_MEM_MHZ : Field := ⟨0x20000, 36, 12⟩
/-- CLK_CFG.FAB_MHZ, bits 35:24, RO, reset Waybill. -/
def CLK_CFG_FAB_MHZ : Field := ⟨0x20000, 24, 12⟩
/-- CLK_CFG.CORE_MHZ, bits 23:12, RO, reset Waybill. -/
def CLK_CFG_CORE_MHZ : Field := ⟨0x20000, 12, 12⟩
/-! CLK_SSC (11_power_clocks_scheduling.md) -/
/-- CLK_SSC.SSC_RATE, bits 15:9, RO, reset Waybill. -/
def CLK_SSC_SSC_RATE : Field := ⟨0x20008, 9, 7⟩
/-- CLK_SSC.SSC_DEPTH, bits 8:4, RO, reset Waybill. -/
def CLK_SSC_SSC_DEPTH : Field := ⟨0x20008, 4, 5⟩
/-- CLK_SSC.FAB_SSC, bit 1, RO, reset Waybill. -/
def CLK_SSC_FAB_SSC : Field := ⟨0x20008, 1, 1⟩
/-- CLK_SSC.CORE_SSC, bit 0, RO, reset Waybill. -/
def CLK_SSC_CORE_SSC : Field := ⟨0x20008, 0, 1⟩
/-! CLK_STAT (11_power_clocks_scheduling.md) -/
/-- CLK_STAT.DEEP_SLEEPS, bits 63:32, RO/V, reset 0. -/
def CLK_STAT_DEEP_SLEEPS : Field := ⟨0x20010, 32, 32⟩
/-- CLK_STAT.XTAL_WAIT, bits 15:13, RO, reset strap. -/
def CLK_STAT_XTAL_WAIT : Field := ⟨0x20010, 13, 3⟩
/-- CLK_STAT.LOCK_LOSS, bit 7, RW1C, reset 0. -/
def CLK_STAT_LOCK_LOSS : Field := ⟨0x20010, 7, 1⟩
/-- CLK_STAT.CORE_STOPPED, bit 6, RO/V, reset 0. -/
def CLK_STAT_CORE_STOPPED : Field := ⟨0x20010, 6, 1⟩
/-- CLK_STAT.BOOT_LOCK, bit 5, RO/V, reset 0. -/
def CLK_STAT_BOOT_LOCK : Field := ⟨0x20010, 5, 1⟩
/-- CLK_STAT.MEM_LOCK, bit 4, RO/V, reset 0. -/
def CLK_STAT_MEM_LOCK : Field := ⟨0x20010, 4, 1⟩
/-- CLK_STAT.FAB_LOCK, bit 3, RO/V, reset 0. -/
def CLK_STAT_FAB_LOCK : Field := ⟨0x20010, 3, 1⟩
/-- CLK_STAT.CORE_LOCK, bit 2, RO/V, reset 0. -/
def CLK_STAT_CORE_LOCK : Field := ⟨0x20010, 2, 1⟩
/-- CLK_STAT.XTAL_OK, bit 0, RO/V, reset 0. -/
def CLK_STAT_XTAL_OK : Field := ⟨0x20010, 0, 1⟩
/-! CLK_AON_TIME (11_power_clocks_scheduling.md) -/
/-- CLK_AON_TIME.AON_TIME, bits 63:0, RO/V, reset 0. -/
def CLK_AON_TIME_AON_TIME : Field := ⟨0x20018, 0, 64⟩
/-! CLK_SLEEP_CFG (11_power_clocks_scheduling.md) -/
/-- CLK_SLEEP_CFG.PLL_STOP_MIN, bits 47:24, RO, reset Waybill. -/
def CLK_SLEEP_CFG_PLL_STOP_MIN : Field := ⟨0x20020, 24, 24⟩
/-- CLK_SLEEP_CFG.WAKE_LEAD, bits 11:0, RO, reset Waybill. -/
def CLK_SLEEP_CFG_WAKE_LEAD : Field := ⟨0x20020, 0, 12⟩
/-! MGT_IDENT (12_startup_identity.md) -/
/-- MGT_IDENT.VENDOR, bits 63:48, RO, reset 0x1F9A. -/
def MGT_IDENT_VENDOR : Field := ⟨0x0, 48, 16⟩
/-- MGT_IDENT.PART, bits 47:32, RO, reset 0x4064. -/
def MGT_IDENT_PART : Field := ⟨0x0, 32, 16⟩
/-- MGT_IDENT.GENERATION, bits 31:28, RO, reset 1. -/
def MGT_IDENT_GENERATION : Field := ⟨0x0, 28, 4⟩
/-- MGT_IDENT.STEPPING, bits 27:20, RO, reset 0x11. -/
def MGT_IDENT_STEPPING : Field := ⟨0x0, 20, 8⟩
/-- MGT_IDENT.TILES, bits 19:13, RO, reset start. -/
def MGT_IDENT_TILES : Field := ⟨0x0, 13, 7⟩
/-- MGT_IDENT.STACKS, bits 12:7, RO, reset start. -/
def MGT_IDENT_STACKS : Field := ⟨0x0, 7, 6⟩
/-! MGT_BOOTSTAT (12_startup_identity.md) -/
/-- MGT_BOOTSTAT.REASON, bits 63:56, RO/V, reset start. -/
def MGT_BOOTSTAT_REASON : Field := ⟨0x8, 56, 8⟩
/-- MGT_BOOTSTAT.FAIL_STEP, bits 55:52, RO/V, reset start. -/
def MGT_BOOTSTAT_FAIL_STEP : Field := ⟨0x8, 52, 4⟩
/-- MGT_BOOTSTAT.STEP, bits 51:48, RO/V, reset start. -/
def MGT_BOOTSTAT_STEP : Field := ⟨0x8, 48, 4⟩
/-- MGT_BOOTSTAT.CONSEC_FAIL, bits 47:40, RO/V, reset start. -/
def MGT_BOOTSTAT_CONSEC_FAIL : Field := ⟨0x8, 40, 8⟩
/-- MGT_BOOTSTAT.MODE, bits 39:38, RO/V, reset start. -/
def MGT_BOOTSTAT_MODE : Field := ⟨0x8, 38, 2⟩
/-- MGT_BOOTSTAT.SLOT, bit 37, RO/V, reset start. -/
def MGT_BOOTSTAT_SLOT : Field := ⟨0x8, 37, 1⟩
/-- MGT_BOOTSTAT.TRIAL, bit 36, RO/V, reset start. -/
def MGT_BOOTSTAT_TRIAL : Field := ⟨0x8, 36, 1⟩
/-- MGT_BOOTSTAT.STAGED_PENDING, bit 7, RO/V, reset start. -/
def MGT_BOOTSTAT_STAGED_PENDING : Field := ⟨0x8, 7, 1⟩
/-- MGT_BOOTSTAT.NO_OWNER, bit 6, RO/V, reset start. -/
def MGT_BOOTSTAT_NO_OWNER : Field := ⟨0x8, 6, 1⟩
/-- MGT_BOOTSTAT.DEVCERT_BAD, bit 5, RO/V, reset start. -/
def MGT_BOOTSTAT_DEVCERT_BAD : Field := ⟨0x8, 5, 1⟩
/-- MGT_BOOTSTAT.CXL_LATE, bit 4, RW1C, reset 0. -/
def MGT_BOOTSTAT_CXL_LATE : Field := ⟨0x8, 4, 1⟩
/-- MGT_BOOTSTAT.STAGED_PROMOTED, bit 3, RW1C, reset 0. -/
def MGT_BOOTSTAT_STAGED_PROMOTED : Field := ⟨0x8, 3, 1⟩
/-- MGT_BOOTSTAT.STAGED_ABANDONED, bit 2, RW1C, reset 0. -/
def MGT_BOOTSTAT_STAGED_ABANDONED : Field := ⟨0x8, 2, 1⟩
/-- MGT_BOOTSTAT.STAGED_REJECTED, bit 1, RW1C, reset 0. -/
def MGT_BOOTSTAT_STAGED_REJECTED : Field := ⟨0x8, 1, 1⟩
/-- MGT_BOOTSTAT.POWER_ON, bit 0, RO, reset start. -/
def MGT_BOOTSTAT_POWER_ON : Field := ⟨0x8, 0, 1⟩
/-! MGT_WAYBILL (12_startup_identity.md) -/
/-- MGT_WAYBILL.SEQ, bits 63:32, RO, reset Waybill. -/
def MGT_WAYBILL_SEQ : Field := ⟨0x10, 32, 32⟩
/-- MGT_WAYBILL.MIN_SEQ, bits 31:0, RO/V, reset start. -/
def MGT_WAYBILL_MIN_SEQ : Field := ⟨0x10, 0, 32⟩
/-! MGT_OUT (13_host_and_pigeonholes.md) -/
/-- MGT_OUT.LAST_PERIOD, bits 63:32, RO/V, reset 0. -/
def MGT_OUT_LAST_PERIOD : Field := ⟨0x120, 32, 32⟩
/-- MGT_OUT.OUT_BASE, bits 31:14, RO, reset Waybill. -/
def MGT_OUT_OUT_BASE : Field := ⟨0x120, 14, 18⟩
/-- MGT_OUT.OUT_SIZE, bits 13:7, RO, reset Waybill. -/
def MGT_OUT_OUT_SIZE : Field := ⟨0x120, 7, 7⟩
/-- MGT_OUT.HELD1, bit 3, RO/V, reset 0. -/
def MGT_OUT_HELD1 : Field := ⟨0x120, 3, 1⟩
/-- MGT_OUT.HELD0, bit 2, RO/V, reset 0. -/
def MGT_OUT_HELD0 : Field := ⟨0x120, 2, 1⟩
/-- MGT_OUT.REL1, bit 1, WO, reset 0. -/
def MGT_OUT_REL1 : Field := ⟨0x120, 1, 1⟩
/-- MGT_OUT.REL0, bit 0, WO, reset 0. -/
def MGT_OUT_REL0 : Field := ⟨0x120, 0, 1⟩
/-! MGT_HDM (13_host_and_pigeonholes.md) -/
/-- MGT_HDM.HDM_SIZE, bits 63:52, RO, reset start. -/
def MGT_HDM_HDM_SIZE : Field := ⟨0x128, 52, 12⟩
/-- MGT_HDM.HOST_BIAS, bits 51:33, RO/V, reset 0. -/
def MGT_HDM_HOST_BIAS : Field := ⟨0x128, 33, 19⟩
/-- MGT_HDM.RETURN_ALL, bit 22, WO, reset 0. -/
def MGT_HDM_RETURN_ALL : Field := ⟨0x128, 22, 1⟩
/-- MGT_HDM.RETURN, bit 21, WO, reset 0. -/
def MGT_HDM_RETURN : Field := ⟨0x128, 21, 1⟩
/-- MGT_HDM.BIAS_STALL, bit 20, RW1C, reset 0. -/
def MGT_HDM_BIAS_STALL : Field := ⟨0x128, 20, 1⟩
/-- MGT_HDM.HOST_UNMAPPED, bit 19, RW1C, reset 0. -/
def MGT_HDM_HOST_UNMAPPED : Field := ⟨0x128, 19, 1⟩
/-- MGT_HDM.GRANULE, bits 17:0, RW, reset 0. -/
def MGT_HDM_GRANULE : Field := ⟨0x128, 0, 18⟩
/-! MGT_RINGr_BASE (13_host_and_pigeonholes.md) -/
/-- MGT_RINGr_BASE.BASE, bits 63:12, RW, reset 0. -/
def MGT_RING_BASE_BASE (r : Nat) : Field := ⟨0x200 + r * 0x20, 12, 52⟩
/-- MGT_RINGr_BASE.ENABLE, bit 0, RW, reset 0. -/
def MGT_RING_BASE_ENABLE (r : Nat) : Field := ⟨0x200 + r * 0x20, 0, 1⟩
/-! MGT_RINGr_CTL (13_host_and_pigeonholes.md) -/
/-- MGT_RINGr_CTL.REC_SIZE, bits 7:5, RW, reset 0. -/
def MGT_RING_CTL_REC_SIZE (r : Nat) : Field := ⟨0x208 + r * 0x20, 5, 3⟩
/-- MGT_RINGr_CTL.LOG2_REC, bits 4:0, RW, reset 10. -/
def MGT_RING_CTL_LOG2_REC (r : Nat) : Field := ⟨0x208 + r * 0x20, 0, 5⟩
/-! MGT_RINGr_CONS (13_host_and_pigeonholes.md) -/
/-- MGT_RINGr_CONS.CONS, bits 63:0, RO/V, reset 0. -/
def MGT_RING_CONS_CONS (r : Nat) : Field := ⟨0x210 + r * 0x20, 0, 64⟩
/-! MGT_RINGr_STAT (13_host_and_pigeonholes.md) -/
/-- MGT_RINGr_STAT.LOST, bits 63:32, RO/V, reset 0. -/
def MGT_RING_STAT_LOST (r : Nat) : Field := ⟨0x218 + r * 0x20, 32, 32⟩
/-- MGT_RINGr_STAT.POISONED, bits 31:16, RO/V, reset 0. -/
def MGT_RING_STAT_POISONED (r : Nat) : Field := ⟨0x218 + r * 0x20, 16, 16⟩
/-- MGT_RINGr_STAT.READ_ERR, bit 4, RW1C, reset 0. -/
def MGT_RING_STAT_READ_ERR (r : Nat) : Field := ⟨0x218 + r * 0x20, 4, 1⟩
/-- MGT_RINGr_STAT.POISON_REC, bit 3, RW1C, reset 0. -/
def MGT_RING_STAT_POISON_REC (r : Nat) : Field := ⟨0x218 + r * 0x20, 3, 1⟩
/-- MGT_RINGr_STAT.RING_BAD, bit 2, RW1C, reset 0. -/
def MGT_RING_STAT_RING_BAD (r : Nat) : Field := ⟨0x218 + r * 0x20, 2, 1⟩
/-- MGT_RINGr_STAT.OVERRUN, bit 1, RW1C, reset 0. -/
def MGT_RING_STAT_OVERRUN (r : Nat) : Field := ⟨0x218 + r * 0x20, 1, 1⟩
/-- MGT_RINGr_STAT.ACTIVE, bit 0, RO/V, reset 0. -/
def MGT_RING_STAT_ACTIVE (r : Nat) : Field := ⟨0x218 + r * 0x20, 0, 1⟩
/-! FLT_STAT (14_faults_assay_ledger.md) -/
/-- FLT_STAT.INNK_RESTARTS, bits 63:56, RO/V, reset 0. -/
def FLT_STAT_INNK_RESTARTS : Field := ⟨0x50000, 56, 8⟩
/-- FLT_STAT.FENCED_TILES, bits 55:48, RO/V, reset start. -/
def FLT_STAT_FENCED_TILES : Field := ⟨0x50000, 48, 8⟩
/-- FLT_STAT.FENCED_ENG, bits 47:40, RO/V, reset start. -/
def FLT_STAT_FENCED_ENG : Field := ⟨0x50000, 40, 8⟩
/-- FLT_STAT.LEDGER_XSPI, bit 11, RW1C, reset 0. -/
def FLT_STAT_LEDGER_XSPI : Field := ⟨0x50000, 11, 1⟩
/-- FLT_STAT.EXPELLED, bit 10, RO/V, reset 0. -/
def FLT_STAT_EXPELLED : Field := ⟨0x50000, 10, 1⟩
/-- FLT_STAT.ASSAY_LATE, bit 9, RW1C, reset 0. -/
def FLT_STAT_ASSAY_LATE : Field := ⟨0x50000, 9, 1⟩
/-- FLT_STAT.ASSAY_SPLIT, bit 8, RW1C, reset 0. -/
def FLT_STAT_ASSAY_SPLIT : Field := ⟨0x50000, 8, 1⟩
/-- FLT_STAT.ASSAY_DIV, bit 7, RW1C, reset 0. -/
def FLT_STAT_ASSAY_DIV : Field := ⟨0x50000, 7, 1⟩
/-- FLT_STAT.KAT_TRANSIENT, bit 6, RW1C, reset 0. -/
def FLT_STAT_KAT_TRANSIENT : Field := ⟨0x50000, 6, 1⟩
/-- FLT_STAT.KAT_FAIL, bit 5, RW1C, reset 0. -/
def FLT_STAT_KAT_FAIL : Field := ⟨0x50000, 5, 1⟩
/-- FLT_STAT.FENCE, bit 4, RW1C, reset 0. -/
def FLT_STAT_FENCE : Field := ⟨0x50000, 4, 1⟩
/-- FLT_STAT.ERR_ON_ERR, bit 3, RW1C, reset 0. -/
def FLT_STAT_ERR_ON_ERR : Field := ⟨0x50000, 3, 1⟩
/-- FLT_STAT.TT_RESTART, bit 2, RW1C, reset 0. -/
def FLT_STAT_TT_RESTART : Field := ⟨0x50000, 2, 1⟩
/-- FLT_STAT.INNK_DOWN, bit 1, RO/V, reset 0. -/
def FLT_STAT_INNK_DOWN : Field := ⟨0x50000, 1, 1⟩
/-- FLT_STAT.HEALTH_CROSS, bit 0, RW1C, reset 0. -/
def FLT_STAT_HEALTH_CROSS : Field := ⟨0x50000, 0, 1⟩
/-! FLT_QUEUE (14_faults_assay_ledger.md) -/
/-- FLT_QUEUE.OVF_COUNT, bits 63:32, RO/V, reset 0. -/
def FLT_QUEUE_OVF_COUNT : Field := ⟨0x50008, 32, 32⟩
/-- FLT_QUEUE.LOST_UE, bit 16, RW1C, reset 0. -/
def FLT_QUEUE_LOST_UE : Field := ⟨0x50008, 16, 1⟩
/-- FLT_QUEUE.PEAK, bits 15:8, RO/V, reset 0. -/
def FLT_QUEUE_PEAK : Field := ⟨0x50008, 8, 8⟩
/-- FLT_QUEUE.DEPTH, bits 6:0, RO/V, reset 0. -/
def FLT_QUEUE_DEPTH : Field := ⟨0x50008, 0, 7⟩
/-! FLT_FENCE_TILE (14_faults_assay_ledger.md) -/
/-- FLT_FENCE_TILE.TILES, bits 63:0, RO/V, reset start. -/
def FLT_FENCE_TILE_TILES : Field := ⟨0x50010, 0, 64⟩
/-! FLT_FENCE_ENG (14_faults_assay_ledger.md) -/
/-- FLT_FENCE_ENG.ASSAYERS, bits 35:32, RO/V, reset start. -/
def FLT_FENCE_ENG_ASSAYERS : Field := ⟨0x50018, 32, 4⟩
/-- FLT_FENCE_ENG.KILNS, bits 31:24, RO/V, reset start. -/
def FLT_FENCE_ENG_KILNS : Field := ⟨0x50018, 24, 8⟩
/-- FLT_FENCE_ENG.TALLIES, bits 23:16, RO/V, reset start. -/
def FLT_FENCE_ENG_TALLIES : Field := ⟨0x50018, 16, 8⟩
/-- FLT_FENCE_ENG.WAYFARERS, bits 15:0, RO/V, reset start. -/
def FLT_FENCE_ENG_WAYFARERS : Field := ⟨0x50018, 0, 16⟩
/-! FLT_HEALTH (14_faults_assay_ledger.md) -/
/-- FLT_HEALTH.ARMED, bit 56, RO/V, reset 1. -/
def FLT_HEALTH_ARMED : Field := ⟨0x50020, 56, 1⟩
/-- FLT_HEALTH.C_NBR, bits 55:48, RO/V, reset 0. -/
def FLT_HEALTH_C_NBR : Field := ⟨0x50020, 48, 8⟩
/-- FLT_HEALTH.C_LINK, bits 47:40, RO/V, reset 0. -/
def FLT_HEALTH_C_LINK : Field := ⟨0x50020, 40, 8⟩
/-- FLT_HEALTH.C_DROOP, bits 39:32, RO/V, reset 0. -/
def FLT_HEALTH_C_DROOP : Field := ⟨0x50020, 32, 8⟩
/-- FLT_HEALTH.C_TEMP, bits 31:24, RO/V, reset 0. -/
def FLT_HEALTH_C_TEMP : Field := ⟨0x50020, 24, 8⟩
/-- FLT_HEALTH.C_CORR, bits 23:16, RO/V, reset 0. -/
def FLT_HEALTH_C_CORR : Field := ⟨0x50020, 16, 8⟩
/-- FLT_HEALTH.SCORE, bits 7:0, RO/V, reset 0. -/
def FLT_HEALTH_SCORE : Field := ⟨0x50020, 0, 8⟩
/-! FLT_HEALTH_CFG (14_faults_assay_ledger.md) -/
/-- FLT_HEALTH_CFG.W_NBR, bits 51:48, RO, reset Waybill. -/
def FLT_HEALTH_CFG_W_NBR : Field := ⟨0x50028, 48, 4⟩
/-- FLT_HEALTH_CFG.W_LINK, bits 47:44, RO, reset Waybill. -/
def FLT_HEALTH_CFG_W_LINK : Field := ⟨0x50028, 44, 4⟩
/-- FLT_HEALTH_CFG.W_DROOP, bits 43:40, RO, reset Waybill. -/
def FLT_HEALTH_CFG_W_DROOP : Field := ⟨0x50028, 40, 4⟩
/-- FLT_HEALTH_CFG.W_TEMP, bits 39:36, RO, reset Waybill. -/
def FLT_HEALTH_CFG_W_TEMP : Field := ⟨0x50028, 36, 4⟩
/-- FLT_HEALTH_CFG.W_CORR, bits 35:32, RO, reset Waybill. -/
def FLT_HEALTH_CFG_W_CORR : Field := ⟨0x50028, 32, 4⟩
/-- FLT_HEALTH_CFG.KAT_CYCLE, bits 31:24, RO, reset Waybill. -/
def FLT_HEALTH_CFG_KAT_CYCLE : Field := ⟨0x50028, 24, 8⟩
/-- FLT_HEALTH_CFG.FENCE_CKS, bits 23:20, RO, reset Waybill. -/
def FLT_HEALTH_CFG_FENCE_CKS : Field := ⟨0x50028, 20, 4⟩
/-- FLT_HEALTH_CFG.HYST, bits 15:8, RO, reset Waybill. -/
def FLT_HEALTH_CFG_HYST : Field := ⟨0x50028, 8, 8⟩
/-- FLT_HEALTH_CFG.CAST_THRESH, bits 7:0, RO, reset Waybill. -/
def FLT_HEALTH_CFG_CAST_THRESH : Field := ⟨0x50028, 0, 8⟩
/-! FLT_ASSAY_CFG (14_faults_assay_ledger.md) -/
/-- FLT_ASSAY_CFG.ASSAY_GROUP, bits 23:16, RO, reset Waybill. -/
def FLT_ASSAY_CFG_ASSAY_GROUP : Field := ⟨0x50030, 16, 8⟩
/-- FLT_ASSAY_CFG.K, bits 10:0, RO, reset Waybill. -/
def FLT_ASSAY_CFG_K : Field := ⟨0x50030, 0, 11⟩
/-! FLT_ASSAY_STAT (14_faults_assay_ledger.md) -/
/-- FLT_ASSAY_STAT.LAST_STEP, bits 63:32, RO/V, reset 0. -/
def FLT_ASSAY_STAT_LAST_STEP : Field := ⟨0x50038, 32, 32⟩
/-- FLT_ASSAY_STAT.LATE_COUNT, bits 31:24, RO/V, reset 0. -/
def FLT_ASSAY_STAT_LATE_COUNT : Field := ⟨0x50038, 24, 8⟩
/-- FLT_ASSAY_STAT.RUN, bits 23:16, RO/V, reset 0. -/
def FLT_ASSAY_STAT_RUN : Field := ⟨0x50038, 16, 8⟩
/-- FLT_ASSAY_STAT.RESULT, bits 9:8, RO/V, reset 0. -/
def FLT_ASSAY_STAT_RESULT : Field := ⟨0x50038, 8, 2⟩
/-- FLT_ASSAY_STAT.LAST_SWEEP, bits 3:0, RO/V, reset 0. -/
def FLT_ASSAY_STAT_LAST_SWEEP : Field := ⟨0x50038, 0, 4⟩
/-! FLT_CPER_STAT (14_faults_assay_ledger.md) -/
/-- FLT_CPER_STAT.DROPPED, bits 63:32, RO/V, reset 0. -/
def FLT_CPER_STAT_DROPPED : Field := ⟨0x50040, 32, 32⟩
/-- FLT_CPER_STAT.HELD, bits 8:0, RO/V, reset 0. -/
def FLT_CPER_STAT_HELD : Field := ⟨0x50040, 0, 9⟩
/-! FLT_KAT_STAT (14_faults_assay_ledger.md) -/
/-- FLT_KAT_STAT.TESTS_RUN, bits 63:32, RO/V, reset 0. -/
def FLT_KAT_STAT_TESTS_RUN : Field := ⟨0x50048, 32, 32⟩
/-- FLT_KAT_STAT.UNIT_CLASS, bits 31:24, RO/V, reset 0. -/
def FLT_KAT_STAT_UNIT_CLASS : Field := ⟨0x50048, 24, 8⟩
/-- FLT_KAT_STAT.FAILS, bits 23:16, RO/V, reset 0. -/
def FLT_KAT_STAT_FAILS : Field := ⟨0x50048, 16, 8⟩
/-- FLT_KAT_STAT.UNIT_INDEX, bits 15:0, RO/V, reset 0. -/
def FLT_KAT_STAT_UNIT_INDEX : Field := ⟨0x50048, 0, 16⟩
/-! LINK_PAIR_STATUS (15_casts_and_relief.md) -/
/-- LINK_PAIR_STATUS.PEER_FEED, bits 23:16, RO/V, reset 0. -/
def LINK_PAIR_STATUS_PEER_FEED : Field := ⟨0x80010, 16, 8⟩
/-- LINK_PAIR_STATUS.OWN_FEED, bits 15:8, RO, reset strap. -/
def LINK_PAIR_STATUS_OWN_FEED : Field := ⟨0x80010, 8, 8⟩
/-- LINK_PAIR_STATUS.GUEST_SMALL, bit 4, RO/V, reset 0. -/
def LINK_PAIR_STATUS_GUEST_SMALL : Field := ⟨0x80010, 4, 1⟩
/-- LINK_PAIR_STATUS.GUEST_SLOTS, bits 3:2, RO/V, reset 0. -/
def LINK_PAIR_STATUS_GUEST_SLOTS : Field := ⟨0x80010, 2, 2⟩
/-- LINK_PAIR_STATUS.PARTNER_TIER, bit 1, RO/V, reset 0. -/
def LINK_PAIR_STATUS_PARTNER_TIER : Field := ⟨0x80010, 1, 1⟩
/-- LINK_PAIR_STATUS.SHARED_FEED, bit 0, RO/V, reset 0. -/
def LINK_PAIR_STATUS_SHARED_FEED : Field := ⟨0x80010, 0, 1⟩
/-! ENG_CAST_CFG (15_casts_and_relief.md) -/
/-- ENG_CAST_CFG.RELIEF_OF, bits 63:48, RO, reset Waybill. -/
def ENG_CAST_CFG_RELIEF_OF : Field := ⟨0x630000, 48, 16⟩
/-- ENG_CAST_CFG.SPARE, bit 47, RO, reset Waybill. -/
def ENG_CAST_CFG_SPARE : Field := ⟨0x630000, 47, 1⟩
/-- ENG_CAST_CFG.REPLAYABLE, bit 46, RO, reset Waybill. -/
def ENG_CAST_CFG_REPLAYABLE : Field := ⟨0x630000, 46, 1⟩
/-- ENG_CAST_CFG.GUEST_SIZE, bits 43:32, RO, reset Waybill. -/
def ENG_CAST_CFG_GUEST_SIZE : Field := ⟨0x630000, 32, 12⟩
/-- ENG_CAST_CFG.CAST_STAGE, bits 31:16, RO, reset Waybill. -/
def ENG_CAST_CFG_CAST_STAGE : Field := ⟨0x630000, 16, 16⟩
/-- ENG_CAST_CFG.CAST_EVERY, bits 15:0, RO, reset Waybill. -/
def ENG_CAST_CFG_CAST_EVERY : Field := ⟨0x630000, 0, 16⟩
/-! ENG_CAST_CTL (15_casts_and_relief.md) -/
/-- ENG_CAST_CTL.AT_STEP, bits 63:16, RW, reset 0. -/
def ENG_CAST_CTL_AT_STEP : Field := ⟨0x630008, 16, 48⟩
/-- ENG_CAST_CTL.AT_VALID, bit 1, RW, reset 0. -/
def ENG_CAST_CTL_AT_VALID : Field := ⟨0x630008, 1, 1⟩
/-- ENG_CAST_CTL.REQ, bit 0, WO, reset 0. -/
def ENG_CAST_CTL_REQ : Field := ⟨0x630008, 0, 1⟩
/-! ENG_CAST_STAT (15_casts_and_relief.md) -/
/-- ENG_CAST_STAT.LAST_GEN, bits 63:32, RO/V, reset start. -/
def ENG_CAST_STAT_LAST_GEN : Field := ⟨0x630010, 32, 32⟩
/-- ENG_CAST_STAT.REQ_BAD, bit 11, RW1C, reset 0. -/
def ENG_CAST_STAT_REQ_BAD : Field := ⟨0x630010, 11, 1⟩
/-- ENG_CAST_STAT.HOST_ERR, bit 10, RW1C, reset 0. -/
def ENG_CAST_STAT_HOST_ERR : Field := ⟨0x630010, 10, 1⟩
/-- ENG_CAST_STAT.GUEST_EMPTY, bit 9, RW1C, reset 0. -/
def ENG_CAST_STAT_GUEST_EMPTY : Field := ⟨0x630010, 9, 1⟩
/-- ENG_CAST_STAT.NAND_ERR, bit 8, RW1C, reset 0. -/
def ENG_CAST_STAT_NAND_ERR : Field := ⟨0x630010, 8, 1⟩
/-- ENG_CAST_STAT.ABANDONED, bit 7, RW1C, reset 0. -/
def ENG_CAST_STAT_ABANDONED : Field := ⟨0x630010, 7, 1⟩
/-- ENG_CAST_STAT.P_ABANDON, bit 6, RW1C, reset 0. -/
def ENG_CAST_STAT_P_ABANDON : Field := ⟨0x630010, 6, 1⟩
/-- ENG_CAST_STAT.DAMAGED, bit 5, RW1C, reset 0. -/
def ENG_CAST_STAT_DAMAGED : Field := ⟨0x630010, 5, 1⟩
/-- ENG_CAST_STAT.STAGE_WAIT, bit 4, RW1C, reset 0. -/
def ENG_CAST_STAT_STAGE_WAIT : Field := ⟨0x630010, 4, 1⟩
/-- ENG_CAST_STAT.N_DONE, bit 3, RO/V, reset 0. -/
def ENG_CAST_STAT_N_DONE : Field := ⟨0x630010, 3, 1⟩
/-- ENG_CAST_STAT.P_DONE, bit 2, RO/V, reset 0. -/
def ENG_CAST_STAT_P_DONE : Field := ⟨0x630010, 2, 1⟩
/-- ENG_CAST_STAT.PENDING, bit 1, RO/V, reset 0. -/
def ENG_CAST_STAT_PENDING : Field := ⟨0x630010, 1, 1⟩
/-- ENG_CAST_STAT.ACTIVE, bit 0, RO/V, reset 0. -/
def ENG_CAST_STAT_ACTIVE : Field := ⟨0x630010, 0, 1⟩
/-! ENG_RESTORE_CTL (15_casts_and_relief.md) -/
/-- ENG_RESTORE_CTL.STEP, bits 63:16, RW, reset 0. -/
def ENG_RESTORE_CTL_STEP : Field := ⟨0x630018, 16, 48⟩
/-- ENG_RESTORE_CTL.EVAL, bit 6, RW, reset 0. -/
def ENG_RESTORE_CTL_EVAL : Field := ⟨0x630018, 6, 1⟩
/-- ENG_RESTORE_CTL.SRC, bits 5:4, RW, reset 0. -/
def ENG_RESTORE_CTL_SRC : Field := ⟨0x630018, 4, 2⟩
/-- ENG_RESTORE_CTL.GO, bit 0, WO, reset 0. -/
def ENG_RESTORE_CTL_GO : Field := ⟨0x630018, 0, 1⟩
/-! ENG_RESTORE_STAT (15_casts_and_relief.md) -/
/-- ENG_RESTORE_STAT.PAGES_DONE, bits 63:32, RO/V, reset 0. -/
def ENG_RESTORE_STAT_PAGES_DONE : Field := ⟨0x630020, 32, 32⟩
/-- ENG_RESTORE_STAT.REASON, bits 11:8, RO/V, reset 0. -/
def ENG_RESTORE_STAT_REASON : Field := ⟨0x630020, 8, 4⟩
/-- ENG_RESTORE_STAT.STATE, bits 3:0, RO/V, reset 0. -/
def ENG_RESTORE_STAT_STATE : Field := ⟨0x630020, 0, 4⟩
/-! ENG_CAST_HOST_BASE (15_casts_and_relief.md) -/
/-- ENG_CAST_HOST_BASE.BASE, bits 63:21, RW, reset 0. -/
def ENG_CAST_HOST_BASE_BASE : Field := ⟨0x630028, 21, 43⟩
/-! ENG_CAST_HOST (15_casts_and_relief.md) -/
/-- ENG_CAST_HOST.OFFSET, bits 63:32, RO/V, reset 0. -/
def ENG_CAST_HOST_OFFSET : Field := ⟨0x630030, 32, 32⟩
/-- ENG_CAST_HOST.WIN, bits 31:24, RW, reset 1. -/
def ENG_CAST_HOST_WIN : Field := ⟨0x630030, 24, 8⟩
/-- ENG_CAST_HOST.SLOT, bits 23:20, RW, reset 0. -/
def ENG_CAST_HOST_SLOT : Field := ⟨0x630030, 20, 4⟩
/-- ENG_CAST_HOST.DONE, bit 7, RW1C, reset 0. -/
def ENG_CAST_HOST_DONE : Field := ⟨0x630030, 7, 1⟩
/-- ENG_CAST_HOST.WIN_HOST, bit 6, RO/V, reset 0. -/
def ENG_CAST_HOST_WIN_HOST : Field := ⟨0x630030, 6, 1⟩
/-- ENG_CAST_HOST.OP, bits 5:4, RO/V, reset 0. -/
def ENG_CAST_HOST_OP : Field := ⟨0x630030, 4, 2⟩
/-- ENG_CAST_HOST.STORED, bit 2, WO, reset 0. -/
def ENG_CAST_HOST_STORED : Field := ⟨0x630030, 2, 1⟩
/-- ENG_CAST_HOST.NEXT, bit 1, WO, reset 0. -/
def ENG_CAST_HOST_NEXT : Field := ⟨0x630030, 1, 1⟩
/-- ENG_CAST_HOST.EXPORT, bit 0, WO, reset 0. -/
def ENG_CAST_HOST_EXPORT : Field := ⟨0x630030, 0, 1⟩
/-! ENG_CAST_SLOTs_A (15_casts_and_relief.md) -/
/-- ENG_CAST_SLOTs_A.STEP, bits 63:16, RO/V, reset start. -/
def ENG_CAST_SLOT_A_STEP (s : Nat) : Field := ⟨0x630100 + s * 0x10, 16, 48⟩
/-- ENG_CAST_SLOTs_A.EXPORTING, bit 8, RO/V, reset 0. -/
def ENG_CAST_SLOT_A_EXPORTING (s : Nat) : Field := ⟨0x630100 + s * 0x10, 8, 1⟩
/-- ENG_CAST_SLOTs_A.SUPERSEDED, bit 7, RO/V, reset start. -/
def ENG_CAST_SLOT_A_SUPERSEDED (s : Nat) : Field := ⟨0x630100 + s * 0x10, 7, 1⟩
/-- ENG_CAST_SLOTs_A.EXPORTED, bit 6, RO/V, reset start. -/
def ENG_CAST_SLOT_A_EXPORTED (s : Nat) : Field := ⟨0x630100 + s * 0x10, 6, 1⟩
/-- ENG_CAST_SLOTs_A.VERIFIED, bit 5, RO/V, reset start. -/
def ENG_CAST_SLOT_A_VERIFIED (s : Nat) : Field := ⟨0x630100 + s * 0x10, 5, 1⟩
/-- ENG_CAST_SLOTs_A.SECURED, bit 4, RO/V, reset start. -/
def ENG_CAST_SLOT_A_SECURED (s : Nat) : Field := ⟨0x630100 + s * 0x10, 4, 1⟩
/-- ENG_CAST_SLOTs_A.DAMAGED, bit 3, RO/V, reset start. -/
def ENG_CAST_SLOT_A_DAMAGED (s : Nat) : Field := ⟨0x630100 + s * 0x10, 3, 1⟩
/-- ENG_CAST_SLOTs_A.COMPLETE, bit 2, RO/V, reset start. -/
def ENG_CAST_SLOT_A_COMPLETE (s : Nat) : Field := ⟨0x630100 + s * 0x10, 2, 1⟩
/-- ENG_CAST_SLOTs_A.WRITING, bit 1, RO/V, reset 0. -/
def ENG_CAST_SLOT_A_WRITING (s : Nat) : Field := ⟨0x630100 + s * 0x10, 1, 1⟩
/-- ENG_CAST_SLOTs_A.VALID, bit 0, RO/V, reset start. -/
def ENG_CAST_SLOT_A_VALID (s : Nat) : Field := ⟨0x630100 + s * 0x10, 0, 1⟩
/-! ENG_CAST_SLOTs_B (15_casts_and_relief.md) -/
/-- ENG_CAST_SLOTs_B.GEN, bits 63:32, RO/V, reset start. -/
def ENG_CAST_SLOT_B_GEN (s : Nat) : Field := ⟨0x630108 + s * 0x10, 32, 32⟩
/-- ENG_CAST_SLOTs_B.PERIOD, bits 31:0, RO/V, reset start. -/
def ENG_CAST_SLOT_B_PERIOD (s : Nat) : Field := ⟨0x630108 + s * 0x10, 0, 32⟩
/-! PERF_CTL (16_performance_counters.md) -/
/-- PERF_CTL.DUMP_ALL, bit 2, WO, reset 0. -/
def PERF_CTL_DUMP_ALL : Field := ⟨0x40000, 2, 1⟩
/-- PERF_CTL.FREEZE_ALL, bit 1, RW, reset 0. -/
def PERF_CTL_FREEZE_ALL : Field := ⟨0x40000, 1, 1⟩
/-- PERF_CTL.RING_EN, bit 0, RW, reset 0. -/
def PERF_CTL_RING_EN : Field := ⟨0x40000, 0, 1⟩
/-! PERF_RING_BASE (16_performance_counters.md) -/
/-- PERF_RING_BASE.BASE, bits 39:12, RW, reset 0. -/
def PERF_RING_BASE_BASE : Field := ⟨0x40008, 12, 28⟩
/-- PERF_RING_BASE.LOG2_REC, bits 4:0, RW, reset 0. -/
def PERF_RING_BASE_LOG2_REC : Field := ⟨0x40008, 0, 5⟩
/-! PERF_RING_PROD (16_performance_counters.md) -/
/-- PERF_RING_PROD.PROD, bits 63:0, RO/V, reset 0. -/
def PERF_RING_PROD_PROD : Field := ⟨0x40010, 0, 64⟩
/-! PERF_RING_CONS (16_performance_counters.md) -/
/-- PERF_RING_CONS.CONS, bits 63:0, RW, reset 0. -/
def PERF_RING_CONS_CONS : Field := ⟨0x40018, 0, 64⟩
/-! PERF_RING_STAT (16_performance_counters.md) -/
/-- PERF_RING_STAT.DROP_FULL, bits 63:32, RO/V, reset 0. -/
def PERF_RING_STAT_DROP_FULL : Field := ⟨0x40020, 32, 32⟩
/-- PERF_RING_STAT.DROP_BIAS, bits 31:16, RO/V, reset 0. -/
def PERF_RING_STAT_DROP_BIAS : Field := ⟨0x40020, 16, 16⟩
/-- PERF_RING_STAT.QUEUE_DEPTH, bits 8:0, RO/V, reset 0. -/
def PERF_RING_STAT_QUEUE_DEPTH : Field := ⟨0x40020, 0, 9⟩
/-! PERF_Bb_CYC (16_performance_counters.md) -/
/-- PERF_Bb_CYC.CYC, bits 63:0, RO/V, reset 0. -/
def PERF_B_CYC_CYC (b : Nat) : Field := ⟨0x41000 + b * 0x100, 0, 64⟩
/-! PERF_Bb_CFG (16_performance_counters.md) -/
/-- PERF_Bb_CFG.DUMP_K, bits 15:11, RW, reset 20. -/
def PERF_B_CFG_DUMP_K (b : Nat) : Field := ⟨0x41008 + b * 0x100, 11, 5⟩
/-- PERF_Bb_CFG.DUMP_EN, bit 10, RW, reset 0. -/
def PERF_B_CFG_DUMP_EN (b : Nat) : Field := ⟨0x41008 + b * 0x100, 10, 1⟩
/-- PERF_Bb_CFG.FREEZE, bit 9, RW, reset 0. -/
def PERF_B_CFG_FREEZE (b : Nat) : Field := ⟨0x41008 + b * 0x100, 9, 1⟩
/-- PERF_Bb_CFG.CLEAR, bit 8, WO, reset 0. -/
def PERF_B_CFG_CLEAR (b : Nat) : Field := ⟨0x41008 + b * 0x100, 8, 1⟩
/-- PERF_Bb_CFG.KIND, bits 7:0, RO, reset 0 to 6. -/
def PERF_B_CFG_KIND (b : Nat) : Field := ⟨0x41008 + b * 0x100, 0, 8⟩
/-! PERF_Bb_STAT (16_performance_counters.md) -/
/-- PERF_Bb_STAT.DUMPS, bits 39:8, RO/V, reset 0. -/
def PERF_B_STAT_DUMPS (b : Nat) : Field := ⟨0x41010 + b * 0x100, 8, 32⟩
/-- PERF_Bb_STAT.OVF, bits 7:0, RW1C, reset 0. -/
def PERF_B_STAT_OVF (b : Nat) : Field := ⟨0x41010 + b * 0x100, 0, 8⟩
/-! PERF_Bb_CNTi (16_performance_counters.md) -/
/-- PERF_Bb_CNTi.COUNT, bits 47:0, RO/V, reset 0. -/
def PERF_B_CNT_COUNT (b : Nat) (i : Nat) : Field := ⟨0x41040 + b * 0x100 + i * 0x8, 0, 48⟩
/-! PERF_Bb_SELi (16_performance_counters.md) -/
/-- PERF_Bb_SELi.SEL_BAD, bit 63, RO/V, reset 0. -/
def PERF_B_SEL_SEL_BAD (b : Nat) (i : Nat) : Field := ⟨0x41080 + b * 0x100 + i * 0x8, 63, 1⟩
/-- PERF_Bb_SELi.PHASE_MASK, bits 37:32, RW, reset 0x3F. -/
def PERF_B_SEL_PHASE_MASK (b : Nat) (i : Nat) : Field := ⟨0x41080 + b * 0x100 + i * 0x8, 32, 6⟩
/-- PERF_Bb_SELi.THRESH, bits 31:16, RW, reset 0. -/
def PERF_B_SEL_THRESH (b : Nat) (i : Nat) : Field := ⟨0x41080 + b * 0x100 + i * 0x8, 16, 16⟩
/-- PERF_Bb_SELi.UMASK, bits 15:12, RW, reset 0. -/
def PERF_B_SEL_UMASK (b : Nat) (i : Nat) : Field := ⟨0x41080 + b * 0x100 + i * 0x8, 12, 4⟩
/-- PERF_Bb_SELi.MODE, bits 9:8, RW, reset 0. -/
def PERF_B_SEL_MODE (b : Nat) (i : Nat) : Field := ⟨0x41080 + b * 0x100 + i * 0x8, 8, 2⟩
/-- PERF_Bb_SELi.EVENT, bits 7:0, RW, reset 0. -/
def PERF_B_SEL_EVENT (b : Nat) (i : Nat) : Field := ⟨0x41080 + b * 0x100 + i * 0x8, 0, 8⟩

end F

/-- Cards 0 to 23. -/
def cards0 : List Card := [
  ⟨0x100, 0x0, 1, 0x0, 1, 0x0, 0x0, 0x0, 0x0, 0xFFFFFFFFFFFFFF⟩,
  ⟨0x108, 0x0, 1, 0x0, 1, 0x0, 0x0, 0x0, 0x0, 0xFFFFFFFFFFFFFF⟩,
  ⟨0x110, 0x0, 1, 0x0, 1, 0x0, 0x0, 0xF0000000000, 0x0, 0x0⟩,
  ⟨0x118, 0x0, 1, 0x0, 1, 0x0, 0x0, 0x0, 0x0, 0x0⟩,
  ⟨0x100400, 0x10000, 64, 0x0, 1, 0x0, 0x0, 0xFF, 0x0, 0x0⟩,
  ⟨0x100408, 0x10000, 64, 0x0, 1, 0x0, 0x0, 0x0, 0x0, 0x0⟩,
  ⟨0x100410, 0x10000, 64, 0x0, 1, 0x0, 0x0, 0x0, 0x0, 0x0⟩,
  ⟨0x100300, 0x10000, 64, 0x0, 1, 0x0, 0x1F03, 0x0, 0x0, 0x1F03⟩,
  ⟨0x100308, 0x10000, 64, 0x0, 1, 0x0, 0x0, 0x1F, 0x0, 0x0⟩,
  ⟨0x100310, 0x10000, 64, 0x0, 1, 0x0, 0x0, 0x0, 0x0, 0x0⟩,
  ⟨0x100318, 0x10000, 64, 0x0, 1, 0x0, 0x0, 0x0, 0x0, 0x0⟩,
  ⟨0x100500, 0x10000, 64, 0x0, 1, 0x0, 0x0, 0x4000000000000000, 0x0, 0x0⟩,
  ⟨0x100508, 0x10000, 64, 0x0, 1, 0x0, 0x0, 0x300000000000000, 0x0, 0x0⟩,
  ⟨0x100600, 0x10000, 64, 0x0, 1, 0x0, 0x0, 0x1F, 0x0, 0x0⟩,
  ⟨0x600000, 0x1000, 16, 0x0, 1, 0x0, 0x0, 0x7E, 0x0, 0x0⟩,
  ⟨0x610000, 0x1000, 8, 0x0, 1, 0x0, 0x0, 0xF, 0x0, 0x0⟩,
  ⟨0x618000, 0x1000, 8, 0x0, 1, 0x0, 0x0, 0xF, 0x0, 0x0⟩,
  ⟨0xC0000, 0x0, 1, 0x0, 1, 0x0, 0x0, 0x0, 0x0, 0x1FFFF00003F⟩,
  ⟨0xC0008, 0x0, 1, 0x0, 1, 0x0, 0x0, 0x0, 0x0, 0x7F7F⟩,
  ⟨0xC0010, 0x0, 1, 0x0, 1, 0x0, 0x0, 0x0, 0x0, 0x0⟩,
  ⟨0xC0018, 0x0, 1, 0x0, 1, 0x0, 0x0, 0x7F, 0x0, 0x0⟩,
  ⟨0xC0020, 0x0, 1, 0x0, 1, 0x0, 0xFFFF00001FFE, 0x0, 0x1, 0xFFFF0000000E⟩,
  ⟨0xC0028, 0x0, 1, 0x0, 1, 0x0, 0x0, 0x0, 0x0, 0x0⟩,
  ⟨0xC0030, 0x0, 1, 0x0, 1, 0x0, 0x0, 0x0, 0x0, 0x0⟩]

/-- Cards 24 to 47. -/
def cards1 : List Card := [
  ⟨0xC1000, 0x8, 288, 0x0, 1, 0x0, 0x0, 0x0, 0x0, 0x0⟩,
  ⟨0x60000, 0x0, 1, 0x0, 1, 0x0, 0x0, 0x0, 0x0, 0x0⟩,
  ⟨0x60008, 0x0, 1, 0x0, 1, 0x0, 0x0, 0x0, 0x0, 0xFFFFFF0FFFFFFF⟩,
  ⟨0x60010, 0x0, 1, 0x0, 1, 0x0, 0x0, 0xFF, 0x0, 0x0⟩,
  ⟨0x60018, 0x0, 1, 0x0, 1, 0x0, 0x0, 0x0, 0x0, 0x0⟩,
  ⟨0x60020, 0x0, 1, 0x0, 1, 0x0, 0xFFF, 0x0, 0x0, 0x0⟩,
  ⟨0x60028, 0x0, 1, 0x0, 1, 0x0, 0x0, 0x0, 0x0, 0xFF000000⟩,
  ⟨0x60030, 0x0, 1, 0x0, 1, 0x0, 0x0, 0x0, 0x0, 0xFFFFFFFFFF⟩,
  ⟨0x80000, 0x0, 1, 0x0, 1, 0x110000000000, 0x0, 0x0, 0x0, 0xFFFF0000⟩,
  ⟨0x80008, 0x0, 1, 0x0, 1, 0x0, 0x0, 0x1C, 0x0, 0x2⟩,
  ⟨0x80100, 0x10, 18, 0x0, 1, 0x0, 0x0, 0x1E0, 0x0, 0x0⟩,
  ⟨0x80108, 0x10, 18, 0x0, 1, 0x0, 0x0, 0x0, 0x0, 0x0⟩,
  ⟨0xA0000, 0x0, 1, 0x0, 1, 0x0, 0x0, 0x3FE, 0x0, 0x0⟩,
  ⟨0xA0008, 0x0, 1, 0x0, 1, 0x0, 0x0, 0x0, 0x0, 0x0⟩,
  ⟨0xA0010, 0x0, 1, 0x0, 1, 0x0, 0x3FF00FF, 0x0, 0x0, 0x0⟩,
  ⟨0xA0018, 0x0, 1, 0x0, 1, 0x0, 0x0, 0x0, 0x0, 0x7FFFFFFFFFFFFFF⟩,
  ⟨0x10000, 0x0, 1, 0x0, 1, 0x0, 0xFFF, 0x0, 0x0, 0xFFFFFFFFFFFF⟩,
  ⟨0x10008, 0x0, 1, 0x0, 1, 0x3D0900000000000, 0x0, 0xFF8, 0x0, 0x0⟩,
  ⟨0x10010, 0x0, 1, 0x0, 1, 0x0, 0x0, 0x0, 0x0, 0x0⟩,
  ⟨0x10018, 0x0, 1, 0x0, 1, 0xFFFF, 0x0, 0x0, 0x0, 0x0⟩,
  ⟨0x10020, 0x0, 1, 0x0, 1, 0x0, 0x0, 0x0, 0x0, 0xFFFFF000⟩,
  ⟨0x10028, 0x0, 1, 0x0, 1, 0x0, 0x0, 0x0, 0x0, 0xFFFF00000000⟩,
  ⟨0x10100, 0x8, 155, 0x0, 1, 0x0, 0x0, 0x0, 0x0, 0x0⟩,
  ⟨0x20000, 0x0, 1, 0x0, 1, 0x0, 0x0, 0x0, 0x0, 0xFFFFFFFFFFF000⟩]

/-- Cards 48 to 71. -/
def cards2 : List Card := [
  ⟨0x20008, 0x0, 1, 0x0, 1, 0x0, 0x0, 0x0, 0x0, 0xFFF3⟩,
  ⟨0x20010, 0x0, 1, 0x0, 1, 0x0, 0x0, 0x80, 0x0, 0x0⟩,
  ⟨0x20018, 0x0, 1, 0x0, 1, 0x0, 0x0, 0x0, 0x0, 0x0⟩,
  ⟨0x20020, 0x0, 1, 0x0, 1, 0x0, 0x0, 0x0, 0x0, 0xFFFFFF000FFF⟩,
  ⟨0x0, 0x0, 1, 0x0, 1, 0x1F9A406411100000, 0x0, 0x0, 0x0, 0x0⟩,
  ⟨0x8, 0x0, 1, 0x0, 1, 0x0, 0x0, 0x1E, 0x0, 0x0⟩,
  ⟨0x10, 0x0, 1, 0x0, 1, 0x0, 0x0, 0x0, 0x0, 0xFFFFFFFF00000000⟩,
  ⟨0x120, 0x0, 1, 0x0, 1, 0x0, 0x0, 0x0, 0x3, 0xFFFFFF80⟩,
  ⟨0x128, 0x0, 1, 0x0, 1, 0x0, 0x3FFFF, 0x180000, 0x600000, 0x0⟩,
  ⟨0x200, 0x20, 8, 0x0, 1, 0x0, 0xFFFFFFFFFFFFF001, 0x0, 0x0, 0x0⟩,
  ⟨0x208, 0x20, 8, 0x0, 1, 0xA, 0xFF, 0x0, 0x0, 0x0⟩,
  ⟨0x210, 0x20, 8, 0x0, 1, 0x0, 0x0, 0x0, 0x0, 0x0⟩,
  ⟨0x218, 0x20, 8, 0x0, 1, 0x0, 0x0, 0x1E, 0x0, 0x0⟩,
  ⟨0x50000, 0x0, 1, 0x0, 1, 0x0, 0x0, 0xBFD, 0x0, 0x0⟩,
  ⟨0x50008, 0x0, 1, 0x0, 1, 0x0, 0x0, 0x10000, 0x0, 0x0⟩,
  ⟨0x50010, 0x0, 1, 0x0, 1, 0x0, 0x0, 0x0, 0x0, 0x0⟩,
  ⟨0x50018, 0x0, 1, 0x0, 1, 0x0, 0x0, 0x0, 0x0, 0x0⟩,
  ⟨0x50020, 0x0, 1, 0x0, 1, 0x100000000000000, 0x0, 0x0, 0x0, 0x0⟩,
  ⟨0x50028, 0x0, 1, 0x0, 1, 0x0, 0x0, 0x0, 0x0, 0xFFFFFFFF0FFFF⟩,
  ⟨0x50030, 0x0, 1, 0x0, 1, 0x0, 0x0, 0x0, 0x0, 0xFF07FF⟩,
  ⟨0x50038, 0x0, 1, 0x0, 1, 0x0, 0x0, 0x0, 0x0, 0x0⟩,
  ⟨0x50040, 0x0, 1, 0x0, 1, 0x0, 0x0, 0x0, 0x0, 0x0⟩,
  ⟨0x50048, 0x0, 1, 0x0, 1, 0x0, 0x0, 0x0, 0x0, 0x0⟩,
  ⟨0x80010, 0x0, 1, 0x0, 1, 0x0, 0x0, 0x0, 0x0, 0x0⟩]

/-- Cards 72 to 90. -/
def cards3 : List Card := [
  ⟨0x630000, 0x0, 1, 0x0, 1, 0x0, 0x0, 0x0, 0x0, 0xFFFFCFFFFFFFFFFF⟩,
  ⟨0x630008, 0x0, 1, 0x0, 1, 0x0, 0xFFFFFFFFFFFF0002, 0x0, 0x1, 0x0⟩,
  ⟨0x630010, 0x0, 1, 0x0, 1, 0x0, 0x0, 0xFF0, 0x0, 0x0⟩,
  ⟨0x630018, 0x0, 1, 0x0, 1, 0x0, 0xFFFFFFFFFFFF0070, 0x0, 0x1, 0x0⟩,
  ⟨0x630020, 0x0, 1, 0x0, 1, 0x0, 0x0, 0x0, 0x0, 0x0⟩,
  ⟨0x630028, 0x0, 1, 0x0, 1, 0x0, 0xFFFFFFFFFFE00000, 0x0, 0x0, 0x0⟩,
  ⟨0x630030, 0x0, 1, 0x0, 1, 0x1000000, 0xFFF00000, 0x80, 0x7, 0x0⟩,
  ⟨0x630100, 0x10, 10, 0x0, 1, 0x0, 0x0, 0x0, 0x0, 0x0⟩,
  ⟨0x630108, 0x10, 10, 0x0, 1, 0x0, 0x0, 0x0, 0x0, 0x0⟩,
  ⟨0x40000, 0x0, 1, 0x0, 1, 0x0, 0x3, 0x0, 0x4, 0x0⟩,
  ⟨0x40008, 0x0, 1, 0x0, 1, 0x0, 0xFFFFFFF01F, 0x0, 0x0, 0x0⟩,
  ⟨0x40010, 0x0, 1, 0x0, 1, 0x0, 0x0, 0x0, 0x0, 0x0⟩,
  ⟨0x40018, 0x0, 1, 0x0, 1, 0x0, 0xFFFFFFFFFFFFFFFF, 0x0, 0x0, 0x0⟩,
  ⟨0x40020, 0x0, 1, 0x0, 1, 0x0, 0x0, 0x0, 0x0, 0x0⟩,
  ⟨0x41000, 0x100, 119, 0x0, 1, 0x0, 0x0, 0x0, 0x0, 0x0⟩,
  ⟨0x41008, 0x100, 119, 0x0, 1, 0xA000, 0xFE00, 0x0, 0x100, 0x0⟩,
  ⟨0x41010, 0x100, 119, 0x0, 1, 0x0, 0x0, 0xFF, 0x0, 0x0⟩,
  ⟨0x41040, 0x100, 119, 0x8, 8, 0x0, 0x0, 0x0, 0x0, 0x0⟩,
  ⟨0x41080, 0x100, 119, 0x8, 8, 0x3F00000000, 0x3FFFFFF3FF, 0x0, 0x0, 0x0⟩]

/-- The cards of function 0 but the Pigeonholes', in offset order within each chapter. -/
def cards : List Card := cards0 ++ cards1 ++ cards2 ++ cards3

/-- The card of the register at an offset. -/
def cardAt (o : Nat) : Option Card := cards.find? (fun c => c.holds o)

/-- What a register that nothing has written holds: the numbers of its Reset column (R12). -/
def regReset (o : Nat) : U64 :=
  match cardAt o with
  | some c => BitVec.ofNat 64 c.reset
  | none => 0

end Sys2Proof.Machine
end

