-- ==== Sys2Proof/Machine/Sparse.lean ====
section
/-! DEFINITION. The one canonical form in which the model holds sparse storage (memories, registers, marks): a list of key and
value pairs, keys strictly rising, no entry whose value is what an unlisted key reads as. -/

namespace Sys2Proof.Machine

/-- Sparse storage: pairs of key and value, keys strictly rising. -/
abbrev Sparse (α : Type) := List (Nat × α)

/-- The value listed for key `k`. -/
def Sparse.find {α : Type} : Sparse α → Nat → Option α
  | [], _ => none
  | (j, v) :: m, k => if j = k then some v else if k < j then none else Sparse.find m k

/-- List `v` for key `k`. -/
def Sparse.insert {α : Type} : Sparse α → Nat → α → Sparse α
  | [], k, v => [(k, v)]
  | (j, u) :: m, k, v =>
    if k < j then (k, v) :: (j, u) :: m
    else if j = k then (k, v) :: m
    else (j, u) :: Sparse.insert m k v

/-- List nothing for key `k`. -/
def Sparse.erase {α : Type} : Sparse α → Nat → Sparse α
  | [], _ => []
  | (j, u) :: m, k =>
    if k < j then (j, u) :: m
    else if j = k then m
    else (j, u) :: Sparse.erase m k

/-- The entries of the `n` keys from `lo`. -/
def Sparse.range {α : Type} (m : Sparse α) (lo n : Nat) : Sparse α :=
  m.filter (fun e => lo ≤ e.1 && e.1 < lo + n)

/-- Read key `k` where an unlisted key reads as `d k`. -/
def Sparse.getD {α : Type} (m : Sparse α) (k : Nat) (d : α) : α := (Sparse.find m k).getD d

/-- Write `v` at `k` where an unlisted key reads as `d`: the canonical form lists no `d`. -/
def Sparse.put {α : Type} [DecidableEq α] (m : Sparse α) (k : Nat) (v d : α) : Sparse α :=
  if v = d then Sparse.erase m k else Sparse.insert m k v

/-- Strictly rising keys. -/
def Sparse.sorted {α : Type} : Sparse α → Bool
  | [] => true
  | [_] => true
  | a :: b :: m => decide (a.1 < b.1) && Sparse.sorted (b :: m)

/-- A set of numbers, strictly rising. -/
abbrev NatSet := List Nat

/-- Add `k`. -/
def NatSet.add : NatSet → Nat → NatSet
  | [], k => [k]
  | j :: m, k => if k < j then k :: j :: m else if j = k then j :: m else j :: NatSet.add m k

/-- Remove `k`. -/
def NatSet.del (m : NatSet) (k : Nat) : NatSet := m.filter (fun j => j != k)

/-- Strictly rising. -/
def NatSet.sorted : NatSet → Bool
  | [] => true
  | [_] => true
  | a :: b :: m => decide (a < b) && NatSet.sorted (b :: m)

end Sys2Proof.Machine
end

