-- ==== Sys2Proof/Machine/State.lean ====
section
/-! DEFINITION. The state of the module, as plain data: every register, memory, queue, buffer and mode the spec gives it, what
outlives a start (flash), the commands waiting, and the reasons a step can stop. -/

namespace Sys2Proof.Machine

/-- Why a step stops with a fault. -/
inductive Fault where
  /-- Raised by the start-up commands when the running Waybill breaks a clock ratio limit of R305, which hardware does not check
  and outside which R3 calls the behaviour undefined. Safe: the hardware goes on with behaviour the spec does not give. -/
  | clockRatioUndefined
  deriving DecidableEq, Repr

/-- Why a command has no meaning. -/
inductive Refusal where
  /-- Raised by a dispatch arm whose meaning is not written. Safe. -/
  | notModelled (mnemonic : String)
  deriving DecidableEq, Repr

/-- What the module sends or signals. -/
inductive Out where
  /-- An MSI-X vector of function 0 or 1 (R359). -/
  | msi (fn1 : Bool) (vector : Nat)
  /-- A data frame on a port (R270). -/
  | data (port : Nat) (f : DataFrame)
  /-- A frame held in the sender's window and sent again (R273). -/
  | resend (port : Nat) (f : DataFrame)
  /-- A control frame on a port: link header, body number and its values (R270, R272). -/
  | control (port : Nat) (link : LinkHeader) (ctype : Nat) (body : List Nat)
  /-- A NAK or an acknowledgement on a port, by its link header (R270, R273). -/
  | ack (port : Nat) (link : LinkHeader)
  /-- An acknowledgement of a collective's chunk to the member that sent it (R287). -/
  | collAck (member : Nat) (key : CollKey) (chunk : Nat)
  /-- A response of a DOE mailbox: its name, a status of 0, payload (R342, R348). -/
  | doe (fn1 : Bool) (object : String) (status : Nat) (payload : List Nat)
  /-- A Vorast object that answers a request, as its DWs (R349). -/
  | vorast (fn1 : Bool) (dws : List U32)
  /-- Data of a host read with its poison mark (R351). -/
  | readData (bytes : List Byte) (poison : Bool)
  /-- Cast data sent to the pair partner over port P (R395, R403): what it is, address or slot, bytes. -/
  | toPartner (what : String) (n : Nat) (bytes : List Byte)
  /-- A read of host memory: address and bytes (R355). -/
  | hostRead (address len : Nat)
  /-- A write to host memory (R397). -/
  | hostWrite (address : Nat) (bytes : List Byte)
  /-- A snoop answered, or a flush acknowledged (R345). -/
  | cxl (what : String)
  /-- A refusal of the Timetable's doorbell operation (R362). -/
  | doorbellRefused (channel column : Nat)
  deriving DecidableEq, Repr

/-- An error record (R368). -/
structure ErrRec where
  time : Nat
  step : Nat
  period : Nat
  cls : Nat
  index : Nat
  severity : Nat
  kind : Nat
  temp : Nat
  vin : Nat
  rflags : Nat
  syndrome : Nat
  address : Nat
  count : Nat
  deriving DecidableEq, Repr

/-- A CPER record of the store (R384, R385): its Record ID and the error record in its body. -/
structure Cper where
  id : Nat
  body : ErrRec
  deriving DecidableEq, Repr

/-- The Ledger (R386). `interrupted` and `waiting` keep what R229 finishes at a start. -/
structure Ledger where
  /-- Temperature and voltage histograms, in grant intervals of 10 µs. -/
  tempHist : Vector Nat 16
  vinHist : Vector Nat 16
  /-- Corrected count by class × 65536 + index. -/
  corrected : Sparse Nat
  /-- Records not corrected, by (class × 65536 + index) × 4 + severity. -/
  uncorrected : Sparse Nat
  poweredTicks : Nat
  starts : Nat
  failedStarts : Nat
  /-- REASON, FAIL_STEP and the count of the last failed start (R328). -/
  failReason : Nat
  failStep : Nat
  consecFail : Nat
  castsTaken : Vector Nat 4
  castsRestored : Vector Nat 4
  /-- Physical channel of position p of stack k, at 8 k + p (R209). -/
  channelMap : Vector Nat 256
  /-- Channels 9 k + c that are fenced, retired, or fence pending or dead until the next start. -/
  fencedCh : NatSet
  retiredCh : NatSet
  toFence : NatSet
  /-- A running migration: source, destination, position 8 k + p. -/
  interrupted : Option (Nat × Nat × Nat)
  /-- A migration whose source died during the copy (R231): source, destination, position, copy pointer. -/
  diedCopy : List (Nat × Nat × Nat × Nat)
  waiting : List Nat
  fencedTiles : BitVec 64
  fencedEng : BitVec 36
  expulsions : Nat
  moduleFailures : Nat
  cperId : Nat
  deriving DecidableEq, Repr

/-- The owner record (R336). -/
structure Owner where
  key : BitVec 1064
  minSeq : Nat
  enrolCount : Nat
  /-- HMAC-SHA-512 of the fields above. -/
  mac : BitVec 512
  deriving DecidableEq, Repr

/-- A cast slot (R395, R396, the ENG_CAST_SLOT cards). -/
structure CastSlot where
  img : Option CastImage
  writing : Bool
  complete : Bool
  secured : Bool
  verified : Bool
  exported : Bool
  superseded : Bool
  exporting : Bool
  deriving DecidableEq, Repr

/-- What the boot directory names (R331). -/
structure BootDir where
  active : Fin 2
  stagedPending : Bool
  trial : Bool
  deriving DecidableEq, Repr

/-- A copy of the boot directory: its sequence number, and whether its CRC-32C is that of its contents (R331). -/
structure BootCopy where
  seqNo : U32
  crcOk : Bool
  dir : BootDir
  deriving DecidableEq, Repr

/-- What xSPI flash and NAND hold over a loss of power (R331, R396). The helper data and the certificates are `Config`'s. -/
structure Flash where
  boot : Vector BootCopy 2
  slots : Vector (Option WaybillImage) 2
  owner : Option Owner
  ledgerNand : Option Ledger
  ledgerNandIx : Nat
  ledgerXspi : Option Ledger
  ledgerXspiIx : Nat
  nand : Vector CastSlot 8
  deriving DecidableEq, Repr

/-- A restart request (R339): at the next boundary, at once. -/
inductive RestartMode where
  | atBoundary | immediate
  deriving DecidableEq, Repr

/-- MSI-X of a function (R347, R359): words 2 v and 2 v + 1 of its table (address; data in the low half), mask bits and pending bits by vector. -/
structure MsixSt where
  table : Sparse U64
  mask : Nat
  pba : Nat
  deriving DecidableEq, Repr

/-- Start-up and reset state that no register holds. -/
structure StartSt where
  powered : Bool
  straps : Straps
  /-- What the current start meets. -/
  env : StartEnv
  /-- The start waits at this step for its time limit; 0 for none. -/
  hung : Nat
  /-- XSPI_EXT_N is low before step 4 (R443). -/
  xspiHold : Bool
  /-- A new start from step 4 follows 1 s after a failed one (R328). -/
  retryArmed : Bool
  /-- This start may fail without a further attempt: it follows power-up in minimal mode (R341). -/
  noRetry : Bool
  /-- The next retry uses the active slot (R338). -/
  skipStaged : Bool
  restartAtBoundary : Option StartEnv
  /-- A restart request held during a start (R339), and whether a restore is held (R411). -/
  restartHeld : Option (RestartMode × StartEnv)
  restoreHeld : Bool
  perstAsserted : Bool
  cxlUp : Bool
  cxlLanes : Nat
  cxlMode : Bool
  memReady : Bool
  /-- Consecutive failed starts, in always-on SRAM (R328). -/
  consec : Nat
  /-- The Ledger has been read since 52 V returned (R387). -/
  ledgerRead : Bool
  deviceId : Digest
  /-- The keys of R334 are derived, and the owner record in force since step 5 (R337). -/
  keysOk : Bool
  ownerNow : Option Owner
  nonceCount : Nat
  /-- Parts of a WAYBILL_WRITE received in order; none when no upload runs; their bytes. -/
  upload : Option Nat
  uploadBytes : List Byte
  /-- The Timetable's and the sequencers' images as loaded at step 7 (R324, R332). -/
  ttImage : List Byte
  seqImage : List Byte
  msix0 : MsixSt
  msix1 : MsixSt
  /-- PRESENT_S made: the last pins of J1 (R435, R436). -/
  presentS : Bool
  deriving DecidableEq, Repr

/-- Always-on time and clocks. -/
structure TimeSt where
  /-- Cycles of 25 MHz since the end of start-up step 3 (R308). -/
  osc : Nat
  running : Bool
  /-- Cycles of CORE and FAB since their PLLs first locked (R414), in units of 1/100000 of a cycle: see `meanRate`. -/
  coreCyc : Nat
  fabCyc : Nat
  deriving DecidableEq, Repr

/-- A work item of the plan in the current phase (R320, R321). -/
structure ItemSt where
  id : Nat
  skips : Nat
  running : Bool
  burst : Bool
  done : Bool
  /-- The tile it is bound to since the last step boundary (R31). -/
  tile : Nat
  /-- CREDIT still reserved for it while it runs in burst (R321). -/
  reserve : Nat
  deriving DecidableEq, Repr

/-- Reckoner and domains. -/
structure PowerSt where
  /-- Domains being woken, with the wake code. -/
  waking : List (Nat × Nat)
  /-- Domains whose meter has reached its limit in this interval (R312). -/
  metered : NatSet
  interval : Nat
  /-- POWER_LIMIT in force in the current interval (R316). -/
  limit : Nat
  /-- Intervals since PWRBRK_N was asserted, while it is (R315). -/
  brakeAge : Nat
  /-- Consecutive intervals with a sensor at the trip level (R319). -/
  hotRun : Nat
  overBasePosted : Bool
  items : List ItemSt
  /-- CREDIT reserved for the items that run in burst (R321). -/
  reserved : Nat
  tileTemp : Vector Nat 64
  stackTemp : Vector Nat 32
  /-- Largest JT_MAX and DT_MAX of the period (R383). -/
  jtPeak : Nat
  dtPeak : Nat
  deriving DecidableEq, Repr

/-- An effective ring configuration and its target (R354, R355). -/
structure RingSt where
  base : Nat
  enable : Bool
  recBytes : Nat
  log2 : Nat
  target : Nat
  reading : Bool
  /-- ENABLE went from 0 to 1 while ingest ran: CONS is set to 0 at the next start of ingest (R354, R357). -/
  zeroCons : Bool
  deriving DecidableEq, Repr

/-- The period and its phases. -/
structure PeriodSt where
  /-- The job has started (step 11) and its first boundary has been taken. -/
  inPeriod : Bool
  rings : Vector RingSt 8
  /-- Records handed to the plan's ingest work in this period, newest first: ring, index, bytes. -/
  ingested : List (Nat × Nat × List Byte)
  /-- Outputs of this period are withheld (R28), records complete, some record poisoned. -/
  outBlocked : Bool
  outStarted : Bool
  /-- Writing of the output buffer waits for a granule in host bias (R352). -/
  outWait : Bool
  outPoison : Bool
  /-- A training step is in flight; all of its tile parts; sealed and discarded steps of this period. -/
  stepActive : Bool
  sealedNow : Nat
  droppedNow : Nat
  /-- A Timetable fault: every phase of the period counts as late (R372). -/
  ttFault : Bool
  ttFaultAt : Option Nat
  /-- The period number and phase the master gave, taken at the next boundary (R296). -/
  jump : Option (Nat × Nat)
  /-- Correction of the current sleep phase, in nanoseconds (R296). -/
  sleepCorr : Int
  /-- Two markers within 2 µs are still owed before ALIGNED (R296). -/
  alignOwed : Nat
  markerSeen : Bool
  markerAt : Nat
  /-- Zoo-engine domains that a tile's commands used in the step (R373): domain, tile. -/
  used : List (Nat × Nat)
  lastMarker : Option (Nat × Nat)
  optStep : List (Nat × U32)
  /-- The tiles fenced at the last step boundary, when work was bound to tiles (R31, R140). -/
  boundFence : Nat
  /-- The zoo engines fenced then, by domain − 64 (R208). -/
  boundEng : Nat
  deriving DecidableEq, Repr

/-- A tile's part of the seal vote (R240, R242). -/
structure VotePart where
  loss : U32
  nonfin : Bool
  poison : Bool
  failed : Bool
  inTime : Bool
  spill : NatSet
  sat : Sparse Nat
  origin : Option Nat
  deriving DecidableEq, Repr

/-- A module's vote (R241). -/
structure Vote where
  step : Nat
  loss : U32
  vflags : Nat
  epoch : Nat
  layerMap : List Byte
  deriving DecidableEq, Repr

/-- Seal state. -/
structure SealSt where
  /-- Votes held by the leader, by member position, and whether the step is decided. -/
  votes : Sparse Vote
  decided : Bool
  voted : Bool
  /-- Decisions of the step log, newest first (R250). -/
  log : List Decision
  /-- The step awaiting an answer to DECISION_QUERY (R249); whether its query was sent. -/
  queried : Bool
  /-- A step dropped at TRAIN_DL before this member voted, whose decision has not come (R245). -/
  late : Bool
  deriving DecidableEq, Repr

/-- A layer of the recipe ladder (R253, R255). -/
structure LayerSt where
  rung : Nat
  spill : Nat
  sat : Nat
  nonfin : Nat
  clean : Nat
  changes : Nat
  pending : Option Nat
  deriving DecidableEq, Repr

/-- An entry of a write-combining buffer (R220): position and line in its stack, bytes merged. -/
structure WcEntry where
  pos : Nat
  line : Nat
  bytes : Sparse Byte
  deriving DecidableEq, Repr

/-- Bonded memory. -/
structure MemSt where
  /-- Bytes of DRAM by (9 stack + channel) × 2³¹ + byte; an unlisted byte is 0. -/
  dram : Sparse Byte
  /-- Poison marks by (9 stack + channel) × 2²² + line (R210). -/
  poison : NatSet
  /-- Symbol errors that a read of a line meets, and a reread after the write-back, by line as above (R210). -/
  latent : Sparse (Nat × Nat)
  wc : Vector (List WcEntry) 32
  /-- The slot table (R214): 8 k + p for each slot. -/
  slots : List Nat
  /-- Always-on tick and channel of corrected lines of the last hour (R212), newest first. -/
  corrLog : List (Nat × Nat)
  /-- Successive failed recalibrations (R223). -/
  recalRun : Sparse Nat
  /-- Committed frame of a persistent page, where it is not the page's own (R247): page number to module address. -/
  frames : Sparse Nat
  /-- Shadow frame of a page written in the step (R174). -/
  shadows : Sparse Nat
  /-- Free shadow frames of each stack (R176), and frames that return before the next S0 completes (R247). -/
  pool : Vector (List Nat) 32
  returning : List (Nat × Nat)
  /-- Frames pinned by an assay sweep (R379). -/
  pinned : List (Nat × Nat)
  /-- Granules of 2 MiB in host bias (R352). -/
  hostBias : NatSet
  /-- Cellar of each stack in bytes, after the cut of R230. -/
  cellar : Vector Nat 32
  /-- Where each layer's stash of the step stands on each tile (R233): layer, tile, in the Cellar, address, bytes. -/
  stash : List (Nat × Nat × Bool × Nat × Nat)
  notStashed : NatSet
  /-- What the step's layers wrote as their stashes, by module address: a recomputation gives the same bits (R159, R236). -/
  stashBits : Sparse Byte
  /-- Backward passes begun in the step, at 64 layer + tile; recomputed layers kept in each tile's reserve, likewise (R235). -/
  reached : NatSet
  kept : NatSet
  /-- Writes of the module itself that wait for a granule in host bias, oldest first (R352): address, bytes. -/
  held : List (Nat × List Byte)
  /-- Destinations of collectives in flight whose rule was broken (R285): address, bytes. -/
  spoiled : List (Nat × Nat)
  /-- After a failed restore persistent bytes are undefined (R403): the epoch of their free values. -/
  undefPersist : Option Nat
  deriving DecidableEq, Repr

/-- A Sprue channel of a 256-channel block (R97, R98): channel, FP8 code of each row, UE5M3 scale of each 64 rows. -/
structure SprueCh where
  chan : Nat
  codes : List Nat
  scales : List Nat
  deriving DecidableEq, Repr

/-- A spilled channel run in an escape pass (R99): channel, code of each row, escape scale. -/
structure EscCh where
  chan : Nat
  codes : List Nat
  scale : Nat
  deriving DecidableEq, Repr

/-- An operand delivered to a port of the array, or the refusal of its command (R76 to R104). What its Ladle command writes besides is
held with it until the matrix command decides whether the operation is refused (R80). -/
structure Operand where
  /-- The Ladle command, the Ladle's index, the status of its own conditions (R80). -/
  d : BitVec 512
  ladle : Nat
  status : Nat
  /-- Output rows, reduction channels; code and block scale code of each element, by row. -/
  rows : Nat
  cols : Nat
  elems : List (List (Nat × Nat))
  /-- By 256-channel block: the Sprue channels (R97) and the spilled channels that run (R99, R100), ascending. -/
  sprue : List (List SprueCh)
  escapes : List (List EscCh)
  /-- Tile memory writes of the clip mask and the spill region: address, bytes. -/
  writes : List (Nat × List Byte)
  /-- Counts of the record (R72, R105). -/
  sat : Nat
  flush : Nat
  nonfin : Nat
  outlierCh : Nat
  spillCh : Nat
  escPasses : Nat
  maxCand : Nat
  lflags : Nat
  poison : Bool
  deriving DecidableEq, Repr

/-- A Crucible slot (R118): entry-format tag, shape of the MATMUL that wrote it, the rows and columns that its operands had (R110), its 4,096
words (none since they became undefined), whether it is closed (R131) and counts in LIVE_SLOTS, and the status of a refused operation on it
(R80, R113). -/
structure CruSlot where
  fmt : Nat
  shape : Nat
  rows : Nat
  cols : Nat
  words : List U32
  closed : Bool
  live : Bool
  bad : Nat
  deriving DecidableEq, Repr

/-- A tile: memory, scalar file, Crucible, queues, step flags. -/
structure TileSt where
  /-- Tile memory; an unlisted byte is undefined (R27). -/
  mem : Sparse Byte
  /-- Granules of 64 B that carry a poison mark (R211). -/
  poison : NatSet
  sf : Vector U32 32
  /-- Scalar file entries awaited from summaries requested and not yet written (R207); an entry awaited twice stands twice. -/
  pending : List Nat
  cru : Vector CruSlot 128
  portA : List Operand
  portB : List Operand
  portT : List Operand
  dwq : List (BitVec 128)
  drain : Bool
  /-- TILEn_MX_CFG in force since the last step boundary. -/
  mxCfg : U64
  /-- Flags of the step (R74, R211, R240). -/
  nonfin : Bool
  poisonUsed : Bool
  failed : Bool
  cksFailed : Bool
  layer : Nat
  origin : Option Nat
  spill : NatSet
  sat : Sparse Nat
  part : Option VotePart
  cksHist : List Bool
  /-- The tile's update of the step (R173): 0 not begun, 1 begun, 2 skipped. -/
  upd : Nat
  /-- The filled positions of its partial buffers (R136): split plan, part status. -/
  parts : List (Nat × PartRef)
  /-- Completion records, newest first. -/
  recs : List (BitVec 256)
  deriving DecidableEq, Repr

/-- Where a frame's payload is read again for a resend (R274): bytes the sender holds, user memory of a tile's view, or chunk `chunk` of a
wire collective with its FP32 source and residual codes. -/
inductive Source where
  | held (bytes : List Byte)
  | memory (tile address len : Nat)
  | wire (tile : Nat) (d : BitVec 512) (chunk : Nat)
  deriving DecidableEq, Repr

/-- A frame sent and not acknowledged: its headers, and where its payload is read again (R274). -/
structure SentFrame where
  link : LinkHeader
  chunk : ChunkHeader
  source : Source
  deriving DecidableEq, Repr

/-- A link port (R262 to R274). -/
structure PortSt where
  txSeq : Nat
  rxSeq : Nat
  /-- Frames sent and not acknowledged, oldest first: headers and the sources of their payloads (R274); resends of the oldest. -/
  unacked : List SentFrame
  resends : Nat
  /-- Frames waiting for the window of 256 or for credits (R273, R285): sequence number and acknowledgement still open. -/
  waiting : List (ChunkHeader × List Byte × Source)
  /-- Credits granted by the peer; staging chunks freed and not yet reported. -/
  credits : Nat
  freed : Nat
  lanes : Nat
  retrainFails : Nat
  latNs : Nat
  /-- Codewords found uncorrectable in the current millisecond. -/
  uncorrMs : Nat
  uncorrAt : Nat
  probes : Nat
  /-- Round trips of the latency probe that came back, in CORE cycles (R267). -/
  trips : List Nat
  /-- Codewords corrected in the current period (R264). -/
  corrected : Nat
  deriving DecidableEq, Repr

/-- A plane's mode in a reduction (R291). -/
inductive PlaneMode where
  | asked | slot (n : Nat) | relay
  deriving DecidableEq, Repr

/-- A chunk that a reduction holds until its turn (R285): position of its sender (1,024 for a bridge slot), chunk number, port it came
by, FP32 words, poison. -/
structure Staged where
  src : Nat
  chunk : Nat
  port : Nat
  words : List U32
  poison : Bool
  deriving DecidableEq, Repr

/-- A collective posted on this module (R282). -/
structure Coll where
  tile : Nat
  d : BitVec 512
  period : Nat
  phase : Nat
  active : Bool
  /-- Positions told READY, and positions whose READY matched; chunks sent (position, chunk, port last used), acknowledged and received
  (position, chunk). -/
  readySent : List Nat
  readyFrom : List Nat
  sentTo : List (Nat × Nat × Nat)
  acked : List (Nat × Nat)
  got : List (Nat × Nat)
  staged : List Staged
  /-- Chunks accepted and not yet written to the destination (position, frame). -/
  landing : List (Nat × DataFrame)
  /-- The source that must not be written and the destination that no other unit may touch until the record (R285): address, bytes. -/
  source : Nat × Nat
  dest : Nat × Nat
  /-- Chunks that a sub-leader forwards or has formed, with their headers; broadcast chunks acknowledged to the leader (R287). -/
  fwd : List (Nat × ChunkHeader × List Byte)
  told : List Nat
  planes : Vector (Option PlaneMode) 2
  /-- GO has been sent by the leader, and to whom, or received by the sub-leader (R291). -/
  go : Bool
  goTo : List Nat
  /-- FP32 chunks of the result that are written. -/
  written : NatSet
  recorded : Bool
  chunks : Nat
  poisoned : Nat
  resent : Nat
  cflags : Nat
  sat : Nat
  flush : Nat
  nonfin : Nat
  deriving DecidableEq, Repr

/-- Links and collectives. -/
structure CollSt where
  ports : Vector PortSt 18
  queue : List Coll
  /-- READY frames received and not yet matched: member, body. -/
  readys : List (BitVec 16 × ReadyBody)
  gos : List (CollKey × Option Nat × Option Nat)
  deriving DecidableEq, Repr

/-- One end of a Pigeonhole channel: the flags and counts of its STAT register (R361 to R364). -/
structure MbxEndSt where
  arrived : Bool
  emptied : Bool
  dropped : Bool
  doorbellFull : Bool
  writeFull : Bool
  sent : Nat
  received : Nat
  deriving DecidableEq, Repr

/-- One slot (R363). -/
structure MbxSlot where
  data : Vector U64 8
  full : Bool
  /-- Column of the claiming or named sequencer (R362). -/
  column : Option Nat
  deriving DecidableEq, Repr

/-- A Pigeonhole channel. -/
structure MbxChan where
  toB : MbxSlot
  toA : MbxSlot
  endA : MbxEndSt
  endB : MbxEndSt
  /-- The one unsent MINIMAL_STATUS reply (R364): its tag. -/
  reply : Option Nat
  /-- CPER parts waiting for the reverse slot (R385). -/
  parts : List (List Byte)
  deriving DecidableEq, Repr

/-- Faults and health. -/
structure FaultSt where
  queue : List ErrRec
  store : List Cper
  innkFaultAt : Option Nat
  innkRestarting : Bool
  /-- Always-on ticks of events of the last hour: SRAM corrections, droops, retrains, ports DOWN, neighbour events. -/
  sramLog : List Nat
  droopLog : List Nat
  retrainLog : List Nat
  downLog : List Nat
  nbrLog : List Nat
  /-- The assay sweep running: step, sweep, its pages with the frames committed at the step (R376 to R379); roots held by the leader,
  by position. -/
  assay : Option (Nat × Nat × List (Nat × Nat))
  /-- The sweep's own root is formed (R378). -/
  assayHashed : Bool
  roots : Sparse (Option Digest)
  /-- Powered time in 25 MHz cycles at the last xSPI copy (R387). -/
  lastXspi : Nat
  deriving DecidableEq, Repr

/-- Progress of one tier's copy (R394). -/
inductive TierSt where
  | unused | copying (next : Nat) | complete | abandoned
  deriving DecidableEq, Repr

/-- The cast being written (R391 to R394). -/
structure CastRun where
  group : Bool
  hdr : CastImage
  /-- Persistent pages in ascending module address, with the frame committed at the seal. -/
  pages : List (Nat × Nat)
  /-- Pages still protected. -/
  protect : NatSet
  /-- Stage entries: page, stage frame. -/
  staged : Sparse Nat
  partner : TierSt
  nand : TierSt
  partnerSlot : Nat
  nandSlot : Nat
  /-- Pages copied so far, in page order, by the tier that is ahead. -/
  data : List (Nat × List (Nat × Byte))
  poison : List Nat
  deriving DecidableEq, Repr

/-- Casts and restore. -/
structure CastSt where
  run : Option CastRun
  /-- Free stage frames of each stack. -/
  stage : Vector (List Nat) 32
  ownPending : Bool
  guest : Vector CastSlot 2
  /-- The partner's image size as reported. -/
  partnerImage : Option Nat
  /-- The newest GEN known for the own member ID (R400). -/
  knownGen : Nat
  /-- Steps whose partner copy is complete, newest cast first: gen, step, superseded. -/
  partnerHeld : List (Nat × Nat × Bool)
  /-- Steps of the current run of agreeing sweeps, newest first (R382). -/
  agree : List Nat
  /-- Counting decisions logged for the replayed step, oldest first, still to be compared (R409). -/
  replayLog : List Decision
  exportSlot : Nat
  exportOff : Nat
  evalOnly : Bool
  /-- Guest data being received: first page offset and bytes. -/
  guestRx : Option (Nat × Sparse Byte)
  fetchStep : Nat
  deriving DecidableEq, Repr

/-- Performance counters. -/
structure PerfSt where
  /-- Previous value of RISE by 8 b + i (R418). -/
  prev : Sparse Nat
  queue : List (List Byte)
  /-- Blocks whose last dump was dropped, no record of theirs behind it in the queue (R422). -/
  lost : NatSet
  /-- Counters that wrapped since the block's previous queued record, by block. -/
  ovf : Sparse Nat
  deriving DecidableEq, Repr

/-- A command that stalled, the scalar file entry copied into it when it was posted (R200), and whether it stands in its unit's queue: until
then its sequencer waits at it (R178). -/
structure Waiting where
  cmd : Instr
  scalar : U32
  posted : Bool
  /-- Its sequencer waits for a pending scalar file entry (R207). -/
  onScalar : Bool
  deriving DecidableEq, Repr

/-- The machine. -/
structure State where
  /-- Registers of function 0 by offset; an unlisted register holds `regReset` (R10, R12). -/
  regs : Sparse U64
  time : TimeSt
  start : StartSt
  flash : Flash
  /-- The Waybill in use, after step 6. -/
  wb : Option WaybillImage
  ledger : Ledger
  power : PowerSt
  period : PeriodSt
  seals : SealSt
  ladder : List LayerSt
  mem : MemSt
  tiles : Vector TileSt 64
  coll : CollSt
  mbx : Vector MbxChan 32
  flt : FaultSt
  cast : CastSt
  perf : PerfSt
  /-- What the module sent, newest first. -/
  sent : List Out
  /-- Commands stalled at a domain, a granule or a stage entry, oldest first (R178, R352, R393). -/
  stalled : List Waiting
  /-- The running command must stall (set and taken within one command). -/
  stallReq : Bool
  /-- The model's own counter of free values. -/
  free : Nat
  /-- The commands waiting, first in, first out. -/
  pending : List Instr
  deriving DecidableEq, Repr

/-! State after reset: a new module without power, its flash empty, no owner enrolled. -/

def Ledger.init : Ledger where
  tempHist := Vector.replicate 16 0
  vinHist := Vector.replicate 16 0
  corrected := []
  uncorrected := []
  poweredTicks := 0
  starts := 0
  failedStarts := 0
  failReason := 0
  failStep := 0
  consecFail := 0
  castsTaken := Vector.replicate 4 0
  castsRestored := Vector.replicate 4 0
  channelMap := Vector.ofFn (fun i => i.val % 8)
  fencedCh := []
  retiredCh := []
  toFence := []
  interrupted := none
  diedCopy := []
  waiting := []
  fencedTiles := 0
  fencedEng := 0
  expulsions := 0
  moduleFailures := 0
  cperId := 0

def CastSlot.init : CastSlot := ⟨none, false, false, false, false, false, false, false⟩

def BootCopy.init : BootCopy := ⟨0, true, ⟨0, false, false⟩⟩

def Flash.init : Flash where
  boot := Vector.replicate 2 BootCopy.init
  slots := Vector.replicate 2 none
  owner := none
  ledgerNand := none
  ledgerNandIx := 0
  ledgerXspi := none
  ledgerXspiIx := 0
  nand := Vector.replicate 8 CastSlot.init

def startEnvInit : StartEnv where
  hangStep := 0
  romKatOk := true
  pufOk := true
  helperOk := true
  ownerMacOk := true
  devCertOk := true
  flashOk := true
  domainsOk := true
  tilesFailed := 0
  engFailed := 0
  memPllOk := true
  stacksFailed := 0
  ledgerNandOk := true

/-- Every vector masked (log entry 77). -/
def MsixSt.init : MsixSt := ⟨[], 0xFFFFFFFF, 0⟩

def StartSt.init : StartSt where
  powered := false
  straps := ⟨0, 0, 0, true⟩
  env := startEnvInit
  hung := 0
  xspiHold := false
  retryArmed := false
  noRetry := false
  skipStaged := false
  restartAtBoundary := none
  restartHeld := none
  restoreHeld := false
  perstAsserted := true
  cxlUp := false
  cxlLanes := 0
  cxlMode := false
  memReady := false
  consec := 0
  ledgerRead := false
  deviceId := 0
  keysOk := false
  ownerNow := none
  nonceCount := 0
  upload := none
  uploadBytes := []
  ttImage := []
  seqImage := []
  msix0 := MsixSt.init
  msix1 := MsixSt.init
  presentS := false

def TimeSt.init : TimeSt := ⟨0, false, 0, 0⟩

def PowerSt.init : PowerSt where
  waking := []
  metered := []
  interval := 0
  limit := 0
  brakeAge := 0
  hotRun := 0
  overBasePosted := false
  items := []
  reserved := 0
  tileTemp := Vector.replicate 64 0
  stackTemp := Vector.replicate 32 0
  jtPeak := 0
  dtPeak := 0

def RingSt.init : RingSt := ⟨0, false, 64, 10, 0, false, false⟩

def PeriodSt.init : PeriodSt where
  inPeriod := false
  rings := Vector.replicate 8 RingSt.init
  ingested := []
  outBlocked := false
  outStarted := false
  outWait := false
  outPoison := false
  stepActive := false
  sealedNow := 0
  droppedNow := 0
  ttFault := false
  ttFaultAt := none
  jump := none
  sleepCorr := 0
  alignOwed := 0
  markerSeen := false
  markerAt := 0
  used := []
  lastMarker := none
  optStep := []
  boundFence := 0
  boundEng := 0

def SealSt.init : SealSt := ⟨[], false, false, [], false, false⟩

def MemSt.init : MemSt where
  dram := []
  poison := []
  latent := []
  wc := Vector.replicate 32 []
  slots := []
  corrLog := []
  recalRun := []
  frames := []
  shadows := []
  pool := Vector.replicate 32 []
  returning := []
  pinned := []
  hostBias := []
  cellar := Vector.replicate 32 0
  stash := []
  notStashed := []
  stashBits := []
  reached := []
  kept := []
  held := []
  spoiled := []
  undefPersist := none

def CruSlot.init : CruSlot := ⟨0, 0, 0, 0, [], false, false, 0⟩

def TileSt.init : TileSt where
  mem := []
  poison := []
  sf := Vector.replicate 32 0
  pending := []
  cru := Vector.replicate 128 CruSlot.init
  portA := []
  portB := []
  portT := []
  dwq := []
  drain := false
  mxCfg := 0
  nonfin := false
  poisonUsed := false
  failed := false
  cksFailed := false
  layer := 0
  origin := none
  spill := []
  sat := []
  part := none
  cksHist := []
  upd := 0
  parts := []
  recs := []

def PortSt.init : PortSt := ⟨0, 0, [], 0, [], 0, 0, 0, 0, 0, 0, 0, 0, [], 0⟩

def CollSt.init : CollSt := ⟨Vector.replicate 18 PortSt.init, [], [], []⟩

def MbxEndSt.init : MbxEndSt := ⟨false, false, false, false, false, 0, 0⟩
def MbxSlot.init : MbxSlot := ⟨Vector.replicate 8 0, false, none⟩
def MbxChan.init : MbxChan := ⟨MbxSlot.init, MbxSlot.init, MbxEndSt.init, MbxEndSt.init, none, []⟩

def FaultSt.init : FaultSt where
  queue := []
  store := []
  innkFaultAt := none
  innkRestarting := false
  sramLog := []
  droopLog := []
  retrainLog := []
  downLog := []
  nbrLog := []
  assay := none
  assayHashed := false
  roots := []
  lastXspi := 0

def CastSt.init : CastSt where
  run := none
  stage := Vector.replicate 32 []
  ownPending := false
  guest := Vector.replicate 2 CastSlot.init
  partnerImage := none
  knownGen := 0
  partnerHeld := []
  agree := []
  replayLog := []
  exportSlot := 0
  exportOff := 0
  evalOnly := false
  guestRx := none
  fetchStep := 0

def PerfSt.init : PerfSt := ⟨[], [], [], []⟩

/-- The module as it leaves the factory, before 52 V is present. -/
def State.reset : State where
  regs := []
  time := TimeSt.init
  start := StartSt.init
  flash := Flash.init
  wb := none
  ledger := Ledger.init
  power := PowerSt.init
  period := PeriodSt.init
  seals := SealSt.init
  ladder := []
  mem := MemSt.init
  tiles := Vector.replicate 64 TileSt.init
  coll := CollSt.init
  mbx := Vector.replicate 32 MbxChan.init
  flt := FaultSt.init
  cast := CastSt.init
  perf := PerfSt.init
  sent := []
  stalled := []
  stallReq := false
  free := 0
  pending := []

end Sys2Proof.Machine
end

