-- ==== Sys2Proof/Machine/Sha.lean ====
section
/-! DEFINITION. SHA-512 (FIPS 180-4), which section digests, cast roots and measurements use (R332, R343, R378), and the tree hash of
R378. -/

namespace Sys2Proof.Machine

/-- Round constants of SHA-512. -/
def shaK0 : List U64 := [
  0x428A2F98D728AE22#64, 0x7137449123EF65CD#64, 0xB5C0FBCFEC4D3B2F#64, 0xE9B5DBA58189DBBC#64,
  0x3956C25BF348B538#64, 0x59F111F1B605D019#64, 0x923F82A4AF194F9B#64, 0xAB1C5ED5DA6D8118#64,
  0xD807AA98A3030242#64, 0x12835B0145706FBE#64, 0x243185BE4EE4B28C#64, 0x550C7DC3D5FFB4E2#64,
  0x72BE5D74F27B896F#64, 0x80DEB1FE3B1696B1#64, 0x9BDC06A725C71235#64, 0xC19BF174CF692694#64,
  0xE49B69C19EF14AD2#64, 0xEFBE4786384F25E3#64, 0x0FC19DC68B8CD5B5#64, 0x240CA1CC77AC9C65#64]
def shaK1 : List U64 := [
  0x2DE92C6F592B0275#64, 0x4A7484AA6EA6E483#64, 0x5CB0A9DCBD41FBD4#64, 0x76F988DA831153B5#64,
  0x983E5152EE66DFAB#64, 0xA831C66D2DB43210#64, 0xB00327C898FB213F#64, 0xBF597FC7BEEF0EE4#64,
  0xC6E00BF33DA88FC2#64, 0xD5A79147930AA725#64, 0x06CA6351E003826F#64, 0x142929670A0E6E70#64,
  0x27B70A8546D22FFC#64, 0x2E1B21385C26C926#64, 0x4D2C6DFC5AC42AED#64, 0x53380D139D95B3DF#64,
  0x650A73548BAF63DE#64, 0x766A0ABB3C77B2A8#64, 0x81C2C92E47EDAEE6#64, 0x92722C851482353B#64]
def shaK2 : List U64 := [
  0xA2BFE8A14CF10364#64, 0xA81A664BBC423001#64, 0xC24B8B70D0F89791#64, 0xC76C51A30654BE30#64,
  0xD192E819D6EF5218#64, 0xD69906245565A910#64, 0xF40E35855771202A#64, 0x106AA07032BBD1B8#64,
  0x19A4C116B8D2D0C8#64, 0x1E376C085141AB53#64, 0x2748774CDF8EEB99#64, 0x34B0BCB5E19B48A8#64,
  0x391C0CB3C5C95A63#64, 0x4ED8AA4AE3418ACB#64, 0x5B9CCA4F7763E373#64, 0x682E6FF3D6B2B8A3#64,
  0x748F82EE5DEFB2FC#64, 0x78A5636F43172F60#64, 0x84C87814A1F0AB72#64, 0x8CC702081A6439EC#64]
def shaK3 : List U64 := [
  0x90BEFFFA23631E28#64, 0xA4506CEBDE82BDE9#64, 0xBEF9A3F7B2C67915#64, 0xC67178F2E372532B#64,
  0xCA273ECEEA26619C#64, 0xD186B8C721C0C207#64, 0xEADA7DD6CDE0EB1E#64, 0xF57D4F7FEE6ED178#64,
  0x06F067AA72176FBA#64, 0x0A637DC5A2C898A6#64, 0x113F9804BEF90DAE#64, 0x1B710B35131C471B#64,
  0x28DB77F523047D84#64, 0x32CAAB7B40C72493#64, 0x3C9EBE0A15C9BEBC#64, 0x431D67C49C100D4C#64,
  0x4CC5D4BECB3E42B6#64, 0x597F299CFC657E2A#64, 0x5FCB6FAB3AD6FAEC#64, 0x6C44198C4A475817#64]

def shaK : List U64 := shaK0 ++ shaK1 ++ shaK2 ++ shaK3

/-- Initial hash value. -/
def shaH : List U64 := [
  0x6A09E667F3BCC908#64, 0xBB67AE8584CAA73B#64, 0x3C6EF372FE94F82B#64, 0xA54FF53A5F1D36F1#64,
  0x510E527FADE682D1#64, 0x9B05688C2B3E6C1F#64, 0x1F83D9ABFB41BD6B#64, 0x5BE0CD19137E2179#64]

/-- Message schedule, newest word first; 64 words follow the 16 of the block. -/
def shaExtend : Nat → List U64 → List U64
  | 0, w => w
  | n + 1, w =>
    let a := w.getD 1 0
    let b := w.getD 14 0
    let s1 := a.rotateRight 19 ^^^ a.rotateRight 61 ^^^ (a >>> 6)
    let s0 := b.rotateRight 1 ^^^ b.rotateRight 8 ^^^ (b >>> 7)
    shaExtend n ((s1 + w.getD 6 0 + s0 + w.getD 15 0) :: w)

/-- One round on the eight working variables. -/
def shaRound (v : List U64) (kw : U64 × U64) : List U64 :=
  match v with
  | [a, b, c, d, e, f, g, h] =>
    let t1 := h + (e.rotateRight 14 ^^^ e.rotateRight 18 ^^^ e.rotateRight 41) + ((e &&& f) ^^^ (~~~e &&& g)) + kw.1 + kw.2
    let t2 := (a.rotateRight 28 ^^^ a.rotateRight 34 ^^^ a.rotateRight 39) + ((a &&& b) ^^^ (a &&& c) ^^^ (b &&& c))
    [t1 + t2, a, b, c, d + t1, e, f, g]
  | _ => v

/-- A big-endian word of eight bytes. -/
def be64 (l : List Byte) : U64 := BitVec.ofNat 64 (leNat l.reverse)

/-- One block of 128 bytes. -/
def shaBlock (h : List U64) (blk : List Byte) : List U64 :=
  let w := ((List.range 16).map (fun i => be64 (sliceBytes blk (8 * i) 8))).reverse
  let ws := (shaExtend 64 w).reverse
  List.zipWith (fun a b => a + b) h ((shaK.zip ws).foldl shaRound h)

/-- Padding. -/
def shaPad (l : List Byte) : List Byte :=
  let n := l.length
  let z := (128 - (n + 17) % 128) % 128
  l ++ [0x80#8] ++ List.replicate z 0 ++ (leBytes 16 (8 * n)).reverse

/-- SHA-512 as bytes. -/
def sha512Bytes (l : List Byte) : List Byte :=
  let p := shaPad l
  let h := (chunksOf 128 (p.length / 128) p).foldl shaBlock shaH
  h.flatMap (fun w => (leBytes 8 w.toNat).reverse)

/-- SHA-512 as a number whose bytes 0 to 63, little-endian, are the digest's bytes. -/
def sha512 (l : List Byte) : Digest := BitVec.ofNat 512 (leNat (sha512Bytes l))

/-- One level of the tree of R378: node = SHA-512(0x01, left, right); a last odd node passes up. -/
def treeLevel : List (List Byte) → List (List Byte)
  | a :: b :: l => sha512Bytes ([0x01#8] ++ a ++ b) :: treeLevel l
  | l => l

def treeFuel : Nat → List (List Byte) → List (List Byte)
  | 0, l => l
  | fuel + 1, l => if l.length ≤ 1 then l else treeFuel fuel (treeLevel l)

/-- The tree hash of R378 over bytes: leaves of 1 MiB, combined in the pairwise order of R137. -/
def treeHash (l : List Byte) : Digest :=
  let leaves := (chunksOf 0x100000 (l.length / 0x100000 + 1) l).map (fun b => sha512Bytes ([0x00#8] ++ b))
  match (treeFuel (leaves.length + 1) leaves).head? with
  | some r => BitVec.ofNat 512 (leNat r)
  | none => sha512 [0x00#8]

end Sys2Proof.Machine
end

