-- ==== Sys2Proof/Machine/Waybill.lean ====
section
/-! DEFINITION. A Waybill image as bytes: its header, its section table and the sections that the spec lays out (R106, R332). -/

namespace Sys2Proof.Machine

/-- The number in `n` bytes at byte `o`, little-endian. -/
def leAt (l : List Byte) (o n : Nat) : Nat := leNat (sliceBytes l o n)

/-- Header of an image (R332). -/
def wbHeader (l : List Byte) : WbHeader where
  magic := BitVec.ofNat 64 (leAt l 0 8)
  format := BitVec.ofNat 32 (leAt l 8 4)
  totalSize := BitVec.ofNat 32 (leAt l 12 4)
  part := BitVec.ofNat 16 (leAt l 16 2)
  generation := BitVec.ofNat 8 (leAt l 18 1)
  stepping := BitVec.ofNat 8 (leAt l 19 1)
  seqNo := BitVec.ofNat 32 (leAt l 20 4)
  jobTag := BitVec.ofNat 16 (leAt l 24 2)
  sections := BitVec.ofNat 16 (leAt l 26 2)
  persistDigest := BitVec.ofNat 512 (leAt l 32 64)
  ownerKeyId := BitVec.ofNat 128 (leAt l 96 16)

/-- The entry of the section table at byte `o` (R332). -/
def wbSection (l : List Byte) (o : Nat) : WbSection where
  typ := BitVec.ofNat 16 (leAt l o 2)
  offset := BitVec.ofNat 32 (leAt l (o + 4) 4)
  length := BitVec.ofNat 32 (leAt l (o + 8) 4)
  digest := BitVec.ofNat 512 (leAt l (o + 16) 64)

/-- A wire scale entry of 16 bytes (R106). -/
def wireEntry (l : List Byte) : WireEntry where
  wireId := BitVec.ofNat 24 (leAt l 0 3)
  fmt := BitVec.ofNat 4 (leAt l 3 1)
  sT := BitVec.ofNat 32 (leAt l 4 4)
  sW := BitVec.ofNat 8 (leAt l 8 1)

end Sys2Proof.Machine

namespace Sys2Proof

open Sys2Proof.Machine

/-- Header of an image (R332). -/
def WaybillImage.hdr (g : WaybillImage) : WbHeader := wbHeader g.bytes

/-- Bytes of header and section table (R332). -/
def WaybillImage.topBytes (g : WaybillImage) : Nat := 256 + 80 * g.hdr.sections.toNat

/-- Section table of an image (R332). -/
def WaybillImage.table (g : WaybillImage) : List WbSection :=
  (List.range g.hdr.sections.toNat).map (fun i => wbSection g.bytes (256 + 80 * i))

/-- SHA-512 of header and section table: what the signature signs, and measurement 2 (R332, R343). -/
def WaybillImage.hdrDigest (g : WaybillImage) : Digest := sha512 (sliceBytes g.bytes 0 g.topBytes)

/-- The data of a section. -/
def WaybillImage.sectionBytes (g : WaybillImage) (e : WbSection) : List Byte := sliceBytes g.bytes e.offset.toNat e.length.toNat

/-- The data of the section of a type; empty where the image has none. -/
def WaybillImage.sectionOf (g : WaybillImage) (typ : Nat) : List Byte :=
  match g.table.find? (fun e => e.typ.toNat == typ) with
  | some e => g.sectionBytes e
  | none => []

/-- The wire scale table (R106). -/
def WaybillImage.wire (g : WaybillImage) : List WireEntry :=
  let l := g.sectionOf 6
  (chunksOf 16 (l.length / 16) l).map wireEntry

end Sys2Proof
end

