-- ==== Sys2Proof/Machine/Ops.lean ====
section
/-! DEFINITION. The named operations over registers, time, power domains, tiles and vectors, which every meaning uses. -/

namespace Sys2Proof.Machine

/-- What a command answers. -/
abbrev Res := Host.Outcome State Fault Refusal

/-! Registers (R10 to R16). -/

/-- What the register at offset `o` holds. -/
def State.rd (s : State) (o : Nat) : U64 := Sparse.getD s.regs o (regReset o)

/-- Hold `v` in the register at offset `o`. -/
def State.wr (s : State) (o : Nat) (v : U64) : State := { s with regs := Sparse.put s.regs o v (regReset o) }

/-- A field of a register value. -/
def fieldOf (f : Field) (v : U64) : Nat := (v.extractLsb' f.lo f.w).toNat

/-- A register value with a field replaced. -/
def fieldPut (f : Field) (v : U64) (x : Nat) : U64 :=
  let m : U64 := (BitVec.allOnes f.w).setWidth 64 <<< f.lo
  (v &&& ~~~m) ||| ((BitVec.ofNat f.w x).setWidth 64 <<< f.lo)

/-- The value of a field (R9). -/
def State.get (s : State) (f : Field) : Nat := fieldOf f (s.rd f.off)

/-- Set a field by hardware. -/
def State.set (s : State) (f : Field) (x : Nat) : State := s.wr f.off (fieldPut f (s.rd f.off) x)

/-- Whether a one-bit field is 1. -/
def State.on (s : State) (f : Field) : Bool := s.get f != 0

/-- Set a one-bit flag. -/
def State.flag (s : State) (f : Field) : State := s.set f 1

/-- Set a one-bit field to a truth value. -/
def State.setB (s : State) (f : Field) (b : Bool) : State := s.set f (b2n b)

/-- Set a flag when a condition holds. -/
def State.flagIf (s : State) (b : Bool) (f : Field) : State := if b then s.flag f else s

/-- Add to a counting field that saturates at its largest value. -/
def State.bump (s : State) (f : Field) (n : Nat) : State := s.set f (Nat.min (2 ^ f.w - 1) (s.get f + n))

/-! Time and identity. -/

/-- CLK_AON_TIME: ticks of 320 ns, eight cycles of 25 MHz (R308). -/
def State.aon (s : State) : Nat := s.time.osc / 8

/-- The always-on time at which the current period began. -/
def State.periodStart (s : State) : Nat := s.get F.MGT_PERIOD_T0_T0

/-- The tick within the period. -/
def State.phaseTick (s : State) : Nat := s.aon - s.periodStart

/-- Mean frequency of a clock in units of 1/4000 MHz: the programmed one, lower by half the depth of 0.05 % a code while it spreads (R306). -/
def State.meanRate (s : State) (mhz : Nat) (spread : Bool) : Nat :=
  mhz * (4000 - (if spread then s.get F.CLK_SSC_SSC_DEPTH else 0))

/-- Cycles of 25 MHz pass: always-on time, and CYC of CORE and FAB while their PLLs run (R302, R303, R414). The cycle counts are
held in cycles × 25 × 4000. -/
def State.advanceOsc (s : State) (n : Nat) : State :=
  let core := if s.on F.CLK_STAT_CORE_LOCK && !s.on F.CLK_STAT_CORE_STOPPED then
    n * s.meanRate (s.get F.CLK_CFG_CORE_MHZ) (s.on F.CLK_SSC_CORE_SSC) else 0
  let fab := if s.on F.CLK_STAT_FAB_LOCK then n * s.meanRate (s.get F.CLK_CFG_FAB_MHZ) (s.on F.CLK_SSC_FAB_SSC) else 0
  { s with
    time := { s.time with osc := s.time.osc + n, coreCyc := s.time.coreCyc + core, fabCyc := s.time.fabCyc + fab }
    ledger := { s.ledger with poweredTicks := s.ledger.poweredTicks + n } }

/-- The step number of R150: the step in progress or the next one. -/
def State.stepNo (s : State) : Nat := s.get F.SEAL_STEP_STEP_COUNTER + 1

/-- MODE of the module (MGT_BOOTSTAT): 0 starting, 1 normal, 2 minimal. -/
def State.mode (s : State) : Nat := s.get F.MGT_BOOTSTAT_MODE

/-- The register blocks are out of reset (R12): step 4 has begun, or the module runs in minimal mode. -/
def State.blocksUp (s : State) : Bool := s.start.powered && (decide (4 ≤ s.get F.MGT_BOOTSTAT_STEP) || s.mode == 2)

/-- The module tripped and waits for the next start (R317, R319). -/
def State.tripped (s : State) : Bool := s.on F.PWR_STAT_THERM_TRIP || s.on F.PWR_STAT_BASE_TRIP

/-- The job runs: 52 V is present, the start has reached step 11 and no trip has turned the module off. -/
def State.running (s : State) : Bool := s.start.powered && s.mode == 1 && !s.tripped

/-- ALERT_N is low (R440). -/
def State.alertLow (s : State) : Bool :=
  s.start.powered && (s.mode == 2 || s.on F.PWR_STAT_THERM_TRIP || s.on F.PWR_STAT_BASE_TRIP)

/-- RFC 1982 order on n-bit serial numbers: `a` is earlier than `b`; numbers half the range apart count as earlier (R25). -/
def serialEarlier (w a b : Nat) : Bool :=
  let d := (b + 2 ^ w - a % 2 ^ w) % 2 ^ w
  decide (0 < d) && decide (d ≤ 2 ^ (w - 1))

/-! What the module sends. -/

def State.send (s : State) (o : Out) : State := { s with sent := o :: s.sent }

/-- MSI-X of function 0 or 1. -/
def State.msix (s : State) (fn1 : Bool) : MsixSt := if fn1 then s.start.msix1 else s.start.msix0

def State.setMsix (s : State) (fn1 : Bool) (x : MsixSt) : State :=
  { s with start := if fn1 then { s.start with msix1 := x } else { s.start with msix0 := x } }

/-- Raise a vector (R359): a message to the host, or the pending bit while the vector is masked; lost while the link is not up. -/
def State.msi (s : State) (fn1 : Bool) (v : Nat) : State :=
  let x := s.msix fn1
  if !s.start.cxlUp then s
  else if bit x.mask v then s.setMsix fn1 { x with pba := x.pba ||| 2 ^ v }
  else s.send (.msi fn1 v)

/-- Set a flag that is a cause of a vector: the vector is raised where the cause changes from 0 to 1 (R359). -/
def State.cause (s : State) (f : Field) (fn1 : Bool) (v : Nat) : State :=
  if s.on f then s else (s.flag f).msi fn1 v

/-! Tiles. -/

def State.tile (s : State) (n : TileIx) : TileSt := s.tiles[n]

def State.setTile (s : State) (n : TileIx) (t : TileSt) : State := { s with tiles := s.tiles.set n t }

def State.modTile (s : State) (n : TileIx) (f : TileSt → TileSt) : State := s.setTile n (f (s.tile n))

/-- Apply to every tile. -/
def State.modTiles (s : State) (f : TileSt → TileSt) : State := { s with tiles := s.tiles.map f }

/-- Mark a tile's step failed (R240). -/
def State.failTile (s : State) (n : TileIx) : State := s.modTile n (fun t => { t with failed := true })

/-- Set a tile's poison flag of the step (R211). -/
def State.taintTile (s : State) (n : TileIx) : State := s.modTile n (fun t => { t with poisonUsed := true })

/-- A completion record reaches the tile's sequencer (R32). -/
def State.record (s : State) (n : TileIx) (r : BitVec 256) : State := s.modTile n (fun t => { t with recs := r :: t.recs })

/-- The fenced tiles. -/
def State.tileFenced (s : State) (n : Nat) : Bool := bit (s.get F.FLT_FENCE_TILE_TILES) n

/-- The tile to which the plan's work for tile `t` is bound since the last step boundary (R31, R140): the tile itself, or one that remains. -/
def State.bindTile (s : State) (t : Nat) : Nat :=
  let m := s.period.boundFence
  let l := (List.range 64).filter (fun n => !bit m n)
  if bit m t then l.getD (Config.standIn t m % l.length) t else t

/-- A step boundary binds work anew (R31, R208). -/
def State.bindWork (s : State) : State :=
  { s with period := { s.period with boundFence := s.get F.FLT_FENCE_TILE_TILES, boundEng := (s.rd 0x50018).toNat } }

/-! Power domains (R297). -/

def domWay (q : Nat) : Nat := 64 + q
def domTally (t : Nat) : Nat := 80 + t
def domKiln (k : Nat) : Nat := 88 + k
def domAssayer (a : Nat) : Nat := 96 + a
def domCaster : Nat := 100
def domTimetable : Nat := 101
def domNoc : Nat := 102
def domMem (k : Nat) : Nat := 103 + k
def domPort (p : Nat) : Nat := 135 + p
def domCxl : Nat := 153
def domFlash : Nat := 154

/-- STATE codes of PWR_DOMd_STAT. -/
def PState.code : PState → Nat
  | .off => 0 | .retained => 1 | .gated => 2 | .on => 3 | .powerDown => 4

def State.dom (s : State) (d : Nat) : Nat := s.get (F.PWR_DOM_STAT_STATE d)

def State.setDom (s : State) (d st : Nat) : State := s.set (F.PWR_DOM_STAT_STATE d) st

def State.setDomReq (s : State) (d st : Nat) : State := s.set (F.PWR_DOM_STAT_REQ_STATE d) st

/-- The domain is ON and its meter has not stalled it (R312). -/
def State.domReady (s : State) (d : Nat) : Bool := s.dom d == 3 && !s.power.metered.contains d

/-- A domain on the CORE clock (R297). -/
def coreDom (d : Nat) : Bool := decide (d ≤ 101)

/-- The domain sleeps: GATED, RETAINED, in POWER_DOWN, or the Flash domain when OFF (R298). -/
def State.asleep (s : State) (d : Nat) : Bool :=
  let st := s.dom d
  st == 1 || st == 2 || st == 4 || (st == 0 && d == domFlash)

/-- The CORE PLL restarts where deep sleep stopped it (R303). -/
def State.coreRestart (s : State) : State :=
  if s.on F.CLK_STAT_CORE_STOPPED then (s.set F.CLK_STAT_CORE_STOPPED 0).flag F.CLK_STAT_CORE_LOCK else s

/-- A wake event counts in its domain (R299, R300) and ends deep sleep (R303). -/
def State.wakeEvent (s : State) (d code : Nat) : State :=
  ((s.set (F.PWR_DOM_STAT_LAST_WAKE d) code).bump (F.PWR_DOM_STAT_WAKES d) 1).coreRestart

/-- A wake event of code `code` reaches domain `d` (R299, R300, R303): a domain that sleeps starts to wake. -/
def State.wake (s : State) (d code : Nat) : State :=
  if s.asleep d && !s.power.waking.any (fun w => w.1 == d) then
    let s1 := s.wakeEvent d code
    { s1 with power := { s1.power with waking := s1.power.waking ++ [(d, code)] } }
  else s

/-- The domain is no longer being woken. -/
def State.stopWaking (s : State) (d : Nat) : State :=
  { s with power := { s.power with waking := s.power.waking.filter (fun w => w.1 != d) } }

/-- A woken domain is ON (R298); the BOOT PLL runs while Flash is (R302). -/
def State.domOn (s : State) (d : Nat) : State :=
  ((s.stopWaking d).setDom d 3).flagIf (d == domFlash) F.CLK_STAT_BOOT_LOCK

/-- The module's own access meets a memory interface: one that sleeps wakes, and the access waits for it (R299, R300). The wait lies within
the command (log entry 73). -/
def State.memAwake (s : State) (k : Nat) : State :=
  if s.asleep (domMem k) then (s.wake (domMem k) 1).domOn (domMem k) else s

/-- An access to NAND or xSPI flash once a start is over (R300): the Flash domain wakes for it, and is OFF between accesses (R298). -/
def State.flashAccess (s : State) : State :=
  if s.mode != 0 && s.dom domFlash == 0 && !s.power.waking.any (fun w => w.1 == domFlash) then s.wakeEvent domFlash 1 else s

/-- Fold a state operation over a list. -/
def State.forEach {α : Type} (s : State) (l : List α) (f : State → α → State) : State := l.foldl f s

/-- Turn off every domain but those kept; tile contents, DRAM and everything in flight are lost (R298, R328, R340). The always-on
island, the Ledger and the flash keep theirs. -/
def State.allOff (s : State) (keep : List Nat) : State :=
  let s1 := s.forEach (List.range 155) (fun s d => if keep.contains d then s else (s.setDom d 0).setDomReq d 0)
  let s2 := (((s1.set F.CLK_STAT_CORE_LOCK 0).set F.CLK_STAT_FAB_LOCK 0).set F.CLK_STAT_MEM_LOCK 0).set F.CLK_STAT_BOOT_LOCK 0
  let s3 := s2.set F.CLK_STAT_CORE_STOPPED 0
  let keepNand := fun (c : CastSlot) => if c.writing then CastSlot.init else { c with exporting := false }
  { s3 with
    tiles := Vector.replicate 64 TileSt.init
    mem := MemSt.init
    coll := CollSt.init
    power := { s3.power with waking := [], metered := [], items := [], reserved := 0 }
    period := PeriodSt.init
    seals := SealSt.init
    flt := { s3.flt with assay := none, assayHashed := false, roots := [] }
    cast := { CastSt.init with knownGen := s3.cast.knownGen }
    flash := { s3.flash with nand := s3.flash.nand.map keepNand }
    stalled := []
    start := { s3.start with memReady := false, hung := 0, cxlUp := s3.start.cxlUp && keep.contains domCxl } }

/-! The Ledger (R386, R387). -/

/-- The Ledger is written to the next location of its NAND area: 16 GiB in locations of 64 KiB, in ring order. -/
def State.writeLedger (s : State) : State :=
  let s1 := s.flashAccess
  { s1 with flash := { s1.flash with ledgerNand := some s1.ledger, ledgerNandIx := (s1.flash.ledgerNandIx + 1) % 262144 } }

/-- Key of a unit in the Ledger's counts. -/
def unitKey (cls index : Nat) : Nat := cls * 65536 + index

def Ledger.addCorrected (l : Ledger) (cls index n : Nat) : Ledger :=
  let k := unitKey cls index
  { l with corrected := Sparse.put l.corrected k ((Sparse.getD l.corrected k 0 + n) % 2 ^ 64) 0 }

def Ledger.addUncorrected (l : Ledger) (cls index sev n : Nat) : Ledger :=
  let k := unitKey cls index * 4 + sev
  { l with uncorrected := Sparse.put l.uncorrected k ((Sparse.getD l.uncorrected k 0 + n) % 2 ^ 32) 0 }

/-! Pigeonholes: what other units do to slots (R362, R364, R366). -/

/-- An internal channel. -/
def internalMbx (c : MbxIx) : Bool := decide (16 ≤ c.val ∧ c.val < 24)

/-- The sequencer of column `col` of an internal channel's row (R361). -/
def mailTile (c : MbxIx) (col : Fin 8) : Option TileIx :=
  if internalMbx c then (List.finRange 64).find? (fun n => n.val == 8 * (c.val - 16) + col.val) else none

def State.chan (s : State) (c : MbxIx) : MbxChan := s.mbx[c]

def State.setChan (s : State) (c : MbxIx) (m : MbxChan) : State := { s with mbx := s.mbx.set c m }

/-- Vector of a channel at its register side, end A (R359). -/
def State.mbxVector (s : State) (c : MbxIx) : State :=
  if c.val < 16 then s.msi false (8 + c.val) else if 24 ≤ c.val then s.msi true (c.val - 24) else s

/-- TX_EMPTIED at end A, with its vector. -/
def State.emptiedA (s : State) (c : MbxIx) : State :=
  let m := s.chan c
  if m.endA.emptied then s else (s.setChan c { m with endA := { m.endA with emptied := true } }).mbxVector c

/-- RX_ARRIVED at end A, with its vector, and the counts of both ends. -/
def State.arrivedA (s : State) (c : MbxIx) : State :=
  let m := s.chan c
  let s1 := s.setChan c { m with
    endA := { m.endA with arrived := true, received := satAdd 65535 m.endA.received 1 }
    endB := { m.endB with sent := satAdd 65535 m.endB.sent 1 } }
  if m.endA.arrived then s1 else s1.mbxVector c

/-- Eight words of a message of up to 64 bytes. -/
def msgWords (bytes : List Byte) : Vector U64 8 :=
  Vector.ofFn (fun i => BitVec.ofNat 64 (leNat (sliceBytes bytes (8 * i.val) 8)))

/-- The unit at end B sends a message to end A, where that slot is EMPTY. -/
def State.mailToA (s : State) (c : MbxIx) (bytes : List Byte) : State :=
  let m := s.chan c
  (s.setChan c { m with toA := { m.toA with data := msgWords bytes, full := true } }).arrivedA c

/-- A MINIMAL_STATUS reply (R366): TYPE 0x8000, the TAG answered, MGT_BOOTSTAT and MGT_IDENT. -/
def State.minimalStatus (s : State) (tag : Nat) : List Byte :=
  leBytes 2 0x8000 ++ leBytes 2 0 ++ leBytes 4 tag ++ leBytes 8 (s.rd 8).toNat ++ leBytes 8 (s.rd 0).toNat

/-- The Innkeeper sends a held reply once the reverse slot is EMPTY (R364), or the next CPER part (R385). -/
def State.mailPump (s : State) (c : MbxIx) : State :=
  let m := s.chan c
  if m.toA.full then s else
  match m.parts with
  | p :: ps => (s.setChan c { m with parts := ps }).mailToA c p
  | [] =>
    match m.reply with
    | some tag => (s.setChan c { m with reply := none }).mailToA c (s.minimalStatus tag)
    | none => s

/-- In minimal mode the Innkeeper takes a message of channels 0 to 15 and answers it (R364); with an unsent reply held, the message
waits in its slot. -/
def State.minimalAnswer (s : State) (c : MbxIx) : State :=
  let m := s.chan c
  if s.mode == 2 && decide (c.val < 16) && m.toB.full && m.reply.isNone then
    let tag := bits (m.toB.data[0]).toNat 63 32
    let m' := { m with toB := { m.toB with full := false }, reply := some tag }
    ((s.setChan c m').emptiedA c).mailPump c
  else s

def allMbx : List MbxIx := List.finRange 32
def allTiles : List TileIx := List.finRange 64

/-! Ring and host resets. -/

/-- A partial DOE upload is discarded (R349, R360). -/
def State.dropUpload (s : State) : State := { s with start := { s.start with upload := none, uploadBytes := [] } }

/-! The boot directory (R331). -/

/-- The copy in use: the one with the higher sequence number of those whose CRC-32C holds. -/
def bootIx (f : Flash) : Fin 2 :=
  let a := f.boot[(0 : Fin 2)]
  let b := f.boot[(1 : Fin 2)]
  if b.crcOk && (!a.crcOk || decide (a.seqNo.toNat < b.seqNo.toNat)) then 1 else 0

/-- The boot directory in force. -/
def State.bootDir (s : State) : BootDir := s.flash.boot[bootIx s.flash].dir

/-- The slot of the active Waybill, and the staging slot. -/
def State.activeSlot (s : State) : Fin 2 := s.bootDir.active

def State.stagingSlot (s : State) : Fin 2 := 1 - s.activeSlot

/-- The boot directory is written: the copy not in use takes it, under the next sequence number. -/
def State.putBoot (s : State) (d : BootDir) : State :=
  if s.bootDir = d then s else
  let i := bootIx s.flash
  let c : BootCopy := ⟨s.flash.boot[i].seqNo + 1, true, d⟩
  { s with flash := { s.flash with boot := s.flash.boot.set (1 - i) c } }

end Sys2Proof.Machine
end

