-- ==== Sys2Proof/Machine/Queues.lean ====
section
/-! DEFINITION. Who posts a command and which queue holds it (R33, R178), the engine that its work is bound to (R208), the depths shown, and
the commands that wait there. -/

namespace Sys2Proof.Machine

/-- The queue that holds a command: kind and number. Ladle l of tile n is (l, n), a matrix queue (4, n), a vector queue (5, n), a zoo engine's
(6, domain), the collective queue (9, 0); the sequencer's own operations and accesses of the host stand in none. -/
def queueOf : Instr → Option (Nat × Nat)
  | .operandIn n l _ => some (l.val, n.val)
  | .transposeIn n l _ => some (l.val, n.val)
  | .convert n l _ => some (l.val, n.val)
  | .resultOut n l _ => some (l.val, n.val)
  | .matmul n _ _ _ => some (4, n.val)
  | .cruCopy n _ => some (4, n.val)
  | .splitCombine n _ => some (5, n.val)
  | .add n _ => some (5, n.val)
  | .mul n _ => some (5, n.val)
  | .fma n _ => some (5, n.val)
  | .cmp n _ => some (5, n.val)
  | .sel n _ => some (5, n.val)
  | .min n _ => some (5, n.val)
  | .max n _ => some (5, n.val)
  | .perm n _ => some (5, n.val)
  | .cvt n _ => some (5, n.val)
  | .gatherCsr q _ _ => some (6, domWay q.val)
  | .gatherIdx q _ _ => some (6, domWay q.val)
  | .scatterIdx q _ _ => some (6, domWay q.val)
  | .copyIn q _ _ => some (6, domWay q.val)
  | .copyOut q _ _ => some (6, domWay q.val)
  | .segSum t _ _ => some (6, domTally t.val)
  | .segMax t _ _ => some (6, domTally t.val)
  | .segMean t _ _ => some (6, domTally t.val)
  | .segCount t _ _ => some (6, domTally t.val)
  | .segDot t _ _ => some (6, domTally t.val)
  | .segPair t _ _ => some (6, domTally t.val)
  | .exp k _ _ => some (6, domKiln k.val)
  | .log k _ _ => some (6, domKiln k.val)
  | .recip k _ _ => some (6, domKiln k.val)
  | .rsqrt k _ _ => some (6, domKiln k.val)
  | .tanh k _ _ => some (6, domKiln k.val)
  | .sigmoid k _ _ => some (6, domKiln k.val)
  | .bcast _ _ => some (9, 0)
  | .reduce _ _ => some (9, 0)
  | .send _ _ => some (9, 0)
  | .recv _ _ => some (9, 0)
  | _ => none


/-- Posting tile of a command of a tile's unit or of a zoo engine. -/
def posterOf : Instr → Option TileIx
  | .operandIn n _ _ => some n
  | .transposeIn n _ _ => some n
  | .convert n _ _ => some n
  | .resultOut n _ _ => some n
  | .matmul n _ _ _ => some n
  | .cruCopy n _ => some n
  | .splitCombine n _ => some n
  | .gatherCsr _ n _ => some n
  | .gatherIdx _ n _ => some n
  | .scatterIdx _ n _ => some n
  | .copyIn _ n _ => some n
  | .copyOut _ n _ => some n
  | .segSum _ n _ => some n
  | .segMax _ n _ => some n
  | .segMean _ n _ => some n
  | .segCount _ n _ => some n
  | .segDot _ n _ => some n
  | .segPair _ n _ => some n
  | .exp _ n _ => some n
  | .log _ n _ => some n
  | .recip _ n _ => some n
  | .rsqrt _ n _ => some n
  | .tanh _ n _ => some n
  | .sigmoid _ n _ => some n
  | .bcast n _ => some n
  | .reduce n _ => some n
  | .send n _ => some n
  | .recv n _ => some n
  | .add n _ => some n
  | .mul n _ => some n
  | .fma n _ => some n
  | .cmp n _ => some n
  | .sel n _ => some n
  | .min n _ => some n
  | .max n _ => some n
  | .perm n _ => some n
  | .cvt n _ => some n
  | _ => none

/-- The tile sequencer that issues a command: it posts it to a unit, or carries it out itself (R33). -/
def seqOf : Instr → Option TileIx
  | .sealVote n _ => some n
  | .dwqPost n _ => some n
  | .dwqDrain n => some n
  | .memFence n => some n
  | .scalarFileWrite n _ _ => some n
  | .mbxDataWrite c .a col _ _ => mailTile c col
  | .doorbell c .a col => mailTile c col
  | i => posterOf i

/-- A stalled command that no engine's queue and no step holds: an access of the host, a sequencer's message, a flush of an aged entry. -/
def hostSide : Instr → Bool
  | .hostMemRead _ _ => true
  | .hostMemWrite _ _ => true
  | .mbxDataWrite _ _ _ _ _ => true
  | .doorbell _ _ _ => true
  | .wcTimerExpire _ _ _ => true
  | _ => false

/-- A vote's part. -/
def isVote : Instr → Bool
  | .sealVote _ _ => true
  | _ => false

/-- A command for a Ladle or the array of a tile (R161). -/
def foreground (i : Instr) : Bool := match queueOf i with | some q => decide (q.1 ≤ 4) | none => false

/-- The command goes through the queue of a unit of its tile, or of a zoo engine. -/
def unitQueued (i : Instr) : Bool := match queueOf i with | some q => decide (q.1 ≤ 6) | none => false

/-! Zoo engines and what is bound to them. -/

/-- The domains of the zoo engines of one kind. -/
def engKind (d : Nat) : List Nat :=
  if d < 80 then (List.range 16).map domWay else if d < 88 then (List.range 8).map domTally else (List.range 8).map domKiln

/-- The engine to which the plan's work for the engine of domain `d` is bound since the last step boundary (R208): the engine itself, or one of
its kind. -/
def State.bindEng (s : State) (d : Nat) : Nat :=
  let m := s.period.boundEng
  let l := (engKind d).filter (fun e => !bit m (e - 64))
  if bit m (d - 64) then l.getD (Config.standIn d m % l.length) d else d

/-- The domain of the zoo engine that runs a command. -/
def State.engineAt (s : State) (i : Instr) : Option Nat :=
  match queueOf i with
  | some q => if q.1 == 6 then some (s.bindEng q.2) else none
  | none => none

/-- The queue of the unit that runs a command. -/
def State.queueAt (s : State) (i : Instr) : Option (Nat × Nat) :=
  match queueOf i with
  | some q => if q.1 == 6 then some (6, s.bindEng q.2) else some q
  | none => none

/-! Waiting commands. -/

/-- Commands that wait in a queue. -/
def State.waitingIn (s : State) (q : Nat × Nat) : Nat := (s.stalled.filter (fun w => w.posted && s.queueAt w.cmd == some q)).length

/-- The QUEUE_DEPTH field that shows a queue. -/
def depthField (q : Nat × Nat) : Option Field :=
  if q.1 == 4 then some (F.TILE_MX_STAT_QUEUE_DEPTH q.2)
  else if q.1 == 5 then some (F.TILE_VE_STATUS_QUEUE_DEPTH q.2)
  else if q.1 == 6 then
    (if q.2 < 80 then some (F.ENG_WAY_STAT_QUEUE_DEPTH (q.2 - 64))
     else if q.2 < 88 then some (F.ENG_TAL_STAT_QUEUE_DEPTH (q.2 - 80))
     else some (F.ENG_KIL_STAT_QUEUE_DEPTH (q.2 - 88)))
  else none

/-- The depth of the queues of some commands, at most 64 (R178). -/
def State.setDepths (s : State) (l : List Waiting) : State :=
  s.forEach l (fun s w => match s.queueAt w.cmd with
    | some q => match depthField q with
      | some f => s.set f (Nat.min 64 (s.waitingIn q))
      | none => s
    | none => s)

/-- The sequencer that issues a command stands at an earlier one, which it has not been able to post (R178, R207, R299). A part of a vote that
waits for the deferred entries does not hold those back (R163). -/
def State.seqHeld (s : State) (i : Instr) : Bool :=
  match seqOf i with
  | some n => s.stalled.any (fun w => !w.posted && seqOf w.cmd == some n && !(isVote w.cmd && foreground i))
  | none => false

/-- Commands that wait are lost. -/
def State.dropWaiting (s : State) (p : Waiting → Bool) : State :=
  if s.stalled.isEmpty then s else ({ s with stalled := s.stalled.filter (fun w => !p w) }).setDepths s.stalled

end Sys2Proof.Machine
end

