-- ==== Sys2Proof/Machine/FaultOps.lean ====
section
/-! DEFINITION. Error records and their queue (R368 to R371), fencing (R373), module failure (R374), minimal mode (R340), and what a
failing DRAM channel brings about (R225, R226, R231). -/

namespace Sys2Proof.Machine

/-! Unit classes and kinds of R369. -/

def clsTile : Nat := 0x01
def clsWay : Nat := 0x02
def clsTally : Nat := 0x03
def clsKiln : Nat := 0x04
def clsAssayer : Nat := 0x05
def clsCaster : Nat := 0x06
def clsPort : Nat := 0x07
def clsDram : Nat := 0x08
def clsTimetable : Nat := 0x09
def clsInnkeeper : Nat := 0x0A
def clsNoc : Nat := 0x0B
def clsCxl : Nat := 0x0C
def clsFlash : Nat := 0x0D
def clsPower : Nat := 0x0E
def clsJob : Nat := 0x0F

/-- A class whose units can be fenced (R371). -/
def fenceable (cls : Nat) : Bool := decide (1 ≤ cls ∧ cls ≤ 5) || cls == clsPort || cls == clsDram

/-- The power domain of a fenceable unit but a port or a channel. -/
def unitDom (cls index : Nat) : Nat :=
  if cls == clsTile then index
  else if cls == clsWay then domWay index
  else if cls == clsTally then domTally index
  else if cls == clsKiln then domKiln index
  else domAssayer index

/-- Put a record into the queue. -/
def State.enqueue (s : State) (r : ErrRec) : State :=
  let s1 := { s with flt := { s.flt with queue := s.flt.queue ++ [r] } }
  let n := s1.flt.queue.length
  (s1.set F.FLT_QUEUE_DEPTH n).set F.FLT_QUEUE_PEAK (Nat.max n (s.get F.FLT_QUEUE_PEAK))

/-- Merge a record into OVF_COUNT (R371). -/
def State.mergeRec (s : State) (r : ErrRec) : State :=
  let s1 := s.bump F.FLT_QUEUE_OVF_COUNT 1
  if r.severity == 0 then { s1 with ledger := s1.ledger.addCorrected r.cls r.index r.count }
  else s1.flag F.FLT_QUEUE_LOST_UE

/-- Take the oldest corrected record out of a queue. -/
def dropCorrected : List ErrRec → Option (ErrRec × List ErrRec)
  | [] => none
  | r :: rs => if r.severity == 0 then some (r, rs) else (dropCorrected rs).map (fun p => (p.1, r :: p.2))

/-- Queue a record, or merge as the queue's fullness asks (R371). -/
def State.enqueueOrMerge (s : State) (r : ErrRec) : State :=
  if s.flt.queue.length < 64 then s.enqueue r
  else if r.severity == 0 then s.mergeRec r
  else match dropCorrected s.flt.queue with
    | some (c, rest) => (({ s with flt := { s.flt with queue := rest } }).mergeRec c).enqueue r
    | none => s.mergeRec r

/-- The record of an error detected now (R368). -/
def State.mkRec (s : State) (cls index severity kind syndrome address count rflags : Nat) : ErrRec where
  time := s.aon
  step := s.stepNo
  period := s.get F.MGT_PERIOD_STAT_PERIOD_NUM
  cls := cls
  index := index
  severity := severity
  kind := kind
  temp := s.get F.PWR_THERM_JT_MAX
  vin := s.get F.PWR_INPUT_VIN
  rflags := rflags
  syndrome := syndrome
  address := address
  count := count

/-! Casts end where no tier is being written (R391, R394). -/

/-- Free the stage entries of a cast: each returns to its stack. -/
def State.freeStage (s : State) (entries : Sparse Nat) : State :=
  s.forEach entries (fun s e =>
    let k := (e.2 - 0x8000000000) / 0x200000000
    if h : k < 32 then
      { s with cast := { s.cast with stage := s.cast.stage.set k (s.cast.stage[k] ++ [e.2]) } }
    else s)

/-- A cast none of whose tiers is still being written is over. -/
def State.castSettle (s : State) : State :=
  match s.cast.run with
  | none => s
  | some r =>
    let busy := fun (t : TierSt) => match t with | .copying _ => true | _ => false
    if busy r.partner || busy r.nand then s
    else (({ s with cast := { s.cast with run := none } }).freeStage r.staged).set F.ENG_CAST_STAT_ACTIVE 0

/-- Port P is lost: the partner tier of the running cast is abandoned (R411). -/
def State.abandonPartnerTier (s : State) : State :=
  let s1 := s.set F.LINK_PAIR_STATUS_PARTNER_TIER 0
  match s1.cast.run with
  | some r =>
    match r.partner with
    | .copying _ =>
      ({ s1 with cast := { s1.cast with run := some { r with partner := .abandoned } } }.flag F.ENG_CAST_STAT_P_ABANDON).castSettle
    | _ => s1
  | none => s1

/-- A port goes DOWN (R269, R371, R373). -/
def State.portDown (s : State) (p : Nat) : State :=
  let s1 := ((s.set (F.LINK_PORT_STAT_STATE p) 5).set (F.LINK_PORT_STAT_GEN p) 0).set (F.LINK_PORT_STAT_WIDTH p) 0
  let s2 := { s1 with flt := { s1.flt with downLog := s1.aon :: s1.flt.downLog } }
  if p == 17 then s2.abandonPartnerTier else s2

/-! Fencing. -/

/-- The slots of a fenced tile's sequencer (R362). -/
def State.fenceMail (s : State) (n : TileIx) : State :=
  match (List.finRange 32).find? (fun c => c.val == 16 + n.val / 8) with
  | none => s
  | some c =>
    let m := s.chan c
    let m1 := if m.toA.full && m.toA.column == some (n.val % 8) then
        { m with toA := { m.toA with full := false, column := none }, endB := { m.endB with dropped := true } } else m
    let m2 := if m1.toB.column == some (n.val % 8) then
        { m1 with toB := { m1.toB with full := false, column := none } } else m1
    s.setChan c m2

/-- Work started on a fenced tile is lost (R31): its items run no more, and their requests stop (R323). -/
def State.loseItems (s : State) (n : Nat) : State :=
  { s with power := { s.power with
      items := s.power.items.map (fun x => if x.tile == n && x.running then { x with running := false, burst := false, reserve := 0 } else x) } }

/-- A waiting command that is lost with tile n: one its sequencer has not posted, or one in the queue of a unit of the tile (R31). -/
def goneWithTile (n : TileIx) (w : Waiting) : Bool :=
  seqOf w.cmd == some n && (!w.posted || (match queueOf w.cmd with | some q => decide (q.1 ≤ 5) | none => true))

/-- Fence tile n (R373): OFF, its contents lost, the step in progress fails. -/
def State.fenceTile (s : State) (n : TileIx) : State :=
  if s.tileFenced n then s else
  let s1 := (s.setDom n 0).setDomReq n 0
  let tiles := s1.get F.FLT_FENCE_TILE_TILES + 2 ^ n.val
  let s2 := ((s1.set F.FLT_FENCE_TILE_TILES tiles).bump F.FLT_STAT_FENCED_TILES 1).flag F.FLT_STAT_FENCE
  let s3 := s2.setTile n { TileSt.init with failed := s2.period.stepActive }
  let s4 := { s3 with ledger := { s3.ledger with fencedTiles := BitVec.ofNat 64 tiles } }
  ((s4.loseItems n.val).dropWaiting (goneWithTile n)).fenceMail n

/-- FENCED of the engine's own status register. -/
def State.engFencedFlag (s : State) (d : Nat) : State :=
  if d < 80 then s.flag (F.ENG_WAY_STAT_FENCED (d - 64))
  else if d < 88 then s.flag (F.ENG_TAL_STAT_FENCED (d - 80))
  else if d < 96 then s.flag (F.ENG_KIL_STAT_FENCED (d - 88))
  else s

/-- Fence the zoo engine of domain d, 64 to 99 (R373): its queue is flushed (R208), and the step fails on every tile that used it. -/
def State.fenceEng (s : State) (d : Nat) : State :=
  let v := (s.rd 0x50018).toNat
  if bit v (d - 64) then s else
  let s1 := ((s.setDom d 0).setDomReq d 0).wr 0x50018 (BitVec.ofNat 64 (v + 2 ^ (d - 64)))
  let s2 := ((s1.bump F.FLT_STAT_FENCED_ENG 1).flag F.FLT_STAT_FENCE).engFencedFlag d
  let s3 := { s2 with ledger := { s2.ledger with fencedEng := BitVec.ofNat 36 (v + 2 ^ (d - 64)) } }
  let s4 := s3.dropWaiting (fun w => w.posted && s3.engineAt w.cmd == some d)
  s4.forEach allTiles (fun s n => if s.period.stepActive && s.period.used.contains (d, n.val) then s.failTile n else s)

/-- The zoo engine of domain d is fenced. -/
def State.engFenced (s : State) (d : Nat) : Bool := bit (s.rd 0x50018).toNat (d - 64)

/-- More than 8 tiles, or every engine of one kind, are fenced (R374). -/
def State.tooManyFenced (s : State) : Bool :=
  decide (8 < s.get F.FLT_STAT_FENCED_TILES) || s.get F.FLT_FENCE_ENG_WAYFARERS == 0xFFFF || s.get F.FLT_FENCE_ENG_TALLIES == 0xFF
    || s.get F.FLT_FENCE_ENG_KILNS == 0xFF || s.get F.FLT_FENCE_ENG_ASSAYERS == 0xF

/-! Minimal mode and module failure. -/

/-- Enter minimal mode with a reason (R340): only the always-on island, CXL, the Pigeonholes and attestation run. -/
def State.enterMinimal (s : State) (reason : Nat) : State :=
  let s1 := s.allOff [domCxl]
  let s2 := (((s1.setDom domCxl 3).setDomReq domCxl 3).set F.MGT_BOOTSTAT_MODE 2).set F.MGT_BOOTSTAT_REASON reason
  let s3 := { s2 with start := { s2.start with retryArmed := false, restartAtBoundary := none } }
  s3.forEach allMbx (fun s c => s.minimalAnswer c)

/-- The module declares itself failed (R374). -/
def State.moduleFailed (s : State) : State :=
  if s.mode == 2 then s else
  let s1 := s.enqueueOrMerge (s.mkRec clsJob 0 3 0x14 0 0 1 0)
  let s2 := { s1 with ledger := { s1.ledger with moduleFailures := s1.ledger.moduleFailures + 1 } }
  s2.writeLedger.enterMinimal 0x92

/-! DRAM channels. -/

/-- Stack and physical channel of a channel number 9 k + c. -/
def chStack (ch : Nat) : Nat := ch / 9
def chPhys (ch : Nat) : Nat := ch % 9

def State.chState (s : State) (ch : Nat) : Nat := s.get (F.MEM_CH_STAT_STATE ch)
def State.setChState (s : State) (ch st : Nat) : State := s.set (F.MEM_CH_STAT_STATE ch) st

/-- The position 8 k + p that a physical channel fills. -/
def State.posOf (s : State) (ch : Nat) : Option Nat :=
  (List.finRange 256).find? (fun i => i.val / 8 == chStack ch && s.ledger.channelMap[i] == chPhys ch) |>.map (fun i => i.val)

/-- The unused spare of a stack: a channel in state 1 (R209). -/
def State.spareOf (s : State) (k : Nat) : Option Nat :=
  ((List.range 9).map (fun c => 9 * k + c)).find? (fun ch => s.chState ch == 1)

/-- A migration is running. -/
def State.migrating (s : State) : Bool := s.get F.MEM_MIG_STAT_STATE != 0

/-- Source and destination of the running migration. -/
def State.migSrc (s : State) : Nat := 9 * s.get F.MEM_MIG_STAT_SRC_STACK + s.get F.MEM_MIG_STAT_SRC_CH
def State.migDst (s : State) : Nat := 9 * s.get F.MEM_MIG_STAT_SRC_STACK + s.get F.MEM_MIG_STAT_DST_CH

/-- A running copy is paused while either of its channels recalibrates (R227). -/
def State.copyPause (s : State) : State :=
  if !s.migrating then s else
  let busy := s.on (F.MEM_CH_STAT_RECAL s.migSrc) || s.on (F.MEM_CH_STAT_RECAL s.migDst)
  s.set F.MEM_MIG_STAT_STATE (if busy then 2 else 1)

/-- Migration of `src` to the spare `dst` starts (R226, R227); its copy waits for a recalibration of either. -/
def State.startMigration (s : State) (src dst : Nat) : State :=
  let s1 := (s.setChState src 2).setChState dst 3
  let s2 := (((((s1.set F.MEM_MIG_STAT_STATE 1).set F.MEM_MIG_STAT_PROGRESS 0).set F.MEM_MIG_STAT_SRC_STACK (chStack src)).set
    F.MEM_MIG_STAT_SRC_CH (chPhys src)).set F.MEM_MIG_STAT_DST_CH (chPhys dst)).copyPause
  let s3 := s2.set F.MEM_MAP_STAT_SPARES_LEFT (s2.get F.MEM_MAP_STAT_SPARES_LEFT - 1)
  { s3 with ledger := { s3.ledger with interrupted := (s3.posOf src).map (fun p => (src, dst, p)) } }

/-- The copy ends: its source and destination take the states given. -/
def State.stopMigration (s : State) (srcSt dstSt : Nat) : State :=
  let s1 := (s.setChState s.migSrc srcSt).setChState s.migDst dstSt
  let s2 := s1.set F.MEM_MIG_STAT_STATE 0
  { s2 with ledger := { s2.ledger with interrupted := none } }

/-- A channel enters state 5 or 7 (R226): flags, and it is fenced at the next start. An unused spare is then no spare any more. -/
def State.chOut (s0 : State) (ch : Nat) (dead : Bool) : State :=
  let s := if s0.chState ch == 1 then s0.set F.MEM_MAP_STAT_SPARES_LEFT (s0.get F.MEM_MAP_STAT_SPARES_LEFT - 1) else s0
  let s1 := s.setChState ch (if dead then 7 else 5)
  let s2 := (s1.flag (if dead then F.MEM_STAT_CH_DEAD else F.MEM_STAT_FENCE_PENDING)).cause F.MEM_STAT_RESTART_REQ false 4
  { s2 with ledger := { s2.ledger with toFence := NatSet.add s2.ledger.toFence ch } }

/-- The source of the running migration is dead (R231): lines already copied stay on the spare. -/
def State.srcDied (s : State) : State :=
  let src := s.migSrc
  let dst := s.migDst
  let p := s.get F.MEM_MIG_STAT_PROGRESS
  let s1 := s.stopMigration 7 3
  let s2 := (s1.flag F.MEM_STAT_CH_DEAD).cause F.MEM_STAT_RESTART_REQ false 4
  match s2.posOf src with
  | some q => { s2 with ledger := { s2.ledger with diedCopy := (src, dst, q, p) :: s2.ledger.diedCopy } }
  | none => s2

/-- The running copy's source turns fence pending because its spare is lost (R231). -/
def State.dstLost (s : State) : State :=
  let src := s.migSrc
  (s.stopMigration 0 4).chOut src false |> fun s' =>
    { s' with ledger := { s'.ledger with retiredCh := NatSet.add s'.ledger.retiredCh s.migDst } }

/-- A channel goes to state 5, or to 7 where it no longer answers, by error-on-error (R371, R231). The copy from a source that answers goes on
to its end, where the source is retired; a channel that is retired, fenced or dead stays so. -/
def State.fenceChannel (s : State) (ch : Nat) (answers : Bool) : State :=
  let st := s.chState ch
  if st == 4 || st == 6 || st == 7 then s
  else if s.migrating && s.migSrc == ch then
    if answers then ((s.setChState ch 5).flag F.MEM_STAT_FENCE_PENDING).cause F.MEM_STAT_RESTART_REQ false 4 else s.srcDied
  else if s.migrating && s.migDst == ch then s.dstLost
  else s.chOut ch (!answers)

/-- Fence a unit at once (R371). -/
def State.fenceNow (s : State) (cls index : Nat) (answers : Bool) : State :=
  if cls == clsTile then
    match allTiles.find? (fun n => n.val == index) with
    | some n => s.fenceTile n
    | none => s
  else if cls == clsPort then (s.portDown index).flag F.FLT_STAT_FENCE
  else if cls == clsDram then (s.fenceChannel index answers).flag F.FLT_STAT_FENCE
  else s.fenceEng (unitDom cls index)

/-! Posting. -/

/-- Post an error record (R370, R371). `answers` is false for a channel that no longer answers. -/
def State.postFull (s : State) (cls index severity kind syndrome address count rflags : Nat) (answers : Bool) : State :=
  let r := s.mkRec cls index severity kind syndrome address count rflags
  let s0 := s.wake domTimetable 5
  if severity == 0 then s0.enqueueOrMerge r
  else
    let busy := s0.flt.queue.any (fun q => q.cls == cls && q.index == index)
    let lost := decide (64 ≤ s0.flt.queue.length) && (dropCorrected s0.flt.queue).isNone
    let stops := (busy && (cls == clsTimetable || cls == clsNoc || cls == clsCaster)) || (lost && !fenceable cls)
    let fence := (busy || lost) && fenceable cls
    let flags := rflags ||| (if busy then 2 else 0) ||| (if fence then 1 else 0)
    let s1 := s0.flagIf busy F.FLT_STAT_ERR_ON_ERR
    let s2 := if fence then s1.fenceNow cls index answers else s1
    let s3 := s2.enqueueOrMerge { r with rflags := flags }
    let s4 := if fence && (cls == clsTile || decide (2 ≤ cls ∧ cls ≤ 5)) then s3.writeLedger else s3
    if stops || s4.tooManyFenced then s4.moduleFailed else s4

/-- Post an error record of a unit that answers. -/
def State.post (s : State) (cls index severity kind syndrome address : Nat) : State :=
  s.postFull cls index severity kind syndrome address 1 0 true

/-- Fence a unit and post its record with FENCED set (R373). -/
def State.fenceUnit (s : State) (cls index kind : Nat) : State :=
  let s1 := s.fenceNow cls index true
  let s2 := s1.postFull cls index 2 kind 0 0 1 1 true
  let s3 := s2.writeLedger
  if s3.tooManyFenced then s3.moduleFailed else s3

/-- A channel fails (R225) and its stack decides what follows (R226, R231). -/
def State.channelFails (s : State) (ch : Nat) (answers : Bool) : State :=
  let st := s.chState ch
  let chanRec := fun (t : State) => t.postFull clsDram ch 1 0x05 0 0 1 0 answers
  if s.migrating && s.migDst == ch then chanRec s.dstLost
  else if s.migrating && s.migSrc == ch then (if answers then s else chanRec s.srcDied)
  else if st != 0 && !(st == 5 && !answers) then s
  else if !answers && ((s.spareOf (chStack ch)).isNone || s.migrating) then
    chanRec (s.chOut ch true)
  else if s.migrating && ((s.spareOf (chStack ch)).isSome || chStack s.migSrc == chStack ch) then
    if s.ledger.waiting.contains ch then s else
    let w := s.ledger.waiting ++ [ch]
    ({ s with ledger := { s.ledger with waiting := w } }).set F.MEM_MIG_STAT_QUEUED w.length
  else match s.spareOf (chStack ch) with
    | some sp => if answers then s.startMigration ch sp else (s.startMigration ch sp).srcDied |> chanRec
    | none => chanRec (s.chOut ch false)

/-- Waiting channels take their turn while no migration runs (R226). -/
def drainWaiting : List Nat → State → State
  | [], s => s
  | ch :: rest, s =>
    if s.migrating then s else
    drainWaiting rest
      ((({ s with ledger := { s.ledger with waiting := rest } }).set F.MEM_MIG_STAT_QUEUED rest.length).channelFails ch true)

def State.drainMigrations (s : State) : State := drainWaiting s.ledger.waiting s

end Sys2Proof.Machine
end

