-- ==== Sys2Proof/Machine/MemOps.lean ====
section
/-! DEFINITION. Memory: decode of module addresses (R213 to R217), lines with poison and errors (R210 to R212), write combining (R219 to
R222), migration (R228), tile memory (R211), persistent pages with shadows (R174 to R176) and their stage entries (R393), bias (R352),
and the accesses of units and of the host. -/

namespace Sys2Proof.Machine

/-! Decode. -/

/-- What a module address names. `dram` gives position 8 k + p and byte within the channel. -/
inductive Loc where
  | dram (pos byte : Nat)
  | tile (n a : Nat)
  | unmapped
  deriving DecidableEq, Repr

/-- Bytes of each channel given to its stack's home region, h of R214. -/
def State.homeShare (s : State) : Nat := s.get F.MEM_MAP_CFG_HOME_SIZE * 0x10000000 / 8

/-- G_CH of R214. -/
def State.gch (s : State) : Nat := 0x80000000 - s.homeShare

/-- Unfenced positions of stack k, ascending (R215). -/
def State.stackSlots (s : State) (k : Nat) : List Nat := s.mem.slots.filter (fun q => q / 8 == k)

/-- Bytes of the home region of stack k (R215). -/
def State.homeBytes (s : State) (k : Nat) : Nat := (s.stackSlots k).length * s.homeShare

/-- Decode of a module address (R213 to R215). -/
def State.decodeAddr (s : State) (a : Nat) : Loc :=
  if a < 0x8000000000 then
    let n := s.mem.slots.length
    if a < n * s.gch then
      let i := a / 2048
      match s.mem.slots[i % n]? with
      | some q => .dram q (i / n * 2048 + a % 2048)
      | none => .unmapped
    else .unmapped
  else if a < 0xC000000000 then
    let k := (a - 0x8000000000) / 0x200000000
    let o := (a - 0x8000000000) % 0x200000000
    let l := s.stackSlots k
    if o < l.length * s.homeShare then
      let i := o / 2048
      match l[i % l.length]? with
      | some q => .dram q (s.gch + i / l.length * 2048 + o % 2048)
      | none => .unmapped
    else .unmapped
  else if a < 0xC040000000 then
    let n := (a - 0xC000000000) / 0x1000000
    let o := (a - 0xC000000000) % 0x1000000
    if o < 0x600000 then .tile n o else .unmapped
  else .unmapped

/-- Module address of byte `a` of tile n's own memory (R213). -/
def tileAddr (n a : Nat) : Nat := 0xC000000000 + n * 0x1000000 + a

/-- The pieces of an access that stay within one line: address and bytes. -/
def pieces : Nat → Nat → Nat → List (Nat × Nat)
  | 0, _, _ => []
  | fuel + 1, a, n =>
    if n = 0 then [] else
    let m := Nat.min n (512 - a % 512)
    (a, m) :: pieces fuel (a + m) (n - m)

def linePieces (a n : Nat) : List (Nat × Nat) := pieces (n / 512 + 2) a n

/-! Lines. -/

/-- The physical line that holds line `l` of position q, by R228 and R231; none where the channel is dead. -/
def State.physLine (s : State) (q l : Nat) : Option Nat :=
  if h : q < 256 then
    let ch := 9 * (q / 8) + s.ledger.channelMap[q]
    match s.ledger.diedCopy.find? (fun d => d.1 == ch) with
    | some d => if l < d.2.2.2 then some (d.2.1 * 0x400000 + l) else none
    | none =>
      if s.migrating && s.migSrc == ch && decide (l < s.get F.MEM_MIG_STAT_PROGRESS) then some (s.migDst * 0x400000 + l)
      else if s.chState ch == 7 then none
      else some (ch * 0x400000 + l)
  else none

/-- The bytes of a physical line that are not zero, by offset. -/
def State.lineBytes (s : State) (pl : Nat) : Sparse Byte :=
  (Sparse.range s.mem.dram (pl * 512) 512).map (fun e => (e.1 - pl * 512, e.2))

/-- Overlay bytes on a line's bytes. -/
def overlay (base top : Sparse Byte) : Sparse Byte := top.foldl (fun d e => Sparse.put d e.1 e.2 0) base

/-- The bytes of a line in canonical form: offsets below 512, rising, zeros not listed. -/
def lineForm (d : Sparse Byte) : Sparse Byte := overlay [] (d.filter (fun e => decide (e.1 < 512)))

/-- Replace the bytes of a physical line. -/
def State.putLine (s : State) (pl : Nat) (d : Sparse Byte) : State :=
  let lo := s.mem.dram.filter (fun e => decide (e.1 < pl * 512))
  let hi := s.mem.dram.filter (fun e => decide (pl * 512 + 512 ≤ e.1))
  { s with mem := { s.mem with dram := lo ++ (lineForm d).map (fun e => (pl * 512 + e.1, e.2)) ++ hi } }

/-- Mark or clear poison of a physical line. -/
def State.setPoison (s : State) (pl : Nat) (p : Bool) : State :=
  { s with mem := { s.mem with poison := if p then NatSet.add s.mem.poison pl else NatSet.del s.mem.poison pl } }

/-- CORR_HOUR: corrected lines of the last hour (R212, R225), saturating. -/
def State.corrHour (s : State) (ch : Nat) : Nat :=
  Nat.min 0xFFFF ((s.mem.corrLog.filter (fun e => e.2 == ch && decide (s.aon < e.1 + 11250000000))).length)

/-- A corrected line counts (R212), and may make its channel fail (R225). -/
def State.corrected (s : State) (ch : Nat) : State :=
  let s1 := { s with mem := { s.mem with corrLog := (s.aon, ch) :: s.mem.corrLog.filter (fun e => decide (s.aon < e.1 + 11250000000)) } }
  let s2 := s1.set (F.MEM_CH_STAT_CORR_HOUR ch) (s1.corrHour ch)
  if s2.get F.MEM_MIG_CTL_CORR_THRESH < s2.corrHour ch then s2.channelFails ch true else s2

/-- An uncorrectable line (R210, R211, R367): counted, written back with poison, read again; its record carries the module address, and
PERSIST_LOSS where the line lies in a committed persistent page. -/
def State.uncorrectable (s : State) (pl reread address : Nat) (persist : Bool) : State :=
  let ch := pl / 0x400000
  let s1 := ((s.bump (F.MEM_CH_STAT_UNCORR ch) 1).setPoison pl true)
  let s2 := if reread ≤ 16 then { s1 with mem := { s1.mem with latent := Sparse.erase s1.mem.latent pl } } else s1
  let s3 := s2.postFull clsDram ch 1 0x04 reread address 1 (if persist then 8 else 0) true
  if 16 < reread then s3.channelFails ch true else s3

/-- A read meets the errors of a physical line (R210, R212). A scrub writes a corrected line back. -/
def State.meetErrors (s : State) (pl address : Nat) (persist scrub : Bool) : State :=
  match Sparse.find s.mem.latent pl with
  | none => s
  | some (e, e2) =>
    if e == 0 then s
    else if e ≤ 16 then
      let s1 := if scrub then { s with mem := { s.mem with latent := Sparse.erase s.mem.latent pl } } else s
      s1.corrected (pl / 0x400000)
    else s.uncorrectable pl e2 address persist

/-! Write combining (R220, R222). -/

def State.wcOf (s : State) (k : Nat) : List WcEntry := if h : k < 32 then s.mem.wc[k] else []

def State.setWc (s : State) (k : Nat) (l : List WcEntry) : State :=
  if h : k < 32 then { s with mem := { s.mem with wc := s.mem.wc.set k l } } else s

/-- Write bytes of a line to its channel: a whole line clears or sets poison by its data; other writes keep the mark. A dead channel
discards (R226). -/
def State.writeLine (s : State) (q line : Nat) (d : Sparse Byte) (whole poison : Bool) : State :=
  match s.physLine q line with
  | none => s
  | some pl =>
    if whole then
      let s1 := { s with mem := { s.mem with latent := Sparse.erase s.mem.latent pl } }
      (s1.putLine pl (overlay [] d)).setPoison pl poison
    else
      let s1 := s.meetErrors pl 0 false false
      let s2 := s1.putLine pl (overlay (s1.lineBytes pl) d)
      if poison then s2.setPoison pl true else s2

/-- Flush an entry already taken out of its buffer. -/
def State.flushEntry (s : State) (k : Nat) (e : WcEntry) : State :=
  (s.memAwake k).writeLine (8 * k + e.pos) e.line e.bytes (e.bytes.length == 512) false

/-- A write of part of a line is merged; one that covers the line goes straight to memory and frees its entry (R220, R222). -/
def State.wcMerge (s0 : State) (q line : Nat) (d : Sparse Byte) : State :=
  let k := q / 8
  let p := q % 8
  let s := s0.memAwake k
  let l := s.wcOf k
  if d.length == 512 then
    (s.setWc k (l.filter (fun x => !(x.pos == p && x.line == line)))).writeLine q line d true false
  else match l.find? (fun e => e.pos == p && e.line == line) with
  | some e =>
    let b := d.foldl (fun m x => Sparse.insert m x.1 x.2) e.bytes
    if b.length == 512 then
      (s.setWc k (l.filter (fun x => !(x.pos == p && x.line == line)))).flushEntry k ⟨p, line, b⟩
    else s.setWc k (l.map (fun x => if x.pos == p && x.line == line then ⟨p, line, b⟩ else x))
  | none =>
    let s1 := match l with
      | o :: rest => if 128 ≤ l.length then (s.setWc k rest).flushEntry k o else s
      | [] => s
    s1.setWc k (s1.wcOf k ++ [⟨p, line, d⟩])

/-- Flush every entry of every buffer (R221). -/
def State.fence (s : State) : State :=
  s.forEach (List.range 32) (fun s k => (s.wcOf k).foldl (fun s e => s.flushEntry k e) (s.setWc k []))

/-- Flush the entries whose line holds bytes of a 2 MiB granule of the global region (R352). -/
def State.flushGranule (s : State) (g : Nat) : State :=
  s.forEach ((List.range 4096).map (fun i => g * 0x200000 + i * 512)) (fun s a =>
    match s.decodeAddr a with
    | .dram q b =>
      let k := q / 8
      match (s.wcOf k).find? (fun e => e.pos == q % 8 && e.line == b / 512) with
      | some e => (s.setWc k ((s.wcOf k).filter (fun x => !(x.pos == q % 8 && x.line == b / 512)))).flushEntry k e
      | none => s
    | _ => s)

/-- A write of part or all of one line at position q (R219, R222): a whole line goes straight to memory. -/
def State.writeDram (s : State) (q byte : Nat) (data : List Byte) (poison : Bool) : State :=
  let line := byte / 512
  let d : Sparse Byte := data.zipIdx.map (fun x => (byte % 512 + x.2, x.1))
  if data.length == 512 then
    let k := q / 8
    let s0 := s.memAwake k
    let s1 := s0.setWc k ((s0.wcOf k).filter (fun x => !(x.pos == q % 8 && x.line == line)))
    s1.writeLine q line d true poison
  else
    let s1 := s.wcMerge q line d
    if poison then match s1.physLine q line with
      | some pl => s1.setPoison pl true
      | none => s1
    else s1

/-- A read of bytes of one line at position q (R210, R219, R222): the bytes, and whether the line is poisoned. -/
def State.readDram (s0 : State) (q byte n address : Nat) (persist : Bool) : State × List Byte × Bool :=
  let line := byte / 512
  let s := s0.memAwake (q / 8)
  match s.physLine q line with
  | none => (s.flag F.MEM_STAT_POISON_READ, List.replicate n 0, true)
  | some pl =>
    let s1 := s.meetErrors pl (address / 512 * 512) persist false
    let base := s1.lineBytes pl
    let d := match (s1.wcOf (q / 8)).find? (fun e => e.pos == q % 8 && e.line == line) with
      | some e => overlay base e.bytes
      | none => base
    let bad := s1.mem.poison.contains pl
    (s1.flagIf bad F.MEM_STAT_POISON_READ, (List.range n).map (fun i => Sparse.getD d (byte % 512 + i) 0), bad)

/-! Tile memory. -/

/-- A byte of tile memory; a byte that nothing has written since it became undefined is a free value (R27). -/
def State.tileByte (s : State) (n : TileIx) (a : Nat) : Byte :=
  (Sparse.find (s.tile n).mem a).getD (Config.freeByte s.free (n.val * 0x1000000 + a))

/-- Bytes of tile memory, and whether a marked granule is among them (R211). -/
def State.tileRead (s : State) (n : TileIx) (a len : Nat) : List Byte × Bool :=
  ((List.range len).map (fun i => s.tileByte n (a + i)),
    (s.tile n).poison.any (fun g => decide (g * 64 < a + len ∧ a < g * 64 + 64)))

/-- Write bytes of tile memory (R211): poisoned data marks the granules it touches; other data clears the mark of the granules it
covers whole. -/
def State.tileWrite (s : State) (n : TileIx) (a : Nat) (data : List Byte) (poison : Bool) : State :=
  let len := data.length
  s.modTile n (fun t =>
    let kept := t.poison.filter (fun g => !(decide (a ≤ g * 64 ∧ g * 64 + 64 ≤ a + len)))
    let touched := (List.range ((a + len + 63) / 64 - a / 64)).map (fun i => a / 64 + i)
    { t with
      mem := data.zipIdx.foldl (fun m x => Sparse.insert m (a + x.2) x.1) t.mem
      poison := if poison && len != 0 then touched.foldl NatSet.add t.poison else kept })

/-! Persistent pages. -/

/-- The LAYOUT of the Waybill in use. -/
def State.layout (s : State) : Option Layout := s.wb.map (fun w => w.data.layout)

/-- The page of 64 KiB that holds a module address lies in a persistent region (R174). -/
def State.persistent (s : State) (a : Nat) : Bool :=
  match s.layout with
  | some l => l.persistent.any (fun r => decide (r.1 ≤ a ∧ a < r.1 + r.2))
  | none => false

/-- Persistent pages in ascending module address (R377): page numbers address ÷ 64 KiB. -/
def State.persistentPages (s : State) : List Nat :=
  match s.layout with
  | some l =>
    (l.persistent.flatMap (fun r => (List.range (r.2 / 0x10000)).map (fun i => r.1 / 0x10000 + i))).foldl NatSet.add []
  | none => []

/-- The committed frame of a page (R247). -/
def State.committedFrame (s : State) (page : Nat) : Nat := Sparse.getD s.mem.frames page (page * 0x10000)

/-- Where an access to a module address goes: through the step view or to the committed page (R175). -/
def State.view (s : State) (committed : Bool) (a : Nat) : Nat :=
  if s.persistent a then
    let page := a / 0x10000
    let frame := match (if committed then none else Sparse.find s.mem.shadows page) with
      | some f => f
      | none => s.committedFrame page
    frame + a % 0x10000
  else a

/-- The stack whose pool and stage serve a page: the one that holds the page's byte 0 (R174). -/
def State.pageStack (s : State) (page : Nat) : Nat :=
  match s.decodeAddr (page * 0x10000) with
  | .dram q _ => q / 8
  | _ => 32

/-- The line that holds a module address is on a channel that no longer answers (R226). -/
def State.deadAt (s : State) (a : Nat) : Bool :=
  match s.decodeAddr a with
  | .dram q b => (s.physLine q (b / 512)).isNone
  | _ => false

/-- Some line of a frame of 64 KiB is on such a channel. -/
def State.deadFrame (s : State) (f : Nat) : Bool := (List.range 128).any (fun i => s.deadAt (f + i * 512))

/-- Copy a frame of 64 KiB line by line, poison marks included. -/
def State.copyFrame (s : State) (src dst : Nat) : State :=
  s.forEach (List.range 128) (fun s0 i =>
    match s0.decodeAddr (src + i * 512), s0.decodeAddr (dst + i * 512) with
    | .dram q b, .dram q' b' =>
      let s := (s0.memAwake (q / 8)).memAwake (q' / 8)
      match s.physLine q (b / 512) with
      | none => s.writeLine q' (b' / 512) [] true true
      | some pl =>
        let s1 := s.meetErrors pl (src + i * 512) true false
        let base := s1.lineBytes pl
        let d := match (s1.wcOf (q / 8)).find? (fun e => e.pos == q % 8 && e.line == b / 512) with
          | some e => overlay base e.bytes
          | none => base
        let k := q' / 8
        let s2 := s1.setWc k ((s1.wcOf k).filter (fun x => !(x.pos == q' % 8 && x.line == b' / 512)))
        s2.writeLine q' (b' / 512) d true (s1.mem.poison.contains pl)
    | _, _ => s0)

/-- A first write to a protected page copies its committed page to a stage entry of its stack, or waits for one (R393). -/
def State.stageEntry (s : State) (page : Nat) : State :=
  match s.cast.run with
  | none => s
  | some r =>
    if !r.protect.contains page then s else
    let k := s.pageStack page
    if h : k < 32 then
      match s.cast.stage[k] with
      | [] => { s.flag F.ENG_CAST_STAT_STAGE_WAIT with stallReq := true }
      | f :: rest =>
        let s1 := s.copyFrame (s.committedFrame page) f
        let r1 := { r with protect := NatSet.del r.protect page, staged := Sparse.insert r.staged page f }
        { s1 with cast := { s1.cast with run := some r1, stage := s1.cast.stage.set k rest } }
    else s

/-- The shadow of a persistent page for a write by tile n (R174, R176): the page has one, takes one, or the write is not performed.
`whole`: the write covers the page. The Boolean says whether the write goes on. -/
def State.shadow (s : State) (n : TileIx) (page : Nat) (whole : Bool) : State × Bool :=
  if (Sparse.find s.mem.shadows page).isSome then (s, true) else
  let k := s.pageStack page
  if h : k < 32 then
    match s.mem.pool[k] with
    | [] => ((s.flag (F.TILE_UPD_STAT_SHADOW_EXHAUST n.val)).failTile n, false)
    | f :: rest =>
      let s1 := s.stageEntry page
      if s1.stallReq then (s1, false) else
      let s2 := { s1 with mem := { s1.mem with pool := s1.mem.pool.set k rest } }
      let src := s2.committedFrame page
      let s3 := if whole then s2
        else if s2.deadFrame src || s2.deadFrame f then (s2.copyFrame src f).taintTile n else s2.copyFrame src f
      let s4 := { s3 with mem := { s3.mem with shadows := Sparse.insert s3.mem.shadows page f } }
      (s4.bump (F.TILE_UPD_STAT_SHADOW_PAGES n.val) 1, true)
  else ((s.flag (F.TILE_UPD_STAT_SHADOW_EXHAUST n.val)).failTile n, false)

/-- Return a frame to its stack's pool. -/
def State.freeFrame (s : State) (f : Nat) : State :=
  let k := (f - 0x8000000000) / 0x200000000
  if h : k < 32 then { s with mem := { s.mem with pool := s.mem.pool.set k (s.mem.pool[k] ++ [f]) } } else s

/-- Drop every shadow of the step (R27, R248). -/
def State.dropShadows (s : State) : State :=
  let l := s.mem.shadows
  ({ s with mem := { s.mem with shadows := [] } }).forEach l (fun s e => s.freeFrame e.2)

/-! Stashes (R233 to R236). -/

/-- The stash of the step that holds a module address in a Cellar: layer and tile. -/
def State.cellarStash (s : State) (a : Nat) : Option (Nat × Nat) :=
  (s.mem.stash.find? (fun e => e.2.2.1 && decide (e.2.2.2.1 ≤ a ∧ a < e.2.2.2.1 + e.2.2.2.2))).map (fun e => (e.1, e.2.1))

/-- What is written to a stash in a Cellar is what its layer produced (R234). -/
def State.noteStash (s : State) (a : Nat) (data : List Byte) : State :=
  if (s.cellarStash a).isSome then
    { s with mem := { s.mem with stashBits := data.zipIdx.foldl (fun m x => Sparse.insert m (a + x.2) x.1) s.mem.stashBits } }
  else s

/-- The stash of a layer on a tile reads with poison: a granule of the Larder is marked, or a line of the Cellar is poisoned or dead (R236). -/
def State.stashBad (s : State) (e : Nat × Nat × Bool × Nat × Nat) : Bool :=
  let a := e.2.2.2.1
  let len := e.2.2.2.2
  if e.2.2.1 then (linePieces a len).any (fun p => match s.decodeAddr p.1 with
    | .dram q b => match s.physLine q (b / 512) with
      | some pl => s.mem.poison.contains pl
      | none => true
    | _ => true)
  else match allTiles.find? (fun t => t.val == e.2.1) with
    | some t => (s.tile t).poison.any (fun g => decide (g * 64 < a + len ∧ a < g * 64 + 64))
    | none => true

/-- Layer l can be read on tile t: it is stashed there without poison, or its recomputed stash is kept (R235, R236). -/
def State.stashGood (s : State) (t l : Nat) : Bool :=
  s.mem.kept.contains (64 * l + t) || (!s.mem.notStashed.contains l &&
    s.mem.stash.any (fun e => e.1 == l && e.2.1 == t && !s.stashBad e))

/-- Bytes of a layer's stash on a tile by the plan. -/
def stashBytes (layers : List (List (TileIx × Nat))) (bind : Nat → Nat) (l t : Nat) : Nat :=
  (((layers.getD l []).filter (fun x => bind x.1.val == t)).map (fun x => x.2)).foldl (· + ·) 0

/-- Recomputed layers kept in a reserve of `room` bytes, from the highest down as far as it holds them (R235). -/
def keepFrom (bytes : Nat → Nat) : Nat → List Nat → List Nat
  | _, [] => []
  | room, l :: rest => if bytes l ≤ room then l :: keepFrom bytes (room - bytes l) rest else []

/-- Layer l is recomputed on tile t from the nearest layer below it that can be read, or from the step's inputs (R235, R236): each layer up to
l counts, and those between are kept in the tile's reserve, from l − 1 downwards. -/
def State.recompute (s : State) (layers : List (List (TileIx × Nat))) (t l : Nat) : State :=
  let base := (List.range l).reverse.find? (fun j => s.stashGood t j)
  let first := match base with | some j => j + 1 | none => 0
  let between := ((List.range l).filter (fun j => decide (first ≤ j))).reverse
  let kept := keepFrom (fun j => stashBytes layers s.bindTile j t) (s.get F.MEM_LARDER_CFG_RECOMP_RESERVE * 0x10000) between
  let others := s.mem.kept.filter (fun k => k % 64 != t)
  ({ s with mem := { s.mem with kept := kept.foldl (fun m j => NatSet.add m (64 * j + t)) others } }).bump
    F.MEM_STASH_STAT_RECOMPUTES (l + 1 - first)

/-- The plan's stash sizes by layer. -/
def State.stashPlan (s : State) : List (List (TileIx × Nat)) := match s.layout with | some l => l.stash | none => []

/-- A stash that reads with poison is replaced by a recomputation (R236). -/
def State.stashPoison (s : State) (t l : Nat) : State :=
  (s.bump F.MEM_STASH_STAT_STASH_POISON 1).recompute s.stashPlan t l

/-- A read of tile memory meets a marked granule of a Larder stash: the layer is recomputed, and its granules hold the same bits without the
mark (R159, R236). -/
def State.larderHeal (s : State) (n : TileIx) (a len : Nat) : State :=
  if (s.tile n).poison.isEmpty then s else
  s.forEach (s.mem.stash.filter (fun e => !e.2.2.1 && e.2.1 == n.val && decide (e.2.2.2.1 < a + len ∧ a < e.2.2.2.1 + e.2.2.2.2) && s.stashBad e))
    (fun s e => (s.stashPoison n.val e.1).modTile n (fun t => { t with
      poison := t.poison.filter (fun g => !decide (g * 64 < e.2.2.2.1 + e.2.2.2.2 ∧ e.2.2.2.1 < g * 64 + 64)) }))

/-! Accesses of units. -/

/-- Ranges of addresses and bytes that share a byte. -/
def overlaps (a len : Nat) (r : Nat × Nat) : Bool := decide (a < r.1 + r.2 ∧ r.1 < a + len)

/-- An access of a unit to `len` bytes from `a` breaks the rule of a collective in flight: its source written, its destination read or written
(R285). What its destination holds is undefined from then on. -/
def State.touch (s : State) (a len : Nat) (write : Bool) : State :=
  let hit := s.coll.queue.filter (fun c => !c.recorded && ((write && overlaps a len c.source) || overlaps a len c.dest))
  if hit.isEmpty then s else
  { s with mem := { s.mem with spoiled := hit.foldl (fun l c => if l.contains c.dest then l else c.dest :: l) s.mem.spoiled } }

/-- An access of a unit cannot go on: its granule is in host bias (R352), or its memory interface sleeps or is capped (R299, R312,
R318). The command stalls. -/
def State.accessGate (s : State) (a : Nat) : State :=
  match s.decodeAddr a with
  | .dram q _ =>
    if a < 0x8000000000 && s.mem.hostBias.contains (a / 0x200000) then { s.flag F.MGT_HDM_BIAS_STALL with stallReq := true }
    else
      let d := domMem (q / 8)
      if s.domReady d then s else { s.wake d 1 with stallReq := true }
  | _ => s

/-- A read by a unit for tile n of bytes of one line: data and poison (R211, R217). `committed` reads committed pages (R175). -/
def State.unitRead1 (s : State) (n : TileIx) (committed : Bool) (a len : Nat) : State × List Byte × Bool :=
  let pers := s.persistent a
  let v := s.view committed a
  match s.decodeAddr v with
  | .dram q b =>
    let sg := s.accessGate v
    -- R226: the step of a tile that touches a dead channel is tainted
    let s0 := if sg.deadAt v then sg.taintTile n else sg
    let (s1, d0, bad) := s0.readDram q b len a pers
    let d := match s.mem.undefPersist with
      | some e => if pers then (List.range len).map (fun i => Config.freeByte e (a + i)) else d0
      | none => d0
    let onCommitted := pers && (committed || (Sparse.find s.mem.shadows (a / 0x10000)).isNone)
    let line := a / 512 * 512
    if bad && onCommitted && !s1.flt.queue.any (fun r => r.cls == clsDram && r.address == line && bit r.rflags 3) then
      match s1.physLine q (b / 512) with
      | some pl => (s1.postFull clsDram (pl / 0x400000) 1 0x04 0 line 1 8 true, d, bad)
      | none => (s1, d, bad)
    else (s1, d, bad)
  | .tile m o =>
    match allTiles.find? (fun t => t.val == m) with
    | some t =>
      let s1 := s.larderHeal t o len
      let (d, bad) := s1.tileRead t o len
      (s1, d, bad)
    | none => (s, List.replicate len 0, true)
  | .unmapped => ((s.flag F.MEM_STAT_UNMAPPED).failTile n, List.replicate len 0, true)

/-- A read by a unit of any length. -/
def State.unitRead (s : State) (n : TileIx) (committed : Bool) (a len : Nat) : State × List Byte × Bool :=
  (linePieces a len).foldl (fun acc p =>
    let (s1, d, bad) := acc.1.unitRead1 n committed p.1 p.2
    (s1, acc.2.1 ++ d, acc.2.2 || bad)) (s.touch a len false, [], false)

/-- A zoo engine reads for the posting tile n; poison taints the step (R211). -/
def State.engRead (s : State) (n : TileIx) (a len : Nat) : State × List Byte × Bool :=
  let (s1, d, bad) := s.unitRead n false a len
  (if bad then s1.taintTile n else s1, d, bad)

/-- The output buffer of the current period (R358): module address and bytes. -/
def State.outBuffer (s : State) : Nat × Nat :=
  let size := s.get F.MGT_OUT_OUT_SIZE * 0x200000
  (s.get F.MGT_OUT_OUT_BASE * 0x200000 + s.get F.MGT_PERIOD_STAT_PERIOD_NUM % 2 * size, size)

/-- Some of `n` bytes from `a` lie in the period's output buffer. -/
def State.touchesOut (s : State) (a n : Nat) : Bool := decide (s.outBuffer.1 < a + n ∧ a < s.outBuffer.1 + s.outBuffer.2)

/-- Bytes of the output buffer written in the inference phase. -/
def State.inOutput (s : State) (a n : Nat) : Bool := s.get F.MGT_PERIOD_STAT_PHASE == 2 && s.touchesOut a n

/-- A write by a unit for tile n of bytes of one line. `lo`, `hi` bound the whole write. A period whose output buffer is HELD writes nothing
into it (R28, R358). -/
def State.unitWrite1 (s : State) (n : TileIx) (lo hi a : Nat) (data : List Byte) (poison : Bool) : State :=
  if s.period.outBlocked && s.touchesOut a data.length then s else
  let page := a / 0x10000
  let (s1, go) := if s.persistent a then s.shadow n page (decide (lo ≤ page * 0x10000 ∧ page * 0x10000 + 0x10000 ≤ hi)) else (s, true)
  if !go then s1 else
  let v := s1.view false a
  match s1.decodeAddr v with
  | .dram q b =>
    let s2 := s1.accessGate v
    (if s2.deadAt v then s2.taintTile n else s2).writeDram q b data poison
  | .tile m o =>
    match allTiles.find? (fun t => t.val == m) with
    | some t => s1.tileWrite t o data poison
    | none => s1
  | .unmapped => (s1.flag F.MEM_STAT_UNMAPPED).failTile n

/-! Writes of units. -/

/-- A write by a unit of any length, as it stands. -/
def State.unitStore (s : State) (n : TileIx) (a : Nat) (data : List Byte) (poison : Bool) : State :=
  let s0 := s.touch a data.length true
  let s1 := if poison && s0.inOutput a data.length && !s0.period.outBlocked then { s0 with period := { s0.period with outPoison := true } } else s0
  (linePieces a data.length).foldl (fun s p =>
    let d := (data.drop (p.1 - a)).take p.2
    (s.unitWrite1 n a (a + data.length) p.1 d poison).noteStash p.1 d) s1

/-- A byte of a frozen block, range parameter or small parameter (R165). -/
def frozenByte (l : List FreezeMask) (a : Nat) : Bool := l.any (fun m => m.ranges.any (fun r => decide (r.1 ≤ a ∧ a < r.1 + r.2)))

/-- The runs of bytes of a write that are not frozen. -/
def thawedRuns (l : List FreezeMask) : Nat → List Byte → List (Nat × List Byte)
  | _, [] => []
  | a, b :: rest =>
    let r := thawedRuns l (a + 1) rest
    if frozenByte l a then r else
    match r with
    | (x, d) :: more => if x == a + 1 then (a, b :: d) :: more else (a, [b]) :: (x, d) :: more
    | [] => [(a, [b])]

/-- A range parameter after its update (R172): clamped to [floor, ceil]; a NaN leaves the committed value. The second value counts the clamp. -/
def rangeClamp (floor ceil committed x : U32) : U32 × Bool :=
  if fv32 x == .nan then (committed, true)
  else if ltFv (fv32 x) (fv32 floor) then (floor, true)
  else if ltFv (fv32 ceil) (fv32 x) then (ceil, true)
  else (x, false)

/-- The clip interval of the range parameter at a module address (R172): its group's, by default 2⁻²⁰ to 2³⁰. -/
def rangeInterval (groups : List OptGroup) (l : List RangeCopy) (a : Nat) : Option (U32 × U32) :=
  (l.find? (fun r => decide (r.src ≤ a ∧ a + 4 ≤ r.src + r.bytes))).map (fun r => match groups[r.group]? with
    | some g => (g.clipFloor, g.clipCeil)
    | none => (0x35800000#32, 0x4E800000#32))

/-- The words of a write from an address that is a multiple of 4, range parameters clamped, with the clamps counted (R172). -/
def clampWords (iv : Nat → Option (U32 × U32)) (old : Nat → U32) : Nat → List Byte → List Byte × Nat
  | a, b0 :: b1 :: b2 :: b3 :: rest =>
    let (d, c) := clampWords iv old (a + 4) rest
    match iv a with
    | some (lo, hi) =>
      let (x, hit) := rangeClamp lo hi (old a) (BitVec.ofNat 32 (leNat [b0, b1, b2, b3]))
      (leBytes 4 x.toNat ++ d, c + b2n hit)
    | none => (b0 :: b1 :: b2 :: b3 :: d, c)
  | _, l => (l, 0)

/-- The module address serves wire residuals (R169, R377), which S4 writes. -/
def State.wireResidualAt (s : State) (a : Nat) : Bool :=
  match s.layout with
  | some l => l.wireResidual.any (fun r => decide (r.1 ≤ a ∧ a < r.1 + r.2))
  | none => false

/-- A byte as committed, without an access: what a pure read of a committed page gives. -/
def State.peekAt (s : State) (committed : Bool) (a : Nat) : Option Byte :=
  match (if s.persistent a then s.mem.undefPersist else none) with
  | some e => some (Config.freeByte e a)
  | none =>
  match s.decodeAddr (s.view committed a) with
  | .dram q b =>
    match s.physLine q (b / 512) with
    | none => some 0
    | some pl =>
      let d := match (s.wcOf (q / 8)).find? (fun e => e.pos == q % 8 && e.line == b / 512) with
        | some e => overlay (s.lineBytes pl) e.bytes
        | none => s.lineBytes pl
      some (Sparse.getD d (b % 512) 0)
  | .tile m o =>
    match allTiles.find? (fun t => t.val == m) with
    | some t => some (s.tileByte t o)
    | none => none
  | .unmapped => none

/-- What a module address holds for the step view, as a pure read: the byte that a unit's read returns. -/
def State.peek (s : State) (a : Nat) : Option Byte := s.peekAt false a

/-- A write of the update (S5) by tile n: frozen bytes keep their committed values (R165), range parameters are clamped (R172). -/
def State.updateStore (s : State) (n : TileIx) (a : Nat) (data : List Byte) (poison : Bool) : State :=
  match s.wb with
  | none => s.unitStore n a data poison
  | some w =>
    let d := w.data
    let old := fun (x : Nat) => BitVec.ofNat 32 (leNat ((List.range 4).map (fun i => (s.peekAt true (x + i)).getD 0)))
    let (b, k) := if a % 4 == 0 && d.layout.rangeCopies.any (fun r => decide (r.src < a + data.length ∧ a < r.src + r.bytes)) then
        clampWords (rangeInterval d.optim d.layout.rangeCopies) old a data else (data, 0)
    let s1 := s.bump (F.TILE_UPD_STAT_RANGE_CLAMP n.val) k
    if d.freeze.any (fun m => m.ranges.any (fun r => decide (r.1 < a + data.length ∧ a < r.1 + r.2))) then
      s1.forEach (thawedRuns d.freeze a b) (fun s r => s.unitStore n r.1 r.2 poison)
    else s1.unitStore n a b poison

/-- A write by a unit for tile n. Within a step a write to a persistent page, wire residuals apart, belongs to the tile's update: a tile that is
non-finite before its update begins writes none of it (R173, R177). -/
def State.unitWrite (s : State) (n : TileIx) (a : Nat) (data : List Byte) (poison : Bool) : State :=
  if !(s.period.stepActive && s.persistent a) || s.wireResidualAt a then s.unitStore n a data poison
  else
    let t := s.tile n
    if t.upd == 2 || (t.upd == 0 && t.nonfin) then
      (s.flag (F.TILE_UPD_STAT_UPDATE_SKIPPED n.val)).modTile n (fun t => { t with upd := 2 })
    else (s.modTile n (fun t => { t with upd := 1 })).updateStore n a data poison

/-- A reload of `len` bytes from `a` met a poisoned stash of the state before it: its layer is recomputed, and STASH_POISON counts it (R236). -/
def State.countReload (s : State) (n : TileIx) (a len : Nat) (before : State) : State :=
  match before.cellarStash a with
  | some (l, t) =>
    if t == n.val && (linePieces a len).any (fun p => match before.decodeAddr p.1 with
        | .dram q b => match s.physLine q (b / 512) with
          | some pl => s.mem.poison.contains pl
          | none => true
        | _ => true) then s.stashPoison t l else s
  | none => s

/-- Bytes moved as they stand, each line's poison with it (R211). A line of a stash in the Cellar that reads with poison is recomputed: its bits
are those that the layer produced, and the step is not tainted (R159, R236). -/
def State.moveBytes (s : State) (n : TileIx) (src dst len : Nat) : State :=
  (s.forEach (linePieces src len) (fun s p =>
    let (s1, d, bad) := s.unitRead n false p.1 p.2
    if bad && (match s.cellarStash p.1 with | some e => e.2 == n.val | none => false) then
      let bits := (List.range p.2).map (fun i => Sparse.getD s1.mem.stashBits (p.1 + i) 0)
      -- a dead channel's taint is undone as well
      (s1.modTile n (fun t => { t with poisonUsed := (s.tile n).poisonUsed })).unitWrite n (dst + (p.1 - src)) bits false
    else s1.unitWrite n (dst + (p.1 - src)) d bad)).countReload n src len s

/-- Before the backward pass of a layer the tile reloads its stash from the Cellar into the plan's reload buffer (R234). -/
def State.reloadStash (s : State) (n : TileIx) (l : Nat) : State :=
  match s.layout with
  | none => s
  | some lay => match lay.reload.find? (fun r => r.1 == n) with
    | none => s
    | some r => s.forEach (s.mem.stash.filter (fun e => e.1 == l && e.2.1 == n.val && e.2.2.1))
        (fun s e => s.moveBytes n e.2.2.2.1 (tileAddr n.val r.2) e.2.2.2.2)

/-- The backward pass of tile n reaches layer l (R234, R235; DEDUCED, log entry 74): its stash is reloaded, and a layer that is not stashed and
not kept is recomputed. -/
def State.reachLayer (s : State) (n : TileIx) (l : Nat) : State :=
  let key := 64 * l + n.val
  if !s.period.stepActive || s.mem.reached.contains key then s else
  let s1 := { s with mem := { s.mem with reached := NatSet.add s.mem.reached key } }
  if s1.mem.notStashed.contains l then (if s1.mem.kept.contains key then s1 else s1.recompute s1.stashPlan n.val l)
  else s1.reloadStash n l

/-- A write by the module itself, for no tile (output buffers, step log, dump ring): to DRAM or discarded. It waits for a granule in host
bias (R352). -/
def State.moduleWrite (s : State) (a : Nat) (data : List Byte) (poison : Bool) : State :=
  (linePieces a data.length).foldl (fun s p =>
    let d := (data.drop (p.1 - a)).take p.2
    match s.decodeAddr p.1 with
    | .dram q b =>
      if p.1 < 0x8000000000 && s.mem.hostBias.contains (p.1 / 0x200000) then
        { s.flag F.MGT_HDM_BIAS_STALL with mem := { s.mem with held := s.mem.held ++ [(p.1, d)] } }
      else s.writeDram q b d poison
    | _ => s.flag F.MEM_STAT_UNMAPPED) s

/-- The module's writes that waited go on, those whose granule is still in host bias excepted (R352). -/
def State.heldWrites (s : State) : State :=
  if s.mem.held.isEmpty then s else
  s.mem.held.foldl (fun s p => s.moduleWrite p.1 p.2 false) { s with mem := { s.mem with held := [] } }

/-- A read by the module itself. -/
def State.moduleRead (s : State) (a len : Nat) : State × List Byte × Bool :=
  (linePieces a len).foldl (fun acc p =>
    match acc.1.decodeAddr p.1 with
    | .dram q b => let (s1, d, bad) := acc.1.readDram q b p.2 p.1 false; (s1, acc.2.1 ++ d, acc.2.2 || bad)
    | _ => (acc.1.flag F.MEM_STAT_UNMAPPED, acc.2.1 ++ List.replicate p.2 0, true)) (s, [], false)

/-! Fence and timer of the write-combining buffers. -/

/-- DRAM is up and the job runs. -/
def State.dramUp (s : State) : Bool := s.running && s.start.memReady

/-- The memory interface of stack k issues nothing in this interval: it is granted nothing, or capped at zero (R312, R318). -/
def State.memCapped (s : State) (k : Nat) : Bool := s.power.metered.contains (domMem k)

/-- MEM_FENCE (R221): every entry of the 32 buffers is flushed; it waits for a memory interface with entries that issues nothing (R318). -/
def State.opMemFence (s : State) : State :=
  if !s.dramUp then s
  else if (List.range 32).any (fun k => !(s.wcOf k).isEmpty && s.memCapped k) then { s with stallReq := true }
  else s.fence.drainMigrations

/-- The age limit of an entry has come (R220): it is flushed, or waits for its memory interface. -/
def State.opWcTimer (s : State) (k pos line : Nat) : State :=
  if !s.dramUp then s else
  match (s.wcOf k).find? (fun e => e.pos == pos && e.line == line) with
  | none => s
  | some e =>
    if s.memCapped k then { s with stallReq := true }
    else ((s.setWc k ((s.wcOf k).filter (fun x => !(x.pos == pos && x.line == line)))).flushEntry k e).drainMigrations

/-! Stalls. -/

/-- The effects of a command that had to stall: the wakes and flags of its wait (R299, R352, R393). -/
def State.stallEffects (s tried : State) : State :=
  let new := tried.power.waking.filter (fun w => !s.power.waking.contains w)
  let s1 := s.forEach new (fun s x => s.wake x.1 x.2)
  (s1.flagIf (tried.on F.MGT_HDM_BIAS_STALL) F.MGT_HDM_BIAS_STALL).flagIf (tried.on F.ENG_CAST_STAT_STAGE_WAIT) F.ENG_CAST_STAT_STAGE_WAIT

/-- A command waits behind those stalled before it. -/
def State.wait (s : State) (w : Waiting) : State := { s with stalled := s.stalled ++ [w] }

/-- The access of the host ends, or stands behind those stalled before it (R299, R352). -/
def State.orStall (s tried : State) (w : Waiting) : State := if tried.stallReq then (s.stallEffects tried).wait w else tried

/-- A stage of a Courier's work that an access holds back is left for later (R299, R352); the Courier's own accesses break no rule of R285. -/
def State.courier {α : Type} (x : State × α) (f : State → α → State × α) : State × α :=
  let r := f x.1 x.2
  if r.1.stallReq && !x.1.stallReq then (x.1.stallEffects r.1, x.2)
  else ({ r.1 with mem := { r.1.mem with spoiled := x.1.mem.spoiled } }, r.2)

end Sys2Proof.Machine
end

