-- ==== Sys2Proof/Machine/PerfOps.lean ====
section
/-! DEFINITION. Performance counters: which counters an event reaches and what it adds (R415 to R418), and dumps (R420 to R422). -/

namespace Sys2Proof.Machine

/-- Counters of block b (R413). -/
def perfCount (b : Nat) : Nat := if b < 64 then 8 else 4

/-- KIND of block b (PERF_Bb_CFG.KIND). -/
def perfKind (b : Nat) : Nat :=
  if b < 64 then 0 else if b < 80 then 1 else if b < 88 then 2 else if b < 96 then 3 else if b < 100 then 4 else if b = 100 then 5 else 6

/-- Event codes supported by a block of a kind (R417). -/
def perfSupported (kind code : Nat) : Bool :=
  decide (code ≤ 0x07) || code == 0x40
    || (kind == 0 && (decide (0x10 ≤ code ∧ code ≤ 0x1B) || code == 0x41 || code == 0x42 || code == 0x43 || code == 0x45))
    || (kind == 1 && (decide (0x20 ≤ code ∧ code ≤ 0x23) || code == 0x44))
    || (kind == 2 && decide (0x28 ≤ code ∧ code ≤ 0x2A))
    || (kind == 3 && decide (0x2C ≤ code ∧ code ≤ 0x2D))
    || (kind == 4 && decide (0x30 ≤ code ∧ code ≤ 0x31))
    || (kind == 5 && decide (0x34 ≤ code ∧ code ≤ 0x35))
    || (kind == 6 && (decide (0x38 ≤ code ∧ code ≤ 0x3C) || code == 0x44))

/-- The power domain of block b (R413, R297). -/
def perfDom (b : Nat) : Nat := if b ≤ 100 then b else domPort (b - 101)

/-- Block b is fenced: its counters hold (R415). -/
def State.perfFenced (s : State) (b : Nat) : Bool :=
  if b < 64 then s.tileFenced b else if b < 100 then s.engFenced b else false

/-- The counters of block b run: not frozen (R416). -/
def State.perfRuns (s : State) (b : Nat) : Bool :=
  !s.on (F.PERF_B_CFG_FREEZE b) && !s.on F.PERF_CTL_FREEZE_ALL && !s.perfFenced b

/-- Counter i of block b gains `n` (R415): it wraps modulo 2⁴⁸ and sets its OVF bit. -/
def State.perfAdd (s : State) (b i n : Nat) : State :=
  if n = 0 then s else
  let c := s.get (F.PERF_B_CNT_COUNT b i) + n
  let s1 := s.set (F.PERF_B_CNT_COUNT b i) (c % 2 ^ 48)
  if c < 2 ^ 48 then s1 else
  let o := s1.get (F.PERF_B_STAT_OVF b)
  let s2 := s1.set (F.PERF_B_STAT_OVF b) (o ||| 2 ^ i)
  { s2 with perf := { s2.perf with ovf := Sparse.put s2.perf.ovf b (Sparse.getD s2.perf.ovf b 0 ||| 2 ^ i) 0 } }

/-- A cycle in which the event selected by counter i of block b has value v, followed by `idle` cycles of value 0 for a count event:
what MODE adds (R418). -/
def State.perfSample (s : State) (b i v : Nat) : State :=
  let th := s.get (F.PERF_B_SEL_THRESH b i)
  let mode := s.get (F.PERF_B_SEL_MODE b i)
  let prev := Sparse.getD s.perf.prev (8 * b + i) 0
  let add := if mode == 0 then v else if mode == 1 then b2n (decide (th < v))
    else if mode == 2 then b2n (decide (th < v ∧ prev ≤ th)) else b2n (decide (v ≤ th))
  let s1 := { s with perf := { s.perf with prev := Sparse.put s.perf.prev (8 * b + i) v 0 } }
  s1.perfAdd b i add

/-- Counter i of block b counts event `code` in the current phase (R416, R417). -/
def State.perfListens (s : State) (b i code : Nat) : Bool :=
  s.get (F.PERF_B_SEL_EVENT b i) == code && bit (s.get (F.PERF_B_SEL_PHASE_MASK b i)) (s.get F.MGT_PERIOD_STAT_PHASE)
    && perfSupported (perfKind b) code

/-- `n` occurrences of a count event in block b, taken as of one cycle. -/
def State.perfEvent (s : State) (b code n : Nat) : State :=
  if n = 0 || !s.perfRuns b then s else
  s.forEach (List.range (perfCount b)) (fun s i => if s.perfListens b i code then s.perfSample b i n else s)

/-- The same for Ladle l, whose UMASK the counter must select (R417). -/
def State.perfLadle (s : State) (b l code n : Nat) : State :=
  if n = 0 || !s.perfRuns b then s else
  s.forEach (List.range (perfCount b)) (fun s i =>
    let m := s.get (F.PERF_B_SEL_UMASK b i)
    if s.perfListens b i code && (m == 0 || bit m l) then s.perfSample b i n else s)

/-- CYC of a CORE block or of a Courier (R414). -/
def State.perfCyc (s : State) (b : Nat) : Nat := (if b ≤ 100 then s.time.coreCyc else s.time.fabCyc) / 100000

/-- The array of tile b waits for an operand of a Ladle. -/
def arrayWaits (b : Nat) (w : Waiting) : Bool :=
  w.posted && (match w.cmd with | .matmul n _ _ _ => n.val == b | _ => false)

/-- The Larder that the step's stashes use on tile b, in units of 64 KiB. -/
def State.larderUsed (s : State) (b : Nat) : Nat :=
  ((((s.mem.stash.filter (fun e => !e.2.2.1 && e.2.1 == b)).map (fun e => e.2.2.2.2)).foldl (· + ·) 0) + 65535) / 65536

/-- The value of a level event in the current cycle (R417). -/
def State.perfLevel (s : State) (b code : Nat) : Nat :=
  let d := perfDom b
  if code == 0x01 then b2n (s.dom d == 3)
  else if code == 0x02 then b2n (s.dom d == 2)
  else if code == 0x05 then b2n (s.power.metered.contains d)
  else if code == 0x41 then s.get (F.TILE_MX_CRU_LIVE_SLOTS b)
  else if code == 0x42 then s.get (F.TILE_DWQ_STAT_DEPTH b)
  else if code == 0x10 then b2n (s.stalled.any (arrayWaits b))
  else if code == 0x19 then b2n (s.stalled.any (fun w => w.onScalar && (match seqOf w.cmd with | some n => n.val == b | none => false)))
  else if code == 0x43 then s.larderUsed b
  else if code == 0x40 then
    if b < 64 then s.get (F.TILE_MX_STAT_QUEUE_DEPTH b) else if b < 80 then s.get (F.ENG_WAY_STAT_QUEUE_DEPTH (b - 64))
    else if b < 88 then s.get (F.ENG_TAL_STAT_QUEUE_DEPTH (b - 80)) else if b < 96 then s.get (F.ENG_KIL_STAT_QUEUE_DEPTH (b - 88))
    else if 101 ≤ b then ((s.coll.queue.map (fun c => (c.staged.filter (fun x => x.port == b - 101)).length)).foldl (· + ·) 0) else 0
  else if code == 0x45 then s.get (F.TILE_VE_STATUS_QUEUE_DEPTH b)
  else if code == 0x3C then if h : b - 101 < 18 then
      let x := s.coll.ports[b - 101]
      b2n (x.credits == 0 && (match x.waiting with | (h, _) :: _ => h.kind.toNat % 16 == 1 || h.kind.toNat % 16 == 2 | [] => false)) else 0
  else if code == 0x44 then if h : b - 101 < 18 then s.coll.ports[b - 101].unacked.length else 0
  else 0

/-- Level events of `n` cycles in which nothing changes: ADD and the conditions count every cycle, RISE at most the first. -/
def State.perfLevels (s : State) (core fab : Nat) : State :=
  s.forEach (List.range 119) (fun s b =>
    let n := if b ≤ 100 then core else fab
    if n = 0 || !s.perfRuns b then s else
    s.forEach (List.range (perfCount b)) (fun s i =>
      let code := s.get (F.PERF_B_SEL_EVENT b i)
      if !s.perfListens b i code then s else
      let v := s.perfLevel b code
      let th := s.get (F.PERF_B_SEL_THRESH b i)
      let mode := s.get (F.PERF_B_SEL_MODE b i)
      let prev := Sparse.getD s.perf.prev (8 * b + i) 0
      let add := if mode == 0 then v * n else if mode == 1 then n * b2n (decide (th < v))
        else if mode == 2 then b2n (decide (th < v ∧ prev ≤ th)) else n * b2n (decide (v ≤ th))
      ({ s with perf := { s.perf with prev := Sparse.put s.perf.prev (8 * b + i) v 0 } }).perfAdd b i add))

/-- `n` cycles of 25 MHz pass: always-on time moves and the level events count the cycles of CORE and FAB in it. -/
def State.passTime (s : State) (n : Nat) : State :=
  let s1 := s.advanceOsc n
  s1.perfLevels (s1.perfCyc 0 - s.perfCyc 0) (s1.perfCyc 101 - s.perfCyc 101)

/-- Bring always-on time to tick `t`, where it is not already past it. -/
def State.toTick (s : State) (t : Nat) : State :=
  if s.time.running && s.time.osc < t * 8 then s.passTime (t * 8 - s.time.osc) else s

/-- What an empty queue does: one always-on tick passes once the clock runs (DESIGN CHOICE, log entry 2). -/
def State.idle (s : State) : State := if s.time.running then s.passTime 8 else s

/-- Dumps are taken (R420, R422). -/
def State.dumpsOn (s : State) : Bool :=
  let m := s.get F.PERF_RING_BASE_LOG2_REC
  s.on F.PERF_CTL_RING_EN && decide (6 ≤ m ∧ m ≤ 24)

/-- The 128 B record of a dump (R421); `lost` says that a dump since the block's previous record was dropped. -/
def State.dumpRecord (s : State) (b seq cyc : Nat) (all_ lost : Bool) : List Byte :=
  let frozen := s.on (F.PERF_B_CFG_FREEZE b) || s.on F.PERF_CTL_FREEZE_ALL
  let flags := b2n lost + 2 * b2n frozen + 4 * b2n all_ + 8 * s.get F.MGT_PERIOD_STAT_PHASE
  leBytes 8 s.aon ++ leBytes 8 cyc ++ leBytes 8 (s.get F.SEAL_STEP_STEP_COUNTER) ++ leBytes 4 (s.get F.MGT_PERIOD_STAT_PERIOD_NUM)
    ++ leBytes 4 seq ++ leBytes 2 b ++ leBytes 1 (perfKind b) ++ leBytes 1 flags ++ leBytes 1 (Sparse.getD s.perf.ovf b 0) ++ leBytes 27 0
    ++ (List.range 8).flatMap (fun i => leBytes 8 (if i < perfCount b then s.get (F.PERF_B_CNT_COUNT b i) else 0))

/-- Block b takes a dump (R420): sampled and queued, or dropped where the queue is full (R422). -/
def State.dump (s : State) (b cyc : Nat) (all_ : Bool) : State :=
  if !s.dumpsOn || s.perfFenced b then s else
  let seq := (s.get (F.PERF_B_STAT_DUMPS b) + 1) % 2 ^ 32
  let s1 := s.set (F.PERF_B_STAT_DUMPS b) seq
  if 256 ≤ s1.perf.queue.length then
    let s2 := s1.bump F.PERF_RING_STAT_DROP_FULL 1
    { s2 with perf := { s2.perf with lost := NatSet.add s2.perf.lost b } }
  else
    let q := s1.perf.queue ++ [s1.dumpRecord b seq cyc all_ (s1.perf.lost.contains b)]
    ({ s1 with perf := { s1.perf with
        queue := q, ovf := Sparse.erase s1.perf.ovf b, lost := NatSet.del s1.perf.lost b } }).set F.PERF_RING_STAT_QUEUE_DEPTH q.length

end Sys2Proof.Machine
end

