-- ==== Sys2Proof/Machine/Flags.lean ====
section
/-! DEFINITION. Completion records and what they carry: the numeric status (R72, R73), the sticky flags of a tile (R74, R242), the scalar
summary (R206), and the block event of a record written (R417). -/

namespace Sys2Proof.Machine

/-- Counters of one command (R72). -/
structure Cnt where
  sat : Nat
  flush : Nat
  nonfin : Nat
  deriving DecidableEq, Repr

def Cnt.zero : Cnt := ⟨0, 0, 0⟩

/-- An element counts at most once in each counter. -/
def Cnt.elem (c : Cnt) (e : Elem) : Cnt := ⟨c.sat + b2n e.sat, c.flush + b2n e.flush, c.nonfin + b2n e.nonfin⟩

def Cnt.plus (a b : Cnt) : Cnt := ⟨a.sat + b.sat, a.flush + b.flush, a.nonfin + b.nonfin⟩

/-- Counts over rows of elements. -/
def countRows (l : List (List Elem)) : Cnt := l.foldl (fun c r => r.foldl Cnt.elem c) Cnt.zero

/-- Status codes of R72. -/
def stOk : Nat := 0
def stScale : Nat := 1
def stLayout : Nat := 2

/-- The status among several conditions (R73). -/
def statusOf (layout scale : Bool) : Nat := if layout then stLayout else if scale then stScale else stOk

def sat32 (n : Nat) : Nat := Nat.min 0xFFFFFFFF n
def sat16 (n : Nat) : Nat := Nat.min 0xFFFF n

/-- Bytes 16 to 31 of a record (R72, R73). -/
def numStatus (c : Cnt) (status : Nat) : Nat :=
  if status != 0 then status * 2 ^ 104 else
  let ovf := decide (0xFFFFFFFF ≤ c.sat ∨ 0xFFFFFFFF ≤ c.flush ∨ 0xFFFFFFFF ≤ c.nonfin)
  sat32 c.sat + sat32 c.flush * 2 ^ 32 + sat32 c.nonfin * 2 ^ 64
    + (b2n (c.sat != 0) + 2 * b2n (c.flush != 0) + 4 * b2n (c.nonfin != 0) + 8 * b2n ovf) * 2 ^ 96

/-- A record from its lower and upper 16 bytes. -/
def recordBits (low num : Nat) : BitVec 256 := BitVec.ofNat 256 (low % 2 ^ 128 + num * 2 ^ 128)

/-- A completion record reaches the posting tile; that of a fenced tile is discarded (R208). Block `b` counts it (R417). -/
def State.complete (s : State) (n : TileIx) (b : Nat) (r : BitVec 256) : State :=
  (if s.tileFenced n.val then s else s.record n r).perfEvent b 4 1

/-- The any-non-finite flag (R74), and the tile's one NONFIN origin: its current layer at the first record that reports a non-finite
input or output (R242). -/
def State.sticky (s : State) (n : TileIx) (nonfinIn : Nat) (nonfinOut : Bool) : State :=
  if nonfinIn == 0 && !nonfinOut then s else
  s.modTile n (fun t => { t with
    nonfin := t.nonfin || nonfinIn != 0
    origin := match t.origin with | some l => some l | none => some t.layer })

/-- The tile sequencer's current layer: the LAYER_ID of the last command that carries one. -/
def State.setLayer (s : State) (n : TileIx) (l : Nat) : State := s.modTile n (fun t => { t with layer := l })

/-! The scalar summary (R206). -/

/-- Four scalar file entries from `slot` (R206). -/
def State.putSummary (s : State) (n : TileIx) (slot : Nat) (vals : List U32) : State :=
  if s.tileFenced n.val then s else
  s.modTile n (fun t => { t with
    sf := Vector.ofFn (fun (i : Fin 32) => if slot ≤ i.val ∧ i.val < slot + 4 then vals.getD (i.val - slot) 0 else t.sf[i]) })

/-- The largest finite magnitude, or +0. -/
def maxAbs (l : List U32) : U32 :=
  l.foldl (fun m x => if isFin32 x && ltFv (fv32 m) (absFv (fv32 x)) then code32 (absFv (fv32 x)) else m) 0#32

def countNonzero (zero : U32 → Bool) (l : List U32) : U32 := BitVec.ofNat 32 (l.filter (fun x => !zero x)).length

def zero32 (x : U32) : Bool := isZeroFv (fv32 x)

/-- FLAGS of a summary. -/
def summaryFlags (c : Cnt) (oor refused intSat empty : Bool) : U32 :=
  BitVec.ofNat 32 (b2n (c.nonfin != 0) + 2 * b2n (c.sat != 0) + 4 * b2n (c.flush != 0) + 8 * b2n oor + 16 * b2n refused
    + 32 * b2n intSat + 64 * b2n empty)

/-! Saturating INT32 arithmetic (R121, R138, R190, R203). -/

def int32 (x : U32) : Int := toSigned 32 x.toNat

/-- An exact integer as INT32, with whether it saturated. -/
def satInt (v : Int) : U32 × Bool :=
  if v < -2147483648 then (0x80000000#32, true)
  else if 2147483647 < v then (0x7FFFFFFF#32, true)
  else (BitVec.ofInt 32 v, false)

def addSat (a b : U32) : U32 × Bool := satInt (int32 a + int32 b)

end Sys2Proof.Machine
end

