-- ==== Sys2Proof/Machine/Wire.lean ====
section
/-! DEFINITION. Wire tensors: elements encoded with their residuals and decoded (R107, R165, R169, R276, R277), and the payload of a frame read
again from its source (R274). -/

namespace Sys2Proof.Machine

def tileIx (n : Nat) : TileIx := ⟨n % 64, Nat.mod_lt n (by decide)⟩

/-! Fields of the 64 B descriptor of a collective (R282). -/

def cOp (d : BitVec 512) : Nat := dfld d 0 63 56
def cGroup (d : BitVec 512) : Nat := dfld d 0 55 48
def cWire (d : BitVec 512) : Bool := dbit d 0 47
def cCombine (d : BitVec 512) : Nat := dfld d 0 46 44
def cTag (d : BitVec 512) : Nat := dfld d 0 31 0
def cSeq (d : BitVec 512) : Nat := dfld d 1 63 32
def cPeer (d : BitVec 512) : Nat := dfld d 1 15 0
def cSrc (d : BitVec 512) : Nat := dfld d 2 39 0
def cDst (d : BitVec 512) : Nat := dfld d 3 39 0
def cResid (d : BitVec 512) : Nat := dfld d 4 39 0
def cWireId (d : BitVec 512) : Nat := dfld d 5 63 40
def cLength (d : BitVec 512) : Nat := dfld d 5 31 0

/-- FP32 elements of a collective that sums or decodes. -/
def cElems (d : BitVec 512) : Nat := if cWire d then cLength d else cLength d / 4

/-! Elements. -/

/-- The wire scale entry of a tensor (R106, R277). -/
def State.wireEntry (s : State) (id : Nat) : Option WireEntry :=
  match s.wb with
  | some w => w.wire.find? (fun e => e.wireId.toNat == id)
  | none => none

/-- Block b of a wire tensor is frozen (R165). -/
def State.frozenBlock (s : State) (id b : Nat) : Bool :=
  match s.wb with
  | some w => w.data.freeze.any (fun m => m.wireId.toNat == id && m.blocks.contains b)
  | none => false

/-- A value rounded to the nearest integer, ties to even; an infinity beyond every residual code. -/
def rneInt (v : Fv) : Int :=
  match v with
  | .nan => 0
  | .inf neg => if neg then -1024 else 1024
  | .fin neg m e =>
    let n : Nat := if 0 ≤ e then m * 2 ^ e.toNat else
      let d := 2 ^ (-e).toNat
      let q := m / d
      let r := m % d
      if d < 2 * r then q + 1 else if 2 * r < d then q else q + q % 2
    if neg then -(n : Int) else n

/-- An element sent on a wire (R169): its code with its counts, the value receivers decode, the new residual code, whether it was clamped. -/
structure WireElem where
  elem : Elem
  value : U32
  resid : Nat
  clamped : Bool
  deriving DecidableEq, Repr

/-- Element g with residual code e under a wire entry (R107, R169); every operation is rounded to FP32. -/
def wireElem (w : WireEntry) (g : U32) (e : Nat) : WireElem :=
  let sw := ue5m3Value w.sW.toNat
  let st := fv32 w.sT
  let k := quantK sw st
  let r : Int := toSigned 8 e
  let x := add32 g (mul32 (mul32 (code32 (.fin (decide (r < 0)) r.natAbs (-6))) (code32 sw)) w.sT)
  let c := quantise w.fmt.toNat 0 0 false k (fv32 x)
  let y := dequant w.fmt.toNat c.code sw st
  let d := sub32 x y
  let q := rneInt (fv32 (mul32 (mul32 d 0x42800000#32) (code32 k)))
  if isFin32 g && isFin32 d then
    ⟨c, y, ofSigned 8 (if 127 < q then 127 else if q < -128 then -128 else q), decide (127 < q ∨ q < -128)⟩
  else ⟨c, y, 0, false⟩

/-- An element of a frozen block: a zero code, its residual untouched (R165). -/
def frozenElem : WireElem := ⟨exactElem 0, 0#32, 0, false⟩

/-- Blocks of chunk i of a wire tensor (R276). -/
def wireBlocks (d : BitVec 512) (i : Nat) : List Nat := (List.range (Nat.min 8192 (cLength d - 8192 * i) / 64)).map (fun b => 128 * i + b)

/-- Chunk i of a wire tensor encoded from its source and residuals; poison of either (R169, R276). -/
def State.wireChunk (s : State) (tile : Nat) (d : BitVec 512) (w : WireEntry) (i : Nat) : State × List (List WireElem) × Bool :=
  let n := tileIx tile
  (wireBlocks d i).foldl (fun (acc : State × List (List WireElem) × Bool) b =>
    if acc.1.frozenBlock (cWireId d) b then (acc.1, acc.2.1 ++ [List.replicate 64 frozenElem], acc.2.2) else
    let (s1, src, bad) := acc.1.engRead n (cSrc d + 256 * b) 256
    let (s2, res, bad2) := s1.engRead n (cResid d + 64 * b) 64
    (s2, acc.2.1 ++ [List.zipWith (fun g e => wireElem w g e.toNat) (words32 src) res], acc.2.2 || bad || bad2)) (s, [], false)

/-- The new residual codes of chunk i are written; clamped ones are counted (R169). -/
def State.writeResidual (s : State) (tile : Nat) (d : BitVec 512) (w : WireEntry) (i : Nat) : State :=
  let n := tileIx tile
  let (s1, blocks, bad) := s.wireChunk tile d w i
  s1.forEach ((wireBlocks d i).zip blocks) (fun s b =>
    if s.frozenBlock (cWireId d) b.1 then s else
    (s.unitStore n (cResid d + 64 * b.1) (b.2.map (fun (e : WireElem) => BitVec.ofNat 8 e.resid)) bad).bump
      (F.TILE_UPD_STAT_RESID_SAT n.val) (b.2.filter (fun (e : WireElem) => e.clamped)).length)

/-- Bytes in use of a wire chunk, and its payload of 4,096 bytes (R270, R276). -/
def wirePayload (blocks : List (List WireElem)) : Nat × List Byte :=
  let codes := (blocks.flatten.map (fun (e : WireElem) => e.elem.code)).zipIdx.map (fun e => (e.2, e.1))
  (codes.length / 2, leBytes 4096 (packElems 4 codes))

/-- FP32 words of a wire payload (R48, R276). The reserved FMT codes 13 to 15 in a header decode as FP32: the spec does not say what a receiver
makes of them (DESIGN CHOICE, log entry 83). -/
def decodeWire (f sW : Nat) (sT : U32) (payload : List Byte) (len : Nat) : List U32 :=
  let x := leNat (sliceBytes payload 0 len)
  let w := fmtBits f
  (List.range (Nat.min 8192 (8 * len / w))).map (fun i => dequant f (elemOf w x i) (ue5m3Value sW) (fv32 sT))

/-! Resends (R274). -/

/-- The payload of a frame read again from its source: a wire chunk is encoded again from the same source and residual codes. -/
def State.payload (s : State) (src : Source) : State × List Byte :=
  match src with
  | .held bytes => (s, bytes)
  | .memory tile a len =>
    let (s1, b, _) := s.engRead (tileIx tile) a len
    (s1, sliceBytes b 0 4096)
  | .wire tile d i => match s.wireEntry (cWireId d) with
    | none => (s, [])
    | some w =>
      let (s1, blocks, _) := s.wireChunk tile d w i
      (s1, (wirePayload blocks).2)

end Sys2Proof.Machine
end

