-- ==== Sys2Proof/Machine/LinkOps.lean ====
section
/-! DEFINITION. Frames of Nybrylink (R270, R271), the link-level sequence, acknowledgement and credits of a port (R269, R273, R285), routes
of the group table (R278), and retraining. -/

namespace Sys2Proof.Machine

/-! CRC-32C (R271). -/

/-- One bit of the reflected CRC-32C division. -/
def crcBit (c : Nat) : Nat := if c % 2 == 1 then (c / 2) ^^^ 0x82F63B78 else c / 2

/-- One byte. -/
def crcByte (c : Nat) (b : Byte) : Nat :=
  crcBit (crcBit (crcBit (crcBit (crcBit (crcBit (crcBit (crcBit (c ^^^ b.toNat))))))))

/-- CRC-32C of bytes. -/
def crc32c (l : List Byte) : Nat := l.foldl crcByte 0xFFFFFFFF ^^^ 0xFFFFFFFF

/-- Bytes 8 to 59 of a data frame (R270). -/
def chunkBytes (h : ChunkHeader) : List Byte :=
  leBytes 2 h.srcId.toNat ++ leBytes 2 h.dstId.toNat ++ [h.group, h.kind, h.cflags, h.fmt] ++ leBytes 4 h.period.toNat ++
  leBytes 4 h.collSeq.toNat ++ leBytes 4 h.chunkIdx.toNat ++ leBytes 2 h.len.toNat ++ leBytes 2 0 ++ leBytes 3 h.wireId.toNat ++
  [h.sW] ++ leBytes 4 h.sT.toNat ++ leBytes 20 0

/-- The CRC that a chunk should carry (R271). -/
def chunkCrc (h : ChunkHeader) (payload : List Byte) : Nat := crc32c (chunkBytes h ++ sliceBytes payload 0 h.len.toNat)

/-- A chunk header with its CRC. -/
def sealChunk (h : ChunkHeader) (payload : List Byte) : ChunkHeader := { h with crc := BitVec.ofNat 32 (chunkCrc h payload) }

/-! Ports. -/

def allPorts : List PortIx := List.finRange 18

def portIx (n : Nat) : Option PortIx := allPorts.find? (fun p => p.val == n)

def State.port (s : State) (p : PortIx) : PortSt := s.coll.ports[p]

def State.setPort (s : State) (p : PortIx) (x : PortSt) : State := { s with coll := { s.coll with ports := s.coll.ports.set p x } }

def State.portState (s : State) (p : Nat) : Nat := s.get (F.LINK_PORT_STAT_STATE p)

def State.portUp (s : State) (p : Nat) : Bool := s.portState p == 3

/-- A chunk whose kind waits in the receiver's staging, and so needs a credit (R285). -/
def needsCredit (h : ChunkHeader) : Bool := h.kind.toNat % 16 == 1 || h.kind.toNat % 16 == 2

/-- The link header of a frame that port p sends now (R270): what it expects next, and the staging chunks freed since its last frame. -/
def State.linkHdr (s : State) (p : PortIx) (seqNo : Nat) (ctl nak : Bool) : LinkHeader :=
  let x := s.port p
  ⟨BitVec.ofNat 16 seqNo, BitVec.ofNat 16 x.rxSeq, if ctl then 1 else 0, BitVec.ofNat 4 (s.get (F.LINK_PORT_STAT_GEN p.val)), nak,
    BitVec.ofNat 8 (Nat.min 255 x.freed)⟩

/-- A frame has reported freed chunks (R270). -/
def State.reported (s : State) (p : PortIx) : State := s.setPort p { s.port p with freed := (s.port p).freed - 255 }

/-- A control frame leaves on a port (R270, R272). -/
def State.sendControl (s : State) (p : PortIx) (ctype : Nat) (body : List Nat) : State :=
  (s.reported p).send (.control p.val (s.linkHdr p 0 true false) ctype body)

/-- An acknowledgement or a NAK leaves on a port (R273). -/
def State.sendAck (s : State) (p : PortIx) (nak : Bool) : State := (s.reported p).send (.ack p.val (s.linkHdr p 0 true nak))

/-- Put one frame on the wire of an UP port. -/
def State.emitFrame (s : State) (p : PortIx) (h : ChunkHeader) (payload : List Byte) (src : Source) : State :=
  let link := s.linkHdr p (s.port p).txSeq false false
  let s1 := s.reported p
  let x := s1.port p
  let x' := { x with txSeq := (x.txSeq + 1) % 65536, unacked := x.unacked ++ [⟨link, h, src⟩]
                     credits := if needsCredit h then x.credits - 1 else x.credits }
  ((s1.setPort p x').perfEvent (101 + p.val) 0x38 1).send (.data p.val ⟨link, h, payload, true, 0⟩)

/-- Send what waits while the window of 256 frames (R273) and the credits (R285) allow. -/
def pumpPort (p : PortIx) : Nat → State → State
  | 0, s => s
  | fuel + 1, s =>
    let x := s.port p
    match x.waiting with
    | [] => s
    | (h, d, src) :: rest =>
      if s.portUp p.val && !s.power.metered.contains (domPort p.val) && decide (x.unacked.length < 256) &&
          (!needsCredit h || decide (0 < x.credits)) then
        pumpPort p fuel ((s.setPort p { x with waiting := rest }).emitFrame p h d src)
      else s

/-- Send a chunk on a port, behind what already waits there. -/
def State.sendFrom (s : State) (p : PortIx) (h : ChunkHeader) (payload : List Byte) (src : Source) : State :=
  let x := s.port p
  let s1 := s.setPort p { x with waiting := x.waiting ++ [(sealChunk h payload, payload, src)] }
  pumpPort p (x.waiting.length + 1) s1

/-- Send a chunk whose bytes the module itself holds. -/
def State.sendChunk (s : State) (p : PortIx) (h : ChunkHeader) (payload : List Byte) : State := s.sendFrom p h payload (.held payload)

/-- Ports whose meters held chunks back go on (R312). -/
def State.pumpPorts (s : State) : State :=
  s.forEach (List.finRange 18) (fun s p => if (s.port p).waiting.isEmpty then s else pumpPort p 512 s)

/-- A retrain of an UP port begins (R269): counted, logged for the health monitor. -/
def State.retrain (s : State) (p : PortIx) : State :=
  let s1 := ((s.set (F.LINK_PORT_STAT_STATE p.val) 4).set (F.LINK_PORT_STAT_GEN p.val) 0).bump (F.LINK_PORT_STAT_RETRAINS p.val) 1
  { s1.setPort p { s1.port p with resends := 0 } with flt := { s1.flt with retrainLog := s1.aon :: s1.flt.retrainLog } }

/-- A kept frame is sent again: its payload read again from its source (R274), its link header with the port's present acknowledgement and
credits (R270). A source that cannot be read now is sent at a later resend. -/
def State.resendOne (s : State) (p : PortIx) (f : SentFrame) : State :=
  (State.courier (s, ()) (fun s _ =>
    let (s1, d) := s.payload f.source
    ((s1.reported p).send (.resend p.val ⟨s1.linkHdr p f.link.seqNo.toNat false false, f.chunk, d, true, 0⟩), ()))).1

/-- Resend every unacknowledged frame, in order (R273); the eighth resend of the oldest starts a retrain (R269). -/
def State.resendAll (s : State) (p : PortIx) : State :=
  let x := s.port p
  if x.unacked.isEmpty then s else
  let s1 := (s.setPort p { x with resends := x.resends + 1 }).bump (F.LINK_PORT_ERR_REPLAYS p.val) x.unacked.length |>.perfEvent (101 + p.val) 0x3A x.unacked.length
  let s2 := s1.forEach x.unacked (fun s f => s.resendOne p f)
  if 8 ≤ x.resends + 1 then s2.retrain p else s2

/-- The acknowledgement and the credits of a received link header (R270, R273). -/
def State.takeAck (s : State) (p : PortIx) (h : LinkHeader) : State :=
  let x := s.port p
  let n := match x.unacked with
    | [] => 0
    | f :: _ => (h.ackSeq.toNat + 65536 - f.link.seqNo.toNat) % 65536
  let k := if n ≤ x.unacked.length then n else 0
  let x' := { x with unacked := x.unacked.drop k, credits := x.credits + h.credits.toNat
                     resends := if 0 < k then 0 else x.resends }
  let s1 := s.setPort p x'
  let s2 := if h.nak then s1.resendAll p else s1
  pumpPort p 512 s2

/-- A data frame reaches a port (R269, R273): whether the chunk is accepted. Nothing of a frame in an uncorrectable codeword is used, its link
header included (R264). -/
def State.takeFrame (s0 : State) (p : PortIx) (f : DataFrame) : State × Bool :=
  if !s0.portUp p.val then (s0, false) else
  let s := s0.setPort p { s0.port p with corrected := (s0.port p).corrected + f.corrected }
  if !f.fecOk then (s.sendAck p true, false)
  else if f.link.gen.toNat != s.get (F.LINK_PORT_STAT_GEN p.val) then (s.bump (F.LINK_PORT_ERR_REPLAYS p.val) 1, false)
  else if f.link.ftype != 0 then (s, false)
  else
    let s1 := s.takeAck p f.link
    let x := s1.port p
    let d := (f.link.seqNo.toNat + 65536 - x.rxSeq) % 65536
    let good := f.chunk.crc.toNat == chunkCrc f.chunk f.payload && decide (32 ≤ f.chunk.len.toNat ∧ f.chunk.len.toNat ≤ 4096)
    if d == 0 then
      if good then
        let s2 := ((s1.setPort p { x with rxSeq := (x.rxSeq + 1) % 65536 }).perfEvent (101 + p.val) 0x39 1).perfEvent (101 + p.val) 0x3B
          (b2n (bit f.chunk.cflags.toNat 0))
        (s2.sendAck p false, true)
      else (s1.sendAck p true, false)
    else (s1.sendAck p (decide (d < 32768)), false)

/-- FEC_CORR shows the codewords corrected in the period that ends (R264). -/
def State.fecPeriod (s : State) : State :=
  s.forEach allPorts (fun s p => (s.set (F.LINK_PORT_ERR_FEC_CORR p.val) (Nat.min 0xFFFFFFFF (s.port p).corrected)).setPort p
    { s.port p with corrected := 0 })

/-! Groups and routes (R278, R281). -/

def State.groups (s : State) : List Group := match s.wb with | some w => w.data.groups | none => []

def State.group (s : State) (g : Nat) : Option Group := s.groups[g]?

/-- The port that a route code takes for a chunk number; none for SELF and for no route. -/
def routePort (code chunk : Nat) : Option Nat :=
  if code ≤ 16 then some code
  else if code == 17 then some (if chunk % 2 == 0 then 15 else 16)
  else if code == 18 then some 17
  else none

/-- The port goes nowhere: OFF or DOWN. A port that trains again keeps its frames until it is UP (R273). -/
def State.portGone (s : State) (p : Nat) : Bool := s.portState p == 5 || s.portState p == 0

/-- The port of a route code for a chunk number, unless it is DOWN. -/
def State.openPort (s : State) (code chunk : Nat) : Option PortIx :=
  match routePort code chunk with
  | some p => if s.portGone p then none else portIx p
  | none => none

/-- The port to a member: ROUTE's, or ALT_ROUTE's while ROUTE's port is DOWN (R278, R294). -/
def State.portTo (s : State) (m : Member) (chunk : Nat) : Option PortIx :=
  match s.openPort m.route chunk with
  | some p => some p
  | none => s.openPort m.altRoute chunk

/-- The port of a pod partial: where neither route is open, the other plane (R292). -/
def State.partialPort (s : State) (m : Member) (chunk : Nat) : Option PortIx :=
  match s.portTo m chunk with
  | some p => some p
  | none => if m.route == 17 || m.altRoute == 17 then s.openPort 17 (chunk + 1)
            else if m.route == 15 then s.openPort 16 0 else if m.route == 16 then s.openPort 15 0 else none

/-- The seal group (R239). -/
def State.sealGroup (s : State) : Option Group := s.group (s.get F.SEAL_CFG_SEAL_GROUP)

/-- Position of a member ID in a group. -/
def groupPos (g : Group) (id : Nat) : Option Nat :=
  let i := g.members.findIdx (fun m => m.id.toNat == id)
  if i < g.members.length then some i else none

/-- This module leads the group. -/
def groupLeads (g : Group) : Bool := g.leaderPos == g.selfPos

/-- A chunk header of this module. -/
def State.chunkHdr (s : State) (dst group kind cflags fmt period collSeq chunk len wireId sW sT : Nat) : ChunkHeader where
  srcId := BitVec.ofNat 16 (s.get F.LINK_IDENT_MEMBER_ID)
  dstId := BitVec.ofNat 16 dst
  group := BitVec.ofNat 8 group
  kind := BitVec.ofNat 8 kind
  cflags := BitVec.ofNat 8 cflags
  fmt := BitVec.ofNat 8 fmt
  period := BitVec.ofNat 32 period
  collSeq := BitVec.ofNat 32 collSeq
  chunkIdx := BitVec.ofNat 32 chunk
  len := BitVec.ofNat 16 len
  wireId := BitVec.ofNat 24 wireId
  sW := BitVec.ofNat 8 sW
  sT := BitVec.ofNat 32 sT
  crc := 0

/-- The header of a chunk that the Timetable itself sends: a vote, a decision, an assay digest or verdict (R241, R246, R380). Its COLL_SEQ
and its FMT are not stated: free values (log entry 40). -/
def State.ownHdr (s : State) (dst group kind : Nat) : ChunkHeader :=
  s.chunkHdr dst group kind 4 Config.byteFormat.toNat (s.get F.MGT_PERIOD_STAT_PERIOD_NUM) Config.timetableSeq.toNat 0 4096 0 0 0

/-- Send a control frame to every other member of a group over its route. -/
def State.controlTo (s : State) (g : Group) (ctype : Nat) (body : List Nat) : State :=
  s.forEach g.members (fun s m => match s.portTo m 0 with
    | some p => if s.portUp p.val then s.sendControl p ctype body else s
    | none => s)

end Sys2Proof.Machine
end

