-- ==== Sys2Proof/Machine/CastOps.lean ====
section
/-! DEFINITION. Casts: images (R389), starting one (R390 to R392), slots and their flags (R395 to R398, R400), and the step of a restore
that begins at a boundary (R403). -/

namespace Sys2Proof.Machine

/-! Ladder words (R253, SEAL_LADDER_DATA). -/

def State.ladderEntries (s : State) : List LadderEntry := match s.wb with | some w => w.data.ladder | none => []

/-- SEAL_LADDER_DATA of a layer: RUNG_MASK from the Waybill's verify on, the rest once the ladder stands (R12). -/
def State.ladderWord (s : State) (l : Nat) : Nat :=
  let mask := match s.ladderEntries[l]? with | some e => (e.rungMask.toNat ||| 0x81) * 2 ^ 24 | none => 0
  match s.ladder[l]? with
  | none => mask
  | some x =>
    x.clean * 2 ^ 48 + x.spill * 2 ^ 44 + x.sat * 2 ^ 40 + x.nonfin * 2 ^ 36 + mask + x.changes * 2 ^ 16 + b2n x.pending.isSome * 8 + x.rung

/-- The ladder record of a cast (R389): bits 63:36 and 2:0 of each layer's word. -/
def State.ladderRecord (s : State) : List U64 :=
  (List.range 4096).map (fun l => let w := s.ladderWord l; BitVec.ofNat 64 (w / 2 ^ 36 * 2 ^ 36 + w % 8))

/-! Images (R389). -/

/-- Bytes of an image without header padding: 4 KiB + 32 KiB + 8 (P + L), rounded up to 64 KiB, plus 64 KiB × P. -/
def imageSize (pages poison : Nat) : Nat := roundUp (4096 + 32768 + 8 * (pages + poison)) 0x10000 + 0x10000 * pages

/-- Bytes of one page from its bytes that are not zero. -/
def pageBytes (d : List (Nat × Byte)) : List Byte := (List.range 0x10000).map (fun i => Sparse.getD d i 0)

/-- Bytes of an image after the header. -/
def imageBody (g : CastImage) : List Byte :=
  let lists := g.ladder.flatMap (fun w => leBytes 8 w.toNat)
    ++ g.pages.flatMap (fun p => leBytes 8 (p.1 / 0x10000)) ++ g.poison.flatMap (fun a => leBytes 8 a)
  let pad := roundUp (4096 + lists.length) 0x10000 - (4096 + lists.length)
  lists ++ List.replicate pad 0 ++ g.pages.flatMap (fun p => pageBytes p.2)

/-- The 4 KiB header. -/
def imageHeader (g : CastImage) : List Byte :=
  sliceBytes (leBytes 8 g.magic.toNat ++ leBytes 2 g.jobTag.toNat ++ leBytes 2 g.memberId.toNat ++ leBytes 4 g.gen.toNat ++
    leBytes 8 g.step.toNat ++ leBytes 4 g.period.toNat ++ [g.epoch, BitVec.ofNat 8 (b2n g.damaged)] ++ leBytes 2 0 ++
    leBytes 4 g.pages.length ++ leBytes 4 g.poison.length ++ leBytes 64 g.persistDigest.toNat ++ leBytes 64 g.root.toNat) 0 4096

def imageBytes (g : CastImage) : List Byte := imageHeader g ++ imageBody g

/-- ROOT of an image (R389). -/
def imageRoot (g : CastImage) : Digest := treeHash (imageBody g)

/-- ASCII "OVCAST01". -/
def castMagic : U64 := BitVec.ofNat 64 (leNat [0x4F#8, 0x56#8, 0x43#8, 0x41#8, 0x53#8, 0x54#8, 0x30#8, 0x31#8])

/-! Slots. -/

/-- Slot 0 to 9 of ENG_CAST_SLOT: NAND, then guest. -/
def State.castSlot (s : State) (i : Nat) : Option CastSlot :=
  if h : i < 8 then some s.flash.nand[i] else if h : i - 8 < 2 then some s.cast.guest[i - 8] else none

def State.setCastSlot (s : State) (i : Nat) (c : CastSlot) : State :=
  if h : i < 8 then { s with flash := { s.flash with nand := s.flash.nand.set i c } }
  else if h : i - 8 < 2 then { s with cast := { s.cast with guest := s.cast.guest.set (i - 8) c } }
  else s

/-- The newer of two casts (R400): serially greater GEN; at a difference of 2³¹ the larger STEP. -/
def castNewer (a b : CastImage) : Bool :=
  if (a.gen.toNat + 2 ^ 32 - b.gen.toNat) % 2 ^ 32 == 2 ^ 31 then decide (b.step.toNat < a.step.toNat)
  else serialEarlier 32 b.gen.toNat a.gen.toNat

/-- Index of the newest slot that a test admits. -/
def newestSlot (l : List (Nat × CastSlot)) (ok : CastSlot → Bool) : Option Nat :=
  (l.foldl (fun (best : Option (Nat × CastImage)) e =>
    match e.2.img with
    | none => best
    | some g =>
      if !ok e.2 then best else
      match best with
      | none => some (e.1, g)
      | some b => if castNewer g b.2 then some (e.1, g) else best) none).map (fun b => b.1)

def State.nandList (s : State) : List (Nat × CastSlot) := (List.finRange 8).map (fun i => (i.val, s.flash.nand[i]))

/-- A slot that can serve as a restore source (R394, R401, R402). -/
def CastSlot.usable (c : CastSlot) : Bool :=
  c.complete && !c.superseded && !c.writing && (match c.img with | some g => !g.damaged | none => false)

/-- Own casts that 16 consecutive agreeing sweeps now cover are assay-verified (R382). -/
def State.verifyCasts (s : State) : State :=
  match s.cast.agree[15]? with
  | none => s
  | some k =>
    { s with flash := { s.flash with nand := s.flash.nand.map (fun c => match c.img with
        | some g => if g.step.toNat ≤ k then { c with verified := true } else c
        | none => c) } }

/-- A NAND slot's cast is secured (R398): in NAND, by the host's mark, or by the partner tier while port P is UP, in use and of another feed; a
damaged cast never is. A slot being written holds the cast in progress. -/
def State.slotSecured (s : State) (i : Nat) (c : CastSlot) : Bool :=
  match c.img with
  | none => false
  | some g =>
    let damaged := g.damaged || (match s.cast.run with | some r => c.writing && r.nandSlot == i && r.hdr.damaged | none => false)
    let held := s.cast.partnerHeld.any (fun e => e.1 == g.gen.toNat && e.2.1 == g.step.toNat)
    !damaged && (c.secured
      || (s.portUp 17 && s.on F.LINK_PAIR_STATUS_PARTNER_TIER && !s.on F.LINK_PAIR_STATUS_SHARED_FEED && held))

/-- The NAND slot a new cast takes (R396). -/
def State.nandVictim (s : State) : Nat :=
  match s.nandList.find? (fun e => e.2.img.isNone) with
  | some e => e.1
  | none =>
    let keepS := newestSlot (s.nandList.filter (fun e => s.slotSecured e.1 e.2)) (fun _ => true)
    let keepV := newestSlot s.nandList (fun c => c.verified)
    let cand := s.nandList.filter (fun e => some e.1 != keepS && some e.1 != keepV && !e.2.exporting)
    let pick := cand.foldl (fun (best : Option (Nat × CastImage)) e =>
      match e.2.img, best with
      | some g, none => some (e.1, g)
      | some g, some b => if castNewer b.2 g then some (e.1, g) else best
      | none, b => b) none
    match pick with
    | some b => b.1
    | none => 0

/-- The newest GEN known (R400); 0 for none. -/
def State.newestGen (s : State) : Nat :=
  s.nandList.foldl (fun g e => match e.2.img with
    | some i => if g == 0 || serialEarlier 32 g i.gen.toNat then i.gen.toNat else g
    | none => g) s.cast.knownGen

/-- The next GEN: one more than the newest known, never 0 (R400). -/
def State.nextGen (s : State) : Nat :=
  let n := (s.newestGen + 1) % 2 ^ 32
  if n == 0 then 1 else n

/-- Guest slots that the partner holds, from GUEST_SIZE and the image size (R395). -/
def guestSlots (guestSize image : Nat) : Nat :=
  if 2 * image ≤ guestSize then 2 else if image ≤ guestSize then 1 else 0

/-- This module's own image size. -/
def State.ownImageSize (s : State) : Nat := imageSize s.persistentPages.length 0

/-- SECURED of a NAND slot is set (R398). -/
def State.markSecured (s : State) (i : Nat) : State :=
  match s.castSlot i with
  | some c =>
    let damaged := match c.img with | some g => g.damaged | none => true
    if damaged || 8 ≤ i then s else s.setCastSlot i { c with secured := true }
  | none => s

/-- Abandon the cast being written in every tier it has not completed (R391): the slots hold no header. -/
def State.abandonCast (s : State) : State :=
  match s.cast.run with
  | none => s
  | some r =>
    let stop := fun (t : TierSt) => match t with | .copying _ => TierSt.abandoned | x => x
    let s1 := match r.nand with
      | .copying _ => s.setCastSlot r.nandSlot CastSlot.init
      | _ => s
    let s2 := { s1 with cast := { s1.cast with run := some { r with partner := stop r.partner, nand := stop r.nand } } }
    (s2.flag F.ENG_CAST_STAT_ABANDONED).castSettle

/-- The module takes casts (R405, R410). -/
def State.takesCasts (s : State) : Bool := !s.on F.ENG_CAST_CFG_SPARE && !s.cast.evalOnly

/-- A cast starts at the commit just applied (R390, R392): every persistent page becomes protected. -/
def State.castBegin (s : State) (group : Bool) : State :=
  let gen := s.nextGen
  let digest := match s.wb with | some w => w.hdr.persistDigest | none => 0
  let pages := s.persistentPages.map (fun p => (p, s.committedFrame p))
  let hdr : CastImage := {
    magic := castMagic
    jobTag := BitVec.ofNat 16 (s.get F.LINK_IDENT_JOB_TAG)
    memberId := BitVec.ofNat 16 (s.get F.LINK_IDENT_MEMBER_ID)
    gen := BitVec.ofNat 32 gen
    step := BitVec.ofNat 64 (s.get F.SEAL_STEP_STEP_COUNTER)
    period := BitVec.ofNat 32 (s.get F.MGT_PERIOD_STAT_PERIOD_NUM)
    epoch := BitVec.ofNat 8 (s.get F.SEAL_STAT_LADDER_EPOCH)
    damaged := false, persistDigest := digest, root := 0, ladder := s.ladderRecord, pages := [], poison := [] }
  let v := s.nandVictim
  let partner := s.on F.LINK_PAIR_STATUS_PARTNER_TIER && s.get F.LINK_PAIR_STATUS_GUEST_SLOTS != 0
  let run : CastRun := {
    group := group, hdr := hdr, pages := pages, protect := pages.map (fun p => p.1), staged := []
    partner := if partner then .copying 0 else .unused, nand := .copying 0
    partnerSlot := 0, nandSlot := v, data := [], poison := [] }
  let s1 := s.setCastSlot v { CastSlot.init with img := some hdr, writing := true }
  let held := if partner && s.get F.LINK_PAIR_STATUS_GUEST_SLOTS == 1 then [] else s1.cast.partnerHeld
  let s2 := { s1 with cast := { s1.cast with run := some run, partnerHeld := held, knownGen := gen } }
  let s3 := (s2.set F.ENG_CAST_STAT_LAST_GEN gen).flag F.ENG_CAST_STAT_ACTIVE
  (s3.set F.ENG_CAST_STAT_N_DONE 0).set F.ENG_CAST_STAT_P_DONE 0

/-- The cast triggers at a commit of step `st` (R390, R391). -/
def State.castAtCommit (s : State) (st : Nat) : State :=
  let every := s.get F.ENG_CAST_CFG_CAST_EVERY
  let armed := s.on F.ENG_CAST_CTL_AT_VALID
  let named := armed && s.get F.ENG_CAST_CTL_AT_STEP == st
  let s1 := if armed && decide (s.get F.ENG_CAST_CTL_AT_STEP ≤ st) then s.set F.ENG_CAST_CTL_AT_VALID 0 else s
  if !s1.takesCasts then s1
  else if (every != 0 && st % every == 0) || named then (s1.abandonCast).castBegin true
  else if s1.cast.ownPending && s1.cast.run.isNone then
    (({ s1 with cast := { s1.cast with ownPending := false } }).set F.ENG_CAST_STAT_PENDING 0).castBegin false
  else s1

/-- An own trigger is held until the next commit (R390, R391). -/
def State.castTrigger (s : State) : State :=
  if s.takesCasts then ({ s with cast := { s.cast with ownPending := true } }).set F.ENG_CAST_STAT_PENDING 1 else s

/-! Restore (R402, R403). -/

/-- A restore is awaiting its boundary, fetching, or has failed: no training step starts. -/
def State.restoring (s : State) : Bool :=
  let st := s.get F.ENG_RESTORE_STAT_STATE
  st == 1 || st == 2 || st == 7

/-- A restore is under way: no output buffer is published, and no step starts. -/
def State.restoreBusy (s : State) : Bool := s.get F.ENG_RESTORE_STAT_STATE == 2

def State.restoreFail (s : State) (reason : Nat) : State :=
  (s.set F.ENG_RESTORE_STAT_STATE 7).set F.ENG_RESTORE_STAT_REASON reason

/-- The armed restore begins: casts are abandoned, shadows dropped, the fetch starts (R403). -/
def State.restoreBegin (s : State) : State :=
  if s.get F.ENG_RESTORE_STAT_STATE != 1 then s else
  let s1 := s.abandonCast.dropShadows
  let s2 := ((s1.set F.ENG_RESTORE_STAT_STATE 2).set F.ENG_RESTORE_STAT_REASON 0).set F.ENG_RESTORE_STAT_PAGES_DONE 0
  let r := s2.get F.ENG_RESTORE_CTL_STEP
  let src := s2.get F.ENG_RESTORE_CTL_SRC
  let at_ := fun (c : CastSlot) => match c.img with | some g => g.step.toNat == r && c.complete | none => false
  let s3 := { s2 with cast := { s2.cast with fetchStep := r } }
  if src == 0 then
    match newestSlot s3.nandList (fun c => at_ c && c.usable) with
    | some _ => s3
    | none => if s3.nandList.any (fun e => at_ e.2) then s3.restoreFail 2 else s3.restoreFail 1
  else if src == 1 then
    if s3.portUp 17 then s3.send (.toPartner "fetch" r []) else s3.restoreFail 5
  else
    ((s3.set F.ENG_CAST_HOST_OP 2).set F.ENG_CAST_HOST_OFFSET 0).set F.ENG_CAST_HOST_WIN_HOST 1

end Sys2Proof.Machine
end

