-- ==== Sys2Proof/Machine/CollOps.lean ====
section
/-! DEFINITION. Collectives: descriptor fields (R282), sets and sub-leaders (R281), who sends to whom (R283, R287, R289), completion records
(R286) and abandonment (R294). -/

namespace Sys2Proof.Machine

/-- Data chunks of a collective: 8,192 wire elements or 4,096 bytes each (R276). -/
def cChunks (d : BitVec 512) : Nat := if cWire d then (cLength d + 8191) / 8192 else (cLength d + 4095) / 4096

/-- Chunks of FP32 partials: 1,024 elements each (R289). -/
def cPartialChunks (d : BitVec 512) : Nat := (cElems d + 1023) / 1024

/-! Sets (R281). -/

/-- HALL and POD of a member ID. -/
def podOf (id : BitVec 16) : Nat := bits id.toNat 10 4

def memberAt (g : Group) (i : Nat) : Option Member := g.members[i]?

def podAt (g : Group) (i : Nat) : Nat := match memberAt g i with | some m => podOf m.id | none => 4096

/-- Positions of a group whose pod is p. -/
def podPositions (g : Group) (p : Nat) : List Nat := (List.range g.members.length).filter (fun i => podAt g i == p)

/-- The pods of the remote sets, ascending. -/
def remotePods (g : Group) : List Nat :=
  ((List.range g.members.length).map (podAt g)).filter (fun p => p != podAt g g.leaderPos) |>.foldl NatSet.add []

/-- The sub-leader of a pod: its lowest position. -/
def subLeader (g : Group) (p : Nat) : Nat := (podPositions g p).headD 0

/-- The local set but the leader. -/
def localOthers (g : Group) : List Nat := (podPositions g (podAt g g.leaderPos)).filter (fun i => i != g.leaderPos)

/-- A position's set but its sub-leader, for a remote pod. -/
def podOthers (g : Group) (p : Nat) : List Nat := (podPositions g p).filter (fun i => i != subLeader g p)

/-- This module's part in a group. -/
inductive Part where
  | leader | localMember | subLeader | remoteMember
  deriving DecidableEq, Repr

def partOf (g : Group) : Part :=
  let i := g.selfPos
  if i == g.leaderPos then .leader
  else if podAt g i == podAt g g.leaderPos then .localMember
  else if subLeader g (podAt g i) == i then .subLeader
  else .remoteMember

/-- Positions this module sends data to (R285, R287, R289). -/
def sendTargets (g : Group) (d : BitVec 512) : List Nat :=
  let pod := podAt g g.selfPos
  if cOp d == 0x60 then
    match partOf g with
    | .leader => localOthers g ++ (remotePods g).map (subLeader g)
    | .subLeader => podOthers g pod
    | _ => []
  else if cOp d == 0x61 then
    match partOf g with
    | .leader => []
    | .remoteMember => [subLeader g pod]
    | _ => [g.leaderPos]
  else if cOp d == 0x62 then [cPeer d]
  else []

/-- Positions that send to this module, and so are told READY (R284). -/
def recvSources (g : Group) (d : BitVec 512) : List Nat :=
  let pod := podAt g g.selfPos
  if cOp d == 0x60 then
    match partOf g with
    | .leader => []
    | .remoteMember => [subLeader g pod]
    | _ => [g.leaderPos]
  else if cOp d == 0x61 then
    match partOf g with
    | .leader => localOthers g ++ (remotePods g).map (subLeader g)
    | .subLeader => podOthers g pod
    | _ => []
  else if cOp d == 0x63 then [cPeer d]
  else []

/-- Positions whose data this module awaits: those that send to it; for a leader of votes every member, since each vote comes whole
(R289). -/
def dataSources (g : Group) (d : BitVec 512) : List Nat :=
  if cOp d == 0x61 && cCombine d == 1 && partOf g == .leader then
    (List.range g.members.length).filter (fun i => i != g.leaderPos)
  else recvSources g d

/-- The name of a posted collective (R284). -/
def collKeyOf (c : Coll) : CollKey := ⟨BitVec.ofNat 8 (cGroup c.d), BitVec.ofNat 32 c.period, BitVec.ofNat 32 (cSeq c.d)⟩

/-- Chunks expected from, or sent to, a position: partials where a sub-leader feeds the leader of a sum. -/
def chunksOn (g : Group) (d : BitVec 512) (i : Nat) : Nat :=
  if cOp d == 0x61 && cCombine d == 0 &&
      ((partOf g == .leader && podAt g i != podAt g g.leaderPos) || (partOf g == .subLeader && i == g.leaderPos))
  then cPartialChunks d
  else if cOp d == 0x61 && cCombine d == 1 && partOf g == .subLeader && i == g.leaderPos then 1 + (podOthers g (podAt g g.selfPos)).length
  else cChunks d

/-- The chunks of a position that have arrived; a slot result stands for every remote set (R291). -/
def arrivedFrom (g : Group) (c : Coll) (i : Nat) : Nat :=
  let own := c.got.filter (fun e => e.1 == i)
  let slots := c.got.filter (fun e => e.1 == 1024 && podAt g i != podAt g g.leaderPos && !own.any (fun o => o.2 == e.2))
  own.length + slots.length

/-- Members whose data or acknowledgement has not arrived (R286). -/
def collMissing (g : Group) (c : Coll) : Nat :=
  let noData := (dataSources g c.d).filter (fun i => decide (arrivedFrom g c i < chunksOn g c.d i))
  let noAck := (sendTargets g c.d).filter (fun i => decide ((c.acked.filter (fun e => e.1 == i)).length < chunksOn g c.d i))
  noData.length + noAck.length

/-! Completion records (R286). -/

/-- A record of 32 bytes; `num` is bytes 16 to 31 (R72). -/
def collRecordBits (c : Coll) (cstatus missing num : Nat) : BitVec 256 :=
  BitVec.ofNat 256 (cTag c.d + c.chunks % 2 ^ 32 * 2 ^ 32 + Nat.min 0xFFFF c.poisoned * 2 ^ 64 + Nat.min 0xFFFF c.resent * 2 ^ 80
    + cstatus * 2 ^ 96 + c.cflags * 2 ^ 104 + Nat.min 0xFFFF missing * 2 ^ 112 + num * 2 ^ 128)

/-- QUEUE_DEPTH and ACTIVE of COLL_STAT follow the queue. -/
def State.collDepth (s : State) : State :=
  let a := (s.coll.queue.filter (fun c => c.active)).length
  (s.set F.COLL_STAT_ACTIVE a).set F.COLL_STAT_QUEUE_DEPTH (s.coll.queue.length - a)

def State.setCollQueue (s : State) (q : List Coll) : State := ({ s with coll := { s.coll with queue := q } }).collDepth

/-- A record of a collective reaches the posting tile; a non-finite input sets the tile's flag (R74, R286). -/
def State.collRecord (s : State) (c : Coll) (cstatus missing num : Nat) : State :=
  match allTiles.find? (fun n => n.val == c.tile) with
  | some n => (s.record n (collRecordBits c cstatus missing num)).sticky n (if cstatus == 2 then 0 else c.nonfin) false
  | none => s

/-- The destination of a collective whose rule was broken holds free values (R285). -/
def State.undefDest (s : State) (c : Coll) : State :=
  if !s.mem.spoiled.contains c.dest then s else
  let s1 := { s with free := s.free + 1, mem := { s.mem with spoiled := s.mem.spoiled.filter (fun r => r != c.dest) } }
  s1.unitStore (tileIx c.tile) c.dest.1 ((List.range c.dest.2).map (fun i => Config.freeByte s.free (c.dest.1 + i))) false

/-- Staging chunks of a port are free again (R285). The next frame reports them; where the port is UP an acknowledgement does so at once
(DESIGN CHOICE, log entry 44). -/
def State.freeStaging (s : State) (port n : Nat) : State :=
  match portIx port with
  | some p =>
    let s1 := s.setPort p { s.port p with freed := (s.port p).freed + n }
    if s1.portUp p.val then s1.sendAck p false else s1
  | none => s

/-- Abandon the collectives of a test (R294): those not yet recorded are recorded ABANDONED; their staging is free. -/
def State.abandonColls (s : State) (which : Coll → Bool) : State :=
  let gone := s.coll.queue.filter which
  let s1 := s.setCollQueue (s.coll.queue.filter (fun c => !which c))
  let s2 := s1.flagIf (!gone.isEmpty) F.COLL_STAT_ABANDONED
  s2.forEach gone (fun s c =>
    let s1 := s.forEach c.staged (fun s x => s.freeStaging x.port 1)
    let m := match s1.group (cGroup c.d) with | some g => collMissing g c | none => 0
    if c.recorded then s1 else ({ s1.undefDest c with stallReq := s1.stallReq }).collRecord c 1 m (numStatus ⟨c.sat, c.flush, c.nonfin⟩ stOk))

/-- Tile n's queues are flushed (R27, R163): operands waiting at the array's ports and deferred entries are lost, FLUSHED where entries
were outstanding; pending scalar entries are released with undefined values (R207). -/
def State.flushTile (s : State) (n : TileIx) : State :=
  let t := s.tile n
  let s1 := s.flagIf (!t.dwq.isEmpty) (F.TILE_DWQ_STAT_FLUSHED n.val)
  let s2 := s1.set (F.TILE_DWQ_STAT_DEPTH n.val) 0
  let sf := Vector.ofFn (fun (i : Fin 32) => if t.pending.contains i.val then Config.freeWord s.free (n.val * 32 + i.val) else t.sf[i])
  s2.setTile n { t with portA := [], portB := [], portT := [], dwq := [], drain := false, pending := [], sf := sf }

/-- The queues are flushed as at a boundary (R27), with the engine commands that were stalled. -/
def State.flushQueues (s : State) : State :=
  let s1 := s.forEach allTiles (fun s n => s.flushTile n)
  ({ s1 with free := s1.free + 1 }).dropWaiting (fun w => !hostSide w.cmd)

end Sys2Proof.Machine
end

