-- ==== Sys2Proof/Machine/SealOps.lean ====
section
/-! DEFINITION. The seal (R239 to R252): votes and their combination, the leader's decision, the step log, applying a decision; the recipe
ladder (R253 to R261); what a commit starts: an assay sweep (R376), a cast (R390), the comparison of a replay (R409). -/

namespace Sys2Proof.Machine

/-! Layer maps (R242). -/

/-- Event bits of layer l in a map of two layers a byte. -/
def mapBits (m : List Byte) (l : Nat) : Nat :=
  let b := (m.getD (l / 2) 0).toNat
  if l % 2 == 0 then b % 16 else b / 16

/-- OR of two maps. -/
def mapOr : List Byte → List Byte → List Byte
  | a :: l, b :: m => (a ||| b) :: mapOr l m
  | [], m => m
  | l, [] => l

/-- A map of 2,048 bytes from the event bits of each layer. -/
def mapOf (ev : Nat → Nat) : List Byte := (List.range 2048).map (fun i => BitVec.ofNat 8 (ev (2 * i) + 16 * ev (2 * i + 1)))

/-! The module's vote (R240 to R242). -/

/-- Loss shares added in ascending tile order (R240). -/
def sumLoss (l : List U32) : U32 := match l with | [] => 0 | a :: r => r.foldl add32 a

/-- The module's vote from the parts of its unfenced tiles; `fencedFailed`: a tile was fenced in the step. -/
def State.formVote (s : State) (parts : List VotePart) (fencedFailed : Bool) : Vote :=
  let loss := sumLoss (parts.map (fun p => p.loss))
  let satSum := fun (l : Nat) => (parts.map (fun p => Sparse.getD p.sat l 0)).foldl (· + ·) 0
  let entries := s.ladderEntries
  let ev := fun (l : Nat) =>
    let spill := parts.any (fun p => p.spill.contains l)
    let sat := match entries[l]? with
      | some e => e.satLimit != 0xFFFFFFFF#32 && decide (e.satLimit.toNat < satSum l)
      | none => false
    let orig := parts.any (fun p => p.origin == some l)
    b2n spill + 2 * b2n sat + 4 * b2n orig
  let m := mapOf ev
  let vf := b2n (parts.any (fun p => p.nonfin)) + 2 * b2n (!isFin32 loss) + 4 * b2n (parts.any (fun p => p.poison))
    + 8 * b2n (parts.any (fun p => !p.spill.isEmpty)) + 16 * b2n (parts.all (fun p => p.inTime))
    + 32 * b2n (fencedFailed || parts.any (fun p => p.failed)) + 64 * b2n (m.any (fun b => bit b.toNat 1 || bit b.toNat 5))
  ⟨s.stepNo, loss, vf, s.get F.SEAL_STAT_LADDER_EPOCH, m⟩

/-- A vote as a 4 KiB chunk (R241). -/
def voteBytes (v : Vote) : List Byte :=
  sliceBytes (leBytes 8 v.step ++ leBytes 4 v.loss.toNat ++ leBytes 2 v.vflags ++ leBytes 1 v.epoch ++ leBytes 49 0 ++ v.layerMap) 0 4096

/-- A vote read from a chunk. -/
def voteOf (b : List Byte) : Vote :=
  ⟨leNat (sliceBytes b 0 8), BitVec.ofNat 32 (leNat (sliceBytes b 8 4)), leNat (sliceBytes b 12 2), leNat (sliceBytes b 14 1),
    sliceBytes b 64 2048⟩

/-- A decision as a 4 KiB chunk (R246). -/
def decisionBytes (d : Decision) : List Byte :=
  sliceBytes (leBytes 8 d.step.toNat ++ leBytes 4 d.lossSum.toNat ++ [BitVec.ofNat 8 (b2n d.commit), BitVec.ofNat 8 d.reason.toNat,
    d.epoch, 0] ++ leBytes 2 d.votes ++ leBytes 46 0 ++ d.layerMap) 0 4096

/-! The decision (R243 to R246). -/

/-- VOTE_DL (R245). -/
def State.voteDl (s : State) : Nat := s.get F.MGT_PERIOD_CFG1_TRAIN_DL - s.get F.SEAL_CFG_SEAL_MARGIN

/-- The leader's decision over the votes held, in ascending member index (R243, R244). -/
def State.decideStep (s : State) (members : Nat) : Decision :=
  let vs := s.seals.votes.map (fun e => e.2)
  let step := s.stepNo
  let epoch := s.get F.SEAL_STAT_LADDER_EPOCH
  let flags := vs.foldl (fun f v => f ||| v.vflags) 0
  let lossSum := pairwise add32 0 (vs.map (fun v => v.loss))
  let missing := decide (vs.length < members)
  -- R251: a vote absent at VOTE_DL is both LATE and MISSING
  let late := missing || vs.any (fun v => !bit v.vflags 4)
  let mismatch := vs.any (fun v => v.step != step || v.epoch != epoch)
  let reason := b2n (bit flags 0) + 2 * b2n (bit flags 2) + 4 * b2n (bit flags 5) + 8 * b2n late + 16 * b2n mismatch
    + 32 * b2n (bit flags 1 || !isFin32 lossSum) + 64 * b2n missing
  { step := BitVec.ofNat 64 step, lossSum := lossSum, commit := reason == 0, reason := BitVec.ofNat 7 reason
    epoch := BitVec.ofNat 8 epoch, votes := vs.length, layerMap := vs.foldl (fun m v => mapOr m v.layerMap) [] }

/-- Write a decision at the next entry of the step log (R246, R250). -/
def State.logDecision (s : State) (d : Decision) : State :=
  let head := s.get F.SEAL_LOG_HEAD
  let s1 := s.moduleWrite (s.get F.SEAL_LOG_LOG_BASE + 64 * head) ((decisionBytes d).take 64) false
  let s2 := s1.set F.SEAL_LOG_HEAD ((head + 1) % 1024)
  { s2 with seals := { s2.seals with log := (d :: s2.seals.log).take 1024 } }

/-- The leader decides: it logs the decision and broadcasts it over its routes (R244, R246). -/
def State.leaderDecides (s : State) (g : Group) : State :=
  let d := s.decideStep g.members.length
  let s1 := ({ s with seals := { s.seals with decided := true } }).logDecision d
  let gi := s1.get F.SEAL_CFG_SEAL_GROUP
  let targets := localOthers g ++ (remotePods g).map (subLeader g)
  s1.forEach targets (fun s i => match memberAt g i with
    | some m => match s.portTo m 0 with
      | some p => s.sendChunk p (s.ownHdr m.id.toNat gi 0)
          (decisionBytes d)
      | none => s
    | none => s)

/-- A vote enters the leader's votes (R243); votes after the decision are ignored (R245). The last vote decides. -/
def State.takeVote (s : State) (g : Group) (pos : Nat) (v : Vote) : State :=
  if s.seals.decided || !s.period.stepActive then s else
  let s1 := { s with seals := { s.seals with votes := Sparse.insert s.seals.votes pos v } }
  if s1.seals.votes.length == g.members.length then s1.leaderDecides g else s1

/-- The module casts its vote: to the leader over the seal group's route, or, at the leader, into its own votes (R241). -/
def State.castVote (s : State) (v : Vote) : State :=
  let s1 := { s with seals := { s.seals with voted := true } }
  let s2 := if s1.get F.SEAL_STAT_SEAL_STATE == 3 then s1 else s1.set F.SEAL_STAT_SEAL_STATE 1
  match s2.sealGroup with
  | none => s2.takeVote ⟨[⟨0, 30, 31⟩], 0, 0, false, true⟩ 0 v
  | some g =>
    if groupLeads g then s2.takeVote g g.selfPos v else
    let dst := if partOf g == .remoteMember then subLeader g (podAt g g.selfPos) else g.leaderPos
    match memberAt g g.leaderPos, memberAt g dst with
    | some l, some m => match s2.portTo m 0 with
      | some p => s2.sendChunk p (s2.ownHdr l.id.toNat (s2.get F.SEAL_CFG_SEAL_GROUP) 4) (voteBytes v)
      | none => s2
    | _, _ => s2

/-! The recipe ladder (R253 to R261). -/

/-- RUNG_MASK with bits 0 and 7 always 1. -/
def rungAllowed (e : LadderEntry) (r : Nat) : Bool := r == 0 || r == 7 || bit e.rungMask.toNat r

/-- The next higher allowed rung. -/
def rungUp (e : LadderEntry) (r : Nat) : Nat := ((List.range 8).find? (fun x => decide (r < x) && rungAllowed e x)).getD r

/-- The next lower allowed rung. -/
def rungDown (e : LadderEntry) (r : Nat) : Nat := ((List.range 8).reverse.find? (fun x => decide (x < r) && rungAllowed e x)).getD r

/-- Whether a decided step counts for the ladder (R255). -/
def counts (d : Decision) : Bool :=
  let r := d.reason.toNat
  !(bit r 2 || bit r 3 || bit r 4 || bit r 6)

/-- A layer's counts and pending move after a counting decision (R255 to R257, R261). -/
def layerAfter (e : LadderEntry) (x : LayerSt) (ev : Nat) (commit : Bool) : LayerSt :=
  let sp := if bit ev 0 then Nat.min 15 (x.spill + 1) else 0
  let sa := if bit ev 1 then Nat.min 15 (x.sat + 1) else 0
  let nf := if bit ev 2 then Nat.min 15 (x.nonfin + 1) else 0
  let cl := if commit && ev % 8 == 0 then Nat.min 65535 (x.clean + 1) else 0
  if 3 ≤ sp || e.satSteps ≤ sa || e.nonfinSteps ≤ nf then
    let n := rungUp e x.rung
    let p := match x.pending with
      | some q => if q < x.rung then some n else some q
      | none => if n == x.rung then none else some n
    { x with spill := 0, sat := 0, nonfin := 0, clean := 0, pending := p }
  else if 1 ≤ x.rung && x.rung ≤ 6 && e.cleanSteps.toNat != 0 && e.cleanSteps.toNat ≤ cl then
    let n := rungDown e x.rung
    { x with spill := sp, sat := sa, nonfin := nf, clean := 0, pending := if x.pending.isSome then x.pending else some n }
  else { x with spill := sp, sat := sa, nonfin := nf, clean := cl }

def zipLadder (m : List Byte) (commit : Bool) : Nat → List LadderEntry → List LayerSt → List LayerSt
  | l, e :: es, x :: xs => layerAfter e x (mapBits m l) commit :: zipLadder m commit (l + 1) es xs
  | _, _, xs => xs

/-- Training halts (R259): no further step starts until a start. -/
def State.halt (s : State) : State :=
  if s.get F.SEAL_STAT_SEAL_STATE == 3 then s else
  ((s.set F.SEAL_STAT_SEAL_STATE 3).cause F.SEAL_STAT_HALT false 3).post clsJob 0 1 0x11 0 0

/-- Ladder update from a decision (R255, R256). -/
def State.ladderUpdate (s : State) (d : Decision) : State :=
  if !counts d then s else
  let s1 := { s with ladder := zipLadder d.layerMap d.commit 0 s.ladderEntries s.ladder }
  let origin := (List.range (2 * d.layerMap.length)).any (fun l => bit (mapBits d.layerMap l) 2)
  let s2 := if d.commit || origin then s1.set F.SEAL_STAT_LOSS_HALT_RUN 0
    else if bit d.reason.toNat 5 then s1.bump F.SEAL_STAT_LOSS_HALT_RUN 1 else s1
  let s3 := if s2.get F.SEAL_STAT_LOSS_HALT_RUN != 0 && s2.get F.SEAL_CFG_LOSS_HALT_STEPS ≤ s2.get F.SEAL_STAT_LOSS_HALT_RUN then
      { s2 with ladder := s2.ladder.map (fun x => { x with pending := if x.rung == 7 then none else some 7 }) }
    else s2
  if s3.ladder.any (fun x => x.pending == some 7) || (s3.get F.SEAL_STAT_LOSS_HALT_RUN != 0 &&
      s3.get F.SEAL_CFG_LOSS_HALT_STEPS ≤ s3.get F.SEAL_STAT_LOSS_HALT_RUN) then s3.halt else s3

/-- Pending rung changes are applied at a step boundary (R258, R27): the epoch moves where a rung changes. -/
def State.applyRungs (s : State) : State :=
  let up := s.ladder.any (fun x => match x.pending with | some r => decide (x.rung < r) | none => false)
  let down := s.ladder.any (fun x => match x.pending with | some r => decide (r < x.rung) | none => false)
  let move := fun (x : LayerSt) => match x.pending with
    | some r => { x with rung := r, changes := Nat.min 255 (x.changes + 1), pending := none }
    | none => x
  let s1 := { s with ladder := s.ladder.map move }
  let s2 := (s1.flagIf up F.SEAL_STAT_RUNG_UP).flagIf down F.SEAL_STAT_RUNG_DOWN
  if up || down then s2.set F.SEAL_STAT_LADDER_EPOCH ((s.get F.SEAL_STAT_LADDER_EPOCH + 1) % 256) else s2

/-! Applying a decision. -/

/-- FENCE_CKS (R373): a tile whose step-failed checksums reach it in the last 16 decided steps is fenced. -/
def State.cksCount (s : State) : State :=
  s.forEach allTiles (fun s n =>
    if s.tileFenced n.val then s else
    let t := s.tile n
    let h := (t.cksFailed :: t.cksHist).take 16
    let s1 := s.setTile n { t with cksHist := h, cksFailed := false }
    if t.cksFailed && Nat.max 1 (s.get F.FLT_HEALTH_CFG_FENCE_CKS) ≤ (h.filter (fun b => b)).length then
      s1.fenceUnit clsTile n.val 0x06 else s1)

/-- The pages an assay covers, numbered in ascending order (R377). -/
def State.assayPages (s : State) : List Nat :=
  match s.layout with
  | some l => s.persistentPages.filter (fun p => !l.wireResidual.any (fun r => decide (r.1 ≤ p * 0x10000 ∧ p * 0x10000 < r.1 + r.2)))
  | none => []

/-- A sweep starts at the commit of a step that is a multiple of K (R376, R377); a sweep still running is not repeated (R380). -/
def State.assayStart (s : State) (st : Nat) : State :=
  let k := s.get F.FLT_ASSAY_CFG_K
  match s.group (s.get F.FLT_ASSAY_CFG_ASSAY_GROUP) with
  | some g =>
    if k != 0 && st % k == 0 && decide (1 < g.members.length) && decide (g.selfPos < g.members.length) then
      let sweep := st / k % 16
      let pages := (s.assayPages.zipIdx.filter (fun e => e.2 % 16 == sweep)).map (fun e => (e.1, s.committedFrame e.1))
      { s with flt := { s.flt with assay := some (st, sweep, pages), assayHashed := false } }
    else s
  | none => s

/-- A frame that a commit replaces: pinned while a sweep has not read it (R379), else it returns before the next S0 (R247). -/
def State.releaseFrame (s : State) (page f : Nat) : State :=
  let pin := match s.flt.assay with
    | some (_, _, l) => !s.flt.assayHashed && l.contains (page, f)
    | none => false
  if pin then { s with mem := { s.mem with pinned := (page, f) :: s.mem.pinned } }
  else { s with mem := { s.mem with returning := (page, f) :: s.mem.returning } }

/-- PAGE_GEN switches every page shadowed in the step, and the step counter increments, in one write (R247). -/
def State.switchPages (s : State) : State :=
  let old := s.mem.shadows.map (fun e => (e.1, s.committedFrame e.1))
  let frames := s.mem.shadows.foldl (fun m e => Sparse.put m e.1 e.2 (e.1 * 0x10000)) s.mem.frames
  let s1 := { s with mem := { s.mem with frames := frames, shadows := [] } }
  let s2 := s1.set F.SEAL_STAT_PAGE_GEN (1 - s1.get F.SEAL_STAT_PAGE_GEN)
  let s3 := s2.set F.SEAL_STEP_STEP_COUNTER (s2.get F.SEAL_STEP_STEP_COUNTER + 1)
  s3.forEach old (fun s e => s.releaseFrame e.1 e.2)

/-- What every decision leaves in the seal registers (R251, R252). -/
def State.sealRegs (s : State) (d : Decision) : State :=
  let r := d.reason.toNat
  let s1 := (s.set F.SEAL_LAST_LAST_LOSS d.lossSum.toNat).set F.SEAL_LAST_VOTES d.votes
  let s2 := (s1.set F.SEAL_LAST_LAST_COMMIT (b2n d.commit)).set F.SEAL_STAT_LAST_REASON r
  let s3 := (s2.flagIf (bit r 3 || bit r 6) F.SEAL_STAT_LATE).flagIf (bit r 4) F.SEAL_STAT_MISMATCH
  if s3.get F.SEAL_STAT_SEAL_STATE == 3 then s3 else s3.set F.SEAL_STAT_SEAL_STATE 0

/-- The step is over on this module. -/
def State.stepOver (s : State) : State :=
  { s with
    period := { s.period with stepActive := false }
    seals := { s.seals with voted := false, decided := false, votes := [], queried := false } }

/-- A discard counts (R252): run and alert. -/
def State.countRun (s : State) : State :=
  let run := s.get F.SEAL_STAT_DISCARD_RUN + 1
  let s1 := s.bump F.SEAL_STAT_DISCARD_RUN 1
  if run == s1.get F.SEAL_CFG_DISCARD_ALERT then (s1.cause F.SEAL_STAT_DISCARD_ALERT false 3).post clsJob 0 1 0x10 0 0 else s1

/-- A discard counts (R252): run, alert, dropped steps. -/
def State.countDiscard (s : State) : State :=
  ({ s with period := { s.period with droppedNow := s.period.droppedNow + 1 } }).countRun

/-- No item is left to run: items are cancelled. -/
def State.dropItems (s : State) : State := { s with power := { s.power with items := [], reserved := 0 } }

/-- The step is dropped: its work and its collectives stop, shadows return, queues are flushed (R26, R248). -/
def State.dropStep (s : State) : State := ((s.dropItems.abandonColls (fun c => c.phase == 3)).dropShadows.flushQueues).stepOver

/-- Comparison of a replayed step's decision with the log (R409). -/
def State.replayCheck (s : State) (d : Decision) : State :=
  if s.get F.ENG_RESTORE_STAT_STATE != 3 || d.step.toNat != s.get F.ENG_RESTORE_CTL_STEP + 1 || !counts d then s else
  match s.cast.replayLog with
  | [] => s.set F.ENG_RESTORE_STAT_STATE 5
  | l :: rest =>
    let s1 := { s with cast := { s.cast with replayLog := rest } }
    if l.commit == d.commit && l.reason == d.reason && l.lossSum == d.lossSum then
      if d.commit then s1.set F.ENG_RESTORE_STAT_STATE 4
      else if rest.isEmpty then s1.set F.ENG_RESTORE_STAT_STATE 5 else s1
    else (s1.set F.ENG_RESTORE_STAT_STATE 6).halt.post clsJob 0 1 0x0F 0 0

/-- The decision is not yet in this member's log: the leader logged it when it decided (R246, R247). -/
def State.logOnce (s : State) (d : Decision) : State := if s.seals.decided then s else s.logDecision d

/-- A step is unresolved (R249). -/
def State.unresolved (s : State) : Bool := s.get F.SEAL_STAT_SEAL_STATE == 2

/-- A rung change that came due while a step was unresolved is applied with the decision (R261). -/
def State.rungsDue (s : State) (was : Bool) : State := if was then s.applyRungs else s

/-- Apply a commit (R247). -/
def State.applyCommit (s : State) (d : Decision) : State :=
  let s1 := (s.switchPages.logOnce d).sealRegs d
  let s2 := s1.set F.SEAL_STAT_DISCARD_RUN 0
  let s3 := { s2 with period := { s2.period with sealedNow := s2.period.sealedNow + 1 } }
  let s4 := (s3.stepOver.ladderUpdate d).rungsDue s.unresolved
  let s5 := (s4.cksCount.assayStart d.step.toNat).castAtCommit d.step.toNat
  s5.replayCheck d

/-- The step was dropped at TRAIN_DL and counted then; its decision has come after (R245). -/
def State.dropLate (s : State) : State := { s with seals := { s.seals with late := false } }

/-- Apply a discard (R248, R252). One that comes after TRAIN_DL to a member that dropped the step then leaves its registers and its log (R245). -/
def State.applyDiscard (s : State) (d : Decision) : State :=
  let r := d.reason.toNat
  let s1 := (if s.seals.late then (s.logOnce d).dropLate else (s.logOnce d).dropStep).sealRegs d
  let s2 := if bit r 3 || bit r 6 then s1.cause F.MGT_PERIOD_STAT_STEP_DROPPED false 2 else s1
  let s3 := if bit r 4 then s2.post clsJob 0 1 0x0F 0 0 else s2
  let s4 := (((if s.seals.late then s3.countRun else s3.countDiscard).ladderUpdate d).rungsDue s.unresolved).cksCount
  s4.replayCheck d

/-- A decision for the step in progress, for the unresolved step (R249), or a discard of one dropped at TRAIN_DL (R245). A commit needs this
member's vote. -/
def State.decisionDue (s : State) (d : Decision) : Bool :=
  s.running && d.step.toNat == s.stepNo &&
    (s.get F.SEAL_STAT_SEAL_STATE == 2 || (s.period.stepActive && (!d.commit || s.seals.voted)) || (s.seals.late && !d.commit))

/-- A sub-leader forwards the decision to its pod (R246, R287). -/
def State.forwardDecision (s : State) (d : Decision) : State :=
  match s.sealGroup with
  | none => s
  | some g =>
    if !s.running || partOf g != .subLeader then s else
    s.forEach (podOthers g (podAt g g.selfPos)) (fun s i => match memberAt g i with
      | some m => match s.portTo m 0 with
        | some p => s.sendChunk p (s.ownHdr m.id.toNat (s.get F.SEAL_CFG_SEAL_GROUP) 0) (decisionBytes d)
        | none => s
      | none => s)

/-- An unresolved step without an answer is discarded (R249). -/
def State.queryDiscard (s : State) : State :=
  if s.get F.SEAL_STAT_SEAL_STATE != 2 then s else
  let s1 := (s.dropShadows.stepOver.set F.SEAL_STAT_SEAL_STATE 0).cause F.SEAL_STAT_QUERY_DISCARD false 3
  s1.countDiscard.rungsDue true

end Sys2Proof.Machine
end

