-- ==== Sys2Proof/Machine/Operands.lean ====
section
/-! DEFINITION. Operand forms: accesses to tile memory, tensors in tile order and in row order (R50 to R57), conversion of a matrix of values
with its block scales (R48, R49, R88 to R90), and the rotation (R83 to R85). -/

namespace Sys2Proof.Machine

/-! Tile memory by its own addresses (R213): 6 MiB; what lies beyond is unmapped (R217). -/

def tileBytes : Nat := 0x600000

/-- A unit of tile n reads its tile memory: data, and poison, which sets the tile's flag (R211). -/
def State.tmRead (s0 : State) (n : TileIx) (a len : Nat) : State × List Byte × Bool :=
  let k := Nat.min len (tileBytes - a)
  let s := (s0.touch (tileAddr n.val a) k false).larderHeal n a k
  let (d, bad) := s.tileRead n a k
  if k == len then (if bad then s.taintTile n else s, d, bad)
  else (((s.flag F.MEM_STAT_UNMAPPED).failTile n).taintTile n, d ++ List.replicate (len - k) 0, true)

/-- A unit of tile n writes its tile memory. -/
def State.tmWrite (s : State) (n : TileIx) (a : Nat) (data : List Byte) (poison : Bool) : State :=
  let k := Nat.min data.length (tileBytes - a)
  let s1 := (s.touch (tileAddr n.val a) k true).tileWrite n a (data.take k) poison
  if k == data.length then s1 else (s1.flag F.MEM_STAT_UNMAPPED).failTile n

/-! Layouts. -/

/-- A tensor as a command names it: planes, pitches, order; `scaled`: it has a scale plane. -/
structure Plane where
  fmt : Nat
  base : Nat
  sbase : Nat
  pitch : Nat
  spitch : Nat
  rowOrder : Bool
  scaled : Bool
  deriving DecidableEq, Repr

def blocks8 (n : Nat) : Nat := (n + 7) / 8
def blocks64 (n : Nat) : Nat := (n + 63) / 64

/-- Alignment and pitches of R53 and R54. -/
def Plane.ok (p : Plane) (cols : Nat) : Bool :=
  p.base % 512 == 0 && (!p.scaled || p.sbase % 64 == 0) &&
  (if p.rowOrder then p.pitch % 512 == 0 && (!p.scaled || p.spitch % 64 == 0)
   else decide (blocks8 cols ≤ p.pitch) && p.pitch % (512 / blockBytes p.fmt) == 0)

/-- Rows of codes with their scale codes. -/
abbrev Coded := List (List (Nat × Nat))

/-- Block row i in tile order: its 8 rows (R52, R53). -/
def tileRows (fmt cols data : Nat) (scales : List Byte) : Coded :=
  (List.range 8).map (fun r => (List.range cols).map (fun c =>
    (elemOf (fmtBits fmt) data (64 * (c / 8) + 8 * r + c % 8), (scales.getD (c / 8) 0).toNat)))

/-- Read through `get` (address and length to bytes): a tensor of rows × cols, each element with its scale code (0x78 without a scale plane). -/
def State.readTensor (get : State → Nat → Nat → State × List Byte × Bool) (s : State) (p : Plane) (rows cols : Nat) :
    State × Coded × Bool :=
  let w := fmtBits p.fmt
  if p.rowOrder then
    let nb := blocks64 cols
    let len := if p.fmt ≤ 8 then blockBytes p.fmt * nb else elemBytes p.fmt * cols
    (List.range rows).foldl (fun acc r =>
      let (s1, d, bad) := get acc.1 (p.base + r * p.pitch) len
      let (s2, sc, bad2) := if p.scaled then get s1 (p.sbase + r * p.spitch) nb else (s1, [], false)
      let x := leNat d
      let row := (List.range cols).map (fun c => (elemOf w x c, if p.scaled then (sc.getD (c / 64) 0).toNat else 0x78))
      (s2, acc.2.1 ++ [row], acc.2.2 || bad || bad2)) (s, [], false)
  else
    let nb := blocks8 cols
    let (s1, l, bad) := (List.range (blocks8 rows)).foldl (fun (acc : State × Coded × Bool) i =>
      let (s1, d, bad) := get acc.1 (p.base + blockBytes p.fmt * (i * p.pitch)) (blockBytes p.fmt * nb)
      let (s2, sc, bad2) := if p.scaled then get s1 (p.sbase + i * p.pitch) nb else (s1, List.replicate nb 0x78, false)
      (s2, acc.2.1 ++ tileRows p.fmt cols (leNat d) sc, acc.2.2 || bad || bad2)) (s, [], false)
    (s1, l.take rows, bad)

/-- Read a tensor from tile memory. -/
def State.readPlane (s : State) (n : TileIx) (p : Plane) (rows cols : Nat) : State × Coded × Bool :=
  s.readTensor (fun s a len => s.tmRead n a len) p rows cols

/-- Data bytes of block row i in tile order from rows of codes; padding elements are zero codes (R51). -/
def blockRowBytes (fmt cols i : Nat) (rows : List (List Nat)) : List Byte :=
  let l := ((List.range 8).map (fun r => ((rows.getD (8 * i + r) []).take cols).zipIdx.map (fun e =>
    (64 * (e.2 / 8) + 8 * r + e.2 % 8, e.1)))).flatten
  leBytes (blockBytes fmt * blocks8 cols) (packElems (fmtBits fmt) l)

/-- Write codes and block scales in tile order (R52, R53). -/
def State.writePlane (s : State) (n : TileIx) (p : Plane) (cols : Nat) (codes scales : List (List Nat)) (poison : Bool) : State :=
  s.forEach (List.range (blocks8 codes.length)) (fun s i =>
    let s1 := s.tmWrite n (p.base + blockBytes p.fmt * (i * p.pitch)) (blockRowBytes p.fmt cols i codes) poison
    if p.scaled then s1.tmWrite n (p.sbase + i * p.pitch) ((scales.getD i []).map (fun c => BitVec.ofNat 8 c)) poison else s1)

/-! Values. -/

/-- Rows of FP32 values. -/
abbrev Values := List (List U32)

/-- Dequantise (R48): block-scaled where `scaled`, else with the tensor scale alone. -/
def valuesOf (fmt : Nat) (scaled : Bool) (st : Fv) (l : Coded) : Values :=
  l.map (fun r => r.map (fun e => dequant fmt e.1 (if scaled then ue5m3Value e.2 else fone) st))

/-- Columns as rows. -/
def transposeOf {α : Type} (cols : Nat) (l : List (List α)) : List (List α) :=
  (List.range cols).map (fun c => l.filterMap (fun r => r[c]?))

/-! Rotation (R83 to R85). -/

/-- Size of a rotation code (R78). -/
def rotSize (code : Nat) : Nat := if code == 1 then 16 else if code == 2 then 32 else if code == 3 then 64 else 0

/-- One butterfly stage over a group. -/
def butterfly (v : List U32) (st : Nat) : List U32 :=
  (List.range v.length).map (fun i =>
    let x := v.getD i 0
    if bit i st then sub32 (v.getD (i - 2 ^ st) 0) x else add32 x (v.getD (i + 2 ^ st) 0))

/-- c_n of R84. -/
def rotConst (n : Nat) : U32 := if n == 16 then 0x3E800000#32 else if n == 32 then 0x3E3504F3#32 else 0x3E000000#32

/-- c_n H_n v for a group of n values. -/
def rotGroup (n : Nat) (v : List U32) : List U32 :=
  ((List.range (bitLen n - 1)).foldl butterfly v).map (fun x => mul32 x (rotConst n))

/-- A rotation of a row: elements beyond its extent act as zeros, outputs there are discarded (R85). -/
def rotRow (n : Nat) (v : List U32) : List U32 :=
  if n = 0 then v else
  let padded := v ++ List.replicate (roundUp v.length n - v.length) 0
  ((chunksOf n padded.length padded).map (rotGroup n)).flatten.take v.length

/-! Quantising a matrix. -/

/-- The blocks of a converted matrix: bh × bw elements. -/
structure Blocking where
  bh : Nat
  bw : Nat
  deriving DecidableEq, Repr

def tileBlocking : Blocking := ⟨8, 8⟩
def rowBlocking : Blocking := ⟨1, 64⟩

/-- Elements of block (i, j) within the extents, row before column, with their columns. -/
def blockElems (b : Blocking) (x : Values) (i j : Nat) : List (Nat × U32) :=
  (((x.drop (b.bh * i)).take b.bh).map (fun r => ((r.zipIdx.drop (b.bw * j)).take b.bw).map (fun e => (e.2, e.1)))).flatten

/-- Block scales: DERIVE with the clip value of each channel, channels off the main path as zeros (R88, R89), or MEAN_ABS (R90). -/
def scalesOf (f : Nat) (mean : Bool) (st : Fv) (b : Blocking) (clip : Nat → Fv) (off : Nat → Bool) (cols : Nat) (x : Values) : List (List Nat) :=
  (List.range ((x.length + b.bh - 1) / b.bh)).map (fun i => (List.range ((cols + b.bw - 1) / b.bw)).map (fun j =>
    let l := blockElems b x i j
    if mean then meanScale st (l.map (fun e => fv32 e.2))
    else deriveScale f st (l.map (fun e => (if off e.1 then Fv.fin false 0 0 else fv32 e.2, clip e.1)))))

/-- How a command rounds: format, mode, overflow, and the draw of an element (R58, R62, R67). -/
structure Rnd where
  fmt : Nat
  rnd : Nat
  ovf : Bool
  draw : Nat → Nat → Nat

/-- The block of element (r, c) holds a finite value other than zero on the main path. -/
def blockFinite (b : Blocking) (off : Nat → Bool) (x : Values) (r c : Nat) : Bool :=
  ((x.drop (r / b.bh * b.bh)).take b.bh).any (fun row => ((row.zipIdx.drop (c / b.bw * b.bw)).take b.bw).any (fun e =>
    !off e.2 && isFin32 e.1 && !zero32 e.1))

/-- Quantise every element with its block's scale (R49); a block scale of 0x00 gives zero codes, elements off the main path are zero and
counted elsewhere, and in a block whose only non-zero elements are infinities every other element is zero, a NaN too (R89). -/
def quantRows (m : Rnd) (scaled : Bool) (st : Fv) (b : Blocking) (scales : List (List Nat)) (off : Nat → Bool) (x : Values) : List (List Elem) :=
  x.zipIdx.map (fun row => row.1.zipIdx.map (fun e =>
    let sc := if scaled then (scales.getD (row.2 / b.bh) []).getD (e.2 / b.bw) 0 else 0x78
    let v := fv32 e.1
    if off e.2 then exactElem 0
    else if scaled && (sc == 0 || (isNan32 e.1 && !blockFinite b off x row.2 e.2)) then ⟨0, false, false, !isFinFv v⟩
    else quantise m.fmt m.rnd (m.draw row.2 e.2) m.ovf (quantK (if scaled then ue5m3Value sc else fone) st) v))

end Sys2Proof.Machine
end

