-- ==== Sys2Proof/Machine/LadleOps.lean ====
section
/-! DEFINITION. What a Ladle command does (R76 to R105): refusals, the path, rotation, outliers and the Sprue's channels, scales, clip mask,
and the record. -/

namespace Sys2Proof.Machine

/-! Fields of the descriptor (R78). -/

def lOp (d : BitVec 512) : Nat := dfld d 0 63 56
def lLayer (d : BitVec 512) : Nat := dfld d 0 55 44
def lSrcFmt (d : BitVec 512) : Nat := dfld d 0 43 40
def lDstFmt (d : BitVec 512) : Nat := dfld d 0 39 36
def lRnd (d : BitVec 512) : Nat := dfld d 0 35 34
def lOvf (d : BitVec 512) : Bool := dbit d 0 33
def lRowOrder (d : BitVec 512) : Bool := dbit d 0 32
def lRot (d : BitVec 512) : Nat := dfld d 0 31 30
def lSrcRot (d : BitVec 512) : Nat := dfld d 0 29 28
def lScaleSrc (d : BitVec 512) : Nat := dfld d 0 27 26
def lClip (d : BitVec 512) : Nat := dfld d 0 25 24
def lOutlier (d : BitVec 512) : Nat := dfld d 0 23 22
def lSprueFmt (d : BitVec 512) : Nat := if dbit d 0 21 then fE5m2 else fE4m3
def lClipMask (d : BitVec 512) : Bool := dbit d 0 20
def lUnscaled (d : BitVec 512) : Bool := dbit d 0 19
def lSrcBase (d : BitVec 512) : Nat := dfld d 1 31 0
def lSrcSBase (d : BitVec 512) : Nat := dfld d 1 63 32
def lDstBase (d : BitVec 512) : Nat := dfld d 2 31 0
def lDstSBase (d : BitVec 512) : Nat := dfld d 2 63 32
def lSPitch (d : BitVec 512) : Nat := dfld d 3 63 48
def lPitch (d : BitVec 512) : Nat := dfld d 3 47 32
def lCols (d : BitVec 512) : Nat := dfld d 3 31 16
def lRows (d : BitVec 512) : Nat := dfld d 3 15 0
def lStOut (d : BitVec 512) : U32 := BitVec.ofNat 32 (dfld d 4 63 32)
def lStIn (d : BitVec 512) : U32 := BitVec.ofNat 32 (dfld d 4 31 0)
def lThresh (d : BitVec 512) : U32 := BitVec.ofNat 32 (dfld d 5 63 32)
def lClipVal (d : BitVec 512) : Nat := dfld d 5 31 0
def lMaskBase (d : BitVec 512) : Nat := dfld d 6 63 32
def lSpillBase (d : BitVec 512) : Nat := dfld d 6 31 0
def lSpillCap (d : BitVec 512) : Nat := dfld d 7 63 48
def lDstPitch (d : BitVec 512) : Nat := dfld d 7 47 32
def lTag (d : BitVec 512) : Nat := dfld d 7 31 0

def opOperandIn : Nat := 1
def opTransposeIn : Nat := 2
def opResultOut : Nat := 3
def opConvert : Nat := 4

/-- The opcodes that Ladle l carries out (R78). -/
def ladleRuns (l op : Nat) : Bool :=
  if l ≤ 1 then op == 1 else if l == 2 then op == 2 || op == 4 else op == 3

/-- The command delivers to the array. -/
def lDelivers (d : BitVec 512) : Bool := lOp d == 1 || lOp d == 2

/-- The source has a scale plane. -/
def lScaled (d : BitVec 512) : Bool := narrow (lSrcFmt d) || (fp8 (lSrcFmt d) && !lUnscaled d)

/-- The destination format carries block scales (R451). -/
def lDstScaled (d : BitVec 512) : Bool := narrow (lDstFmt d) || fp8 (lDstFmt d)

/-- Output rows and reduction channels of the result (R76): the T Ladle transposes. -/
def lOutRows (l : Nat) (d : BitVec 512) : Nat := if l == 2 then lCols d else lRows d
def lOutCols (l : Nat) (d : BitVec 512) : Nat := if l == 2 then lRows d else lCols d

/-- The reduction extent with its padding (R51, R80). -/
def lPadded (l : Nat) (d : BitVec 512) : Nat :=
  if l == 2 then (if lRowOrder d then lRows d else roundUp (lRows d) 8)
  else if l != 3 && lRowOrder d then roundUp (lCols d) 64
  else roundUp (lCols d) 8

/-- The paths of R81. -/
inductive LPath where
  | deliver | single | two
  deriving DecidableEq, Repr

/-- The path of a command (R81). A row-order FP32, BF16, FP16 or INT32 source on T: R81's table makes it single-stage, R93 has row-order sources
take the two-stage path; the table holds (DEDUCED, log entry 54). -/
def ladlePath (l : Nat) (d : BitVec 512) : LPath :=
  let f := lSrcFmt d
  if l == 3 then .single
  else if fp8 f && lUnscaled d then .single
  else if f == lDstFmt d && lScaleSrc d == 1 && !lRowOrder d && lRot d == lSrcRot d && (l != 2 || lRot d == 0) then .deliver
  else if 9 ≤ f then .single
  else if l == 2 && (lRot d != 0 || lSrcRot d != 0 || lRowOrder d) then .two
  else if l != 2 && lRot d != lSrcRot d then .two
  else .single

/-- The source plane. -/
def lSource (d : BitVec 512) : Plane :=
  ⟨lSrcFmt d, lSrcBase d, lSrcSBase d, lPitch d, lSPitch d, lRowOrder d, lScaled d⟩

/-- The destination plane of CONVERT and RESULT_OUT. -/
def lDest (l : Nat) (d : BitVec 512) (copy : Bool) : Plane :=
  let scaled := if ladlePath l d == .deliver then lScaled d else lDstScaled d
  ⟨lDstFmt d, lDstBase d, lDstSBase d, lDstPitch d, 0, false, scaled && !copy⟩

/-- A clip value or threshold that R80 refuses. -/
def badClip (x : U32) : Bool := isNan32 x || zero32 x || neg32 x
def badThresh (x : U32) : Bool := isNan32 x || (neg32 x && !zero32 x)

/-- The clip values of a command: one for every channel, or one each; a channel without one is not clipped (R80, R91). -/
def State.clipList (s : State) (n : TileIx) (l : Nat) (d : BitVec 512) : List U32 :=
  if lClip d == 2 then words32 (s.tmRead n (lClipVal d) (4 * lOutCols l d)).2.1 else []

/-- The vector of clip values is read (R211). -/
def State.clipRead (s : State) (n : TileIx) (l : Nat) (d : BitVec 512) : State :=
  if lClip d == 2 then (s.tmRead n (lClipVal d) (4 * lOutCols l d)).1 else s

def clipOf (d : BitVec 512) (clips : List U32) (c : Nat) : Fv :=
  if lClip d == 1 then fv32 (BitVec.ofNat 32 (lClipVal d))
  else match clips[c]? with | some x => fv32 x | none => .inf false

/-! The Crucible as the result-out Ladle and CRU_COPY read it. -/

def slotIx (n : Nat) : Fin 128 := ⟨n % 128, Nat.mod_lt n (by decide)⟩

/-- Word i of a slot; an undefined one is a free value (R27, R132). -/
def State.cruWord (s : State) (n : TileIx) (slot i : Nat) : U32 :=
  (((s.tile n).cru[slotIx slot]).words[i]?).getD (Config.freeWord s.free ((n.val * 128 + slot % 128) * 4096 + i))

/-- Rows and columns of a shape (R109). -/
def shapeRows (sh : Nat) : Nat := if sh == 0 then 64 else if sh == 1 then 128 else if sh == 2 then 32 else 256
def shapeCols (sh : Nat) : Nat := 4096 / shapeRows sh

/-- First slot of the tile that a slot belongs to: a compensated tile fills a pair (R118). -/
def State.pairBase (s : State) (n : TileIx) (slot : Nat) : Nat :=
  if ((s.tile n).cru[slotIx slot]).fmt == 1 then slot / 2 * 2 else slot

/-- Words of entry e of the tile in a slot: the entry, or its sum and compensation (R118). -/
def State.cruEntry (s : State) (n : TileIx) (slot e : Nat) : U32 × U32 :=
  let b := s.pairBase n slot
  if ((s.tile n).cru[slotIx slot]).fmt == 1 then
    (s.cruWord n (b + 2 * e / 4096) (2 * e % 4096), s.cruWord n (b + (2 * e + 1) / 4096) ((2 * e + 1) % 4096))
  else (s.cruWord n b e, 0)

/-- An entry as the result-out Ladle reads it (R94): FP32, the rounded sum of a compensated pair, or INT32 converted. -/
def State.cruValue (s : State) (n : TileIx) (slot e : Nat) : U32 :=
  let f := ((s.tile n).cru[slotIx slot]).fmt
  let x := s.cruEntry n slot e
  if f == 1 then add32 x.1 x.2
  else if f == 2 then let v := int32 x.1; round32 (decide (v < 0)) v.natAbs 0
  else x.1

/-- RESULT_OUT that copies INT32 entries (R94). -/
def State.intCopy (s : State) (n : TileIx) (l : Nat) (d : BitVec 512) : Bool :=
  l == 3 && lOp d == 3 && lDstFmt d == fInt32 && decide (lSrcBase d < 128) && ((s.tile n).cru[slotIx (lSrcBase d)]).fmt == 2

/-- RESULT_OUT extents beyond the shape of the MATMUL that wrote the slot; an unwritten slot has none (R80, R132). -/
def State.beyondShape (s : State) (n : TileIx) (d : BitVec 512) : Bool :=
  let c := (s.tile n).cru[slotIx (lSrcBase d)]
  !c.words.isEmpty && (decide (shapeRows c.shape < lRows d) || decide (shapeCols c.shape < lCols d))

/-! Refusals (R80). -/

/-- The BAD_SCALE conditions. -/
def State.ladleBadScale (s : State) (n : TileIx) (l : Nat) (d : BitVec 512) : Bool :=
  (!s.intCopy n l d && (!scaleOk (lStIn d) || (!lDelivers d && !scaleOk (lStOut d))))
    || (lClip d == 1 && badClip (BitVec.ofNat 32 (lClipVal d)))
    || (lClip d == 2 && (s.clipList n l d).any badClip)
    || (lOutlier d != 0 && badThresh (lThresh d))

/-- The BAD_LAYOUT conditions of the command itself. -/
def State.ladleBadLayout (s : State) (n : TileIx) (l op : Nat) (d : BitVec 512) : Bool :=
  let path := ladlePath l d
  let copy := s.intCopy n l d
  lOp d != op || !ladleRuns l (lOp d) || !fmtOk (lDstFmt d) || !fmtOk (lSrcFmt d) || lScaleSrc d == 3 || lClip d == 3
    || lOutlier d == 3 || lRows d == 0 || lCols d == 0
    || (l == 3 && (decide (127 < lSrcBase d) || s.beyondShape n d))
    || (l != 3 && !(lSource d).ok (lCols d))
    || (!lDelivers d && !(lDest l d copy).ok (lOutCols l d))
    || (lUnscaled d && narrow (lSrcFmt d))
    || (lRot d != 0 && lPadded l d % rotSize (lRot d) != 0)
    || (lSrcRot d != 0 && lPadded l d % rotSize (lSrcRot d) != 0)
    || (lScaleSrc d == 1 && path != .deliver && !copy)
    || (lScaleSrc d == 2 && lDstFmt d != fW1 && lDstFmt d != fW2)
    || (lOutlier d != 0 && ((lDstFmt d != fFp4 && lDstFmt d != fG4) || path == .deliver || !lDelivers d))
    || (lDelivers d && decide (256 < lOutRows l d))

/-- The status of a command's own conditions. -/
def State.ladleStatus (s : State) (n : TileIx) (l op : Nat) (d : BitVec 512) : Nat :=
  statusOf (s.ladleBadLayout n l op d) (s.ladleBadScale n l d)

/-! Outliers (R96, R97, R99, R100). -/

/-- m_k: the largest finite magnitude of a channel. -/
def channelMax (x : Values) (c : Nat) : Fv :=
  x.foldl (fun m r => match r[c]? with
    | some v => if isFin32 v then maxFv m (absFv (fv32 v)) else m
    | none => m) (.fin false 0 0)

/-- Candidates of the 256-channel block b with their m_k, ascending. -/
def candidates (x : Values) (cols : Nat) (th : Fv) (b : Nat) : List (Nat × Fv) :=
  (((List.range 256).map (fun i => 256 * b + i)).filter (fun c => decide (c < cols))).filterMap (fun c =>
    let m := channelMax x c
    if ltFv th m then some (c, m) else none)

/-- A candidate goes to the Sprue: fewer than the budget rank before it (R97). -/
def onSprue (budget : Nat) (l : List (Nat × Fv)) (e : Nat × Fv) : Bool :=
  decide ((l.filter (fun f => ltFv e.2 f.2 || (eqFv e.2 f.2 && decide (f.1 < e.1)))).length < budget)

/-- What outlier handling selects: per block, Sprue channels, spilled channels that run, all spilled; the groups written with their numbers. -/
structure Outliers where
  sprue : List (List Nat)
  run : List (List Nat)
  spilled : Nat
  maxCand : Nat
  groups : List (List Nat)
  capped : Bool
  deriving DecidableEq, Repr

def noOutliers : Outliers := ⟨[], [], 0, 0, [], false⟩

/-- Selection over the blocks of a command (R97, R99, R100). -/
def selectOutliers (x : Values) (cols : Nat) (th : Fv) (budget cap : Nat) : Outliers :=
  (List.range ((cols + 255) / 256)).foldl (fun o b =>
    let cs := candidates x cols th b
    let sel := (cs.filter (onSprue budget cs)).map (fun e => e.1)
    let sp := (cs.filter (fun e => !onSprue budget cs e)).map (fun e => e.1)
    let gs := chunksOf 16 sp.length sp
    let ok := gs.take (cap - o.groups.length)
    { sprue := o.sprue ++ [sel], run := o.run ++ [ok.flatten], spilled := o.spilled + sp.length
      maxCand := Nat.max o.maxCand cs.length, groups := o.groups ++ ok
      capped := o.capped || decide (ok.length < gs.length) }) noOutliers

/-- Every channel is on the Sprue: OUTLIER taken as the whole reduction block (R154, R254). -/
def wholeOutliers (cols : Nat) : Outliers :=
  let l := (List.range ((cols + 255) / 256)).map (fun b => ((List.range 256).map (fun i => 256 * b + i)).filter (fun c => decide (c < cols)))
  ⟨l, l.map (fun _ => []), 0, 0, [], false⟩

/-- The values of a channel, by row. -/
def channelOf (x : Values) (c : Nat) : List U32 := x.map (fun r => r.getD c 0)

/-- A channel quantised with one scale for every `per` rows, derived with no clip (R98, R99). -/
def quantChannel (m : Rnd) (st : Fv) (per c : Nat) (v : List U32) : List Nat × List Elem :=
  let parts := chunksOf per v.length v
  let scales := parts.map (fun p => deriveScale m.fmt st (p.map (fun e => (fv32 e, Fv.inf false))))
  (scales, v.zipIdx.map (fun e =>
    let sc := scales.getD (e.2 / per) 0
    if sc == 0 then ⟨0, false, false, !isFin32 e.1⟩ else quantise m.fmt m.rnd (m.draw e.2 c) m.ovf (quantK (ue5m3Value sc) st) (fv32 e.1)))

/-- The 2,112 bytes of a spill group (R99). -/
def spillBytes (g : List EscCh) : List Byte :=
  let codes := packElems 4 ((g.zipIdx.map (fun e => e.1.codes.zipIdx.map (fun c => (16 * c.2 + e.2, c.1)))).flatten)
  let scales := sliceBytes (g.map (fun (e : EscCh) => BitVec.ofNat 8 e.scale)) 0 16
  let chans := ((g.map (fun (e : EscCh) => e.chan)) ++ List.replicate (16 - g.length) 0xFFFF).map (fun c => leBytes 2 c)
  leBytes 2048 codes ++ scales ++ chans.flatten ++ leBytes 16 0

/-! The clip mask (R92). -/

/-- A finite magnitude beyond its clip value, on the main path. -/
def clipped (clip : Nat → Fv) (off : Nat → Bool) (c : Nat) (x : U32) : Bool :=
  !off c && isFin32 x && ltFv (clip c) (absFv (fv32 x))

/-- Bytes of the mask of block row i over the channels; a row-order operand has one row a block. -/
def maskBytes (b : Blocking) (clip : Nat → Fv) (off : Nat → Bool) (cols i : Nat) (x : Values) : List Byte :=
  let bits := (((x.drop (b.bh * i)).take b.bh).zipIdx.map (fun r => r.1.zipIdx.map (fun e =>
    (64 * (e.2 / b.bw) + b.bw % 64 * r.2 + e.2 % b.bw, b2n (clipped clip off e.2 e.1))))).flatten
  leBytes (8 * ((cols + b.bw - 1) / b.bw)) (packElems 1 bits)

/-! Conversion (R82). -/

/-- A converted matrix: codes and scales, what left the main path, the bytes written besides, the counts and flags. -/
structure Conv where
  elems : List (List Elem)
  scales : List (List Nat)
  blk : Blocking
  scaled : Bool
  sprue : List (List SprueCh)
  escapes : List (List EscCh)
  writes : List (Nat × List Byte)
  cnt : Cnt
  out : Outliers
  lflags : Nat
  deriving DecidableEq, Repr

/-- Steps 2 and 3 of R82: values in the basis ROT with the reduction axis as columns, and whether a rotation was applied. -/
def rotateSource (l : Nat) (d : BitVec 512) (x : Values) : Values × Bool :=
  let nr := rotSize (lRot d)
  let ns := rotSize (lSrcRot d)
  if l == 2 then
    let u := x.map (rotRow ns)
    ((transposeOf (lCols d) u).map (rotRow nr), nr != 0 || ns != 0)
  else if nr == ns then (x, false)
  else (x.map (fun r => rotRow nr (rotRow ns r)), true)

/-- The element index of a result's element: its source coordinates (R62). -/
def srcIndex (l : Nat) (d : BitVec 512) (r c : Nat) : Nat := if l == 2 then c * lCols d + r else r * lCols d + c

/-- Steps 4 to 6 of R82 over the values of step 3, with the clip values of the channels, at step number `step`; `whole`: every channel goes to the
Sprue. -/
def convertValues (l : Nat) (d : BitVec 512) (whole : Bool) (clips : List U32) (step : Nat) (x0 : Values) : Conv :=
  let (x, rotated) := rotateSource l d x0
  let cols := lOutCols l d
  let st := fv32 (if lDelivers d then lStIn d else lStOut d)
  let two := ladlePath l d == .two
  let rnd := if two && rndMode (lRnd d) == 2 then 0 else lRnd d
  let draw := fun (r c : Nat) => if rndMode rnd == 2 then srDraw step (lTag d % 2 ^ 24) (srcIndex l d r c) else 0
  let m : Rnd := ⟨lDstFmt d, rnd, lOvf d, draw⟩
  let o := if whole then wholeOutliers cols else if lOutlier d == 0 then noOutliers else
    selectOutliers x cols (fv32 (lThresh d)) (if lOutlier d == 1 then 16 else 32) (lSpillCap d)
  let off := fun (c : Nat) => (o.sprue.getD (c / 256) []).contains c || (o.run.getD (c / 256) []).contains c
  let clip := clipOf d clips
  let blk := if l ≤ 1 && lRowOrder d then rowBlocking else tileBlocking
  let scaled := lDstScaled d
  let scales := if scaled then scalesOf (lDstFmt d) (lScaleSrc d == 2) st blk clip off cols x else []
  let elems := quantRows m scaled st blk scales off x
  let spr := o.sprue.map (fun b => b.map (fun c =>
    let (sc, es) := quantChannel { m with fmt := lSprueFmt d } st 64 c (channelOf x c)
    ((⟨c, es.map (fun (e : Elem) => e.code), sc⟩ : SprueCh), es)))
  let escOf := fun (c : Nat) =>
    let (sc, es) := quantChannel m st (x.length + 1) c (channelOf x c)
    ((⟨c, es.map (fun (e : Elem) => e.code), sc.headD 0⟩ : EscCh), es)
  let esc := o.run.map (fun b => b.map escOf)
  let cnt := countRows (elems ++ (spr.map (fun b => b.map (fun e => e.2))).flatten ++ (esc.map (fun b => b.map (fun e => e.2))).flatten)
  let anyClip := x.any (fun r => r.zipIdx.any (fun e => clipped clip off e.2 e.1))
  let mask := if lClipMask d then
      (List.range ((x.length + blk.bh - 1) / blk.bh)).map (fun i => (lMaskBase d + 8 * (i * lDstPitch d), maskBytes blk clip off cols i x))
    else []
  let spills := o.groups.zipIdx.map (fun g => (lSpillBase d + 2112 * g.2, spillBytes (g.1.map (fun c => (escOf c).1))))
  let twoPass := o.sprue.any (fun b => decide (16 < b.length))
  { elems := elems, scales := scales, blk := blk, scaled := scaled, sprue := spr.map (fun b => b.map (fun e => e.1))
    escapes := esc.map (fun b => b.map (fun e => e.1)), writes := mask ++ spills, cnt := cnt, out := o
    lflags := b2n (o.spilled != 0) + 2 * b2n o.capped + 4 * b2n twoPass + 16 * b2n anyClip + 32 * b2n rotated + 64 * b2n two }

/-- Codes with their scale codes. -/
def Conv.coded (c : Conv) : Coded :=
  c.elems.zipIdx.map (fun r => r.1.zipIdx.map (fun e =>
    (e.1.code, if c.scaled then (c.scales.getD (r.2 / c.blk.bh) []).getD (e.2 / c.blk.bw) 0 else 0x78)))

/-! The record and the registers (R103, R105). -/

/-- What a Ladle command reports. -/
structure LRep where
  status : Nat
  cnt : Cnt
  outlierCh : Nat
  spillCh : Nat
  escPasses : Nat
  maxCand : Nat
  lflags : Nat
  deriving DecidableEq, Repr

def refusedRep (status lflags : Nat) : LRep := ⟨status, Cnt.zero, 0, 0, 0, 0, lflags⟩

def listTotal (l : List (List Nat)) : Nat := (l.map (fun b => b.length)).foldl (· + ·) 0

def Conv.rep (c : Conv) : LRep :=
  ⟨stOk, c.cnt, listTotal c.out.sprue, c.out.spilled, c.out.groups.length, c.out.maxCand, c.lflags⟩

/-- The record of R105. -/
def ladleRecord (l : Nat) (d : BitVec 512) (r : LRep) : BitVec 256 :=
  recordBits (lTag d + (lLayer d + l * 2 ^ 14) * 2 ^ 32 + sat16 r.outlierCh * 2 ^ 48 + sat16 r.spillCh * 2 ^ 64 + sat16 r.escPasses * 2 ^ 80
    + sat16 r.maxCand * 2 ^ 96 + r.lflags * 2 ^ 112) (numStatus r.cnt r.status)

/-- A Ladle command ends: record, sticky flags, counts of the step, the layer's spill and saturation (R74, R103, R242). -/
def State.ladleEnd (s : State) (n : TileIx) (l : Nat) (d : BitVec 512) (r : LRep) : State :=
  let k := n.val
  let s1 := if r.status == stOk then
      let a := (((s.flagIf (r.cnt.sat != 0) (F.TILE_LDL_STAT_SAT k)).flagIf (r.cnt.flush != 0) (F.TILE_LDL_STAT_FLUSH k)).flagIf
        (r.cnt.nonfin != 0) (F.TILE_LDL_STAT_NONFIN k)).flagIf (bit r.lflags 0) (F.TILE_LDL_STAT_OUTLIER_SPILL k)
      let b := a.flagIf (bit r.lflags 1) (F.TILE_LDL_STAT_ESCAPE_CAP k)
      let c := (b.bump (F.TILE_LDL_STEP_SPILL_CH k) r.spillCh).bump (F.TILE_LDL_STEP_ESC_PASSES k) r.escPasses
      if r.spillCh != 0 then c.set (F.TILE_LDL_STEP_LAST_SPILL_LAYER k) (lLayer d) else c
    else
      let a := (s.flagIf (r.status == stLayout) (F.TILE_LDL_STAT_BAD_LAYOUT k)).flagIf (r.status == stScale) (F.TILE_LDL_STAT_BAD_SCALE k)
      ((a.flagIf (bit r.lflags 3) (F.TILE_LDL_STAT_BASIS_MISMATCH k)).set (F.TILE_LDL_STAT_LAST_REFUSED_TAG k) (lTag d)).set
        (F.TILE_LDL_STAT_LAST_REFUSED_LADLE k) l
  let s2 := s1.modTile n (fun t => { t with
    spill := if r.spillCh != 0 then NatSet.add t.spill (lLayer d) else t.spill
    sat := Sparse.put t.sat (lLayer d) (Sparse.getD t.sat (lLayer d) 0 + r.cnt.sat) 0 })
  let s3 := (s2.sticky n r.cnt.nonfin false).complete n k (ladleRecord l d r)
  ((s3.perfLadle k l 0x13 1).perfLadle k l 0x14 r.cnt.sat).perfLadle k l 0x15 r.cnt.flush |>.perfEvent k 0x16 r.spillCh

/-! The rung of the layer (R154, R254). -/

/-- Rung `r` changes the layer's commands: it is allowed and not above the layer's rung, in a training step. From rung 6 on rungs 1 to 5 no longer
apply. -/
def State.rungOn (s : State) (layer r : Nat) : Bool :=
  match s.ladder[layer]?, s.ladderEntries[layer]? with
  | some x, some e => s.period.stepActive && decide (r ≤ x.rung ∧ x.rung ≤ 5) && rungAllowed e r
  | _, _ => false

/-- ROT_R0 and ROT_R1 of a layer. -/
def State.layerRots (s : State) (layer : Nat) : Nat × Nat :=
  match s.ladderEntries[layer]? with | some e => (e.rotR0.toNat, e.rotR1.toNat) | none => (0, 0)

/-- Gradients between layers are in FP4 (rungs 3 and 4 of R154). -/
def State.gradFp4 (s : State) (layer : Nat) : Bool := s.rungOn layer 3 || s.rungOn layer 4

/-- A descriptor with `w` bits from bit `lo` of word `k` replaced. -/
def setDesc {n : Nat} (d : BitVec n) (k lo w v : Nat) : BitVec n :=
  let b := 64 * k + lo
  BitVec.ofNat n (d.toNat - d.toNat / 2 ^ b % 2 ^ w * 2 ^ b + v % 2 ^ w * 2 ^ b)

/-- A G4 format field becomes FP4. -/
def g4Field {n : Nat} (d : BitVec n) (lo : Nat) : BitVec n := if dfld d 0 (lo + 3) lo == fG4 then setDesc d 0 lo 4 fFp4 else d

/-- The operand goes to the Sprue as the whole reduction block: from rung 4 the gradient of a weight-gradient product, on Ladle B once the layer's
backward pass has begun; in rung 5 the activation side of a forward product, on Ladle A before that (DEDUCED, log entry 82). -/
def State.wholeBlock (s : State) (n : TileIx) (l : Nat) (d : BitVec 512) : Bool :=
  let back := s.mem.reached.contains (64 * lLayer d + n.val)
  lOp d == opOperandIn && (lDstFmt d == fFp4 || lDstFmt d == fG4) &&
    ((l == 1 && back && s.rungOn (lLayer d) 4) || (l == 0 && !back && s.rungOn (lLayer d) 5))

/-- A Ladle command as the Timetable changes it for the rung of its layer (R154, R254). One that already follows the rung is unchanged. -/
def State.rungLadle (s : State) (n : TileIx) (l : Nat) (d : BitVec 512) : BitVec 512 :=
  let k := lLayer d
  let rot := s.layerRots k
  let d1 := if lDelivers d && s.rungOn k 1 && lRot d == rot.1 then setDesc d 0 30 2 rot.2 else d
  let d2 := if lOutlier d1 == 1 && s.rungOn k 2 then setDesc d1 0 22 2 2 else d1
  let d3 := if s.gradFp4 k then g4Field (g4Field d2 40) 36 else d2
  let d4 := if s.wholeBlock n l d3 then setDesc (setDesc (setDesc d3 0 22 2 2) 5 32 32 0) 0 21 1 (if l == 1 then 1 else 0) else d3
  if d4 != d && lScaleSrc d4 == 1 && (lOutlier d4 != 0 || ladlePath l d4 != .deliver) then setDesc d4 0 26 2 0 else d4

/-! The commands. -/

def operandRefused (l : Nat) (d : BitVec 512) (status : Nat) : Operand :=
  ⟨d, l, status, 0, 0, [], [], [], [], 0, 0, 0, 0, 0, 0, 0, 0, false⟩

/-- The operand that OPERAND_IN or TRANSPOSE_IN delivers (R81 to R100). -/
def State.makeOperand (s : State) (n : TileIx) (l op : Nat) (d : BitVec 512) : State × Operand :=
  let status := s.ladleStatus n l op d
  if status != stOk then (s, operandRefused l d status) else
  let clips := s.clipList n l d
  let (s1, src, bad) := (s.clipRead n l d).readPlane n (lSource d) (lRows d) (lCols d)
  if ladlePath l d == .deliver then
    (s1, ⟨d, l, stOk, lOutRows l d, lOutCols l d, if l == 2 then transposeOf (lCols d) src else src, [], [], [], 0, 0, 0, 0, 0, 0, 0, 0, bad⟩)
  else
    let c := convertValues l d (s.wholeBlock n l d) clips s.stepNo (valuesOf (lSrcFmt d) (lScaled d) (fv32 (lStIn d)) src)
    let r := c.rep
    (s1, ⟨d, l, stOk, lOutRows l d, lOutCols l d, c.coded, c.sprue, c.escapes, c.writes, r.cnt.sat, r.cnt.flush, r.cnt.nonfin, r.outlierCh,
      r.spillCh, r.escPasses, r.maxCand, r.lflags, bad⟩)

/-- Ladle l puts an operand at the port it delivers to. -/
def TileSt.pushPort (t : TileSt) (l : Nat) (o : Operand) : TileSt :=
  if l == 0 then { t with portA := t.portA ++ [o] }
  else if l == 1 then { t with portB := t.portB ++ [o] }
  else { t with portT := t.portT ++ [o] }

/-- An operand command (R78). One that its own conditions refuse reports at once; what an accepted one writes waits for its matrix command
(R80). A Ladle that delivers nothing only refuses. -/
def State.opOperand (s : State) (n : TileIx) (l op : Nat) (d0 : BitVec 512) : State :=
  let d := s.rungLadle n l d0
  let s0 := if op == opTransposeIn then (s.setLayer n (lLayer d)).reachLayer n (lLayer d) else s.setLayer n (lLayer d)
  let (s1, o) := s0.makeOperand n l op d
  let s2 := if o.status != stOk then s1.ladleEnd n l d (refusedRep o.status 0) else s1
  if l == 3 then s2 else s2.modTile n (fun t => t.pushPort l o)

/-- The report held with an operand. -/
def Operand.rep (o : Operand) : LRep := ⟨o.status, ⟨o.sat, o.flush, o.nonfin⟩, o.outlierCh, o.spillCh, o.escPasses, o.maxCand, o.lflags⟩

/-- The matrix command takes an operand: its Ladle command is carried out, or is refused after all with `status` (R80). -/
def State.operandTaken (s : State) (n : TileIx) (o : Operand) (status lflags : Nat) : State :=
  if o.status != stOk then s
  else if status != stOk then s.ladleEnd n o.ladle o.d (refusedRep status lflags)
  else (s.forEach o.writes (fun s w => s.tmWrite n w.1 w.2 o.poison)).ladleEnd n o.ladle o.d o.rep

/-- CONVERT (R78, R81, R93): through the T Ladle into tile memory. -/
def State.opConvertCmd (s : State) (n : TileIx) (l : Nat) (d0 : BitVec 512) : State :=
  let d := s.rungLadle n l d0
  let s0 := s.setLayer n (lLayer d)
  let status := s0.ladleStatus n l opConvert d
  if status != stOk then s0.ladleEnd n l d (refusedRep status 0) else
  let clips := s0.clipList n l d
  let (s1, src, bad) := (s0.clipRead n l d).readPlane n (lSource d) (lRows d) (lCols d)
  let dst := lDest l d false
  if ladlePath l d == .deliver then
    let x := transposeOf (lCols d) src
    let scales := (List.range (blocks8 (lCols d))).map (fun i => (List.range (blocks8 (lRows d))).map (fun j =>
      ((x.getD (8 * i) []).getD (8 * j) (0, 0)).2))
    (s1.writePlane n dst (lRows d) (x.map (fun r => r.map (fun e => e.1))) scales bad).ladleEnd n l d ⟨stOk, Cnt.zero, 0, 0, 0, 0, 0⟩
  else
    let c := convertValues l d false clips s.stepNo (valuesOf (lSrcFmt d) (lScaled d) (fv32 (lStIn d)) src)
    let s2 := s1.forEach c.writes (fun s w => s.tmWrite n w.1 w.2 bad)
    (s2.writePlane n dst (lOutCols l d) (c.elems.map (fun r => r.map (fun e => e.code))) c.scales bad).ladleEnd n l d c.rep

/-- LIVE_SLOTS and PEAK_SLOTS follow the slots. -/
def State.liveSlots (s : State) (n : TileIx) : State :=
  let k := ((s.tile n).cru.toList.filter (fun c => c.live)).length
  (s.set (F.TILE_MX_CRU_LIVE_SLOTS n.val) k).set (F.TILE_MX_CRU_PEAK_SLOTS n.val) (Nat.max k (s.get (F.TILE_MX_CRU_PEAK_SLOTS n.val)))

/-- A slot, or the pair of a compensated tile, is read: closed slots are live no more. -/
def State.slotRead (s : State) (n : TileIx) (slot : Nat) : State :=
  let b := s.pairBase n slot
  let pair := ((s.tile n).cru[slotIx slot]).fmt == 1
  (s.modTile n (fun t => { t with cru := t.cru.mapIdx (fun i c =>
    if i == b || (pair && i == b + 1) then { c with live := c.live && !c.closed } else c) })).liveSlots n

/-- RESULT_OUT (R94): the slot's entries to tile memory; the status of a refused operation on the slot is reported (R80, R113). Positions that the
operands lacked read as zero (R110). The copy of INT32 entries converts nothing: no mask plane is written, whatever CLIPMASK (DESIGN CHOICE, log
entry 54). -/
def State.opResultOutCmd (s : State) (n : TileIx) (l : Nat) (d0 : BitVec 512) : State :=
  let d := s.rungLadle n l d0
  let s0 := s.setLayer n (lLayer d)
  let own := s0.ladleStatus n l opResultOut d
  let slot := lSrcBase d
  let held := if l == 3 && decide (slot < 128) then ((s0.tile n).cru[slotIx slot]).bad else stOk
  let status := Nat.max own held
  if status != stOk then s0.ladleEnd n l d (refusedRep status 0) else
  let c := (s0.tile n).cru[slotIx slot]
  let w := if c.words.isEmpty then lCols d else shapeCols c.shape
  let at_ := fun (r j : Nat) => r * w + j
  let dst := lDest l d (s0.intCopy n l d)
  let inside := fun (r j : Nat) => c.words.isEmpty || decide (r < c.rows ∧ j < c.cols)
  let grid := fun (f : Nat → U32) => (List.range (lRows d)).map (fun r => (List.range (lCols d)).map (fun j =>
    if inside r j then f (at_ r j) else 0#32))
  if s0.intCopy n l d then
    let raw := (grid (fun e => (s0.cruEntry n slot e).1)).map (fun r => r.map (fun x => x.toNat))
    ((s0.writePlane n dst (lCols d) raw [] false).slotRead n slot).ladleEnd n l d ⟨stOk, Cnt.zero, 0, 0, 0, 0, 0⟩
  else
    let x := grid (fun e => mul32 (s0.cruValue n slot e) (lStIn d))
    let v := convertValues l d false (s0.clipList n l d) s.stepNo x
    let s1 := (s0.clipRead n l d).forEach v.writes (fun s e => s.tmWrite n e.1 e.2 false)
    let s2 := s1.writePlane n dst (lCols d) (v.elems.map (fun r => r.map (fun e => e.code))) v.scales false
    (s2.slotRead n slot).ladleEnd n l d v.rep

end Sys2Proof.Machine
end

