-- ==== Sys2Proof/Machine/PowerOps.lean ====
section
/-! DEFINITION. The Reckoner's trips (R317, R319), thermal caps (R318), grants (R312) and the choice of work items (R320, R321). -/

namespace Sys2Proof.Machine

/-! Trips. -/

/-- The module trips (R317, R319): its record is posted, every domain but the always-on island and CXL is turned OFF, and it stays so until
the next start. -/
def State.trip (s : State) (flagF : Field) (kind : Nat) : State :=
  if s.tripped then s else
  let s1 := s.post clsPower 0 3 kind 0 0
  (s1.allOff [domCxl]).flag flagF

/-! Heat (R318). Temperatures are in units of 0.25 °C. -/

/-- floor(r × f) for the derating factor of a temperature t with warning w and top. -/
def derate (r t w top : Nat) : Nat :=
  if t < w then r else if top ≤ t then 0 else r * (top - t) / (top - w)

def listMax (l : List Nat) : Nat := l.foldl Nat.max 0

/-- The lowest index that holds the largest value. -/
def listArgMax (l : List Nat) : Nat := l.findIdx (fun x => x == listMax l)

/-- thermal_cap of domain d for a request r. -/
def thermalCap (jw dw : Nat) (tile stack : List Nat) (d r : Nat) : Nat :=
  let j := fun (t : Nat) => derate r t jw 420
  let m := fun (t : Nat) => derate r t dw 380
  if d < 64 then Nat.min (j (tile.getD d 0)) (m (stack.getD (d / 2) 0))
  else if 103 ≤ d ∧ d ≤ 134 then m (stack.getD (d - 103) 0)
  else j (listMax tile)

/-! Grants (R312). -/

/-- A domain that dynamic power is granted to (R310). -/
def dynDom (d : Nat) : Bool := decide (d ≤ 100) || decide (102 ≤ d ∧ d ≤ 152)

/-- What a domain requests in a class. -/
def reqOf (l : List PowerReq) (d cls : Nat) : Nat :=
  ((l.filter (fun r => r.dom.val == d && r.cls == cls)).map (fun r => r.watts)).foldl (· + ·) 0

/-- Hand out what is left one watt a domain from the rotating start. One turn is enough: less is left than there are domains with a request,
and each of those is below its request. -/
def spreadLeft (req : List Nat) : List Nat → Nat → List Nat → List Nat
  | [], _, g => g
  | d :: ds, left, g =>
    if left = 0 then g
    else if g.getD d 0 < req.getD d 0 then spreadLeft req ds (left - 1) (g.set d (g.getD d 0 + 1))
    else spreadLeft req ds left g

/-- Grants of one class from what is available: grants and what remains. -/
def grantClass (k avail : Nat) (req : List Nat) : List Nat × Nat :=
  let total := req.foldl (· + ·) 0
  if total ≤ avail then (req, avail - total)
  else
    let g := req.map (fun r => r * avail / total)
    let left := avail - g.foldl (· + ·) 0
    (spreadLeft req ((List.range 155).map (fun i => (k + i) % 155)) left g, 0)

/-! CREDIT (R313): two's complement in 24 bits. -/

def State.credit (s : State) : Int := toSigned 24 (s.get F.PWR_STAT_CREDIT)

def State.setCredit (s : State) (c : Int) : State :=
  s.set F.PWR_STAT_CREDIT (ofSigned 24 (max (-8388608) (min 8388607 c)))

/-- The most that CREDIT may be under a limit. -/
def State.creditMax (s : State) (limit : Nat) : Nat := (s.get F.PWR_LIMIT_PEAK_LIMIT - limit) * 1000

/-! The schedule. -/

/-- The work items of the plan for a phase, in plan order. -/
def State.planItems (s : State) (phase : Nat) : List WorkItem :=
  match s.wb with
  | some w => w.data.plan.items.filter (fun i => i.phase == phase)
  | none => []

/-- The plan's items of the current phase. -/
def State.curItems (s : State) : List WorkItem := s.planItems (s.get F.MGT_PERIOD_STAT_PHASE)

/-- Begin with the items of a phase, each on the tile it is bound to (R31): none has run. -/
def State.loadItems (s : State) (phase : Nat) : State :=
  { s with power := { s.power with
      items := (s.planItems phase).map (fun i => ⟨i.id, 0, false, false, false, s.bindTile i.tile.val, 0⟩), reserved := 0 } }

def State.itemSt (s : State) (id : Nat) : Option ItemSt := s.power.items.find? (fun x => x.id == id)

def State.modItem (s : State) (id : Nat) (f : ItemSt → ItemSt) : State :=
  { s with power := { s.power with items := s.power.items.map (fun x => if x.id == id then f x else x) } }

/-- An item is ready: not started, its tile not fenced since it was bound to it (R31), and every item of this phase that it waits for done
(R320). -/
def State.itemReady (s : State) (i : WorkItem) : Bool :=
  (match s.itemSt i.id with | some x => !x.running && !x.done && !s.tileFenced x.tile | none => false) &&
    i.after.all (fun a => match s.itemSt a with | some x => x.done | none => true)

/-- Power of the running items. -/
def State.runningPower (s : State) : Nat :=
  (s.curItems.map (fun i => match s.itemSt i.id with | some x => if x.running then i.power else 0 | none => 0)).foldl (· + ·) 0

/-- An item runs in burst. -/
def State.burstRunning (s : State) : Bool := s.power.items.any (fun x => x.running && x.burst)

/-- Tiles of a quadrant (R29). -/
def quadTiles (q : Nat) : List Nat :=
  let b := 16 * (q / 4) + 2 * (q % 4)
  [b, b + 1, b + 8, b + 9]

/-- Some quadrant or stack of the item would pass its warning (R321). -/
def State.itemHot (s : State) (i : WorkItem) : Bool :=
  let tt := s.power.tileTemp.toList
  let st := s.power.stackTemp.toList
  i.heatQ.any (fun h => decide (s.get F.PWR_THERM_JT_WARN < h.2 + listMax ((quadTiles h.1).map (fun n => tt.getD n 0)))) ||
    i.heatS.any (fun h => decide (s.get F.PWR_THERM_DT_WARN < h.2 + st.getD h.1 0))

/-- Duration of an item in grant intervals of 250 cycles of 25 MHz. -/
def itemIntervals (i : WorkItem) : Nat := Nat.max 1 ((i.duration * 8 + 249) / 250)

/-- CREDIT that no item reserves (R321): what running burst items still reserve, and what a brake kept (R323), is spoken for. -/
def State.freeCredit (s : State) : Int :=
  s.credit - ((s.power.reserved + (s.power.items.map (fun x => x.reserve)).foldl (· + ·) 0 : Nat) : Int)

/-- One pass of R321 over ready items. `first` holds for the first ready item; `headroom` falls by the power of each item started within it. -/
def scheduleLoop (base : Nat) : List WorkItem → Bool → Int → State → State
  | [], _, _, s => s
  | i :: rest, first, headroom, s =>
    let run := s.runningPower
    let limit := s.power.limit
    let dur := itemIntervals i
    let hot := s.itemHot i
    let burstNow := decide (0 < s.credit) && decide (s.get F.PWR_STAT_BURST_RUN < 1000) && !s.on F.PWR_STAT_BRAKE_ACTIVE
    let need : Int := ((base : Int) + run + i.power - limit) * dur
    let idle := !s.power.items.any (fun x => x.running)
    if !hot && decide ((i.power : Int) ≤ headroom) then
      scheduleLoop base rest false (headroom - i.power) (s.modItem i.id (fun x => { x with running := true }))
    else if !hot && i.burstOk && burstNow && decide (need ≤ s.freeCredit) && decide (s.get F.PWR_STAT_BURST_RUN + dur ≤ 1000) then
      scheduleLoop base rest false headroom (s.modItem i.id (fun x => { x with running := true, burst := true, reserve := need.toNat }))
    else if idle && first then
      let s1 := s.modItem i.id (fun x => { x with running := true })
      let s2 := s1.flag (if i.burstOk then F.PWR_STAT_BURST_DENIED else F.PWR_STAT_OVERSIZE)
      scheduleLoop base rest false headroom (s2.bump F.PWR_SCHED_OVERSIZE_STARTS 1)
    else
      let n := (match s.itemSt i.id with | some x => x.skips | none => 0) + 1
      let s1 := (s.modItem i.id (fun x => { x with skips := x.skips + 1 })).bump F.PWR_SCHED_SKIPS 1
      if s.get F.PWR_SCHED_SKIP_MAX ≤ n then s1.flag F.PWR_STAT_SKIP_BLOCK
      else scheduleLoop base rest false headroom s1

/-- The Timetable chooses work items (R321). -/
def State.schedule (s : State) : State :=
  let ready := (s.curItems.filter (fun i => s.itemReady i)).take (s.get F.PWR_SCHED_LOOKAHEAD)
  let base := s.get F.PWR_GRANT_BASE
  scheduleLoop base ready true ((s.power.limit : Int) - base - s.runningPower) s

/-- An item ends: what it reserved is free again (R321). -/
def State.endItem (s : State) (id : Nat) : State :=
  s.modItem id (fun x => { x with running := false, done := true, reserve := 0 })

/-- Energy granted above the limit is taken out of what running burst items reserve, in plan order. -/
def spendReserve : Nat → List ItemSt → List ItemSt
  | _, [] => []
  | e, x :: rest => { x with reserve := x.reserve - e } :: spendReserve (e - x.reserve) rest

/-- A burst ends under PWRBRK_N (R315): what its items reserve is not returned (R323). -/
def State.brakeItems (s : State) : State :=
  let kept := (s.power.items.map (fun x => x.reserve)).foldl (· + ·) 0
  { s with power := { s.power with
      items := s.power.items.map (fun x => { x with burst := false, reserve := 0 }), reserved := s.power.reserved + kept } }

/-- The class of a request (R311): that of the work item running on the tile; deferred entries, class 3, rise to class 2 once the tile drains. -/
def State.classOf (s : State) (r : PowerReq) : Nat :=
  let item := s.curItems.find? (fun i => match s.itemSt i.id with | some x => x.running && x.tile == r.dom.val | none => false)
  match allTiles.find? (fun n => n.val == r.dom.val), item with
  | some n, some i => if r.cls == 3 then (if (s.tile n).drain then 2 else 3) else i.cls
  | some n, none => if r.cls == 3 && (s.tile n).drain then 2 else r.cls
  | none, _ => r.cls

/-- Domain d is a fenced tile's or zoo engine's: it requests nothing (R323). -/
def State.domFenced (s : State) (d : Nat) : Bool :=
  if d < 64 then s.tileFenced d else decide (d < 100) && s.engFenced d

/-- The requests of an interval with their classes. -/
def State.classed (s : State) (inp : IntervalIn) : IntervalIn :=
  { inp with requests := (inp.requests.filter (fun r => !s.domFenced r.dom.val)).map (fun r => { r with cls := s.classOf r }) }

/-- Every item of the phase is done. -/
def State.itemsDone (s : State) : Bool := s.power.items.all (fun x => x.done)

end Sys2Proof.Machine
end

