-- ==== Sys2Proof/Machine/PeriodOps.lean ====
section
/-! DEFINITION. The phases of the period (R17 to R28): how each begins and ends, output buffers (R358), the health monitor (R383), and what
the boundary does to each kind of state (R27). -/

namespace Sys2Proof.Machine

def State.phase (s : State) : Nat := s.get F.MGT_PERIOD_STAT_PHASE

def State.setPhase (s : State) (p : Nat) : State := s.set F.MGT_PERIOD_STAT_PHASE p

/-- The plan of the Waybill in use. -/
def State.plan (s : State) : Option Plan := s.wb.map (fun w => w.data.plan)

/-- A late-work flag of MGT_PERIOD_STAT, with vector 2 (R26, R359). -/
def State.late (s : State) (f : Field) : State := s.cause f false 2

/-! Output buffers (R28, R352, R358). -/

/-- Some granule of the period's output buffer is in host bias. -/
def State.outBiased (s : State) : Bool :=
  let b := s.outBuffer
  s.mem.hostBias.any (fun g => decide (b.1 / 0x200000 ≤ g ∧ g < (b.1 + b.2) / 0x200000))

/-- HELD of the period's buffer. -/
def State.outHeldField (s : State) : Field :=
  if s.get F.MGT_PERIOD_STAT_PERIOD_NUM % 2 == 0 then F.MGT_OUT_HELD0 else F.MGT_OUT_HELD1

/-- The period's output buffer is open, or waits for its granule. -/
def State.outMark (s : State) (started wait : Bool) : State := { s with period := { s.period with outWait := wait, outStarted := started } }

/-- Step 2 of R358: HFLAGS is written with VALID clear, unless a granule is in host bias. -/
def State.outOpen (s : State) : State :=
  if s.outBiased then (s.flag F.MGT_HDM_BIAS_STALL).outMark s.period.outStarted true
  else (s.moduleWrite (s.outBuffer.1 + 14) [0] false).outMark true false

/-- Inference begins with the period's output buffer (R28). A restore publishes nothing (R403); an expelled module infers nothing (R381). -/
def State.outBegin (s : State) : State :=
  let s1 := { s with period := { s.period with outBlocked := false, outStarted := false, outWait := false, outPoison := false } }
  if s1.restoreBusy || s1.on F.FLT_STAT_EXPELLED then s1
  else if s1.on s1.outHeldField then
    let s2 := s1.late F.MGT_PERIOD_STAT_OUT_BLOCKED
    { s2 with period := { s2.period with outBlocked := true } }
  else s1.outOpen

/-- Output writes that wait for a granule go on once it returns (R352). -/
def State.outResume (s : State) : State :=
  if s.phase == 2 && s.period.outWait && !s.outBiased then s.outOpen else s

/-- Output writes wait for a granule in host bias. -/
def State.outStalled (s : State) : Bool := s.period.outWait || (s.period.outStarted && s.outBiased)

/-- Records complete: a prefix in plan order (R358). -/
def cellsDone (done : Nat → Bool) : List WorkItem → Nat
  | [] => 0
  | i :: rest => if done i.id then i.cells + cellsDone done rest else if i.cells = 0 then cellsDone done rest else 0

/-- The 64 B header with VALID clear (R358). -/
def State.outHeader (s : State) (late : Bool) : List Byte :=
  let cells := cellsDone (fun id => match s.itemSt id with | some x => x.done | none => false) s.curItems
  let p := s.plan
  let total := match p with | some p => p.cellsTotal | none => 0
  let rb := match p with | some p => p.recordBytes | none => 0
  leBytes 4 (s.get F.MGT_PERIOD_STAT_PERIOD_NUM) ++ leBytes 4 cells ++ leBytes 4 total ++ leBytes 2 rb
    ++ leBytes 1 (2 * b2n late + 4 * b2n s.period.outPoison) ++ leBytes 1 0 ++ leBytes 8 (s.get F.SEAL_STEP_STEP_COUNTER)
    ++ leBytes 8 s.periodStart ++ leBytes 32 0

/-- Steps 3 and 4 of R358: the header, the fence of R221, VALID, HELD, LAST_PERIOD and vector 0. -/
def State.outPublish (s : State) (late : Bool) : State :=
  if !s.period.outStarted || s.outStalled || s.restoreBusy then
    s.flagIf s.outStalled F.MGT_HDM_BIAS_STALL
  else
    let h := s.outHeader late
    let s1 := (s.moduleWrite s.outBuffer.1 h false).fence
    let s2 := s1.moduleWrite (s.outBuffer.1 + 14) [BitVec.ofNat 8 (1 + 2 * b2n late + 4 * b2n s.period.outPoison)] false
    let s3 := s2.set F.MGT_OUT_LAST_PERIOD (s2.get F.MGT_PERIOD_STAT_PERIOD_NUM)
    let s4 := s3.cause s3.outHeldField false 0
    s4.outMark false s4.period.outWait

/-! Self-test. -/

/-- Pinned frames that a sweep no longer reads leave (R379). -/
def State.unpin (s : State) : State :=
  { s with mem := { s.mem with returning := s.mem.pinned ++ s.mem.returning, pinned := [] } }

/-- A sweep without a verdict at the end of the training phase (R380). -/
def State.assayLate (s : State) : State :=
  match s.flt.assay with
  | none => s
  | some _ =>
    let s1 := ((s.flag F.FLT_STAT_ASSAY_LATE).bump F.FLT_ASSAY_STAT_LATE_COUNT 1).set F.FLT_ASSAY_STAT_RUN 0
    { s1.unpin with flt := { s1.flt with assay := none, roots := [] }, cast := { s1.cast with agree := [] } }

/-- What is left of a phase's work does not run in the next (R19): its items and its commands are cancelled, and writes that wait for a granule
end with it (R352). -/
def State.phaseOver (s : State) : State :=
  let s1 := s.dropItems.flushQueues
  { s1 with mem := { s1.mem with held := [] } }

/-- The self-test phase begins; with no work left it is sleep (R18, R375). -/
def State.enterSelfTest (s : State) : State :=
  let s1 := ((s.assayLate.phaseOver).setPhase 4).loadItems 4
  if s1.itemsDone then s1.setPhase 5 else s1.schedule

/-! Training. -/

/-- The planned step fits before TRAIN_DL (R22). -/
def State.stepFits (s : State) : Bool :=
  match s.plan with
  | some p => decide (s.phaseTick + p.stepTicks ≤ s.get F.MGT_PERIOD_CFG1_TRAIN_DL) && !s.period.ttFault
  | none => false

/-- When no step fits, the training phase ends (R22). -/
def State.trainCheck (s : State) : State :=
  if s.phase == 3 && !s.period.stepActive && !s.stepFits then s.enterSelfTest else s

/-- The training phase begins; an unresolved step without an answer is discarded (R249). -/
def State.enterTraining (s : State) : State := ((s.phaseOver.setPhase 3).queryDiscard).trainCheck

/-- TRAIN_DL passes with a step in flight (R26, R249). -/
def State.stepAtDeadline (s : State) : State :=
  if !s.period.stepActive then s
  else if s.seals.voted then
    let s1 := (s.set F.SEAL_STAT_SEAL_STATE 2).cause F.SEAL_STAT_UNRESOLVED false 3
    { s1 with period := { s1.period with stepActive := false } }
  else
    let s1 := s.dropStep.late F.MGT_PERIOD_STAT_STEP_DROPPED
    { s1 with period := { s1.period with droppedNow := s1.period.droppedNow + 1 }, seals := { s1.seals with late := true } }

/-- TRAIN_DL (R26, R294). -/
def State.trainEnd (s : State) : State :=
  let s1 := (s.stepAtDeadline.dropItems).abandonColls (fun c => c.phase == 3)
  if s1.phase == 3 then s1.enterSelfTest else s1

/-! Inference. -/

/-- Inference begins (R19, R358). -/
def State.enterInference (s : State) : State :=
  let s1 := s.phaseOver.setPhase 2
  let s2 := if s1.on F.FLT_STAT_EXPELLED then s1 else s1.loadItems 2
  s2.outBegin.schedule

/-- Inference has nothing left to do (R19, R352). A Timetable fault makes every phase late (R372). -/
def State.inferOver (s : State) : Bool := s.itemsDone && !s.outStalled && !s.period.ttFault

/-- INFER_DL in the inference phase (R26): INFER_LATE where its work is incomplete. -/
def State.inferLate (s : State) : State :=
  if s.phase != 2 then s
  else if s.inferOver && !s.coll.queue.any (fun c => c.phase == 2) then (s.outPublish false).enterTraining
  else (((s.late F.MGT_PERIOD_STAT_INFER_LATE).abandonColls (fun c => c.phase == 2)).outPublish true).enterTraining

/-! Ingest (R355, R357). -/

def allRings : List RingIx := List.finRange 8

def State.ring (s : State) (r : RingIx) : RingSt := s.period.rings[r]

def State.setRing (s : State) (r : RingIx) (x : RingSt) : State :=
  { s with period := { s.period with rings := s.period.rings.set r x } }

/-- A ring flag, with vector 2. -/
def State.ringFlag (s : State) (f : Field) : State := s.cause f false 2

/-- Reading of a ring stops for this period. -/
def State.stopRing (s : State) (r : RingIx) : State :=
  (s.setRing r { s.ring r with reading := false }).set (F.MGT_RING_STAT_ACTIVE r.val) 0

/-- A ring is read at this ingest: enabled, with a size and a count that do not disable it, and the link is up (R354, R360). -/
def State.ringEnabled (s : State) (r : RingIx) : Bool :=
  let l := s.get (F.MGT_RING_CTL_LOG2_REC r.val)
  s.on (F.MGT_RING_BASE_ENABLE r.val) && decide (10 ≤ l ∧ l ≤ 24) && decide (s.get (F.MGT_RING_CTL_REC_SIZE r.val) ≤ 4) && s.start.cxlUp

/-- PROD of one ring is read at the start of ingest (R355, R357). -/
def State.ringStart (s : State) (r : RingIx) (prod : Nat) : State :=
  let l := s.get (F.MGT_RING_CTL_LOG2_REC r.val)
  let cons := if (s.ring r).zeroCons then 0 else s.get (F.MGT_RING_CONS_CONS r.val)
  let x : RingSt := { base := s.get (F.MGT_RING_BASE_BASE r.val) * 4096, enable := s.ringEnabled r
                      recBytes := 64 * 2 ^ s.get (F.MGT_RING_CTL_REC_SIZE r.val), log2 := l, target := prod, reading := false
                      zeroCons := false }
  let s0 := if s.ringEnabled r then s.send (.hostRead x.base 8) else s
  let s1 := (s0.setRing r x).set (F.MGT_RING_CONS_CONS r.val) cons
  if !s.ringEnabled r then s1.set (F.MGT_RING_STAT_ACTIVE r.val) 0
  else if prod < cons then s1.ringFlag (F.MGT_RING_STAT_RING_BAD r.val)
  else
    let s2 := if 2 ^ l < prod - cons then
        ((s1.ringFlag (F.MGT_RING_STAT_OVERRUN r.val)).bump (F.MGT_RING_STAT_LOST r.val) (prod - cons - 2 ^ l)).set
          (F.MGT_RING_CONS_CONS r.val) (prod - 2 ^ l)
      else s1
    if cons == prod then s2
    else (s2.setRing r { x with reading := true }).set (F.MGT_RING_STAT_ACTIVE r.val) 1

/-- Every ring has reached the PROD read at the start of ingest, or has stopped (R19). -/
def State.ingestOver (s : State) : Bool := allRings.all (fun r => !(s.ring r).reading)

/-- The host address of record i of a ring (R354). -/
def RingSt.recordAt (x : RingSt) (i : Nat) : Nat := x.base + 4096 + i % 2 ^ x.log2 * x.recBytes

/-- INGEST_DL in the ingest phase (R26): INGEST_LATE where records are left; they stay in the rings. A collective of the phase ends with it
(R294). -/
def State.ingestLate (s : State) : State :=
  if s.phase != 1 then s else
  let s1 := s.forEach allRings (fun s r => if (s.ring r).reading then s.stopRing r else s)
  let open_ := !s.ingestOver || s.period.ttFault || s.coll.queue.any (fun c => c.phase == 1)
  ((if open_ then s1.late F.MGT_PERIOD_STAT_INGEST_LATE else s1).abandonColls (fun c => c.phase == 1)).enterInference

/-! Deadlines passed together. -/

/-- Every phase that has not ended is late (R26, R372). -/
def State.closePhases (s : State) : State :=
  let s1 := s.ingestLate.inferLate
  if s1.phase == 3 || s1.period.stepActive then s1.trainEnd else s1

/-- A Timetable core's first fault (R372): every phase of the period is late; a seal in flight is settled by R249. -/
def State.timetableFault (s : State) : State :=
  let recent := match s.period.ttFaultAt with
    | some t => decide (s.aon < t + 3125000)
    | none => false
  if recent then s.moduleFailed else
  let s1 := s.flag F.FLT_STAT_TT_RESTART
  let s2 := { s1 with period := { s1.period with ttFault := true, ttFaultAt := some s1.aon } }
  if s2.running then s2.closePhases else s2

/-! The health monitor (R383). -/

/-- Events of the last hour in a log of always-on ticks. -/
def State.lastHour (s : State) (l : List Nat) : Nat := (l.filter (fun t => decide (s.aon < t + 11250000000))).length

def clamp255 (n : Nat) : Nat := Nat.min 255 n

/-- The score, its components, and the request of a cast (R383). -/
def State.health (s : State) : State :=
  let corr := clamp255 ((s.lastHour (s.mem.corrLog.map (fun e => e.1)) + s.lastHour s.flt.sramLog) / 64)
  let excess := Nat.max ((s.power.jtPeak + 40 - s.get F.PWR_THERM_JT_WARN) / 4) ((s.power.dtPeak + 40 - s.get F.PWR_THERM_DT_WARN) / 4)
  let temp := clamp255 (8 * excess)
  let droop := clamp255 (s.lastHour s.flt.droopLog / 16)
  let link := clamp255 (8 * s.lastHour s.flt.retrainLog)
  let nbr := clamp255 (32 * s.lastHour s.flt.downLog + 64 * s.lastHour s.flt.nbrLog)
  let score := clamp255 ((s.get F.FLT_HEALTH_CFG_W_CORR * corr + s.get F.FLT_HEALTH_CFG_W_TEMP * temp +
    s.get F.FLT_HEALTH_CFG_W_DROOP * droop + s.get F.FLT_HEALTH_CFG_W_LINK * link + s.get F.FLT_HEALTH_CFG_W_NBR * nbr) / 16)
  let was := s.get F.FLT_HEALTH_SCORE
  let th := s.get F.FLT_HEALTH_CFG_CAST_THRESH
  let s1 := ((((s.set F.FLT_HEALTH_C_CORR corr).set F.FLT_HEALTH_C_TEMP temp).set F.FLT_HEALTH_C_DROOP droop).set
    F.FLT_HEALTH_C_LINK link).set F.FLT_HEALTH_C_NBR nbr
  let s2 := (s1.set F.FLT_HEALTH_SCORE score).flagIf (decide (was < th ∧ th ≤ score)) F.FLT_STAT_HEALTH_CROSS
  let s3 := { s2 with power := { s2.power with jtPeak := 0, dtPeak := 0 } }
  if th ≤ score && s3.on F.FLT_HEALTH_ARMED then (s3.set F.FLT_HEALTH_ARMED 0).castTrigger
  else if score + s.get F.FLT_HEALTH_CFG_HYST < th then s3.set F.FLT_HEALTH_ARMED 1
  else s3

/-! The boundary (R18, R25, R27). -/

/-- The counting fields of a tile's registers start from zero at a step boundary, and TILEn_MX_CFG takes effect. -/
def State.tileCounts (s : State) (n : TileIx) : State :=
  let k := n.val
  let s0 := (s.set (F.TILE_LDL_STEP_SPILL_CH k) 0).set (F.TILE_LDL_STEP_ESC_PASSES k) 0
  let s1 := (s0.set (F.TILE_SPRUE_STAT_SPRUE_PASSES k) 0).set (F.TILE_SPRUE_STAT_TWO_PASS_BLOCKS k) 0
  let s2 := ((s1.set (F.TILE_MX_CKS_FAIL_OPS_STEP k) 0).set (F.TILE_MX_CRU_LIVE_SLOTS k) 0).set (F.TILE_MX_CRU_PEAK_SLOTS k) 0
  let s3 := (s2.set (F.TILE_DWQ_STAT_FORCED k) 0).set (F.TILE_DWQ_STAT_PEAK_DEPTH k) (s2.get (F.TILE_DWQ_STAT_DEPTH k))
  let s4 := ((s3.set (F.TILE_UPD_STAT_SHADOW_PAGES k) 0).set (F.TILE_UPD_STAT_RANGE_CLAMP k) 0).set (F.TILE_UPD_STAT_RESID_SAT k) 0
  s4.modTile n (fun t => { t with cru := t.cru.map (fun c => { c with live := false }), mxCfg := s4.rd (0x100300 + k * 0x10000) })

/-- The counting fields of the engines and of COLL_CNT start from zero at a step boundary. -/
def State.engineCounts (s : State) : State :=
  let s1 := s.forEach (List.range 16) (fun s q => s.set (F.ENG_WAY_STAT_ROWS_STEP q) 0)
  let s2 := s1.forEach (List.range 8) (fun s e => (s.set (F.ENG_TAL_STAT_SEGS_STEP e) 0).set (F.ENG_KIL_STAT_ELEMS_STEP e) 0)
  s2.wr 0xA0008 0

/-- What a step boundary does to every count of the step. -/
def State.stepCounts (s : State) : State :=
  (s.forEach (allTiles.filter (fun n => !s.tileFenced n.val)) (fun s n => s.tileCounts n)).engineCounts

/-- Per-tile state at the boundary: tile memory and the Crucible's contents are undefined (R27). -/
def State.tileBoundary (s : State) (n : TileIx) : State :=
  s.modTile n (fun t => { t with
    mem := [], poison := [], part := none, parts := []
    cru := t.cru.map (fun c => { c with words := [], closed := false, live := false, bad := 0 }) })

/-- When the running period ends, in cycles of 25 MHz: PERIOD_TICKS after its start, its sleep phase corrected (R296). -/
def State.boundaryOsc (s : State) : Nat :=
  let plain : Int := ((s.periodStart + s.get F.MGT_PERIOD_CFG0_PERIOD_TICKS) * 8 : Nat)
  (plain - s.period.sleepCorr / 40).toNat

/-- Number of the new period: the next, or the master's (R25, R296). -/
def State.nextPeriod (s : State) : Nat :=
  match s.period.jump with
  | some (p, _) => (p + 1) % 2 ^ 32
  | none => (s.get F.MGT_PERIOD_STAT_PERIOD_NUM + 1) % 2 ^ 32

/-- Tick 0 of a new period: each kind of state is handled as R27 says; the write-combining buffers are flushed (R221). Frames READY and GO of
the new period, from members whose boundary came first, stay. -/
def State.boundary (s : State) : State :=
  let s1 := (((s.abandonColls (fun _ => true)).fence.dropItems).flushQueues).forEach allTiles (fun s n => s.tileBoundary n) |> State.stepCounts
  let s2 := if s1.get F.SEAL_STAT_SEAL_STATE == 2 then s1 else (s1.dropShadows).stepOver
  let s3 := { s2 with
    free := s2.free + 1
    mem := { s2.mem with stash := [], notStashed := [], stashBits := [], reached := [], kept := [], held := [], spoiled := [] }
    coll := { s2.coll with
      readys := s2.coll.readys.filter (fun r => !serialEarlier 32 r.2.key.period.toNat s2.nextPeriod)
      gos := s2.coll.gos.filter (fun g => !serialEarlier 32 g.1.period.toNat s2.nextPeriod) } }
  let num := s3.nextPeriod
  let s4 := (s3.fecPeriod.bindWork.flagIf s3.period.jump.isSome F.LINK_ALIGN_PERIOD_JUMP).set F.MGT_PERIOD_STAT_PERIOD_NUM num
  let s5 := (s4.set F.MGT_PERIOD_T0_T0 s4.aon).set F.MGT_PERIOD_STAT_STEPS_SEALED_LAST (Nat.min 255 s4.period.sealedNow)
  let s6 := (s5.set F.MGT_PERIOD_STAT_STEPS_DROPPED_LAST (Nat.min 255 s5.period.droppedNow)).setPhase 0
  let s7 := { s6 with
    period := { s6.period with inPeriod := true, sealedNow := 0, droppedNow := 0, ttFault := false, jump := none, sleepCorr := 0
                               ingested := [], outStarted := false, outWait := false, outBlocked := false }
    power := { s6.power with overBasePosted := false } }
  let s8 := ((if s7.get F.SEAL_STAT_SEAL_STATE == 2 then s7 else s7.applyRungs).health).restoreBegin
  if s8.get F.SEAL_STAT_SEAL_STATE == 2 then
    match s8.sealGroup with
    | some g => { s8.controlTo g 9 [s8.stepNo] with seals := { s8.seals with queried := true } }
    | none => s8
  else s8

end Sys2Proof.Machine
end

