-- ==== Sys2Proof/Machine/VoteOps.lean ====
section
/-! DEFINITION. A tile's part of the seal vote and the module's vote (R240 to R242). -/

namespace Sys2Proof.Machine

/-- The part of tile n (R240 to R242). -/
def State.votePart (s : State) (n : TileIx) (lossEntry : Fin 32) : VotePart :=
  let t := s.tile n
  { loss := t.sf[lossEntry], nonfin := t.nonfin, poison := t.poisonUsed, failed := t.failed
    inTime := decide (s.phaseTick ≤ s.voteDl), spill := t.spill, sat := t.sat, origin := t.origin }

/-- Every unfenced tile has cast its part. -/
def State.allParts (s : State) : Bool := allTiles.all (fun n => s.tileFenced n.val || (s.tile n).part.isSome)

/-- A collective of the step's exchange is in progress (S4). -/
def State.exchanging (s : State) : Bool := s.coll.queue.any (fun c => c.phase == 3 && cCombine c.d != 1 && !c.recorded)

/-- S4 or S5 has not ended on some tile: an exchange is in progress, or a posted command waits (R148). -/
def State.stepBusy (s : State) : Bool := s.exchanging || s.stalled.any (fun w => w.posted)

/-- Once the last part is in and S3, S4 and S5 have ended on every tile, the Timetable forms the module's vote (R148, R240). -/
def State.voteIfComplete (s : State) : State :=
  if s.period.stepActive && s.allParts && !s.seals.voted && !s.stepBusy then
    let live := allTiles.filter (fun n => !s.tileFenced n.val)
    let parts := live.filterMap (fun n => (s.tile n).part)
    let gone := allTiles.any (fun n => s.tileFenced n.val && (s.tile n).failed)
    s.castVote (s.formVote parts gone)
  else s

/-- Whether SEAL_VOTE finds its occasion: a step in flight on an unfenced tile that has not voted (R240), on a module that votes (R381). -/
def State.mayVote (s : State) (n : TileIx) : Bool :=
  s.running && s.period.stepActive && !s.tileFenced n.val && (s.tile n).part.isNone && !s.on F.FLT_STAT_EXPELLED

/-- The tile's own part of S3 to S5 has not ended, or an exchange is in progress (R148, R163). -/
def State.shareBusy (s : State) (n : TileIx) : Bool :=
  !s.on (F.TILE_DWQ_STAT_DRAINED n.val) || s.exchanging || s.stalled.any (fun w => w.posted && posterOf w.cmd == some n)

/-- SEAL_VOTE (R240): the tile's fence (R221), then its part; it waits until the tile's share of the step has ended. -/
def State.opSealVote (s : State) (n : TileIx) (lossEntry : Fin 32) : State :=
  if !s.mayVote n then s
  else if s.shareBusy n then { s with stallReq := true }
  else
    let s1 := s.fence
    let p := s1.votePart n lossEntry
    -- R173: a tile that is non-finite before its update begins skips it
    let s2 := s1.flagIf (p.nonfin && (s1.tile n).upd == 0) (F.TILE_UPD_STAT_UPDATE_SKIPPED n.val)
    s2.modTile n (fun t => { t with part := some p })

end Sys2Proof.Machine
end

