-- ==== Sys2Proof/Machine/MatrixOps.lean ====
section
/-! DEFINITION. The matrix array and the Crucible (R109 to R133): products, the adder tree, group results with those of the Sprue and of the
escape passes, updates of the entries, the checksum, records; the combine of a split reduction (R136 to R138). -/

namespace Sys2Proof.Machine

/-! Fields of the descriptor (R112). -/

def mOp (d : BitVec 256) : Nat := dfld d 0 63 56
def mLayer (d : BitVec 256) : Nat := dfld d 0 55 44
def mShape (d : BitVec 256) : Nat := dfld d 0 43 42
def mAcc (d : BitVec 256) : Nat := dfld d 0 41 40
def mGroup (d : BitVec 256) : Nat := dfld d 0 39 38
def mInit (d : BitVec 256) : Nat := dfld d 0 37 36
def mSel (d : BitVec 256) : Nat := dfld d 0 35 34
def mCks (d : BitVec 256) : Bool := dbit d 0 33
def mLast (d : BitVec 256) : Bool := dbit d 0 32
def mSlot (d : BitVec 256) : Nat := dfld d 0 31 25
def mKch (d : BitVec 256) : Nat := dfld d 1 63 32
def mLoad (d : BitVec 256) : Nat := dfld d 1 31 0
def mTag (d : BitVec 256) : Nat := dfld d 2 31 0

def opMatmulCode : Nat := 0x10
def opCruCopyCode : Nat := 0x11

/-! Refusals (R111, R113). -/

def four (f : Nat) : Bool := decide (f ≤ 2)
def wide (f : Nat) : Bool := f == fW2 || f == fW1

/-- Operand pairs of R111. -/
def pairOk (fa fb acc : Nat) : Bool :=
  if acc == 2 then (fa == fInt4 && fb == fInt4) || (fa == fInt8 && fb == fInt8)
  else (four fa && four fb) || (wide fa && four fb) || (four fa && wide fb)

/-- The conditions of the command alone that R113 calls reserved codes, and the slot of a compensated tile. GROUP is ignored with ACC = 2. -/
def mxReserved (d : BitVec 256) : Bool :=
  mAcc d == 3 || (mGroup d == 3 && mAcc d != 2) || mInit d == 3 || mSel d == 3 || (mAcc d == 1 && mSlot d % 2 == 1)

/-- The slot's tag, and that of its pair, differ from ACC (R113, R118, R132). -/
def State.tagDiffers (s : State) (n : TileIx) (d : BitVec 256) : Bool :=
  ((s.tile n).cru[slotIx (mSlot d)]).fmt != mAcc d || (mAcc d == 1 && ((s.tile n).cru[slotIx (mSlot d + 1)]).fmt != 1)

/-- Own conditions of a MATMUL with its operands (R113). -/
def State.mxOwn (s : State) (n : TileIx) (d : BitVec 256) (a b : Operand) : Bool :=
  mxReserved d || !pairOk (lDstFmt a.d) (lDstFmt b.d) (mAcc d)
    || mKch d == 0 || mKch d != lOutCols a.ladle a.d || mKch d != lOutCols b.ladle b.d
    || (mInit d == 1 && s.tagDiffers n d) || (mInit d == 2 && mLoad d % 512 != 0)
    || decide (shapeRows (mShape d) < lOutRows a.ladle a.d) || decide (shapeCols (mShape d) < lOutRows b.ladle b.d)

/-- The status of an operand: its own, or the refusal of outlier handling in an INT32 operation (R80). -/
def opStatus (d : BitVec 256) (o : Operand) : Nat :=
  if o.status == stOk && mAcc d == 2 && lOutlier o.d != 0 then stLayout else o.status

/-- Size of the basis of an operand (R86). -/
def Operand.basis (o : Operand) : Nat := if ladlePath o.ladle o.d == .deliver then lSrcRot o.d else lRot o.d

/-! Values and leaves (R98, R114, R124). -/

/-- Value of a code under its block scale (R114). -/
def coded (f : Nat) (e : Nat × Nat) : Fv := mulFv (elemValue f e.1) (ue5m3Value e.2)

def fzero : Fv := .fin false 0 0

/-- Exact sum of products in FP32; a zero is +0 (R114, R124). -/
def leaf (l : List (Fv × Fv)) : U32 :=
  let v := l.foldl (fun a p => addFv a (mulFv p.1 p.2)) fzero
  if isZeroFv v then 0#32 else code32 v

/-- Group results of one cycle from its 16 leaves (R115). -/
def treeResults (group : Nat) (leaves : List U32) : List U32 :=
  let r := pairUp add32 (pairUp add32 leaves)
  if group == 0 then r else if group == 1 then pairUp add32 r else pairUp add32 (pairUp add32 r)

/-- A line of an operand, the values of its channels, filled with zeros to `k` channels. -/
def fillLine {α : Type} (z : α) (k : Nat) (l : List α) : List α := l.take k ++ List.replicate (k - l.length) z

/-- Sixteen leaves, those without a channel +0. -/
def fill16 (l : List U32) : List U32 := l ++ List.replicate (16 - l.length) 0#32

/-- Channels per leaf (R124). -/
def leafWidth (fa fb : Nat) : Nat := if fa == fW1 || fb == fW1 then 4 else if fa == fW2 || fb == fW2 then 2 else 1

/-- The main group results of a block of 256 channels (R115, R116). -/
def mainResults (w group : Nat) (a b : List Fv) : List U32 :=
  let pr := a.zip b
  ((chunksOf (16 * w) 256 pr).map (fun cyc => treeResults group (fill16 ((chunksOf w 16 cyc).map leaf)))).flatten

/-- Value of a Sprue channel in row r (R98). -/
def SprueCh.value (f : Nat) (c : SprueCh) (r : Nat) : Fv :=
  mulFv (elemValue f (c.codes.getD r 0)) (ue5m3Value (c.scales.getD (r / 64) 0))

/-- Value of a spilled channel in row r (R99). -/
def EscCh.value (f : Nat) (c : EscCh) (r : Nat) : Fv := mulFv (elemValue f (c.codes.getD r 0)) (ue5m3Value c.scale)

/-- Sprue results of a block for line r of the outlier side: one for each pass that has a channel (R98, R101, R102). The other side gives its main
line: where both sides select one channel, each side's value meets the other's zeroed main code, while the checksum predicts the full product (DESIGN
CHOICE, log entry 56). -/
def sprueResults (o : Operand) (blk r : Nat) (other : List Fv) : List U32 :=
  (chunksOf 16 16 (o.sprue.getD blk [])).map (fun p =>
    ((treeResults 2 (fill16 (p.map (fun (c : SprueCh) => leaf [(c.value (lSprueFmt o.d) r, other.getD c.chan fzero)])))).headD 0#32))

/-- Escape results of a block: a group for each spilled channel (R99, R101). -/
def escapeResults (o : Operand) (blk r : Nat) (other : List Fv) : List U32 :=
  (o.escapes.getD blk []).map (fun (c : EscCh) => leaf [(c.value (lDstFmt o.d) r, other.getD c.chan fzero)])

/-- Lines of an operand as the main array receives them. -/
def Operand.lines (o : Operand) (rows k : Nat) : List (List Fv) :=
  (List.range rows).map (fun r => fillLine fzero k ((o.elems.getD r []).map (coded (lDstFmt o.d))))

/-- Lines as the array and the Sprue together receive them (R128). -/
def Operand.fullLines (o : Operand) (main : List (List Fv)) : List (List Fv) :=
  let sp := o.sprue.flatten
  let es := o.escapes.flatten
  if sp.isEmpty && es.isEmpty then main else
  main.zipIdx.map (fun l => l.1.zipIdx.map (fun e =>
    match sp.find? (fun (c : SprueCh) => c.chan == e.2) with
    | some c => if l.2 < o.rows then c.value (lSprueFmt o.d) l.2 else fzero
    | none => match es.find? (fun (c : EscCh) => c.chan == e.2) with
      | some c => if l.2 < o.rows then c.value (lDstFmt o.d) l.2 else fzero
      | none => e.1))

/-- Every result added to entry (i, j) in order (R101, R116). A position that an operand lacks receives zero products only (R110). A channel that
both sides took off the main path gives no product: each side's Sprue or escape value is multiplied by the other's zeroed main code (DESIGN CHOICE,
log entry 56). -/
def entryResults (d : BitVec 256) (a b : Operand) (w i j : Nat) (al bl : List Fv) : List U32 :=
  ((List.range (al.length / 256)).map (fun k =>
    mainResults w (mGroup d) ((al.drop (256 * k)).take 256) ((bl.drop (256 * k)).take 256)
      ++ sprueResults a k i bl ++ sprueResults b k j al ++ escapeResults a k i bl ++ escapeResults b k j al)).flatten.map
    (fun x => if i < a.rows && j < b.rows then x else 0#32)

/-! INT32 (R121, R125). -/

def codesOf (f : Nat) (o : Operand) (rows k : Nat) : List (List Int) :=
  (List.range rows).map (fun r => fillLine 0 k ((o.elems.getD r []).map (fun (e : Nat × Nat) => toSigned (fmtBits f) e.1)))

def sumInt (l : List Int) : Int := l.foldl (· + ·) 0

/-- Signed high nibble and unsigned low nibble (R125). -/
def nibHigh (x : Int) : Int := x / 16
def nibLow (x : Int) : Int := x % 16

/-- Cycle sums of products under a weight. -/
def cycleSums (w : Int) (f g : Int → Int) (pr : List (Int × Int)) : List Int :=
  (chunksOf 16 16 pr).map (fun c => w * sumInt (c.map (fun p => f p.1 * g p.2)))

/-- Group results of a block. -/
def intBlock (int8 : Bool) (pr : List (Int × Int)) : List Int :=
  if int8 then cycleSums 256 nibHigh nibHigh pr ++ cycleSums 16 nibHigh nibLow pr ++ cycleSums 16 nibLow nibHigh pr
    ++ cycleSums 1 nibLow nibLow pr
  else cycleSums 1 id id pr

def intResults (int8 : Bool) (al bl : List Int) : List Int :=
  ((chunksOf 256 (al.length + 1) (al.zip bl)).map (intBlock int8)).flatten

/-! Updates (R121). -/

/-- The compensated update. -/
def compStep (e : U32 × U32) (g : U32) : U32 × U32 :=
  let t := add32 e.1 g
  if !isFin32 t then (t, 0#32) else
  let z := sub32 t e.1
  let err := add32 (sub32 e.1 (sub32 t z)) (sub32 g z)
  (t, add32 e.2 err)

/-- Updates of an FP32 or compensated entry. -/
def floatUpdate (acc : Nat) (e : U32 × U32) (l : List U32) : U32 × U32 :=
  if acc == 1 then l.foldl compStep e else (l.foldl add32 e.1, 0#32)

/-- Updates of an INT32 entry, with the saturating additions (R122). -/
def intUpdate (e : U32) (l : List Int) : U32 × Nat :=
  l.foldl (fun x g => let r := satInt (int32 x.1 + g); (r.1, x.2 + b2n r.2)) (e, 0)

/-- Array faults during the command: the n-th result of a position takes another value (R128). -/
def upsetList {α : Type} (v : U32 → α) (us : List Upset) (r c : Nat) (l : List α) : List α :=
  us.foldl (fun l u => if u.row == r && u.col == c then l.set u.ix (v u.value) else l) l

/-! The checksum (R128, R129). -/

/-- Sums of a line: P, O, U and what skips it. -/
structure CksLine where
  fail : Bool
  skip : Bool
  deriving DecidableEq, Repr

/-- O: the first result of every entry, then the second, and so on. -/
def observed (l : List (List U32)) : U32 :=
  (List.range ((l.map (fun x => x.length)).foldl Nat.max 0)).foldl (fun o t =>
    l.foldl (fun o x => match x[t]? with | some g => add32 o g | none => o) o) 0#32

/-- Inner sums over the lines of the other operand, by channel, ascending. -/
def innerSums (f : U32 → U32) (k : Nat) (lines : List (List U32)) : List U32 :=
  lines.foldl (fun (acc : List U32) l => (acc.zip l).map (fun p => add32 p.1 (f p.2))) (List.replicate k 0#32)

def outerSum (f : U32 → U32) (line sums : List U32) : U32 :=
  (line.zip sums).foldl (fun a p => add32 a (mul32 (f p.1) p.2)) 0#32

def abs32 (x : U32) : U32 := x &&& 0x7FFFFFFF#32

/-- |O − P| > 2^(−t) × U, exactly. -/
def cksFails (t : Nat) (p o u : U32) : Bool :=
  let diff := absFv (addFv (fv32 o) (negFv (fv32 p)))
  ltFv (mulFv (fv32 u) (.fin false 1 (-(t : Int)))) diff

/-- Tolerance exponent in force (TILEn_MX_CFG.CKS_TOL). -/
def tolOf (c : Nat) : Nat := Nat.max 4 (Nat.min 23 c)

/-- Lines of one side: `mine` with their results, against the lines `theirs` of the other side. `bad i`: an entry of line i becomes non-finite during
the command (R132). -/
def floatCks (t k : Nat) (mine theirs : List (List U32)) (results : List (List (List U32))) (bad : Nat → Bool) : List CksLine :=
  let s := innerSums id k theirs
  let sa := innerSums abs32 k theirs
  (mine.zip results).zipIdx.map (fun e =>
    let p := outerSum id e.1.1 s
    let u := outerSum abs32 e.1.1 sa
    let o := observed e.1.2
    let skip := !isFin32 p || !isFin32 o || !isFin32 u || bad e.2
    ⟨!skip && cksFails t p o u, skip⟩)

def intCks (k : Nat) (mine theirs : List (List Int)) (results : List (List (List Int))) (bad : Nat → Bool) : List CksLine :=
  let s := theirs.foldl (fun (acc : List Int) l => (acc.zip l).map (fun p => p.1 + p.2)) (List.replicate k 0)
  (mine.zip results).zipIdx.map (fun e =>
    let p := sumInt ((e.1.1.zip s).map (fun q => q.1 * q.2))
    let o := sumInt (e.1.2.map sumInt)
    ⟨!bad e.2 && decide (o ≠ p), bad e.2⟩)

/-! What a MATMUL computes. -/

/-- Entries after the command, in slot order, with what the record counts. -/
structure MxOut where
  words : List U32
  nonfin : Nat
  intSat : Nat
  rows : List CksLine
  cols : List CksLine
  deriving DecidableEq, Repr

/-- Rows of a list of `c` entries each. -/
def gridOf {α : Type} (c : Nat) (l : List α) : List (List α) := chunksOf c l.length l

/-- An FP32 or compensated command over the initial entries. -/
def mxFloat (d : BitVec 256) (a b : Operand) (us : List Upset) (init : List (U32 × U32)) (cks : Option Nat) : MxOut :=
  let nr := shapeRows (mShape d)
  let nc := shapeCols (mShape d)
  let k := roundUp (mKch d) 256
  let al := a.lines nr k
  let bl := b.lines nc k
  let w := leafWidth (lDstFmt a.d) (lDstFmt b.d)
  let res := al.zipIdx.map (fun x => bl.zipIdx.map (fun y => upsetList id us x.2 y.2 (entryResults d a b w x.2 y.2 x.1 y.1)))
  let ent := (res.flatten.zip init).map (fun p => floatUpdate (mAcc d) p.2 p.1)
  let finite := fun (e : U32 × U32) => isFin32 e.1 && isFin32 e.2
  let bad := ent.map (fun e => !finite e)
  let turned := (init.zip ent).map (fun e => finite e.1 && !finite e.2)
  let badRow := (gridOf nc turned).map (fun r => r.any id)
  let badCol := (transposeOf nc (gridOf nc turned)).map (fun (r : List Bool) => r.any id)
  let ck : List CksLine × List CksLine := match cks with
    | none => ([], [])
    | some t =>
      let af : List (List U32) := (a.fullLines al).map (fun (l : List Fv) => l.map code32)
      let bf : List (List U32) := (b.fullLines bl).map (fun (l : List Fv) => l.map code32)
      (floatCks t k af bf res (fun i => badRow.getD i false), floatCks t k bf af (transposeOf nc res) (fun j => badCol.getD j false))
  { words := if mAcc d == 1 then (ent.map (fun (e : U32 × U32) => [e.1, e.2])).flatten else ent.map (fun (e : U32 × U32) => e.1)
    nonfin := (bad.filter id).length, intSat := 0, rows := ck.1, cols := ck.2 }

/-- An INT32 command over the initial entries. -/
def mxInt (d : BitVec 256) (a b : Operand) (us : List Upset) (init : List U32) (cks : Bool) : MxOut :=
  let nr := shapeRows (mShape d)
  let nc := shapeCols (mShape d)
  let k := roundUp (mKch d) 256
  let f := lDstFmt a.d
  let al := codesOf f a nr k
  let bl := codesOf f b nc k
  let res := al.zipIdx.map (fun x => bl.zipIdx.map (fun y => upsetList int32 us x.2 y.2 (intResults (f == fInt8) x.1 y.1)))
  let ent := (res.flatten.zip init).map (fun p => intUpdate p.2 p.1)
  let sat := ent.map (fun e => e.2 != 0)
  let satRow := (gridOf nc sat).map (fun r => r.any id)
  let satCol := (transposeOf nc (gridOf nc sat)).map (fun r => r.any id)
  let rows := if cks then intCks k al bl res (fun i => satRow.getD i false) else []
  let cols := if cks then intCks k bl al (transposeOf nc res) (fun j => satCol.getD j false) else []
  { words := ent.map (fun e => e.1), nonfin := 0, intSat := (ent.map (fun e => e.2)).foldl (· + ·) 0, rows := rows, cols := cols }

/-! Records and registers. -/

/-- Lowest failing line, or 0xFFFF. -/
def firstFail (l : List CksLine) : Nat :=
  match l.zipIdx.find? (fun e => e.1.fail) with | some e => e.2 | none => 0xFFFF

def countFail (l : List CksLine) : Nat := (l.filter (fun e => e.fail)).length

/-- The record of R133. -/
def mxRecord (tag layer slot status mflags cycles nonfin intSat rowFail colFail firstRow firstCol : Nat) : BitVec 256 :=
  BitVec.ofNat 256 (tag + layer * 2 ^ 32 + slot * 2 ^ 48 + mflags * 2 ^ 56 + sat32 cycles * 2 ^ 64 + sat32 nonfin * 2 ^ 96
    + sat32 intSat * 2 ^ 128 + sat16 rowFail * 2 ^ 160 + sat16 colFail * 2 ^ 176 + firstRow * 2 ^ 192 + firstCol * 2 ^ 208
    + status * 2 ^ 232)

/-- Array cycles (R99, R102, R124 to R127), with the cycles that the array stalled. -/
def mxCycles (d : BitVec 256) (a b : Operand) (stalls : Nat) : Nat :=
  let int8 := lDstFmt a.d == fInt8
  let base := if int8 then 64 else 16 / leafWidth (lDstFmt a.d) (lDstFmt b.d)
  let passes := fun (o : Operand) (k : Nat) => if lOutlier o.d == 0 then 0 else Nat.max 1 (((o.sprue.getD k []).length + 15) / 16)
  let esc := fun (o : Operand) (k : Nat) => ((o.escapes.getD k []).length + 15) / 16
  ((List.range ((mKch d + 255) / 256)).map (fun k =>
    Nat.max base (16 * (passes a k + passes b k)) + 4 * (esc a k + esc b k))).foldl (· + ·) 0 + 24 + stalls

/-- Sprue passes of a command, by block (R102). -/
def spruePasses (d : BitVec 256) (o : Operand) : List Nat :=
  if lOutlier o.d == 0 then [] else
  (List.range ((mKch d + 255) / 256)).map (fun k => Nat.max 1 (((o.sprue.getD k []).length + 15) / 16))

def sumNat (l : List Nat) : Nat := l.foldl (· + ·) 0

/-- TILEn_SPRUE_STAT and the events of Sprue and escape passes. -/
def State.sprueCount (s : State) (n : TileIx) (d : BitVec 256) (o : Operand) : State :=
  let l := spruePasses d o
  let s1 := (s.bump (F.TILE_SPRUE_STAT_SPRUE_PASSES n.val) (sumNat l)).bump (F.TILE_SPRUE_STAT_TWO_PASS_BLOCKS n.val)
    (l.filter (fun p => p == 2)).length
  (s1.perfEvent n.val 0x11 (sumNat l)).perfEvent n.val 0x12 o.escPasses

/-- Slots that a command writes: a compensated tile fills two. -/
def mxSlots (d : BitVec 256) : List Nat := if mAcc d == 1 then [mSlot d, mSlot d + 1] else [mSlot d]

/-- A refused matrix command: no slot changes, the slot remembers the status for its result-out (R113). -/
def State.mxRefuse (s : State) (n : TileIx) (d : BitVec 256) (status : Nat) : State :=
  let s1 := s.modTile n (fun t => { t with cru := t.cru.mapIdx (fun i c =>
    if (mxSlots d).contains i then { c with bad := status } else c) })
  (s1.flag (F.TILE_MX_STAT_REFUSED n.val)).complete n n.val
    (mxRecord (mTag d) (mLayer d) (mSlot d) status 0 0 0 0 0 0 0xFFFF 0xFFFF)

/-- The result of a MATMUL with operands of `rows` and `cols` lines takes its slots (R118, R131); a new tile forgets an earlier refusal and earlier
extents. -/
def State.cruStore (s : State) (n : TileIx) (d : BitVec 256) (rows cols : Nat) (words : List U32) : State :=
  let goOn := mInit d == 1
  (s.modTile n (fun t => { t with cru := t.cru.mapIdx (fun i c =>
    if (mxSlots d).contains i then
      { fmt := mAcc d, shape := mShape d, rows := if goOn then Nat.max c.rows rows else rows, cols := if goOn then Nat.max c.cols cols else cols
        words := (words.drop (4096 * (i - mSlot d))).take 4096, closed := mLast d, live := true, bad := if goOn then c.bad else stOk }
    else c) })).liveSlots n

/-- A failing checksum (R130). -/
def State.cksFailed (s : State) (n : TileIx) (d : BitVec 256) (o : MxOut) : State :=
  let k := n.val
  let r := firstFail o.rows
  let c := firstFail o.cols
  let s1 := (((s.flag (F.TILE_MX_STAT_CKS_FAIL k)).set (F.TILE_MX_CKS_LAST_FAIL_TAG k) (mTag d)).bump (F.TILE_MX_CKS_FAIL_OPS_STEP k) 1).setB
    (F.TILE_MX_CKS_ROW_VALID k) (r != 0xFFFF)
  let s2 := ((s1.setB (F.TILE_MX_CKS_COL_VALID k) (c != 0xFFFF)).set (F.TILE_MX_CKS_LAST_FAIL_ROW k) (if r == 0xFFFF then 0 else r)).set
    (F.TILE_MX_CKS_LAST_FAIL_COL k) (if c == 0xFFFF then 0 else c)
  let s3 := (s2.modTile n (fun t => { t with cksFailed := true })).perfEvent k 0x1B 1
  let s4 := if bit (s3.tile n).mxCfg.toNat 1 then s3.failTile n else s3
  (s4.postFull clsTile k 1 0x06 (r + 65536 * c) (mTag d) 1 0 true).voteIfComplete

/-- The initial entries (R120). -/
def State.mxInitial (s : State) (n : TileIx) (d : BitVec 256) : State × List (U32 × U32) :=
  if mInit d == 0 then (s, List.replicate 4096 (0#32, 0#32))
  else if mInit d == 1 then (s, (List.range 4096).map (fun e => s.cruEntry n (mSlot d) e))
  else
    let (s1, bytes, _) := s.tmRead n (mLoad d) (if mAcc d == 1 then 32768 else 16384)
    let w := words32 bytes
    (s1, if mAcc d == 1 then (chunksOf 2 4096 w).map (fun p => (p.getD 0 0, p.getD 1 0)) else w.map (fun x => (x, 0#32)))

/-- A MATMUL that is carried out. -/
def State.mxRun (s : State) (n : TileIx) (d : BitVec 256) (a b : Operand) (stalls : Nat) (us : List Upset) : State :=
  let cfg := (s.tile n).mxCfg.toNat
  let cks := mCks d && bit cfg 0
  let (s1, init) := s.mxInitial n d
  let o := if mAcc d == 2 then mxInt d a b us (init.map (fun e => e.1)) cks
    else mxFloat d a b us init (if cks then some (tolOf (bits cfg 12 8)) else none)
  let fail := countFail o.rows != 0 || countFail o.cols != 0
  let skip := (o.rows ++ o.cols).any (fun l => l.skip)
  let mflags := b2n fail + 2 * b2n skip + 4 * b2n (o.intSat != 0) + 8 * b2n (o.nonfin != 0) + 16 * b2n (mCks d && !bit cfg 0)
  let k := n.val
  let s2 := ((((s1.cruStore n d a.rows b.rows o.words).flagIf (o.intSat != 0) (F.TILE_MX_STAT_INT_SAT k)).flagIf (o.nonfin != 0)
    (F.TILE_MX_STAT_NONFIN_OUT k)).flagIf skip (F.TILE_MX_STAT_CKS_SKIPPED k)).sprueCount n d a |>.sprueCount n d b
  let s3 := if fail then s2.cksFailed n d o else s2
  (s3.sticky n 0 (o.nonfin != 0)).complete n k
    (mxRecord (mTag d) (mLayer d) (mSlot d) stOk mflags (mxCycles d a b stalls) o.nonfin o.intSat (countFail o.rows) (countFail o.cols)
      (firstFail o.rows) (firstFail o.cols))

/-- The ports of SRC_SEL: those of the A side and of the B side (R77, R112). -/
def TileSt.sideA (t : TileSt) (sel : Nat) : List Operand := if sel == 1 then t.portT else t.portA
def TileSt.sideB (t : TileSt) (sel : Nat) : List Operand := if sel == 2 then t.portT else t.portB

/-- Take the heads of both ports. -/
def TileSt.popPorts (t : TileSt) (sel : Nat) : TileSt :=
  { t with
    portA := if sel == 1 then t.portA else t.portA.drop 1
    portB := if sel == 2 then t.portB else t.portB.drop 1
    portT := if sel == 0 then t.portT else t.portT.drop 1 }

/-- MATMUL (R109 to R133) with the operands at the heads of its ports, for which it waits. `stalls`: cycles the array waited; `us`: array
faults. A command refused for its OPCODE or SRC_SEL names no ports and takes no operands; one refused otherwise takes both (DESIGN CHOICE, log
entry 56). -/
def State.opMatmulCmd (s : State) (n : TileIx) (d : BitVec 256) (stalls : Nat) (us : List Upset) : State :=
  let s0 := s.setLayer n (mLayer d)
  if mOp d != opMatmulCode || mSel d == 3 then s0.mxRefuse n d stLayout else
  match (s0.tile n).sideA (mSel d), (s0.tile n).sideB (mSel d) with
  | a :: _, b :: _ =>
    let s1 := s0.modTile n (fun t => t.popPorts (mSel d))
    let sa := opStatus d a
    let sb := opStatus d b
    let mismatch := Nat.max sa sb == stOk && a.basis != b.basis
    let s2 := if mismatch then (s1.operandTaken n a stLayout 8).operandTaken n b stLayout 8
      else (s1.operandTaken n a sa 0).operandTaken n b sb 0
    if s1.mxOwn n d a b || mismatch then s2.mxRefuse n d stLayout
    else if Nat.max sa sb != stOk then s2.mxRefuse n d (Nat.max sa sb)
    else s2.mxRun n d a b stalls us
  | _, _ => { s0 with stallReq := true }

/-- CRU_COPY (R120): the raw slot, or slot pair, to tile memory; it takes 256 or 512 cycles (R145). The rest of its descriptor is ignored, so
its record carries layer 0. -/
def State.opCruCopyCmd (s : State) (n : TileIx) (d : BitVec 256) : State :=
  if mOp d != opCruCopyCode || mLoad d % 512 != 0 then
    let s1 := s.modTile n (fun t => { t with cru := t.cru.mapIdx (fun i c => if i == mSlot d then { c with bad := stLayout } else c) })
    (s1.flag (F.TILE_MX_STAT_REFUSED n.val)).complete n n.val (mxRecord (mTag d) 0 (mSlot d) stLayout 0 0 0 0 0 0 0xFFFF 0xFFFF)
  else
    let pair := ((s.tile n).cru[slotIx (mSlot d)]).fmt == 1
    let b := s.pairBase n (mSlot d)
    let words := (List.range (if pair then 8192 else 4096)).map (fun i => s.cruWord n (b + i / 4096) (i % 4096))
    let s1 := s.tmWrite n (mLoad d) (words.map (fun w => leBytes 4 w.toNat)).flatten false
    (s1.slotRead n (mSlot d)).complete n n.val
      (mxRecord (mTag d) 0 (mSlot d) stOk 0 (if pair then 512 else 256) 0 0 0 0 0xFFFF 0xFFFF)

/-! The combine (R136 to R138). -/

/-- One entry's partials in the pairwise order, with the saturating additions. -/
def combineEntry (acc : Nat) (l : List U32) : U32 × Nat :=
  if acc == 2 then
    pairwise (fun (a b : U32 × Nat) => let r := addSat a.1 b.1; (r.1, a.2 + b.2 + b2n r.2)) (0#32, 0) (l.map (fun x => (x, 0)))
  else (pairwise add32 0#32 l, 0)

/-- Operands of a partial: its entries, or the rounded sums of its pairs. -/
def partValues (acc : Nat) (bytes : List Byte) : List U32 :=
  if acc == 1 then (chunksOf 2 4096 (words32 bytes)).map (fun p => add32 (p.getD 0 0) (p.getD 1 0)) else words32 bytes

/-- The block ranges of consecutive parts cover the reduction once, in channel order (R134). -/
def partsCover : Nat → List SplitPart → Bool
  | _, [] => true
  | at_, p :: ps => p.first == at_ && decide (0 < p.blocks) && partsCover (at_ + p.blocks) ps

/-- A split plan: 2 to 1,024 parts that cover the reduction (R134). -/
def splitOk (p : SplitPlan) : Bool := decide (2 ≤ p.parts.length ∧ p.parts.length ≤ 1024) && partsCover 0 p.parts

/-- The split plan of a number whose combining tile is tile n, as bound since the last step boundary (R134, R140). -/
def State.splitPlan (s : State) (n : TileIx) (k : Nat) : Option SplitPlan :=
  match s.wb with
  | none => none
  | some w => match w.data.plan.splits[k]? with
    | some p => if splitOk p && s.bindTile p.tile.val == n.val then some p else none
    | none => none

/-- The tile of this module that runs a part since the last step boundary (R31, R140). -/
def State.partTile (s : State) (p : SplitPart) : Option Nat := p.tile.map (fun t => s.bindTile t.val)

/-- A partial that arrives fills the position of its part (R136), if it comes from the tile that runs the part. -/
def State.partArrives (s : State) (n : TileIx) (k : Nat) (p : SplitPlan) (r : PartRef) : State :=
  match p.parts[r.index]? with
  | some q => if r.origin.map (fun t => t.val) == s.partTile q then
      s.modTile n (fun t => { t with parts := t.parts.filter (fun x => !(x.1 == k && x.2.index == r.index)) ++ [(k, r)] }) else s
  | none => s

/-- The partials that a command brings (R136). -/
def State.partsArrive (s : State) (n : TileIx) (c : CombineCmd) : State :=
  match s.splitPlan n c.plan with
  | some p => s.forEach c.arrived (fun s r => s.partArrives n c.plan p r)
  | none => s

/-- A combine of the plan waits at tile n for its partials. -/
def State.combineWaits (s : State) (n : TileIx) (k : Nat) : Bool :=
  s.stalled.any (fun w => match w.cmd with | .splitCombine m c => m == n && c.plan == k | _ => false)

/-- Part statuses by position; none until all N positions are filled. -/
def State.partsReady (s : State) (n : TileIx) (k : Nat) (p : SplitPlan) : Option (List PartRef) :=
  let l := ((s.tile n).parts.filter (fun x => x.1 == k)).map (fun x => x.2)
  let r := (List.range p.parts.length).filterMap (fun i => l.find? (fun x => x.index == i))
  if r.length == p.parts.length then some r else none

/-- The combine over the filled positions in part order (R137, R138). -/
def State.combineParts (s : State) (n : TileIx) (c : CombineCmd) (p : SplitPlan) (l : List PartRef) : State :=
  let size := if p.acc == 1 then 32768 else 16384
  let (s1, vals, bad) := l.foldl (fun (a : State × List (List U32) × Bool) (r : PartRef) =>
    let (s1, b, x) := a.1.tmRead n (p.buffer + size * r.index) size
    (s1, a.2.1 ++ [partValues p.acc b], a.2.2 || x || r.poison)) (s, [], false)
  let ent := (List.range 4096).map (fun e => combineEntry p.acc (vals.map (fun v => v.getD e 0#32)))
  let sat := sumNat (ent.map (fun e => e.2))
  let infinite := fun (l : List U32) => if p.acc == 2 then 0 else (l.filter (fun x => !isFin32 x)).length
  let nf := infinite (ent.map (fun e => e.1))
  let nfIn := sumNat (vals.map infinite)
  let s2 := s1.tmWrite n c.dst (ent.map (fun e => leBytes 4 e.1.toNat)).flatten bad
  let s3 := if bad then s2.taintTile n else s2
  let s4 := (s3.flagIf (sat != 0) (F.TILE_VE_STATUS_INT_SAT n.val)).flagIf (nf != 0) (F.TILE_VE_STATUS_NONFIN_OUT n.val)
  (s4.sticky n nfIn (nf != 0)).complete n n.val
    (recordBits (c.tag.toNat + sat32 nf * 2 ^ 32 + sat32 sat * 2 ^ 64 + 2 * b2n (sat != 0) * 2 ^ 112) (numStatus ⟨0, 0, nfIn⟩ stOk))

/-- SPLIT_COMBINE (R136 to R138, R146): the vector engine adds the partials in part order once all have arrived, and waits until then. A part
whose MSTATUS is not OK marks the step failed and nothing is combined. Where R146 leaves it open (DESIGN CHOICE, log entry 81): the result of a
poisoned partial carries the poison mark in tile memory, a combine that does not run writes no completion record, and the positions are free again
once the combine is over. A command that names no split plan of its tile has nothing to combine. -/
def State.opSplitCombine (s : State) (n : TileIx) (c : CombineCmd) : State :=
  match s.splitPlan n c.plan with
  | none => s
  | some p => match s.partsReady n c.plan p with
    | none => { s with stallReq := true }
    | some l =>
      let s1 := s.modTile n (fun t => { t with parts := t.parts.filter (fun x => x.1 != c.plan) })
      if l.any (fun (r : PartRef) => bits r.mstatus.toNat 11 8 != 0) then s1.failTile n else s1.combineParts n c p l

end Sys2Proof.Machine
end

