-- ==== Sys2Proof/Machine/VecOps.lean ====
section
/-! DEFINITION. The vector engine (R199 to R205) and its scalar summary (R206). -/

namespace Sys2Proof.Machine

/-! Fields of the descriptor (R201). -/

def vOp (d : BitVec 512) : Nat := dfld d 0 63 56
def vDst (d : BitVec 512) : Nat := dfld d 0 55 52
def vSrc (d : BitVec 512) : Nat := dfld d 0 51 48
def vRnd (d : BitVec 512) : Nat := dfld d 0 47 46
def vOvf (d : BitVec 512) : Bool := dbit d 0 45
def vLanes (d : BitVec 512) : Nat := dfld d 0 44 37
def vCond (d : BitVec 512) : Nat := dfld d 0 36 34
def vSummary (d : BitVec 512) : Bool := dbit d 0 33
def vSumSlot (d : BitVec 512) : Nat := dfld d 0 32 28
def vScalarIdx (d : BitVec 512) : Nat := dfld d 0 27 23
def vScalarOp (d : BitVec 512) : Nat := dfld d 0 22 21
def vMean (d : BitVec 512) : Bool := dbit d 0 20
def vRows (d : BitVec 512) : Nat := dfld d 0 19 4
def vTag (d : BitVec 512) : Nat := dfld d 1 63 32
def vTensor (d : BitVec 512) : Nat := dfld d 1 31 8
/-- Lane stride, row pitch, base of operand j: DST, A, B, C. -/
def vStride (d : BitVec 512) (j : Nat) : Nat := dfld d (2 + j) 63 48
def vPitch (d : BitVec 512) (j : Nat) : Nat := dfld d (2 + j) 47 32
def vBase (d : BitVec 512) (j : Nat) : Nat := dfld d (2 + j) 31 0
def vSt (d : BitVec 512) : U32 := BitVec.ofNat 32 (dfld d 6 63 32)
def vScaleBase (d : BitVec 512) : Nat := dfld d 6 31 0
def vElemBase (d : BitVec 512) : Nat := dfld d 7 63 24
def vElemPitch (d : BitVec 512) : Nat := dfld d 7 23 0

/-! The operations of R202. -/

def vAdd : Nat := 0x50
def vMul : Nat := 0x51
def vFma : Nat := 0x52
def vCmp : Nat := 0x53
def vSel : Nat := 0x54
def vMin : Nat := 0x55
def vMax : Nat := 0x56
def vPerm : Nat := 0x57
def vCvt : Nat := 0x58

/-- Whether an operation reads operand j (1 A, 2 B, 3 C). -/
def vUses (op j : Nat) : Bool :=
  if j == 1 then true
  else if j == 2 then op != vPerm && op != vCvt
  else op == vFma || op == vSel || op == vPerm

/-- Format of operand j. -/
def vFmt (d : BitVec 512) (j : Nat) : Nat :=
  if j == 0 then vDst d else if j == 3 && (vOp d == vSel || vOp d == vPerm) then fInt32 else vSrc d

/-- The source, or the destination, of a CVT is block-scaled (R203). -/
def vSrcScaled (d : BitVec 512) : Bool := narrow (vSrc d) || (vOp d == vCvt && fp8 (vSrc d) && !narrow (vDst d) && !fp8 (vDst d))
def vDstScaled (d : BitVec 512) : Bool := narrow (vDst d) || (vOp d == vCvt && fp8 (vDst d) && !narrow (vSrc d))

/-- The plane of a block-scaled operand: its scale plane is SCALE_BASE. -/
def vPlane (d : BitVec 512) (j : Nat) : Plane := ⟨vFmt d j, vBase d j, vScaleBase d, vPitch d j, 0, false, true⟩

/-- Operand j is read or written through its descriptor: the operation uses it and no scalar entry replaces it (R208). -/
def vNamed (d : BitVec 512) (j : Nat) : Bool := j == 0 || (vUses (vOp d) j && vScalarOp d != j)

/-- Alignment of operand j (R205). -/
def vAligned (d : BitVec 512) (j : Nat) : Bool :=
  let scaled := (j == 0 && vDstScaled d) || (j == 1 && vSrcScaled d)
  !vNamed d j || (if scaled then (vPlane d j).ok (vLanes d) else vBase d j % Nat.max 1 (elemBytes (vFmt d j)) == 0)

/-- The BAD_LAYOUT conditions (R205); `op` is the operation that was posted. -/
def vBadLayout (op : Nat) (d : BitVec 512) : Bool :=
  vOp d != op || !fmtOk (vSrc d) || !fmtOk (vDst d) || (op == vCmp && decide (5 < vCond d)) || vLanes d == 0 || decide (128 < vLanes d)
    || vRows d == 0 || decide (28 < vSumSlot d) || (vScalarOp d == 3 && !vUses op 3)
    || !vAligned d 0 || !vAligned d 1 || !vAligned d 2 || !vAligned d 3
    || ((vSrcScaled d || vDstScaled d) && (vRows d % 8 != 0 || vLanes d % 8 != 0))
    || ((narrow (vSrc d) || narrow (vDst d)) && op != vCvt) || (vSrcScaled d && vDstScaled d)
    || (op == vCmp && vDst d != fInt32) || (op == vPerm && vSrc d != vDst d)

/-- The status of a vector command (R73, R205). -/
def vStatus (op : Nat) (d : BitVec 512) : Nat :=
  statusOf (vBadLayout op d) ((vSrcScaled d || vDstScaled d) && !scaleOk (vSt d))

/-! Operands (R199, R200). -/

/-- An element as an operand: its format, its code, its value. -/
structure Lane where
  fmt : Nat
  code : Nat
  value : Fv
  deriving DecidableEq, Repr

def laneOf (f c : Nat) : Lane := ⟨f, c, elemValue f c⟩

/-- The scalar file entry in the class of the operand it replaces: INT32 for an integer format, FP32 otherwise. -/
def scalarLane (f : Nat) (x : U32) : Lane := if isIntFmt f then laneOf fInt32 x.toNat else laneOf fFp32 x.toNat

/-- Operand j over the rows and lanes. -/
def State.vRead (s : State) (n : TileIx) (d : BitVec 512) (sf : U32) (j : Nat) : State × List (List Lane) × Bool :=
  let f := vFmt d j
  if !vUses (vOp d) j then (s, [], false)
  else if vScalarOp d == j then (s, List.replicate (vRows d) (List.replicate (vLanes d) (scalarLane f sf)), false)
  else
    let w := elemBytes f
    (List.range (vRows d)).foldl (fun (acc : State × List (List Lane) × Bool) r =>
      let (s1, row, bad) := (List.range (vLanes d)).foldl (fun (a : State × List Lane × Bool) l =>
        let (s1, b, bad) := a.1.tmRead n (vBase d j + (r * vPitch d j + l * vStride d j) * w) w
        (s1, a.2.1 ++ [laneOf f (leNat b)], a.2.2 || bad)) (acc.1, [], false)
      (s1, acc.2.1 ++ [row], acc.2.2 || bad)) (s, [], false)

/-! Results (R202 to R204). -/

/-- An exact integer as a value. -/
def intFv (v : Int) : Fv := .fin (decide (v < 0)) v.natAbs 0

/-- The integer of an integral value. -/
def fvInt (v : Fv) : Int := match v with | .fin neg m e => if neg then -((m * 2 ^ e.toNat : Nat) : Int) else (m * 2 ^ e.toNat : Nat) | _ => 0

/-- A comparison; one with a NaN holds only for NE. -/
def vHolds (cond : Nat) (a b : Fv) : Bool :=
  if a == .nan || b == .nan then cond == 1
  else if cond == 0 then eqFv a b
  else if cond == 1 then !eqFv a b
  else if cond == 2 then ltFv a b
  else if cond == 3 then ltFv a b || eqFv a b
  else if cond == 4 then ltFv b a
  else ltFv b a || eqFv a b

def negFlag (v : Fv) : Bool := match v with | .fin neg _ _ => neg | .inf neg => neg | .nan => false

/-- The smaller of two values, −0 below +0; NaN where either is. -/
def vLess (a b : Fv) : Fv :=
  if a == .nan || b == .nan then .nan
  else if ltFv a b then a
  else if ltFv b a then b
  else if negFlag a then a else b

/-- The larger. -/
def vMore (a b : Fv) : Fv :=
  if a == .nan || b == .nan then .nan
  else if ltFv a b then b
  else if ltFv b a then a
  else if negFlag a then b else a

/-- What one lane gives: the code and its counts, the value before conversion, an INT32 saturation, a lane out of range. -/
structure LaneOut where
  elem : Elem
  pre : Fv
  isat : Bool
  oor : Bool
  deriving DecidableEq, Repr

/-- An element that is moved: its bits unchanged (R203). Where the destination's width differs, bits cannot be moved unchanged
and the spec states no result: the free value `fr` (DESIGN CHOICE, log entry 41). -/
def moved (d : BitVec 512) (fr : Nat) (x : Lane) : LaneOut :=
  ⟨exactElem (if elemBytes x.fmt == elemBytes (vDst d) then x.code else fr % 2 ^ (8 * elemBytes (vDst d))), x.value, false, false⟩

/-- A computed value, rounded once. -/
def computed (d : BitVec 512) (u : Nat) (v : Fv) : LaneOut := ⟨quantise (vDst d) (vRnd d) u (vOvf d) fone v, v, false, false⟩

/-- An exact INT32 result: saturated in an INT32 destination, else rounded once (R203). -/
def integral (d : BitVec 512) (u : Nat) (v : Int) : LaneOut :=
  if vDst d == fInt32 then
    let r := satInt v
    ⟨exactElem r.1.toNat, intFv (int32 r.1), r.2, false⟩
  else computed d u (intFv v)

/-- The result of one lane of an operation other than CVT, from its operands and the row of A (R202, R204). Only a non-finite value that is converted counts in
NONFIN_COUNT: one that MIN, MAX, CMP, SEL or PERM compares, drops or moves counts nothing (DESIGN CHOICE, log entry 83). -/
def vLane (d : BitVec 512) (u fr : Nat) (rowA : List Lane) (a b c : Lane) : LaneOut :=
  let op := vOp d
  let int := vSrc d == fInt32
  if op == vAdd then (if int then integral d u (fvInt a.value + fvInt b.value) else computed d u (addFv a.value b.value))
  else if op == vMul then (if int then integral d u (fvInt a.value * fvInt b.value) else computed d u (mulFv a.value b.value))
  else if op == vFma then
    (if int then integral d u (fvInt a.value * fvInt b.value + fvInt c.value)
     else computed d u (addFv (mulFv a.value b.value) c.value))
  else if op == vCmp then let r := b2n (vHolds (vCond d) a.value b.value); ⟨exactElem r, intFv r, false, false⟩
  else if op == vSel then moved d fr (if c.code != 0 then a else b)
  else if op == vMin then computed d u (vLess a.value b.value)
  else if op == vMax then computed d u (vMore a.value b.value)
  else if vLanes d ≤ c.code then ⟨exactElem 0, .fin false 0 0, false, true⟩
  else moved d fr (rowA.getD c.code a)

/-- The draw of a lane (R62, R201). -/
def State.vDraw (s : State) (d : BitVec 512) (r l : Nat) : Nat :=
  if rndMode (vRnd d) == 2 then srDraw s.stepNo (vTensor d) (vElemBase d + r * vElemPitch d + l) else 0

/-- The free value of a lane whose moved bits do not fit its destination. -/
def State.vFree (s : State) (n : TileIx) (r l : Nat) : Nat :=
  (Config.freeWord s.free (2 ^ 44 + n.val * 2 ^ 38 + r * 128 + l + (s.tile n).recs.length * 2 ^ 48)).toNat

/-- Every row of results. -/
def State.vRows_ (s : State) (n : TileIx) (d : BitVec 512) (a b c : List (List Lane)) : List (List LaneOut) :=
  let z := laneOf fInt32 0
  (List.range (vRows d)).map (fun r =>
    let ra := a.getD r []
    let rb := b.getD r []
    let rc := c.getD r []
    (List.range (vLanes d)).map (fun l => vLane d (s.vDraw d r l) (s.vFree n r l) ra (ra.getD l z) (rb.getD l z) (rc.getD l z)))

/-- Results of rows written to DST by descriptor (R199). -/
def State.vWrite (s : State) (n : TileIx) (d : BitVec 512) (rows : List (List Nat)) (bad : Bool) : State :=
  let w := elemBytes (vDst d)
  s.forEach rows.zipIdx (fun s row => s.forEach row.1.zipIdx (fun s e =>
    s.tmWrite n (vBase d 0 + (row.2 * vPitch d 0 + e.2 * vStride d 0) * w) (leBytes w e.1) bad))

/-! CVT (R202, R203). -/

/-- Values of A: dequantised where block-scaled, else read with a tensor scale of 1.0 (R48). -/
def State.cvtValues (s : State) (n : TileIx) (d : BitVec 512) (sf : U32) : State × Values × Bool :=
  if vSrcScaled d && vScalarOp d != 1 then
    let (s1, c, bad) := s.readPlane n (vPlane d 1) (vRows d) (vLanes d)
    (s1, valuesOf (vSrc d) true (fv32 (vSt d)) c, bad)
  else
    let (s1, x, bad) := s.vRead n d sf 1
    (s1, x.map (fun r => r.map (fun (e : Lane) => code32 e.value)), bad)

/-- The results of a CVT with their scales. -/
def State.cvtElems (s : State) (d : BitVec 512) (x : Values) : List (List Elem) × List (List Nat) :=
  let noClip := fun (_ : Nat) => Fv.inf false
  let main := fun (_ : Nat) => false
  let m : Rnd := ⟨vDst d, vRnd d, vOvf d, fun r l => s.vDraw d r l⟩
  if vDstScaled d then
    let st := fv32 (vSt d)
    let sc := scalesOf (vDst d) (vMean d) st tileBlocking noClip main (vLanes d) x
    (quantRows m true st tileBlocking sc main x, sc)
  else (quantRows m false fone tileBlocking [] main x, [])

/-! Summaries and records (R205, R206). -/

/-- The results of a command as the summary takes them: integers, or FP32. -/
inductive Results where
  | ints (l : List (List Int))
  | floats (l : List (List U32))
  deriving DecidableEq, Repr

/-- SUM of the vector engine: a tree of 128 lanes a row, then the rows in order. -/
def rowsSum {α : Type} (add : α → α → α) (z : α) (l : List (List α)) : α :=
  let sums := l.map (fun r => pairwise add z (r ++ List.replicate (128 - r.length) z))
  match sums with | [] => z | x :: rest => rest.foldl add x

/-- SUM of a zoo engine, in output order from +0 (R190). -/
def lineSum {α : Type} (add : α → α → α) (z : α) (l : List (List α)) : α := l.flatten.foldl add z

def satAddInt (a b : Int) : Int := int32 (satInt (a + b)).1

/-- MAXABS, SUM, COUNT; `tree` for the vector engine. -/
def summaryOf (tree : Bool) (r : Results) (flags : U32) : List U32 :=
  match r with
  | .ints l =>
    let mx := l.flatten.foldl (fun (m : Nat) x => Nat.max m x.natAbs) 0
    [round32 false mx 0, BitVec.ofInt 32 (int32 (satInt (if tree then rowsSum satAddInt 0 l else lineSum satAddInt 0 l)).1),
     BitVec.ofNat 32 (l.flatten.filter (fun x => decide (x ≠ 0))).length, flags]
  | .floats l =>
    [maxAbs l.flatten, if tree then rowsSum add32 0#32 l else lineSum add32 0#32 l, countNonzero zero32 l.flatten, flags]

/-- A refused command's summary (R206). -/
def State.refusedSummary (s : State) (n : TileIx) (summary : Bool) (slot : Nat) : State :=
  if summary && decide (slot ≤ 28) then s.putSummary n slot [0, 0, 0, summaryFlags Cnt.zero false true false false] else s

/-- The command forms the residual codes of a weight (R172; DESIGN CHOICE, log entry 53): results in INT8 on a tile whose deferred entries have
drained in the step. -/
def State.residualWrite (s : State) (n : TileIx) (d : BitVec 512) : Bool :=
  s.period.stepActive && s.on (F.TILE_DWQ_STAT_DRAINED n.val) && vDst d == fInt8 && !vDstScaled d

/-- A vector command ends (R205). -/
def State.vEnd (s : State) (n : TileIx) (d : BitVec 512) (elems : List (List Elem)) (pre : Results) (isat oor : Nat) : State :=
  let k := n.val
  let cnt := countRows elems
  let nf := ((elems.map (fun r => r.filter (fun (e : Elem) => !isFinFv (elemValue (vDst d) e.code)))).flatten).length
  let s1 := ((s.flagIf (isat != 0) (F.TILE_VE_STATUS_INT_SAT k)).flagIf (nf != 0) (F.TILE_VE_STATUS_NONFIN_OUT k)).flagIf (oor != 0)
    (F.TILE_VE_STATUS_LANE_OOR k)
  let s2 := if oor != 0 then s1.set (F.TILE_VE_STATUS_LAST_OOR_TAG k) (vTag d) else s1
  let s3 := if vSummary d then
      s2.putSummary n (vSumSlot d) (summaryOf true pre (summaryFlags cnt (oor != 0) false (isat != 0) false)) else s2
  let s4 := if s3.residualWrite n d then s3.bump (F.TILE_UPD_STAT_RESID_SAT k) cnt.sat else s3
  (s4.sticky n cnt.nonfin (nf != 0)).complete n k
    (recordBits (vTag d + sat32 nf * 2 ^ 32 + sat32 isat * 2 ^ 64 + sat16 oor * 2 ^ 96 + (b2n (oor != 0) + 2 * b2n (isat != 0)) * 2 ^ 112)
      (numStatus cnt stOk))

/-- A refused vector command. -/
def State.vRefuse (s : State) (n : TileIx) (d : BitVec 512) (status : Nat) : State :=
  ((s.flag (F.TILE_VE_STATUS_REFUSED n.val)).refusedSummary n (vSummary d) (vSumSlot d)).complete n n.val
    (recordBits (vTag d) (numStatus Cnt.zero status))

/-- Values before conversion as the summary takes them: integer results exact (R203). -/
def preOf (int : Bool) (l : List (List Fv)) : Results :=
  if int then .ints (l.map (fun r => r.map fvInt)) else .floats (l.map (fun r => r.map code32))

/-- A vector command as the Timetable changes it for the rung of the tile's layer: a conversion in G4 is in FP4 (R154, R254). -/
def State.rungVector (s : State) (n : TileIx) (op : Nat) (d : BitVec 512) : BitVec 512 :=
  if op == vCvt && s.gradFp4 (s.tile n).layer then g4Field (g4Field d 52) 48 else d

/-- A vector command with the scalar entry copied at its post (R199 to R208): every lane reads before any writes. -/
def State.opVector (s : State) (n : TileIx) (op : Nat) (d0 : BitVec 512) (sf : U32) : State :=
  let d := s.rungVector n op d0
  let status := vStatus op d
  if status != stOk then s.vRefuse n d status
  else if op == vCvt then
    let (s1, x, bad) := s.cvtValues n d sf
    let (elems, sc) := s1.cvtElems d x
    let codes := elems.map (fun r => r.map (fun (e : Elem) => e.code))
    let s2 := if vDstScaled d then s1.writePlane n (vPlane d 0) (vLanes d) codes sc bad else s1.vWrite n d codes bad
    s2.vEnd n d elems (.floats x) 0 0
  else
    let (s1, a, bad1) := s.vRead n d sf 1
    let (s2, b, bad2) := s1.vRead n d sf 2
    let (s3, c, bad3) := s2.vRead n d sf 3
    let rows := s3.vRows_ n d a b c
    let elems := rows.map (fun r => r.map (fun (e : LaneOut) => e.elem))
    let int := op == vCmp || vSrc d == fInt32
    let s4 := s3.vWrite n d (elems.map (fun r => r.map (fun (e : Elem) => e.code))) (bad1 || bad2 || bad3)
    s4.vEnd n d elems (preOf int (rows.map (fun r => r.map (fun (e : LaneOut) => e.pre))))
      ((rows.flatten.filter (fun (e : LaneOut) => e.isat)).length) ((rows.flatten.filter (fun (e : LaneOut) => e.oor)).length)

end Sys2Proof.Machine
end

