-- ==== Sys2Proof/Machine/ZooOps.lean ====
section
/-! DEFINITION. The zoo engines: Wayfarers (R180 to R188), Tallies (R189 to R194) and Kilns (R195 to R198). -/

namespace Sys2Proof.Machine

/-! Accesses by module address. -/

/-- INT32 entries of an array. -/
def State.engInts (s : State) (n : TileIx) (a count : Nat) : State × List Nat × Bool :=
  let (s1, d, bad) := s.engRead n a (4 * count)
  (s1, (words32 d).map (fun w => w.toNat), bad)

/-- The engine of domain d works for tile n in this step (R373). -/
def State.useEngine (s : State) (d : Nat) (n : TileIx) : State :=
  if s.period.used.contains (d, n.val) then s else { s with period := { s.period with used := (d, n.val) :: s.period.used } }

/-! Wayfarers: fields of the descriptor (R181). -/

def wOp (d : BitVec 512) : Nat := dfld d 0 63 56
def wTile (d : BitVec 512) : Nat := dfld d 0 55 54
def wFmt (d : BitVec 512) : Nat := dfld d 0 51 48
def wRowBytes (d : BitVec 512) : Nat := dfld d 0 47 32
def wTag (d : BitVec 512) : Nat := dfld d 0 31 0
def wTable (d : BitVec 512) : Nat := dfld d 1 39 0
def wTableQ (d : BitVec 512) : Nat := dfld d 2 63 48 * 64
def wTableScale (d : BitVec 512) : Nat := dfld d 2 39 0
def wTableRows (d : BitVec 512) : Nat := dfld d 3 63 32
def wTablePitch (d : BitVec 512) : Nat := dfld d 3 31 16 * 512
def wCap (d : BitVec 512) : Nat := dfld d 3 15 0 * 512
def wList (d : BitVec 512) : Nat := dfld d 4 39 0
def wAdj (d : BitVec 512) : Nat := dfld d 5 39 0
def wFirst (d : BitVec 512) : Nat := dfld d 6 63 32
def wCount (d : BitVec 512) : Nat := dfld d 6 31 0
def wDst (d : BitVec 512) : Nat := dfld d 7 63 32
def wSeg (d : BitVec 512) : Nat := dfld d 7 31 0

def wGatherCsr : Nat := 0x20
def wGatherIdx : Nat := 0x21
def wScatterIdx : Nat := 0x22
def wCopyIn : Nat := 0x23
def wCopyOut : Nat := 0x24

/-- Formats whose rows carry block scales. -/
def wScaled (d : BitVec 512) : Bool := narrow (wFmt d) || fp8 (wFmt d)

/-- Scale bytes of a row; pitches of the table in tile memory (R182). -/
def wScaleBytes (d : BitVec 512) : Nat :=
  if wScaled d then (wRowBytes d + blockBytes (wFmt d) - 1) / blockBytes (wFmt d) else 0
def wTilePitch (d : BitVec 512) : Nat := roundUp (wRowBytes d) 512
def wTileQ (d : BitVec 512) : Nat := roundUp (wScaleBytes d) 64

/-- Tile t of quadrant q (R29). -/
def quadTile (q t : Nat) : Nat := 16 * (q / 4) + 2 * (q % 4) + (if t == 0 then 0 else if t == 1 then 1 else if t == 2 then 8 else 9)

/-- The Wayfarer that runs the work of Wayfarer q (R208). -/
def State.wayFor (s : State) (q : WayIx) : WayIx :=
  ((List.finRange 16).find? (fun e => domWay e.val == s.bindEng (domWay q.val))).getD q

/-- Another Wayfarer stands in for the fenced Wayfarer q (R208). -/
def State.wRebound (s : State) (q : WayIx) : Bool := s.wayFor q != q

/-- The tile whose memory a command reads and writes: one of the quadrant of the Wayfarer that the plan names (R208). -/
def wTarget (q : WayIx) (d : BitVec 512) : Nat := quadTile q.val (wTile d)

/-- Module address of a byte of the target tile. -/
def wAt (q : WayIx) (d : BitVec 512) (a : Nat) : Nat := tileAddr (wTarget q d) a

/-- Rows that DST_CAP holds, and the bytes of both planes. -/
def wFit (d : BitVec 512) : Nat := wCap d / wTilePitch d
def wPlanes (d : BitVec 512) : Nat := wDst d + wCap d + wFit d * wTileQ d

/-- The refusals of R188. -/
def wRefused (op : Nat) (d : BitVec 512) : Bool :=
  let copy := decide (wCopyIn ≤ op)
  wOp d != op || (!copy && !fmtOk (wFmt d)) || wRowBytes d == 0 || wRowBytes d % 32 != 0 || decide (32768 < wRowBytes d)
    || (!copy && (wTable d % 512 != 0 || (wScaled d && wTableScale d % 64 != 0) || wDst d % 512 != 0 || wList d % 4 != 0))
    || (op == wGatherCsr && (wAdj d % 4 != 0 || wSeg d % 4 != 0))
    || decide (tileBytes < (if copy then wDst d + wCap d else wPlanes d))

/-- What a Wayfarer command counts (R184, R188). -/
structure WCnt where
  rows : Nat
  next : Option Nat
  badIndex : Nat
  badOffset : Nat
  poison : Nat
  deriving DecidableEq, Repr

def WCnt.zero : WCnt := ⟨0, none, 0, 0, 0⟩

/-- A value of a record that the spec gives no rule for: CYCLES, and NEXT_NODE of a command that reached its end. -/
def State.freeRecord (s : State) (n : TileIx) (field : Nat) : Nat :=
  (Config.freeWord s.free (2 ^ 40 + field * 2 ^ 38 + n.val * 2 ^ 30 + (s.tile n).recs.length)).toNat

/-- The record of R188. -/
def State.wEnd (s : State) (q : WayIx) (n : TileIx) (d : BitVec 512) (status : Nat) (c : WCnt) : State :=
  let k := (s.wayFor q).val
  let reb := s.wRebound q
  let next := match c.next with | some x => x | none => s.freeRecord n 0
  let wst := status * 2 ^ 8 + b2n c.next.isSome + 2 * b2n (c.badIndex != 0) + 4 * b2n (c.poison != 0) + 8 * b2n reb
  let s1 := (((s.flagIf (status != stOk) (F.ENG_WAY_STAT_REFUSED k)).flagIf (c.badIndex != 0) (F.ENG_WAY_STAT_BAD_INDEX k)).flagIf
    (c.badOffset != 0) (F.ENG_WAY_STAT_BAD_OFFSET k)).flagIf (c.poison != 0) (F.ENG_WAY_STAT_POISON k)
  let s2 := ((s1.flagIf c.next.isSome (F.ENG_WAY_STAT_TRUNC k)).flagIf reb (F.ENG_WAY_STAT_REBOUND k)).bump (F.ENG_WAY_STAT_ROWS_STEP k) c.rows
  let b := domWay k
  let s3 := ((s2.perfEvent b 0x20 c.rows).perfEvent b 0x21 ((c.rows * wRowBytes d + 511) / 512)).perfEvent b 0x22 c.badIndex
  s3.complete n b (BitVec.ofNat 256 (wTag d + sat32 c.rows * 2 ^ 32 + next % 2 ^ 32 * 2 ^ 64 + sat32 c.badIndex * 2 ^ 96
    + sat32 c.badOffset * 2 ^ 128 + sat32 c.poison * 2 ^ 160 + s.freeRecord n 1 * 2 ^ 192 + wst * 2 ^ 224))

/-- Gather table row `ix` as row `pos` of the target's table (R182, R184). -/
def State.wGatherRow (s : State) (q : WayIx) (n : TileIx) (d : BitVec 512) (c : WCnt) (pos ix : Nat) : State × WCnt :=
  let rb := wRowBytes d
  let sb := wScaleBytes d
  let put := fun (s : State) (row sc : List Byte) =>
    let s1 := s.unitWrite n (wAt q d (wDst d + pos * wTilePitch d)) row false
    if sb == 0 then s1 else s1.unitWrite n (wAt q d (wDst d + wCap d + pos * wTileQ d)) sc false
  if wTableRows d ≤ ix then
    (put s (List.replicate rb 0) (List.replicate sb 0), { c with rows := c.rows + 1, badIndex := c.badIndex + 1 })
  else
    let (s1, row, bad1) := s.engRead n (wTable d + ix * wTablePitch d) rb
    let (s2, sc, bad2) := if sb == 0 then (s1, [], false) else s1.engRead n (wTableScale d + ix * wTableQ d) sb
    if bad1 || bad2 then
      (put s2 (List.replicate rb 0) (List.replicate sb 0), { c with rows := c.rows + 1, poison := c.poison + 1 })
    else (put s2 row sc, { c with rows := c.rows + 1 })

/-- Gather rows in order from position `pos`. -/
def State.wGatherRows (s : State) (q : WayIx) (n : TileIx) (d : BitVec 512) (c : WCnt) (pos : Nat) (l : List Nat) : State × WCnt :=
  l.zipIdx.foldl (fun acc e => acc.1.wGatherRow q n d acc.2 (pos + e.2) e.1) (s, c)

/-- Whether the index at offset `o` lies outside the memory that module addresses name. -/
def State.wBeyond (s : State) (d : BitVec 512) (o : Nat) : Bool :=
  let a := wAdj d + 4 * o
  decide (2 ^ 40 ≤ a) || s.decodeAddr (s.view false a) == .unmapped

/-- A node's neighbours (R180, R184): none, counted, where its offsets, two's complement (R36), decrease or lie outside. -/
def State.wNeighbours (s : State) (n : TileIx) (d : BitVec 512) (v : Nat) : State × List Nat × Bool :=
  let (s1, o, _) := s.engInts n (wList d + 4 * v) 2
  let a := toSigned 32 (o.getD 0 0)
  let b := toSigned 32 (o.getD 1 0)
  if b < a || (decide (a < b) && (decide (a < 0) || s1.wBeyond d (b - 1).toNat)) then (s1, [], true)
  else let (s2, l, _) := s1.engInts n (wAdj d + 4 * a.toNat) (b - a).toNat; (s2, l, false)

/-- Nodes in ascending order: segment ends, and where the gather stops (R183). `fuel` is the count of nodes. -/
def State.wNodes (s : State) (q : WayIx) (n : TileIx) (d : BitVec 512) : Nat → Nat → WCnt → List Nat → State × WCnt × List Nat
  | 0, _, c, segs => (s, c, segs)
  | fuel + 1, v, c, segs =>
    let (s1, l, bad) := s.wNeighbours n d v
    if wFit d < c.rows + l.length then (s1, { c with next := some v }, segs)
    else
      let (s2, c2) := s1.wGatherRows q n d { c with badOffset := c.badOffset + b2n bad } c.rows l
      s2.wNodes q n d fuel (v + 1) c2 (segs ++ [c2.rows])

/-- GATHER_CSR (R182, R183): rows, and N_COUNT + 1 segment offsets. -/
def State.opGatherCsr (s : State) (q : WayIx) (n : TileIx) (d : BitVec 512) : State :=
  if wRefused wGatherCsr d then s.wEnd q n d stLayout WCnt.zero else
  let (s1, c, segs) := s.wNodes q n d (wCount d) (wFirst d) WCnt.zero []
  let offs := 0 :: (segs ++ List.replicate (wCount d - segs.length) c.rows)
  (s1.unitWrite n (wAt q d (wSeg d)) (offs.map (fun o => leBytes 4 o)).flatten false).wEnd q n d stOk c

/-- GATHER_IDX (R182, R183). -/
def State.opGatherIdx (s : State) (q : WayIx) (n : TileIx) (d : BitVec 512) : State :=
  if wRefused wGatherIdx d then s.wEnd q n d stLayout WCnt.zero else
  let k := Nat.min (wCount d) (wFit d)
  let (s1, l, _) := s.engInts n (wList d + 4 * wFirst d) k
  let (s2, c) := s1.wGatherRows q n d WCnt.zero 0 l
  s2.wEnd q n d stOk { c with next := if k < wCount d then some (wFirst d + k) else none }

/-- SCATTER_IDX (R185): rows in list order. -/
def State.opScatterIdx (s : State) (q : WayIx) (n : TileIx) (d : BitVec 512) : State :=
  if wRefused wScatterIdx d then s.wEnd q n d stLayout WCnt.zero else
  let (s1, l, _) := s.engInts n (wList d + 4 * wFirst d) (wCount d)
  let (s2, c) := l.zipIdx.foldl (fun (acc : State × WCnt) e =>
    let (s, c) := acc
    if wTableRows d ≤ e.1 then (s, { c with badIndex := c.badIndex + 1 }) else
    let (s1, row, bad1) := s.engRead n (wAt q d (wDst d + e.2 * wTilePitch d)) (wRowBytes d)
    let s2 := s1.unitWrite n (wTable d + e.1 * wTablePitch d) row bad1
    let c1 := { c with rows := c.rows + 1 }
    if wScaleBytes d == 0 then (s2, c1) else
      let (s3, sc, bad2) := s2.engRead n (wAt q d (wDst d + wCap d + e.2 * wTileQ d)) (wScaleBytes d)
      (s3.unitWrite n (wTableScale d + e.1 * wTableQ d) sc bad2, c1)) (s1, WCnt.zero)
  s2.wEnd q n d stOk c

/-- COPY_IN (R186). -/
def State.opCopyIn (s : State) (q : WayIx) (n : TileIx) (d : BitVec 512) : State :=
  if wRefused wCopyIn d then s.wEnd q n d stLayout WCnt.zero else
  let s1 := s.forEach (List.range (wCount d)) (fun s i =>
    s.moveBytes n (wList d + i * wTablePitch d) (wAt q d (wDst d + i * wTilePitch d)) (wRowBytes d))
  s1.wEnd q n d stOk { WCnt.zero with rows := wCount d }

/-- COPY_OUT (R186): the granules it reads that carry a mark taint the step. -/
def State.opCopyOut (s : State) (q : WayIx) (n : TileIx) (d : BitVec 512) : State :=
  if wRefused wCopyOut d then s.wEnd q n d stLayout WCnt.zero else
  let s1 := s.forEach (List.range (wCount d)) (fun s i =>
    let (s1, row, bad) := s.engRead n (wAt q d (wDst d + i * wTilePitch d)) (wRowBytes d)
    s1.unitWrite n (wAdj d + i * wTablePitch d) row bad)
  s1.wEnd q n d stOk { WCnt.zero with rows := wCount d }

/-! Tallies: fields of the descriptor (R193). -/

def tOp (d : BitVec 512) : Nat := dfld d 0 63 56
def tSrc (d : BitVec 512) : Nat := dfld d 0 55 52
def tDst (d : BitVec 512) : Nat := dfld d 0 51 48
def tAxis (d : BitVec 512) : Bool := dbit d 0 47
def tExpand (d : BitVec 512) : Bool := dbit d 0 46
def tEmptyNeg (d : BitVec 512) : Bool := dbit d 0 45
def tColAcc (d : BitVec 512) : Bool := dbit d 0 44
def tSummary (d : BitVec 512) : Bool := dbit d 0 43
def tSumSlot (d : BitVec 512) : Nat := dfld d 0 42 38
def tTag (d : BitVec 512) : Nat := dfld d 0 31 0
def tSegs (d : BitVec 512) : Nat := dfld d 1 63 32
def tCols (d : BitVec 512) : Nat := dfld d 1 31 0
def tX (d : BitVec 512) : Nat := dfld d 2 39 0
def tY (d : BitVec 512) : Nat := dfld d 3 39 0
def tOff (d : BitVec 512) : Nat := dfld d 4 39 0
def tDstBase (d : BitVec 512) : Nat := dfld d 5 39 0
def tDst2 (d : BitVec 512) : Nat := dfld d 6 39 0
def tXq (d : BitVec 512) : Nat := dfld d 7 63 48 * 64
def tCol (d : BitVec 512) : Nat := dfld d 7 39 0

def tSum : Nat := 0x30
def tMax : Nat := 0x31
def tMean : Nat := 0x32
def tCount : Nat := 0x33
def tDot : Nat := 0x34
def tPair : Nat := 0x35

/-- Formats of a block-scaled X, and wide floating formats (R189). -/
def tScaled (d : BitVec 512) : Bool := narrow (tSrc d) || fp8 (tSrc d)
def wideFloat (f : Nat) : Bool := f == fFp32 || f == fBf16 || f == fFp16
def tInt (d : BitVec 512) : Bool := tSrc d == fInt32
def tNeedsY (op : Nat) : Bool := op == tDot || op == tPair
def tYfmt (d : BitVec 512) : Nat := if tScaled d then fFp32 else tSrc d

/-- The refusals of R194. -/
def tRefused (op : Nat) (d : BitVec 512) : Bool :=
  let al := fun (base f : Nat) => base % Nat.max 1 (elemBytes f) != 0
  tOp d != op || !(tScaled d || wideFloat (tSrc d) || tInt d)
    || (if tInt d || op == tCount then tDst d != fInt32 else !wideFloat (tDst d))
    || tSegs d == 0 || tCols d == 0 || decide (28 < tSumSlot d)
    || (tColAcc d && (!tNeedsY op || tScaled d))
    || (if tScaled d then tX d % 512 != 0 || tCol d % 64 != 0 else al (tX d) (tSrc d))
    || (tNeedsY op && al (tY d) (tYfmt d)) || al (tDstBase d) (tDst d) || (op == tPair && al (tDst2 d) (tDst d))
    || (!tAxis d && tOff d % 4 != 0) || (tColAcc d && tCol d % 4 != 0)

/-- Pitch of a row of COLS elements (R193). -/
def tPitch (cols f : Nat) : Nat := let b := cols * elemBytes f; if b < 512 then b else roundUp b 512

/-- An element of a Tally: an integer, or an FP32 value. -/
inductive TVal where
  | int (v : Int)
  | flt (x : U32)
  deriving DecidableEq, Repr

def TVal.fv : TVal → Fv
  | .int v => intFv v
  | .flt x => fv32 x

def tElem (f c : Nat) : TVal := if f == fInt32 then .int (toSigned 32 c) else .flt (code32 (elemValue f c))

/-- Rows are held by their number plus 2³¹: offsets are two's complement (R36). -/
def tRowNo (r : Nat) : Int := (r : Int) - 2147483648

/-- A module address at a signed distance from a base; one below 0 names no memory. -/
def tAddr (base : Nat) (o : Int) : Nat := if (base : Int) + o < 0 then 2 ^ 40 else ((base : Int) + o).toNat

/-- A row of Y, or of an X without block scales. -/
def State.tRow (s : State) (n : TileIx) (base f cols r : Nat) : State × List TVal :=
  let (s1, b, _) := s.engRead n (tAddr base (tRowNo r * tPitch cols f)) (cols * elemBytes f)
  (s1, (chunksOf (elemBytes f) cols b).map (fun e => tElem f (leNat e)))

/-- A row of X (R189, R193): a block-scaled one is dequantised with a tensor scale of 1.0. -/
def State.tXrow (s : State) (n : TileIx) (d : BitVec 512) (r : Nat) : State × List TVal :=
  if tScaled d then
    let rb := blockBytes (tSrc d) * blocks64 (tCols d)
    let p : Plane := ⟨tSrc d, tX d, tCol d, roundUp rb 512, tXq d, true, true⟩
    let row : Plane := { p with base := tAddr p.base (tRowNo r * p.pitch), sbase := tAddr p.sbase (tRowNo r * p.spitch) }
    let (s1, c, _) := s.readTensor (fun s a len => s.engRead n a len) row 1 (tCols d)
    (s1, (valuesOf (tSrc d) true fone c).flatten.map TVal.flt)
  else s.tRow n (tX d) (tSrc d) (tCols d) r

/-- The rows of each segment, and whether an offset decreased (R194). -/
def State.tSegments (s : State) (n : TileIx) (d : BitVec 512) : State × List (List Nat) × Bool :=
  if tAxis d then (s, (List.range (tSegs d)).map (fun r => [r + 2147483648]), false)
  else
    let (s1, o, _) := s.engInts n (tOff d) (tSegs d + 1)
    let v := o.map (fun w => (toSigned 32 w + 2147483648).toNat)
    let pairs := v.zip (v.drop 1)
    (s1, pairs.map (fun p => (List.range (p.2 - p.1)).map (fun i => p.1 + i)), pairs.any (fun p => decide (p.2 < p.1)))

/-- Rows by number, read once each. -/
def State.tRows (s : State) (get : State → Nat → State × List TVal) (l : List Nat) : State × Sparse (List TVal) :=
  l.foldl (fun acc r =>
    if (Sparse.find acc.2 r).isSome then acc else
    let (s1, v) := get acc.1 r
    (s1, Sparse.insert acc.2 r v)) (s, [])

/-- Sums and products with the saturations counted (R190). -/
def tAdd (a : TVal × Nat) (b : TVal) : TVal × Nat :=
  match a.1, b with
  | .int x, .int y => let r := satInt (x + y); (.int (int32 r.1), a.2 + b2n r.2)
  | x, y => (.flt (add32 (code32 x.fv) (code32 y.fv)), a.2)

def tMul (a b : TVal) : TVal × Nat :=
  match a, b with
  | .int x, .int y => let r := satInt (x * y); (.int (int32 r.1), b2n r.2)
  | x, y => (.flt (mul32 (code32 x.fv) (code32 y.fv)), 0)

def tZero (int : Bool) : TVal := if int then .int 0 else .flt 0#32

/-- A sum from zero in order. -/
def tTotal (int : Bool) (l : List TVal) : TVal × Nat := l.foldl tAdd (tZero int, 0)

/-- Σ ÷ n, rounded to nearest even; zero of an empty segment (R189, R192). -/
def tDivide (v : TVal) (n : Nat) : TVal :=
  match v with
  | .int x => if n = 0 then .int 0 else let q : Int := divRne x.natAbs n; .int (if x < 0 then -q else q)
  | .flt x => if n = 0 then .flt 0#32 else .flt (div32 (fv32 x) (.fin false n 0))

/-- The larger of two elements, +0 above −0; NaN where either is. -/
def tMore (a b : TVal) : TVal :=
  match a, b with
  | .int x, .int y => .int (if x < y then y else x)
  | x, y => .flt (code32 (vMore x.fv y.fv))

/-- What one segment gives: one value, two for SEG_PAIR; and the saturations. -/
def tReduce (op : Nat) (int neg : Bool) (xs ys : List TVal) : List TVal × Nat :=
  let n := xs.length
  let prods := (xs.zip ys).map (fun p => tMul p.1 p.2)
  let psat := (prods.map (fun p => p.2)).foldl (· + ·) 0
  let pv := prods.map (fun p => p.1)
  if op == tCount then ([.int n], 0)
  else if op == tMax then
    match xs with
    | [] => ([if neg then (if int then .int (-2147483648) else .flt (inf32 true)) else tZero int], 0)
    | x :: rest => ([rest.foldl tMore x], 0)
  else if op == tSum then let t := tTotal int xs; ([t.1], t.2)
  else if op == tMean then let t := tTotal int xs; ([tDivide t.1 n], t.2)
  else if op == tDot then let t := tTotal int pv; ([t.1], t.2 + psat)
  else
    let t := tTotal int ys
    let u := tTotal int pv
    ([tDivide t.1 n, tDivide u.1 n], t.2 + u.2 + psat)

/-- Conversion to DST_FMT: RNE, overflow as OVF = 0 (R194). -/
def tConvert (f : Nat) (v : TVal) : Elem :=
  match v with
  | .int x => if f == fInt32 then exactElem (BitVec.ofInt 32 x).toNat else quantise f 0 0 false fone (intFv x)
  | .flt x => quantise f 0 0 false fone (fv32 x)

/-- COLACC (R189, R190): column sums of x × y and of y over the rows, from their current contents. -/
def State.tColumns (s : State) (n : TileIx) (d : BitVec 512) (rows : List Nat) (x y : Sparse (List TVal)) : State :=
  let cols := tCols d
  let p := tPitch cols fFp32
  let (s1, b1, bad1) := s.engRead n (tCol d) (4 * cols)
  let (s2, b2, bad2) := s1.engRead n (tCol d + p) (4 * cols)
  let at_ := fun (m : Sparse (List TVal)) (r c : Nat) => ((Sparse.getD m r []).getD c (.flt 0)).fv
  let sums := fun (start : List U32) (f : Nat → Nat → U32) => start.zipIdx.map (fun e => rows.foldl (fun a r => add32 a (f r e.2)) e.1)
  let xy := sums (words32 b1) (fun r c => code32 (mulFv (at_ x r c) (at_ y r c)))
  let ys := sums (words32 b2) (fun r c => code32 (at_ y r c))
  let bytes := fun (l : List U32) => (l.map (fun w => leBytes 4 w.toNat)).flatten
  (s2.unitWrite n (tCol d) (bytes xy) (bad1 || bad2)).unitWrite n (tCol d + p) (bytes ys) (bad1 || bad2)

/-- Places of a result of segment i, column c (R191, R193). -/
def tPlaces (d : BitVec 512) (i c : Nat) (rows : List Nat) : List Int :=
  let w := elemBytes (tDst d)
  let p := tPitch (tCols d) (tDst d)
  if tAxis d then (if tExpand d then (List.range (tCols d)).map (fun k => ((i * p + k * w : Nat) : Int)) else [((i * w : Nat) : Int)])
  else if tExpand d then rows.map (fun r => tRowNo r * p + ((c * w : Nat) : Int))
  else [((i * p + c * w : Nat) : Int)]

/-- A refused Tally command. -/
def State.tRefuse (s : State) (t : EngIx) (n : TileIx) (d : BitVec 512) : State :=
  ((s.flag (F.ENG_TAL_STAT_REFUSED t.val)).refusedSummary n (tSummary d) (tSumSlot d)).complete n (domTally t.val)
    (recordBits (tTag d) (numStatus Cnt.zero stLayout))

/-- Non-finite inputs. -/
def tNonfin (l : List TVal) : Nat := (l.filter (fun v => !isFinFv v.fv)).length

/-- A Tally command (R189 to R194): every operand is read before any result is written (R179). -/
def State.opTally (s : State) (t : EngIx) (n : TileIx) (op : Nat) (d : BitVec 512) : State :=
  if tRefused op d then s.tRefuse t n d else
  let before := (s.tile n).poisonUsed
  let (s1, segs, bad) := (s.modTile n (fun x => { x with poisonUsed := false })).tSegments n d
  let rows := segs.flatten.foldl NatSet.add []
  let (s2, x) := if op == tCount then (s1, []) else s1.tRows (fun s r => s.tXrow n d r) rows
  let (s3, y) := if tNeedsY op then s2.tRows (fun s r => s.tRow n (tY d) (tYfmt d) (tCols d) r) rows else (s2, [])
  let tainted := (s3.tile n).poisonUsed
  let int := tInt d
  let pick := fun (m : Sparse (List TVal)) (r c : Nat) => (Sparse.getD m r []).getD c (tZero int)
  let line := fun (m : Sparse (List TVal)) (seg : List Nat) (c : Nat) =>
    if tAxis d then (List.range (tCols d)).map (fun k => pick m (seg.headD 0) k) else seg.map (fun r => pick m r c)
  let cells := segs.zipIdx.map (fun e => (List.range (if tAxis d then 1 else tCols d)).map (fun c =>
    let xs := line x e.1 c
    let ys := if tNeedsY op then line y e.1 c else []
    let nf := if op == tCount then 0 else tNonfin xs + tNonfin ys
    (tPlaces d e.2 c e.1, tReduce op int (tEmptyNeg d) xs ys, nf, xs.length)))
  let all := cells.flatten
  let outs := fun (k base : Nat) => all.filterMap (fun r => (r.2.1.1[k]?).map (fun v => (r.1.map (fun p => tAddr base p), tConvert (tDst d) v)))
  let w := elemBytes (tDst d)
  let done := outs 0 (tDstBase d) ++ outs 1 (tDst2 d)
  let s4 := (if before then s3.taintTile n else s3).forEach done (fun s o => s.forEach o.1 (fun s a => s.unitWrite n a (leBytes w o.2.code) tainted))
  let s5 := if tColAcc d then s4.tColumns n d rows x y else s4
  let cnt0 := done.foldl (fun (c : Cnt) o => o.1.foldl (fun c _ => c.elem o.2) c) Cnt.zero
  let cnt : Cnt := { cnt0 with nonfin := (all.map (fun r => r.2.2.1)).foldl (· + ·) 0 }
  let isat := (all.map (fun r => r.2.1.2)).foldl (· + ·) 0
  let empty := if tAxis d then 0 else (segs.filter (fun g => g.isEmpty)).length
  let elems := (all.map (fun r => r.2.2.2)).foldl (· + ·) 0
  let k := t.val
  let s6 := ((s5.flagIf (isat != 0) (F.ENG_TAL_STAT_INT_SAT k)).flagIf bad (F.ENG_TAL_STAT_BAD_OFFSET k)).flagIf (empty != 0)
    (F.ENG_TAL_STAT_EMPTY_SEG k)
  let s7 := s6.bump (F.ENG_TAL_STAT_SEGS_STEP k) (tSegs d)
  let vals := all.filterMap (fun r => r.2.1.1[0]?) ++ all.filterMap (fun r => r.2.1.1[1]?)
  let pre := if int || op == tCount then Results.ints [vals.map (fun v => match v with | .int i => i | .flt _ => 0)]
    else Results.floats [vals.map (fun v => code32 v.fv)]
  let s8 := if tSummary d then
      s7.putSummary n (tSumSlot d) (summaryOf false pre (summaryFlags cnt false false (isat != 0) (empty != 0))) else s7
  let b := domTally k
  let s9 := ((s8.perfEvent b 0x28 elems).perfEvent b 0x29 (tSegs d)).perfEvent b 0x2A empty
  (s9.sticky n cnt.nonfin false).complete n b
    (recordBits (tTag d + sat32 (tSegs d) * 2 ^ 32 + sat32 empty * 2 ^ 64 + (b2n (empty != 0) + 2 * b2n bad + 4 * b2n (isat != 0)) * 2 ^ 96)
      (numStatus cnt stOk))

end Sys2Proof.Machine
end

