-- ==== Sys2Proof/Machine/CollRun.lean ====
section
/-! DEFINITION. Collectives at work: wire tensors (R107, R165, R169, R276, R277), posting (R282, R284), chunks sent and received (R285, R287,
R289), bridge slots and relay (R291, R292), completion (R286, R294). -/

namespace Sys2Proof.Machine

/-! Posting (R282, R284). -/

/-- BAD_LAYOUT of a post (R282). -/
def State.collBadLayout (s : State) (op : Nat) (d : BitVec 512) : Bool :=
  let vote := op == 0x61 && cCombine d == 1
  cOp d != op || (op == 0x61 && decide (1 < cCombine d))
    || (match s.group (cGroup d) with
        | none => true
        | some g => g.members.isEmpty || decide (g.members.length ≤ g.selfPos)
            || ((op == 0x62 || op == 0x63) && decide (g.members.length ≤ cPeer d)))
    || cSrc d % 64 != 0 || cDst d % 64 != 0 || cResid d % 64 != 0
    || cLength d == 0 || cLength d % (if cWire d then 64 else 32) != 0
    || (vote && (cWire d || cLength d != 4096)) || s.get F.MGT_PERIOD_STAT_PHASE == 0

/-- This module encodes elements of the collective: BAD_SCALE where it has no entry (R277). -/
def encodes (g : Group) (d : BitVec 512) : Bool :=
  (cOp d == 0x60 && partOf g == .leader) || (cOp d == 0x61 && partOf g != .leader) || cOp d == 0x62

/-- The status of a post (R73, R282). -/
def State.collStatus (s : State) (op : Nat) (d : BitVec 512) : Nat :=
  statusOf (s.collBadLayout op d)
    (cWire d && (s.wireEntry (cWireId d)).isNone && (match s.group (cGroup d) with | some g => encodes g d | none => false))

/-- The body of READY for a posted collective (R272). -/
def readyBody (c : Coll) : ReadyBody where
  key := collKeyOf c
  opcode := BitVec.ofNat 8 (cOp c.d)
  wire := cWire c.d
  combine := BitVec.ofNat 3 (cCombine c.d)
  length := BitVec.ofNat 32 (cLength c.d)
  wireId := BitVec.ofNat 24 (cWireId c.d)

/-- A READY equals a sender's own collective; a RECV answers a SEND (R284). -/
def readyMatches (c : Coll) (b : ReadyBody) : Bool :=
  let own := readyBody c
  b == (if cOp c.d == 0x62 then { own with opcode := 0x63 } else own)

/-- A READY concerns a collective that sends to its member. -/
def State.readyFor (s : State) (src : Nat) (b : ReadyBody) (c : Coll) : Option Nat :=
  if BitVec.ofNat 8 (cGroup c.d) == b.key.group && BitVec.ofNat 32 (cSeq c.d) == b.key.collSeq then
    match s.group (cGroup c.d) with
    | some g => match groupPos g src with
      | some i => if (sendTargets g c.d).contains i then some i else none
      | none => none
    | none => none
  else none

/-- A READY that does not match: MISMATCH, an error record, and the sender keeps waiting (R284). -/
def State.readyMismatch (s : State) (c : Coll) : State × Coll :=
  ((s.flag F.COLL_STAT_MISMATCH).post clsJob 0 1 0x0F 0 0, { c with cflags := c.cflags ||| 0x10 })

/-- A READY meets a collective: matched, not a match, or not its own. The last value says that the READY is used up; one of a later period
stays, and a period exactly 2³¹ away is an earlier one (R25). -/
def State.meetReady (s : State) (src : Nat) (b : ReadyBody) (c : Coll) : State × Coll × Bool :=
  match s.readyFor src b c with
  | none => (s, c, false)
  | some i =>
    if readyMatches c b then (s, { c with readyFrom := NatSet.add c.readyFrom i }, true)
    else
      let (s1, c1) := s.readyMismatch c
      (s1, c1, c.period == b.key.period.toNat || serialEarlier 32 b.key.period.toNat c.period)

/-- READY frames that came before the post. -/
def State.takeReadys (s : State) (c : Coll) : State × Coll :=
  let (s1, c1, left) := s.coll.readys.foldl (fun (acc : State × Coll × List (BitVec 16 × ReadyBody)) r =>
    let (s1, c1, used) := acc.1.meetReady r.1.toNat r.2 acc.2.1
    (s1, c1, if used then acc.2.2 else acc.2.2 ++ [r])) (s, c, [])
  ({ s1 with coll := { s1.coll with readys := left } }, c1)

/-! GO and the planes' modes (R291). -/

/-- A plane runs in relay mode. -/
def State.relays (s : State) (c : Coll) (p : Nat) : State × Coll :=
  ((s.flag F.COLL_STAT_RELAY).bump F.COLL_CNT_RELAY_PLANES 1, { c with cflags := c.cflags ||| (1 <<< p) })

def modeOf (o : Option Nat) : PlaneMode := match o with | some n => .slot n | none => .relay

/-- The routes of this module to a position use plane p. -/
def State.planeTo (s : State) (g : Group) (i p : Nat) : Bool :=
  match memberAt g i with
  | some m => (s.portTo m 0).any (fun q => q.val == 15 + p) || (s.portTo m 1).any (fun q => q.val == 15 + p)
  | none => false

/-- GO reaches a sub-leader's collective. Only a plane that this sub-leader uses relays its partials. -/
def State.takeGo (s : State) (g : Group) (c : Coll) (s0 s1 : Option Nat) : State × Coll :=
  if c.go then (s, c) else
  let c1 := { c with go := true, planes := #v[some (modeOf s0), some (modeOf s1)] }
  let (t, c2) := if s0.isNone && s.planeTo g g.leaderPos 0 then s.relays c1 0 else (s, c1)
  if s1.isNone && s.planeTo g g.leaderPos 1 then t.relays c2 1 else (t, c2)

/-- A reduction of sums whose second stage this module takes part in. -/
def sumWithRemote (g : Group) (d : BitVec 512) : Bool := cOp d == 0x61 && cCombine d == 0 && !(remotePods g).isEmpty

/-- A GO that came before the post. -/
def State.takeGos (s : State) (g : Group) (c : Coll) : State × Coll :=
  if sumWithRemote g c.d && partOf g == .subLeader then
    match s.coll.gos.find? (fun e => e.1 == collKeyOf c) with
    | some e => ({ s with coll := { s.coll with gos := s.coll.gos.filter (fun x => x.1 != collKeyOf c) } }).takeGo g c e.2.1 e.2.2
    | none => (s, c)
  else (s, c)

/-- A plane carries partials of some sub-leader over the routes of this module. -/
def State.planeUsed (s : State) (g : Group) (p : Nat) : Bool :=
  (remotePods g).any (fun pod => s.planeTo g (subLeader g pod) p)

def bodyOf (k : CollKey) : List Nat := [k.group.toNat, k.period.toNat, k.collSeq.toNat]

/-- The bridge port of a plane. -/
def planePort (p : Fin 2) : PortIx := ⟨15 + p.val, by omega⟩

/-- The leader asks each plane in use for a slot, once (R291). -/
def State.askSlot (s : State) (g : Group) (c : Coll) (p : Fin 2) : State × Coll :=
  if c.go || c.planes[p].isSome || !s.planeUsed g p.val || !s.portUp (15 + p.val) then (s, c) else
  (s.sendControl (planePort p) 5 (bodyOf (collKeyOf c) ++ [(remotePods g).length, cLength c.d]),
    { c with planes := c.planes.set p (some .asked) })

def modeBody (m : Option PlaneMode) : List Nat := match m with | some (.slot n) => [1, n] | _ => [0, 0]

/-- GO leaves once every plane in use has answered (R291); at once where none is in use. -/
def State.sendGo (s : State) (g : Group) (c : Coll) : State × Coll :=
  let open_ := (List.finRange 2).any (fun p => c.planes[p] == some .asked || (c.planes[p].isNone && s.planeUsed g p.val))
  let c1 := if !c.go && !open_ then { c with go := true } else c
  if !c1.go then (s, c1) else
  ((remotePods g).map (subLeader g)).foldl (fun (acc : State × Coll) i =>
    if acc.2.goTo.contains i then acc else
    match memberAt g i with
    | none => acc
    | some m => match acc.1.portTo m 0 with
      | some p => if acc.1.portUp p.val then
          (acc.1.sendControl p 4 (bodyOf (collKeyOf c) ++ modeBody c1.planes[0] ++ modeBody c1.planes[1]),
            { acc.2 with goTo := i :: acc.2.goTo })
        else acc
      | none => acc) (s, c1)

/-- Slot requests and GO of a leader. -/
def State.collSlots (s : State) (g : Group) (c : Coll) : State × Coll :=
  if sumWithRemote g c.d && partOf g == .leader then
    let (s1, c1) := s.askSlot g c 0
    let (s2, c2) := s1.askSlot g c1 1
    s2.sendGo g c2
  else (s, c)

/-! READY leaves (R284). -/

def State.collReadys (s : State) (g : Group) (c : Coll) : State × Coll :=
  (recvSources g c.d).foldl (fun (acc : State × Coll) i =>
    if acc.2.readySent.contains i then acc else
    match memberAt g i with
    | none => acc
    | some m => match acc.1.portTo m 0 with
      | some p => if acc.1.portUp p.val then
          (acc.1.sendControl p 3 (bodyOf (collKeyOf c) ++
            [cOp c.d, b2n (cWire c.d), cCombine c.d, cLength c.d, cWireId c.d]), { acc.2 with readySent := i :: acc.2.readySent })
        else acc
      | none => acc) (s, c)

/-! Contributions held for a sum (R285, R289). -/

/-- FP32 elements of unit u of a sum: 1,024, fewer in the last. -/
def unitElems (d : BitVec 512) (u : Nat) : Nat := Nat.min 1024 (cElems d - 1024 * u)

/-- The contribution chunk that holds unit u, and where in it. -/
def chunkOfUnit (d : BitVec 512) (u : Nat) : Nat := if cWire d then u / 8 else u
def placeOfUnit (d : BitVec 512) (u : Nat) : Nat := if cWire d then 1024 * (u % 8) else 0

def stagedOf (c : Coll) (src chunk : Nat) : Option Staged := c.staged.find? (fun x => x.src == src && x.chunk == chunk)

/-- Unit u of a position's contribution. -/
def stagedUnit (c : Coll) (src u : Nat) : List U32 × Bool :=
  match stagedOf c src (chunkOfUnit c.d u) with
  | some x => ((x.words.drop (placeOfUnit c.d u)).take (unitElems c.d u), x.poison)
  | none => ([], false)

def addWords (a b : List U32) : List U32 := List.zipWith add32 a b

/-- Sum in a fixed order (R289). -/
def sumWords (start : List U32) (l : List (List U32)) : List U32 := l.foldl addWords start

/-- Staged chunks of a collective that are no longer needed leave; their staging is free (R285). -/
def State.unstage (s : State) (c : Coll) (gone : Staged → Bool) : State × Coll :=
  (s.forEach (c.staged.filter gone) (fun s x => s.freeStaging x.port 1), { c with staged := c.staged.filter (fun x => !gone x) })

/-- Every unit of contribution chunk i is formed. -/
def chunkUsed (c : Coll) (i : Nat) : Bool :=
  (List.range (cPartialChunks c.d)).all (fun u => chunkOfUnit c.d u != i || c.written.contains u)

/-- Counts of the elements of a wire chunk, taken once (R107). -/
def countWire (c : Coll) (blocks : List (List WireElem)) : Coll :=
  let k := blocks.foldl (fun (k : Cnt) b => b.foldl (fun (k : Cnt) (e : WireElem) => k.elem e.elem) k) Cnt.zero
  { c with sat := c.sat + k.sat, flush := c.flush + k.flush, nonfin := c.nonfin + k.nonfin }

/-- A sub-leader's own wire contribution is encoded and decoded like every other (R289), its residual written then: no acknowledgement is
awaited for what is not sent (DEDUCED, log entry 42). -/
def State.ownWire (s : State) (g : Group) (c : Coll) (i : Nat) : State × Coll :=
  match s.wireEntry (cWireId c.d) with
  | none => (s, c)
  | some w =>
    let (s1, blocks, bad) := s.wireChunk c.tile c.d w i
    let x : Staged := ⟨g.selfPos, i, 18, (blocks.flatten.map (fun (e : WireElem) => e.value)), bad⟩
    (s1.writeResidual c.tile c.d w i, { countWire c blocks with staged := c.staged ++ [x] })

/-- The own source of unit u at full width. -/
def State.ownUnit (s : State) (c : Coll) (u : Nat) : State × List U32 × Bool :=
  let (s1, b, bad) := s.engRead (tileIx c.tile) (cSrc c.d + 4096 * u) (4 * unitElems c.d u)
  (s1, words32 b, bad)

/-- The partial of unit u at its sub-leader (R289). -/
def State.formPartial (s : State) (g : Group) (c : Coll) (u : Nat) : State × Coll :=
  let i := chunkOfUnit c.d u
  let (s1, c1) := if cWire c.d && (stagedOf c g.selfPos i).isNone then s.ownWire g c i else (s, c)
  let (s2, own, bad) := if cWire c.d then (s1, stagedUnit c1 g.selfPos u) else s1.ownUnit c1 u
  let parts := (podOthers g (podAt g g.selfPos)).map (fun p => stagedUnit c1 p u)
  let bytes := wordBytes (sumWords own (parts.map (fun p => p.1)))
  let poison := bad || parts.any (fun p => p.2)
  let last := u + 1 == cPartialChunks c.d
  let h := s2.chunkHdr 0 (cGroup c.d) 2 (b2n poison + 4 * b2n last) fFp32 c.period (cSeq c.d) u bytes.length 0 0 0
  let c2 := { c1 with fwd := c1.fwd ++ [(u, h, sliceBytes bytes 0 4096)], written := NatSet.add c1.written u }
  s2.unstage c2 (fun x => chunkUsed c2 i && x.chunk == i)

/-- Units that a sub-leader may form: GO has come and every contribution is there (R291). -/
def partialReady (g : Group) (c : Coll) (u : Nat) : Bool :=
  c.go && !c.written.contains u && (podOthers g (podAt g g.selfPos)).all (fun p => (stagedOf c p (chunkOfUnit c.d u)).isSome)

def State.collPartials (s : State) (g : Group) (c : Coll) : State × Coll :=
  if cOp c.d == 0x61 && cCombine c.d == 0 && partOf g == .subLeader then
    (List.range (cPartialChunks c.d)).foldl (fun (acc : State × Coll) u =>
      if partialReady g acc.2 u then State.courier acc (fun s c => s.formPartial g c u) else acc) (s, c)
  else (s, c)

/-! Results of a reduction at its leader (R289). -/

/-- The remote sum of unit u: a slot result, or the relayed partials of all pods in ascending order; none while it is incomplete. -/
def remoteUnit (g : Group) (c : Coll) (u : Nat) : Option (List U32 × Bool) :=
  match stagedOf c 1024 u with
  | some x => some (x.words, x.poison)
  | none =>
    let l := (remotePods g).map (fun p => stagedOf c (subLeader g p) u)
    if l.all (fun x => x.isSome) then
      match l.filterMap id with
      | [] => none
      | x :: rest => some (sumWords x.words (rest.map (fun y => y.words)), x.poison || rest.any (fun y => y.poison))
    else none

/-- Result unit u is formed and written. -/
def State.formResult (s : State) (g : Group) (c : Coll) (u : Nat) : State × Coll :=
  let i := chunkOfUnit c.d u
  let (s1, own, bad) := s.ownUnit c u
  let parts := (localOthers g).map (fun p => stagedUnit c p u)
  let acc := sumWords own (parts.map (fun p => p.1))
  let (res, bad2) := match remoteUnit g c u with
    | some r => (addWords acc r.1, r.2)
    | none => (acc, false)
  let s2 := s1.unitWrite (tileIx c.tile) (cDst c.d + 4096 * u) (wordBytes res) (bad || bad2 || parts.any (fun p => p.2))
  let c1 := { c with written := NatSet.add c.written u }
  s2.unstage c1 (fun x => if x.src == 1024 || podAt g x.src != podAt g g.leaderPos then x.chunk == u else chunkUsed c1 i && x.chunk == i)

def resultReady (g : Group) (c : Coll) (u : Nat) : Bool :=
  !c.written.contains u && (localOthers g).all (fun p => (stagedOf c p (chunkOfUnit c.d u)).isSome)
    && ((remotePods g).isEmpty || (remoteUnit g c u).isSome)

/-- A vote of another step or ladder epoch than the leader's own (R243). -/
def votesDiffer (own : Vote) (l : List Vote) : Bool := l.any (fun v => v.step != own.step || v.epoch != own.epoch)

/-- Votes combined in ascending member position (R243), LOSS in the pairwise order of R137. -/
def combineVotes (own : Vote) (l : List Vote) : Vote :=
  let f := l.foldl (fun x v => x ||| v.vflags) 0
  { own with
    loss := pairwise add32 0 (l.map (fun v => v.loss))
    vflags := (f &&& 0x6F) ||| (16 * b2n (l.all (fun v => bit v.vflags 4)))
    layerMap := l.foldl (fun m v => mapOr m v.layerMap) [] }

/-- A leader that holds every vote writes their combination (R289); one that differs in STEP or LADDER_EPOCH sets MISMATCH, which a posted
reduction reports as a READY that does not match (DESIGN CHOICE, log entry 47). -/
def State.formVotes (s : State) (g : Group) (c : Coll) : State × Coll :=
  let (s1, own, bad) := s.engRead (tileIx c.tile) (cSrc c.d) 4096
  let at_ := fun (i : Nat) => if i == g.leaderPos then (own, bad) else match stagedOf c i 0 with
    | some x => (wordBytes x.words, x.poison)
    | none => ([], false)
  let l := (List.range g.members.length).map at_
  let votes := l.map (fun e => voteOf e.1)
  let (s2, c1) := if votesDiffer (voteOf own) votes then s1.readyMismatch c else (s1, c)
  (s2.unitWrite (tileIx c.tile) (cDst c.d) (voteBytes (combineVotes (voteOf own) votes)) (l.any (fun e => e.2)),
    { c1 with written := [0], staged := [] })

def State.collResults (s : State) (g : Group) (c : Coll) : State × Coll :=
  if cOp c.d != 0x61 || partOf g != .leader then (s, c)
  else if cCombine c.d == 1 then
    if c.written.isEmpty && (dataSources g c.d).all (fun i => (stagedOf c i 0).isSome) then State.courier (s, c) (fun s c => s.formVotes g c) else (s, c)
  else (List.range (cPartialChunks c.d)).foldl (fun (acc : State × Coll) u =>
    if resultReady g acc.2 u then State.courier acc (fun s c => s.formResult g c u) else acc) (s, c)

/-! Sending (R270, R284, R285, R294). -/

/-- The numbers under which this module may send chunks now: its own, or those it holds to forward. -/
def sendKeys (g : Group) (c : Coll) : List Nat :=
  let sub := partOf g == .subLeader
  if sub && (cOp c.d == 0x60 || (cOp c.d == 0x61 && cCombine c.d == 0)) then c.fwd.map (fun e => e.1)
  else if sub && cOp c.d == 0x61 then 0 :: c.fwd.map (fun e => e.1)
  else List.range (cChunks c.d)

/-- Votes that a sub-leader forwards carry number 1 + position. -/
def forwardsVotes (g : Group) (d : BitVec 512) : Bool := cOp d == 0x61 && cCombine d == 1 && partOf g == .subLeader

def chunkIdxOf (g : Group) (d : BitVec 512) (key : Nat) : Nat := if forwardsVotes g d then 0 else key

/-- A target has acknowledged what was sent under a number. -/
def ackedBy (g : Group) (c : Coll) (t key : Nat) : Bool :=
  if forwardsVotes g c.d then decide (chunksOn g c.d t ≤ (c.acked.filter (fun e => e.1 == t)).length) else c.acked.contains (t, key)

/-- Where a chunk goes now: target, member, port, and whether it is sent again over another route (R294). -/
def State.sendPlan (s : State) (g : Group) (c : Coll) (key : Nat) : List (Nat × Member × PortIx × Bool) :=
  (sendTargets g c.d).filterMap (fun t =>
    if !c.readyFrom.contains t || ackedBy g c t key then none else
    match memberAt g t with
    | none => none
    | some m =>
      let i := chunkIdxOf g c.d key
      let port := if cOp c.d == 0x61 && cCombine c.d == 0 && partOf g == .subLeader then s.partialPort m i else s.portTo m i
      match port with
      | none => none
      | some p => match c.sentTo.find? (fun e => e.1 == t && e.2.1 == key) with
        | none => some (t, m, p, false)
        | some e => if e.2.2 != p.val && s.portGone e.2.2 then some (t, m, p, true) else none)

def kindOf (d : BitVec 512) : Nat := if cOp d == 0x60 then 0 else if cOp d == 0x61 then (if cCombine d == 1 then 4 else 1) else 3

/-- Bytes of the source that chunk i of an unconverted collective carries. -/
def rawLen (d : BitVec 512) (i : Nat) : Nat := Nat.min 4096 (cLength d - 4096 * i)

/-- The header and payload of a chunk, and where the payload is read again (R274); the first time, its elements are counted. -/
def State.collChunk (s : State) (g : Group) (c : Coll) (key : Nat) : State × Coll × ChunkHeader × List Byte × Source :=
  match (if partOf g == .subLeader then c.fwd.find? (fun e => e.1 == key) else none) with
  | some e => (s, c, e.2.1, e.2.2, .held e.2.2)
  | none =>
    let last := key + 1 == cChunks c.d
    let first := !c.sentTo.any (fun e => e.2.1 == key)
    let hdr := fun (s : State) (bad : Bool) (fmt len id sW sT : Nat) =>
      s.chunkHdr 0 (cGroup c.d) (kindOf c.d) (b2n bad + 2 * b2n (cWire c.d) + 4 * b2n last) fmt c.period (cSeq c.d) (chunkIdxOf g c.d key) len id sW sT
    if cWire c.d then
      match s.wireEntry (cWireId c.d) with
      | some w =>
        let (s1, blocks, bad) := s.wireChunk c.tile c.d w key
        let pay := wirePayload blocks
        (s1, if first then countWire c blocks else c, hdr s1 bad w.fmt.toNat pay.1 (cWireId c.d) w.sW.toNat w.sT.toNat, pay.2,
          .wire c.tile c.d key)
      | none => (s, c, hdr s false 0 0 0 0 0, [], .held [])
    else
      let (s1, b, bad) := s.engRead (tileIx c.tile) (cSrc c.d + 4096 * key) (rawLen c.d key)
      let fmt := if cOp c.d == 0x61 && cCombine c.d == 0 then fFp32 else Config.byteFormat.toNat
      (s1, c, hdr s1 bad fmt b.length 0 0 0, sliceBytes b 0 4096, .memory c.tile (cSrc c.d + 4096 * key) (rawLen c.d key))

/-- One chunk goes to every target that may have it now. -/
def State.sendKey (g : Group) (key : Nat) (s : State) (c : Coll) : State × Coll :=
  let plan := s.sendPlan g c key
  if plan.isEmpty then (s, c) else
  let (s1, c1, h, pay, src) := s.collChunk g c key
  let fresh := !c.sentTo.any (fun e => e.2.1 == key)
  let c2 := if fresh && bit h.cflags.toNat 0 then { c1 with poisoned := c1.poisoned + 1 } else c1
  plan.foldl (fun (a : State × Coll) x =>
    let dst := if kindOf c1.d == 4 then (match memberAt g g.leaderPos with | some l => l.id | none => x.2.1.id) else x.2.1.id
    let again := x.2.2.2
    let h1 := { h with dstId := dst, cflags := if again then h.cflags ||| 8 else h.cflags }
    let s2 := a.1.sendFrom x.2.2.1 h1 pay src
    let sent := (x.1, key, x.2.2.1.val) :: a.2.sentTo.filter (fun e => !(e.1 == x.1 && e.2.1 == key))
    if again then
      ((s2.flag F.COLL_STAT_ALT_ROUTE).bump F.COLL_CNT_RESENT 1,
        { a.2 with sentTo := sent, resent := a.2.resent + 1, cflags := a.2.cflags ||| 4 })
    else (s2, { a.2 with sentTo := sent, chunks := a.2.chunks + 1 })) (s1, c2)

def State.collSends (s : State) (g : Group) (c : Coll) : State × Coll := 
  (sendKeys g c).foldl (fun acc key => State.courier acc (State.sendKey g key)) (s, c)

/-! After acknowledgements (R169, R287). -/

/-- The sender whose own wire elements go out keeps residuals; a sub-leader of a sum has written them already. -/
def keepsResidual (g : Group) (d : BitVec 512) : Bool := cWire d && encodes g d && !(cOp d == 0x61 && partOf g == .subLeader)

/-- Chunks that every target has acknowledged have their residual codes written (R169, R274). -/
def State.collResidual (s : State) (g : Group) (c : Coll) : State × Coll :=
  if !keepsResidual g c.d then (s, c) else
  match s.wireEntry (cWireId c.d) with
  | none => (s, c)
  | some w => (List.range (cChunks c.d)).foldl (fun (acc : State × Coll) i =>
      if !acc.2.written.contains i && (sendTargets g c.d).all (fun t => acc.2.acked.contains (t, i)) then
        State.courier acc (fun s a => (s.writeResidual c.tile c.d w i, { a with written := NatSet.add a.written i }))
      else acc) (s, c)

/-- An acknowledgement of a chunk to the member that sent it. -/
def State.ackTo (s : State) (g : Group) (c : Coll) (pos chunk : Nat) : State :=
  match memberAt g pos with
  | some m => s.send (.collAck m.id.toNat (collKeyOf c) chunk)
  | none => s

/-- A sub-leader of a broadcast acknowledges to the leader the chunks that its whole set has acknowledged (R287); a sub-leader of a sum drops
the partials that the leader holds. -/
def State.collTold (s : State) (g : Group) (c : Coll) : State × Coll :=
  if partOf g != .subLeader then (s, c)
  else if cOp c.d == 0x60 then
    c.fwd.foldl (fun (acc : State × Coll) e =>
      if (sendTargets g c.d).all (fun t => acc.2.acked.contains (t, e.1)) then
        (acc.1.ackTo g c g.leaderPos e.1, { acc.2 with told := e.1 :: acc.2.told, fwd := acc.2.fwd.filter (fun x => x.1 != e.1) })
      else acc) (s, c)
  else if cCombine c.d == 0 then (s, { c with fwd := c.fwd.filter (fun e => !c.acked.contains (g.leaderPos, e.1)) })
  else (s, c)

/-- The leader of a wire broadcast receives the decoded copy as every member does (R283). With no other member it is encoded here only, and
counted here (R72). -/
def State.collOwnCopy (s : State) (g : Group) (c : Coll) : State × Coll :=
  if !(cOp c.d == 0x60 && cWire c.d && partOf g == .leader) then (s, c) else
  match s.wireEntry (cWireId c.d) with
  | none => (s, c)
  | some w => (List.range (cChunks c.d)).foldl (fun (acc : State × Coll) i =>
      if acc.2.got.contains (g.selfPos, i) then acc else
      State.courier acc (fun s a =>
        let (s1, blocks, bad) := s.wireChunk c.tile c.d w i
        let s2 := s1.unitWrite (tileIx c.tile) (cDst c.d + 32768 * i) (wordBytes (blocks.flatten.map (fun (e : WireElem) => e.value))) bad
        let a1 := if (sendTargets g c.d).isEmpty then countWire a blocks else a
        (s2, { a1 with got := (g.selfPos, i) :: a.got }))) (s, c)

/-- A chunk's bytes as they are written: wire elements decoded to FP32 by the module's own entry, or by the header's format and scales with
WIRE_MISS and an error record (R276, R277). The last value is its poison. -/
def State.arriving (s : State) (c : Coll) (f : DataFrame) : State × Coll × List Byte × Bool :=
  let h := f.chunk
  let sent := bit h.cflags.toNat 0
  let n := tileIx c.tile
  let wire := bit h.cflags.toNat 1
  let known := match s.wireEntry h.wireId.toNat with
    | some w => w.fmt.toNat == h.fmt.toNat % 16 && w.sW == h.sW && w.sT == h.sT
    | none => false
  let miss := wire && !known
  let bytes := if wire then wordBytes (decodeWire (h.fmt.toNat % 16) h.sW.toNat h.sT f.payload h.len.toNat)
    else sliceBytes f.payload 0 h.len.toNat
  let poison := sent || miss
  let s1 := if miss then (s.flag F.COLL_STAT_WIRE_MISS).post clsJob 0 1 0x12 0 0 else s
  let s2 := if poison then (s1.flag F.COLL_STAT_POISON_RX).taintTile n else s1
  (s2, { c with chunks := c.chunks + 1, poisoned := c.poisoned + b2n poison, cflags := c.cflags ||| (8 * b2n miss) }, bytes, poison)

/-- Where chunk i is written (R276). -/
def chunkDst (d : BitVec 512) (i : Nat) : Nat := cDst d + (if cWire d then 32768 else 4096) * i

/-- A chunk of a position is written to the destination. -/
def State.landChunk (s : State) (c : Coll) (pos : Nat) (f : DataFrame) : State × Coll :=
  let (s1, c1, bytes, poison) := s.arriving c f
  let i := f.chunk.chunkIdx.toNat
  (s1.unitWrite (tileIx c.tile) (chunkDst c.d i) bytes poison, { c1 with got := (pos, i) :: c1.got })

/-- A chunk that the module accepted is written; a sub-leader of a broadcast then forwards it, any other receiver acknowledges it to the member
that sent it (R285, R287). -/
def State.landOne (s : State) (g : Group) (c : Coll) (pos : Nat) (f : DataFrame) : State × Coll :=
  let i := f.chunk.chunkIdx.toNat
  let (s1, c1) := s.landChunk { c with landing := c.landing.filter (fun x => x != (pos, f)) } pos f
  if cOp c.d == 0x60 && partOf g == .subLeader then (s1, { c1 with fwd := c1.fwd ++ [(i, f.chunk, f.payload)] })
  else (s1.ackTo g c pos i, c1)

/-- Accepted chunks are written, in the order they came, as far as their accesses can go on (R299, R352). -/
def State.landAll (s : State) (g : Group) (c : Coll) : State × Coll :=
  c.landing.foldl (fun acc x => State.courier acc (fun s c => s.landOne g c x.1 x.2)) (s, c)

/-- A chunk is accepted for the destination; a second copy is acknowledged again once it is written (R294). -/
def State.acceptChunk (s : State) (g : Group) (c : Coll) (pos : Nat) (f : DataFrame) : State × Coll :=
  let i := f.chunk.chunkIdx.toNat
  if c.landing.any (fun x => x.1 == pos && x.2.chunk.chunkIdx.toNat == i) then (s, c)
  else if c.got.contains (pos, i) then
    (if cOp c.d != 0x60 || partOf g != .subLeader || c.told.contains i then s.ackTo g c pos i else s, c)
  else (s, { c with landing := c.landing ++ [(pos, f)] })

/-! Progress and completion (R286, R294). -/

/-- Everything a collective can do now. -/
def State.collAdvance (s : State) (g : Group) (c : Coll) : State × Coll :=
  let (sl, cl) := s.landAll g c
  let (s0, c0) := sl.takeGos g cl
  let (s1, c1) := s0.collReadys g c0
  let (s2, c2) := s1.collSlots g c1
  let (s3, c3) := s2.collOwnCopy g c2
  let (s4, c4) := s3.collPartials g c3
  let (s5, c5) := s4.collSends g c4
  let (s6, c6) := s5.collResidual g c5
  let (s7, c7) := s6.collTold g c6
  s7.collResults g c7

/-- Data that the module awaits is all there, and its results are written. -/
def collData (g : Group) (c : Coll) : Bool :=
  (dataSources g c.d).all (fun i => decide (chunksOn g c.d i ≤ arrivedFrom g c i))
    && (cOp c.d != 0x61 || partOf g != .leader
        || (if cCombine c.d == 1 then !c.written.isEmpty else decide (c.written.length = cPartialChunks c.d)))

/-- Acknowledgements that the module awaits are all there. -/
def collAcks (g : Group) (c : Coll) : Bool :=
  (sendTargets g c.d).all (fun t => decide (chunksOn g c.d t ≤ (c.acked.filter (fun e => e.1 == t)).length))

/-- The record of a completed collective, once. -/
def State.collRecorded (s : State) (c : Coll) : State × Coll :=
  if c.recorded then (s, c) else
  State.courier (s, c) (fun s c => ((s.undefDest c).collRecord c 0 0 (numStatus ⟨c.sat, c.flush, c.nonfin⟩ stOk), { c with recorded := true }))

/-- One collective goes on; none once it is over. A sub-leader's record of a broadcast is written when its last chunk is, and it still serves
its set (R287). -/
def State.collStep (s : State) (c : Coll) : State × Option Coll :=
  match s.group (cGroup c.d) with
  | none => (s, some c)
  | some g =>
    let (s1, c1) := s.collAdvance g c
    let early := cOp c1.d == 0x60 && partOf g == .subLeader && collData g c1
    let (s2, c2) := if early || (collData g c1 && collAcks g c1) then s1.collRecorded c1 else (s1, c1)
    if collData g c2 && collAcks g c2 then (s2, none) else (s2, some c2)

/-- At most 32 collectives are in flight (R282). -/
def activate (q : List Coll) : List Coll :=
  let n := (q.filter (fun c => c.active)).length
  (q.foldl (fun (acc : Nat × List Coll) c =>
    if !c.active && acc.1 < 32 then (acc.1 + 1, acc.2 ++ [{ c with active := true }]) else (acc.1, acc.2 ++ [c])) (n, [])).2

/-- Every collective in flight goes on; as some end, waiting ones begin. -/
def State.collRun : Nat → State → State
  | 0, s => s
  | fuel + 1, s =>
    let q := activate s.coll.queue
    let (s1, l) := q.foldl (fun (acc : State × List Coll) c =>
      if c.active then
        let (s1, r) := acc.1.collStep c
        (s1, acc.2 ++ r.toList)
      else (acc.1, acc.2 ++ [c])) (s, [])
    let s2 := s1.setCollQueue l
    if l.length < q.length && l.any (fun c => !c.active) then State.collRun fuel s2 else s2

def State.collPump (s : State) : State := if s.coll.queue.isEmpty then s else State.collRun (s.coll.queue.length + 1) s

/-- The source and the destination of a collective on this module, in bytes of user memory (R283). -/
def collSource (g : Option Group) (d : BitVec 512) : Nat × Nat :=
  let sends : Bool := match g with
    | some g => cOp d == 0x61 || cOp d == 0x62 || (cOp d == 0x60 && partOf g == .leader)
    | none => false
  (cSrc d, if sends then 4 * cElems d else 0)

def collDest (g : Option Group) (d : BitVec 512) : Nat × Nat :=
  let gets : Bool := match g with
    | some g => cOp d == 0x63 || (cOp d == 0x61 && partOf g == .leader) || (cOp d == 0x60 && (partOf g != .leader || cWire d))
    | none => false
  (cDst d, if gets then 4 * cElems d else 0)

/-- A new entry of the collective queue. -/
def newColl (g : Option Group) (tile : Nat) (d : BitVec 512) (period phase : Nat) : Coll where
  tile := tile
  d := d
  period := period
  phase := phase
  active := false
  readySent := []
  readyFrom := []
  sentTo := []
  acked := []
  got := []
  staged := []
  landing := []
  source := collSource g d
  dest := collDest g d
  fwd := []
  told := []
  planes := #v[none, none]
  go := false
  goTo := []
  written := []
  recorded := false
  chunks := 0
  poisoned := 0
  resent := 0
  cflags := 0
  sat := 0
  flush := 0
  nonfin := 0

/-- A collective is posted by tile n (R282): refused, stalled by a full queue, or queued. -/
def State.opCollPost (s : State) (n : TileIx) (op : Nat) (d : BitVec 512) : State :=
  let c := newColl (s.group (cGroup d)) n.val d (s.get F.MGT_PERIOD_STAT_PERIOD_NUM) (s.get F.MGT_PERIOD_STAT_PHASE)
  let st := s.collStatus op d
  if st != stOk then (s.flag F.COLL_STAT_REFUSED).collRecord c 2 0 (numStatus Cnt.zero st)
  else if 64 ≤ (s.coll.queue.filter (fun c => !c.active)).length then { s with stallReq := true }
  else
    let (s1, c1) := s.takeReadys c
    (s1.setCollQueue (s1.coll.queue ++ [c1])).collPump

/-! Arrivals. -/

/-- A chunk of an earlier period is discarded and counted (R25, R27, R284). -/
def State.staleChunk (s : State) (h : ChunkHeader) : Bool :=
  serialEarlier 32 h.period.toNat (s.get F.MGT_PERIOD_STAT_PERIOD_NUM)

/-- The flag, the count, and the mark on the collective of the same group and number. -/
def State.countStale (s : State) (h : ChunkHeader) : State :=
  let s1 := (s.flag F.COLL_STAT_STALE).bump F.COLL_CNT_STALE_CHUNKS 1
  s1.setCollQueue (s1.coll.queue.map (fun c =>
    if BitVec.ofNat 8 (cGroup c.d) == h.group && BitVec.ofNat 32 (cSeq c.d) == h.collSeq then { c with cflags := c.cflags ||| 0x20 } else c))

/-- The collective a key names is changed. -/
def State.onColl (s : State) (key : CollKey) (f : State → Group → Coll → State × Coll) : State :=
  match s.coll.queue.findIdx? (fun c => c.active && collKeyOf c == key) with
  | none => s
  | some i => match s.coll.queue[i]? with
    | none => s
    | some c => match s.group (cGroup c.d) with
      | none => s
      | some g =>
        let (s1, c1) := f s g c
        (s1.setCollQueue (s1.coll.queue.set i c1)).collPump

/-- A collective in flight has this key. -/
def State.hasColl (s : State) (key : CollKey) : Bool := s.coll.queue.any (fun c => c.active && collKeyOf c == key)

def keyOfChunk (h : ChunkHeader) : CollKey := ⟨h.group, h.period, h.collSeq⟩

/-- A data frame of a collective reaches port p (R273, R284): accepted, it is for the collective that its key names. What no collective awaits is
discarded, its staging free. -/
def State.takeColl (s : State) (p : PortIx) (f : DataFrame) (kind : Nat) (act : State → Group → Coll → State × Coll) : State :=
  if !s.running then s else
  let (s1, ok) := s.takeFrame p f
  let held := needsCredit f.chunk
  if !ok then s1
  else if s1.staleChunk f.chunk then
    let s2 := s1.countStale f.chunk
    if held then s2.freeStaging p.val 1 else s2
  else if f.chunk.kind.toNat % 16 == kind && s1.hasColl (keyOfChunk f.chunk) then s1.onColl (keyOfChunk f.chunk) act
  else if held then s1.freeStaging p.val 1 else s1

/-- Broadcast data (R287). -/
def State.onBroadcast (f : DataFrame) (s : State) (g : Group) (c : Coll) : State × Coll :=
  match recvSources g c.d with
  | [] => (s, c)
  | pos :: _ => if cOp c.d != 0x60 || cChunks c.d ≤ f.chunk.chunkIdx.toNat then (s, c) else s.acceptChunk g c pos f

/-- Send data (R285). -/
def State.onSend (f : DataFrame) (s : State) (g : Group) (c : Coll) : State × Coll :=
  let pos := cPeer c.d
  if cOp c.d != 0x63 || cChunks c.d ≤ f.chunk.chunkIdx.toNat || groupPos g f.chunk.srcId.toNat != some pos then (s, c)
  else s.acceptChunk g c pos f

/-- A chunk waits in the staging of port p until its turn (R285); a second copy is discarded (R294). -/
def State.stageChunk (s : State) (g : Group) (c : Coll) (p : Nat) (pos : Nat) (f : DataFrame) : State × Coll :=
  let i := f.chunk.chunkIdx.toNat
  if c.got.contains (pos, i) then ((s.freeStaging p 1).ackTo g c pos i, c)
  else
    let (s1, c1, bytes, poison) := s.arriving c f
    (s1.ackTo g c pos i, { c1 with
      got := (pos, i) :: c1.got, staged := c1.staged ++ [⟨pos, i, p, words32 bytes, poison⟩] })

/-- A reduce contribution (R289). -/
def State.onContribution (p : PortIx) (f : DataFrame) (s : State) (g : Group) (c : Coll) : State × Coll :=
  let from_ := if partOf g == .leader then localOthers g else recvSources g c.d
  match groupPos g f.chunk.srcId.toNat with
  | some pos =>
    if cOp c.d == 0x61 && cCombine c.d == 0 && from_.contains pos && decide (f.chunk.chunkIdx.toNat < cChunks c.d) then
      s.stageChunk g c p.val pos f
    else (s.freeStaging p.val 1, c)
  | none => (s.freeStaging p.val 1, c)

/-- A relayed pod partial (R291). -/
def State.onPartial (p : PortIx) (f : DataFrame) (s : State) (g : Group) (c : Coll) : State × Coll :=
  match groupPos g f.chunk.srcId.toNat with
  | some pos =>
    if sumWithRemote g c.d && partOf g == .leader && ((remotePods g).map (subLeader g)).contains pos
        && decide (f.chunk.chunkIdx.toNat < cPartialChunks c.d) && !c.got.contains (1024, f.chunk.chunkIdx.toNat) then
      s.stageChunk g c p.val pos f
    else ((s.freeStaging p.val 1).ackTo g c pos f.chunk.chunkIdx.toNat, c)
  | none => (s.freeStaging p.val 1, c)

/-- A slot result (R291): acknowledged to every sub-leader whose partial it holds (DEDUCED, log entry 42). -/
def State.onSlotResult (f : DataFrame) (s : State) (g : Group) (c : Coll) : State × Coll :=
  let i := f.chunk.chunkIdx.toNat
  let subs := (remotePods g).map (subLeader g)
  if !(sumWithRemote g c.d && partOf g == .leader) || cPartialChunks c.d ≤ i then (s, c)
  else
    let s0 := s.forEach subs (fun s q => s.ackTo g c q i)
    if c.got.contains (1024, i) || subs.all (fun q => c.got.contains (q, i)) then (s0, c)
    else
      let (s1, c1, bytes, poison) := s0.arriving c f
      (s1, { c1 with got := (1024, i) :: c1.got, staged := c1.staged ++ [⟨1024, i, 18, words32 bytes, poison⟩] })

/-- A vote chunk of a posted REDUCE (R289): held at the leader; a sub-leader forwards it whole. -/
def State.onVote (f : DataFrame) (s : State) (g : Group) (c : Coll) : State × Coll :=
  match groupPos g f.chunk.srcId.toNat with
  | none => (s, c)
  | some pos =>
    if cOp c.d != 0x61 || cCombine c.d != 1 then (s, c)
    else
      let hop := if partOf g == .leader && podAt g pos != podAt g g.leaderPos then subLeader g (podAt g pos) else pos
      if c.got.contains (pos, 0) then (s.ackTo g c hop 0, c)
      else if partOf g == .leader then
        let (s1, c1, bytes, poison) := s.arriving c f
        (s1.ackTo g c hop 0, { c1 with got := (pos, 0) :: c1.got, staged := c1.staged ++ [⟨pos, 0, 18, words32 bytes, poison⟩] })
      else if partOf g == .subLeader then
        (s.ackTo g c hop 0, { c with
          got := (pos, 0) :: c.got, fwd := c.fwd ++ [(1 + pos, f.chunk, f.payload)], chunks := c.chunks + 1 })
      else (s, c)

/-- A collective acknowledgement (R287). Those of a forwarded vote are counted, not told apart. -/
def State.onCollAck (src chunk : Nat) (s : State) (g : Group) (c : Coll) : State × Coll :=
  match groupPos g src with
  | some t =>
    if (sendTargets g c.d).contains t && (forwardsVotes g c.d || !c.acked.contains (t, chunk)) then
      (s, { c with acked := (t, chunk) :: c.acked })
    else (s, c)
  | none => (s, c)

/-- READY (R284): matched with a posted collective, or kept for one. -/
def State.onReady (s : State) (src : BitVec 16) (b : ReadyBody) : State :=
  let (s1, q, used) := s.coll.queue.foldl (fun (acc : State × List Coll × Bool) c =>
    if acc.2.2 then (acc.1, acc.2.1 ++ [c], true) else
    let (s1, c1, used) := acc.1.meetReady src.toNat b c
    (s1, acc.2.1 ++ [c1], used)) (s, [], false)
  let s2 := s1.setCollQueue q
  (if used then s2 else { s2 with coll := { s2.coll with readys := s2.coll.readys ++ [(src, b)] } }).collPump

/-- An answer of a plane to the leader's request (R291); a later one changes nothing. -/
def State.onAnswer (plane : Fin 2) (slot : Option Nat) (timeout : Bool) (s : State) (_g : Group) (c : Coll) : State × Coll :=
  if c.planes[plane] != some .asked then (s, c) else
  let c1 := { c with planes := c.planes.set plane (some (modeOf slot)) }
  match slot with
  | some _ => (s.bump F.COLL_CNT_SLOT_GRANTS 1, c1)
  | none => (s.flagIf timeout F.COLL_STAT_SLOT_TIMEOUT).relays c1 plane.val

end Sys2Proof.Machine
end

