-- ==== Sys2Proof/Machine/ConfigSpace.lean ====
section
/-! DEFINITION. What the two functions show the host besides their registers: configuration space, BARs, the CXL DVSEC (R345, R347, R348, R350),
and the MSI-X tables and pending bits (R347, R359). -/

namespace Sys2Proof.Machine

/-! Configuration space. No command of the table writes it: what a host driver would set there is not held. -/

/-- Vendor ID, device ID and class code of both functions (R347). -/
def pciVendor : Nat := 0x1F9A
def pciDevice : Nat := 0x4064
def pciClass : Nat := 0x120000

/-- Interrupt Pin of both functions: no INTx (R345). -/
def interruptPin : Nat := 0

/-- A 64-bit BAR: its number, its bytes, whether it is prefetchable (R347). -/
structure Bar where
  num : Nat
  bytes : Nat
  prefetch : Bool
  deriving DecidableEq, Repr

/-- The BARs of a function (R347). -/
def bars (fn1 : Bool) : List Bar :=
  if fn1 then [⟨0, 0x100000, false⟩] else [⟨0, 0x4000000, false⟩, ⟨2, 0x10000000, true⟩, ⟨4, 0x10000, false⟩]

/-- Bytes of the output window, BAR2 of function 0. -/
def bar2Bytes : Nat := 0x10000000

/-- A capability of configuration space (R348). The Register Locator names the BAR of the CXL component registers. -/
inductive PciCap where
  | cxlDvsec (cacheCapable memCapable hdmCount : Nat) (memoryActive : Bool) (range1Size : Nat)
  | registerLocator (bar : Nat)
  | msix (vectors table pba : Nat)
  | doe (protocols : List (Nat × Nat))
  deriving DecidableEq, Repr

/-- The protocols a DOE mailbox offers (R348): vendor and type. -/
def doeProtocols (fn1 : Bool) : List (Nat × Nat) :=
  if fn1 then [(0x0001, 0), (0x0001, 1), (0x1F9A, 0x80)] else [(0x0001, 0), (0x1E98, 2)]

/-- HDM_SIZE in bytes (R350). -/
def State.hdmSize (s : State) : Nat := s.get F.MGT_HDM_HDM_SIZE * 0x10000000

/-- Memory_Active (R350). -/
def State.hdmActive (s : State) : Bool := s.start.memReady && s.mode != 2

/-- Vectors of a function, and where its table and its pending bits stand in its BAR0 (R345, R347). -/
def msixVectors (fn1 : Bool) : Nat := if fn1 then 16 else 32
def msixTable (fn1 : Bool) : Nat := if fn1 then 0xF0000 else 0x3F00000
def msixPba (fn1 : Bool) : Nat := if fn1 then 0xF8000 else 0x3F80000

/-- The capabilities of a function (R348, R350). -/
def State.pciCaps (s : State) (fn1 : Bool) : List PciCap :=
  let both := [PciCap.msix (msixVectors fn1) (msixTable fn1) (msixPba fn1), PciCap.doe (doeProtocols fn1)]
  if fn1 then both else PciCap.cxlDvsec 1 1 1 s.hdmActive s.hdmSize :: PciCap.registerLocator 4 :: both

/-- The HDM decoder of BAR4 maps offset x of the window to module address x below HDM_SIZE (R345, R350). -/
def State.hdmDecode (s : State) (x : Nat) : Option Nat := if x < s.hdmSize then some x else none

/-! MSI-X. -/

/-- The table word at an offset of a function's BAR0. -/
def msixWordIx (fn1 : Bool) (o : Nat) : Option Nat :=
  if msixTable fn1 ≤ o ∧ o < msixTable fn1 + 16 * msixVectors fn1 then some ((o - msixTable fn1) / 8) else none

/-- A table word: an address, or data with the vector's mask bit in bit 32. -/
def State.msixRead (s : State) (fn1 : Bool) (i : Nat) : U64 :=
  let x := s.msix fn1
  let w := Sparse.getD x.table i 0
  if i % 2 == 0 then w else w ||| BitVec.ofNat 64 (b2n (bit x.mask (i / 2)) * 2 ^ 32)

/-- A pending vector is no longer masked: its message goes out. -/
def State.msixUnmasked (s : State) (fn1 : Bool) (v : Nat) : State :=
  let x := s.msix fn1
  if bit x.pba v && !bit x.mask v then (s.setMsix fn1 { x with pba := x.pba - 2 ^ v }).msi fn1 v else s

/-- A write of the bits `m` of a table word. -/
def State.msixWrite (s : State) (fn1 : Bool) (i v m : Nat) : State :=
  let x := s.msix fn1
  let w := BitVec.ofNat 64 (((s.msixRead fn1 i).toNat &&& (0xFFFFFFFFFFFFFFFF - m)) ||| (v &&& m))
  if i % 2 == 0 then s.setMsix fn1 { x with table := Sparse.put x.table i w 0 }
  else
    let k := i / 2
    let mask := if bit w.toNat 32 then x.mask ||| 2 ^ k else if bit x.mask k then x.mask - 2 ^ k else x.mask
    (s.setMsix fn1 { x with table := Sparse.put x.table i (w &&& 0xFFFFFFFF#64) 0, mask := mask }).msixUnmasked fn1 k

end Sys2Proof.Machine
end

