-- ==== Sys2Proof/Machine/HdmOps.lean ====
section
/-! DEFINITION. Accesses of the host to the HDM window (R350 to R353). -/

namespace Sys2Proof.Machine

/-- The HDM window stands: the link is up in CXL mode (R346). -/
def State.hdmOpen (s : State) : Bool := s.start.powered && s.start.cxlUp && s.start.cxlMode

/-- In PCIe 5.0 mode the host reaches the output buffers through BAR2 (R346, R347). -/
def State.bar2Open (s : State) : Bool := s.start.powered && s.start.cxlUp && !s.start.cxlMode

/-- A granule is in host bias. -/
def State.toHostBias (s : State) (g : Nat) : State := { s with mem := { s.mem with hostBias := NatSet.add s.mem.hostBias g } }

/-- The granules of `len` bytes at an offset flip to host bias, their write-combining entries flushed (R352). -/
def State.flipHost (s : State) (off len : Nat) : State :=
  let gs := (List.range ((off + len + 0x1FFFFF) / 0x200000 - off / 0x200000)).map (fun i => off / 0x200000 + i)
  let s1 := s.forEach (gs.filter (fun g => !s.mem.hostBias.contains g)) (fun s g => (s.flushGranule g).toHostBias g)
  s1.set F.MGT_HDM_HOST_BIAS s1.mem.hostBias.length

/-- The memory interfaces that an access meets. -/
def State.hdmDoms (s : State) (off len : Nat) : List Nat :=
  ((linePieces off len).filterMap (fun p => match s.decodeAddr (s.view true p.1) with
    | .dram q _ => some (domMem (q / 8))
    | _ => none)).foldl NatSet.add []

/-- A memory interface of the access sleeps or is capped: it wakes, and the access waits (R299, R318). -/
def State.hdmGate (s : State) (off len : Nat) : State :=
  let l := (s.hdmDoms off len).filter (fun d => !s.domReady d)
  if l.isEmpty then s else { s.forEach l (fun s d => s.wake d 1) with stallReq := true }

/-- A read of the populated part (R351): data, and whether a line was poisoned. -/
def State.hdmRead (s : State) (off len : Nat) : State × List Byte × Bool :=
  (linePieces off len).foldl (fun acc p =>
    match acc.1.decodeAddr (acc.1.view true p.1) with
    | .dram q b => let (s1, d, bad) := acc.1.readDram q b p.2 p.1 (acc.1.persistent p.1); (s1, acc.2.1 ++ d, acc.2.2 || bad)
    | _ => (acc.1, acc.2.1 ++ List.replicate p.2 0, true)) (s, [], false)

/-- A host write enters the write-combining buffer as partial-line writes (R220, R351). -/
def State.hdmWrite (s : State) (off : Nat) (data : List Byte) : State :=
  (linePieces off data.length).foldl (fun s p =>
    match s.decodeAddr (s.view true p.1) with
    | .dram q b => s.wcMerge q (b / 512) (((data.drop (p.1 - off)).take p.2).zipIdx.map (fun x => (b % 512 + x.2, x.1)))
    | _ => s) s

/-- The HDM offset that BAR2 offset x reaches (R347). -/
def State.bar2Offset (s : State) (x : Nat) : Nat := s.get F.MGT_OUT_OUT_BASE * 0x200000 + x

/-- The HDM decoder maps every byte of an access (R350). What it does not map reads as at or beyond the populated region (R351; DEDUCED for the
part of the region that HDM_SIZE rounds away, log entry 80). -/
def State.hdmMapped (s : State) (off len : Nat) : Bool := len == 0 || (s.hdmDecode (off + len - 1)).isSome

/-- A read of the window (R351): the answer, or a stall while a memory interface wakes. A read of CXL.mem flips the bias of its granules (R352);
`flip` is false for BAR2. -/
def State.windowRead (s : State) (off len : Nat) (flip : Bool) : State :=
  if !s.hdmActive then s.send (.readData (List.replicate len 0) true)
  else if !s.hdmMapped off len then (s.flag F.MGT_HDM_HOST_UNMAPPED).send (.readData (List.replicate len 0) true)
  else
    let s0 := s.hdmGate off len
    if s0.stallReq then s0 else
    let (s1, d, bad) := (if flip then s0.flipHost off len else s0).hdmRead off len
    s1.send (.readData d bad)

/-- A write of the window (R351). -/
def State.windowWrite (s : State) (off : Nat) (data : List Byte) (flip : Bool) : State :=
  if !s.hdmActive then s
  else if !s.hdmMapped off data.length then s.flag F.MGT_HDM_HOST_UNMAPPED
  else
    let s0 := s.hdmGate off data.length
    if s0.stallReq then s0 else (if flip then s0.flipHost off data.length else s0).hdmWrite off data

/-- A host read: of the HDM window in CXL mode, of BAR2 in PCIe 5.0 mode (R346). -/
def State.hostRead (s : State) (off len : Nat) : State :=
  if s.hdmOpen then s.windowRead off len true
  else if s.bar2Open && decide (off + len ≤ bar2Bytes) then s.windowRead (s.bar2Offset off) len false
  else s

/-- A host write likewise. -/
def State.hostWrite (s : State) (off : Nat) (data : List Byte) : State :=
  if s.hdmOpen then s.windowWrite off data true
  else if s.bar2Open && decide (off + data.length ≤ bar2Bytes) then s.windowWrite (s.bar2Offset off) data false
  else s

end Sys2Proof.Machine
end

