-- ==== Sys2Proof/Machine/KilnOps.lean ====
section
/-! DEFINITION. Kilns (R195 to R198): the functions to high precision, the bounds, the commands. -/

namespace Sys2Proof.Machine

/-! The functions in fixed point: an integer v stands for v × 2^(−prec). -/

def kPrec : Nat := 320

def kOne : Int := ((2 ^ kPrec : Nat) : Int)

/-- A product in fixed point. -/
def kMul (a b : Int) : Int := a * b / kOne

/-- ln 2 = 2 Σ 1 ÷ ((2i+1) 3^(2i+1)). -/
def kLn2 : Int := (List.range 110).foldl (fun a i => a + 2 * kOne / (((2 * i + 1) * 3 ^ (2 * i + 1) : Nat) : Int)) 0

/-- A dyadic in fixed point, exact while its exponent is at least −prec. -/
def kFix (v : Fv) : Int :=
  match v with
  | .fin neg m e =>
    let k : Int := (kPrec : Int) + e
    let x : Int := if 0 ≤ k then ((m * 2 ^ k.toNat : Nat) : Int) else ((m / 2 ^ (-k).toNat : Nat) : Int)
    if neg then -x else x
  | _ => 0

/-- A positive real as numerator over denominator. -/
abbrev Quot := Nat × Nat

/-- e^x for |x| below 2^10: Taylor series of the remainder after multiples of ln 2. -/
def kExp (x : Int) : Quot :=
  let k := (x + kLn2 / 2) / kLn2
  let r := x - k * kLn2
  let (sum, _) := (List.range 64).foldl (fun (a : Int × Int) i => let t := kMul a.2 r / (((i + 1 : Nat)) : Int); (a.1 + t, t)) (kOne, kOne)
  if 0 ≤ k then (sum.toNat * 2 ^ k.toNat, 2 ^ kPrec) else (sum.toNat, 2 ^ (kPrec + (-k).toNat))

/-- ln of m × 2^e as a signed integer in fixed point: the exponent's part and 2 atanh of the mantissa's. -/
def kLog (m : Nat) (e : Int) : Int :=
  let l := bitLen m
  -- y = m ÷ 2^b lies in [0.75, 1.5)
  let b := if 4 * m < 3 * 2 ^ l then l - 1 else l
  let one := 2 ^ b
  let t : Int := ((m : Int) - one) * kOne / ((m : Int) + one)
  let t2 := kMul t t
  let (sum, _) := (List.range 160).foldl (fun (a : Int × Int) i => (a.1 + a.2 / (((2 * i + 1 : Nat)) : Int), kMul a.2 t2)) (0, t)
  (e + b) * kLn2 + 2 * sum

/-- Square root of a natural number, rounded down. `fuel` bits. -/
def natSqrt (n : Nat) : Nat :=
  (List.range (bitLen n / 2 + 1)).foldl (fun r i =>
    let c := r + 2 ^ (bitLen n / 2 - i)
    if c * c ≤ n then c else r) 0

/-- 1 ÷ √(m × 2^e). -/
def kRsqrt (m : Nat) (e : Int) : Quot :=
  -- an even exponent first
  let m1 := if e % 2 == 0 then m else 2 * m
  let e1 := if e % 2 == 0 then e else e - 1
  let r := natSqrt (m1 * 2 ^ (2 * kPrec))
  -- √ = r × 2^(e1/2 − prec)
  let h := e1 / 2
  if 0 ≤ h then (2 ^ kPrec, r * 2 ^ h.toNat) else (2 ^ kPrec * 2 ^ (-h).toNat, r)

/-- What the mathematical function gives for a finite input: a special result, or a sign with a magnitude. -/
inductive KReal where
  | exact (x : U32)
  | nan
  | inf (neg : Bool)
  | real (neg : Bool) (q : Quot)
  deriving DecidableEq, Repr

def kExpOp : Nat := 0x40
def kLogOp : Nat := 0x41
def kRecipOp : Nat := 0x42
def kRsqrtOp : Nat := 0x43
def kTanhOp : Nat := 0x44
def kSigmoidOp : Nat := 0x45

/-- A magnitude limited to 2^9, beyond which EXP, TANH and SIGMOID are settled. -/
def kClamp (m : Nat) (e : Int) : Nat × Int := if 2 ^ 9 < (if 0 ≤ e then m * 2 ^ e.toNat else m / 2 ^ (-e).toNat) then (2 ^ 9, 0) else (m, e)

/-- The function of R195 on (−1)^neg × m × 2^e. -/
def kReal (op : Nat) (neg : Bool) (m : Nat) (e : Int) : KReal :=
  let c := kClamp m e
  let x := kFix (.fin neg c.1 c.2)
  if op == kExpOp then (if m = 0 then .exact 0x3F800000#32 else .real false (kExp x))
  else if op == kLogOp then
    if m = 0 then .inf true else if neg then .nan else
      let v := kLog m e
      if v == 0 then .exact 0#32 else .real (decide (v < 0)) (v.natAbs, 2 ^ kPrec)
  else if op == kRecipOp then (if m = 0 then .inf neg else if 0 ≤ e then .real neg (1, m * 2 ^ e.toNat) else .real neg (2 ^ (-e).toNat, m))
  else if op == kRsqrtOp then (if m = 0 then .inf neg else if neg then .nan else .real false (kRsqrt m e))
  else if op == kTanhOp then
    if ltFv (.fin false m e) (.fin false 1 (-12)) then .exact (code32 (.fin neg m e)) else
      let q := kExp (2 * kFix (.fin false (Nat.min c.1 (if c.2 == 0 then 2 ^ 8 else c.1)) c.2))
      .real neg (q.1 - q.2, q.1 + q.2)
  else let q := kExp x; .real false (q.1, q.1 + q.2)

/-- Bound of R195 in units of the last place. -/
def kUlps (op : Nat) : Nat := if op == kRecipOp then 1 else if op == kTanhOp || op == kSigmoidOp then 3 else 2

/-- Whether a finite FP32 value lies within `u` units in the last place of ± n ÷ d: the unit is the FP32 spacing at the true value. -/
def kWithin (u : Nat) (neg : Bool) (q : Quot) (x : U32) : Bool :=
  match fv32 x with
  | .fin neg' m e =>
    let lg : Int := (bitLen q.1 : Int) - bitLen q.2
    -- 2^lo ≤ n ÷ d < 2^(lo+1)
    let ge := if 0 ≤ lg then decide (q.2 * 2 ^ lg.toNat ≤ q.1) else decide (q.2 ≤ q.1 * 2 ^ (-lg).toNat)
    let lo : Int := if ge then lg else lg - 1
    let ulp : Int := max (lo - 23) (-149)
    -- everything over d × 2^k, where k clears every negative exponent
    let k : Int := max 0 (max (-e) (-ulp))
    let t : Int := ((q.1 * 2 ^ k.toNat : Nat) : Int)
    let v : Int := ((m * q.2 * 2 ^ (e + k).toNat : Nat) : Int)
    let lim : Int := ((u * q.2 * 2 ^ (ulp + k).toNat : Nat) : Int)
    let diff := (if neg then -t else t) - (if neg' then -v else v)
    decide (-lim ≤ diff ∧ diff ≤ lim)
  | _ => false

/-- The FP32 result: what the hardware's fixed function gives where it lies within the bound (R197), else the nearest value. EXP below the
smallest subnormal, and SIGMOID there, give +0. -/
def kResult (op : Nat) (x : U32) (r : KReal) : U32 :=
  match r with
  | .exact y => y
  | .nan => nan32
  | .inf neg => inf32 neg
  | .real neg q =>
    if (op == kExpOp || op == kSigmoidOp) && decide (q.1 * 2 ^ 149 < q.2) then 0#32
    else
      let c := Config.kiln op x
      if kWithin (kUlps op) neg q c then c else BitVec.ofNat 32 (binFp32.roundQuot neg q.1 q.2)

/-- Results of infinite inputs (R195). -/
def kInfinite (op : Nat) (neg : Bool) : U32 :=
  if op == kExpOp then (if neg then 0#32 else inf32 false)
  else if op == kLogOp then (if neg then nan32 else inf32 false)
  else if op == kRecipOp then (if neg then 0x80000000#32 else 0#32)
  else if op == kRsqrtOp then (if neg then nan32 else 0#32)
  else if op == kTanhOp then (if neg then 0xBF800000#32 else 0x3F800000#32)
  else (if neg then 0#32 else 0x3F800000#32)

/-- A Kiln's rsqrt with FP32 output (R171, R197). -/
def kilnRsqrt (x : U32) : U32 :=
  match fv32 x with
  | .nan => nan32
  | .inf neg => kInfinite kRsqrtOp neg
  | .fin neg m e => kResult kRsqrtOp x (kReal kRsqrtOp neg m e)

/-! Fields of the descriptor (R198). -/

def kOp (d : BitVec 256) : Nat := dfld d 0 63 56
def kSrc (d : BitVec 256) : Nat := dfld d 0 55 52
def kDst (d : BitVec 256) : Nat := dfld d 0 51 48
def kRnd (d : BitVec 256) : Nat := dfld d 0 47 46
def kOvf (d : BitVec 256) : Bool := dbit d 0 45
def kSummary (d : BitVec 256) : Bool := dbit d 0 44
def kSumSlot (d : BitVec 256) : Nat := dfld d 0 43 39
def kTag (d : BitVec 256) : Nat := dfld d 0 31 0
def kCount (d : BitVec 256) : Nat := dfld d 1 63 0
def kSrcBase (d : BitVec 256) : Nat := dfld d 2 39 0
def kDstBase (d : BitVec 256) : Nat := dfld d 3 39 0

/-- The refusals of R198. -/
def kRefused (op : Nat) (d : BitVec 256) : Bool :=
  kOp d != op || !wideFloat (kSrc d) || !wideFloat (kDst d) || kCount d == 0 || decide (2 ^ 32 < kCount d)
    || kSrcBase d % Nat.max 1 (elemBytes (kSrc d)) != 0 || kDstBase d % Nat.max 1 (elemBytes (kDst d)) != 0 || decide (28 < kSumSlot d)

/-- What one element gives: its conversion, its FP32 result, and whether a NaN came from a finite input. -/
structure KOut where
  elem : Elem
  pre : U32
  domain : Bool
  deriving DecidableEq, Repr

/-- An FP32 code in a destination without a count. -/
def kExactCode (f : Nat) (x : U32) : Nat := (fmtBin f).code (fv32 x)

/-- One element (R195, R196). -/
def kElem (op : Nat) (d : BitVec 256) (u c : Nat) : KOut :=
  let f := kDst d
  match elemValue (kSrc d) c with
  | .nan => ⟨⟨nanCode f, false, false, true⟩, nan32, false⟩
  | .inf neg => let r := kInfinite op neg; ⟨⟨kExactCode f r, false, false, true⟩, r, false⟩
  | .fin neg m e =>
    let t := kReal op neg m e
    let r := kResult op (code32 (.fin neg m e)) t
    match fv32 r with
    | .nan => ⟨⟨nanCode f, false, false, false⟩, r, true⟩
    | .inf i => ⟨⟨if kOvf d then kExactCode f r else satCode f i, !kOvf d, false, false⟩, r, false⟩
    | v =>
      let el := quantise f (kRnd d) u (kOvf d) fone v
      let trueZero := match t with | .exact y => zero32 y | .real _ q => q.1 == 0 | _ => false
      let zero := isZeroFv (elemValue f el.code)
      ⟨{ el with sat := el.sat && !kOvf d, flush := zero && !trueZero }, r, false⟩

/-- A Kiln command ends refused. -/
def State.kRefuse (s : State) (k : EngIx) (n : TileIx) (d : BitVec 256) : State :=
  ((s.flag (F.ENG_KIL_STAT_REFUSED k.val)).refusedSummary n (kSummary d) (kSumSlot d)).complete n (domKiln k.val)
    (recordBits (kTag d) (numStatus Cnt.zero stLayout))

/-- A Kiln command (R195 to R198). -/
def State.opKiln (s : State) (k : EngIx) (n : TileIx) (op : Nat) (d : BitVec 256) : State :=
  if kRefused op d then s.kRefuse k n d else
  let w := elemBytes (kSrc d)
  let (s1, b, bad) := s.engRead n (kSrcBase d) (w * kCount d)
  let draw := fun i => if rndMode (kRnd d) == 2 then srDraw s.stepNo (kTag d % 2 ^ 24) i else 0
  let out := (chunksOf w (kCount d) b).zipIdx.map (fun e => kElem op d (draw e.2) (leNat e.1))
  let wd := elemBytes (kDst d)
  let s2 := s1.unitWrite n (kDstBase d) (out.map (fun o => leBytes wd o.elem.code)).flatten bad
  let cnt := out.foldl (fun (c : Cnt) o => c.elem o.elem) Cnt.zero
  let dom := (out.filter (fun o => o.domain)).length
  let i := k.val
  let s3 := ((s2.flagIf (dom != 0) (F.ENG_KIL_STAT_DOMAIN i)).flagIf (cnt.nonfin != 0) (F.ENG_KIL_STAT_NONFIN i)).flagIf (cnt.sat != 0)
    (F.ENG_KIL_STAT_SAT i)
  let s4 := s3.bump (F.ENG_KIL_STAT_ELEMS_STEP i) (kCount d)
  let s5 := if kSummary d then
      s4.putSummary n (kSumSlot d) (summaryOf false (.floats [out.map (fun o => o.pre)]) (summaryFlags cnt false false false false)) else s4
  let e := domKiln i
  ((((s5.perfEvent e 0x2C (kCount d)).perfEvent e 0x2D dom).sticky n cnt.nonfin (dom != 0)).complete n e
    (recordBits (kTag d + sat32 (kCount d) * 2 ^ 32 + sat32 dom * 2 ^ 64) (numStatus cnt stOk)))

end Sys2Proof.Machine
end

