-- ==== Sys2Proof/Machine/Keys.lean ====
section
/-! DEFINITION. The keys that a start derives (R334), the owner record's MAC (R336) and the certificate chain (R335): HMAC-SHA-512
(RFC 2104), HKDF-SHA-512 (RFC 5869), and P-521 key generation by testing candidates from an HMAC-DRBG (FIPS 186-5, SP 800-90A). -/

namespace Sys2Proof.Machine

/-- HMAC-SHA-512. -/
def hmacSha512 (key msg : List Byte) : List Byte :=
  let k := if key.length ≤ 128 then key else sha512Bytes key
  let k0 := k ++ List.replicate (128 - k.length) 0
  sha512Bytes (k0.map (fun b => b ^^^ 0x5C#8) ++ sha512Bytes (k0.map (fun b => b ^^^ 0x36#8) ++ msg))

/-- ASCII bytes of a string. -/
def asciiBytes (t : String) : List Byte := t.toList.map (fun c => BitVec.ofNat 8 c.toNat)

/-- 64 bytes that HKDF-SHA-512 derives from the seed for an info string. R334 names no salt: RFC 5869's default of zeros (log entry 78). -/
def deriveKey (info : List Byte) : List Byte :=
  let prk := hmacSha512 (List.replicate 64 0) (leBytes 64 Config.seed.toNat)
  hmacSha512 prk (info ++ [1#8])

/-- Key and V of an HMAC-DRBG after an update with data. -/
def drbgUpdate (kv : List Byte × List Byte) (data : List Byte) : List Byte × List Byte :=
  let k1 := hmacSha512 kv.1 (kv.2 ++ [0#8] ++ data)
  let v1 := hmacSha512 k1 kv.2
  if data.isEmpty then (k1, v1)
  else
    let k2 := hmacSha512 k1 (v1 ++ [1#8] ++ data)
    (k2, hmacSha512 k2 v1)

/-- Order of the P-521 base point. -/
def p521Order : Nat :=
  2 ^ 521 - 657877501894328237357444332315020117536923257219387276263472201219398408051703

/-- The big-endian number of the leftmost 521 bits of 66 bytes. -/
def bits521 (l : List Byte) : Nat := leNat ((sliceBytes l 0 66).reverse) / 2 ^ 7

/-- The first candidate below the order, plus 1, within the draws that `fuel` allows. -/
def p521Private : Nat → List Byte × List Byte → Nat
  | 0, _ => 1
  | fuel + 1, kv =>
    let v1 := hmacSha512 kv.1 kv.2
    let v2 := hmacSha512 kv.1 v1
    let c := bits521 (v1 ++ v2)
    if c ≤ p521Order - 2 then c + 1 else p521Private fuel (drbgUpdate (kv.1, v2) [])

/-- The public key of the P-521 key that an info string names (R334). -/
def p521Key (info : List Byte) : BitVec 1064 :=
  Config.publicKey (p521Private 64 (drbgUpdate (List.replicate 64 0, List.replicate 64 1) (deriveKey info)))

/-- The DeviceID public key, fixed for the life of the module. -/
def deviceKey : BitVec 1064 := p521Key (asciiBytes "ovt-devid")

/-- SHA-512 of a public key of 133 bytes. -/
def keyDigest (key : BitVec 1064) : Digest := sha512 (leBytes 133 key.toNat)

/-- Serial number of the DeviceID certificate (R335). -/
def deviceSerial : BitVec 160 := (keyDigest deviceKey).setWidth 160

/-- OWNER_KEY_ID of a public key: the first 16 bytes of its SHA-512 (R332). -/
def keyId (key : BitVec 1064) : BitVec 128 := (keyDigest key).setWidth 128

/-- The MAC of an owner record's fields under the owner MAC key (R334, R336). -/
def ownerMac (key : BitVec 1064) (minSeq enrolCount : Nat) : BitVec 512 :=
  BitVec.ofNat 512 (leNat (hmacSha512 (deriveKey (asciiBytes "ovt-ownmac"))
    (leBytes 133 key.toNat ++ leBytes 4 minSeq ++ leBytes 4 enrolCount)))

/-- An owner record with its MAC. -/
def makeOwner (key : BitVec 1064) (minSeq enrolCount : Nat) : Owner := ⟨key, minSeq, enrolCount, ownerMac key minSeq enrolCount⟩

/-- The MAC of a record is that of its fields. -/
def Owner.macOk (o : Owner) : Bool := o.mac == ownerMac o.key o.minSeq o.enrolCount

/-- The Alias public key of a Waybill header digest and an owner key identifier (R334). -/
def aliasKeyOf (hdrDigest : Digest) (ownerKeyId : BitVec 128) : BitVec 1064 :=
  p521Key (asciiBytes "ovt-alias" ++ leBytes 64 hdrDigest.toNat ++ leBytes 16 ownerKeyId.toNat)

end Sys2Proof.Machine
end

