-- ==== Sys2Proof/Machine/StartOps.lean ====
section
/-! DEFINITION. Starts: verifying a Waybill (R331 to R333), the steps of the start sequence (R324 to R330), what a start finishes in DRAM
(R229, R230), failed starts (R328), restarts (R339) and the loss of power (R433). -/

namespace Sys2Proof.Machine

/-! The Waybill. -/

/-- ASCII "OVWAYBL1". -/
def waybillMagic : U64 := BitVec.ofNat 64 (leNat [0x4F#8, 0x56#8, 0x57#8, 0x41#8, 0x59#8, 0x42#8, 0x4C#8, 0x31#8])

/-- No section type is repeated. -/
def noRepeat : List Nat → Bool
  | [] => true
  | a :: l => !l.contains a && noRepeat l

/-- Size of a Waybill slot: 24 MiB (R331). -/
def slotBytes : Nat := 0x1800000

/-- Step 1 of R333: MAGIC, FORMAT, TOTAL_SIZE and the section table (R332). -/
def wbFormatOk (g : WaybillImage) : Bool :=
  let n := g.hdr.sections.toNat
  g.hdr.magic == waybillMagic && g.hdr.format == 1 && decide (g.hdr.totalSize.toNat ≤ slotBytes ∧ g.hdr.totalSize.toNat ≤ g.bytes.length) &&
    decide (6 ≤ n ∧ n ≤ 64) && noRepeat (g.table.map (fun e => e.typ.toNat)) &&
    g.table.all (fun e => decide (1 ≤ e.typ.toNat ∧ e.typ.toNat ≤ 0x0B) && e.offset.toNat % 4096 == 0 &&
      decide (g.topBytes + 132 ≤ e.offset.toNat ∧ e.offset.toNat + e.length.toNat ≤ g.hdr.totalSize.toNat))

def hasSection (g : WaybillImage) (t : Nat) : Bool := g.table.any (fun e => e.typ.toNat == t)

/-- The contents in force: those of absent optional sections are empty. -/
def wbTrim (g : WaybillImage) : WaybillImage :=
  { g with data := { g.data with
      ladder := if hasSection g 7 then g.data.ladder else []
      optim := if hasSection g 8 then g.data.optim else []
      freeze := if hasSection g 9 then g.data.freeze else []
      thresholds := if hasSection g 0x0B then g.data.thresholds else [] } }

/-- The register values of a Waybill in the order in which they load: REGISTERS, then THRESHOLDS. -/
def wbRegs (g : WaybillImage) : List (Nat × U64) := g.data.regs ++ g.data.thresholds

/-- The value a Waybill loads into a field: that of the last entry for its register. -/
def wbVal (g : WaybillImage) (f : Field) : Nat :=
  match (wbRegs g).reverse.find? (fun r => r.1 == f.off), cardAt f.off with
  | some r, some c => fieldOf f (r.2 &&& BitVec.ofNat 64 c.waybill)
  | _, _ => 0

/-- A tensor scale that R37 allows: positive, finite, normal. -/
def wbScaleOk (x : U32) : Bool := decide (0x00800000 ≤ x.toNat ∧ x.toNat < 0x7F800000)

/-- R20. -/
def wbPeriodOk (g : WaybillImage) : Bool :=
  let p := wbVal g F.MGT_PERIOD_CFG0_PERIOD_TICKS
  let i := wbVal g F.MGT_PERIOD_CFG0_INGEST_DL
  let f := wbVal g F.MGT_PERIOD_CFG1_INFER_DL
  let t := wbVal g F.MGT_PERIOD_CFG1_TRAIN_DL
  decide (31250 ≤ p ∧ p ≤ 187500000 ∧ 160 < i ∧ i < f ∧ f ≤ t ∧ t ≤ p)

/-- R245. A period without training time (R20: INFER_DL = TRAIN_DL) has no vote, and the margin does not count (DEDUCED, log entry 75). -/
def wbMarginOk (g : WaybillImage) : Bool :=
  let f := wbVal g F.MGT_PERIOD_CFG1_INFER_DL
  let t := wbVal g F.MGT_PERIOD_CFG1_TRAIN_DL
  decide (f = t ∨ wbVal g F.SEAL_CFG_SEAL_MARGIN < t - f)

/-- R304: the ranges and steps of R302 and R306. -/
def wbClocksOk (g : WaybillImage) : Bool :=
  let c := wbVal g F.CLK_CFG_CORE_MHZ
  let f := wbVal g F.CLK_CFG_FAB_MHZ
  let m := wbVal g F.CLK_CFG_MEM_MHZ
  let d := wbVal g F.CLK_CFG_MGMT_DIV
  decide (400 ≤ c ∧ c ≤ 1000 ∧ c % 25 = 0 ∧ 400 ≤ f ∧ f ≤ 1250 ∧ f % 25 = 0 ∧ 500 ≤ m ∧ m ≤ 1000 ∧ m % 125 = 0 ∧ 1 ≤ d ∧ d ≤ 64
    ∧ wbVal g F.CLK_SSC_SSC_DEPTH ≤ 30 ∧ wbVal g F.CLK_SSC_SSC_RATE ≤ 100)

/-- R106: whole entries, at most 1,024 of them. -/
def wbWireOk (g : WaybillImage) : Bool :=
  (g.sectionOf 6).length % 16 == 0 && decide (g.wire.length ≤ 1024) &&
    g.wire.all (fun e => (e.fmt == 0 || e.fmt == 2) && wbScaleOk e.sT && e.sW != 0)

/-- R170. -/
def wbOptimOk (g : WaybillImage) : Bool := g.data.optim.all (fun o => wbScaleOk o.mScale && wbScaleOk o.vScale)

/-- R253. -/
def wbLadderOk (g : WaybillImage) : Bool := g.data.ladder.all (fun e => rungAllowed e e.initRung)

/-- A route code of a group entry that this module can take to a member (R263, R280). -/
def routeOk (self id : Nat) (relief : Bool) (code : Nat) : Bool :=
  if code ≤ 14 then !relief && bits id 10 4 == bits self 10 4 && id % 16 == (self % 16 + code + 1) % 16
  else !(relief && code == 18)

/-- R280 and R406 for one group. -/
def groupOk (self : Nat) (relief : Bool) (g : Group) : Bool :=
  let n := g.members.length
  if n == 0 then true else
  let ids := g.members.map (fun m => m.id.toNat)
  let here := match g.members[g.selfPos]? with | some m => m.id.toNat == self && m.route == 30 | none => false
  let partner := self ^^^ 0x400
  decide (g.leaderPos < n) && (decide (g.selfPos < n) || g.selfPos == 0xFFFF) && noRepeat ids &&
    (if ids.contains self then here else g.selfPos == 0xFFFF) &&
    g.members.all (fun m => m.id.toNat == self ||
      (routeOk self m.id.toNat relief m.route && routeOk self m.id.toNat relief m.altRoute)) &&
    ids.all (fun i => bit i 10 == bit self 10 || (i == partner && decide (n ≤ 2)))

/-- R280: every group, and this module in the seal group. -/
def wbGroupsOk (self : Nat) (g : WaybillImage) : Bool :=
  let relief := wbVal g F.ENG_CAST_CFG_RELIEF_OF != 0
  let own := if relief then wbVal g F.ENG_CAST_CFG_RELIEF_OF else self
  decide (g.data.groups.length ≤ 256) && g.data.groups.all (fun x => groupOk own relief x) &&
    (match g.data.groups[wbVal g F.SEAL_CFG_SEAL_GROUP]? with
      | some x => x.members.any (fun m => m.id.toNat == own)
      | none => false)

/-- Pages of the LAYOUT's persistent regions. -/
def layoutPages (l : Layout) : Nat := (l.persistent.map (fun r => r.2 / 0x10000)).foldl (· + ·) 0

/-- Step 7 of R333: the field checks of WB_FIELD. -/
def wbFieldsOk (self : Nat) (g0 : WaybillImage) : Bool :=
  let g := wbTrim g0
  [1, 2, 3, 4, 5, 0x0A].all (fun t => hasSection g t) && wbPeriodOk g && wbMarginOk g && wbClocksOk g && wbWireOk g && wbOptimOk g &&
    wbLadderOk g && wbGroupsOk self g && !(wbVal g F.MEM_MAP_CFG_LAYOUT_MODE == 1 && wbVal g F.MEM_MAP_CFG_CELLAR_SIZE != 0) &&
    decide (imageSize (layoutPages g.data.layout) 0 ≤ 504 * 2 ^ 30)

/-- Steps 1 to 6 of R333 under the enrolled owner, if there is one: the reason of the first failure, 0 for none. -/
def verifyRead (owner : Option Owner) (g : WaybillImage) : Nat :=
  if !wbFormatOk g then 0x51
  else if g.hdr.part != 0x4064 || g.hdr.generation != 1 || g.hdr.stepping != 0x11 then 0x52
  else match owner with
    | none => 0x53
    | some o =>
      if g.hdr.ownerKeyId != keyId o.key then 0x53
      else if !g.signedBy.contains o.key then 0x54
      else if g.hdr.seqNo.toNat < o.minSeq then 0x55
      else if !g.table.all (fun e => e.digest == sha512 (g.sectionBytes e)) then 0x56
      else 0

/-- R333 in full; an empty slot fails the first check. -/
def verifyWaybill (o : Owner) (self : Nat) (img : Option WaybillImage) : Nat :=
  match img with
  | none => 0x51
  | some g =>
    let r := verifyRead (some o) g
    if r != 0 then r else if wbFieldsOk self g then 0 else 0x57

/-! The Ledger across a loss of power (R387). -/

/-- The Ledger is read: the NAND copy, or the newest xSPI copy; the count of failed starts comes with it (R328). -/
def State.readLedger (s : State) : State :=
  if s.start.ledgerRead then s else
  let nand := if s.start.env.ledgerNandOk then s.flash.ledgerNand else none
  let l := match nand with
    | some l => l
    | none => match s.flash.ledgerXspi with
      | some l => l
      | none => Ledger.init
  let fromXspi := nand.isNone && s.flash.ledgerXspi.isSome
  let n := Nat.max s.start.consec l.consecFail
  let s1 := { s with
    ledger := { l with poweredTicks := l.poweredTicks + s.ledger.poweredTicks }
    start := { s.start with ledgerRead := true, consec := n } }
  (s1.set F.MGT_BOOTSTAT_CONSEC_FAIL n).flagIf fromXspi F.FLT_STAT_LEDGER_XSPI

/-! Failed starts and minimal mode. -/

/-- A start fails at a step with a reason (R328, R338, R341). -/
def State.failStart (s0 : State) (step reason : Nat) : State :=
  let s := s0.readLedger
  let n := Nat.min 255 (s.start.consec + 1)
  let s1 := ((s.set F.MGT_BOOTSTAT_REASON reason).set F.MGT_BOOTSTAT_FAIL_STEP step).set F.MGT_BOOTSTAT_CONSEC_FAIL n
  let s2 := { s1 with
    start := { s1.start with consec := n }
    ledger := { s1.ledger with failedStarts := s1.ledger.failedStarts + 1, failReason := reason, failStep := step, consecFail := n } }
  let s3 := if s2.bootDir.trial then
      let t := (s2.flag F.MGT_BOOTSTAT_STAGED_ABANDONED).putBoot { s2.bootDir with trial := false, stagedPending := false }
      { t with start := { t.start with skipStaged := true } } else s2
  let s4 := s3.writeLedger
  if 3 ≤ n then s4.enterMinimal 0x90
  else if s4.start.noRetry then s4.enterMinimal reason
  else { s4.allOff [] with start := { (s4.allOff []).start with retryArmed := true } }

/-! Step 4 and the registers. -/

/-- A start begins at step 4 (R12, R339): register blocks leave reset; every domain but the always-on island is off; what the island keeps
stays: time, the error queue and the CPER store, the failure record, straps. -/
def State.startReset (s : State) (env : StartEnv) (powerOn : Bool) : State :=
  let s1 := s.allOff []
  let reason := s1.get F.MGT_BOOTSTAT_REASON
  let failStep := s1.get F.MGT_BOOTSTAT_FAIL_STEP
  let xtal := s1.get F.CLK_STAT_XTAL_OK
  let st := { s1.start with
    env := env, hung := 0, xspiHold := false, retryArmed := false, restartAtBoundary := none, restoreHeld := false
    memReady := false, upload := none, uploadBytes := [], ttImage := [], seqImage := [], msix0 := MsixSt.init, msix1 := MsixSt.init
    keysOk := false, ownerNow := none }
  let s2 := { s1 with
    regs := [], start := st, wb := none, ladder := [], mbx := Vector.replicate 32 MbxChan.init, perf := PerfSt.init
    time := { s1.time with coreCyc := 0, fabCyc := 0 }
    power := { PowerSt.init with brakeAge := Nat.min 1 s1.power.brakeAge }
    flt := { s1.flt with innkFaultAt := none, innkRestarting := false }
    free := s1.free + 1 }
  let s3 := ((s2.set F.MGT_BOOTSTAT_REASON reason).set F.MGT_BOOTSTAT_FAIL_STEP failStep).set F.MGT_BOOTSTAT_CONSEC_FAIL s2.start.consec
  let s4 := (s3.setB F.MGT_BOOTSTAT_POWER_ON powerOn).set F.CLK_STAT_XTAL_OK xtal
  let s5 := ((s4.set F.LINK_IDENT_MEMBER_ID st.straps.moduleSlot.toNat).set F.LINK_PAIR_STATUS_OWN_FEED st.straps.feedId.toNat).set
    F.CLK_STAT_XTAL_WAIT st.straps.xtalWait.toNat
  let n := s5.flt.queue.length
  ((s5.set F.FLT_QUEUE_DEPTH n).set F.FLT_QUEUE_PEAK n).set F.FLT_CPER_STAT_HELD s5.flt.store.length

/-- A step begins: MGT_BOOTSTAT.STEP shows it, and it may wait for its limit. The Boolean says whether it goes on. -/
def State.beginStep (s : State) (k : Nat) : State × Bool :=
  let s1 := s.set F.MGT_BOOTSTAT_STEP k
  if s1.start.env.hangStep == k then ({ s1 with start := { s1.start with hung := k } }, false) else (s1, true)

/-! Steps 5 and 6. -/

/-- Step 5 (R334 to R336, R387): keys, the DeviceID certificate, owner record, Ledger. -/
def State.step5 (s : State) : State × Bool :=
  let e := s.start.env
  let s1 := s.readLedger
  if !e.helperOk then (s1.failStart 5 0x31, false)
  else if !e.pufOk then (s1.failStart 5 0x30, false)
  else
    let s2 := { s1 with start := { s1.start with deviceId := keyDigest deviceKey, keysOk := true } }.setB F.MGT_BOOTSTAT_DEVCERT_BAD (!e.devCertOk)
    match s2.flash.owner with
    | none => ((s2.enterMinimal 0x40).flag F.MGT_BOOTSTAT_NO_OWNER, false)
    | some o =>
      if !(e.ownerMacOk && o.macOk) then (s2.failStart 5 0x41, false)
      else ({ s2 with start := { s2.start with ownerNow := some o } }.set F.MGT_WAYBILL_MIN_SEQ o.minSeq, true)

/-- Load the Waybill's values into the register fields it sets (R12). -/
def State.loadRegs (s : State) (g : WaybillImage) : State :=
  s.forEach (wbRegs g) (fun s r =>
    match cardAt r.1 with
    | some c => let m : U64 := BitVec.ofNat 64 c.waybill; s.wr r.1 ((s.rd r.1 &&& ~~~m) ||| (r.2 &&& m))
    | none => s)

/-- A verified Waybill is in force (R12, R279, R406). -/
def State.useWaybill (s : State) (g0 : WaybillImage) (slot : Fin 2) (trial : Bool) : State :=
  let g := wbTrim g0
  let s1 := (({ s with wb := some g }).putBoot { s.bootDir with trial := trial }).loadRegs g
  let s2 := (s1.set F.MGT_WAYBILL_SEQ g.hdr.seqNo.toNat).set F.LINK_IDENT_JOB_TAG g.hdr.jobTag.toNat
  let s3 := if s2.get F.ENG_CAST_CFG_RELIEF_OF != 0 then s2.set F.LINK_IDENT_MEMBER_ID (s2.get F.ENG_CAST_CFG_RELIEF_OF) else s2
  let s4 := ((s3.set F.MGT_BOOTSTAT_SLOT slot.val).setB F.MGT_BOOTSTAT_TRIAL trial).set F.CLK_STAT_BOOT_LOCK 0
  let s5 := { s4 with power := { s4.power with limit := s4.get F.PWR_LIMIT_POWER_LIMIT } }
  s5.setCredit (s5.creditMax s5.power.limit)

/-- Step 6 (R333, R338): the staged Waybill on trial, else the active one. -/
def State.step6 (s : State) : State × Bool :=
  if !s.start.env.flashOk then (s.failStart 6 0x50, false) else
  match s.flash.owner with
  | none => (s, false)
  | some o =>
    let self := s.start.straps.moduleSlot.toNat
    let act := s.activeSlot
    let stg := s.stagingSlot
    let s1 := s.flagIf s.start.skipStaged F.MGT_BOOTSTAT_STAGED_ABANDONED
    let s2 := ({ s1 with start := { s1.start with skipStaged := false } }).setB F.MGT_BOOTSTAT_STAGED_PENDING s1.bootDir.stagedPending
    let staged := if s2.bootDir.stagedPending then s2.flash.slots[stg] else none
    match staged, verifyWaybill o self staged with
    | some g, 0 => (s2.useWaybill g stg true, true)
    | _, _ =>
      let s3 := if s2.bootDir.stagedPending then
          ((s2.putBoot { s2.bootDir with stagedPending := false }).flag F.MGT_BOOTSTAT_STAGED_REJECTED).set
            F.MGT_BOOTSTAT_STAGED_PENDING 0 else s2
      let img := s3.flash.slots[act]
      match img, verifyWaybill o self img with
      | some g, 0 => (s3.useWaybill g act false, true)
      | _, r => (s3.failStart 6 r, false)

/-- Steps 4 to 6 of a start; whether it goes on to step 7. -/
def State.startTo7 (s : State) : State × Bool :=
  let (s4, ok4) := (s.set F.CLK_STAT_BOOT_LOCK 1).beginStep 4
  if !ok4 then (s4, false)
  else if !s4.start.env.romKatOk then (s4.failStart 4 0x20, false)
  else
    let (s5, ok5) := s4.beginStep 5
    if !ok5 then (s5, false) else
    let (s6, ok6) := s5.step5
    if !ok6 then (s6, false) else
    let (s7, ok7) := s6.beginStep 6
    if !ok7 then (s7, false) else s7.step6

/-- The clock ratio limits of R305, spread included: FAB's depth D is SSC_DEPTH × 0.05 %. -/
def State.clocksOk (s : State) : Bool :=
  let c := s.get F.CLK_CFG_CORE_MHZ
  let f := s.get F.CLK_CFG_FAB_MHZ
  let m := s.get F.CLK_CFG_MEM_MHZ
  let d := s.get F.CLK_CFG_MGMT_DIV
  let depth := if s.on F.CLK_SSC_FAB_SSC then s.get F.CLK_SSC_SSC_DEPTH else 0
  let cd := if s.on F.CLK_SSC_CORE_SSC then s.get F.CLK_SSC_SSC_DEPTH else 0
  -- in units of 1/2000 MHz: the lowest FAB is f (2000 − depth)
  let low := f * (2000 - depth)
  let core := if depth = 0 then f * 4 ≤ c * 5 ∧ c ≤ f ∧ f * 2000 * 4 ≤ c * (2000 - cd) * 5
    else if cd = 0 then c * 2000 ≤ low ∧ f * 4 ≤ c * 5
    else c ≤ f ∧ f * 4 ≤ c * 5
  decide (core ∧ m * 2000 ≤ low ∧ 4 ≤ d ∧ 25 * 2000 * d ≤ 2 * low)

/-! Step 7. -/

/-- Bits of a number that are set below n. -/
def popCount (x n : Nat) : Nat := ((List.range n).filter (fun i => bit x i)).length

/-- Fences of tiles and engines measured at step 7 (R325, R373). -/
def State.startFences (s : State) : State :=
  let t := (s.start.env.tilesFailed ||| s.ledger.fencedTiles).toNat
  let e := (s.start.env.engFailed ||| s.ledger.fencedEng).toNat
  let s1 := ((s.set F.FLT_FENCE_TILE_TILES t).set F.FLT_STAT_FENCED_TILES (popCount t 64)).set F.MGT_IDENT_TILES (64 - popCount t 64)
  let s2 := (s1.wr 0x50018 (BitVec.ofNat 64 e)).set F.FLT_STAT_FENCED_ENG (popCount e 36)
  s2.forEach ((List.range 36).filter (fun i => bit e i)) (fun s i => s.engFencedFlag (64 + i))

/-- A domain's state at the start of a step: ON, or OFF where it is fenced, unused or not yet powered. -/
def State.startDom (s : State) (d : Nat) (on_ : Bool) : State :=
  let st := if on_ then 3 else 0
  (s.setDom d st).setDomReq d st

/-- The images that step 7 loads (R324, R332). -/
def State.loadImages (s : State) : State :=
  match s.wb with
  | some g => { s with start := { s.start with ttImage := g.sectionOf 3, seqImage := g.sectionOf 4 } }
  | none => s

/-- Step 7 (R324, R325): domains, self-tests, images. Where the step itself fails after a measurement (TILES), the fields it has measured keep
what it measured: R12 has fields read zero only of steps that a start did not reach (DEDUCED, log entry 76). -/
def State.step7 (s : State) : State × Bool :=
  if !s.start.env.domainsOk then (s.failStart 7 0x60, false) else
  let s1 := ((s.set F.CLK_STAT_CORE_LOCK 1).set F.CLK_STAT_FAB_LOCK 1).startFences
  let t := s1.get F.FLT_FENCE_TILE_TILES
  let s2 := s1.forEach (List.range 103) (fun s d =>
    s.startDom d (if d < 64 then !bit t d else if d < 100 then !s.engFenced d else true))
  if 8 < s2.get F.FLT_STAT_FENCED_TILES then (s2.failStart 7 0x61, false) else (s2.loadImages, true)

/-! Step 8. -/

/-- The unused spare of a stack by the Ledger: a channel that fills no position and is neither retired nor fenced. -/
def spareFree (l : Ledger) (k : Nat) : Option Nat :=
  ((List.range 9).map (fun c => 9 * k + c)).find? (fun ch =>
    !(List.finRange 256).any (fun i => i.val / 8 == k && l.channelMap[i] == ch % 9) && !l.retiredCh.contains ch && !l.fencedCh.contains ch)

/-- Position of a channel in the Ledger's map. -/
def mapPos (l : Ledger) (ch : Nat) : Option (Fin 256) := (List.finRange 256).find? (fun i => i.val / 8 == ch / 9 && l.channelMap[i] == ch % 9)

/-- A source's position is mapped to a spare, and the source is retired (R229). -/
def retireTo (l : Ledger) (src dst : Nat) : Ledger :=
  match mapPos l src with
  | some i => { l with channelMap := l.channelMap.set i (dst % 9), retiredCh := NatSet.add l.retiredCh src, toFence := NatSet.del l.toFence src }
  | none => { l with toFence := NatSet.del l.toFence src }

/-- R229: interrupted migrations, then the queue, then channels in state 5 or 7. -/
def finishMigrations (l : Ledger) : Ledger :=
  let l1 := match l.interrupted with
    | some (src, dst, _) => retireTo { l with interrupted := none } src dst
    | none => l
  let l2 := l1.diedCopy.foldl (fun l d => retireTo l d.1 d.2.1) { l1 with diedCopy := [] }
  let l3 := l2.waiting.foldl (fun l ch => match spareFree l (ch / 9) with
    | some sp => retireTo l ch sp
    | none => { l with toFence := NatSet.add l.toFence ch }) { l2 with waiting := [] }
  { l3 with fencedCh := l3.toFence.foldl NatSet.add l3.fencedCh, toFence := [] }

/-- STATE of a channel at a start (R209, R229, R325): `down` where its stack failed training. -/
def startChState (l : Ledger) (down : Bool) (ch : Nat) : Nat :=
  if l.fencedCh.contains ch then 6
  else if (mapPos l ch).isSome then (if down then 6 else 0)
  else if l.retiredCh.contains ch then 4
  else 1

/-- The slot table (R214) from the channel states. -/
def slotTable (chan : Nat → Nat) (active : Nat → Bool) : List Nat :=
  (List.range 8).flatMap (fun p => (List.range 32).filterMap (fun k =>
    if active (9 * k + chan (8 * k + p)) then some (8 * k + p) else none))

/-- Base of a stack's home region (R213). -/
def homeBase (k : Nat) : Nat := 0x8000000000 + k * 0x200000000

/-- The bytes of a range of module addresses are all populated (R238). -/
def State.populated (s : State) (base bytes : Nat) : Bool :=
  if base < 0x8000000000 then decide (base + bytes ≤ s.mem.slots.length * s.gch)
  else if base < 0xC000000000 then
    let k := (base - 0x8000000000) / 0x200000000
    decide (base - homeBase k + bytes ≤ s.homeBytes k)
  else if base < 0xC040000000 then decide ((base - 0xC000000000) % 0x1000000 + bytes ≤ 0x600000)
  else false

/-- Whole frames of 64 KiB from a base. -/
def frames64 (base n : Nat) : List Nat := (List.range n).map (fun i => base + i * 0x10000)

/-- Step 8 (R209, R214, R229, R230, R238, R325): DRAM. Where the step fails with EXTENT or RESIDENT_ADDR, the channels' STATE and SLOT that it has
measured stay (DEDUCED, log entry 76). -/
def State.step8 (s : State) : State × Bool :=
  let e := s.start.env
  if !e.memPllOk || 4 < popCount e.stacksFailed.toNat 32 then (s.failStart 8 0x70, false) else
  let s1 := { s.set F.CLK_STAT_MEM_LOCK 1 with ledger := finishMigrations s.ledger }
  let l := s1.ledger
  let chan := fun (q : Nat) => if h : q < 256 then l.channelMap[q] else 0
  let st := fun (ch : Nat) => startChState l (bit e.stacksFailed.toNat (ch / 9)) ch
  let slots := slotTable chan (fun ch => st ch == 0)
  let s2 := { s1 with mem := { MemSt.init with slots := slots } }
  let s3 := s2.forEach (List.range 288) (fun s ch => (s.setChState ch (st ch)).set (F.MEM_CH_STAT_SLOT ch) 0x1FF)
  let s4 := s3.forEach slots.zipIdx (fun s x => s.set (F.MEM_CH_STAT_SLOT (9 * (x.1 / 8) + chan x.1)) x.2)
  let s5 := s4.forEach (List.range 32) (fun s k => s.startDom (domMem k) true)
  let lay := match s5.layout with | some l => l | none => ⟨[], [], [], [], [], 0, [], [], 0⟩
  let need : Nat := s5.get F.MEM_MAP_CFG_HOME_NEED * 0x4000000
  let want : Nat := s5.get F.MEM_MAP_CFG_CELLAR_SIZE * 0x4000000
  let size : Nat := slots.length * s5.gch
  let small : Bool := (List.range 32).any (fun k => decide (s5.homeBytes k < need))
  if decide (size < lay.globalExtent) || small then (s5.failStart 8 0x71, false)
  else if s5.get F.MEM_MAP_CFG_LAYOUT_MODE == 1 && !lay.resident.all (fun r => s5.populated r.1 r.2) then (s5.failStart 8 0x72, false)
  else
    let cellar : Vector Nat 32 := Vector.ofFn (fun k => Nat.min want (s5.homeBytes k.val - need))
    let cut := cellar.toList.any (fun c => decide (c < want))
    let pool : Vector (List Nat) 32 := Vector.ofFn (fun k =>
      (lay.pools.filter (fun p => p.stack == k)).flatMap (fun p => frames64 p.base p.frames))
    let stageB := s5.get F.ENG_CAST_CFG_CAST_STAGE * 0x100000
    let stage : Vector (List Nat) 32 := Vector.ofFn (fun k =>
      let top := s5.homeBytes k.val - cellar[k]
      let b := Nat.min stageB top
      frames64 (homeBase k.val + top - b) (b / 0x10000))
    let s6 := { s5 with
      mem := { s5.mem with cellar := cellar, pool := pool }
      cast := { s5.cast with stage := stage }
      start := { s5.start with memReady := true } }
    let spares := ((List.range 32).filter (fun k => (s6.spareOf k).isSome)).length
    let fenced := ((List.range 288).filter (fun ch => st ch == 6)).length
    let nStacks := ((List.range 32).filter (fun k => !(s6.stackSlots k).isEmpty)).length
    let s7 := ((s6.flagIf cut F.MEM_STAT_CELLAR_CUT).set F.MEM_MAP_STAT_SPARES_LEFT spares).set F.MEM_MAP_STAT_GLOBAL_SIZE (size / 0x2000000)
    let s8 := (s7.set F.MEM_MAP_STAT_CELLAR_MIN (cellar.toList.foldl Nat.min want / 0x4000000)).set F.MEM_MAP_STAT_FENCED_CH (Nat.min 127 fenced)
    let s9 := (s8.set F.MEM_MAP_STAT_ACTIVE_CH slots.length).set F.MGT_IDENT_STACKS nStacks
    (s9.set F.MGT_HDM_HDM_SIZE (Nat.min 0x8000000000 size / 0x10000000), true)

/-! Steps 9 and 10. -/

/-- A port that the Waybill leaves in use (R267): a relief module keeps U0 and U1 alone (R406). -/
def State.portUsed (s : State) (p : Nat) : Bool := s.get F.ENG_CAST_CFG_RELIEF_OF == 0 || p == 15 || p == 16

/-- Step 9 (R324, R267): every port in use trains, and the start waits for them. -/
def State.step9 (s : State) : State :=
  let s1 := (s.set F.MGT_BOOTSTAT_STEP 9).forEach (List.range 18) (fun s p =>
    (s.startDom (domPort p) (s.portUsed p)).set (F.LINK_PORT_STAT_STATE p) (b2n (s.portUsed p)))
  { s1 with start := { s1.start with hung := 9 } }

/-- Step 10 (R326): the CXL domain is powered, and the start waits for the link. -/
def State.step10 (s : State) : State :=
  let s1 := (s.set F.MGT_BOOTSTAT_STEP 10).startDom domCxl true
  { s1 with start := { s1.start with hung := 10 } }

/-- Step 9 is over once no port in use still trains (R324). -/
def State.portsSettled (s : State) : State :=
  if s.start.hung == 9 && (List.range 18).all (fun p => s.portState p != 1 && s.portState p != 2) then s.step10 else s

/-- Steps 7 to 9. -/
def State.startFrom7 (s : State) : State :=
  let (s1, ok1) := s.beginStep 7
  if !ok1 then s1 else
  let (s2, ok2) := s1.step7
  if !ok2 then s2 else
  let (s3, ok3) := s2.beginStep 8
  if !ok3 then s3 else
  let (s4, ok4) := s3.step8
  if !ok4 then s4 else s4.step9.portsSettled

/-- A start goes on from step 4. Clock ratios outside R305 leave the module's behaviour undefined (R3). -/
def State.startFrom4 (s : State) : Res :=
  let (s1, ok) := s.startTo7
  if !ok then .next s1
  else if s1.clocksOk then .next s1.startFrom7
  else .fault .clockRatioUndefined

/-- A start from step 4 with what it meets (R328, R339). -/
def State.startAgain (s : State) (env : StartEnv) (powerOn : Bool) : Res := (s.startReset env powerOn).startFrom4

/-! Step 11 (R327, R329). -/

/-- A trial that succeeds makes its slot active (R338). -/
def State.promote (s : State) : State :=
  if !s.bootDir.trial then s else
  let s1 := s.putBoot ⟨s.stagingSlot, false, false⟩
  ((s1.flag F.MGT_BOOTSTAT_STAGED_PROMOTED).set F.MGT_BOOTSTAT_STAGED_PENDING 0).set F.MGT_BOOTSTAT_TRIAL 0

/-- The job starts: a successful start (R327), the ladder of R260, a restore held during the start (R403, R411). -/
def State.jobStart (s : State) : State :=
  let s0 := { s with start := { s.start with hung := 0, consec := 0, noRetry := false } }
  let s1 := ((s0.set F.MGT_BOOTSTAT_STEP 11).set F.MGT_BOOTSTAT_MODE 1).set F.MGT_BOOTSTAT_REASON 0
  let s2 := (s1.set F.MGT_BOOTSTAT_CONSEC_FAIL 0).promote
  let s3 := { s2 with ledger := { s2.ledger with starts := s2.ledger.starts + 1, consecFail := 0 } }
  let s4 := { s3 with ladder := s3.ladderEntries.map (fun (e : LadderEntry) => (⟨e.initRung, 0, 0, 0, 0, 0, none⟩ : LayerSt)) }
  let s5 := s4.set F.ENG_CAST_STAT_LAST_GEN s4.newestGen
  let s6 := if s5.ladder.any (fun x => x.rung == 7) then s5.halt else s5
  let s7 := s6.writeLedger
  let s8 := if s7.start.restoreHeld then
      (({ s7 with start := { s7.start with restoreHeld := false } }.set F.ENG_RESTORE_STAT_STATE 1).set F.ENG_RESTORE_STAT_REASON 0).restoreBegin
    else s7
  if s8.tooManyFenced then s8.moduleFailed else s8

/-- Step 11, and a restart request held for it (R339). -/
def State.enter11 (s : State) : Res :=
  let s1 := s.jobStart
  let s2 := { s1 with start := { s1.start with restartHeld := none } }
  match s1.start.restartHeld with
  | none => .next s1
  | some (.atBoundary, env) => .next { s2 with start := { s2.start with restartAtBoundary := some env } }
  | some (.immediate, env) => s2.startAgain env false

/-! Limits of steps (R324). -/

/-- Time limit of a step in ms. -/
def stepLimit (k : Nat) : Nat :=
  if k == 4 then 20 else if k == 5 then 100 else if k == 6 then 1000 else if k == 7 then 50 else if k == 8 then 1000
  else if k == 9 then 300 else 1000

/-- Reason on overrunning a step's limit: the step's first code (R324, R330). -/
def stepReason (k : Nat) : Nat :=
  if k == 4 then 0x20 else if k == 5 then 0x30 else if k == 6 then 0x50 else if k == 7 then 0x60 else 0x70

/-! Loss of power (R433). -/

/-- 52 V is gone: volatile state is lost; flash keeps its contents, and pins their levels. -/
def State.powerLost (s : State) : State :=
  if !s.start.powered then s else
  let keepNand := fun (c : CastSlot) => if c.writing then CastSlot.init else { c with exporting := false }
  { State.reset with
    flash := { s.flash with nand := s.flash.nand.map keepNand }
    start := { StartSt.init with
      noRetry := s.start.noRetry || s.mode == 2, skipStaged := s.start.skipStaged, nonceCount := s.start.nonceCount
      perstAsserted := s.start.perstAsserted, presentS := s.start.presentS }
    power := { PowerSt.init with brakeAge := Nat.min 1 s.power.brakeAge }
    sent := s.sent
    free := s.free + 1
    pending := s.pending }

end Sys2Proof.Machine
end

