-- ==== Sys2Proof/Machine/CperOps.lean ====
section
/-! DEFINITION. Handling of error records: CPER records (R384) and their store (R385), messages of the secure Pigeonholes (R366, R385), and
faults of the control cores (R372). -/

namespace Sys2Proof.Machine

/-! CPER. -/

/-- A GUID in the byte order of UEFI: the first three fields little-endian. -/
def guidBytes (a b c : Nat) (rest : List Byte) : List Byte := leBytes 4 a ++ leBytes 2 b ++ leBytes 2 c ++ rest

def guidCreator : List Byte := guidBytes 0x1f9a4064 0x0c1e 0x4a7d [0x8f, 0x20, 0x5d, 0x3b, 0x7e, 0x6a, 0x0c, 0x11]
def guidSection : List Byte := guidBytes 0x1f9a4064 0x5e57 0x4c0a [0xb1, 0xd2, 0x6e, 0x8f, 0x0a, 0x3c, 0x4d, 0x22]
/-- The CMC and MCE GUIDs of the UEFI Specification (PRESUMED: the spec names them and gives no digits). -/
def guidCmc : List Byte := guidBytes 0x2dce8bb1 0xbdd7 0x450e [0xb9, 0xad, 0x9c, 0xf4, 0xeb, 0xd4, 0xf8, 0x90]
def guidMce : List Byte := guidBytes 0xe8f56ffe 0x919c 0x4cc5 [0xba, 0x88, 0x65, 0xab, 0xe1, 0x49, 0x13, 0xbb]

/-- The 64 bytes of an error record (R368). -/
def errBytes (r : ErrRec) : List Byte :=
  leBytes 8 r.time ++ leBytes 8 r.step ++ leBytes 4 r.period ++ leBytes 2 r.index ++ leBytes 1 r.cls ++ leBytes 1 r.severity
    ++ leBytes 2 r.kind ++ leBytes 2 r.temp ++ leBytes 2 r.vin ++ leBytes 2 r.rflags ++ leBytes 8 r.syndrome ++ leBytes 8 r.address
    ++ leBytes 4 r.count ++ leBytes 12 0

/-- Severity in UEFI's coding: 0 recoverable, 1 fatal, 2 corrected. -/
def uefiSeverity (sev : Nat) : Nat := if sev == 0 then 2 else if sev == 1 then 0 else 1

/-- The 264 bytes of a CPER record (R384). -/
def cperBytes (c : Cper) : List Byte :=
  let sev := uefiSeverity c.body.severity
  let note := if c.body.severity == 0 then guidCmc else guidMce
  [0x43, 0x50, 0x45, 0x52] ++ leBytes 2 0x0101 ++ leBytes 4 0xFFFFFFFF ++ leBytes 2 1 ++ leBytes 4 sev ++ leBytes 4 0 ++ leBytes 4 264
    ++ leBytes 8 0 ++ leBytes 16 0 ++ leBytes 16 0 ++ guidCreator ++ note ++ leBytes 8 c.id ++ leBytes 4 0 ++ leBytes 8 0 ++ leBytes 12 0
    ++ leBytes 4 200 ++ leBytes 4 64 ++ leBytes 2 0x0100 ++ leBytes 1 2 ++ leBytes 1 0 ++ leBytes 4 0 ++ guidSection ++ leBytes 16 0
    ++ leBytes 4 sev ++ sliceBytes [0x4F, 0x56, 0x54, 0x2D, 0x34, 0x30, 0x36, 0x34] 0 20 ++ errBytes c.body

/-- Drop the oldest corrected record of the store, else the oldest (R385). -/
def dropCper (l : List Cper) : List Cper :=
  let i := l.findIdx (fun c => c.body.severity == 0)
  if i < l.length then l.eraseIdx i else l.drop 1

/-- A handled record's CPER enters the store (R384, R385). -/
def State.storeCper (s : State) (r : ErrRec) : State :=
  let id := (s.ledger.cperId + 1) % 2 ^ 64
  let full := decide (256 ≤ s.flt.store.length)
  let l := (if full then dropCper s.flt.store else s.flt.store) ++ [⟨id, r⟩]
  let s1 := if full then s.bump F.FLT_CPER_STAT_DROPPED 1 else s
  let s2 := { s1 with ledger := { s1.ledger with cperId := id }, flt := { s1.flt with store := l } }
  let s3 := s2.set F.FLT_CPER_STAT_HELD l.length
  if s.flt.store.isEmpty then s3.msi true 9 else s3

/-- The job-side flags that a kind names (R370), each an unchanged flag where its own rule has set it. -/
def State.kindFlags (s : State) (r : ErrRec) : State :=
  if s.mode != 1 then s
  else if r.kind == 0x07 then s.flag F.FLT_STAT_KAT_FAIL
  else if r.kind == 0x0B then s.flag F.FLT_STAT_ASSAY_DIV
  else if r.kind == 0x0D then s.flagIf (r.cls == clsPower && r.severity == 1) F.PWR_STAT_OVER_BASE
  else if r.kind == 0x0E then s.flag F.CLK_STAT_LOCK_LOSS
  else if r.kind == 0x10 then s.cause F.SEAL_STAT_DISCARD_ALERT false 3
  else if r.kind == 0x11 then s.cause F.SEAL_STAT_HALT false 3
  else if r.kind == 0x12 then s.flag F.COLL_STAT_WIRE_MISS
  else if r.kind == 0x13 then s.flag F.FLT_STAT_KAT_TRANSIENT
  else s

/-- The unit is not fenced yet. -/
def State.unfenced (s : State) (cls index : Nat) : Bool :=
  if cls == clsTile then !s.tileFenced index else !s.engFenced (unitDom cls index)

/-- The Innkeeper handles a record taken from the head of the queue (R370): counts, fencing, CPER, flags. -/
def State.handle (s : State) (r : ErrRec) : State :=
  let l := if r.severity == 0 then s.ledger.addCorrected r.cls r.index r.count else s.ledger.addUncorrected r.cls r.index r.severity 1
  let s1 := { s with ledger := l }
  let fence := r.severity == 2 && decide (1 ≤ r.cls ∧ r.cls ≤ 5) && !bit r.rflags 0 && s1.mode == 1 && s1.unfenced r.cls r.index
  let r1 := if fence then { r with rflags := r.rflags ||| 1 } else r
  let s2 := if fence then (s1.fenceNow r.cls r.index true).writeLedger else s1
  let s3 := (s2.storeCper r1).kindFlags r1
  let s4 := { s3 with flt := { s3.flt with queue := s3.flt.queue.drop 1 } }
  let s5 := s4.set F.FLT_QUEUE_DEPTH s4.flt.queue.length
  if fence && s5.tooManyFenced then s5.moduleFailed else s5

/-! The secure Pigeonholes (R385). -/

/-- A message of the Innkeeper: TYPE, TAG, then bytes 8 to 63 (R366). -/
def secureMsg (typ tag : Nat) (body : List Byte) : List Byte := leBytes 2 typ ++ leBytes 2 0 ++ leBytes 4 tag ++ sliceBytes body 0 56

/-- The six parts of a CPER record. -/
def cperParts (tag : Nat) (c : Cper) : List (List Byte) :=
  (List.range 6).map (fun i =>
    secureMsg 0x0111 tag (leBytes 2 i ++ leBytes 2 6 ++ leBytes 4 c.id ++ sliceBytes (cperBytes c) (48 * i) 48))

/-- The Innkeeper answers in minimal mode or not: it has power, and neither restarts nor stays stopped (R372). -/
def State.innkUp (s : State) : Bool :=
  s.start.powered && s.time.running && !s.flt.innkRestarting && (s.mode == 2 || !s.on F.FLT_STAT_INNK_DOWN)

/-- Remove a record from the store by the low 32 bits of its Record ID. -/
def State.ackCper (s : State) (id : Nat) : State :=
  let l := s.flt.store.filter (fun c => c.id % 2 ^ 32 != id)
  ({ s with flt := { s.flt with store := l } }).set F.FLT_CPER_STAT_HELD l.length

/-- The Innkeeper takes a message waiting on a secure channel, once the parts of its last answer are sent. -/
def State.secureTake (s : State) (c : MbxIx) : State :=
  let m := s.chan c
  if !s.innkUp || c.val < 24 || !m.toB.full || !m.parts.isEmpty then s else
  let typ := (m.toB.data[0]).toNat % 65536
  let tag := bits (m.toB.data[0]).toNat 63 32
  let parts := if typ == 0x0110 then match s.flt.store with
      | [] => [secureMsg 0x0113 tag []]
      | r :: _ => cperParts tag r
    else []
  let m1 := { m with
    toB := { m.toB with full := false }, parts := parts }
  let s1 := (s.setChan c m1).emptiedA c
  let s2 := if typ == 0x0112 then s1.ackCper (bits (m.toB.data[1]).toNat 63 32) else s1
  s2.mailPump c

/-- End A writes a message and rings the doorbell (R363, R364). -/
def State.sendFromA (s : State) (c : MbxIx) (bytes : List Byte) : State :=
  let m := s.chan c
  if m.toB.full then s.setChan c { m with endA := { m.endA with doorbellFull := true, writeFull := true } }
  else s.setChan c { m with
    toB := { m.toB with data := msgWords bytes, full := true }
    endA := { m.endA with sent := satAdd 65535 m.endA.sent 1 }
    endB := { m.endB with arrived := true, received := satAdd 65535 m.endB.received 1 } }

/-! Faults of the control cores (R372). -/

/-- An Innkeeper fault: a start fails; the first restarts it; a second within 1 s stops it. -/
def State.innkFault (s : State) : State :=
  if s.mode == 0 && 4 ≤ s.get F.MGT_BOOTSTAT_STEP then s.failStart (s.get F.MGT_BOOTSTAT_STEP) 0x21
  else if s.on F.FLT_STAT_INNK_DOWN then s
  else
    let again := match s.flt.innkFaultAt with
      | some t => decide (s.aon < t + 3125000)
      | none => false
    if again then s.flag F.FLT_STAT_INNK_DOWN
    else
      let s1 := s.bump F.FLT_STAT_INNK_RESTARTS 1
      { s1.dropUpload with flt := { s1.flt with innkFaultAt := some s1.aon, innkRestarting := true } }

/-- What a posted record of a control core brings with it (R372): a signature mismatch, a watchdog expiry, or an SRAM error that cannot be
corrected. -/
def State.coreFault (s : State) (cls kind severity : Nat) : State :=
  if severity < 2 || !(kind == 0x08 || kind == 0x09 || kind == 0x02) then s
  else if cls == clsTimetable then s.timetableFault
  else if cls == clsInnkeeper then s.innkFault
  else s

end Sys2Proof.Machine
end

