-- ==== Sys2Proof/Machine/MailOps.lean ====
section
/-! DEFINITION. Pigeonhole slots (R361 to R366): writing, ringing, emptying, resetting. -/

namespace Sys2Proof.Machine

/-- The end can act: end A of a channel 0 to 15 and of a secure one is a requester over CXL, that of an internal channel the named sequencer;
end B of a channel 0 to 23 is the Timetable. The Innkeeper acts by itself (R361, R364). -/
def State.mailEnd (s : State) (c : MbxIx) (e : MbxEnd) (col : Fin 8) : Bool :=
  match e with
  | .a =>
    if internalMbx c then
      s.running && (match mailTile c col with | some n => !s.tileFenced n.val && s.dom n.val == 3 | none => false)
    else s.blocksUp
  | .b => s.running && s.dom domTimetable == 3 && decide (c.val < 24)

/-- A data write or a doorbell of a sequencer that finds the slot claimed by another waits (R361). -/
def State.claimed (s : State) (c : MbxIx) (e : MbxEnd) (col : Fin 8) : Bool :=
  match e with
  | .a => internalMbx c && (match (s.chan c).toB.column with | some k => k != col.val | none => false)
  | .b => false

/-- The claim that a sequencer's first access records (R362). -/
def claimOf (c : MbxIx) (col : Fin 8) (old : Option Nat) : Option Nat := if internalMbx c then some col.val else old

/-- A data write (R363, R364). -/
def State.mailWrite (s : State) (c : MbxIx) (e : MbxEnd) (col : Fin 8) (w : Fin 8) (v : U64) : State :=
  let m := s.chan c
  match e with
  | .a =>
    if m.toB.full then s.setChan c { m with endA := { m.endA with writeFull := true } }
    else s.setChan c { m with toB := { m.toB with data := m.toB.data.set w v, column := claimOf c col m.toB.column } }
  | .b =>
    if m.toA.full then s.setChan c { m with endB := { m.endB with writeFull := true } }
    else s.setChan c { m with toA := { m.toA with data := m.toA.data.set w v } }

/-- A doorbell of end A (R301, R363): the Timetable wakes, or the Innkeeper takes the message. -/
def State.ringB (s : State) (c : MbxIx) (col : Fin 8) : State :=
  let m := s.chan c
  if m.toB.full then s.setChan c { m with endA := { m.endA with doorbellFull := true } }
  else
    let s1 := s.setChan c { m with
      toB := { m.toB with full := true, column := claimOf c col m.toB.column }
      endA := { m.endA with sent := satAdd 65535 m.endA.sent 1 }
      endB := { m.endB with arrived := true, received := satAdd 65535 m.endB.received 1 } }
    let s2 := if c.val < 24 && s1.running then s1.wake domTimetable 2 else s1
    (s2.secureTake c).minimalAnswer c

/-- The Timetable's doorbell operation (R362, R363): on an internal channel it names a sequencer, and is refused where its tile is fenced. -/
def State.ringA (s : State) (c : MbxIx) (col : Fin 8) : State :=
  let m := s.chan c
  let fenced := internalMbx c && (match mailTile c col with | some n => s.tileFenced n.val | none => true)
  if fenced then s.send (.doorbellRefused c.val col.val)
  else if m.toA.full then s.setChan c { m with endB := { m.endB with doorbellFull := true } }
  else
    let s1 := s.setChan c { m with toA := { m.toA with full := true, column := if internalMbx c then some col.val else none } }
    let s2 := s1.arrivedA c
    if internalMbx c then s2.wake (8 * (c.val - 16) + col.val) 2 else s2

/-- A doorbell (R363). -/
def State.ringBell (s : State) (c : MbxIx) (e : MbxEnd) (col : Fin 8) : State :=
  match e with
  | .a => s.ringB c col
  | .b => s.ringA c col

/-- A data write, unless the slot is claimed by another (R361). -/
def State.opMailWrite (s : State) (c : MbxIx) (e : MbxEnd) (col : Fin 8) (w : Fin 8) (v : U64) : State :=
  if s.claimed c e col then { s with stallReq := true } else s.mailWrite c e col w v

/-- A doorbell, unless the slot is claimed by another (R361). -/
def State.opDoorbell (s : State) (c : MbxIx) (e : MbxEnd) (col : Fin 8) : State :=
  if s.claimed c e col then { s with stallReq := true } else s.ringBell c e col

/-- What the Innkeeper does once the slot toward end A is EMPTY: the next part of an answer, a held reply, the next message. -/
def State.mailGoOn (s : State) (c : MbxIx) : State := ((s.mailPump c).secureTake c).minimalAnswer c

/-- A message for the receiver of domain d stands in a slot: for the Timetable in any non-secure channel, for a sequencer in its internal one. -/
def State.mailWaits (s : State) (d : Nat) : Bool :=
  allMbx.any (fun c => let m := s.chan c
    if d == domTimetable then decide (c.val < 24) && m.toB.full
    else internalMbx c && m.toA.full && (match m.toA.column with | some k => 8 * (c.val - 16) + k == d | none => false))

/-- A command for a unit of domain d waits. -/
def State.workWaits (s : State) (d : Nat) : Bool :=
  s.stalled.any (fun w => s.engineAt w.cmd == some d || ((s.engineAt w.cmd).isNone && (match seqOf w.cmd with | some n => n.val == d | none => false)))

/-- A receiver that a doorbell woke returns to its requested state once the message is handled and no command for it is queued (R301). -/
def State.sleepAgain (s : State) (d : Nat) : State :=
  if s.get (F.PWR_DOM_STAT_LAST_WAKE d) == 2 && s.dom d == 3 && s.get (F.PWR_DOM_STAT_REQ_STATE d) != 3
      && s.get (F.PWR_DOM_STAT_REQ_STATE d) != 0 && !s.mailWaits d && !s.workWaits d then
    s.setDom d (s.get (F.PWR_DOM_STAT_REQ_STATE d)) else s

/-- The receiver at end A empties its slot; `reset` by RX_RESET, which drops the message (R363, R364). -/
def State.emptyA (s : State) (c : MbxIx) (col : Fin 8) (reset : Bool) : State :=
  let m := s.chan c
  let named := !internalMbx c || m.toA.column == some col.val
  if !m.toA.full || !named then s else
  let s1 := s.setChan c { m with
    toA := { m.toA with full := false, column := none }
    endB := { m.endB with emptied := true, dropped := m.endB.dropped || reset } }
  let s2 := s1.mailGoOn c
  if internalMbx c then s2.sleepAgain (8 * (c.val - 16) + col.val) else s2

/-- The Timetable empties its slot; a claim ends (R362). -/
def State.emptyB (s : State) (c : MbxIx) (reset : Bool) : State :=
  let m := s.chan c
  if !m.toB.full then s else
  let s1 := s.setChan c { m with
    toB := { m.toB with full := false, column := none }, endA := { m.endA with dropped := m.endA.dropped || reset } }
  (s1.emptiedA c).sleepAgain domTimetable

/-- A receiver empties its slot. -/
def State.empty (s : State) (c : MbxIx) (e : MbxEnd) (col : Fin 8) (reset : Bool) : State :=
  match e with
  | .a => s.emptyA c col reset
  | .b => s.emptyB c reset

end Sys2Proof.Machine
end

