-- ==== Sys2Proof/Machine/Units.lean ====
section
/-! DEFINITION. Commands in the queues of units: when a post waits (R131, R178, R200, R207, R299, R312), how stalled commands go on, and the
deferred weight-gradient queue (R160 to R163). -/

namespace Sys2Proof.Machine

/-- The units and, for the vector engine, the operation of a command. -/
def vectorOp : Instr → Option (TileIx × Nat × BitVec 512)
  | .add n d => some (n, vAdd, d)
  | .mul n d => some (n, vMul, d)
  | .fma n d => some (n, vFma, d)
  | .cmp n d => some (n, vCmp, d)
  | .sel n d => some (n, vSel, d)
  | .min n d => some (n, vMin, d)
  | .max n d => some (n, vMax, d)
  | .perm n d => some (n, vPerm, d)
  | .cvt n d => some (n, vCvt, d)
  | _ => none

/-- The scalar summary a command asks for: its tile and first entry (R206, R207). -/
def summaryAsked : Instr → Option (TileIx × Nat)
  | .segSum _ n d => if tSummary d then some (n, tSumSlot d) else none
  | .segMax _ n d => if tSummary d then some (n, tSumSlot d) else none
  | .segMean _ n d => if tSummary d then some (n, tSumSlot d) else none
  | .segCount _ n d => if tSummary d then some (n, tSumSlot d) else none
  | .segDot _ n d => if tSummary d then some (n, tSumSlot d) else none
  | .segPair _ n d => if tSummary d then some (n, tSumSlot d) else none
  | .exp _ n d => if kSummary d then some (n, kSumSlot d) else none
  | .log _ n d => if kSummary d then some (n, kSumSlot d) else none
  | .recip _ n d => if kSummary d then some (n, kSumSlot d) else none
  | .rsqrt _ n d => if kSummary d then some (n, kSumSlot d) else none
  | .tanh _ n d => if kSummary d then some (n, kSumSlot d) else none
  | .sigmoid _ n d => if kSummary d then some (n, kSumSlot d) else none
  | i => match vectorOp i with
    | some v => if vSummary v.2.2 then some (v.1, vSumSlot v.2.2) else none
    | none => none

/-- The scalar entry that the sequencer reads for a command: the one it copies into a vector command (R200), or the loss of its vote (R240). -/
def scalarAsked : Instr → Option (TileIx × Nat)
  | .sealVote n e => some (n, e.val)
  | i => match vectorOp i with
    | some v => if vScalarOp v.2.2 != 0 then some (v.1, vScalarIdx v.2.2) else none
    | none => none

/-- The Tally or Kiln that runs the work of one, by the domains of its kind (R208). -/
def State.engFor (s : State) (dom : Nat → Nat) (t : EngIx) : EngIx :=
  ((List.finRange 8).find? (fun e => dom e.val == s.bindEng (dom t.val))).getD t

/-- A Tally command at the engine bound to it. -/
def State.atTally (s : State) (t : EngIx) (n : TileIx) (op : Nat) (d : BitVec 512) : State :=
  (s.useEngine (s.bindEng (domTally t.val)) n).opTally (s.engFor domTally t) n op d

/-- A Kiln command at the engine bound to it. -/
def State.atKiln (s : State) (k : EngIx) (n : TileIx) (op : Nat) (d : BitVec 256) : State :=
  (s.useEngine (s.bindEng (domKiln k.val)) n).opKiln (s.engFor domKiln k) n op d

/-- A Wayfarer's domain is used. -/
def State.atWay (s : State) (q : WayIx) (n : TileIx) : State := s.useEngine (s.bindEng (domWay q.val)) n

/-! One command. -/

/-- The effect of a command at its unit. -/
def State.unitOp (s : State) (w : Waiting) : State :=
  match w.cmd with
  | .operandIn n l d => s.opOperand n l.val opOperandIn d
  | .transposeIn n l d => s.opOperand n l.val opTransposeIn d
  | .convert n l d => s.opConvertCmd n l.val d
  | .resultOut n l d => s.opResultOutCmd n l.val d
  | .matmul n d stalls upsets => s.opMatmulCmd n d stalls upsets
  | .cruCopy n d => s.opCruCopyCmd n d
  | .splitCombine n c => s.opSplitCombine n c
  | .gatherCsr q n d => (s.atWay q n).opGatherCsr q n d
  | .gatherIdx q n d => (s.atWay q n).opGatherIdx q n d
  | .scatterIdx q n d => (s.atWay q n).opScatterIdx q n d
  | .copyIn q n d => (s.atWay q n).opCopyIn q n d
  | .copyOut q n d => (s.atWay q n).opCopyOut q n d
  | .segSum t n d => s.atTally t n tSum d
  | .segMax t n d => s.atTally t n tMax d
  | .segMean t n d => s.atTally t n tMean d
  | .segCount t n d => s.atTally t n tCount d
  | .segDot t n d => s.atTally t n tDot d
  | .segPair t n d => s.atTally t n tPair d
  | .exp k n d => s.atKiln k n kExpOp d
  | .log k n d => s.atKiln k n kLogOp d
  | .recip k n d => s.atKiln k n kRecipOp d
  | .rsqrt k n d => s.atKiln k n kRsqrtOp d
  | .tanh k n d => s.atKiln k n kTanhOp d
  | .sigmoid k n d => s.atKiln k n kSigmoidOp d
  | .add n d => s.opVector n vAdd d w.scalar
  | .mul n d => s.opVector n vMul d w.scalar
  | .fma n d => s.opVector n vFma d w.scalar
  | .cmp n d => s.opVector n vCmp d w.scalar
  | .sel n d => s.opVector n vSel d w.scalar
  | .min n d => s.opVector n vMin d w.scalar
  | .max n d => s.opVector n vMax d w.scalar
  | .perm n d => s.opVector n vPerm d w.scalar
  | .cvt n d => s.opVector n vCvt d w.scalar
  | .sealVote n e => s.opSealVote n e
  | .bcast n d => s.opCollPost n 0x60 d
  | .reduce n d => s.opCollPost n 0x61 d
  | .send n d => s.opCollPost n 0x62 d
  | .recv n d => s.opCollPost n 0x63 d
  | .hostMemRead off len => s.hostRead off len
  | .hostMemWrite off bytes => s.hostWrite off bytes
  | .mbxDataWrite c e col i v => s.opMailWrite c e col i v
  | .doorbell c e col => s.opDoorbell c e col
  | .scalarFileWrite n i v => s.modTile n (fun t => { t with sf := t.sf.set i v })
  | .memFence _ => s.opMemFence
  | .wcTimerExpire k pos line => s.opWcTimer k.val pos.val line
  | _ => s

/-- The domains a command needs: its unit's, and the network-on-chip (R299, R300); a part of a vote goes to the Timetable. -/
def State.domainsOf (s : State) (i : Instr) : List Nat :=
  match s.engineAt i with
  | some d => [d, domNoc]
  | none => match i with
    | .sealVote n _ => [n.val, domTimetable, domNoc]
    | .memFence n => [n.val, domNoc]
    | .dwqPost n _ => [n.val]
    | .dwqDrain n => [n.val]
    | .scalarFileWrite n _ _ => [n.val]
    | _ => match posterOf i with | some n => [n.val, domNoc] | none => []

/-- Domains of a command that sleep: they wake for it (R299). -/
def State.asleepFor (s : State) (i : Instr) : List Nat := (s.domainsOf i).filter (fun d => s.dom d != 3)

/-- A unit, or its network-on-chip, whose meter or cap lets it issue nothing (R312, R318). -/
def State.cappedFor (s : State) (i : Instr) : List Nat := (s.domainsOf i).filter (fun d => !s.domReady d)

/-- Domains wake for a command. -/
def State.wakeFor (s : State) (l : List Nat) : State := s.forEach l (fun s d => s.wake d 1)

/-- Slots of the Crucible that a result-out reads. -/
def outSlots (d : BitVec 512) : List Nat := [lSrcBase d]

/-- R131: a result-out waits for the earlier MATMULs on its slot, a MATMUL that starts a tile anew for the earlier result-outs. -/
def slotClash (i earlier : Instr) : Bool :=
  match i, earlier with
  | .resultOut n _ d, .matmul m e _ _ => n == m && (mxSlots e).any (fun k => (outSlots d).contains k)
  | .matmul n d _ _, .resultOut m _ e => n == m && mInit d != 1 && (mxSlots d).any (fun k => (outSlots e).contains k)
  | _, _ => false

/-- A command stands behind one of its queue, or of its slot, that waits. -/
def State.blocked (s : State) (i : Instr) : Bool :=
  s.stalled.any (fun w => (w.posted && (s.queueAt i).isSome && s.queueAt w.cmd == s.queueAt i) || slotClash i w.cmd)

/-- The sequencer that issues the command works (R33). -/
def State.mayPost (s : State) (i : Instr) : Bool :=
  match seqOf i with
  | some n => s.running && !s.tileFenced n.val && s.dom n.val != 0
  | none => true

/-- The unit exists for the command: a post to a fenced or absent unit is lost (R31, R208). -/
def State.unitLives (s : State) (i : Instr) : Bool :=
  match s.engineAt i with
  | some d => s.running && !s.engFenced d && s.dom d != 0
  | none => s.mayPost i

/-- The queue of the unit is full (R178). -/
def State.queueFull (s : State) (i : Instr) : Bool :=
  match s.queueAt i with
  | some q => decide (4 ≤ q.1 ∧ q.1 ≤ 6 ∧ 64 ≤ s.waitingIn q)
  | none => false

/-- The scalar entry that a command reads is pending: the sequencer stalls there, with SCALAR_STALL (R207). -/
def State.scalarPends (s : State) (i : Instr) : Option TileIx :=
  match scalarAsked i with
  | some (n, k) => if (s.tile n).pending.contains k then some n else none
  | none => none

/-- The scalar entry as the post copies it (R200). -/
def State.scalarNow (s : State) (i : Instr) : U32 :=
  match scalarAsked i with
  | some (n, k) => match (List.finRange 32).find? (fun e => e.val == k) with
    | some e => (s.tile n).sf[e]
    | none => 0
  | none => 0

/-- The scalar file entries of a summary asked for: none where SUM_SLOT is above 28 (R206). -/
def summarySlots (k : Nat) : List Nat := if k ≤ 28 then [k, k + 1, k + 2, k + 3] else []

/-- The summary of a waiting command is awaited (R207). -/
def State.awaitSummary (s : State) (i : Instr) : State :=
  match summaryAsked i with
  | some (n, k) => s.modTile n (fun t => { t with pending := summarySlots k ++ t.pending })
  | none => s

/-- The summary of a command that waited is written (R207). -/
def State.summaryDone (s : State) (i : Instr) : State :=
  match summaryAsked i with
  | some (n, k) => s.modTile n (fun t => { t with pending := (summarySlots k).foldl (fun l e => l.erase e) t.pending })
  | none => s

/-- A command waits at its unit: from its post on it stands in the unit's queue and its summary is awaited. -/
def State.waitAtUnit (s : State) (w : Waiting) : State :=
  if unitQueued w.cmd && !w.posted then (s.awaitSummary w.cmd).wait { w with posted := true } else s.wait w

/-- A command that its sequencer posts, or that waited in its unit's queue, runs at its unit or waits there. -/
def State.runUnit (s : State) (w : Waiting) : State :=
  if s.blocked w.cmd then s.waitAtUnit w
  else if !(s.cappedFor w.cmd).isEmpty then (s.wakeFor (s.cappedFor w.cmd)).waitAtUnit w
  else
    let t := s.unitOp w
    if t.stallReq then (s.stallEffects t).waitAtUnit w
    else if w.posted then t.summaryDone w.cmd else t

/-- The sequencer comes to a command and carries `run` out, or stalls there: behind an earlier one, at a full queue (R178), at a pending scalar
entry (R207), at a domain that sleeps (R299). -/
def State.atSequencer (s : State) (w : Waiting) (run : State → State) : State :=
  let w0 := { w with onScalar := false }
  if s.seqHeld w.cmd || s.queueFull w.cmd then s.wait w0
  else match s.scalarPends w.cmd with
    | some n => (s.flag (F.TILE_VE_STATUS_SCALAR_STALL n.val)).wait { w with onScalar := true }
    | none => if (s.asleepFor w.cmd).isEmpty then run s else (s.wakeFor (s.asleepFor w.cmd)).wait w0

/-- A command of a unit is posted, or goes on in its queue. -/
def State.tryUnit (s : State) (w : Waiting) : State :=
  if w.posted then s.runUnit w else s.atSequencer w (fun s => s.runUnit { w with scalar := s.scalarNow w.cmd, onScalar := false })

/-! The deferred queue (R160 to R163). -/

/-- A command of a list. -/
inductive ListCmd where
  | ladle (d : BitVec 512)
  | matrix (d : BitVec 256)
  deriving DecidableEq, Repr

/-- Read `fuel` commands of a list: OPCODEs below 0x10 are Ladle commands of 64 B, the others matrix commands of 32 B. -/
def State.readList (n : TileIx) : Nat → State → Nat → State × List ListCmd
  | 0, s, _ => (s, [])
  | fuel + 1, s, a =>
    let (s1, b, _) := s.tmRead n a 8
    if leNat b / 2 ^ 56 < 0x10 then
      let (s2, d, _) := s1.tmRead n a 64
      let (s3, l) := State.readList n fuel s2 (a + 64)
      (s3, .ladle (BitVec.ofNat 512 (leNat d)) :: l)
    else
      let (s2, d, _) := s1.tmRead n a 32
      let (s3, l) := State.readList n fuel s2 (a + 32)
      (s3, .matrix (BitVec.ofNat 256 (leNat d)) :: l)

/-- SRC_SEL of the next MATMUL of a list. -/
def nextSel : List ListCmd → Nat
  | [] => 0
  | .matrix d :: rest => if mOp d == opMatmulCode then mSel d else nextSel rest
  | .ladle _ :: rest => nextSel rest

/-- The commands that a list posts: `k` OPERAND_IN commands precede since the last MATMUL. -/
def listCommands (n : TileIx) : Nat → List ListCmd → List Instr
  | _, [] => []
  | k, .matrix d :: rest =>
    if mOp d == opCruCopyCode then .cruCopy n d :: listCommands n k rest else .matmul n d 0 [] :: listCommands n 0 rest
  | k, .ladle d :: rest =>
    if lOp d == opOperandIn then
      let sel := nextSel rest
      .operandIn n (if sel == 1 then 1 else if sel == 2 then 0 else if k == 0 then 0 else 1) d :: listCommands n (k + 1) rest
    else if lOp d == opTransposeIn then .transposeIn n 2 d :: listCommands n k rest
    else if lOp d == opResultOut then .resultOut n 3 d :: listCommands n k rest
    else .convert n 2 d :: listCommands n k rest

/-- Fields of an entry (R160). -/
def dwqBase (e : BitVec 128) : Nat := bits e.toNat 31 0
def dwqLen (e : BitVec 128) : Nat := bits e.toNat 47 32
def dwqLayer (e : BitVec 128) : Nat := bits e.toNat 59 48

/-- No command of tile n waits in its matrix queue or at its Ladles, and its sequencer stands at none (R161). -/
def State.foregroundIdle (s : State) (n : TileIx) : Bool :=
  !s.stalled.any (fun w => if w.posted then foreground w.cmd && posterOf w.cmd == some n else seqOf w.cmd == some n && !isVote w.cmd)

/-- DEPTH of TILEn_DWQ_STAT, with its peak. -/
def State.dwqDepth (s : State) (n : TileIx) : State :=
  let k := (s.tile n).dwq.length
  (s.set (F.TILE_DWQ_STAT_DEPTH n.val) k).set (F.TILE_DWQ_STAT_PEAK_DEPTH n.val) (Nat.max k (s.get (F.TILE_DWQ_STAT_PEAK_DEPTH n.val)))

/-- The head entry's list is posted (R161). -/
def State.dwqRun (s : State) (n : TileIx) : State :=
  match (s.tile n).dwq with
  | [] => s
  | e :: rest =>
    let s1 := ((s.modTile n (fun t => { t with dwq := rest })).dwqDepth n).perfEvent n.val 0x1A 1
    let (s2, l) := State.readList n (dwqLen e) (s1.setLayer n (dwqLayer e)) (dwqBase e)
    (listCommands n 0 l).foldl (fun s i => s.tryUnit ⟨i, 0, false, false⟩) s2

/-- After DWQ_DRAIN entries run back to back; DRAINED is set once the queue is empty (R163). -/
def State.dwqPump (n : TileIx) : Nat → State → State
  | 0, s => s
  | fuel + 1, s =>
    if !(s.tile n).drain || !s.foregroundIdle n then s
    else if (s.tile n).dwq.isEmpty then s.flag (F.TILE_DWQ_STAT_DRAINED n.val)
    else State.dwqPump n fuel (s.dwqRun n)

def State.pump (s : State) (n : TileIx) : State := State.dwqPump n ((s.tile n).dwq.length + 1) s

/-- DWQ_POST (R161, R162): a full queue runs its head first. -/
def State.dwqPostEntry (s : State) (n : TileIx) (e : BitVec 128) : State :=
  let s1 := if 256 ≤ (s.tile n).dwq.length then (s.dwqRun n).bump (F.TILE_DWQ_STAT_FORCED n.val) 1 else s
  let s2 := (s1.modTile n (fun t => { t with dwq := t.dwq ++ [e] })).dwqDepth n
  if (s2.tile n).drain then (s2.set (F.TILE_DWQ_STAT_DRAINED n.val) 0).pump n else s2

/-- DWQ_DRAIN (R163): an empty queue has drained at once. -/
def State.dwqDrainNow (s : State) (n : TileIx) : State :=
  let s1 := (s.flag (F.TILE_DWQ_STAT_DRAIN_REQ n.val)).modTile n (fun t => { t with drain := true })
  if (s1.tile n).dwq.isEmpty then s1.flag (F.TILE_DWQ_STAT_DRAINED n.val) else s1.pump n

/-! Posts. -/

/-- A command of any kind is tried. -/
def State.tryCmd (s : State) (w : Waiting) : State :=
  match w.cmd with
  | .dwqPost n e => s.atSequencer w (fun s => s.dwqPostEntry n e)
  | .dwqDrain n => s.atSequencer w (fun s => s.dwqDrainNow n)
  | _ => s.tryUnit w

/-- Stalled commands are tried once, oldest first. -/
def State.retryPass (s : State) : State :=
  s.stalled.foldl (fun s w => if s.unitLives w.cmd && (w.posted || s.mayPost w.cmd) then s.tryCmd w else s) { s with stalled := [] }

/-- Passes while they make way. -/
def State.retryLoop : Nat → State → State
  | 0, s => s
  | fuel + 1, s =>
    let t := s.retryPass
    if t.stalled.length < s.stalled.length && !t.stalled.isEmpty then t.retryLoop fuel else t

/-- Stalled commands are tried again, oldest first, and deferred queues that drain go on. The last part of a vote may have come in (R240). -/
def State.retryStalled (s : State) : State :=
  if s.stalled.isEmpty then s else
  let s1 := State.retryLoop (s.stalled.length + 1) s
  ((s1.forEach (allTiles.filter (fun n => (s1.tile n).drain)) (fun s n => s.pump n)).setDepths s.stalled).voteIfComplete

/-- What waited goes on after a change, collectives among it, and the vote forms where its last part is in or its last tile is fenced (R31,
R148, R240, R294). -/
def State.settle (s : State) : State := s.retryStalled.collPump.voteIfComplete

/-- A command is posted (R178): it runs at its unit or waits; commands that waited for what it did go on. -/
def State.issue (s : State) (i : Instr) : State :=
  if !s.mayPost i || !s.unitLives i then s else
  let t := s.tryCmd ⟨i, 0, false, false⟩
  if t.stalled.length == s.stalled.length then t.retryStalled else t.setDepths t.stalled

end Sys2Proof.Machine
end

