-- ==== Sys2Proof/Machine/Seal.lean ====
section
/-! DEFINITION. The meanings of the seal commands: SEAL_VOTE, VOTE, VOTE_DEADLINE, COMMIT, DISCARD, DECISION_QUERY (R240 to R252). -/

namespace Sys2Proof.Machine

/-- SEAL_VOTE (R240): the tile's fence (R221), then its part; it waits for a pending loss entry (R207). The last part brings the module's vote. -/
def execSealVote (n : TileIx) (lossEntry : Fin 32) (s : State) : Res := .next (s.issue (.sealVote n lossEntry)).voteIfComplete

/-- VOTE (R243): a vote chunk reaches the leader and is combined; elsewhere it is forwarded whole to the leader (R289). A chunk of a posted
REDUCE with COMBINE = VOTE belongs to that collective. -/
def execVote (p : PortIx) (f : DataFrame) (s : State) : Res :=
  if !s.running then .next s else
  let (s1, ok) := s.takeFrame p f
  if !ok then .next s1
  else if s1.staleChunk f.chunk then .next (s1.countStale f.chunk)
  else if s1.hasColl (keyOfChunk f.chunk) then .next ((s1.onColl (keyOfChunk f.chunk) (State.onVote f)).settle)
  else match s1.sealGroup with
    | none => .next s1
    | some g =>
      if groupLeads g then match groupPos g f.chunk.srcId.toNat with
        | some i => .next (s1.takeVote g i (voteOf f.payload))
        | none => .next s1
      else match memberAt g g.leaderPos with
        | some l => match s1.portTo l 0 with
          | some q => .next (s1.sendChunk q f.chunk f.payload)
          | none => .next s1
        | none => .next s1

/-- This module leads the seal group and has not decided the step in flight. -/
def State.mayDecide (s : State) : Bool :=
  s.running && s.period.stepActive && !s.seals.decided && (match s.sealGroup with | some g => groupLeads g | none => false)

/-- VOTE_DEADLINE (R245): at VOTE_DL the leader decides over the votes it holds. -/
def execVoteDeadline (s : State) : Res :=
  if s.mayDecide then
    let s1 := s.toTick (s.periodStart + s.voteDl)
    match s1.sealGroup with
    | some g => .next (s1.leaderDecides g)
    | none => .next s1
  else .next s

/-- COMMIT (R247): a commit decision switches PAGE_GEN and increments the step counter. -/
def execCommit (dec : Decision) (s : State) : Res :=
  let t := s.forwardDecision dec
  if dec.commit && t.decisionDue dec then .next (t.applyCommit dec).trainCheck else .next t

/-- DISCARD (R248): a discard decision drops the step's shadows. -/
def execDiscard (dec : Decision) (s : State) : Res :=
  let t := s.forwardDecision dec
  if !dec.commit && t.decisionDue dec then .next (t.applyDiscard dec).trainCheck else .next t

/-- DECISION_QUERY (R249): a member whose step log holds the step answers with the logged chunk. -/
def execDecisionQuery (p : PortIx) (src : BitVec 16) (step : U64) (s : State) : Res :=
  if !s.running then .next s else
  match s.seals.log.find? (fun d => d.step == step) with
  | some d =>
    .next (s.sendChunk p (s.ownHdr src.toNat (s.get F.SEAL_CFG_SEAL_GROUP) 0)
      (sliceBytes ((decisionBytes d).take 64) 0 4096))
  | none => .next s

end Sys2Proof.Machine
end

