-- ==== Sys2Proof/Machine/Casts.lean ====
section
/-! DEFINITION. The meanings of the cast, export and restore commands (R388 to R412). -/

namespace Sys2Proof.Machine

/-- CAST_REQ (R390): an own trigger, taken at the next commit. -/
def execCastReq (s : State) : Res := if s.running then .next s.castTrigger else .next s

/-- A tier's next page, where it is being written. -/
def TierSt.next? : TierSt → Option Nat
  | .copying i => some i
  | _ => none

def CastRun.tier (r : CastRun) : Tier → TierSt
  | .partner => r.partner
  | .nand => r.nand

def CastRun.setTier (r : CastRun) (t : Tier) (x : TierSt) : CastRun :=
  match t with
  | .partner => { r with partner := x }
  | .nand => { r with nand := x }

/-- Read a frame of 64 KiB as the Caster does: its bytes that are not zero, and the poisoned lines by offset (R394). -/
def State.readFrame (s : State) (frame : Nat) : State × List (Nat × Byte) × List Nat :=
  (List.range 128).foldl (fun acc i =>
    let s0 := acc.1
    match s0.decodeAddr (frame + 512 * i) with
    | .dram q b =>
      let (s1, d, bad) := s0.readDram q b 512 (frame + 512 * i) false
      let nz := (d.zipIdx.filter (fun e => e.1 != 0)).map (fun e => (512 * i + e.2, e.1))
      (s1, acc.2.1 ++ nz, if bad then acc.2.2 ++ [512 * i] else acc.2.2)
    | _ => (s0, acc.2.1, acc.2.2 ++ [512 * i])) (s, [], [])

/-- Stage entries whose page every tier still being written has taken are freed (R394). -/
def State.freeTaken (s : State) : State :=
  match s.cast.run with
  | none => s
  | some r =>
    let taken := fun (t : TierSt) (i : Nat) => match t with | .copying n => decide (i < n) | _ => true
    let idx := fun (page : Nat) => r.pages.findIdx (fun e => e.1 == page)
    let free := fun (e : Nat × Nat) => taken r.partner (idx e.1) && taken r.nand (idx e.1)
    let gone := r.staged.filter free
    ({ s with cast := { s.cast with run := some { r with staged := r.staged.filter (fun e => !free e) } } }).freeStage gone

/-- The Caster, or the memory interface of a page, issues nothing in this interval (R312, R318): its copy comes later. -/
def State.castHeld (s : State) (page : Nat) : Bool := s.power.metered.contains domCaster || s.memCapped (s.pageStack page)

/-- Tier t of the cast `r` takes its i-th page, whose committed frame was `frame` (R394): from the stage entry or from that frame. The tier that
is ahead reads the page for both. -/
def State.pageTaken (s : State) (r : CastRun) (t : Tier) (i page frame : Nat) : State :=
  let s1 := match t with | .nand => s.fence.flashAccess | .partner => s.fence
  let (s2, data, bad) := s1.readFrame ((Sparse.find r.staged page).getD frame)
  let r1 := r.setTier t (.copying (i + 1))
  let r2 := if i == r.data.length then { r1 with
      data := r1.data ++ [(page * 0x10000, data)]
      poison := r1.poison ++ bad.map (fun o => page * 0x10000 + o)
      hdr := { r1.hdr with damaged := r1.hdr.damaged || !bad.isEmpty } } else r1
  let s3 := ({ s2 with cast := { s2.cast with run := some r2 } }).flagIf (!bad.isEmpty) F.ENG_CAST_STAT_DAMAGED
  let s4 := match t with
    | .partner => s3.send (.toPartner "page" (page * 0x10000) (pageBytes data))
    | .nand => s3
  (s4.freeTaken.perfEvent 100 0x34 1).settle

/-- CAST_PAGE_COPY (R394): one tier takes its next page. -/
def execCastPageCopy (t : Tier) (s : State) : Res :=
  match s.cast.run with
  | none => .next s
  | some r =>
    match (r.tier t).next? with
    | none => .next s
    | some i =>
      match r.pages[i]? with
      | none => .next s
      | some (page, frame) =>
        if !s.running || s.castHeld page then .next s else .next (s.pageTaken r t i page frame)

/-- The image of a cast all of whose pages have been read. -/
def CastRun.image (r : CastRun) : CastImage :=
  let g := { r.hdr with pages := r.data, poison := r.poison }
  { g with root := imageRoot g }

/-- CAST_TIER_COMPLETE (R394, R398): the tier's header is written last; the cast may now be secured. -/
def execCastTierComplete (t : Tier) (s : State) : Res :=
  match s.cast.run with
  | none => .next s
  | some r =>
    if (r.tier t).next? != some r.pages.length || !s.running then .next s else
    let g := r.image
    let bump := fun (l : Ledger) (i : Fin 4) => { l with castsTaken := l.castsTaken.set i (l.castsTaken[i] + 1) }
    let s1 := { s with cast := { s.cast with run := some (r.setTier t .complete) } }
    match t with
    | .nand =>
      let c : CastSlot := { CastSlot.init with img := some g, complete := true, secured := !g.damaged }
      let s2 := ((s1.flashAccess.setCastSlot r.nandSlot c).verifyCasts).flag F.ENG_CAST_STAT_N_DONE
      .next ({ s2 with ledger := bump s2.ledger 0 }).castSettle
    | .partner =>
      let held := (g.gen.toNat, g.step.toNat, false) :: s1.cast.partnerHeld
      let s2 := ({ s1 with cast := { s1.cast with partnerHeld := held.take (s1.get F.LINK_PAIR_STATUS_GUEST_SLOTS) } }).flag
        F.ENG_CAST_STAT_P_DONE
      let s3 := s2.send (.toPartner "header" g.gen.toNat (imageHeader g))
      .next ({ s3 with ledger := bump s3.ledger 1 }).castSettle

/-- A slot that an export can read (R412). -/
def CastSlot.exportable (c : CastSlot) : Bool := c.usable

/-- An export of the slot named by ENG_CAST_HOST.SLOT starts, or is refused (R397, R412). -/
def State.exportGo (s : State) : State :=
  let i := s.get F.ENG_CAST_HOST_SLOT
  match s.castSlot i with
  | some c =>
    if s.get F.ENG_CAST_HOST_OP == 0 && c.exportable then
      let s1 := s.setCastSlot i { c with exporting := true }
      let s2 := (s1.set F.ENG_CAST_HOST_OP 1).set F.ENG_CAST_HOST_OFFSET 0
      { s2 with cast := { s2.cast with exportSlot := i, exportOff := 0 } }
    else s.flag F.ENG_CAST_STAT_REQ_BAD
  | none => s.flag F.ENG_CAST_STAT_REQ_BAD

/-- EXPORT (R397, R412). -/
def execExportSlot (s : State) : Res := if s.running then .next s.exportGo else .next s

/-- Bytes of an image of a slot: a NAND slot's own, a guest slot's from the guest region. -/
def State.slotSize (s : State) (i : Nat) : Nat :=
  match s.castSlot i with
  | some c => match c.img with
    | some g => if i < 8 then imageSize g.pages.length g.poison.length else s.cast.partnerImage.getD 0
    | none => 0
  | none => 0

/-- Where guest slot j stands in the global region (R395): the region is divided by the partner's image size. -/
def State.guestAddr (s : State) (j : Nat) : Nat :=
  (match s.layout with | some l => l.guestBase | none => 0) + j * s.cast.partnerImage.getD 0

def State.slotBytes (s : State) (i off n : Nat) : State × List Byte :=
  if i < 8 then
    match s.castSlot i with
    | some c => match c.img with
      | some g => (s, sliceBytes (imageBytes g) off n)
      | none => (s, List.replicate n 0)
    | none => (s, List.replicate n 0)
  else
    let (s1, d, _) := s.moduleRead (s.guestAddr (i - 8) + off) n
    (s1, d)

/-- Window bytes: WIN in units of 2 MiB, 1 to 128. -/
def State.windowBytes (s : State) : Nat := Nat.min 128 (Nat.max 1 (s.get F.ENG_CAST_HOST_WIN)) * 0x200000

/-- The module fills the window by memory writes and hands it to the host (R397). -/
def State.fillWindow (s : State) : State :=
  let i := s.cast.exportSlot
  let n := Nat.min s.windowBytes (s.slotSize i - s.cast.exportOff)
  let (s1, d) := s.slotBytes i s.cast.exportOff n
  let s2 := s1.send (.hostWrite (s1.get F.ENG_CAST_HOST_BASE_BASE * 0x200000) d)
  let off := s2.cast.exportOff + n
  let s3 := { s2 with cast := { s2.cast with exportOff := off } }
  (s3.set F.ENG_CAST_HOST_OFFSET ((off + 0xFFFF) / 0x10000)).set F.ENG_CAST_HOST_WIN_HOST 1

/-- CAST_WINDOW_FILL (R397). -/
def execCastWindowFill (s : State) : Res :=
  if !s.running || s.get F.ENG_CAST_HOST_OP != 1 || s.on F.ENG_CAST_HOST_WIN_HOST then .next s else .next s.fillWindow

/-- The host hands the window back (R397). The last window of an export completes it; in an import the module consumes the window and gives
it back to the host. -/
def State.windowNext (s : State) : State :=
  if !s.on F.ENG_CAST_HOST_WIN_HOST then s else
  let op := s.get F.ENG_CAST_HOST_OP
  if op == 1 then
    let s1 := s.set F.ENG_CAST_HOST_WIN_HOST 0
    if s1.slotSize s1.cast.exportSlot ≤ s1.cast.exportOff then
      let s2 := match s1.castSlot s1.cast.exportSlot with
        | some c => s1.setCastSlot s1.cast.exportSlot { c with exporting := false }
        | none => s1
      (s2.set F.ENG_CAST_HOST_OP 0).flag F.ENG_CAST_HOST_DONE
    else s1
  else if op == 2 then s.bump F.ENG_CAST_HOST_OFFSET (s.windowBytes / 0x10000)
  else s

/-- NEXT (R397). -/
def execNextWindow (s : State) : Res := if s.running then .next s.windowNext else .next s

/-- The slot named is EXPORTED, and secured where it is not DAMAGED (R397, R398, R412). -/
def State.slotStored (s : State) : State :=
  let i := s.get F.ENG_CAST_HOST_SLOT
  match s.castSlot i with
  | some c =>
    if c.img.isSome && c.complete then (s.setCastSlot i { c with exported := true }).markSecured i
    else s.flag F.ENG_CAST_STAT_REQ_BAD
  | none => s.flag F.ENG_CAST_STAT_REQ_BAD

/-- STORED (R397, R398, R412). -/
def execStored (s : State) : Res := if s.running then .next s.slotStored else .next s

/-- GO of ENG_RESTORE_CTL (R402, R403, R411, R412): SRC 3 is refused; the restore awaits the next boundary; one written during a start is held
until step 11. -/
def State.restoreGo (s : State) : State :=
  if s.get F.ENG_RESTORE_CTL_SRC == 3 then (s.set F.ENG_RESTORE_STAT_STATE 0).set F.ENG_RESTORE_STAT_REASON 7
  else if s.mode == 0 then { s with start := { s.start with restoreHeld := true } }
  else (s.set F.ENG_RESTORE_STAT_STATE 1).set F.ENG_RESTORE_STAT_REASON 0

/-- The fields of ENG_RESTORE_CTL take a written value. -/
def State.restoreCtl (s : State) (v : Nat) : State :=
  ((s.set F.ENG_RESTORE_CTL_STEP (bits v 63 16)).set F.ENG_RESTORE_CTL_SRC (bits v 5 4)).setB F.ENG_RESTORE_CTL_EVAL (bit v 6)

/-- RESTORE_GO (R402, R403, R412): a write of ENG_RESTORE_CTL with GO. -/
def execRestoreGo (value : U64) (s : State) : Res :=
  if !s.start.powered || s.mode == 2 then .next s else .next (s.restoreCtl value.toNat).restoreGo

/-- Layers as a cast's ladder record gives them (R260, R389). -/
def ladderFrom (l : List LayerSt) (ws : List U64) : List LayerSt :=
  List.zipWith (fun (x : LayerSt) (w : U64) =>
    { x with rung := w.toNat % 8, nonfin := bits w.toNat 39 36, sat := bits w.toNat 43 40, spill := bits w.toNat 47 44
             clean := bits w.toNat 63 48, pending := none }) l ws

/-- Write the fetched pages over the committed pages, in place (R403). -/
def State.writePages (s : State) (g : CastImage) : State :=
  s.forEach g.pages (fun s p =>
    let page := p.1 / 0x10000
    let frame := s.committedFrame page
    let s1 := s.forEach (List.range 128) (fun s i =>
      match s.decodeAddr (frame + 512 * i) with
      | .dram q b =>
        let d := (Sparse.range p.2 (512 * i) 512).map (fun e => (e.1 - 512 * i, e.2))
        let k := q / 8
        let s0 := s.memAwake k
        (s0.setWc k ((s0.wcOf k).filter (fun x => !(x.pos == q % 8 && x.line == b / 512)))).writeLine q (b / 512) d true false
      | _ => s)
    s1.bump F.ENG_RESTORE_STAT_PAGES_DONE 1)

/-- A failed fetch or check leaves persistent state undefined (R403). -/
def State.restoreLost (s : State) (reason : Nat) : State :=
  ({ s with mem := { s.mem with undefPersist := some s.free }, free := s.free + 1 }).restoreFail reason

/-- Slots whose GEN is serially greater than g are superseded (R401). -/
def State.supersede (s : State) (g : Nat) : State :=
  let mark := fun (c : CastSlot) => match c.img with
    | some i => if serialEarlier 32 g i.gen.toNat then { c with superseded := true } else c
    | none => c
  let held := s.cast.partnerHeld.map (fun e => if serialEarlier 32 g e.1 then (e.1, e.2.1, true) else e)
  let s1 := { s with cast := { s.cast with partnerHeld := held } }
  { s1 with flash := { s1.flash with nand := s1.flash.nand.map mark } }

/-- The image passes the checks of R403, or those of R410 for an evaluation import. -/
def State.imageReason (s : State) (g : CastImage) (src : Nat) : Nat :=
  let eval_ := s.on F.ENG_RESTORE_CTL_EVAL
  let digest := match s.wb with | some w => w.hdr.persistDigest | none => 0
  if g.magic != castMagic then 3
  else if g.persistDigest != digest then 3
  else if !eval_ && (g.jobTag.toNat != s.get F.LINK_IDENT_JOB_TAG || g.memberId.toNat != s.get F.LINK_IDENT_MEMBER_ID) then 3
  else if src == 2 && g.step.toNat != s.cast.fetchStep then 3
  else if g.damaged then 2
  else if g.root != imageRoot g then 4
  else 0

/-- The restore of an image that passed every check (R403, R401, R409, R410). -/
def State.restoreAccept (s : State) (g : CastImage) (src : Nat) : State :=
  let s1 := { s with mem := { s.mem with undefPersist := none }, ladder := ladderFrom s.ladder g.ladder }
  let s2 := (s1.set F.SEAL_STEP_STEP_COUNTER g.step.toNat).set F.SEAL_STAT_LADDER_EPOCH g.epoch.toNat
  let known := if s2.cast.knownGen == 0 || serialEarlier 32 s2.cast.knownGen g.gen.toNat then g.gen.toNat else s2.cast.knownGen
  let log := (s2.seals.log.filter (fun d => d.step.toNat == g.step.toNat + 1 && counts d)).reverse
  let s3 := { s2 with cast := { s2.cast with
    knownGen := known, evalOnly := s2.cast.evalOnly || s2.on F.ENG_RESTORE_CTL_EVAL, replayLog := log } }
  let s4 := s3.supersede g.gen.toNat
  let t : Fin 4 := if src == 0 then 0 else if src == 1 then 1 else 2
  let s5 := { s4 with ledger := { s4.ledger with castsRestored := s4.ledger.castsRestored.set t (s4.ledger.castsRestored[t] + 1) } }
  let st := if s5.on F.ENG_CAST_CFG_REPLAYABLE && !log.isEmpty && !s5.on F.ENG_RESTORE_CTL_EVAL then 3 else 5
  (s5.set F.ENG_RESTORE_STAT_STATE st).writeLedger

/-- The image that a fetch brought: read from the newest usable slot of the step, or received. -/
def State.fetched (s : State) (r : FetchOutcome) : Option CastImage :=
  let src := s.get F.ENG_RESTORE_CTL_SRC
  let at_ := fun (c : CastSlot) => match c.img with | some g => g.step.toNat == s.cast.fetchStep | none => false
  match r with
  | .ownSlotRead =>
    if src == 0 then (newestSlot s.nandList (fun c => at_ c && c.usable)).bind (fun i => (s.castSlot i).bind (fun c => c.img)) else none
  | .received g => if src == 0 then none else some g
  | .lost => none

/-- The fetch of a restore ends, with an image or with the loss of its source (R403). -/
def State.fetchEnds (s : State) (img : Option CastImage) : State :=
  let src := s.get F.ENG_RESTORE_CTL_SRC
  let s0 := if src == 2 then
      ((s.set F.ENG_CAST_HOST_OP 0).set F.ENG_CAST_HOST_WIN_HOST 0).flagIf img.isSome F.ENG_CAST_HOST_DONE else s
  match img with
  | none =>
    let s1 := if src == 2 then s0.flag F.ENG_CAST_STAT_HOST_ERR else if src == 0 then s0.flag F.ENG_CAST_STAT_NAND_ERR else s0
    s1.restoreLost 5
  | some g =>
    let s1 := s0.writePages g
    let why := s1.imageReason g src
    if why == 0 then s1.restoreAccept g src else s1.restoreLost why

/-- RESTORE_FETCH_DONE (R403). -/
def execRestoreFetchDone (r : FetchOutcome) (s : State) : Res :=
  if !s.running || !s.restoreBusy then .next s else .next (s.fetchEnds (s.fetched r))

/-- The guest slot that takes a new cast of the partner (R395). -/
def State.guestVictim (s : State) : Nat :=
  let n := guestSlots (s.get F.ENG_CAST_CFG_GUEST_SIZE * 0x10000000) (s.cast.partnerImage.getD 0)
  let l := (List.finRange 2).map (fun i => (i.val, s.cast.guest[i]))
  if n ≤ 1 then 0 else
  match newestSlot l (fun c => c.complete) with
  | some i => 1 - i
  | none => 0

/-- The header of an image as a cast without its pages. -/
def headerOf (b : List Byte) : CastImage :=
  { magic := BitVec.ofNat 64 (leNat (sliceBytes b 0 8)), jobTag := BitVec.ofNat 16 (leNat (sliceBytes b 8 2))
    memberId := BitVec.ofNat 16 (leNat (sliceBytes b 10 2)), gen := BitVec.ofNat 32 (leNat (sliceBytes b 12 4))
    step := BitVec.ofNat 64 (leNat (sliceBytes b 16 8)), period := BitVec.ofNat 32 (leNat (sliceBytes b 24 4))
    epoch := (sliceBytes b 28 1).headD 0, damaged := bit (leNat (sliceBytes b 29 1)) 0
    persistDigest := BitVec.ofNat 512 (leNat (sliceBytes b 40 64)), root := BitVec.ofNat 512 (leNat (sliceBytes b 104 64))
    ladder := [], pages := [], poison := [] }

/-- Bytes of the partner's cast are written to a guest slot; the header comes last (R395). -/
def State.guestTakes (s : State) (first : Bool) (off : Nat) (bytes : List Byte) : State :=
  let j := if first then s.guestVictim else match s.cast.guestRx with | some (j, _) => j | none => s.guestVictim
  let cur := (s.castSlot (8 + j)).getD CastSlot.init
  let s1 := if first then
      (s.setCastSlot (8 + j) { CastSlot.init with writing := true }) else s
  let s2 := { s1 with cast := { s1.cast with guestRx := some (j, []) } }
  let s3 := s2.moduleWrite (s2.guestAddr j + off) bytes false
  if off == 0 && 168 ≤ bytes.length && (first || cur.writing) then
    let c : CastSlot := { CastSlot.init with img := some (headerOf bytes), complete := true }
    ({ s3 with cast := { s3.cast with guestRx := none } }).setCastSlot (8 + j) c
  else s3

/-- GUEST_CAST_DATA (R395): bytes of the partner's cast arrive on port P, within an image that a guest slot holds. -/
def execGuestCastData (first : Bool) (off : Nat) (bytes : List Byte) (s : State) : Res :=
  let size := s.cast.partnerImage.getD 0
  if !s.running || !s.portUp 17 || size == 0 || guestSlots (s.get F.ENG_CAST_CFG_GUEST_SIZE * 0x10000000) size == 0 ||
    size < off + bytes.length then .next s else .next (s.guestTakes first off bytes)

/-- GUEST_SLOT_FETCH (R403): the partner fetches its cast of a step from this module's guest region. -/
def execGuestSlotFetch (step : U64) (s : State) : Res :=
  if !s.running || !s.portUp 17 then .next s else
  let l := (List.finRange 2).map (fun i => (i.val, s.cast.guest[i]))
  match newestSlot l (fun c => c.usable && (match c.img with | some g => g.step == step | none => false)) with
  | some j =>
    let (s1, d) := s.slotBytes (8 + j) 0 (s.slotSize (8 + j))
    .next (s1.send (.toPartner "slot" j d))
  | none => .next (s.send (.toPartner "none" step.toNat []))

/-- PARTNER_CAST_REPORT (R390, R395): the partner reports its image size, or that it holds no usable cast of this module. -/
def execPartnerCastReport (imageSize : Option Nat) (noUsableCast : Bool) (s : State) : Res :=
  if !s.running || !s.portUp 17 then .next s else
  let s1 := match imageSize with
    | some n => { s with cast := { s.cast with partnerImage := some n } }
    | none => s
  let n := guestSlots (s1.get F.ENG_CAST_CFG_GUEST_SIZE * 0x10000000) s1.ownImageSize
  let s2 := ((s1.set F.LINK_PAIR_STATUS_GUEST_SLOTS n).setB F.LINK_PAIR_STATUS_GUEST_SMALL (n == 0)).setB
    F.LINK_PAIR_STATUS_PARTNER_TIER (n != 0)
  let s3 := if noUsableCast then
      (({ s2 with cast := { s2.cast with partnerHeld := [] } }).flag F.ENG_CAST_STAT_GUEST_EMPTY).castTrigger else s2
  .next s3

end Sys2Proof.Machine
end

