-- ==== Sys2Proof/Machine/AssayOps.lean ====
section
/-! DEFINITION. The replica assay: the sweep's root, digest and verdict chunks, and what a verdict does (R378 to R382). -/

namespace Sys2Proof.Machine

/-- The assay group (R376). -/
def State.assayGroup (s : State) : Option Group := s.group (s.get F.FLT_ASSAY_CFG_ASSAY_GROUP)

/-- Bytes of the sweep's pages as committed at its step, in page order (R377, R378). -/
def State.sweepBytes (s : State) (pages : List (Nat × Nat)) : State × List Byte :=
  pages.foldl (fun (acc : State × List Byte) p =>
    let (s1, b, _) := acc.1.moduleRead p.2 0x10000
    (s1, acc.2 ++ b)) (s, [])

/-- A digest chunk (R380). -/
def digestBytes (step sweep leaves : Nat) (root : Digest) : List Byte :=
  sliceBytes (leBytes 8 step ++ leBytes 1 sweep ++ leBytes 7 0 ++ leBytes 4 leaves ++ leBytes 64 root.toNat) 0 4096

/-- A verdict chunk (R380): the bitmap marks the expelled positions. -/
def verdictBytes (step sweep result : Nat) (out : List Nat) : List Byte :=
  sliceBytes (leBytes 8 step ++ leBytes 1 sweep ++ leBytes 1 result ++ leBytes 54 0
    ++ leBytes 128 (out.foldl (fun x p => x ||| 2 ^ p) 0)) 0 4096

/-- Expelled positions of a verdict chunk. -/
def expelledOf (b : List Byte) : List Nat :=
  let x := leNat (sliceBytes b 64 128)
  (List.range 1024).filter (fun p => bit x p)

/-- RESULT and the differing positions, from the roots by position, none for a poisoned digest (R380). -/
def verdictOf (l : List (Nat × Option Digest)) : Nat × List Nat :=
  if l.any (fun e => e.2.isNone) then (2, []) else
  let count := fun (d : Option Digest) => (l.filter (fun e => e.2 == d)).length
  match l.find? (fun e => decide (l.length < 2 * count e.2)) with
  | none => (2, [])
  | some w =>
    let out := (l.filter (fun e => e.2 != w.2)).map (fun e => e.1)
    if out.isEmpty then (0, []) else (1, out)

/-- An expelled module stops training and inference, keeps its state and sets EXPELLED (R381). -/
def State.expel (s : State) : State :=
  let s1 := s.flag F.FLT_STAT_EXPELLED
  let s2 := if s1.period.stepActive then s1.dropStep else s1
  (if s2.phase == 2 || s2.phase == 3 then s2.dropItems else s2).abandonColls (fun c => c.phase == 2 || c.phase == 3)

/-- Neighbours of the health monitor: expulsions in the module's pod or of its partner (R383). -/
def State.nearExpelled (s : State) (g : Group) (out : List Nat) : Nat :=
  let own := s.get F.LINK_IDENT_MEMBER_ID
  (out.filter (fun p => match memberAt g p with
    | some m => m.id.toNat != own && (podOf m.id == bits own 10 4 || m.id.toNat == own ^^^ 0x400)
    | none => false)).length

/-- A verdict takes effect on this member (R380): the sweep is over. -/
def State.takeVerdict (s : State) (g : Group) (step sweep result : Nat) (out : List Nat) : State :=
  let s0 := ((s.set F.FLT_ASSAY_STAT_LAST_STEP (step % 2 ^ 32)).set F.FLT_ASSAY_STAT_LAST_SWEEP sweep).set F.FLT_ASSAY_STAT_RESULT result
  let s1 := { s0.unpin with flt := { s0.unpin.flt with assay := none, assayHashed := false, roots := [] } }
  if result == 0 then
    let s2 := s1.bump F.FLT_ASSAY_STAT_RUN 1
    ({ s2 with cast := { s2.cast with agree := (step :: s2.cast.agree).take 16 } }).verifyCasts
  else
    let s2 := (s1.set F.FLT_ASSAY_STAT_RUN 0).flag F.FLT_STAT_ASSAY_DIV
    let s3 := { s2 with
      cast := { s2.cast with agree := [] }
      flt := { s2.flt with nbrLog := List.replicate (s2.nearExpelled g out) s2.aon ++ s2.flt.nbrLog } }
    if result == 1 then
      let mine := out.contains g.selfPos
      let s4 := if mine || groupLeads g then s3.post clsJob 0 3 0x0B 0 0 else s3
      if mine then s4.expel else s4
    else (s3.flag F.FLT_STAT_ASSAY_SPLIT).post clsJob 0 3 0x0B 0 0

/-- A chunk of the Timetable to members of the assay group. -/
def State.assaySend (s : State) (g : Group) (targets : List Nat) (kind : Nat) (bytes : List Byte) : State :=
  s.forEach targets (fun s i => match memberAt g i with
    | some m => match s.portTo m 0 with
      | some p => s.sendChunk p (s.ownHdr m.id.toNat (s.get F.FLT_ASSAY_CFG_ASSAY_GROUP) kind) bytes
      | none => s
    | none => s)

/-- Once the leader holds every root, its own included, it gives the verdict and broadcasts it (R380). -/
def State.judge (s : State) (g : Group) : State :=
  match s.flt.assay with
  | none => s
  | some (step, sweep, _) =>
    if !s.flt.assayHashed || s.flt.roots.length < g.members.length then s else
    let (result, out) := verdictOf s.flt.roots
    let s1 := s.assaySend g (localOthers g ++ (remotePods g).map (subLeader g)) 0 (verdictBytes step sweep result out)
    s1.takeVerdict g step sweep result out

/-- Events of the Assayers: leaf i at the i-th unfenced Assayer in turn (DESIGN CHOICE, log entry 43: the spec does not say which hashes
what). -/
def State.assayEvents (s : State) (len : Nat) : State :=
  let live := (List.range 4).filter (fun a => !s.engFenced (domAssayer a))
  let leaves := (len + 0xFFFFF) / 0x100000
  if live.isEmpty then s else
  s.forEach (List.range leaves) (fun s i =>
    let b := 96 + live.getD (i % live.length) 0
    (s.perfEvent b 0x30 1).perfEvent b 0x31 ((Nat.min 0x100000 (len - 0x100000 * i) + 63) / 64))

/-- The sweep's root is formed (R378): kept at the leader, sent to it by every other member. -/
def State.sweepDone (s : State) : State :=
  match s.flt.assay, s.assayGroup with
  | some (step, sweep, pages), some g =>
    if s.flt.assayHashed then s else
    let (s1, bytes) := s.sweepBytes pages
    let root := treeHash bytes
    let s2 := (({ s1 with flt := { s1.flt with assayHashed := true } }).assayEvents bytes.length).unpin
    if groupLeads g then
      ({ s2 with flt := { s2.flt with roots := Sparse.insert s2.flt.roots g.selfPos (some root) } }).judge g
    else s2.assaySend g [g.leaderPos] 3 (digestBytes step sweep ((bytes.length + 0xFFFFF) / 0x100000) root)
  | _, _ => s

/-- A digest chunk reaches the leader (R380); a poisoned one splits the verdict. One that precedes the leader's own commit is kept. -/
def State.takeDigest (s : State) (g : Group) (pos : Nat) (f : DataFrame) : State :=
  let step := leNat (sliceBytes f.payload 0 8)
  let due := match s.flt.assay with
    | some (st, _, _) => st == step
    | none => s.period.stepActive
  if !due then s else
  let r := if bit f.chunk.cflags.toNat 0 then none else some (BitVec.ofNat 512 (leNat (sliceBytes f.payload 20 64)))
  ({ s with flt := { s.flt with roots := Sparse.insert s.flt.roots pos r } }).judge g

/-- A verdict chunk reaches a member (R380); a sub-leader passes it on (R287). -/
def State.hearVerdict (s : State) (g : Group) (f : DataFrame) : State :=
  let step := leNat (sliceBytes f.payload 0 8)
  match s.flt.assay with
  | some (st, sweep, _) =>
    if st == step && leNat (sliceBytes f.payload 8 1) == sweep then
      let s1 := if partOf g == .subLeader then s.assaySend g (podOthers g (podAt g g.selfPos)) 0 f.payload else s
      s1.takeVerdict g step sweep (leNat (sliceBytes f.payload 9 1) % 4) (expelledOf f.payload)
    else s
  | none => s

/-- The chunk is of the assay group and of no posted collective. -/
def State.assayChunk (s : State) (h : ChunkHeader) : Option Group :=
  if h.group.toNat == s.get F.FLT_ASSAY_CFG_ASSAY_GROUP && !s.hasColl (keyOfChunk h) && !s.staleChunk h then s.assayGroup else none

end Sys2Proof.Machine
end

