-- ==== Sys2Proof/Machine/Coll.lean ====
section
/-! DEFINITION. The meanings of the collective commands: posts (R282), READY (R284), chunks received (R285, R287, R289), bridge slots (R291),
acknowledgements (R287), and the end of an assay sweep (R378, R380). -/

namespace Sys2Proof.Machine

/-- BCAST (R287). -/
def execBcast (n : TileIx) (d : BitVec 512) (s : State) : Res := .next (s.issue (.bcast n d))

/-- REDUCE (R289). -/
def execReduce (n : TileIx) (d : BitVec 512) (s : State) : Res := .next (s.issue (.reduce n d))

/-- SEND (R282). -/
def execSend (n : TileIx) (d : BitVec 512) (s : State) : Res := .next (s.issue (.send n d))

/-- RECV (R282). -/
def execRecv (n : TileIx) (d : BitVec 512) (s : State) : Res := .next (s.issue (.recv n d))

/-- READY (R284): a receiver's signal lets a matching sender send. -/
def execReady (src : BitVec 16) (body : ReadyBody) (s : State) : Res :=
  if !s.running then .next s else .next (s.onReady src body).settle

/-- BROADCAST_DATA (R287); a verdict of the assay group is the Timetable's (R380). -/
def execBroadcastData (p : PortIx) (f : DataFrame) (s : State) : Res :=
  match s.assayChunk f.chunk with
  | some g =>
    if !s.running then .next s else
    let (s1, ok) := s.takeFrame p f
    .next (if ok then s1.hearVerdict g f else s1)
  | none => .next (s.takeColl p f 0 (State.onBroadcast f)).settle

/-- REDUCE_CONTRIBUTION (R289): staged, and added when its turn comes. -/
def execReduceContribution (p : PortIx) (f : DataFrame) (s : State) : Res :=
  .next (s.takeColl p f 1 (State.onContribution p f)).settle

/-- POD_PARTIAL (R289, R291). -/
def execPodPartial (p : PortIx) (f : DataFrame) (s : State) : Res :=
  .next (s.takeColl p f 2 (State.onPartial p f)).settle

/-- SEND_DATA (R285); a digest of the assay group is the Timetable's (R380). -/
def execSendData (p : PortIx) (f : DataFrame) (s : State) : Res :=
  match s.assayChunk f.chunk with
  | some g =>
    if !s.running then .next s else
    let (s1, ok) := s.takeFrame p f
    match groupPos g f.chunk.srcId.toNat with
    | some pos => .next (if ok && groupLeads g then s1.takeDigest g pos f else s1)
    | none => .next s1
  | none => .next (s.takeColl p f 3 (State.onSend f)).settle

/-- BRIDGE_SLOT_RESULT (R291). -/
def execBridgeSlotResult (p : PortIx) (f : DataFrame) (s : State) : Res :=
  .next (s.takeColl p f 5 (State.onSlotResult f)).settle

/-- GO (R291): it fixes each plane's mode and lets a sub-leader send its partials; one that precedes the post is kept for it. -/
def execGo (key : CollKey) (slot0 slot1 : Option Nat) (s : State) : Res :=
  if !s.running then .next s
  else if s.hasColl key then
    .next (s.onColl key (fun s g c =>
      if sumWithRemote g c.d && partOf g == .subLeader then s.takeGo g c slot0 slot1 else (s, c))).settle
  else .next { s with coll := { s.coll with gos := s.coll.gos ++ [(key, slot0, slot1)] } }

/-- SLOT_GRANT (R291): slot mode for the plane. -/
def execSlotGrant (plane : Fin 2) (key : CollKey) (slot : Nat) (s : State) : Res :=
  if !s.running then .next s else .next (s.onColl key (State.onAnswer plane (some slot) false)).settle

/-- SLOT_BUSY (R291): relay mode for the plane. -/
def execSlotBusy (plane : Fin 2) (key : CollKey) (s : State) : Res :=
  if !s.running then .next s else .next (s.onColl key (State.onAnswer plane none false)).settle

/-- SLOT_REQ_TIMEOUT (R291): no answer within 5 µs gives relay and sets SLOT_TIMEOUT. -/
def execSlotReqTimeout (plane : Fin 2) (key : CollKey) (s : State) : Res :=
  if !s.running then .next s else .next (s.onColl key (State.onAnswer plane none true)).settle

/-- COLLECTIVE_ACK (R169, R286, R287): it completes the sender's record and lets wire residuals be written. -/
def execCollectiveAck (key : CollKey) (src : BitVec 16) (chunkIdx : U32) (s : State) : Res :=
  if !s.running then .next s else .next (s.onColl key (State.onCollAck src.toNat chunkIdx.toNat)).settle

/-- An Assayer issues nothing in this interval (R312, R318): its share of the sweep ends later. -/
def State.assayHeld (s : State) : Bool := (List.range 4).any (fun a => s.power.metered.contains (domAssayer a))

/-- ASSAY_SWEEP_DONE (R378, R380). -/
def execAssaySweepDone (s : State) : Res := if !s.running || s.assayHeld then .next s else .next s.sweepDone

end Sys2Proof.Machine
end

