-- ==== Sys2Proof/Machine/Faults.lean ====
section
/-! DEFINITION. The meanings of fault, Ledger and CPER commands (R367 to R375, R384 to R387). -/

namespace Sys2Proof.Machine

/-- The always-on island runs. -/
def State.islandOn (s : State) : Bool := s.start.powered && s.time.running

/-- UNIT of a record (R368). -/
def unitOf (e : PostedError) : Nat := e.cls.toNat * 65536 + e.index.toNat

def insertErr (e : PostedError) : List PostedError → List PostedError
  | [] => [e]
  | a :: l => if unitOf e < unitOf a then e :: a :: l else a :: insertErr e l

/-- Records of one cycle in ascending UNIT order (R371). -/
def sortErrs (l : List PostedError) : List PostedError := l.foldl (fun m e => insertErr e m) []

/-- A count event of the block of a unit (R413). -/
def State.perfUnit (s : State) (cls index code n : Nat) : State :=
  if clsTile ≤ cls && cls ≤ clsAssayer then s.perfEvent (unitDom cls index) code n
  else if cls == clsCaster then s.perfEvent domCaster code n
  else if cls == clsPort then s.perfEvent (101 + index) code n
  else s

/-- An uncorrectable error of tile memory marks its granule (R211). -/
def State.sramMark (s : State) (e : PostedError) : State :=
  if e.kind != 0x02 || e.cls.toNat != clsTile || e.severity != 1 || 0x600000 ≤ e.address.toNat then s else
  match allTiles.find? (fun n => n.val == e.index.toNat) with
  | some n =>
    if s.tileFenced n.val then s
    else s.modTile n (fun t => { t with poison := NatSet.add t.poison (e.address.toNat / 64) })
  | none => s

/-- Post one detected error, and what follows from it for its unit (R371, R372). -/
def State.postError (s : State) (e : PostedError) : State :=
  let flags := (if e.persistLoss then 8 else 0) + (if 1 < e.count.toNat then 4 else 0)
  let s1 := s.postFull e.cls.toNat e.index.toNat e.severity e.kind.toNat e.syndrome.toNat e.address.toNat e.count.toNat flags e.answers
  let s2 := if e.kind == 0x01 then ({ s1 with flt := { s1.flt with sramLog := s1.aon :: s1.flt.sramLog } }).perfUnit e.cls.toNat e.index.toNat 0x07 e.count.toNat
    else s1
  (s2.sramMark e).coreFault e.cls.toNat e.kind.toNat e.severity

/-- ERROR_RECORD_POST (R371): the errors that units detect in one cycle; severities are 0 to 3. -/
def execErrorRecordPost (errs : List PostedError) (s : State) : Res :=
  if !s.islandOn then .next s else
  .next ((s.forEach (sortErrs (errs.filter (fun e => decide (e.severity ≤ 3)))) (fun s e => s.postError e)).drainMigrations.settle)

/-- ERROR_RECORD_HANDLE (R370): the Innkeeper handles the oldest record. -/
def execErrorRecordHandle (s : State) : Res :=
  if !s.innkUp then .next s else
  match s.flt.queue with
  | [] => .next s
  | r :: _ => .next (s.handle r)

/-- WATCHDOG_EXPIRE (R372): the tile is fenced; a Timetable or Innkeeper fault takes its outcome. -/
def execWatchdogExpire (u : CoreUnit) (s : State) : Res :=
  if !s.islandOn then .next s else
  match u with
  | .sequencer n => if !s.running || s.tileFenced n.val then .next s else .next (s.fenceUnit clsTile n.val 0x09).settle
  | .timetable c =>
    if !s.running then .next s
    else .next ((s.post clsTimetable c.val 2 0x09 0 0).coreFault clsTimetable 0x09 2)
  | .innkeeper => .next ((s.post clsInnkeeper 0 2 0x09 0 0).coreFault clsInnkeeper 0x09 2)

/-- INNKEEPER_RESTART_DONE (R372): handling goes on; waiting messages of the secure channels are taken. -/
def execInnkeeperRestartDone (s : State) : Res :=
  if !s.islandOn || !s.flt.innkRestarting || s.on F.FLT_STAT_INNK_DOWN then .next s else
  let s1 := { s with flt := { s.flt with innkRestarting := false } }
  .next ((s1.forEach allMbx (fun s c => s.secureTake c)).forEach allMbx (fun s c => s.minimalAnswer c))

/-- A known-answer test's unit: a tile or a zoo engine, in range and not fenced (R375). -/
def State.katUnit (s : State) (cls index : Nat) : Bool :=
  let n := if cls == clsTile then 64 else if cls == clsWay then 16 else if cls == clsTally || cls == clsKiln then 8
    else if cls == clsAssayer then 4 else 0
  decide (index < n) && s.unfenced cls index

/-- KNOWN_ANSWER_TEST (R375, R381): in the self-test part of a period, or on an expelled module. -/
def execKnownAnswerTest (cls : Byte) (index : Nat) (firstOk repeatOk : Bool) (s : State) : Res :=
  let c := cls.toNat
  if !s.running || !(s.phase == 4 || s.phase == 5 || s.on F.FLT_STAT_EXPELLED) || !s.katUnit c index then .next s else
  let s1 := ((s.bump F.FLT_KAT_STAT_TESTS_RUN (if firstOk then 1 else 2)).set F.FLT_KAT_STAT_UNIT_CLASS c).set F.FLT_KAT_STAT_UNIT_INDEX index
  if firstOk then .next s1
  else if repeatOk then .next (((s1.bump F.FLT_KAT_STAT_FAILS 1).flag F.FLT_STAT_KAT_TRANSIENT).post c index 0 0x13 0 0)
  else .next (((s1.bump F.FLT_KAT_STAT_FAILS 2).flag F.FLT_STAT_KAT_FAIL).fenceUnit c index 0x07).settle

/-- CPER_GET (R385): the agent's message arrives on a secure channel and is answered with the parts of the oldest record. -/
def execCperGet (c : MbxIx) (s : State) : Res :=
  if !s.islandOn || c.val < 24 then .next s
  else .next ((s.sendFromA c (secureMsg 0x0110 0 [])).secureTake c)

/-- CPER_ACK (R385): the record is removed from the store. -/
def execCperAck (c : MbxIx) (record : U32) (s : State) : Res :=
  if !s.islandOn || c.val < 24 then .next s
  else .next ((s.sendFromA c (secureMsg 0x0112 0 (leBytes 4 0 ++ leBytes 4 record.toNat))).secureTake c)

/-- LEDGER_WRITE (R387): the write of every 60 s. -/
def execLedgerWrite (s : State) : Res := if s.innkUp && s.start.ledgerRead then .next s.writeLedger else .next s

/-- LEDGER_XSPI_COPY (R331, R387): the copy of every 24 h of powered time to the next 64 KiB slot of the Ledger area: 3,312 slots in a 2 Gib
device. -/
def execLedgerXspiCopy (s : State) : Res :=
  if !(s.innkUp && s.start.ledgerRead) then .next s else
  let s1 := s.flashAccess
  .next { s1 with
    flash := { s1.flash with ledgerXspi := some s1.ledger, ledgerXspiIx := (s1.flash.ledgerXspiIx + 1) % 3312 }
    flt := { s1.flt with lastXspi := s1.ledger.poweredTicks } }

/-- DRAM_CE_HOURLY_RECORD (R367): each channel whose CORR_HOUR is above 0 posts one record. -/
def execDramCeHourlyRecord (s : State) : Res :=
  if !s.running then .next s else
  .next (s.forEach (List.range 288) (fun s ch =>
    let n := s.corrHour ch
    if n = 0 then s else s.postFull clsDram ch 0 0x03 0 0 n (if 1 < n then 4 else 0) true))

end Sys2Proof.Machine
end

