-- ==== Sys2Proof/Machine/HostOps.lean ====
section
/-! DEFINITION. The host's side: bias of granules (R352, R353), release of output buffers (R358), and what resets of the host side do
(R360). -/

namespace Sys2Proof.Machine

/-- Granules of a set return to device bias (R353): output writing and stalled commands that waited go on (R352). -/
def State.returnBias (s : State) (gone : Nat → Bool) : State :=
  let l := s.mem.hostBias.filter (fun g => !gone g)
  let s1 := ({ s with mem := { s.mem with hostBias := l } }).set F.MGT_HDM_HOST_BIAS l.length
  s1.heldWrites.outResume.settle

/-- Base and size of output buffer b (R358). -/
def State.outBuf (s : State) (b : Nat) : Nat × Nat :=
  let size := s.get F.MGT_OUT_OUT_SIZE * 0x200000
  (s.get F.MGT_OUT_OUT_BASE * 0x200000 + b * size, size)

/-- Output buffer b is released (R358, R353). -/
def State.releaseBuf (s : State) (b : Nat) : State :=
  let f := if b == 0 then F.MGT_OUT_HELD0 else F.MGT_OUT_HELD1
  if !s.on f then s else
  let r := s.outBuf b
  (s.set f 0).returnBias (fun g => decide (r.1 / 0x200000 ≤ g ∧ g < (r.1 + r.2) / 0x200000))

/-- Ring registers and MGT_HDM.GRANULE take their reset values, and reading of the rings stops (R360). -/
def State.resetFn0 (s : State) : State :=
  let s1 := s.forEach allRings (fun s r =>
    let t := (((s.wr (0x200 + 32 * r.val) (regReset (0x200 + 32 * r.val))).wr (0x208 + 32 * r.val) (regReset (0x208 + 32 * r.val))).wr
      (0x210 + 32 * r.val) (regReset (0x210 + 32 * r.val))).wr (0x218 + 32 * r.val) (regReset (0x218 + 32 * r.val))
    t.setRing r { t.ring r with reading := false, enable := false })
  s1.set F.MGT_HDM_GRANULE 0

end Sys2Proof.Machine
end

