-- ==== Sys2Proof/Machine/Memory.lean ====
section
/-! DEFINITION. The meanings of the commands of bonded memory (R212, R220 to R228). -/

namespace Sys2Proof.Machine

/-- Index of a number in a list. -/
def indexOf (l : List Nat) (q : Nat) : Option Nat :=
  let i := l.findIdx (fun x => x == q)
  if i < l.length then some i else none

/-- The module address that decodes to a byte of position q (the inverse of R214 and R215). -/
def State.addrOf (s : State) (q byte : Nat) : Option Nat :=
  if byte < s.gch then
    (indexOf s.mem.slots q).map (fun i => (byte / 2048 * s.mem.slots.length + i) * 2048 + byte % 2048)
  else
    let k := q / 8
    let l := s.stackSlots k
    let b := byte - s.gch
    (indexOf l q).map (fun i => 0x8000000000 + k * 0x200000000 + (b / 2048 * l.length + i) * 2048 + b % 2048)

/-- The committed persistent page that a module address serves as frame of, as the page's own address of that byte. -/
def State.pageOf (s : State) (a : Nat) : Option Nat :=
  let f := a / 0x10000 * 0x10000
  (s.persistentPages.find? (fun p => s.committedFrame p == f)).map (fun p => p * 0x10000 + a % 0x10000)

/-- The address of a physical line in an error record, and whether the line lies in a committed persistent page. -/
def State.lineAddr (s : State) (ch line : Nat) : Nat × Bool :=
  match s.posOf ch with
  | none => (0, false)
  | some q => match s.addrOf q (line * 512) with
    | none => (0, false)
    | some a => match s.pageOf a with
      | some p => (p, true)
      | none => (a, false)

/-- A read of a physical line finds symbol errors, and a reread after the write-back finds `reread` (R210, R212). -/
def State.lineErrors (s : State) (ch line errs reread : Nat) (scrub : Bool) : State :=
  let pl := ch * 0x400000 + line
  let s1 := { s with mem := { s.mem with
    latent := if errs = 0 then Sparse.erase s.mem.latent pl else Sparse.insert s.mem.latent pl (errs, reread) } }
  let a := s1.lineAddr ch line
  s1.meetErrors pl a.1 a.2 scrub

/-- A channel in service: active, a migration's source, or fence pending (R226). -/
def State.inService (s : State) (ch : Nat) : Bool :=
  let st := s.chState ch
  st == 0 || st == 2 || st == 5

/-- SCRUB (R212): the scrub reads a line of an active channel. -/
def execScrub (c : ChIx) (line : Nat) (symErrs rereadErrs : Nat) (s : State) : Res :=
  if !s.dramUp || !s.inService c.val || 0x400000 ≤ line then .next s
  else .next (s.lineErrors c.val line symErrs rereadErrs true).drainMigrations

/-- REFRESH (R224): the rate follows the stack's temperature, in units of 0.25 °C. -/
def execRefresh (c : ChIx) (temp : Nat) (s : State) : Res :=
  if !s.dramUp then .next s else .next (s.setB (F.MEM_CH_STAT_REFRESH_2X c.val) (decide (340 < temp)))

/-- A channel that recalibrates: not retired, fenced or dead (R223, R228). -/
def State.recalibrates (s : State) (ch : Nat) : Bool :=
  let st := s.chState ch
  st != 4 && st != 6 && st != 7

/-- RECALIBRATION (R223). -/
def execRecalibration (c : ChIx) (s : State) : Res :=
  if !s.dramUp || !s.recalibrates c.val then .next s
  else .next ((s.set (F.MEM_CH_STAT_RECAL c.val) 1).copyPause)

/-- RECALIBRATION_END (R223): a failure is retried at once; two in a row count and make the channel fail. -/
def execRecalibrationEnd (c : ChIx) (ok : Bool) (s : State) : Res :=
  if !s.dramUp || !s.on (F.MEM_CH_STAT_RECAL c.val) then .next s else
  let run := Sparse.getD s.mem.recalRun c.val 0
  if ok then
    let s1 := { s with mem := { s.mem with recalRun := Sparse.erase s.mem.recalRun c.val } }
    .next ((s1.set (F.MEM_CH_STAT_RECAL c.val) 0).copyPause)
  else if run = 0 then .next { s with mem := { s.mem with recalRun := Sparse.insert s.mem.recalRun c.val 1 } }
  else
    let s1 := { s with mem := { s.mem with recalRun := Sparse.erase s.mem.recalRun c.val } }
    let s2 := (s1.set (F.MEM_CH_STAT_RECAL c.val) 0).bump (F.MEM_CH_STAT_RECAL_FAIL c.val) 1
    .next ((s2.copyPause).channelFails c.val true).drainMigrations

/-- WC_TIMER_EXPIRE (R220): the entry of a line is flushed, once its memory interface issues (R318): `State.opWcTimer`. -/
def execWcTimerExpire (k : StackIx) (pos : Fin 8) (line : Nat) (s : State) : Res := .next (s.issue (.wcTimerExpire k pos line))

/-- REQ of MEM_MIG_CTL (R225, R231): the channel named is failing, or the request is ignored. -/
def State.migRequest (s : State) : State :=
  let c := s.get F.MEM_MIG_CTL_REQ_CH
  let ch := 9 * s.get F.MEM_MIG_CTL_REQ_STACK + c
  if c ≤ 8 && s.chState ch == 0 then (s.channelFails ch true).drainMigrations else s.flag F.MEM_STAT_REQ_IGNORED

/-- Channels whose CORR_HOUR lies above a threshold just written are failing (R225). -/
def State.threshFails (s : State) : State :=
  (s.forEach ((List.range 288).filter (fun ch => s.chState ch == 0 && decide (s.get F.MEM_MIG_CTL_CORR_THRESH < s.corrHour ch)))
    (fun s ch => s.channelFails ch true)).drainMigrations

/-- The fields of MEM_MIG_CTL take a written value. -/
def State.migCtl (s : State) (v : Nat) : State :=
  ((((s.set F.MEM_MIG_CTL_CORR_THRESH (bits v 47 32)).set F.MEM_MIG_CTL_REQ_STACK (bits v 12 8)).set
    F.MEM_MIG_CTL_REQ_CH (bits v 7 4)).set F.MEM_MIG_CTL_MIG_RATE (bits v 3 1)).threshFails

/-- MIGRATION_REQ (R225, R231): a write of MEM_MIG_CTL with its REQ bit. -/
def execMigrationReq (value : U64) (s : State) : Res :=
  if !s.dramUp then .next s
  else if bit value.toNat 0 then .next (s.migCtl value.toNat).migRequest
  else .next (s.migCtl value.toNat)

/-- The copy is complete (R228): the position's channel is the spare, and the source is retired. -/
def State.migrationDone (s : State) : State :=
  let src := s.migSrc
  let dst := s.migDst
  let slot := s.get (F.MEM_CH_STAT_SLOT src)
  let s1 := { s with ledger := retireTo s.ledger src dst }
  let s2 := ((s1.set (F.MEM_CH_STAT_SLOT dst) slot).set (F.MEM_CH_STAT_SLOT src) 0x1FF).stopMigration 4 0
  s2.cause F.MEM_STAT_MIG_DONE false 4

/-- MIGRATION_LINE_COPY (R227): the line at the copy pointer goes to the spare in one step. -/
def execMigrationLineCopy (symErrs : Nat) (s : State) : Res :=
  if !s.dramUp || s.get F.MEM_MIG_STAT_STATE != 1 || s.memCapped (chStack s.migSrc) then .next s else
  let p := s.get F.MEM_MIG_STAT_PROGRESS
  let src := s.migSrc
  let s1 := if symErrs = 0 then s else s.lineErrors src p symErrs 0 false
  let from_ := src * 0x400000 + p
  let to_ := s1.migDst * 0x400000 + p
  let s2 := (s1.putLine to_ (s1.lineBytes from_)).setPoison to_ (s1.mem.poison.contains from_)
  let s3 := s2.set F.MEM_MIG_STAT_PROGRESS (p + 1)
  if p + 1 == 0x400000 then .next s3.migrationDone.drainMigrations else .next s3.drainMigrations

/-- CHANNEL_DEAD (R226, R231): a channel stops answering. -/
def execChannelDead (c : ChIx) (s : State) : Res :=
  if !s.dramUp || !s.recalibrates c.val then .next s
  else if s.chState c.val == 1 then
    .next ((s.chOut c.val true).postFull clsDram c.val 1 0x05 0 0 1 0 false)
  else .next ((s.channelFails c.val false).drainMigrations)

/-- MEM_FENCE (R221): every entry of the 32 buffers is flushed: `State.opMemFence`. -/
def execMemFence (n : TileIx) (s : State) : Res := .next (s.issue (.memFence n))

end Sys2Proof.Machine
end

