-- ==== Sys2Proof/Machine/Perf.lean ====
section
/-! DEFINITION. The meanings of the commands of the performance counters (R413 to R424). -/

namespace Sys2Proof.Machine

/-- The registers are reachable: 52 V is present and the module is not in minimal mode (R12, R431). -/
def State.regsUp (s : State) : Bool := s.start.powered && s.mode != 2

/-- Every block takes a dump (R420), marked DUMP_ALL. -/
def State.dumpEvery (s : State) : State := s.forEach (List.range 119) (fun s b => s.dump b (s.perfCyc b) true)

/-- DUMP_ALL (R420). -/
def execDumpAll (s : State) : Res := if s.regsUp then .next s.dumpEvery else .next s

/-- Every counter of block b returns to 0 (R415, R418). -/
def State.clearBlock (s : State) (b : Nat) : State :=
  s.forEach (List.range (perfCount b)) (fun s i =>
    let t := s.set (F.PERF_B_CNT_COUNT b i) 0
    { t with perf := { t.perf with prev := Sparse.erase t.perf.prev (8 * b + i) } })

/-- CLEAR (R415). -/
def execClear (b : PerfIx) (s : State) : Res := if s.regsUp then .next (s.clearBlock b.val) else .next s

/-- A select register takes a value (R417 to R419): its counter goes on under the new selection, SEL_BAD says whether EVENT is unsupported. -/
def State.writeSel (s : State) (b i v : Nat) : State :=
  let s1 := (s.set (F.PERF_B_SEL_PHASE_MASK b i) (bits v 37 32)).set (F.PERF_B_SEL_THRESH b i) (bits v 31 16)
  let s2 := ((s1.set (F.PERF_B_SEL_UMASK b i) (bits v 15 12)).set (F.PERF_B_SEL_MODE b i) (bits v 9 8)).set (F.PERF_B_SEL_EVENT b i) (v % 256)
  let s3 := s2.setB (F.PERF_B_SEL_SEL_BAD b i) (!perfSupported (perfKind b) (v % 256))
  { s3 with perf := { s3.perf with prev := Sparse.erase s3.perf.prev (8 * b + i) } }

/-- PERF_SEL_WRITE (R419); a block has no register of a counter it lacks. -/
def execPerfSelWrite (b : PerfIx) (i : Fin 8) (value : U64) (s : State) : Res :=
  if s.regsUp && decide (i.val < perfCount b.val) then .next (s.writeSel b.val i.val value.toNat) else .next s

/-- The clock of block b runs (R303, R414). -/
def State.perfClock (s : State) (b : Nat) : Bool :=
  if b ≤ 100 then s.on F.CLK_STAT_CORE_LOCK && !s.on F.CLK_STAT_CORE_STOPPED else s.on F.CLK_STAT_FAB_LOCK

/-- PERF_DUMP (R420): a periodic dump, of the latest cycle in which CYC mod 2^DUMP_K = 0. -/
def execPerfDump (b : PerfIx) (s : State) : Res :=
  let k := Nat.min 30 (Nat.max 10 (s.get (F.PERF_B_CFG_DUMP_K b.val)))
  if s.regsUp && s.on (F.PERF_B_CFG_DUMP_EN b.val) && s.perfClock b.val then
    .next (s.dump b.val (s.perfCyc b.val / 2 ^ k * 2 ^ k) false)
  else .next s

/-- The block of a queued record, and its OVF byte (R421). -/
def recBlock (r : List Byte) : Nat := leNat (sliceBytes r 32 2)
def recOvf (r : List Byte) : Nat := leNat (sliceBytes r 36 1)

/-- A record with LOST set and further OVF bits. -/
def recLost (r : List Byte) (ovf : Nat) : List Byte :=
  let f := leNat (sliceBytes r 35 1)
  r.take 35 ++ [BitVec.ofNat 8 (f ||| 1), BitVec.ofNat 8 (recOvf r ||| ovf)] ++ r.drop 37

/-- The block's next record in the queue carries LOST; the Boolean says whether there is one. -/
def markLost (b ovf : Nat) : List (List Byte) → List (List Byte) × Bool
  | [] => ([], false)
  | r :: rs => if recBlock r == b then (recLost r ovf :: rs, true) else let (q, f) := markLost b ovf rs; (r :: q, f)

/-- A record is dropped at the ring (R422): its block's next record carries LOST and the wraps it would have shown. -/
def State.dropRecord (s : State) (r : List Byte) : State :=
  let b := recBlock r
  match markLost b (recOvf r) s.perf.queue with
  | (q, true) => { s with perf := { s.perf with queue := q } }
  | (_, false) => { s with perf := { s.perf with
      lost := NatSet.add s.perf.lost b, ovf := Sparse.put s.perf.ovf b (Sparse.getD s.perf.ovf b 0 ||| recOvf r) 0 } }

/-- PERF_RING_RECORD_WRITE (R422): the oldest record leaves the queue for the ring. -/
def execPerfRingRecordWrite (s : State) : Res :=
  let m := s.get F.PERF_RING_BASE_LOG2_REC
  match s.perf.queue with
  | [] => .next s
  | r :: rest =>
    if !s.running || !s.start.memReady || !decide (6 ≤ m ∧ m ≤ 24) then .next s else
    let s1 := ({ s with perf := { s.perf with queue := rest } }).set F.PERF_RING_STAT_QUEUE_DEPTH rest.length
    let prod := s1.get F.PERF_RING_PROD_PROD
    let a := s1.get F.PERF_RING_BASE_BASE * 4096 + 128 * (prod % 2 ^ m)
    if 2 ^ m ≤ prod - s1.get F.PERF_RING_CONS_CONS then .next ((s1.dropRecord r).bump F.PERF_RING_STAT_DROP_FULL 1)
    else if s1.mem.hostBias.contains (a / 0x200000) then .next ((s1.dropRecord r).bump F.PERF_RING_STAT_DROP_BIAS 1)
    else .next ((s1.moduleWrite a r false).fence.set F.PERF_RING_PROD_PROD (prod + 1))

end Sys2Proof.Machine
end

