-- ==== Sys2Proof/Machine/Power.lean ====
section
/-! DEFINITION. The meanings of the commands of power and clocks (R297 to R303, R309 to R319): domain states, grant intervals, limits, trips,
deep sleep. -/

namespace Sys2Proof.Machine

/-! Domain states. -/

/-- The Timetable runs: the job runs and its domain has power. -/
def State.timetableUp (s : State) : Bool := s.running && s.dom domTimetable != 0

/-- The states that a domain uses (R298, R299): a memory interface sleeps only in the self-test and sleep phase, a fenced unit stays OFF, a
link port is left as it is. -/
def State.mayRequest (s : State) (d : Nat) (st : PState) : Bool :=
  let live := s.dom d != 0
  match st with
  | .on => live || d == domFlash
  | .gated => live && decide (d ≤ 102)
  | .retained => live && decide (d ≤ 101)
  | .powerDown => live && decide (103 ≤ d ∧ d ≤ 134) && (s.phase == 4 || s.phase == 5)
  | .off => d == domFlash

/-- One request of the Timetable (R299, R300). -/
def State.requestDom (s : State) (d : DomIx) (st : PState) : State :=
  if !s.mayRequest d.val st then s else
  let s1 := s.setDomReq d.val (PState.code st)
  match st with
  | .on => s1.wake d.val 4
  | .off => ((s1.stopWaking d.val).setDom d.val 0).set F.CLK_STAT_BOOT_LOCK 0
  | _ => (s1.stopWaking d.val).setDom d.val (PState.code st)

/-- DOMAIN_STATE_REQUEST (R299). -/
def execDomainStateRequest (reqs : List (DomIx × PState)) (s : State) : Res :=
  if s.timetableUp then .next (s.forEach reqs (fun s r => s.requestDom r.1 r.2)) else .next s

/-- DOMAIN_WAKE_DONE (R298): a woken domain is ON, and posts that stalled on it proceed. -/
def execDomainWakeDone (d : DomIx) (s : State) : Res :=
  if !s.power.waking.any (fun w => w.1 == d.val) then .next s else
  .next (s.domOn d.val).settle

/-- Always-on time of the next scheduled wake: WAKE_LEAD before the boundary (R300). -/
def State.nextWake (s : State) : Nat := s.boundaryOsc / 8 - s.get F.CLK_SLEEP_CFG_WAKE_LEAD

/-- DEEP_SLEEP_ENTER (R303): the CORE PLL stops where the three conditions hold. -/
def execDeepSleepEnter (s : State) : Res :=
  let slept := (List.range 155).all (fun d => !coreDom d || s.dom d == 1 || s.dom d == 0)
  if s.running && s.period.inPeriod && (s.phase == 4 || s.phase == 5) && slept && s.on F.CLK_STAT_CORE_LOCK &&
      decide (s.aon + s.get F.CLK_SLEEP_CFG_PLL_STOP_MIN ≤ s.nextWake) then
    .next (((s.set F.CLK_STAT_CORE_LOCK 0).set F.CLK_STAT_CORE_STOPPED 1).bump F.CLK_STAT_DEEP_SLEEPS 1)
  else .next s

/-- WAKE_LEAD_TIMER (R300): WAKE_LEAD before a boundary, the CORE PLL, the Timetable and the domains of tick 0 are woken. -/
def execWakeLeadTimer (s : State) : Res :=
  if !s.running || !s.period.inPeriod || s.boundaryOsc < s.time.osc then .next s else
  let s1 := (s.toTick s.nextWake).coreRestart
  let doms := match s1.plan with | some p => p.tick0.map (fun d => d.val) | none => []
  .next (s1.forEach (domTimetable :: doms) (fun s d => s.wake d 3))

/-! Limits and pins. -/

/-- A write of POWER_LIMIT (R316): clamped into 600 W to LIMIT_MAX; it counts from the next interval. -/
def State.writeLimit (s : State) (w : Nat) : State :=
  let c := Nat.min (s.get F.PWR_LIMIT_LIMIT_MAX) (Nat.max 600 w)
  (s.set F.PWR_LIMIT_POWER_LIMIT c).flagIf (c != w) F.PWR_STAT_LIMIT_CLAMP

/-- The Waybill's registers are loaded and the host reaches them (R12, R431). -/
def State.regsLoaded (s : State) : Bool := s.start.powered && s.wb.isSome && s.mode != 2

/-- POWER_LIMIT_WRITE (R316). -/
def execPowerLimitWrite (value : BitVec 12) (s : State) : Res :=
  if s.regsLoaded then .next (s.writeLimit value.toNat) else .next s

/-- The Reckoner sees the level of PWRBRK_N (R315). -/
def State.brakeSeen (s : State) : State :=
  let low := s.power.brakeAge != 0
  let s1 := if low && !s.on F.PWR_STAT_BRAKE_ACTIVE then (s.cause F.PWR_STAT_BRAKE false 5).brakeItems else s
  s1.setB F.PWR_STAT_BRAKE_ACTIVE low

/-- The always-on island, and the Reckoner in it, run. -/
def State.reckonerOn (s : State) : Bool := s.start.powered && s.time.running

/-- PWRBRK_ASSERT (R315): grants comply from the second interval after this. -/
def execPwrbrkAssert (s : State) : Res :=
  let s1 := { s with power := { s.power with brakeAge := Nat.max 1 s.power.brakeAge } }
  if s.reckonerOn then .next s1.brakeSeen else .next s1

/-- PWRBRK_RELEASE (R315). -/
def execPwrbrkRelease (s : State) : Res :=
  let s1 := { s with power := { s.power with brakeAge := 0 } }
  if s.reckonerOn then .next s1.brakeSeen else .next s1

/-! The grant interval. -/

/-- Intervals are formed from step 7 of a start until the power is lost or the module trips (R309, R317). -/
def State.grants (s : State) : Bool := s.reckonerOn && s.on F.CLK_STAT_FAB_LOCK && !s.tripped

/-- A POWER_LIMIT written in the last interval comes into force, and cuts CREDIT to its new maximum (R316). -/
def State.takeLimit (s : State) : State :=
  let l := s.get F.PWR_LIMIT_POWER_LIMIT
  if s.power.limit == l then s else
  let s1 := { s with power := { s.power with limit := l } }
  if (s1.creditMax l : Int) < s1.credit then s1.setCredit (s1.creditMax l) else s1

/-- The interval is a burst interval (R313, R315). -/
def State.burstInterval (s : State) : Bool :=
  s.burstRunning && decide (0 < s.credit) && decide (s.get F.PWR_STAT_BURST_RUN < 1000) && s.power.brakeAge == 0

/-- Power available over the base (R312, R314, R315, R317). -/
def State.available (s : State) (burst : Bool) (inp : IntervalIn) : Nat :=
  let limit := if burst then s.get F.PWR_LIMIT_PEAK_LIMIT else s.power.limit
  let vin := inp.vinMv * 32 / 1000
  let brake := if 2 ≤ s.power.brakeAge then s.get F.PWR_LIMIT_BRAKE_LIMIT else limit
  if s.power.limit < inp.base then 0 else Nat.min (Nat.min limit brake) vin - inp.base

/-- Requests of one class as a list over the domains, under the thermal caps (R312, R318). -/
def cappedRequests (jw dw : Nat) (inp : IntervalIn) (cls : Nat) : List Nat :=
  (List.range 155).map (fun d =>
    if dynDom d then thermalCap jw dw inp.tileTemp.toList inp.stackTemp.toList d (reqOf inp.requests d cls) else 0)

/-- Grants of the three classes in turn (R312). -/
def grantAll (k avail : Nat) (r1 r2 r3 : List Nat) : List Nat :=
  let (g1, a1) := grantClass k avail r1
  let (g2, a2) := grantClass k a1 r2
  let (g3, _) := grantClass k a2 r3
  List.zipWith (· + ·) g1 (List.zipWith (· + ·) g2 g3)

/-- What domain d asked for in the interval, over the classes (R311). -/
def askedBy (l : List PowerReq) (d : Nat) : Nat := reqOf l d 1 + reqOf l d 2 + reqOf l d 3

/-- The numerically highest class in which domain d asks for power (DEDUCED, log entry 30). -/
def highestClass (l : List PowerReq) (d : Nat) : Nat :=
  if reqOf l d 3 != 0 then 3 else if reqOf l d 2 != 0 then 2 else if reqOf l d 1 != 0 then 1 else 0

/-- The accounts of R313 after an interval with total grant `g`. -/
def State.accounts (s : State) (g : Nat) : State :=
  let l := s.power.limit
  if l < g then
    let s1 := { s with power := { s.power with items := spendReserve (g - l) s.power.items } }
    (s1.setCredit (s1.credit - ((g - l : Nat) : Int))).bump F.PWR_STAT_BURST_RUN 1
  else (s.setCredit (min (s.creditMax l) (s.credit + ((l - g : Nat) : Int)))).set F.PWR_STAT_BURST_RUN 0

/-- Bin of the junction histogram (R386) of a temperature in 0.25 °C. -/
def tempBin (t : Nat) : Fin 16 :=
  if t < 160 then 0 else if t < 400 then Fin.ofNat 16 (1 + (t - 160) / 20) else if t < 420 then 13 else if t < 440 then 14 else 15

/-- Bin of the input voltage histogram (R386) of a voltage in mV. -/
def vinBin (v : Nat) : Fin 16 :=
  if v < 44000 then 0 else if v < 58000 then Fin.ofNat 16 (1 + (v - 44000) / 1000) else 15

/-- Sensors and the input as measured in the interval (R314, R318, R319, R386). -/
def State.measure (s : State) (inp : IntervalIn) : State :=
  let jt := listMax inp.tileTemp.toList
  let dt := listMax inp.stackTemp.toList
  let s1 := ((s.set F.PWR_THERM_JT_MAX (Nat.min 1023 jt)).set F.PWR_THERM_JT_MAX_TILE (listArgMax inp.tileTemp.toList)).set
    F.PWR_THERM_DT_MAX (Nat.min 1023 dt)
  let s2 := (s1.set F.PWR_THERM_DT_MAX_STACK (listArgMax inp.stackTemp.toList)).set F.PWR_INPUT_VIN (Nat.min 65535 inp.vinMv)
  let s3 := (s2.set F.PWR_INPUT_IIN (Nat.min 65535 inp.iin10mA)).set F.PWR_INPUT_VIN_MIN
    (Nat.min (s2.get F.PWR_INPUT_VIN_MIN) inp.vinMv)
  let s4 := s3.set F.PWR_GRANT_INPUT_W (Nat.min 4095 inp.inputW)
  let s5 := if 420 ≤ jt || 380 ≤ dt then s4.cause F.PWR_STAT_THERM_LIMIT false 5 else s4
  let s6 := if inp.vinMv < 44000 then
      { (s5.bump F.PWR_INPUT_DROOP_EVENTS 1).cause F.PWR_STAT_DROOP false 5 with flt := { s5.flt with droopLog := s5.aon :: s5.flt.droopLog } }
    else s5
  let l := s6.ledger
  let tb := tempBin jt
  let vb := vinBin inp.vinMv
  { s6 with
    power := { s6.power with
      tileTemp := inp.tileTemp, stackTemp := inp.stackTemp
      hotRun := if 440 ≤ jt || 400 ≤ dt then s6.power.hotRun + 1 else 0
      jtPeak := Nat.max jt s6.power.jtPeak, dtPeak := Nat.max dt s6.power.dtPeak }
    ledger := { l with tempHist := l.tempHist.set tb (l.tempHist[tb] + 1), vinHist := l.vinHist.set vb (l.vinHist[vb] + 1) } }

/-- A stack above 85 °C refreshes its channels at the doubled rate (R224). -/
def State.refreshRates (s : State) (inp : IntervalIn) : State :=
  if !s.start.memReady then s else
  s.forEach (List.range 288) (fun s ch => s.setB (F.MEM_CH_STAT_REFRESH_2X ch) (decide (340 < inp.stackTemp.toList.getD (ch / 9) 0)))

/-- What the interval leaves in the domains' registers, and the domains whose issue stalls in it: granted nothing of what they asked, or
capped at zero (R312, R318). -/
def State.publishGrants (s : State) (inp : IntervalIn) (g : List Nat) : State :=
  let jw := s.get F.PWR_THERM_JT_WARN
  let dw := s.get F.PWR_THERM_DT_WARN
  let s1 := s.forEach (List.range 155) (fun s d =>
    ((s.set (F.PWR_DOM_STAT_GRANT_W d) (Nat.min 4095 (g.getD d 0))).set (F.PWR_DOM_STAT_REQ_W d)
      (Nat.min 4095 (askedBy inp.requests d))).set (F.PWR_DOM_STAT_CLASS d) (highestClass inp.requests d))
  let dry := (List.range 155).filter (fun d => dynDom d &&
    ((askedBy inp.requests d != 0 && g.getD d 0 == 0) ||
      thermalCap jw dw inp.tileTemp.toList inp.stackTemp.toList d 1000000 == 0))
  { s1 with power := { s1.power with metered := dry } }

/-- Some thermal cap lies below its request (R318). -/
def derated (jw dw : Nat) (inp : IntervalIn) : Bool :=
  inp.requests.any (fun r => dynDom r.dom.val &&
    decide (thermalCap jw dw inp.tileTemp.toList inp.stackTemp.toList r.dom.val r.watts < r.watts))

/-- The grants of the interval and its accounts (R310 to R317). -/
def State.formGrants (s : State) (inp : IntervalIn) : State :=
  let burst := s.burstInterval
  let jw := s.get F.PWR_THERM_JT_WARN
  let dw := s.get F.PWR_THERM_DT_WARN
  let cap := cappedRequests jw dw inp
  let g := grantAll s.power.interval (s.available burst inp) (cap 1) (cap 2) (cap 3)
  let dyn := g.foldl (· + ·) 0
  let asked := ((List.range 155).map (fun d => if dynDom d then askedBy inp.requests d else 0)).foldl (· + ·) 0
  let s1 := (s.publishGrants inp g).accounts (inp.base + dyn)
  let s2 := ((s1.set F.PWR_GRANT_TOTAL_GRANT (Nat.min 4095 (inp.base + dyn))).set F.PWR_GRANT_BASE (Nat.min 4095 inp.base)).set
    F.PWR_GRANT_DYN_GRANT (Nat.min 4095 dyn)
  let s3 := (s2.set F.PWR_GRANT_UNMET (Nat.min 4095 (asked - dyn))).setB F.PWR_STAT_BURST burst
  let s4 := s3.flagIf (derated jw dw inp) F.PWR_STAT_DERATED
  { s4 with power := { s4.power with interval := s4.power.interval + 1
                                     brakeAge := if s4.power.brakeAge == 0 then 0 else s4.power.brakeAge + 1 } }

/-- A base above the limit (R317, R323): OVER_BASE, and one record a period. -/
def State.overBase (s : State) : State :=
  let s1 := s.flag F.PWR_STAT_OVER_BASE
  if s1.power.overBasePosted then s1
  else ({ s1 with power := { s1.power with overBasePosted := true } }).post clsPower 0 1 0x0D 0 0

/-- GRANT_INTERVAL (R309 to R321): one interval of 10 µs begins at the next multiple of 250 cycles of 25 MHz. -/
def execGrantInterval (given : IntervalIn) (s : State) : Res :=
  if !s.grants then .next s else
  let inp := s.classed given
  let s1 := ((s.passTime (250 - s.time.osc % 250)).takeLimit).brakeSeen
  let above := decide (s1.power.limit < inp.base)
  let broke := decide (s1.credit ≤ 0)
  let s2 := ((s1.measure inp).refreshRates inp).formGrants inp
  let s3 := if above then s2.overBase else s2
  if s3.get F.PWR_LIMIT_PEAK_LIMIT < inp.base || (above && broke) then .next (s3.trip F.PWR_STAT_BASE_TRIP 0x0D)
  else .next (if s3.running then s3.schedule.pumpPorts else s3).settle

/-- METER_LIMIT_REACHED (R312): the domain stalls issue until the next interval. -/
def execMeterLimitReached (d : DomIx) (s : State) : Res :=
  if s.grants && dynDom d.val then .next { s with power := { s.power with metered := NatSet.add s.power.metered d.val } }
  else .next s

/-- THERMAL_TRIP (R319): a sensor has been at the trip level in 100 consecutive intervals. -/
def execThermalTrip (s : State) : Res :=
  if s.grants && decide (100 ≤ s.power.hotRun) then .next (s.trip F.PWR_STAT_THERM_TRIP 0x0C) else .next s

end Sys2Proof.Machine
end

