-- ==== Sys2Proof/Machine/HostRegs.lean ====
section
/-! DEFINITION. The registers as software reads and writes them (R10 to R16, R425 to R431): the views that state other than the register file
gives, and the actions of a write. -/

namespace Sys2Proof.Machine

/-! Reads. -/

/-- SEAL_LADDER_DATA of the layer selected (R253). -/
def State.ladderData (s : State) : Nat := s.ladderWord (s.get F.SEAL_LADDER_SEL_LAYER)

/-- COLL_GRP_DATA of the group and position selected (R278). -/
def State.groupData (s : State) : Nat :=
  match s.group (s.get F.COLL_GRP_SEL_GROUP) with
  | none => 0
  | some g =>
    if g.members.isEmpty then 0 else
    let mem := match g.members[s.get F.COLL_GRP_SEL_POS]? with
      | some m => m.altRoute % 32 * 2 ^ 21 + m.route % 32 * 2 ^ 16 + m.id.toNat
      | none => 0
    let self := if g.selfPos == 0xFFFF then 0 else g.selfPos % 1024 * 2 ^ 28 + 2 ^ 27
    g.members.length % 2048 * 2 ^ 48 + g.leaderPos % 1024 * 2 ^ 38 + self + b2n g.hier * 2 ^ 26 + mem

/-- ENG_CAST_SLOTs_A (R395 to R401). -/
def castSlotA (secured : Bool) (c : CastSlot) : Nat :=
  let step := match c.img with | some g => g.step.toNat | none => 0
  let dam := match c.img with | some g => g.damaged | none => false
  step % 2 ^ 48 * 2 ^ 16 + b2n c.exporting * 256 + b2n c.superseded * 128 + b2n c.exported * 64 + b2n c.verified * 32
    + b2n secured * 16 + b2n dam * 8 + b2n c.complete * 4 + b2n c.writing * 2 + b2n c.img.isSome

/-- ENG_CAST_SLOTs_B. -/
def castSlotB (c : CastSlot) : Nat :=
  match c.img with | some g => g.gen.toNat * 2 ^ 32 + g.period.toNat | none => 0

/-- MBX_CHc_STAT at end A (R361 to R364). -/
def mbxStat (m : MbxChan) : Nat :=
  m.endA.sent % 65536 * 2 ^ 48 + m.endA.received % 65536 * 2 ^ 32 + b2n m.toA.full * 128 + b2n m.toB.full * 64 + b2n m.endA.arrived * 32
    + b2n m.endA.emptied * 16 + b2n m.endA.dropped * 8 + b2n m.endA.doorbellFull * 4 + b2n m.endA.writeFull * 2

/-- A Pigeonhole register of channel c at offset o of its 256 bytes. -/
def State.mbxRead (s : State) (c o : Nat) : U64 :=
  match allMbx.find? (fun x => x.val == c) with
  | none => 0
  | some c =>
    let m := s.chan c
    if h : o / 8 < 8 then m.toB.data[o / 8]
    else if h : o / 8 - 8 < 8 then m.toA.data[o / 8 - 8]
    else if o == 0x88 then BitVec.ofNat 64 (mbxStat m)
    else 0

/-- A register of function 0 whose fields other state holds, and the register file for the rest. -/
def State.viewReg (s : State) (o : Nat) : U64 :=
  if o == 0x60028 then BitVec.ofNat 64 s.ladderData
  else if o == 0xA0018 then BitVec.ofNat 64 s.groupData
  else if o == 0x20018 then BitVec.ofNat 64 s.aon
  else if 0x630100 ≤ o && o < 0x6301A0 then
    match if s.mode == 1 then s.castSlot ((o - 0x630100) / 16) else none with
    | some c =>
      let i := (o - 0x630100) / 16
      BitVec.ofNat 64 (if o % 16 == 0 then castSlotA (decide (i < 8) && s.slotSecured i c) c else castSlotB c)
    | none => 0
  else if 0xC1000 ≤ o && o < 0xC1900 then
    fieldPut (F.MEM_CH_STAT_CORR_HOUR ((o - 0xC1000) / 8)) (s.rd o) (s.corrHour ((o - 0xC1000) / 8))
  else if 0x41000 ≤ o && o < 0x41000 + 119 * 0x100 && o % 0x100 == 0 then BitVec.ofNat 64 (s.perfCyc ((o - 0x41000) / 0x100))
  else if 0x41000 ≤ o && o < 0x41000 + 119 * 0x100 && o % 0x100 == 8 then
    fieldPut (F.PERF_B_CFG_KIND ((o - 0x41000) / 0x100)) (s.rd o) (perfKind ((o - 0x41000) / 0x100))
  else s.rd o

/-- Registers that answer in minimal mode (R431). -/
def minimalReg (o : Nat) : Bool :=
  decide (o < 0x18) || o == 0x20010 || o == 0x20018 || decide (0x50000 ≤ o ∧ o < 0x60000) || decide (0x30000 ≤ o ∧ o < 0x31000)

/-- A tile block whose tile is OFF (R430). -/
def State.tileOff (s : State) (o : Nat) : Bool := decide (0x100000 ≤ o ∧ o < 0x500000) && s.dom ((o - 0x100000) / 0x10000) == 0

/-- Function 0 answers at an offset. -/
def State.answers (s : State) (o : Nat) : Bool := s.blocksUp && (s.mode != 2 || minimalReg o) && !s.tileOff o

/-- Channel of a Pigeonhole register of function 0 or 1 at offset o. -/
def mbxOf (fn1 : Bool) (o : Nat) : Option Nat :=
  if 0x30000 ≤ o ∧ o < (if fn1 then 0x30800 else 0x31000) then some ((o - 0x30000) / 0x100 + (if fn1 then 24 else 0)) else none

/-- A 64-bit aligned read of function 0 or 1 (R13, R15, R347, R427, R428). -/
def State.readReg (s : State) (fn1 : Bool) (o : Nat) : U64 :=
  if o % 8 != 0 then 0
  else match mbxOf fn1 o, msixWordIx fn1 o with
    | some c, _ => if s.blocksUp then s.mbxRead c (o % 0x100) else 0
    | none, some i => if s.blocksUp then s.msixRead fn1 i else 0
    | none, none =>
      if o == msixPba fn1 then (if s.blocksUp then BitVec.ofNat 64 (s.msix fn1).pba else 0)
      else if fn1 && !(decide (o < 0x18) || decide (0x50000 ≤ o ∧ o < 0x50050)) then 0
      else if s.answers o && (cardAt o).isSome then s.viewReg o else 0

/-- A 32-bit aligned read: the half of the register at the offset (R13). -/
def State.readHalf (s : State) (fn1 : Bool) (o : Nat) : U32 :=
  if o % 4 != 0 then 0 else (s.readReg fn1 (o / 8 * 8)).extractLsb' (8 * (o % 8)) 32

/-! Writes. -/

/-- The bits that a write changes, and its data in place (R13). -/
def writeMask (o : Nat) (half : Bool) : Nat := if half then (if o % 8 == 4 then 0xFFFFFFFF00000000 else 0xFFFFFFFF) else 0xFFFFFFFFFFFFFFFF
def writeData (o : Nat) (half : Bool) (v : U64) : Nat := if half then (if o % 8 == 4 then v.toNat % 2 ^ 32 * 2 ^ 32 else v.toNat % 2 ^ 32) else v.toNat

/-- RW fields take the bits written, RW1C fields lose those written 1 (R10). -/
def writeFields (c : Card) (old : U64) (v m : Nat) : U64 :=
  let d := BitVec.ofNat 64 v
  let mm := BitVec.ofNat 64 m
  let rw : U64 := BitVec.ofNat 64 c.rw &&& mm
  let w1 : U64 := BitVec.ofNat 64 c.rw1c &&& mm &&& d
  ((old &&& ~~~rw) ||| (d &&& rw)) &&& ~~~w1

/-- A bit of a WO field is written 1. -/
def woBit (v m b : Nat) : Bool := bit v b && bit m b

/-- A release of the buffers named (R358). -/
def State.releaseBits (s : State) (v m : Nat) : State :=
  let s1 := if woBit v m 0 then s.releaseBuf 0 else s
  if woBit v m 1 then s1.releaseBuf 1 else s1

/-- RETURN and RETURN_ALL of MGT_HDM (R353). -/
def State.returnBits (s : State) (v m : Nat) : State :=
  let g := s.get F.MGT_HDM_GRANULE
  let s1 := if woBit v m 21 then s.returnBias (fun x => x == g) else s
  if woBit v m 22 then s1.returnBias (fun _ => true) else s1

/-- Setting ENABLE of a ring sets its counts to 0 (R354); during ingest, at the next start of ingest (R357). -/
def State.ringEnable (s : State) (r : Nat) (was : Bool) : State :=
  if was || !s.on (F.MGT_RING_BASE_ENABLE r) then s
  else
    let s1 := s.set (F.MGT_RING_STAT_LOST r) 0
    if s.phase == 1 then match allRings.find? (fun q => q.val == r) with
      | some q => s1.setRing q { s1.ring q with zeroCons := true }
      | none => s1
    else s1.set (F.MGT_RING_CONS_CONS r) 0

/-- AT_VALID for a step that has committed clears (R391). -/
def State.castArm (s : State) (req : Bool) : State :=
  let s1 := if s.on F.ENG_CAST_CTL_AT_VALID && decide (s.get F.ENG_CAST_CTL_AT_STEP ≤ s.get F.SEAL_STEP_STEP_COUNTER) then
    s.set F.ENG_CAST_CTL_AT_VALID 0 else s
  if req && s1.running then s1.castTrigger else s1

/-- The triggers of ENG_CAST_HOST, in bit order (R397). -/
def State.castHostBits (s : State) (v m : Nat) : State :=
  if !s.running then s else
  let s1 := if woBit v m 0 then s.exportGo else s
  let s2 := if woBit v m 1 then s1.windowNext else s1
  if woBit v m 2 then s2.slotStored else s2

/-- What a write of the register at offset o brings about beyond its fields; `old` is what it held. -/
def State.regAction (s : State) (o v m : Nat) (old : U64) : State :=
  if o == 0x10000 then (if m % 4096 == 4095 then s.writeLimit (v % 4096) else s)
  else if o == 0x120 then s.releaseBits v m
  else if o == 0x128 then s.returnBits v m
  else if 0x200 ≤ o && o < 0x300 && o % 32 == 0 then s.ringEnable ((o - 0x200) / 32) (old.toNat % 2 == 1)
  else if o == 0xC0020 then (if !s.dramUp then s else if woBit v m 0 then s.threshFails.migRequest else s.threshFails)
  else if o == 0x630008 then s.castArm (woBit v m 0)
  else if o == 0x630018 then (if woBit v m 0 then s.restoreGo else s)
  else if o == 0x630030 then s.castHostBits v m
  else if o == 0x40000 then (if woBit v m 2 then s.dumpEvery else s)
  else if 0x41000 ≤ o && o < 0x41000 + 119 * 0x100 then
    let b := (o - 0x41000) / 0x100
    if o % 0x100 == 8 then (if woBit v m 8 then s.clearBlock b else s)
    else if 0x80 ≤ o % 0x100 && o % 0x100 < 0xC0 then s.writeSel b ((o % 0x100 - 0x80) / 8) (s.rd o).toNat
    else s
  else s

/-- A write of a register of function 0. -/
def State.writeReg (s : State) (o v m : Nat) : State :=
  match cardAt o with
  | none => s
  | some c => (s.wr o (writeFields c (s.rd o) v m)).regAction o v m (s.rd o)

/-- A data write, CTL or STAT of a Pigeonhole channel at end A (R361 to R364). A half of a data register keeps the other half. -/
def State.mbxWriteReg (s : State) (c o v m : Nat) : State :=
  match allMbx.find? (fun x => x.val == c) with
  | none => s
  | some c =>
    if h : o / 8 < 8 then
      let old := ((s.chan c).toB.data[o / 8]).toNat
      s.mailWrite c .a 0 ⟨o / 8, h⟩ (BitVec.ofNat 64 ((old &&& (0xFFFFFFFFFFFFFFFF - m)) ||| v))
    else if o == 0x80 then
      let s1 := if woBit v m 2 then s.empty c .a 0 true else s
      let s2 := if woBit v m 1 then s1.empty c .a 0 false else s1
      if woBit v m 0 then s2.ringBell c .a 0 else s2
    else if o == 0x88 then
      let x := s.chan c
      let w := fun (b : Nat) (f : Bool) => f && !woBit v m b
      s.setChan c { x with endA := { x.endA with
        arrived := w 5 x.endA.arrived, emptied := w 4 x.endA.emptied, dropped := w 3 x.endA.dropped
        doorbellFull := w 2 x.endA.doorbellFull, writeFull := w 1 x.endA.writeFull } }
    else s

/-- A write at an offset of a function: 64 bits at a multiple of 8, or 32 bits at a multiple of 4 (R13). A mirror discards (R428). -/
def State.busWrite (s : State) (fn1 : Bool) (off : Nat) (half : Bool) (value : U64) : State :=
  let v := writeData off half value
  let m := writeMask off half
  let o := off / 8 * 8
  if off % (if half then 4 else 8) != 0 || !s.blocksUp then s
  else match mbxOf fn1 o, msixWordIx fn1 o with
    | some c, _ => s.mbxWriteReg c (o % 0x100) v m
    | none, some i => s.msixWrite fn1 i v m
    | none, none => if !fn1 && s.answers o then s.writeReg o v m else s

end Sys2Proof.Machine
end

