-- ==== Sys2Proof/Machine/Host.lean ====
section
/-! DEFINITION. The meanings of the commands of the host and of the Pigeonholes (R10 to R16, R345, R350 to R353, R358, R361 to R366). -/

namespace Sys2Proof.Machine

/-- REGISTER_WRITE (R10, R13, R15). -/
def execRegisterWrite (fn1 : Bool) (off : Nat) (half : Bool) (value : U64) (s : State) : Res := .next (s.busWrite fn1 off half value)

/-- RELEASE_BUFFER (R358): a write of MGT_OUT. -/
def execReleaseBuffer (value : U64) (s : State) : Res :=
  if s.blocksUp && s.mode != 2 then .next (s.releaseBits value.toNat 0xFFFFFFFFFFFFFFFF) else .next s

/-- A write of MGT_HDM (R353). -/
def State.writeHdm (s : State) (v : U64) : State := s.writeReg 0x128 v.toNat 0xFFFFFFFFFFFFFFFF

/-- RETURN (R353): a write of MGT_HDM that names a granule. -/
def execReturnGranule (value : U64) (s : State) : Res := if s.blocksUp && s.mode != 2 then .next (s.writeHdm value) else .next s

/-- RETURN_ALL (R353): a write of MGT_HDM that returns every granule. -/
def execReturnAll (value : U64) (s : State) : Res := if s.blocksUp && s.mode != 2 then .next (s.writeHdm value) else .next s

/-- HOST_MEM_READ (R346, R351, R352). -/
def execHostMemRead (off len : Nat) (s : State) : Res := .next (s.orStall (s.hostRead off len) ⟨.hostMemRead off len, 0, false, false⟩)

/-- HOST_MEM_WRITE (R346, R351, R352). -/
def execHostMemWrite (off : Nat) (bytes : List Byte) (s : State) : Res :=
  .next (s.orStall (s.hostWrite off bytes) ⟨.hostMemWrite off bytes, 0, false, false⟩)

/-- CXL_SNOOP (R345): the module holds no host line, whatever the address. -/
def execCxlSnoop (_addr : U64) (s : State) : Res := if s.hdmOpen then .next (s.send (.cxl "holds nothing")) else .next s

/-- GLOBAL_PERSISTENT_FLUSH (R345): acknowledged with no action. -/
def execGlobalPersistentFlush (s : State) : Res := if s.hdmOpen then .next (s.send (.cxl "flush acknowledged")) else .next s

/-- MBX_DATA_WRITE (R361 to R364): a sequencer's write waits while another holds the slot. -/
def execMbxDataWrite (c : MbxIx) (sender : MbxEnd) (col : Fin 8) (w : Fin 8) (v : U64) (s : State) : Res :=
  if !s.mailEnd c sender col then .next s
  else .next (s.issue (.mbxDataWrite c sender col w v))

/-- DOORBELL (R362 to R364). -/
def execDoorbell (c : MbxIx) (sender : MbxEnd) (col : Fin 8) (s : State) : Res :=
  if !s.mailEnd c sender col then .next s
  else .next (s.issue (.doorbell c sender col))

/-- RX_EMPTY (R363): sequencers that waited for the slot go on. -/
def execRxEmpty (c : MbxIx) (receiver : MbxEnd) (col : Fin 8) (s : State) : Res :=
  if s.mailEnd c receiver col then .next (s.empty c receiver col false).retryStalled else .next s

/-- RX_RESET (R364, R365): the message is dropped. -/
def execRxReset (c : MbxIx) (receiver : MbxEnd) (col : Fin 8) (s : State) : Res :=
  if s.mailEnd c receiver col then .next (s.empty c receiver col true).retryStalled else .next s

end Sys2Proof.Machine
end

