-- ==== Sys2Proof/Machine/Identity.lean ====
section
/-! DEFINITION. The meanings of DOE objects: Waybill upload, enrolment, restarts (R336 to R341, R349), DOE Discovery and CXL Table Access (R348),
and SPDM (R342, R343). -/

namespace Sys2Proof.Machine

/-- A response of function 1's DOE mailbox, with its vector (R342, R348, R359). -/
def State.doe1 (s : State) (object : String) (status : Nat) (payload : List Nat) : State :=
  (s.send (.doe true object status payload)).msi true 8

/-! Vorast objects (R337, R349). -/

/-- Object types of R337. -/
def objWaybillWrite : Nat := 0x01
def objEnrol : Nat := 0x02
def objSetMinSeq : Nat := 0x03
def objRestart : Nat := 0x04
def objStartRetry : Nat := 0x05
def objStatus : Nat := 0x06

/-- The DWs of an object (R349): vendor ID and object type, the length in DWs, OBJECT with PART, STATUS, the payload. -/
def vorastDws (object part status : Nat) (payload : List Byte) : List U32 :=
  let n := (payload.length + 3) / 4
  [BitVec.ofNat 32 (0x1F9A + 0x80 * 2 ^ 16), BitVec.ofNat 32 (4 + n), BitVec.ofNat 32 (object + part % 65536 * 2 ^ 16), BitVec.ofNat 32 status] ++
    (List.range n).map (fun i => BitVec.ofNat 32 (leNat (sliceBytes payload (4 * i) 4)))

/-- The one response to a Vorast object, with its vector (R349, R359). It carries the request's OBJECT and PART. -/
def State.answer (s : State) (object part status : Nat) (payload : List Byte) : State :=
  (s.send (.vorast true (vorastDws object part status payload))).msi true 8

/-- A request that did not come through function 1 is refused there (R337). -/
def State.answerFn0 (s : State) (object : Nat) : State := s.send (.vorast false (vorastDws object 0 1 []))

/-- The first part of an upload empties the staging slot. -/
def State.clearStaging (s : State) : State :=
  let s1 := { s with flash := { s.flash with slots := s.flash.slots.set s.stagingSlot none } }
  (s1.putBoot { s1.bootDir with stagedPending := false }).set F.MGT_BOOTSTAT_STAGED_PENDING 0

/-- The image of an upload is verified and staged, or refused with its reason (R337, R338). -/
def State.stage (s : State) (part : Nat) (img : WaybillImage) : State :=
  let r := verifyRead s.start.ownerNow img
  if r == 0 then
    let s1 := { s with flash := { s.flash with slots := s.flash.slots.set s.stagingSlot (some img) } }
    ((s1.putBoot { s1.bootDir with stagedPending := true }).set F.MGT_BOOTSTAT_STAGED_PENDING 1).answer objWaybillWrite part 0 []
  else (s.flag F.MGT_BOOTSTAT_STAGED_REJECTED).answer objWaybillWrite part 4 [BitVec.ofNat 8 r]

/-- WAYBILL_WRITE (R337, R338, R349): a part of an image for the slot that is not active, up to 256 KiB; the last part has the image verified.
`img` holds the bytes of the part; the last part tells what the whole image's signature and sections say. -/
def execWaybillWrite (part : BitVec 16) (last : Bool) (img : WaybillImage) (s : State) : Res :=
  let p := part.toNat
  if !s.innkUp then .next s
  else if p != s.start.upload.getD 0 then .next (s.dropUpload.answer objWaybillWrite p 3 [])
  else if 0x40000 < img.bytes.length then .next (s.answer objWaybillWrite p 1 [])
  else
    let s1 := (if p == 0 then s.clearStaging else s).flashAccess
    let all := if p == 0 then img.bytes else s1.start.uploadBytes ++ img.bytes
    if last then .next (s1.dropUpload.stage p { img with bytes := all })
    else .next ({ s1 with start := { s1.start with upload := some (p + 1), uploadBytes := all } }.answer objWaybillWrite p 0 [])

/-- A signature that ENROL needs: a key certified under the ROM root, and the enrolled owner's (R337). -/
def State.enrolSigned (s : State) (sig : Signed) : Bool :=
  sig.root && (match s.flash.owner with | some o => sig.keys.contains o.key | none => true)

/-- ENROL (R337): a new owner key, in force at the next start. Without the keys of R334 (minimal mode after ROM_KAT or PUF_FAIL) no record can be
signed, and the request is refused (DEDUCED, log entry 78). -/
def execEnrol (key : BitVec 1064) (devIdDigest : Digest) (nonce : BitVec 256) (sig : Signed) (s : State) : Res :=
  if !s.innkUp then .next s
  else if !s.enrolSigned sig then .next (s.answer objEnrol 0 2 [])
  else if !s.start.keysOk || s.start.nonceCount == 0 || nonce != Config.nonce (s.start.nonceCount - 1) || devIdDigest != s.start.deviceId then
    .next (s.answer objEnrol 0 1 [])
  else
    let o : Owner := match s.flash.owner with
      | some o => makeOwner key o.minSeq (o.enrolCount + 1)
      | none => makeOwner key 0 1
    let s1 := s.flashAccess
    .next ({ s1 with
      flash := { s1.flash with owner := some o }, start := { s1.start with nonceCount := s1.start.nonceCount + 1 } }.answer objEnrol 0 0 [])

/-- SEQ of the active Waybill. -/
def State.activeSeq (s : State) : Nat :=
  match s.flash.slots[s.activeSlot] with
  | some g => g.hdr.seqNo.toNat
  | none => 0

/-- MIN_SEQ of the owner record rises (R336). -/
def raiseMinSeq (value : Nat) (o : Owner) : Owner := makeOwner o.key (Nat.max o.minSeq value) o.enrolCount

/-- SET_MIN_SEQ (R336, R337): MIN_SEQ never decreases. -/
def execSetMinSeq (value : U32) (sig : Signed) (s : State) : Res :=
  if !s.innkUp then .next s else
  match s.start.ownerNow with
  | none => .next (s.answer objSetMinSeq 0 2 [])
  | some o =>
    if !sig.keys.contains o.key then .next (s.answer objSetMinSeq 0 2 [])
    else if decide (o.minSeq ≤ value.toNat ∧ value.toNat ≤ s.activeSeq) then
      let up := raiseMinSeq value.toNat
      let s1 := s.flashAccess
      let s2 := { s1 with
        flash := { s1.flash with owner := s1.flash.owner.map up }, start := { s1.start with ownerNow := some (up o) } }
      .next ((s2.set F.MGT_WAYBILL_MIN_SEQ value.toNat).answer objSetMinSeq 0 0 [])
    else .next (s.answer objSetMinSeq 0 1 [])

/-- A start is in progress (R339, R349). -/
def State.starting (s : State) : Bool := s.mode == 0

/-- RESTART with AT_BOUNDARY (R339): at the first boundary after any pending decision. A module that has tripped takes no boundary, and
restarts at once; minimal mode, which only START_RETRY ends (R341), refuses (DEDUCED, log entry 79). -/
def execRestartAtBoundary (fromFn1 : Bool) (env : StartEnv) (s : State) : Res :=
  if !s.innkUp then .next s
  else if !fromFn1 then .next (s.answerFn0 objRestart)
  else if s.starting then
    .next ({ s with start := { s.start with restartHeld := some (.atBoundary, env) } }.answer objRestart 0 5 [])
  else if s.mode == 2 then .next (s.answer objRestart 0 1 [])
  else if s.tripped then (s.answer objRestart 0 0 []).startAgain env false
  else .next ({ s with start := { s.start with restartAtBoundary := some env } }.answer objRestart 0 0 [])

/-- RESTART with IMMEDIATE (R339): at once, from step 4; refused in minimal mode (R341). -/
def execRestartImmediate (fromFn1 : Bool) (env : StartEnv) (s : State) : Res :=
  if !s.innkUp then .next s
  else if !fromFn1 then .next (s.answerFn0 objRestart)
  else if s.starting then
    .next ({ s with start := { s.start with restartHeld := some (.immediate, env) } }.answer objRestart 0 5 [])
  else if s.mode == 2 then .next (s.answer objRestart 0 1 [])
  else (s.answer objRestart 0 0 []).startAgain env false

/-- START_RETRY (R341): in minimal mode, the count of failed starts is cleared and a start begins at step 4. -/
def execStartRetry (fromFn1 : Bool) (env : StartEnv) (s : State) : Res :=
  if !s.innkUp then .next s
  else if !fromFn1 then .next (s.answerFn0 objStartRetry)
  else if s.mode != 2 then .next (s.answer objStartRetry 0 1 [])
  else
    let s1 := { s with
      start := { s.start with consec := 0, noRetry := false }, ledger := { s.ledger with consecFail := 0 } }
    (s1.answer objStartRetry 0 0 []).startAgain env false

/-- STATUS (R337): MGT_BOOTSTAT, MGT_WAYBILL and a fresh nonce. -/
def execStatus (s : State) : Res :=
  if !s.innkUp then .next s else
  let n := s.start.nonceCount
  let s1 := s.answer objStatus 0 0 (leBytes 8 (s.rd 8).toNat ++ leBytes 8 (s.rd 0x10).toNat ++ leBytes 32 (Config.nonce n).toNat)
  .next { s1 with start := { s1.start with nonceCount := n + 1 } }

/-- DOE_DISCOVERY (R348): the protocol at an index and the next index, 0 after the last. -/
def execDoeDiscovery (fn1 : Bool) (index : Nat) (s : State) : Res :=
  if !s.innkUp then .next s else
  let l := doeProtocols fn1
  let next := if index + 1 < l.length then index + 1 else 0
  let pay := match l[index]? with
    | some p => [p.1, p.2, next]
    | none => [0xFFFF, 0xFF, 0]
  if fn1 then .next (s.doe1 "DISCOVERY" 0 pay) else .next (s.send (.doe false "DISCOVERY" 0 pay))

/-- Bytes as the numbers of a payload. -/
def nats (l : List Byte) : List Nat := l.map (fun b => b.toNat)

/-- CXL_TABLE_ACCESS (R348): an entry of the CDAT. -/
def execCxlTableAccess (entry : Nat) (s : State) : Res :=
  if !s.innkUp then .next s else .next (s.send (.doe false "CDAT" 0 (entry :: nats (Config.cdat entry s.hdmSize))))

/-! SPDM 1.2 (R342). Responses are named; their bytes are those of the SPDM specification. -/

/-- GET_VERSION: version 1.2 alone. -/
def execGetVersion (s : State) : Res := if s.innkUp then .next (s.doe1 "VERSION" 0 [0x12]) else .next s

/-- GET_CAPABILITIES: CTExponent 17; CERT_CAP, CHAL_CAP, MEAS_CAP with signature (bits 1, 2 and 4:3 of the SPDM flags). -/
def execGetCapabilities (s : State) : Res := if s.innkUp then .next (s.doe1 "CAPABILITIES" 0 [17, 0x16]) else .next s

/-- NEGOTIATE_ALGORITHMS: ECDSA P-521, SHA-512, measurement SHA-512, the DMTF measurement specification. -/
def execNegotiateAlgorithms (s : State) : Res := if s.innkUp then .next (s.doe1 "ALGORITHMS" 0 [521, 512, 512, 1]) else .next s

/-- Signing keys are there: not so in minimal mode after ROM_KAT or PUF_FAIL (R341). -/
def State.canSign (s : State) : Bool := s.start.keysOk

/-- What the running Waybill gives the Alias key and certificate: header digest, OWNER_KEY_ID, SEQ; zeros where no Waybill runs. -/
def State.aliasOf (s : State) : Digest × BitVec 128 × Nat :=
  match s.wb with
  | some g => (g.hdrDigest, g.hdr.ownerKeyId, g.hdr.seqNo.toNat)
  | none => (0, 0, 0)

/-- The Alias public key of this start (R334). -/
def State.aliasKey (s : State) : BitVec 1064 := aliasKeyOf s.aliasOf.1 s.aliasOf.2.1

/-- The Alias certificate of this start, which the DeviceID key issues (R335). -/
def State.aliasCert (s : State) : List Byte :=
  let a := s.aliasOf
  Config.aliasCert s.aliasKey deviceKey [Config.romDigest.toNat, a.1.toNat, a.2.2, a.2.1.toNat, s.get F.MGT_BOOTSTAT_REASON, s.mode]

/-- The certificate chain in slot 0 (R335, R342): the certificates in their order, behind the length and the root's digest that SPDM 1.2 puts
before them (PRESUMED, log entry 78). Without the keys of R334 no Alias certificate is issued. -/
def State.certChain (s : State) : List Byte :=
  let certs := Config.vorastCert 0 ++ Config.vorastCert 1 ++ Config.vorastCert 2 ++ (if s.canSign then s.aliasCert else [])
  leBytes 2 (68 + certs.length) ++ leBytes 2 0 ++ sha512Bytes (Config.vorastCert 0) ++ certs

/-- GET_DIGESTS: slot 0 alone, with the SHA-512 of its chain. -/
def execGetDigests (s : State) : Res :=
  if s.innkUp then .next (s.doe1 "DIGESTS" 0 (1 :: nats (sha512Bytes s.certChain))) else .next s

/-- ERROR codes of SPDM. -/
def spdmInvalid : Nat := 0x01
def spdmUnspecified : Nat := 0x05
def spdmUnsupported : Nat := 0x07

/-- GET_CERTIFICATE: a portion of the chain of R335 in slot 0: slot, the bytes it has, the bytes that remain, the bytes. -/
def execGetCertificate (slot off len : Nat) (s : State) : Res :=
  let l := s.certChain
  if !s.innkUp then .next s
  else if slot != 0 || decide (l.length ≤ off) then .next (s.doe1 "ERROR" 0 [spdmInvalid])
  else
    let part := (l.drop off).take len
    .next (s.doe1 "CERTIFICATE" 0 ([0, part.length, l.length - off - part.length] ++ nats part))

/-- CHALLENGE: signed with the Alias key. -/
def execChallenge (slot : Nat) (nonce : BitVec 256) (s : State) : Res :=
  if !s.innkUp then .next s
  else if !s.canSign then .next (s.doe1 "ERROR" 0 [spdmUnspecified])
  else if slot != 0 then .next (s.doe1 "ERROR" 0 [spdmInvalid])
  else .next (s.doe1 "CHALLENGE_AUTH" 0 ([nonce.toNat, s.aliasKey.toNat] ++ nats (sha512Bytes s.certChain)))

/-- Measurement block of an index (R343). -/
def State.measurement (s : State) (i : Nat) : List Nat :=
  let st := s.start.straps
  if i == 1 then [1, Config.romDigest.toNat]
  else if i == 2 then [2, match s.wb with | some g => g.hdrDigest.toNat | none => 0]
  else if i == 3 then [3, match s.start.ownerNow with | some o => (keyDigest o.key).toNat | none => 0]
  else if i == 4 then [4, (Config.strapDigest (s.rd 0).toNat st.xtalWait.toNat st.feedId.toNat st.moduleSlot.toNat).toNat]
  else if i == 5 then [5, (s.rd 8).toNat, (s.rd 0x10).toNat]
  else []

/-- GET_MEASUREMENTS (R343): index 0 asks for the number of blocks, 0xFF for all. -/
def execGetMeasurements (index : Nat) (signed : Bool) (nonce : BitVec 256) (s : State) : Res :=
  if !s.innkUp then .next s
  else if signed && !s.canSign then .next (s.doe1 "ERROR" 0 [spdmUnspecified])
  else
    let tail := if signed then [nonce.toNat, s.aliasKey.toNat] else []
    if index == 0 then .next (s.doe1 "MEASUREMENTS" 0 (5 :: tail))
    else if index == 0xFF then .next (s.doe1 "MEASUREMENTS" 0 ([1, 2, 3, 4, 5].flatMap s.measurement ++ tail))
    else if index ≤ 5 then .next (s.doe1 "MEASUREMENTS" 0 (s.measurement index ++ tail))
    else .next (s.doe1 "ERROR" 0 [spdmInvalid])

/-- SPDM_UNSUPPORTED_REQUEST (R342): ERROR UnsupportedRequest. -/
def execSpdmUnsupportedRequest (code : Byte) (s : State) : Res :=
  if s.innkUp then .next (s.doe1 "ERROR" 0 [spdmUnsupported, code.toNat]) else .next s

end Sys2Proof.Machine
end

