-- ==== Sys2Proof/Machine/Kiln.lean ====
section
/-! DEFINITION. The meanings of the Kiln commands (R195 to R198): each runs as `State.opKiln` with its function. -/

namespace Sys2Proof.Machine

/-- EXP (R195). -/
def execExp (k : EngIx) (n : TileIx) (d : BitVec 256) (s : State) : Res := .next (s.issue (.exp k n d))

/-- LOG (R195). -/
def execLog (k : EngIx) (n : TileIx) (d : BitVec 256) (s : State) : Res := .next (s.issue (.log k n d))

/-- RECIP (R195). -/
def execRecip (k : EngIx) (n : TileIx) (d : BitVec 256) (s : State) : Res := .next (s.issue (.recip k n d))

/-- RSQRT (R195). -/
def execRsqrt (k : EngIx) (n : TileIx) (d : BitVec 256) (s : State) : Res := .next (s.issue (.rsqrt k n d))

/-- TANH (R195). -/
def execTanh (k : EngIx) (n : TileIx) (d : BitVec 256) (s : State) : Res := .next (s.issue (.tanh k n d))

/-- SIGMOID (R195). -/
def execSigmoid (k : EngIx) (n : TileIx) (d : BitVec 256) (s : State) : Res := .next (s.issue (.sigmoid k n d))

end Sys2Proof.Machine
end

