-- ==== Sys2Proof/Machine/Ladle.lean ====
section
/-! DEFINITION. The meanings of the Ladle commands (R76 to R105). -/

namespace Sys2Proof.Machine

/-- OPERAND_IN (R81): Ladle A or B converts or delivers an operand; `State.opOperand` at the head of its queue. -/
def execOperandIn (n : TileIx) (l : Fin 4) (d : BitVec 512) (s : State) : Res := .next (s.issue (.operandIn n l d))

/-- TRANSPOSE_IN (R81, R93): the T Ladle delivers a transposed operand; `State.opOperand`. -/
def execTransposeIn (n : TileIx) (l : Fin 4) (d : BitVec 512) (s : State) : Res := .next (s.issue (.transposeIn n l d))

/-- CONVERT (R78, R81, R93): the T Ladle converts into tile memory; `State.opConvertCmd`. -/
def execConvert (n : TileIx) (l : Fin 4) (d : BitVec 512) (s : State) : Res := .next (s.issue (.convert n l d))

/-- RESULT_OUT (R94): the result-out Ladle reads a Crucible slot; `State.opResultOutCmd`. -/
def execResultOut (n : TileIx) (l : Fin 4) (d : BitVec 512) (s : State) : Res := .next (s.issue (.resultOut n l d))

end Sys2Proof.Machine
end

