-- ==== Sys2Proof/Machine/Links.lean ====
section
/-! DEFINITION. The meanings of the link commands: training and identification (R265 to R269), acknowledgement and resends (R273), codewords
(R264, R269), and period alignment (R295, R296). -/

namespace Sys2Proof.Machine

/-! Training. -/

/-- Lanes of a port (R262). -/
def fullLanes (p : Nat) : Nat := if p == 17 then 8 else 4

/-- The lanes a port runs with of `usable` ones; 0 where they are fewer than half width (R265). -/
def laneWidth (p usable : Nat) : Nat :=
  if fullLanes p ≤ usable then fullLanes p else if fullLanes p ≤ 2 * usable then fullLanes p / 2 else 0

/-- A port goes DOWN for good under R265 or R269: it is fenced (R373). -/
def State.portLost (s : State) (p : Nat) : State := s.fenceUnit clsPort p 0x0A

/-- The port runs at a width, DEGRADED where it is not the full one (R265). -/
def State.setWidth (s : State) (p w : Nat) : State :=
  (s.set (F.LINK_PORT_STAT_WIDTH p) w).flagIf (w != fullLanes p) (F.LINK_PORT_STAT_DEGRADED p)

/-- The port has been UP since the start: what trains now is a retrain (R267, R269). -/
def State.retraining (s : State) (p : Nat) : Bool := s.get (F.LINK_PORT_STAT_RETRAINS p) != 0

/-- A training stage fails: the third consecutive failed retrain, or the first training, leaves the port DOWN (R269). -/
def State.trainFail (s : State) (p : PortIx) : State :=
  if !s.retraining p.val then s.portDown p.val else
  let x := s.port p
  let s1 := s.setPort p { x with retrainFails := x.retrainFails + 1 }
  if 3 ≤ x.retrainFails + 1 then s1.portLost p.val else s1.retrain p

/-- After an event of a port, step 9 ends once none still trains (R324), and collectives that waited for the port go on (R284, R291,
R294). -/
def State.portEvent (s : State) : State := s.portsSettled.settle

/-! Identification (R268). -/

/-- The module's own IDENT frame (R268, R272): the role of a module is 0, and FEED_ID is carried on port P only. -/
def State.sendIdent (s : State) (p : PortIx) : State :=
  s.sendControl p 1 ([s.get F.LINK_IDENT_GEN_MIN, s.get F.LINK_IDENT_GEN_MAX, s.get F.LINK_IDENT_MEMBER_ID, p.val, s.get F.LINK_IDENT_JOB_TAG, 0] ++
    (if p.val == 17 then [s.get F.LINK_PAIR_STATUS_OWN_FEED] else []))

/-- The 16 requests of the latency probe leave, with their send time in CORE cycles (R267, R272). -/
def State.sendProbes (s : State) (p : PortIx) : State :=
  (s.setPort p { s.port p with trips := [] }).forEach (List.range 16) (fun s _ => s.sendControl p 2 [s.perfCyc 0, 0])

/-- The generation both ends agree on exists. -/
def State.genOk (s : State) (b : IdentBody) : Bool :=
  decide (Nat.max (s.get F.LINK_IDENT_GEN_MIN) b.genMin ≤ Nat.min (s.get F.LINK_IDENT_GEN_MAX) b.genMax)

/-- The peer of a mesh port, of a bridge port and of port P (R263, R268). -/
def State.wiredOk (s : State) (p : Nat) (b : IdentBody) : Bool :=
  let own := s.get F.LINK_IDENT_MEMBER_ID
  let peer := b.memberId.toNat
  if p ≤ 14 then !b.bridge && peer / 16 == own / 16 && peer % 16 == (own % 16 + p + 1) % 16 && b.port == 14 - p
  else if p ≤ 16 then b.bridge && b.plane == p - 15
  else !b.bridge && peer == own ^^^ 0x400

/-- SHARED_FEED (R399). -/
def sharedFeed (own peer : Nat) : Bool := own == peer || own == 0 || peer == 0

/-- Frames unacknowledged when the port went down take the numbers 0, 1, … of the new sequence (R273). -/
def renumber : Nat → List SentFrame → List SentFrame
  | _, [] => []
  | i, f :: fs => { f with link := { f.link with seqNo := BitVec.ofNat 16 i } } :: renumber (i + 1) fs

/-- A port comes UP: sequences at 0, unacknowledged frames sent again first; the first time, the peer's staging of 64 chunks is credit
(R273, R285). -/
def State.portComesUp (s : State) (p : PortIx) : State :=
  let x := s.port p
  let un := renumber 0 x.unacked
  let s1 := (s.set (F.LINK_PORT_STAT_STATE p.val) 3).setPort p { x with
    txSeq := un.length % 65536, rxSeq := 0, unacked := un, resends := 0, retrainFails := 0
    credits := if s.retraining p.val then x.credits else 64 }
  let s2 := (s1.forEach un (fun s f => s.resendOne p f)).bump (F.LINK_PORT_ERR_REPLAYS p.val) un.length
  pumpPort p (x.waiting.length + 1) s2

/-- Port P identified its partner: the feeds are compared and a partner refresh is due (R390, R399). -/
def State.pairUp (s : State) (feed : Nat) : State :=
  ((s.set F.LINK_PAIR_STATUS_PEER_FEED feed).setB F.LINK_PAIR_STATUS_SHARED_FEED
    (sharedFeed (s.get F.LINK_PAIR_STATUS_OWN_FEED) feed)).castTrigger

/-- IDENT (R268): every check is made. The agreed generation leads to the latency probe, after which the port is UP (R267); a failing row leads to
DOWN with its flag. -/
def execIdent (p : PortIx) (body : Option IdentBody) (s : State) : Res :=
  if !s.blocksUp || s.portState p.val != 2 then .next s else
  match body with
  | none => .next (s.portDown p.val).portEvent
  | some b =>
    let gen := s.genOk b
    let job := b.jobTag.toNat == s.get F.LINK_IDENT_JOB_TAG
    let wired := s.wiredOk p.val b
    let s1 := if p.val == 17 then s.set F.LINK_PAIR_STATUS_PEER_FEED b.feedId.toNat else s
    if gen && job && wired then
      let peer := if p.val == 15 || p.val == 16 then b.bridgePort.toNat else b.memberId.toNat
      let s2 := (s1.set (F.LINK_PORT_STAT_GEN p.val) (Nat.min (s1.get F.LINK_IDENT_GEN_MAX) b.genMax)).set (F.LINK_PORT_STAT_PEER_ID p.val) peer
      .next (s2.sendProbes p)
    else
      let s2 := ((s1.flagIf (!gen) (F.LINK_PORT_STAT_GEN_MISMATCH p.val)).flagIf (!job) (F.LINK_PORT_STAT_JOB_MISMATCH p.val)).flagIf
        (!wired) (F.LINK_PORT_STAT_MISWIRED p.val)
      let s3 := if p.val == 17 then s2.setB F.LINK_PAIR_STATUS_SHARED_FEED
        (sharedFeed (s2.get F.LINK_PAIR_STATUS_OWN_FEED) b.feedId.toNat) else s2
      .next (s3.portDown p.val).portEvent

/-- PROBE (R267, R272): a request, whose echo time is 0, is echoed with the time of its arrival in CORE cycles; an echo of the module's own request
is one of its 16 round trips. -/
def execProbe (p : PortIx) (body : ProbeBody) (arrival : U64) (s : State) : Res :=
  if !s.blocksUp || (s.portState p.val != 2 && s.portState p.val != 3) then .next s else
  let x := s.port p
  if body.echoTime == 0 then
    .next ((s.setPort p { x with probes := x.probes + 1 }).sendControl p 2 [body.sendTime.toNat, arrival.toNat])
  else if s.portState p.val == 2 && decide (x.trips.length < 16) then
    .next (s.setPort p { x with trips := (arrival - body.sendTime).toNat :: x.trips })
  else .next s

/-- The one-way latency in nanoseconds: half the mean of the 16 round trips (R267). -/
def State.oneWayNs (s : State) (p : PortIx) : Nat :=
  ((s.port p).trips.foldl (· + ·) 0) * 1000 / (32 * s.get F.CLK_CFG_CORE_MHZ)

/-- The latency probe of an identified port is complete. -/
def State.probed (s : State) (p : PortIx) : Bool :=
  s.portState p.val == 2 && s.get (F.LINK_PORT_STAT_GEN p.val) != 0 && (s.port p).trips.length == 16

/-- The port is UP after its latency probe (R267); port P then compares the feeds. -/
def State.probeDone (s : State) (p : PortIx) : State :=
  let ns := s.oneWayNs p
  let s1 := ((s.setPort p { s.port p with latNs := ns }).set (F.LINK_PORT_STAT_LAT p.val) (Nat.min 255 (ns / 4))).portComesUp p
  if p.val == 17 then s1.pairUp (s1.get F.LINK_PAIR_STATUS_PEER_FEED) else s1

/-- The electrical stage ends with `lanes` usable lanes (R265, R267): a port with fewer than half width is DOWN. -/
def State.electricalDone (s : State) (p : PortIx) (lanes : Nat) : State :=
  if laneWidth p.val lanes == 0 then (if s.retraining p.val then s.portLost p.val else s.portDown p.val)
  else (s.setWidth p.val (laneWidth p.val lanes)).set (F.LINK_PORT_STAT_STATE p.val) 1

/-- PORT_TRAINING_DONE (R267): what a stage of training leaves. The identification stage ends by its IDENT frames. -/
def execPortTrainingDone (p : PortIx) (st : TrainStage) (s : State) : Res :=
  let ps := s.portState p.val
  if !s.blocksUp then .next s else
  match st with
  | .electrical lanes => if ps != 1 && ps != 4 then .next s else .next (s.electricalDone p lanes).portEvent
  | .fecLock ok =>
    if ps != 1 || s.get (F.LINK_PORT_STAT_WIDTH p.val) == 0 then .next s
    else if ok then .next ((s.set (F.LINK_PORT_STAT_STATE p.val) 2).sendIdent p)
    else .next (s.trainFail p).portEvent
  | .identification => .next s
  | .latency ok =>
    if ps != 2 then .next s
    else if !ok then .next (s.trainFail p).portEvent
    else if s.probed p then .next (s.probeDone p).portEvent else .next s

/-! Service. -/

/-- LANE_FAIL (R265): in training or in service, half width, or DOWN. A width that the electrical stage has yet to settle is settled there. -/
def execLaneFail (p : PortIx) (usable : Nat) (s : State) : Res :=
  let ps := s.portState p.val
  if !s.blocksUp || ps == 0 || ps == 5 then .next s
  else if laneWidth p.val usable == 0 then
    .next (if ps == 3 || s.retraining p.val then s.portLost p.val else s.portDown p.val).portEvent
  else if ps == 1 && s.get (F.LINK_PORT_STAT_WIDTH p.val) == 0 then
    .next (s.flagIf (laneWidth p.val usable != fullLanes p.val) (F.LINK_PORT_STAT_DEGRADED p.val))
  else .next (s.setWidth p.val (laneWidth p.val usable))

/-- LINK_ACK (R270, R273): the header of a received frame; one of another generation is discarded and counted (R269). -/
def execLinkAck (p : PortIx) (hdr : LinkHeader) (s : State) : Res :=
  if !s.portUp p.val then .next s
  else if hdr.gen.toNat != s.get (F.LINK_PORT_STAT_GEN p.val) then .next (s.bump (F.LINK_PORT_ERR_REPLAYS p.val) 1)
  else if 1 < hdr.ftype.toNat then .next s
  else .next (s.takeAck p hdr)

/-- RESEND_TIMEOUT (R273): 4 µs without acknowledgement. -/
def execResendTimeout (p : PortIx) (s : State) : Res :=
  if s.portUp p.val then .next (s.resendAll p) else .next s

/-- Codewords of 544 symbols of 10 bits that a port receives in 1 ms at its width: 112 Gb/s on each lane (R264). -/
def codewordsPerMs (lanes : Nat) : Nat := lanes * 112000000 / 5440

/-- UNCORRECTABLE_CODEWORD (R264, R269): the frames in it are lost, and more than one in 10⁶ over 1 ms starts a retrain. -/
def execUncorrectableCodeword (p : PortIx) (s : State) : Res :=
  if !s.portUp p.val then .next s else
  let x := s.port p
  let fresh := decide (x.uncorrAt + 3125 ≤ s.aon)
  let n := if fresh then 1 else x.uncorrMs + 1
  let s1 := s.setPort p { x with uncorrMs := n, uncorrAt := if fresh then s.aon else x.uncorrAt }
  let s2 := (s1.bump (F.LINK_PORT_ERR_FEC_UNCORR p.val) 1).sendAck p true
  if codewordsPerMs (s.get (F.LINK_PORT_STAT_WIDTH p.val)) < n * 1000000 then .next (s2.retrain p) else .next s2

/-! Alignment (R295, R296). -/

/-- A marker leaves on every UP port but `skip`. -/
def State.sendMarker (s : State) (skip : Nat) (period phaseTick corr : Nat) : State :=
  s.forEach allPorts (fun s p =>
    if s.portUp p.val && p.val != skip then s.sendControl p 8 [period, phaseTick, corr] else s)

/-- The tick of the period at which the master's next marker is due. -/
def State.markerDue (s : State) : Nat :=
  let at0 := s.phaseTick
  let sent := s.period.lastMarker == some (s.get F.MGT_PERIOD_STAT_PERIOD_NUM, at0)
  if at0 % 31250 == 0 && !sent then at0 else (at0 / 31250 + 1) * 31250

/-- MARKER_SEND (R295): the master's marker, at tick 0 and every 31,250 ticks. Its own marker aligns the master. -/
def execMarkerSend (s : State) : Res :=
  if !s.running || !s.period.inPeriod || !s.on F.LINK_ALIGN_MASTER || s.get F.MGT_PERIOD_CFG0_PERIOD_TICKS ≤ s.markerDue then .next s else
  let s1 := s.toTick (s.periodStart + s.markerDue)
  let num := s1.get F.MGT_PERIOD_STAT_PERIOD_NUM
  let s2 := { s1 with period := { s1.period with lastMarker := some (num, s1.phaseTick), markerSeen := true, markerAt := s1.aon } }
  .next ((s2.set F.LINK_ALIGN_ALIGNED 1).sendMarker 18 num s1.phaseTick 0)

/-- How late the module is, in nanoseconds: the master's phase at arrival less its own, to the nearest whole period; and the period number that
belongs to the module's own phase (R296). -/
def State.lateness (s : State) (period : Nat) (est own : Int) : Int × Nat :=
  let p : Int := s.get F.MGT_PERIOD_CFG0_PERIOD_TICKS * 320
  let raw := est - own
  if p < 2 * raw then (raw - p, (period + 1) % 2 ^ 32)
  else if 2 * raw < -p then (raw + p, (period + 2 ^ 32 - 1) % 2 ^ 32)
  else (raw, period)

/-- Two consecutive markers within 2 µs are owed after ALIGN_LOST; 3 stands for the one marker owed after a silence (R296). -/
def owedAfter (owed : Nat) (near far : Bool) : Nat :=
  if far then 2
  else if near then (if owed == 2 then 1 else 0)
  else if owed == 1 then 2 else owed

/-- The first copy of a marker (R296). -/
def State.takeMarker (s : State) (period : Nat) (late : Int) (num : Nat) (key : Nat × Nat) : State :=
  let near := decide (late.natAbs ≤ 2000)
  let far := decide (10000 < late.natAbs)
  let owed := owedAfter s.period.alignOwed near far
  let s1 := (s.set F.LINK_ALIGN_MISSED 0).set F.LINK_ALIGN_OFFSET (ofSigned 24 late)
  let s2 := (s1.flagIf (!near && !far) F.LINK_ALIGN_STEP_CORR).flagIf far F.LINK_ALIGN_ALIGN_LOST
  let jump := if num == s2.get F.MGT_PERIOD_STAT_PERIOD_NUM then s2.period.jump else some (num, period)
  let s3 := { s2 with
    period := { s2.period with alignOwed := owed, markerSeen := true, markerAt := s2.aon, lastMarker := some key
                               sleepCorr := if near then s2.period.sleepCorr else late, jump := jump } }
  s3.setB F.LINK_ALIGN_ALIGNED (owed == 0)

/-- MARKER (R295, R296): the first copy aligns the module; one received on port P goes on to the module's own pod and bridges. -/
def execMarker (p : PortIx) (period phaseTick : U32) (corrNs : Nat) (ownPhaseNs : Int) (s : State) : Res :=
  if !s.running || !s.portUp p.val then .next s else
  let lat := (s.port p).latNs
  let key := (period.toNat, phaseTick.toNat)
  let s1 := if p.val == 17 then s.sendMarker 17 period.toNat phaseTick.toNat (corrNs + lat) else s
  if s1.on F.LINK_ALIGN_MASTER || s1.period.lastMarker == some key then .next s1 else
  let (late, num) := s1.lateness period.toNat (phaseTick.toNat * 320 + corrNs + lat) ownPhaseNs
  .next (s1.takeMarker period.toNat late num key)

/-- MARKER_MISSED (R296): an interval of 10 ms without a marker. -/
def execMarkerMissed (s : State) : Res :=
  if !s.running || s.on F.LINK_ALIGN_MASTER then .next s else
  .next ((s.toTick (s.period.markerAt + 31250 * (s.get F.LINK_ALIGN_MISSED + 1))).bump F.LINK_ALIGN_MISSED 1)

/-- MARKER_LOSS_TIMEOUT (R296): no marker for 10 s. -/
def execMarkerLossTimeout (s : State) : Res :=
  if !s.running || s.on F.LINK_ALIGN_MASTER then .next s else
  let s1 := s.toTick (s.period.markerAt + 31250000)
  let owed := if s1.period.alignOwed == 0 then 3 else s1.period.alignOwed
  let s2 := { s1 with period := { s1.period with alignOwed := owed } }
  .next ((s2.flag F.LINK_ALIGN_ALIGN_LOST).set F.LINK_ALIGN_ALIGNED 0)

end Sys2Proof.Machine
end

