-- ==== Sys2Proof/Machine/Matrix.lean ====
section
/-! DEFINITION. The meanings of the matrix commands (R109 to R133) and of the combine (R136 to R138). -/

namespace Sys2Proof.Machine

/-- MATMUL (R109 to R133): `State.opMatmulCmd` once both operands are at their ports. -/
def execMatmul (n : TileIx) (d : BitVec 256) (stalls : Nat) (upsets : List Upset) (s : State) : Res := .next (s.issue (.matmul n d stalls upsets))

/-- CRU_COPY (R120): `State.opCruCopyCmd`. -/
def execCruCopy (n : TileIx) (d : BitVec 256) (s : State) : Res := .next (s.issue (.cruCopy n d))

/-- SPLIT_COMBINE (R136 to R138): `State.opSplitCombine`. -/
def execSplitCombine (n : TileIx) (c : CombineCmd) (s : State) : Res :=
  if !s.mayPost (.splitCombine n c) then .next s else
  let s1 := s.partsArrive n c
  .next (if s.combineWaits n c.plan then s1.settle else s1.issue (.splitCombine n c))

end Sys2Proof.Machine
end

