-- ==== Sys2Proof/Machine/TrainOps.lean ====
section
/-! DEFINITION. What S0 of a training step does (R147, R149): stash placement (R233), range parameters (R91), optimiser scalars (R170), counts
of the step. -/

namespace Sys2Proof.Machine

/-! Stash placement (R232, R233). -/

/-- Where one share of a layer's stash stands: in the Cellar or the Larder, its module or tile address, its bytes. -/
structure Share where
  tile    : Nat
  cellar  : Bool
  address : Nat
  bytes   : Nat
  deriving DecidableEq, Repr

/-- Bytes of the Larder of every tile. -/
def State.larderSize (s : State) : Nat := s.get F.MEM_LARDER_CFG_LARDER_SIZE * 0x10000

/-- Bytes of the Cellar of stack k, after the cut of R230. -/
def State.cellarOf (s : State) (k : Nat) : Nat := if h : k < 32 then s.mem.cellar[k] else 0

/-- The space in use on each tile: Larder bytes and Cellar bytes, by tile. -/
abbrev StashUse := Sparse Nat × Sparse Nat

/-- Place one share of a layer (R233, step 1); in the Cellar it begins with a burst of 2 KiB (R234; DEDUCED, log entry 74). -/
def State.placeShare (s : State) (u : StashUse) (t bytes : Nat) : Option (StashUse × Share) :=
  let lu := Sparse.getD u.1 t 0
  let cu := roundUp (Sparse.getD u.2 t 0) 2048
  let k := t / 2
  let half := s.cellarOf k / 2
  if lu + bytes ≤ s.larderSize then
    some ((Sparse.insert u.1 t (lu + bytes), u.2), ⟨t, false, 0x600000 - s.larderSize + lu, bytes⟩)
  else if cu + bytes ≤ half then
    some ((u.1, Sparse.insert u.2 t (cu + bytes)),
      ⟨t, true, 0x8000000000 + k * 0x200000000 + s.homeBytes k - s.cellarOf k + t % 2 * half + cu, bytes⟩)
  else none

/-- Place every share of a layer, or none (R233); a share of a fenced tile stands where its work is bound (R236). -/
def State.placeLayer (s : State) : StashUse → List (TileIx × Nat) → Option (StashUse × List Share)
  | u, [] => some (u, [])
  | u, (t, b) :: rest =>
    match s.placeShare u (s.bindTile t.val) b with
    | none => none
    | some (u1, x) => (s.placeLayer u1 rest).map (fun r => (r.1, x :: r.2))

/-- The layers in ascending order: each with its shares, or none where it is not-stashed. -/
def State.placeLayers (s : State) : StashUse → List (List (TileIx × Nat)) → List (Option (List Share))
  | _, [] => []
  | u, l :: rest =>
    match s.placeLayer u l with
    | none => none :: s.placeLayers u rest
    | some (u1, x) => some x :: s.placeLayers u1 rest

/-- STASH_PLACEMENT (R233, R237): no stash is placed in resident layout mode. -/
def State.placeStashes (s : State) : State :=
  if s.get F.MEM_MAP_CFG_LAYOUT_MODE == 1 then s else
  let layers := match s.layout with | some l => l.stash | none => []
  let placed := (s.placeLayers ([], []) layers).zipIdx
  let entries := placed.flatMap (fun e => match e.1 with
    | some l => l.map (fun x => (e.2, x.tile, x.cellar, x.address, x.bytes))
    | none => [])
  let missed := (placed.filter (fun e => e.1.isNone)).map (fun e => e.2)
  let cellars := (placed.filter (fun e => match e.1 with | some l => l.any (fun x => x.cellar) | none => false)).length
  let s1 := { s with mem := { s.mem with stash := entries, notStashed := missed } }
  ((s1.set F.MEM_STASH_STAT_NOT_STASHED (Nat.min 4095 missed.length)).set F.MEM_STASH_STAT_CELLAR_LAYERS (Nat.min 4095 cellars)).set
    F.MEM_STASH_STAT_LARDER_LAYERS (Nat.min 4095 (placed.length - missed.length - cellars))

/-! Optimiser scalars (R170), in FP64. -/

/-- The FP64 value nearest to a value. -/
def to64 (v : Fv) : Fv := binFp64.value (binFp64.code v)

def add64 (a b : Fv) : Fv := to64 (addFv a b)
def mul64 (a b : Fv) : Fv := to64 (mulFv a b)

/-- FP64 division. -/
def div64 (a b : Fv) : Fv :=
  match a, b with
  | .nan, _ => .nan
  | _, .nan => .nan
  | .inf _, .inf _ => .nan
  | .inf x, .fin y _ _ => .inf (x != y)
  | .fin x _ _, .inf y => .fin (x != y) 0 0
  | .fin x m e, .fin y n f =>
    if n = 0 then (if m = 0 then .nan else .inf (x != y))
    else if f ≤ e then binFp64.value (binFp64.roundQuot (x != y) (m * 2 ^ (e - f).toNat) n)
    else binFp64.value (binFp64.roundQuot (x != y) m (n * 2 ^ (f - e).toNat))

/-- β to the power t, rounded once. -/
def pow64 (b : Fv) (t : Nat) : Fv :=
  match b with
  | .nan => .nan
  | .inf x => if t = 0 then .fin false 1 0 else .inf (x && t % 2 == 1)
  | .fin x m e => to64 (.fin (x && t % 2 == 1) (m ^ t) (e * t))

def one64 : Fv := .fin false 1 0

/-- 1 ÷ (1 − βᵗ) as FP32. -/
def biasCorrection (beta : U32) (t : Nat) : U32 := code32 (div64 one64 (add64 one64 (negFv (pow64 (fv32 beta) t))))

/-- η_t: the table interpolated at step number t. -/
def learningRate (table : List (Nat × U32)) (t : Nat) : U32 :=
  let before := table.filter (fun p => decide (p.1 ≤ t))
  let after := table.filter (fun p => decide (t < p.1))
  match before.getLast?, after.head? with
  | some a, some b =>
    let e0 := fv32 a.2
    let rise := add64 (fv32 b.2) (negFv e0)
    code32 (add64 e0 (div64 (mul64 rise (to64 (.fin false (t - a.1) 0))) (to64 (.fin false (b.1 - a.1) 0))))
  | some a, none => a.2
  | none, some b => b.2
  | none, none => 0

/-- η_t, c₁ and c₂ of each optimiser group, at 3 g, 3 g + 1 and 3 g + 2. -/
def optScalars (groups : List OptGroup) (t : Nat) : List (Nat × U32) :=
  groups.zipIdx.flatMap (fun e =>
    [(3 * e.2, learningRate e.1.rate t), (3 * e.2 + 1, biasCorrection e.1.beta1 t), (3 * e.2 + 2, biasCorrection e.1.beta2 t)])

/-! S0. -/

/-- Range parameters committed at the last seal are copied to tile memory (R91). -/
def State.copyRanges (s : State) : State :=
  let l := match s.layout with | some l => l.rangeCopies | none => []
  s.forEach l (fun s c =>
    if s.tileFenced c.tile.val then s else
    let (s1, d, bad) := s.unitRead c.tile true c.src c.bytes
    s1.tileWrite c.tile c.dst d bad)

/-- The flags of the step are clear on a tile (R149, R240), and its deferred queue has not drained (R163). -/
def State.stepTile (s : State) (n : TileIx) : State :=
  let s1 := (s.set (F.TILE_DWQ_STAT_DRAIN_REQ n.val) 0).set (F.TILE_DWQ_STAT_DRAINED n.val) 0
  s1.modTile n (fun t => { t with
    drain := false, nonfin := false, poisonUsed := false, failed := false, cksFailed := false, layer := 0, origin := none
    spill := [], sat := [], part := none, upd := 0 })

/-- Nothing of the last step's stashes is left (R233, R235). -/
def State.clearStashes (s : State) : State :=
  { s with mem := { s.mem with stash := [], notStashed := [], stashBits := [], reached := [], kept := [] } }

/-- S0 of a step (R147): rungs, frames returned by the last commit, counts, stashes, range parameters, optimiser scalars, work items. -/
def State.stepStart (s : State) : State :=
  let s1 := s.applyRungs
  let back := s1.mem.returning
  let s2 := ({ s1 with mem := { s1.mem with returning := [] } }).forEach back.reverse (fun s e => s.freeFrame e.2)
  let s3 := s2.bindWork.forEach allTiles (fun s n => s.stepTile n)
  let s4 := (s3.stepCounts.set F.PWR_SCHED_SKIPS 0).set F.PWR_SCHED_OVERSIZE_STARTS 0
  let s5 := (s4.set F.MEM_STASH_STAT_STASH_POISON 0).set F.MEM_STASH_STAT_RECOMPUTES 0
  let s6 := { (s5.clearStashes.placeStashes.copyRanges) with stallReq := false }
  let groups := match s6.wb with | some w => w.data.optim | none => []
  let s7 := { s6 with
    period := { s6.period with stepActive := true, used := [], optStep := optScalars groups s6.stepNo }
    seals := { s6.seals with votes := [], decided := false, voted := false, late := false } }
  (s7.loadItems 3).schedule

/-- A training step may start (R22, R249, R259, R296, R381, R403, R405, R409, R410). -/
def State.mayTrain (s : State) : Bool :=
  s.running && s.phase == 3 && !s.period.stepActive && s.on F.LINK_ALIGN_ALIGNED && s.get F.SEAL_STAT_SEAL_STATE != 2 &&
    s.get F.SEAL_STAT_SEAL_STATE != 3 && !s.on F.FLT_STAT_EXPELLED && !s.on F.ENG_CAST_CFG_SPARE && !s.cast.evalOnly && !s.restoring &&
    s.get F.ENG_RESTORE_STAT_STATE != 6

end Sys2Proof.Machine
end

