-- ==== Sys2Proof/Machine/Period.lean ====
section
/-! DEFINITION. The meanings of the commands of the period (R17 to R28, R147, R321, R355, R357). Each deadline brings always-on time to its
tick. -/

namespace Sys2Proof.Machine

/-- A period is running. -/
def State.inPeriod (s : State) : Bool := s.running && s.period.inPeriod

/-- WORK_ITEM_COMPLETE (R321): the item is done and the Timetable chooses again; with the self-test's work done the module sleeps. -/
def execWorkItemComplete (id : Nat) (s : State) : Res :=
  match s.itemSt id with
  | none => .next s
  | some x =>
    if !s.inPeriod || !x.running then .next s else
    let s1 := s.endItem id
    if s1.phase == 4 && s1.itemsDone then .next (s1.setPhase 5) else .next s1.schedule

/-- A restart requested for the boundary waits for a pending decision (R339). -/
def State.decisionPending (s : State) : Bool := s.get F.SEAL_STAT_SEAL_STATE == 1 || s.get F.SEAL_STAT_SEAL_STATE == 2

/-- PERIOD_BOUNDARY (R18, R25, R27): phases that have not ended are late; then tick 0, unless the Innkeeper has stopped (R372) or a restart
is due (R339). -/
def execPeriodBoundary (s : State) : Res :=
  if !s.running then .next s else
  let s1 := if s.period.inPeriod then (let t := s.closePhases; if t.time.osc < t.boundaryOsc then t.passTime (t.boundaryOsc - t.time.osc) else t)
    else s
  if !s1.running then .next s1
  else if s1.on F.FLT_STAT_INNK_DOWN then .next (s1.enterMinimal 0x91)
  else match s1.start.restartAtBoundary with
    | some env => if s1.decisionPending then .next s1.boundary else s1.startAgain env false
    | none => .next s1.boundary

/-- BOUNDARY_PHASE_END (R18, R355): at tick 160 PROD of each ring is read and ingest begins; a spare module runs no period work (R405). -/
def execBoundaryPhaseEnd (prods : Vector U64 8) (s : State) : Res :=
  if !s.inPeriod || s.phase != 0 then .next s else
  let s1 := (s.toTick (s.periodStart + 160)).msi false 1
  if s1.on F.ENG_CAST_CFG_SPARE then .next (s1.setPhase 5) else
  let s2 := (s1.setPhase 1).loadItems 1
  let s3 := s2.forEach allRings (fun s r => s.ringStart r (prods[r]).toNat)
  if s3.period.ttFault then .next s3.closePhases else .next s3.schedule

/-- Record CONS of a ring has been read. -/
def State.ringStep (s : State) (r : RingIx) : State :=
  let c := s.get (F.MGT_RING_CONS_CONS r.val) + 1
  let s1 := s.set (F.MGT_RING_CONS_CONS r.val) c
  if (s1.ring r).target ≤ c then s1.stopRing r else s1

/-- Record CONS of a ring is read at its host address (R354, R355). -/
def State.readRecord (s : State) (r : RingIx) : State :=
  s.send (.hostRead ((s.ring r).recordAt (s.get (F.MGT_RING_CONS_CONS r.val))) (s.ring r).recBytes)

/-- RING_RECORD_ARRIVE (R355, R357): the next record of the lowest ring being read. -/
def execRingRecordArrive (r : RingIx) (rec : RecordArrival) (s : State) : Res :=
  if !s.inPeriod || s.phase != 1 || (allRings.find? (fun q => (s.ring q).reading)) != some r then .next s else
  match rec with
  | .good bytes =>
    let e := (r.val, s.get (F.MGT_RING_CONS_CONS r.val), sliceBytes bytes 0 (s.ring r).recBytes)
    .next ({ s.readRecord r with period := { s.period with ingested := e :: s.period.ingested } }.ringStep r)
  | .poisoned =>
    .next ((((s.readRecord r).ringFlag (F.MGT_RING_STAT_POISON_REC r.val)).bump (F.MGT_RING_STAT_POISONED r.val) 1).ringStep r)
  | .completionError => .next (((s.readRecord r).ringFlag (F.MGT_RING_STAT_READ_ERR r.val)).stopRing r)

/-- INGEST_COMPLETE (R19): every ring has reached the PROD read at the start. -/
def execIngestComplete (s : State) : Res :=
  if !s.inPeriod || s.phase != 1 || !s.ingestOver then .next s else .next s.enterInference

/-- INGEST_DEADLINE (R26, R294): a collective posted in ingest ends here, though the phase has ended before. -/
def execIngestDeadline (s : State) : Res :=
  if !s.inPeriod || s.phase == 0 then .next s
  else .next ((s.toTick (s.periodStart + s.get F.MGT_PERIOD_CFG0_INGEST_DL)).ingestLate.abandonColls (fun c => c.phase == 1))

/-- INFERENCE_COMPLETE (R19, R358): the outputs are published and training begins. -/
def execInferenceComplete (s : State) : Res :=
  if !s.inPeriod || s.phase != 2 || !s.itemsDone || s.outStalled then .next s else .next (s.outPublish false).enterTraining

/-- INFER_DEADLINE (R26, R294): remaining inference work is cancelled. -/
def execInferDeadline (s : State) : Res :=
  if !s.inPeriod || s.phase == 0 then .next s
  else .next ((s.toTick (s.periodStart + s.get F.MGT_PERIOD_CFG1_INFER_DL)).ingestLate.inferLate.abandonColls (fun c => decide (c.phase ≤ 2)))

/-- TRAIN_DEADLINE (R26, R249, R294): an unsealed step is dropped, a voted one is unresolved, and the self-test phase begins. -/
def execTrainDeadline (s : State) : Res :=
  if !s.inPeriod || s.phase == 0 then .next s
  else .next ((s.toTick (s.periodStart + s.get F.MGT_PERIOD_CFG1_TRAIN_DL)).closePhases.abandonColls (fun c => decide (c.phase ≤ 3)))

/-- TRAINING_STEP_START (R22, R147): a step that fits begins at S0; where none fits, the training phase ends. -/
def execTrainingStepStart (s : State) : Res :=
  if s.mayTrain && s.stepFits then .next s.stepStart
  else if s.inPeriod then .next s.trainCheck
  else .next s

end Sys2Proof.Machine
end

