-- ==== Sys2Proof/Machine/Start.lean ====
section
/-! DEFINITION. The meanings of power, start and reset commands (R307, R323, R324 to R330, R339, R341, R360, R433, R436, R443). -/

namespace Sys2Proof.Machine

/-- POWER_ON (R324): 52 V is present. Steps 1 and 2 pass, the straps are sampled (R441), and step 3 waits for the oscillator. -/
def execPowerOn (straps : Straps) (s : State) : Res :=
  if s.start.powered then .next s else
  .next ({ s with start := { s.start with powered := true, straps := straps } }.set F.MGT_BOOTSTAT_STEP 3)

/-- XTAL_WAIT_EXPIRE (R307): the oscillator is checked. A toggling one starts always-on time and leads to step 4, or to the hold of R443;
else the start fails. -/
def execXtalWaitExpire (toggling : Bool) (env : StartEnv) (s : State) : Res :=
  if !s.start.powered || s.time.running || s.get F.MGT_BOOTSTAT_STEP != 3 then .next s else
  let s1 := { s with time := { s.time with osc := 0, running := true }, start := { s.start with env := env } }
  if !toggling then .next (s1.failStart 3 0x10)
  else
    let s2 := s1.set F.CLK_STAT_XTAL_OK 1
    if s2.start.straps.xspiExtHigh then s2.startAgain env true
    else .next { s2 with start := { s2.start with xspiHold := true } }

/-- XSPI_EXT_RELEASE (R443): a start that holds goes on at step 4. -/
def execXspiExtRelease (env : StartEnv) (s : State) : Res :=
  if s.start.powered && s.start.xspiHold then s.startAgain env true else .next s

/-- START_STEP_TIMEOUT (R324): the step that waits overruns its limit. Steps 9 and 10 go on; the others fail the start. -/
def execStartStepTimeout (s : State) : Res :=
  let k := s.start.hung
  if !s.start.powered || k == 0 then .next s else
  let s1 := (s.passTime (stepLimit k * 25000))
  let s2 := { s1 with start := { s1.start with hung := 0 } }
  if k == 10 then (s2.flag F.MGT_BOOTSTAT_CXL_LATE).enter11
  else if k == 9 then
    .next ((s2.forEach (List.range 18) (fun s p =>
      if s.portState p == 1 || s.portState p == 2 then s.portDown p else s)).step10)
  else .next (s2.failStart k (stepReason k))

/-- START_RETRY_TIMER (R328): one second after a failed start, a new start begins at step 4. -/
def execStartRetryTimer (env : StartEnv) (s : State) : Res :=
  if s.start.powered && s.start.retryArmed then
    (s.passTime 25000000).startAgain env (s.on F.MGT_BOOTSTAT_POWER_ON)
  else .next s

/-- A width that R345 allows. -/
def cxlWidth (lanes : Nat) : Bool := lanes == 16 || lanes == 8 || lanes == 4

/-- A rate of PCIe 5.0, in 0.1 GT/s (R345). -/
def cxlRate (rate : Nat) : Bool := [25, 50, 80, 160, 320].contains rate

/-- CXL_LINK_UP (R326, R345): the link has trained; a start that waits at step 10 enters step 11. CXL mode needs a host that negotiates it and
32 GT/s; any other link runs in PCIe 5.0 mode. -/
def execCxlLinkUp (link : CxlLink) (cxl : Bool) (s : State) : Res :=
  if !s.start.powered || s.dom domCxl != 3 || s.start.perstAsserted || !cxlWidth link.lanes || !cxlRate link.rate || s.start.cxlUp then .next s else
  let s1 := { s with start := { s.start with cxlUp := true, cxlLanes := link.lanes, cxlMode := cxl && link.rate == 320 } }
  if s1.start.hung == 10 then s1.enter11 else .next s1

/-- UNDER_VOLTAGE_TURN_OFF (R433): a loss of power. -/
def execUnderVoltageTurnOff (s : State) : Res := .next s.powerLost

/-- OVER_VOLTAGE_TURN_OFF (R433): a loss of power. -/
def execOverVoltageTurnOff (s : State) : Res := .next s.powerLost

/-- OVER_CURRENT_TURN_OFF (R432, R433): a loss of power. -/
def execOverCurrentTurnOff (s : State) : Res := .next s.powerLost

/-- PRESENT_S_MADE (R436): the inrush limiter is closed to VIN. -/
def execPresentSMade (s : State) : Res := .next { s with start := { s.start with presentS := true } }

/-- Rings that were being read when the link went down: READ_ERR is set and CONS stays at the failing record (R357). -/
def State.ringsCut (s before : State) : State :=
  s.forEach (allRings.filter (fun r => (before.ring r).reading)) (fun s r =>
    (s.set (F.MGT_RING_CONS_CONS r.val) (before.get (F.MGT_RING_CONS_CONS r.val))).ringFlag (F.MGT_RING_STAT_READ_ERR r.val))

/-- The host side resets both functions: the link is down, rings are disabled, granules return, an upload is discarded (R360). -/
def State.hostReset (s : State) : State :=
  let s1 := { s with start := { s.start with cxlUp := false, upload := none, uploadBytes := [], msix0 := MsixSt.init, msix1 := MsixSt.init } }
  ((s1.resetFn0).ringsCut s).returnBias (fun _ => true)

/-- PERST_ASSERT (R360): PERST_N asserted, hot reset or link down. -/
def execPerstAssert (kind : HostReset) (s : State) : Res :=
  let s1 := match kind with
    | .perst => { s with start := { s.start with perstAsserted := true } }
    | _ => s
  if s1.start.powered then .next s1.hostReset else .next s1

/-- PERST_DEASSERT (R326): link training may proceed. -/
def execPerstDeassert (s : State) : Res := .next { s with start := { s.start with perstAsserted := false } }

/-- FLR_FUNCTION0 (R360): ring registers, GRANULE and the function's MSI-X reset; bias unchanged. -/
def execFlrFunction0 (s : State) : Res := if s.start.powered then .next (s.resetFn0.setMsix false MsixSt.init) else .next s

/-- FLR_FUNCTION1 (R360): a DOE exchange is aborted. An exchange is over when its command is, so none is in progress here; a partial upload
spans exchanges and is kept. -/
def execFlrFunction1 (s : State) : Res := .next s

/-- PLL_LOCK_LOSS (R323): the PLL relocks; work on its domains is lost (CORE: what stands in the queues; FAB: the Couriers' collectives; MEM: what
the write-combining buffers hold), and every tile in the step reports FAILED. -/
def execPllLockLoss (pll : Pll) (s : State) : Res :=
  let f := match pll with
    | .core => F.CLK_STAT_CORE_LOCK
    | .fab => F.CLK_STAT_FAB_LOCK
    | .mem => F.CLK_STAT_MEM_LOCK
  if !s.start.powered || !s.on f then .next s else
  let s1 := s.flag F.CLK_STAT_LOCK_LOSS
  let s2 := match pll with
    | .core => s1.flushQueues
    | .fab => s1.abandonColls (fun _ => true)
    | .mem => { s1 with mem := { s1.mem with wc := Vector.replicate 32 [] } }
  let s3 := if s2.period.stepActive then s2.forEach allTiles (fun s n => if s.tileFenced n.val then s else s.failTile n) else s2
  .next (s3.post clsPower 0 1 0x0E 0 0)

end Sys2Proof.Machine
end

