-- ==== Sys2Proof/Machine/Tally.lean ====
section
/-! DEFINITION. The meanings of the Tally commands (R189 to R194): each runs as `State.opTally` with its operation. -/

namespace Sys2Proof.Machine

/-- SEG_SUM (R189, R190). -/
def execSegSum (t : EngIx) (n : TileIx) (d : BitVec 512) (s : State) : Res := .next (s.issue (.segSum t n d))

/-- SEG_MAX (R189, R190). -/
def execSegMax (t : EngIx) (n : TileIx) (d : BitVec 512) (s : State) : Res := .next (s.issue (.segMax t n d))

/-- SEG_MEAN (R189, R190). -/
def execSegMean (t : EngIx) (n : TileIx) (d : BitVec 512) (s : State) : Res := .next (s.issue (.segMean t n d))

/-- SEG_COUNT (R189, R190). -/
def execSegCount (t : EngIx) (n : TileIx) (d : BitVec 512) (s : State) : Res := .next (s.issue (.segCount t n d))

/-- SEG_DOT (R189, R190). -/
def execSegDot (t : EngIx) (n : TileIx) (d : BitVec 512) (s : State) : Res := .next (s.issue (.segDot t n d))

/-- SEG_PAIR (R189, R190). -/
def execSegPair (t : EngIx) (n : TileIx) (d : BitVec 512) (s : State) : Res := .next (s.issue (.segPair t n d))

end Sys2Proof.Machine
end

