-- ==== Sys2Proof/Machine/Tile.lean ====
section
/-! DEFINITION. The meanings of the sequencer's own operations: the deferred queue (R160 to R163) and the scalar file (R200). -/

namespace Sys2Proof.Machine

/-- DWQ_POST (R161, R162): `State.dwqPostEntry`. -/
def execDwqPost (n : TileIx) (e : BitVec 128) (s : State) : Res := .next (s.issue (.dwqPost n e))

/-- The sequencer of tile n runs. -/
def State.seqRuns (s : State) (n : TileIx) : Bool := s.running && !s.tileFenced n.val && s.dom n.val == 3

/-- DWQ_ENTRY_START (R161): the head entry's list is posted while nothing of the foreground waits. -/
def execDwqEntryStart (n : TileIx) (s : State) : Res :=
  if s.seqRuns n && s.foregroundIdle n then .next (s.dwqRun n) else .next s

/-- DWQ_DRAIN (R163): `State.dwqDrainNow`. -/
def execDwqDrain (n : TileIx) (s : State) : Res := .next (s.issue (.dwqDrain n))

/-- SCALAR_FILE_WRITE (R200). -/
def execScalarFileWrite (n : TileIx) (i : Fin 32) (v : U32) (s : State) : Res := .next (s.issue (.scalarFileWrite n i v))

end Sys2Proof.Machine
end

