-- ==== Sys2Proof/Machine/Vector.lean ====
section
/-! DEFINITION. The meanings of the vector commands (R199 to R206): each runs as `State.opVector` with its operation. -/

namespace Sys2Proof.Machine

/-- ADD (R202, R203: a + b). -/
def execAdd (n : TileIx) (d : BitVec 512) (s : State) : Res := .next (s.issue (.add n d))

/-- MUL (R202, R203: a × b). -/
def execMul (n : TileIx) (d : BitVec 512) (s : State) : Res := .next (s.issue (.mul n d))

/-- FMA (R202, R203: a × b + c, rounded once). -/
def execFma (n : TileIx) (d : BitVec 512) (s : State) : Res := .next (s.issue (.fma n d))

/-- CMP (R202, R203: 1 where a COND b holds). -/
def execCmp (n : TileIx) (d : BitVec 512) (s : State) : Res := .next (s.issue (.cmp n d))

/-- SEL (R202, R203: a where c ≠ 0, otherwise b). -/
def execSel (n : TileIx) (d : BitVec 512) (s : State) : Res := .next (s.issue (.sel n d))

/-- MIN (R202, R203: the smaller). -/
def execMin (n : TileIx) (d : BitVec 512) (s : State) : Res := .next (s.issue (.min n d))

/-- MAX (R202, R203: the larger). -/
def execMax (n : TileIx) (d : BitVec 512) (s : State) : Res := .next (s.issue (.max n d))

/-- PERM (R204: a at lane c). -/
def execPerm (n : TileIx) (d : BitVec 512) (s : State) : Res := .next (s.issue (.perm n d))

/-- CVT (R202, R203: a in DST_FMT). -/
def execCvt (n : TileIx) (d : BitVec 512) (s : State) : Res := .next (s.issue (.cvt n d))

end Sys2Proof.Machine
end

