-- ==== Sys2Proof/Machine/Wayfarer.lean ====
section
/-! DEFINITION. The meanings of the Wayfarer commands (R180 to R188). -/

namespace Sys2Proof.Machine

/-- GATHER_CSR (R182, R183): `State.opGatherCsr`. -/
def execGatherCsr (q : WayIx) (n : TileIx) (d : BitVec 512) (s : State) : Res := .next (s.issue (.gatherCsr q n d))

/-- GATHER_IDX (R182, R183): `State.opGatherIdx`. -/
def execGatherIdx (q : WayIx) (n : TileIx) (d : BitVec 512) (s : State) : Res := .next (s.issue (.gatherIdx q n d))

/-- SCATTER_IDX (R185): `State.opScatterIdx`. -/
def execScatterIdx (q : WayIx) (n : TileIx) (d : BitVec 512) (s : State) : Res := .next (s.issue (.scatterIdx q n d))

/-- COPY_IN (R186): `State.opCopyIn`. -/
def execCopyIn (q : WayIx) (n : TileIx) (d : BitVec 512) (s : State) : Res := .next (s.issue (.copyIn q n d))

/-- COPY_OUT (R186): `State.opCopyOut`. -/
def execCopyOut (q : WayIx) (n : TileIx) (d : BitVec 512) (s : State) : Res := .next (s.issue (.copyOut q n d))

end Sys2Proof.Machine
end

