-- ==== Sys2Proof/Machine/Dispatch.lean ====
section
/-! DEFINITION. The dispatch of every command to its meaning. -/

namespace Sys2Proof.Machine

/-- The effect of a command on everything but the queue. -/
def exec (i : Instr) (s : State) : Host.Outcome State Fault Refusal :=
  match i with
  | .powerOn straps => Sys2Proof.Machine.execPowerOn straps s
  | .xtalWaitExpire toggling env => Sys2Proof.Machine.execXtalWaitExpire toggling env s
  | .startStepTimeout => Sys2Proof.Machine.execStartStepTimeout s
  | .startRetryTimer env => Sys2Proof.Machine.execStartRetryTimer env s
  | .cxlLinkUp link cxl => Sys2Proof.Machine.execCxlLinkUp link cxl s
  | .underVoltageTurnOff => Sys2Proof.Machine.execUnderVoltageTurnOff s
  | .overVoltageTurnOff => Sys2Proof.Machine.execOverVoltageTurnOff s
  | .overCurrentTurnOff => Sys2Proof.Machine.execOverCurrentTurnOff s
  | .pwrbrkAssert => Sys2Proof.Machine.execPwrbrkAssert s
  | .pwrbrkRelease => Sys2Proof.Machine.execPwrbrkRelease s
  | .perstAssert kind => Sys2Proof.Machine.execPerstAssert kind s
  | .perstDeassert => Sys2Proof.Machine.execPerstDeassert s
  | .flrFunction0 => Sys2Proof.Machine.execFlrFunction0 s
  | .flrFunction1 => Sys2Proof.Machine.execFlrFunction1 s
  | .xspiExtRelease env => Sys2Proof.Machine.execXspiExtRelease env s
  | .pllLockLoss pll => Sys2Proof.Machine.execPllLockLoss pll s
  | .deepSleepEnter => Sys2Proof.Machine.execDeepSleepEnter s
  | .wakeLeadTimer => Sys2Proof.Machine.execWakeLeadTimer s
  | .domainStateRequest reqs => Sys2Proof.Machine.execDomainStateRequest reqs s
  | .domainWakeDone d => Sys2Proof.Machine.execDomainWakeDone d s
  | .grantInterval inp => Sys2Proof.Machine.execGrantInterval inp s
  | .meterLimitReached d => Sys2Proof.Machine.execMeterLimitReached d s
  | .thermalTrip => Sys2Proof.Machine.execThermalTrip s
  | .powerLimitWrite value => Sys2Proof.Machine.execPowerLimitWrite value s
  | .workItemComplete id => Sys2Proof.Machine.execWorkItemComplete id s
  | .periodBoundary => Sys2Proof.Machine.execPeriodBoundary s
  | .boundaryPhaseEnd prods => Sys2Proof.Machine.execBoundaryPhaseEnd prods s
  | .ringRecordArrive r rec => Sys2Proof.Machine.execRingRecordArrive r rec s
  | .ingestComplete => Sys2Proof.Machine.execIngestComplete s
  | .ingestDeadline => Sys2Proof.Machine.execIngestDeadline s
  | .inferenceComplete => Sys2Proof.Machine.execInferenceComplete s
  | .inferDeadline => Sys2Proof.Machine.execInferDeadline s
  | .trainDeadline => Sys2Proof.Machine.execTrainDeadline s
  | .trainingStepStart => Sys2Proof.Machine.execTrainingStepStart s
  | .knownAnswerTest cls index firstOk repeatOk => Sys2Proof.Machine.execKnownAnswerTest cls index firstOk repeatOk s
  | .operandIn n l d => Sys2Proof.Machine.execOperandIn n l d s
  | .transposeIn n l d => Sys2Proof.Machine.execTransposeIn n l d s
  | .convert n l d => Sys2Proof.Machine.execConvert n l d s
  | .resultOut n l d => Sys2Proof.Machine.execResultOut n l d s
  | .matmul n d stalls upsets => Sys2Proof.Machine.execMatmul n d stalls upsets s
  | .cruCopy n d => Sys2Proof.Machine.execCruCopy n d s
  | .splitCombine n c => Sys2Proof.Machine.execSplitCombine n c s
  | .dwqPost n e => Sys2Proof.Machine.execDwqPost n e s
  | .dwqEntryStart n => Sys2Proof.Machine.execDwqEntryStart n s
  | .dwqDrain n => Sys2Proof.Machine.execDwqDrain n s
  | .memFence n => Sys2Proof.Machine.execMemFence n s
  | .scalarFileWrite n ix v => Sys2Proof.Machine.execScalarFileWrite n ix v s
  | .sealVote n lossEntry => Sys2Proof.Machine.execSealVote n lossEntry s
  | .gatherCsr q n d => Sys2Proof.Machine.execGatherCsr q n d s
  | .gatherIdx q n d => Sys2Proof.Machine.execGatherIdx q n d s
  | .scatterIdx q n d => Sys2Proof.Machine.execScatterIdx q n d s
  | .copyIn q n d => Sys2Proof.Machine.execCopyIn q n d s
  | .copyOut q n d => Sys2Proof.Machine.execCopyOut q n d s
  | .segSum t n d => Sys2Proof.Machine.execSegSum t n d s
  | .segMax t n d => Sys2Proof.Machine.execSegMax t n d s
  | .segMean t n d => Sys2Proof.Machine.execSegMean t n d s
  | .segCount t n d => Sys2Proof.Machine.execSegCount t n d s
  | .segDot t n d => Sys2Proof.Machine.execSegDot t n d s
  | .segPair t n d => Sys2Proof.Machine.execSegPair t n d s
  | .exp k n d => Sys2Proof.Machine.execExp k n d s
  | .log k n d => Sys2Proof.Machine.execLog k n d s
  | .recip k n d => Sys2Proof.Machine.execRecip k n d s
  | .rsqrt k n d => Sys2Proof.Machine.execRsqrt k n d s
  | .tanh k n d => Sys2Proof.Machine.execTanh k n d s
  | .sigmoid k n d => Sys2Proof.Machine.execSigmoid k n d s
  | .add n d => Sys2Proof.Machine.execAdd n d s
  | .mul n d => Sys2Proof.Machine.execMul n d s
  | .fma n d => Sys2Proof.Machine.execFma n d s
  | .cmp n d => Sys2Proof.Machine.execCmp n d s
  | .sel n d => Sys2Proof.Machine.execSel n d s
  | .min n d => Sys2Proof.Machine.execMin n d s
  | .max n d => Sys2Proof.Machine.execMax n d s
  | .perm n d => Sys2Proof.Machine.execPerm n d s
  | .cvt n d => Sys2Proof.Machine.execCvt n d s
  | .scrub c line symErrs rereadErrs => Sys2Proof.Machine.execScrub c line symErrs rereadErrs s
  | .refresh c temp => Sys2Proof.Machine.execRefresh c temp s
  | .recalibration c => Sys2Proof.Machine.execRecalibration c s
  | .recalibrationEnd c ok => Sys2Proof.Machine.execRecalibrationEnd c ok s
  | .wcTimerExpire k pos line => Sys2Proof.Machine.execWcTimerExpire k pos line s
  | .migrationReq value => Sys2Proof.Machine.execMigrationReq value s
  | .migrationLineCopy symErrs => Sys2Proof.Machine.execMigrationLineCopy symErrs s
  | .channelDead c => Sys2Proof.Machine.execChannelDead c s
  | .vote p f => Sys2Proof.Machine.execVote p f s
  | .voteDeadline => Sys2Proof.Machine.execVoteDeadline s
  | .commit dec => Sys2Proof.Machine.execCommit dec s
  | .discard dec => Sys2Proof.Machine.execDiscard dec s
  | .decisionQuery p src step => Sys2Proof.Machine.execDecisionQuery p src step s
  | .portTrainingDone p st => Sys2Proof.Machine.execPortTrainingDone p st s
  | .ident p body => Sys2Proof.Machine.execIdent p body s
  | .probe p body arrival => Sys2Proof.Machine.execProbe p body arrival s
  | .laneFail p usable => Sys2Proof.Machine.execLaneFail p usable s
  | .linkAck p hdr => Sys2Proof.Machine.execLinkAck p hdr s
  | .resendTimeout p => Sys2Proof.Machine.execResendTimeout p s
  | .bcast n d => Sys2Proof.Machine.execBcast n d s
  | .reduce n d => Sys2Proof.Machine.execReduce n d s
  | .send n d => Sys2Proof.Machine.execSend n d s
  | .recv n d => Sys2Proof.Machine.execRecv n d s
  | .ready src body => Sys2Proof.Machine.execReady src body s
  | .broadcastData p f => Sys2Proof.Machine.execBroadcastData p f s
  | .reduceContribution p f => Sys2Proof.Machine.execReduceContribution p f s
  | .podPartial p f => Sys2Proof.Machine.execPodPartial p f s
  | .sendData p f => Sys2Proof.Machine.execSendData p f s
  | .bridgeSlotResult p f => Sys2Proof.Machine.execBridgeSlotResult p f s
  | .go key slot0 slot1 => Sys2Proof.Machine.execGo key slot0 slot1 s
  | .slotGrant plane key slot => Sys2Proof.Machine.execSlotGrant plane key slot s
  | .slotBusy plane key => Sys2Proof.Machine.execSlotBusy plane key s
  | .slotReqTimeout plane key => Sys2Proof.Machine.execSlotReqTimeout plane key s
  | .markerSend => Sys2Proof.Machine.execMarkerSend s
  | .marker p period phaseTick corrNs ownPhaseNs => Sys2Proof.Machine.execMarker p period phaseTick corrNs ownPhaseNs s
  | .markerLossTimeout => Sys2Proof.Machine.execMarkerLossTimeout s
  | .releaseBuffer value => Sys2Proof.Machine.execReleaseBuffer value s
  | .returnGranule value => Sys2Proof.Machine.execReturnGranule value s
  | .returnAll value => Sys2Proof.Machine.execReturnAll value s
  | .hostMemRead off len => Sys2Proof.Machine.execHostMemRead off len s
  | .hostMemWrite off bytes => Sys2Proof.Machine.execHostMemWrite off bytes s
  | .cxlSnoop addr => Sys2Proof.Machine.execCxlSnoop addr s
  | .globalPersistentFlush => Sys2Proof.Machine.execGlobalPersistentFlush s
  | .mbxDataWrite c sender col w v => Sys2Proof.Machine.execMbxDataWrite c sender col w v s
  | .doorbell c sender col => Sys2Proof.Machine.execDoorbell c sender col s
  | .rxEmpty c receiver col => Sys2Proof.Machine.execRxEmpty c receiver col s
  | .rxReset c receiver col => Sys2Proof.Machine.execRxReset c receiver col s
  | .waybillWrite part last img => Sys2Proof.Machine.execWaybillWrite part last img s
  | .enrol key devIdDigest nonce sig => Sys2Proof.Machine.execEnrol key devIdDigest nonce sig s
  | .setMinSeq value sig => Sys2Proof.Machine.execSetMinSeq value sig s
  | .restartAtBoundary fromFn1 env => Sys2Proof.Machine.execRestartAtBoundary fromFn1 env s
  | .restartImmediate fromFn1 env => Sys2Proof.Machine.execRestartImmediate fromFn1 env s
  | .startRetry fromFn1 env => Sys2Proof.Machine.execStartRetry fromFn1 env s
  | .status => Sys2Proof.Machine.execStatus s
  | .doeDiscovery fn1 index => Sys2Proof.Machine.execDoeDiscovery fn1 index s
  | .cxlTableAccess entry => Sys2Proof.Machine.execCxlTableAccess entry s
  | .getVersion => Sys2Proof.Machine.execGetVersion s
  | .getCapabilities => Sys2Proof.Machine.execGetCapabilities s
  | .negotiateAlgorithms => Sys2Proof.Machine.execNegotiateAlgorithms s
  | .getDigests => Sys2Proof.Machine.execGetDigests s
  | .getCertificate slot off len => Sys2Proof.Machine.execGetCertificate slot off len s
  | .challenge slot nonce => Sys2Proof.Machine.execChallenge slot nonce s
  | .getMeasurements index signed nonce => Sys2Proof.Machine.execGetMeasurements index signed nonce s
  | .spdmUnsupportedRequest code => Sys2Proof.Machine.execSpdmUnsupportedRequest code s
  | .errorRecordPost errs => Sys2Proof.Machine.execErrorRecordPost errs s
  | .errorRecordHandle => Sys2Proof.Machine.execErrorRecordHandle s
  | .watchdogExpire u => Sys2Proof.Machine.execWatchdogExpire u s
  | .innkeeperRestartDone => Sys2Proof.Machine.execInnkeeperRestartDone s
  | .cperGet c => Sys2Proof.Machine.execCperGet c s
  | .cperAck c record => Sys2Proof.Machine.execCperAck c record s
  | .ledgerWrite => Sys2Proof.Machine.execLedgerWrite s
  | .ledgerXspiCopy => Sys2Proof.Machine.execLedgerXspiCopy s
  | .assaySweepDone => Sys2Proof.Machine.execAssaySweepDone s
  | .castReq => Sys2Proof.Machine.execCastReq s
  | .castPageCopy t => Sys2Proof.Machine.execCastPageCopy t s
  | .castTierComplete t => Sys2Proof.Machine.execCastTierComplete t s
  | .exportSlot => Sys2Proof.Machine.execExportSlot s
  | .castWindowFill => Sys2Proof.Machine.execCastWindowFill s
  | .nextWindow => Sys2Proof.Machine.execNextWindow s
  | .stored => Sys2Proof.Machine.execStored s
  | .restoreGo value => Sys2Proof.Machine.execRestoreGo value s
  | .restoreFetchDone r => Sys2Proof.Machine.execRestoreFetchDone r s
  | .dumpAll => Sys2Proof.Machine.execDumpAll s
  | .clear b => Sys2Proof.Machine.execClear b s
  | .perfSelWrite b ix value => Sys2Proof.Machine.execPerfSelWrite b ix value s
  | .perfDump b => Sys2Proof.Machine.execPerfDump b s
  | .perfRingRecordWrite => Sys2Proof.Machine.execPerfRingRecordWrite s
  | .registerWrite fn1 off half value => Sys2Proof.Machine.execRegisterWrite fn1 off half value s
  | .collectiveAck key src chunkIdx => Sys2Proof.Machine.execCollectiveAck key src chunkIdx s
  | .uncorrectableCodeword p => Sys2Proof.Machine.execUncorrectableCodeword p s
  | .guestCastData first off bytes => Sys2Proof.Machine.execGuestCastData first off bytes s
  | .guestSlotFetch step => Sys2Proof.Machine.execGuestSlotFetch step s
  | .partnerCastReport imageSize noUsableCast => Sys2Proof.Machine.execPartnerCastReport imageSize noUsableCast s
  | .dramCeHourlyRecord => Sys2Proof.Machine.execDramCeHourlyRecord s
  | .markerMissed => Sys2Proof.Machine.execMarkerMissed s
  | .presentSMade => Sys2Proof.Machine.execPresentSMade s

end Sys2Proof.Machine
end

