-- ==== Sys2Proof/WellFormed.lean ====
section
/-! DEFINITION. Which commands the spec's units and links can form: a posted descriptor carries its row's OPCODE (R81, R109, R181, R189,
R195, R201, R282), a chunk its row's KIND and as many payload bytes as its LEN (R270), an access its alignment (R13), and the numbers that name
lines, reads and states lie in their ranges. A command that breaks a check still has a meaning: a unit answers a wrong descriptor with BAD_LAYOUT,
and an event that cannot occur has no occasion. -/

namespace Sys2Proof

open Sys2Proof.Machine

/-- OPCODE of a descriptor: bits 63:56 of its first word. -/
def descOpcode {n : Nat} (d : BitVec n) : Nat := dfld d 0 63 56

/-- The OPCODE of a command's row and the OPCODE its descriptor carries. -/
def opcodes : Instr → Option (Nat × Nat)
  | .operandIn _ _ d => some (0x01, descOpcode d)
  | .transposeIn _ _ d => some (0x02, descOpcode d)
  | .resultOut _ _ d => some (0x03, descOpcode d)
  | .convert _ _ d => some (0x04, descOpcode d)
  | .matmul _ d _ _ => some (0x10, descOpcode d)
  | .cruCopy _ d => some (0x11, descOpcode d)
  | .gatherCsr _ _ d => some (0x20, descOpcode d)
  | .gatherIdx _ _ d => some (0x21, descOpcode d)
  | .scatterIdx _ _ d => some (0x22, descOpcode d)
  | .copyIn _ _ d => some (0x23, descOpcode d)
  | .copyOut _ _ d => some (0x24, descOpcode d)
  | .segSum _ _ d => some (0x30, descOpcode d)
  | .segMax _ _ d => some (0x31, descOpcode d)
  | .segMean _ _ d => some (0x32, descOpcode d)
  | .segCount _ _ d => some (0x33, descOpcode d)
  | .segDot _ _ d => some (0x34, descOpcode d)
  | .segPair _ _ d => some (0x35, descOpcode d)
  | .exp _ _ d => some (0x40, descOpcode d)
  | .log _ _ d => some (0x41, descOpcode d)
  | .recip _ _ d => some (0x42, descOpcode d)
  | .rsqrt _ _ d => some (0x43, descOpcode d)
  | .tanh _ _ d => some (0x44, descOpcode d)
  | .sigmoid _ _ d => some (0x45, descOpcode d)
  | .add _ d => some (0x50, descOpcode d)
  | .mul _ d => some (0x51, descOpcode d)
  | .fma _ d => some (0x52, descOpcode d)
  | .cmp _ d => some (0x53, descOpcode d)
  | .sel _ d => some (0x54, descOpcode d)
  | .min _ d => some (0x55, descOpcode d)
  | .max _ d => some (0x56, descOpcode d)
  | .perm _ d => some (0x57, descOpcode d)
  | .cvt _ d => some (0x58, descOpcode d)
  | .bcast _ d => some (0x60, descOpcode d)
  | .reduce _ d => some (0x61, descOpcode d)
  | .send _ d => some (0x62, descOpcode d)
  | .recv _ d => some (0x63, descOpcode d)
  | _ => none

/-- A posted descriptor carries its row's OPCODE. -/
def opcodeOk (i : Instr) : Bool := match opcodes i with | some p => p.1 == p.2 | none => true

/-- A Ladle takes the commands of its kind: A and B operands, T transposes and conversions, the fourth results (R76). -/
def ladleOk : Instr → Bool
  | .operandIn _ l _ => decide (l.val ≤ 1)
  | .transposeIn _ l _ => l.val == 2
  | .convert _ l _ => l.val == 2
  | .resultOut _ l _ => l.val == 3
  | _ => true

/-- A data frame of KIND `k` with a payload of LEN bytes, 32 to 4,096 (R270). -/
def frameOk (k : Nat) (f : DataFrame) : Bool :=
  f.chunk.kind.toNat == k && f.payload.length == f.chunk.len.toNat && decide (32 ≤ f.chunk.len.toNat ∧ f.chunk.len.toNat ≤ 4096)

/-- A received chunk is one of its row's KIND (R270). -/
def chunkOk : Instr → Bool
  | .broadcastData _ f => frameOk 0 f
  | .reduceContribution _ f => frameOk 1 f
  | .podPartial _ f => frameOk 2 f
  | .sendData _ f => frameOk 3 f
  | .vote _ f => frameOk 4 f
  | .bridgeSlotResult _ f => frameOk 5 f
  | _ => true

/-- A register access is aligned to its size (R13), a host access of DRAM has a byte at least (R351). -/
def accessOk : Instr → Bool
  | .registerWrite _ off half _ => off % (if half then 4 else 8) == 0
  | .hostMemRead _ len => decide (0 < len)
  | .hostMemWrite _ bytes => !bytes.isEmpty
  | _ => true

/-- Lines of a channel are numbered below 2²² (R209). -/
def lineOk : Instr → Bool
  | .scrub _ line _ _ => decide (line < 0x400000)
  | .wcTimerExpire _ _ line => decide (line < 0x400000)
  | _ => true

/-- Severities of posted errors are 0 to 3 (R369); a watched step has a time limit (R324); request classes are 1 to 3 (R311); the secure
channels are 24 to 31 (R361); a kind of unit has at most 64 (R375). -/
def rangeOk : Instr → Bool
  | .errorRecordPost errs => errs.all (fun e => decide (e.severity ≤ 3))
  | .xtalWaitExpire _ env => decide (env.hangStep ≤ 10)
  | .startRetryTimer env => decide (env.hangStep ≤ 10)
  | .xspiExtRelease env => decide (env.hangStep ≤ 10)
  | .restartAtBoundary _ env => decide (env.hangStep ≤ 10)
  | .restartImmediate _ env => decide (env.hangStep ≤ 10)
  | .startRetry _ env => decide (env.hangStep ≤ 10)
  | .grantInterval inp => inp.requests.all (fun r => decide (1 ≤ r.cls ∧ r.cls ≤ 3))
  | .cxlLinkUp link _ => link.lanes == 16 || link.lanes == 8 || link.lanes == 4
  | .cperGet c => decide (24 ≤ c.val)
  | .cperAck c _ => decide (24 ≤ c.val)
  | .knownAnswerTest _ index _ _ => decide (index < 64)
  | _ => true

/-- A command that the spec's units, links and host can form. -/
def wellFormed (i : Instr) : Bool := opcodeOk i && ladleOk i && chunkOk i && accessOk i && lineOk i && rangeOk i

end Sys2Proof
end

