-- ==== Sys2Proof/Safety.lean ====
section
/-! DEFINITION. What the statements speak of: the canonical form of the machine's memories, the answers of a step, and the conditions under
which a unit runs a command at once. -/

namespace Sys2Proof.Machine

/-- Sparse storage in canonical form: keys strictly rising, no entry that equals what an unlisted key reads as. -/
def Sparse.canonical {α : Type} [DecidableEq α] (d : Nat → α) (m : Sparse α) : Bool :=
  Sparse.sorted m && m.all (fun e => decide (e.2 ≠ d e.1))

/-- A tile's memory in canonical form: an unlisted byte is undefined, so a listed one may hold any value. -/
def TileSt.wf (t : TileSt) : Bool := Sparse.sorted t.mem && NatSet.sorted t.poison

/-- Bonded memory in canonical form. -/
def MemSt.wf (m : MemSt) : Bool := Sparse.canonical (fun _ => (0 : Byte)) m.dram && NatSet.sorted m.poison

/-- Every memory of the machine is in canonical form: registers, bonded memory with its poison marks, every tile's memory. -/
def State.memWf (s : State) : Bool := Sparse.canonical regReset s.regs && s.mem.wf && s.tiles.all TileSt.wf

/-- The parts of the state but the queue of commands. -/
inductive Piece where
  | regs | time | start | flash | wb | ledger | power | period | seals | ladder | mem
  | tiles | coll | mbx | flt | cast | perf | sent | stalled | stallReq | free
  deriving DecidableEq, Repr

/-- The parts outside `L` are the same in both states. -/
structure Same (L : List Piece) (s t : State) : Prop where
  regs : Piece.regs ∉ L → t.regs = s.regs
  time : Piece.time ∉ L → t.time = s.time
  start : Piece.start ∉ L → t.start = s.start
  flash : Piece.flash ∉ L → t.flash = s.flash
  wb : Piece.wb ∉ L → t.wb = s.wb
  ledger : Piece.ledger ∉ L → t.ledger = s.ledger
  power : Piece.power ∉ L → t.power = s.power
  period : Piece.period ∉ L → t.period = s.period
  seals : Piece.seals ∉ L → t.seals = s.seals
  ladder : Piece.ladder ∉ L → t.ladder = s.ladder
  mem : Piece.mem ∉ L → t.mem = s.mem
  tiles : Piece.tiles ∉ L → t.tiles = s.tiles
  coll : Piece.coll ∉ L → t.coll = s.coll
  mbx : Piece.mbx ∉ L → t.mbx = s.mbx
  flt : Piece.flt ∉ L → t.flt = s.flt
  cast : Piece.cast ∉ L → t.cast = s.cast
  perf : Piece.perf ∉ L → t.perf = s.perf
  sent : Piece.sent ∉ L → t.sent = s.sent
  stalled : Piece.stalled ∉ L → t.stalled = s.stalled
  stallReq : Piece.stallReq ∉ L → t.stallReq = s.stallReq
  free : Piece.free ∉ L → t.free = s.free

/-- The start state is the same but for pending bits of masked vectors (R359). -/
def State.sameStart (s t : State) : Prop :=
  t.start = { s.start with
    msix0 := { s.start.msix0 with pba := t.start.msix0.pba }, msix1 := { s.start.msix1 with pba := t.start.msix1.pba } }

/-- The parts outside `L` are the same, but that something may have been sent, or a masked vector is pending instead (R359). -/
def SameAndSent (L : List Piece) (s t : State) : Prop := Same (.sent :: .start :: L) s t ∧ s.sameStart t

/-- Between `s` and `t` a vector was raised (R359): a message, or the pending bit of a masked vector; nothing while the link is not up. -/
def State.raised (s : State) (fn1 : Bool) (v : Nat) (t : State) : Prop :=
  s.start.cxlUp = true →
    (bit (s.msix fn1).mask v = false → .msi fn1 v ∈ t.sent) ∧ (bit (s.msix fn1).mask v = true → bit (t.msix fn1).pba v = true)

/-- No vote of the module is due: no step is in flight, it has voted, or some tile has yet to (R148, R240). -/
def State.noVoteDue (s : State) : Prop :=
  s.period.stepActive = false ∨ s.seals.voted = true ∨ ∃ n : TileIx, s.tileFenced n.val = false ∧ (s.tile n).part = none

/-- Nothing waits: no command, no collective, no write for a granule; and no vote is due (R352). -/
def State.still (s : State) : Prop :=
  s.stalled = [] ∧ s.coll.queue = [] ∧ s.mem.held = [] ∧ s.period.outWait = false ∧ s.noVoteDue

/-- A step ends in a next state with a property. -/
def endsIn (r : Host.Outcome State Fault Refusal) (P : State → Prop) : Prop := ∃ t, r = .next t ∧ P t

/-- Two fields share no bit of a register. -/
def Field.apart (f g : Field) : Prop := f.off ≠ g.off ∨ f.lo + f.w ≤ g.lo ∨ g.lo + g.w ≤ f.lo

/-- Every register field that shares no bit with a field of `l` holds what it held. -/
def fieldsBut (l : List Field) (s t : State) : Prop :=
  ∀ f : Field, f.lo + f.w ≤ 64 → (∀ g ∈ l, f.apart g) → t.get f = s.get f

/-- Every register whose offset lies outside `win` holds what it held. -/
def regsBut (win : Nat → Prop) (s t : State) : Prop := ∀ o, ¬ win o → t.rd o = s.rd o

/-- Every register field that lies outside `win` and shares no bit with a field of `l` holds what it held. -/
def frame (win : Nat → Prop) (l : List Field) (s t : State) : Prop :=
  ∀ f : Field, f.lo + f.w ≤ 64 → ¬ win f.off → (∀ g ∈ l, f.apart g) → t.get f = s.get f

/-- The registers of the performance counters, which count while time passes. -/
def perfWin (o : Nat) : Prop := 0x40000 ≤ o ∧ o < 0x50000

/-- The registers of the rings. -/
def ringWin (o : Nat) : Prop := 0x200 ≤ o ∧ o < 0x300

/-- Between `s` and `t` the rings were reset (R360): their registers and MGT_HDM.GRANULE hold their reset values, no ring is read. Where the link
went down (`cut`), a ring that was being read keeps CONS and shows READ_ERR (R357). -/
def State.ringsReset (s : State) (cut : Bool) (t : State) : Prop :=
  (∀ r : RingIx,
    (∀ j < 2, t.rd (0x200 + 32 * r.val + 8 * j) = regReset (0x200 + 32 * r.val + 8 * j)) ∧
      (cut = true ∧ (s.ring r).reading = true → t.get (F.MGT_RING_CONS_CONS r.val) = s.get (F.MGT_RING_CONS_CONS r.val) ∧
        t.rd (0x218 + 32 * r.val) = 16) ∧
      (cut = false ∨ (s.ring r).reading = false →
        ∀ j < 4, t.rd (0x200 + 32 * r.val + 8 * j) = regReset (0x200 + 32 * r.val + 8 * j)) ∧
      (t.ring r).enable = false ∧ (t.ring r).reading = false) ∧
    t.get F.MGT_HDM_GRANULE = 0 ∧ t.period = { s.period with rings := t.period.rings }

/-- The lock bit of a PLL. -/
def pllLock : Pll → Field
  | .core => F.CLK_STAT_CORE_LOCK
  | .fab => F.CLK_STAT_FAB_LOCK
  | .mem => F.CLK_STAT_MEM_LOCK

/-- Domain d sleeps and nothing has woken it yet (R298, R300). -/
def State.sleeping (s : State) (d : Nat) : Prop := s.asleep d = true ∧ s.power.waking.any (fun w => w.1 == d) = false

/-- Between `s` and `t` domain d started to wake for a reason (R300), and deep sleep is over (R303). -/
def State.wakeBegan (s : State) (d code : Nat) (t : State) : Prop :=
  t.get (F.PWR_DOM_STAT_LAST_WAKE d) = code ∧ t.get (F.PWR_DOM_STAT_WAKES d) = min 65535 (s.get (F.PWR_DOM_STAT_WAKES d) + 1) ∧
    (d, code) ∈ t.power.waking ∧ t.on F.CLK_STAT_CORE_STOPPED = false

/-- The fields that the wake of domain d writes. -/
def wakeFields (d : Nat) : List Field :=
  [F.PWR_DOM_STAT_LAST_WAKE d, F.PWR_DOM_STAT_WAKES d, F.CLK_STAT_CORE_STOPPED, F.CLK_STAT_CORE_LOCK]

/-- The commands whose meaning may go through start-up step 7, where a clock ratio outside R305 stops the model. -/
def startCommand : Instr → Bool
  | .xtalWaitExpire _ _ => true
  | .startStepTimeout => true
  | .startRetryTimer _ => true
  | .cxlLinkUp _ _ => true
  | .xspiExtRelease _ => true
  | .restartAtBoundary _ _ => true
  | .restartImmediate _ _ => true
  | .startRetry _ _ => true
  | .periodBoundary => true
  | _ => false

/-- Between `s` and `t` a start failed at a step with a reason, and a new one is due in a second (R328). -/
def State.failedStart (s : State) (step reason : Nat) (t : State) : Prop :=
  t.get F.MGT_BOOTSTAT_FAIL_STEP = step ∧ t.get F.MGT_BOOTSTAT_REASON = reason ∧
    t.get F.MGT_BOOTSTAT_CONSEC_FAIL = s.start.consec + 1 ∧ t.start.consec = s.start.consec + 1 ∧ t.start.retryArmed = true ∧
    t.ledger.failedStarts = s.ledger.failedStarts + 1 ∧ t.flash.ledgerNand = some t.ledger ∧ (∀ d < 155, t.dom d = 0) ∧
    t.mem = MemSt.init ∧ t.tiles = Vector.replicate 64 TileSt.init ∧ t.flash.slots = s.flash.slots ∧ t.flash.owner = s.flash.owner

/-- Between `s` and `t` a start began that waits at step 4 (R12, R324, R339): registers at their reset values but those of the always-on
island, every domain off, volatile state lost, flash kept. -/
def State.startBegan (s : State) (env : StartEnv) (powerOn : Bool) (t : State) : Prop :=
  t.get F.MGT_BOOTSTAT_STEP = 4 ∧ t.get F.MGT_BOOTSTAT_MODE = 0 ∧ t.get F.MGT_BOOTSTAT_POWER_ON = b2n powerOn ∧
    t.get F.CLK_STAT_BOOT_LOCK = 1 ∧ t.get F.LINK_IDENT_MEMBER_ID = s.start.straps.moduleSlot.toNat ∧
    t.get F.MGT_BOOTSTAT_REASON = s.get F.MGT_BOOTSTAT_REASON ∧ t.get F.MGT_BOOTSTAT_FAIL_STEP = s.get F.MGT_BOOTSTAT_FAIL_STEP ∧
    (∀ d < 155, t.dom d = 0) ∧ t.start.hung = 4 ∧ t.start.env = env ∧ t.start.straps = s.start.straps ∧ t.wb = none ∧
    t.mem = MemSt.init ∧ t.tiles = Vector.replicate 64 TileSt.init ∧ t.stalled = [] ∧
    t.flash.slots = s.flash.slots ∧ t.flash.owner = s.flash.owner ∧ t.flt.queue = s.flt.queue ∧ t.flt.store = s.flt.store

/-- The clocks that every Waybill in a slot sets stand in the ratios of R305. -/
def State.ratiosHold (s : State) : Prop :=
  ∀ (i : Fin 2) (g : WaybillImage), s.flash.slots[i] = some g → (State.reset.loadRegs (wbTrim g)).clocksOk = true

/-- Between `s` and `t` a start began at step 4 (R324, R328, R330, R339): one that waits there is in its first state; one whose ROM fails its known
answers failed there; every start stands at a step from 4 to 10, or has failed, with a new one due or in minimal mode. -/
def State.startRan (s : State) (env : StartEnv) (powerOn : Bool) (t : State) : Prop :=
  (env.hangStep = 4 → s.startBegan env powerOn t) ∧
    (env.hangStep ≠ 4 → env.romKatOk = false → s.start.ledgerRead = true → s.mode ≠ 2 → s.start.consec < 2 → s.start.noRetry = false →
      s.bootDir.trial = false → s.failedStart 4 0x20 t) ∧
    ((4 ≤ t.start.hung ∧ t.start.hung ≤ 10 ∧ t.get F.MGT_BOOTSTAT_STEP = t.start.hung) ∨ t.start.retryArmed = true ∨ t.mode = 2)

/-- A record of a unit is queued and brings nothing else about: the queue has room, no record of the unit waits in it, not too many units are
fenced, and the Timetable is awake (R299, R370, R371, R374). -/
def State.roomFor (s : State) (cls index : Nat) : Prop :=
  s.flt.queue.length < 64 ∧ (∀ r ∈ s.flt.queue, ¬ (r.cls = cls ∧ r.index = index)) ∧ s.tooManyFenced = false ∧ s.dom domTimetable = 3

/-- Between `s` and `t` the record `r` was queued (R370). -/
def State.queued (s : State) (r : ErrRec) (t : State) : Prop :=
  t.flt.queue = s.flt.queue ++ [r] ∧ t.get F.FLT_QUEUE_DEPTH = s.flt.queue.length + 1 ∧
    t.get F.FLT_QUEUE_PEAK = max (s.flt.queue.length + 1) (s.get F.FLT_QUEUE_PEAK)

/-- The fields that queueing a record writes. -/
def queueFields : List Field := [F.FLT_QUEUE_DEPTH, F.FLT_QUEUE_PEAK]

/-- Every volatile part is lost and every domain but CXL is OFF (R317, R319, R340). -/
def State.turnedOff (s t : State) : Prop :=
  (∀ d < 155, d ≠ domCxl → t.dom d = 0) ∧ t.dom domCxl = s.dom domCxl ∧ t.mem = MemSt.init ∧ t.tiles = Vector.replicate 64 TileSt.init ∧
    t.coll = CollSt.init ∧ t.stalled = [] ∧ t.flash.slots = s.flash.slots ∧ t.flash.owner = s.flash.owner

/-- The copy of the boot directory in force does not carry the last sequence number. -/
def State.bootRoom (s : State) : Prop := s.flash.boot[bootIx s.flash].seqNo ≠ BitVec.allOnes 32

/-- Between `s` and `t` the job started (R327): normal mode at step 11, the count of failed starts at 0, the ladder at its first rungs, the
Ledger counted and written; memories are kept. -/
def State.jobBegan (s t : State) : Prop :=
  t.mode = 1 ∧ t.get F.MGT_BOOTSTAT_STEP = 11 ∧ t.get F.MGT_BOOTSTAT_REASON = 0 ∧ t.get F.MGT_BOOTSTAT_CONSEC_FAIL = 0 ∧
    t.start.hung = 0 ∧ t.start.consec = 0 ∧ t.ledger.starts = s.ledger.starts + 1 ∧ t.ledger.consecFail = 0 ∧
    t.flash.ledgerNand = some t.ledger ∧ t.ladder.map (fun x => x.rung) = s.ladderEntries.map (fun e => e.initRung) ∧
    t.bootDir.trial = false ∧ t.activeSlot = (if s.bootDir.trial then 1 - s.activeSlot else s.activeSlot) ∧
    t.flash.slots = s.flash.slots ∧ t.mem = s.mem ∧ t.tiles = s.tiles ∧ t.wb = s.wb ∧ t.mbx = s.mbx

/-- Between `s` and `t` PROD of ring r was read as `prod` at the start of ingest (R355): a ring that is not read shows no ACTIVE, one whose
count ran backwards is BAD, an overrun moves CONS and counts the lost records; CONS starts at 0 where the ring was enabled anew. -/
def State.ringTaken (s : State) (r : RingIx) (prod : Nat) (t : State) : Prop :=
  let cons := if (s.ring r).zeroCons then 0 else s.get (F.MGT_RING_CONS_CONS r.val)
  let room := 2 ^ s.get (F.MGT_RING_CTL_LOG2_REC r.val)
  (t.ring r).target = prod ∧ (t.ring r).reading = (s.ringEnabled r && decide (cons < prod)) ∧
    (s.ringEnabled r = true → .hostRead (s.get (F.MGT_RING_BASE_BASE r.val) * 4096) 8 ∈ t.sent) ∧
    (s.ringEnabled r = true → cons < prod → t.get (F.MGT_RING_STAT_ACTIVE r.val) = 1) ∧
    (s.ringEnabled r = false → t.get (F.MGT_RING_STAT_ACTIVE r.val) = 0) ∧
    (s.ringEnabled r = true → prod < cons → t.get (F.MGT_RING_STAT_RING_BAD r.val) = 1) ∧
    (s.ringEnabled r = true → room < prod - cons →
      t.get (F.MGT_RING_STAT_OVERRUN r.val) = 1 ∧ t.get (F.MGT_RING_CONS_CONS r.val) = prod - room ∧
        t.get (F.MGT_RING_STAT_LOST r.val) = min (2 ^ 32 - 1) (s.get (F.MGT_RING_STAT_LOST r.val) + (prod - cons - room))) ∧
    (s.ringEnabled r = false ∨ prod - cons ≤ room → t.get (F.MGT_RING_CONS_CONS r.val) = cons ∧
      t.get (F.MGT_RING_STAT_LOST r.val) = s.get (F.MGT_RING_STAT_LOST r.val))

/-- The read of record CONS of ring r at its host address (R354). -/
def State.recordRead (s : State) (r : RingIx) : Out :=
  .hostRead ((s.ring r).recordAt (s.get (F.MGT_RING_CONS_CONS r.val))) (s.ring r).recBytes

/-- Between `s` and `t` a record of ring r was read: CONS moves by 1, and at its target the reading stops (R355). -/
def State.consMoved (s : State) (r : RingIx) (t : State) : Prop :=
  t.get (F.MGT_RING_CONS_CONS r.val) = s.get (F.MGT_RING_CONS_CONS r.val) + 1 ∧
    ((s.ring r).target ≤ s.get (F.MGT_RING_CONS_CONS r.val) + 1 → (t.ring r).reading = false ∧ t.get (F.MGT_RING_STAT_ACTIVE r.val) = 0) ∧
    (s.get (F.MGT_RING_CONS_CONS r.val) + 1 < (s.ring r).target → t.ring r = s.ring r ∧
      t.get (F.MGT_RING_STAT_ACTIVE r.val) = s.get (F.MGT_RING_STAT_ACTIVE r.val))

/-- Between `s` and `t` inference began (R19, R28, R358, R381, R403): the plan's work unless the module is expelled, OUT_BLOCKED where the host holds
the period's buffer, else the buffer open unless one of its granules is in host bias. -/
def State.inferenceBegan (s t : State) : Prop :=
  t.phase = 2 ∧
    (s.on F.FLT_STAT_EXPELLED = true → t.power.items = [] ∧ t.period.outStarted = false) ∧
    (s.on F.FLT_STAT_EXPELLED = false → t.power.items.map (fun x => x.id) = (s.planItems 2).map (fun i => i.id) ∧
      (s.restoreBusy = false → s.on s.outHeldField = true → t.period.outBlocked = true ∧ t.get F.MGT_PERIOD_STAT_OUT_BLOCKED = 1 ∧
        t.period.outStarted = false) ∧
      (s.restoreBusy = false → s.on s.outHeldField = false → t.period.outBlocked = false ∧ t.period.outStarted = !s.outBiased))

/-- Between `s` and `t` the output of the period was published, where its buffer was open and no restore is under way (R28, R358, R403). -/
def State.outputPublished (s t : State) : Prop :=
  (s.period.outStarted = true → s.restoreBusy = false →
    t.on s.outHeldField = true ∧ t.get F.MGT_OUT_LAST_PERIOD = s.get F.MGT_PERIOD_STAT_PERIOD_NUM ∧ t.period.outStarted = false ∧
      (s.on s.outHeldField = false → s.raised false 0 t)) ∧
    (s.period.outStarted = false → t.get F.MGT_OUT_LAST_PERIOD = s.get F.MGT_OUT_LAST_PERIOD ∧ t.on s.outHeldField = s.on s.outHeldField)

/-- The training phase has begun in `t`, and ended at once where no step fits (R22). -/
def State.trainingBegan (t : State) : Prop :=
  (t.phase = 3 ∧ t.power.items = [] ∧ (t.period.stepActive = true ∨ t.stepFits = true)) ∨ t.phase = 4 ∨ t.phase = 5

/-- Tile n works and its unit runs a posted command at once: the job runs, the tile is not fenced, its domain and the network-on-chip are ON
and not capped, and no command is stalled (R31, R178, R298, R312). -/
def State.tileFree (s : State) (n : TileIx) : Prop :=
  s.running = true ∧ s.tileFenced n.val = false ∧ s.domReady n.val = true ∧ s.domReady domNoc = true ∧ s.stalled = [] ∧ s.stallReq = false

/-- The register window of tile n. -/
def tileWin (n o : Nat) : Prop := 0x100000 + n * 0x10000 ≤ o ∧ o < 0x100000 + (n + 1) * 0x10000

/-- Of bonded memory nothing changed but the note of a destination that a unit touched (R285) and of layers kept after a recomputation (R235,
R236). -/
def State.memNoted (s t : State) : Prop := t.mem = { s.mem with spoiled := t.mem.spoiled, kept := t.mem.kept }

/-- Between `s` and `t` nothing changed but tile n, its registers, the performance counters, MEM_STAT.UNMAPPED, and what a poisoned stash brings
(R236). -/
def State.onTile (s : State) (n : TileIx) (t : State) : Prop :=
  (∀ m, m ≠ n → t.tile m = s.tile m) ∧
    frame (fun o => perfWin o ∨ tileWin n.val o) [F.MEM_STAT_UNMAPPED, F.MEM_STASH_STAT_STASH_POISON, F.MEM_STASH_STAT_RECOMPUTES] s t ∧
    Same [.regs, .tiles, .mem, .perf] s t ∧ s.memNoted t

/-- Granule g of tile n's memory holds a byte of a stash in the Larder (R233). -/
def State.inLarder (s : State) (n : TileIx) (g : Nat) : Prop :=
  ∃ e ∈ s.mem.stash, e.2.2.1 = false ∧ e.2.1 = n.val ∧ g * 64 < e.2.2.2.1 + e.2.2.2.2 ∧ e.2.2.2.1 < g * 64 + 64

/-- Between `s` and `t` the bytes of tile n's memory outside `st` are the same, and so are the poison marks of granules without a byte of it, those
of a poisoned stash apart, which a recomputation clears (R236). -/
def State.tileBytesBut (s : State) (n : TileIx) (st : Nat → Prop) (t : State) : Prop :=
  (∀ a, ¬ st a → Sparse.find (t.tile n).mem a = Sparse.find (s.tile n).mem a) ∧
    ∀ g, (∀ a, g * 64 ≤ a → a < g * 64 + 64 → ¬ st a) →
      (g ∈ (t.tile n).poison → g ∈ (s.tile n).poison) ∧ (g ∈ (s.tile n).poison → ¬ s.inLarder n g → g ∈ (t.tile n).poison)

/-- A little-endian word of tile memory. -/
def State.tileWord (s : State) (n : TileIx) (a : Nat) : U32 := BitVec.ofNat 32 (leNat ((List.range 4).map (fun i => s.tileByte n (a + i))))

/-- Bits of a completion record (R72, R105, R133, R205): any, TAG, STATUS. -/
def recField (r : BitVec 256) (hi lo : Nat) : Nat := r.toNat / 2 ^ lo % 2 ^ (hi + 1 - lo)
def recTag (r : BitVec 256) : Nat := recField r 31 0
def recStatus (r : BitVec 256) : Nat := recField r 239 232

/-- Addresses of a tensor in tile order: its data blocks, and its scale codes (R52, R53). -/
def planeStored (p : Plane) (rows cols a : Nat) : Prop :=
  ∃ i < blocks8 rows,
    (p.base + blockBytes p.fmt * (i * p.pitch) ≤ a ∧ a < p.base + blockBytes p.fmt * (i * p.pitch) + blockBytes p.fmt * blocks8 cols) ∨
      (p.scaled = true ∧ p.sbase + i * p.pitch ≤ a ∧ a < p.sbase + i * p.pitch + blocks8 cols)

/-- Addresses of the destination of a vector command (R199). -/
def vStored (d : BitVec 512) (a : Nat) : Prop :=
  if vDstScaled d then planeStored (vPlane d 0) (vRows d) (vLanes d) a else
  ∃ r < vRows d, ∃ l < vLanes d, vBase d 0 + (r * vPitch d 0 + l * vStride d 0) * elemBytes (vDst d) ≤ a ∧
    a < vBase d 0 + (r * vPitch d 0 + l * vStride d 0) * elemBytes (vDst d) + elemBytes (vDst d)

/-- Addresses of the destination of CONVERT and RESULT_OUT and of its clip mask (R78, R92). -/
def ladleStored (l : Nat) (d : BitVec 512) (copy : Bool) (a : Nat) : Prop :=
  planeStored (lDest l d copy) (lOutRows l d) (lOutCols l d) a ∨
    (lClipMask d = true ∧ ∃ i < blocks8 (lOutRows l d),
      lMaskBase d + 8 * (i * lDstPitch d) ≤ a ∧ a < lMaskBase d + 8 * (i * lDstPitch d) + 8 * blocks8 (lOutCols l d))

/-- The words of a tile that starts at zero, after one MATMUL without array faults (R114 to R121). -/
def mxProduct (d : BitVec 256) (a b : Operand) : List U32 :=
  if mAcc d == 2 then (mxInt d a b [] (List.replicate 4096 0#32) false).words
  else (mxFloat d a b [] (List.replicate 4096 (0#32, 0#32)) none).words

/-- The zoo engine to which the work for the engine of domain d is bound runs a command of tile n at once (R178, R208, R298, R312). -/
def State.engineFree (s : State) (d : Nat) (n : TileIx) : Prop :=
  s.tileFree n ∧ s.engFenced (s.bindEng d) = false ∧ s.domReady (s.bindEng d) = true

/-- What the unit of a command does with it, as posted now (R178). -/
def State.atUnit (s : State) (c : Instr) : State := s.unitOp ⟨c, s.scalarNow c, false, false⟩

/-- No memory interface sleeps: the module's own accesses wake none (R299). -/
def State.memOn (s : State) : Prop := ∀ k < 32, s.asleep (domMem k) = false

/-- Accesses of units neither wait nor meet errors, and go to no persistent page: every memory interface in use is ON, no granule is in host
bias, no line holds symbol errors (R174, R210, R299, R352). -/
def State.memQuiet (s : State) : Prop :=
  (∀ q ∈ s.mem.slots, s.domReady (domMem (q / 8)) = true) ∧ s.mem.hostBias = [] ∧ s.mem.latent = [] ∧ ∀ a, s.persistent a = false

/-- Between `s` and `t` the engine of domain d worked for tile n: its status register at `o`, MEM_STAT, MEM_STASH_STAT where a stash read with
poison (R236), and the performance counters apart, no register changed; the other tiles' records and queues are the same. -/
def State.byEngine (s : State) (n : TileIx) (d o : Nat) (t : State) : Prop :=
  (d, n.val) ∈ t.period.used ∧
    (∀ m, m ≠ n → (t.tile m).recs = (s.tile m).recs) ∧
    (∀ m, (t.tile m).dwq = (s.tile m).dwq ∧ (t.tile m).cru = (s.tile m).cru ∧ (t.tile m).portA = (s.tile m).portA ∧
      (t.tile m).portB = (s.tile m).portB ∧ (t.tile m).portT = (s.tile m).portT) ∧
    frame (fun x => perfWin x ∨ x = o)
      [F.MEM_STAT_UNMAPPED, F.MEM_STAT_POISON_READ, F.MEM_STASH_STAT_STASH_POISON, F.MEM_STASH_STAT_RECOMPUTES] s t ∧
    Same [.regs, .period, .mem, .tiles, .perf] s t

/-- A Kiln command: Kiln, posting tile, operation, descriptor. -/
def kilnOf : Instr → Option (EngIx × TileIx × Nat × BitVec 256)
  | .exp k n d => some (k, n, kExpOp, d)
  | .log k n d => some (k, n, kLogOp, d)
  | .recip k n d => some (k, n, kRecipOp, d)
  | .rsqrt k n d => some (k, n, kRsqrtOp, d)
  | .tanh k n d => some (k, n, kTanhOp, d)
  | .sigmoid k n d => some (k, n, kSigmoidOp, d)
  | _ => none

/-- A Tally command: Tally, posting tile, operation, descriptor. -/
def tallyOf : Instr → Option (EngIx × TileIx × Nat × BitVec 512)
  | .segSum e n d => some (e, n, tSum, d)
  | .segMax e n d => some (e, n, tMax, d)
  | .segMean e n d => some (e, n, tMean, d)
  | .segCount e n d => some (e, n, tCount, d)
  | .segDot e n d => some (e, n, tDot, d)
  | .segPair e n d => some (e, n, tPair, d)
  | _ => none

/-- A Wayfarer command: Wayfarer, posting tile, operation, descriptor. -/
def wayOf : Instr → Option (WayIx × TileIx × Nat × BitVec 512)
  | .gatherCsr q n d => some (q, n, wGatherCsr, d)
  | .gatherIdx q n d => some (q, n, wGatherIdx, d)
  | .scatterIdx q n d => some (q, n, wScatterIdx, d)
  | .copyIn q n d => some (q, n, wCopyIn, d)
  | .copyOut q n d => some (q, n, wCopyOut, d)
  | _ => none

/-- Between `s` and `t` the migration of channel `src` to the spare `sp` of its stack began (R226); it waits for a
recalibration of either (R227). -/
def State.migrationBegan (s : State) (src sp : Nat) (t : State) : Prop :=
  t.chState src = 2 ∧ t.chState sp = 3 ∧ t.get F.MEM_MIG_STAT_PROGRESS = 0 ∧
    t.get F.MEM_MIG_STAT_STATE = (if t.on (F.MEM_CH_STAT_RECAL src) || t.on (F.MEM_CH_STAT_RECAL sp) then 2 else 1) ∧
    t.migSrc = src ∧ t.migDst = sp ∧ t.get F.MEM_MAP_STAT_SPARES_LEFT = s.get F.MEM_MAP_STAT_SPARES_LEFT - 1 ∧
    t.ledger = { s.ledger with interrupted := (s.posOf src).map (fun p => (src, sp, p)) }

/-- The fields that the start of a migration writes. -/
def migrationFields (src sp : Nat) : List Field :=
  [F.MEM_CH_STAT_STATE src, F.MEM_CH_STAT_STATE sp, F.MEM_MIG_STAT_STATE, F.MEM_MIG_STAT_PROGRESS, F.MEM_MIG_STAT_SRC_STACK,
    F.MEM_MIG_STAT_SRC_CH, F.MEM_MIG_STAT_DST_CH, F.MEM_MAP_STAT_SPARES_LEFT]

/-- A failing channel ch migrates at once (R226): it is active, its stack has the spare `sp`, no other migration runs or waits. -/
def State.migratesTo (s : State) (ch sp : Nat) : Prop :=
  s.chState ch = 0 ∧ s.spareOf (chStack ch) = some sp ∧ s.migrating = false

/-- A byte of DRAM by physical line. -/
def State.dramByte (s : State) (pl o : Nat) : Byte := Sparse.getD s.mem.dram (pl * 512 + o) 0

/-- Only bytes of the physical line `pl` may differ between the DRAM of `s` and `t`. -/
def State.onLine (s : State) (pl : Nat) (t : State) : Prop := ∀ l o, o < 512 → l ≠ pl → t.dramByte l o = s.dramByte l o

/-- The fields that a failed or dead channel ch writes (R226). -/
def outFields (ch : Nat) : List Field :=
  [F.MEM_CH_STAT_STATE ch, F.MEM_STAT_CH_DEAD, F.MEM_STAT_RESTART_REQ]

/-- Between `s` and `t` a decision was applied (R246 to R252): it stands in the step log and in the seal registers, the step is over. -/
def State.decided (s : State) (dec : Decision) (t : State) : Prop :=
  t.seals.log = (dec :: s.seals.log).take 1024 ∧ t.get F.SEAL_LOG_HEAD = (s.get F.SEAL_LOG_HEAD + 1) % 1024 ∧
    t.get F.SEAL_LAST_LAST_LOSS = dec.lossSum.toNat ∧ t.get F.SEAL_LAST_VOTES = dec.votes % 2048 ∧
    t.get F.SEAL_LAST_LAST_COMMIT = b2n dec.commit ∧ t.get F.SEAL_STAT_LAST_REASON = dec.reason.toNat ∧
    (t.get F.SEAL_STAT_SEAL_STATE = 0 ∨ t.get F.SEAL_STAT_SEAL_STATE = 3) ∧ t.period.stepActive = false ∧
    t.seals.voted = false ∧ t.seals.decided = false ∧ t.seals.votes = [] ∧ t.mem.shadows = [] ∧
    (∀ n : TileIx, (t.tile n).mem = (s.tile n).mem)

/-- A frame that port p takes in order: the port is UP, generation, sequence number, FEC, CRC and length are right, and it carries no NAK (R264,
R269 to R273). -/
def State.inOrder (s : State) (p : PortIx) (f : DataFrame) : Prop :=
  s.portUp p.val = true ∧ f.link.gen.toNat = s.get (F.LINK_PORT_STAT_GEN p.val) ∧ f.link.ftype = 0 ∧ f.link.nak = false ∧
    f.link.seqNo.toNat = (s.port p).rxSeq ∧ f.fecOk = true ∧ f.chunk.crc.toNat = chunkCrc f.chunk f.payload ∧
    32 ≤ f.chunk.len.toNat ∧ f.chunk.len.toNat ≤ 4096

/-- Between `s` and `t` a frame in order on port p was acknowledged (R273). -/
def State.frameTaken (s : State) (p : PortIx) (t : State) : Prop :=
  (t.port p).rxSeq = ((s.port p).rxSeq + 1) % 65536 ∧
    ∃ h : LinkHeader, .ack p.val h ∈ t.sent ∧ h.nak = false ∧ h.ackSeq.toNat = ((s.port p).rxSeq + 1) % 65536

/-- A chunk sent on port p leaves at once (R273, R285, R312): the port is UP and not metered, nothing waits, the window and the credits are
open. -/
def State.sendsNow (s : State) (p : PortIx) : Prop :=
  s.portUp p.val = true ∧ s.power.metered.contains (domPort p.val) = false ∧ (s.port p).waiting = [] ∧ (s.port p).unacked.length < 256 ∧
    0 < (s.port p).credits

/-- The module is a sub-leader of the seal group, which forwards decisions to its pod (R246, R287). -/
def State.forwards (s : State) : Prop := ∃ g, s.sealGroup = some g ∧ partOf g = .subLeader

/-- Port p is DOWN in `t` (R268, R269). -/
def State.portIsDown (t : State) (p : PortIx) : Prop :=
  t.portState p.val = 5 ∧ t.get (F.LINK_PORT_STAT_GEN p.val) = 0 ∧ t.get (F.LINK_PORT_STAT_WIDTH p.val) = 0

/-- Nothing goes on when a port changes: step 9 of the start is over (R324), and nothing waits. -/
def State.portQuiet (s : State) : Prop := s.still ∧ s.start.hung ≠ 9

/-- The module itself holds the payloads of frames kept for a resend: none is read again from memory (R274). -/
def keptHere (l : List SentFrame) : Prop := ∀ f ∈ l, ∃ b, f.source = .held b

/-- Between `s` and `t` the kept frames `l` of port p were sent again in order, with their numbers and chunk headers, and the payload that the
module holds (R273, R274). -/
def State.resent (s : State) (p : PortIx) (l : List SentFrame) (t : State) : Prop :=
  ∃ fs : List DataFrame, t.sent = (fs.map (Out.resend p.val)).reverse ++ s.sent ∧ fs.map (fun f => f.chunk) = l.map (fun f => f.chunk) ∧
    fs.map (fun f => f.link.seqNo) = l.map (fun f => f.link.seqNo) ∧
    ∀ (i : Nat) (f : SentFrame) (b : List Byte), l[i]? = some f → f.source = .held b → (fs[i]?).map (fun g => g.payload) = some b

/-- The fields that a port going DOWN writes, port P's partner tier among them (R411). -/
def downFields (p : PortIx) : List Field :=
  [F.LINK_PORT_STAT_STATE p.val, F.LINK_PORT_STAT_GEN p.val, F.LINK_PORT_STAT_WIDTH p.val, F.LINK_PAIR_STATUS_PARTNER_TIER,
    F.ENG_CAST_STAT_P_ABANDON, F.ENG_CAST_STAT_ACTIVE]

/-- Between `s` and `t` a retrain of port p began (R269). -/
def State.retrainBegan (s : State) (p : PortIx) (t : State) : Prop :=
  t.portState p.val = 4 ∧ t.get (F.LINK_PORT_STAT_GEN p.val) = 0 ∧
    t.get (F.LINK_PORT_STAT_RETRAINS p.val) = min 65535 (s.get (F.LINK_PORT_STAT_RETRAINS p.val) + 1)

/-- The fields that a retrain of port p writes. -/
def retrainFields (p : PortIx) : List Field :=
  [F.LINK_PORT_STAT_STATE p.val, F.LINK_PORT_STAT_GEN p.val, F.LINK_PORT_STAT_RETRAINS p.val]

/-- Between `s` and `t` port p was lost for good (R265, R269, R373): DOWN, fenced, its record queued. -/
def State.portFenced (s : State) (p : PortIx) (t : State) : Prop :=
  t.portIsDown p ∧ t.get F.FLT_STAT_FENCE = 1 ∧ s.queued (s.mkRec clsPort p.val 2 0x0A 0 0 1 1) t ∧ t.flash.ledgerNand = some t.ledger

/-- A collective's post: tile, operation, descriptor. -/
def postOf : Instr → Option (TileIx × Nat × BitVec 512)
  | .bcast n d => some (n, 0x60, d)
  | .reduce n d => some (n, 0x61, d)
  | .send n d => some (n, 0x62, d)
  | .recv n d => some (n, 0x63, d)
  | _ => none

/-- An arrival that is written as it comes: port, frame, operation of the collective, kind of the chunk (R272, R285, R287). -/
def landArrival : Instr → Option (PortIx × DataFrame × Nat × Nat)
  | .broadcastData p f => some (p, f, 0x60, 0)
  | .sendData p f => some (p, f, 0x63, 3)
  | _ => none

/-- An arrival that a leader adds: port, frame, kind of the chunk (R289, R291). -/
def sumArrival : Instr → Option (PortIx × DataFrame × Nat)
  | .reduceContribution p f => some (p, f, 1)
  | .podPartial p f => some (p, f, 2)
  | .bridgeSlotResult p f => some (p, f, 5)
  | _ => none

/-- The one collective of the module, c of group g, is in flight, its rule about its destination kept; nothing else waits, memory is quiet and the
output buffer is not HELD (R28, R282, R285). -/
def State.inFlight (s : State) (g : Group) (c : Coll) : Prop :=
  s.running = true ∧ s.coll.queue = [c] ∧ c.active = true ∧ c.recorded = false ∧ s.group (cGroup c.d) = some g ∧ s.stalled = [] ∧
    s.coll.gos = [] ∧ c.landing = [] ∧ c.dest ∉ s.mem.spoiled ∧ s.period.outBlocked = false ∧ s.memQuiet

/-- The one contributor `pos` to a sum of leader g, by the kind of the chunk: a local member, or the sub-leader of the one remote pod (R289). -/
def oneContributor (g : Group) (kind src pos : Nat) : Prop :=
  (kind = 1 ∧ localOthers g = [pos] ∧ remotePods g = [] ∧ groupPos g src = some pos) ∨
    (kind = 2 ∧ localOthers g = [] ∧ (∃ pod, remotePods g = [pod] ∧ pos = subLeader g pod) ∧ groupPos g src = some pos) ∨
    (kind = 5 ∧ localOthers g = [] ∧ ∃ pod, remotePods g = [pod] ∧ pos = subLeader g pod)

/-- Between `s` and `t` the collective c ended with its record at tile n (R286). -/
def State.collDone (s : State) (c : Coll) (n : TileIx) (t : State) : Prop :=
  t.coll.queue = [] ∧ ∃ r, (t.tile n).recs = r :: (s.tile n).recs ∧ recTag r = cTag c.d ∧ recField r 103 96 = 0

/-- A frame is for the collective c: its key, its port, its period (R284). -/
def State.frameFor (s : State) (p : PortIx) (f : DataFrame) (c : Coll) (kind : Nat) : Prop :=
  s.inOrder p f ∧ s.staleChunk f.chunk = false ∧ keyOfChunk f.chunk = collKeyOf c ∧ f.chunk.kind.toNat % 16 = kind ∧
    f.chunk.cflags.toNat.testBit 0 = false ∧ f.chunk.cflags.toNat.testBit 1 = false

/-- No two module addresses or positions share a byte of DRAM, and every write-combining buffer holds at most one entry of a line, its bytes in order
(R214, R220, R228): 256 positions of 0x400000 lines each. -/
def State.memApart (s : State) : Prop :=
  s.mem.slots.Nodup ∧ (∀ q ∈ s.mem.slots, q < 256) ∧
    (∀ q l q' l' pl, l < 0x400000 → l' < 0x400000 → s.physLine q l = some pl → s.physLine q' l' = some pl → q = q' ∧ l = l') ∧
    ∀ k < 32, (s.wcOf k).Pairwise (fun x y => ¬ (x.pos = y.pos ∧ x.line = y.line)) ∧
      ∀ x ∈ s.wcOf k, x.pos < 8 ∧ x.line < 0x400000 ∧ Sparse.sorted x.bytes = true ∧ ∀ b ∈ x.bytes, b.1 < 512

/-- A host access of `len` bytes at an offset of the window is served at once (R299, R351): memory answers, the range is mapped and populated, every
memory interface in use is ON, and no line holds symbol errors or belongs to a persistent page. -/
def State.hostServed (s : State) (off len : Nat) : Prop :=
  s.hdmActive = true ∧ s.hdmMapped off len = true ∧ (∀ j < len, ∃ q b, s.decodeAddr (off + j) = .dram q b) ∧
    (∀ q ∈ s.mem.slots, s.domReady (domMem (q / 8)) = true) ∧ s.stallReq = false ∧ s.mem.latent = [] ∧ ∀ a, s.persistent a = false

/-- The granules of a range of the window. -/
def inRange (off len g : Nat) : Prop := off / 0x200000 ≤ g ∧ g < (off + len + 0x1FFFFF) / 0x200000

/-- A register stands in the 64-bit word at offset `o` of function 0 or 1 (R347, R425 to R427): a Pigeonhole's data, CTL or STAT, a word of the
MSI-X table or its pending bits, a mirror of function 1, or a register of a card. -/
def registerAt (fn1 : Bool) (o : Nat) : Bool :=
  match mbxOf fn1 o, msixWordIx fn1 o with
  | some _, _ => decide (o % 0x100 < 0x90)
  | none, some _ => true
  | none, none => o == msixPba fn1 || (if fn1 then decide (o < 0x18 ∨ 0x50000 ≤ o ∧ o < 0x50050) else (cardAt o).isSome)

/-- A register of function 0 whose write does no more than change its fields: not one of a mailbox, nor one with a command among its bits. -/
def plainReg (o : Nat) : Bool :=
  !(o == 0x10000 || o == 0x120 || o == 0x128 || (decide (0x200 ≤ o ∧ o < 0x300) && o % 32 == 0) || o == 0xC0020 || o == 0x630008 || o == 0x630018
    || o == 0x630030 || o == 0x40000 || decide (0x41000 ≤ o ∧ o < 0x41000 + 119 * 0x100)) && (mbxOf false o).isNone && (msixWordIx false o).isNone

/-- Bit j of a register is written by an access: all of it, or the half that an offset names (R13). -/
def bitWritten (off : Nat) (half : Bool) (j : Nat) : Bool := !half || decide (off % 8 = 4 ↔ 32 ≤ j)

/-- Channel c of the Pigeonholes apart, nothing of them changed. -/
def State.otherChans (s : State) (c : MbxIx) (t : State) : Prop := ∀ x : MbxIx, x ≠ c → t.chan x = s.chan x

/-- The state after the one answer of function 1's DOE mailbox with its vector 8: a message, or pending where it is masked; lost while the link is
not up (R349, R359). -/
def State.answered (s : State) (o : Out) : State :=
  { s with
    sent := (if s.start.cxlUp && !bit s.start.msix1.mask 8 then [.msi true 8] else []) ++ o :: s.sent
    start := if s.start.cxlUp && bit s.start.msix1.mask 8 then
        { s.start with msix1 := { s.start.msix1 with pba := s.start.msix1.pba ||| 2 ^ 8 } } else s.start }

/-- A Vorast object that answers one of type `object`, with its PART, STATUS and payload (R349). -/
def vorastOut (object part status : Nat) (payload : List Byte) : Out := .vorast true (vorastDws object part status payload)

/-- Between `s` and `t` the answer `o` was given, whatever else happened (R349, R359). -/
def State.replied (s : State) (o : Out) (t : State) : Prop := t.sent = (s.answered o).sent ∧ t.start.msix1 = (s.answered o).start.msix1

/-- The rational number that a finite value stands for. -/
def Fv.rat : Fv → Option ℚ
  | .fin neg m e => some ((if neg then -1 else 1) * (m : ℚ) * 2 ^ e)
  | _ => none

/-- A cast's slot once sweeps up to step `k` have agreed (R382). -/
def CastSlot.verifiedBy (c : CastSlot) (k : Option Nat) : CastSlot :=
  { c with verified := c.verified || (match c.img, k with | some g, some k => decide (g.step.toNat ≤ k) | _, _ => false) }

/-- The frame of 64 KiB at a module address is mapped to channels that answer, and none of its lines is poisoned (R211, R213). -/
def State.frameSound (s : State) (frame : Nat) : Prop :=
  frame % 0x10000 = 0 ∧ s.mem.poison = [] ∧ ∀ i < 128, ∃ q b, s.decodeAddr (frame + 512 * i) = .dram q b ∧ s.physLine q (b / 512) ≠ none

/-- The bytes of DRAM behind the frame at a module address are those of `d`. -/
def State.frameHolds (s : State) (frame : Nat) (d : List (Nat × Byte)) : Prop :=
  ∀ j < 0x10000, ∀ q b pl, s.decodeAddr (frame + j) = .dram q b → s.physLine q (b / 512) = some pl → s.dramByte pl (b % 512) = Sparse.getD d j 0

end Sys2Proof.Machine
end

