-- ==== Sys2Proof/Certificates/Slice0/Obligations.lean ====
section
/-! DEFINITION. The statements about the model. Each docstring names what it says; the rules it rests on stand in OBLIGATIONS.json. -/

open Sys2Proof Sys2Proof.Machine

/-! The block as a whole. -/

/-- A step takes the command at the front of the queue and is its meaning on the state with the queue's rest. -/
def Obligations.StepRunsFrontCommand : Prop :=
  ∀ (c : Instr) (rest : List Instr) (s : State), step { s with pending := c :: rest } = exec c { s with pending := rest }

/-- On an empty queue one always-on tick of eight 25 MHz cycles passes once the clock runs (log entry 2, the model's choice): only time, the
counts of powered time and the performance counters move. -/
def Obligations.IdleStepIsOneTick : Prop :=
  ∀ s : State, s.memWf = true → s.pending = [] →
    endsIn (step s) fun t =>
      t.time.osc = s.time.osc + (if s.time.running then 8 else 0) ∧ t.time.running = s.time.running ∧
        t.ledger = { s.ledger with poweredTicks := s.ledger.poweredTicks + (if s.time.running then 8 else 0) } ∧
        Same [.regs, .time, .ledger, .perf] s t ∧ t.pending = [] ∧
        regsBut (fun o => 0x40000 ≤ o ∧ o < 0x50000) s t

/-- From any state with canonical memories, one step that gives a next state gives canonical memories: registers, bonded memory with its
poison marks, every tile's memory. -/
def Obligations.StepKeepsMemoriesCanonical : Prop :=
  ∀ s t : State, s.memWf = true → step s = .next t → t.memWf = true

/-- No meaning touches the queue of commands, and what was sent stays sent. -/
def Obligations.CommandsKeepQueueAndOutputs : Prop :=
  ∀ (c : Instr) (s t : State), exec c s = .next t → t.pending = s.pending ∧ s.sent <:+ t.sent

/-- No command is refused; the one fault is the clock ratio outside R305, and only commands that run a start can end in it. -/
def Obligations.CommandsRunOrMeetUndefinedClocks : Prop :=
  ∀ (c : Instr) (s : State), (∃ t, exec c s = .next t) ∨ (startCommand c = true ∧ exec c s = .fault .clockRatioUndefined)

/-- After reset: every memory is in canonical form; no power, no command waits, nothing was sent, every register holds the number of its Reset column (those that the column gives
as Waybill, start or strap hold 0, log entry 10), no domain is on, no owner is enrolled and both Waybill slots are empty (log entry 11, the
model's choice). -/
def Obligations.ResetState : Prop :=
  State.reset.memWf = true ∧ State.reset.start.powered = false ∧ State.reset.pending = [] ∧ State.reset.sent = [] ∧ State.reset.stalled = [] ∧
    (∀ o, State.reset.rd o = regReset o) ∧ (∀ d < 155, State.reset.dom d = 0) ∧ State.reset.wb = none ∧
    State.reset.flash.owner = none ∧ (∀ i : Fin 2, State.reset.flash.slots[i] = none) ∧
    ∀ n : TileIx, (State.reset.tile n).mem = [] ∧ (State.reset.tile n).dwq = []

/-! Power, start and reset. -/

/-- POWER_ON without power: power is present, the straps are sampled and the start stands at step 3. XTAL_WAIT_EXPIRE at step 3: a toggling
oscillator starts always-on time at 0 and, with XSPI_EXT_N sampled low, holds the start before step 4; a silent one fails the start at step 3
with reason 0x10. -/
def Obligations.PowerOnAndOscillatorWait : Prop :=
  (∀ (straps : Straps) (s : State), s.memWf = true → s.start.powered = false →
    endsIn (exec (.powerOn straps) s) fun t =>
      t.start = { s.start with powered := true, straps := straps } ∧ t.get F.MGT_BOOTSTAT_STEP = 3 ∧
        fieldsBut [F.MGT_BOOTSTAT_STEP] s t ∧ Same [.regs, .start] s t) ∧
  ∀ (env : StartEnv) (s : State), s.memWf = true → s.start.powered = true → s.time.running = false → s.get F.MGT_BOOTSTAT_STEP = 3 →
    (s.start.straps.xspiExtHigh = false →
      endsIn (exec (.xtalWaitExpire true env) s) fun t =>
        t.time = { s.time with osc := 0, running := true } ∧ t.start = { s.start with env := env, xspiHold := true } ∧
          t.get F.CLK_STAT_XTAL_OK = 1 ∧ fieldsBut [F.CLK_STAT_XTAL_OK] s t ∧ Same [.regs, .time, .start] s t) ∧
    (s.start.ledgerRead = true → s.start.consec < 2 → s.start.noRetry = false → s.bootDir.trial = false →
      endsIn (exec (.xtalWaitExpire false env) s) fun t => s.failedStart 3 0x10 t ∧ t.time.running = true ∧ t.time.osc = 0)

/-- Every way into a start from step 4 begins it there, whatever the start meets: an oscillator that toggles with XSPI_EXT_N high, the release of
XSPI_EXT_N, the retry timer, RESTART with IMMEDIATE in normal mode, RESTART with AT_BOUNDARY of a module that has tripped, START_RETRY in minimal
mode. What the start shows at once: it waits in step 4; it failed there on the ROM's known answers; or, for every start, it stands at a step from 4 to
10, or has failed with a retry due, or is in minimal mode. The Waybills in the slots set clocks in the ratios of R305. -/
def Obligations.StartsBeginAtStepFour : Prop :=
  ∀ (env : StartEnv) (s : State), s.memWf = true → s.start.powered = true → s.ratiosHold →
    (s.time.running = false → s.get F.MGT_BOOTSTAT_STEP = 3 → s.start.straps.xspiExtHigh = true →
      endsIn (exec (.xtalWaitExpire true env) s) (s.startRan env true)) ∧
    (s.start.xspiHold = true → endsIn (exec (.xspiExtRelease env) s) (s.startRan env true)) ∧
    (s.start.retryArmed = true →
      endsIn (exec (.startRetryTimer env) s) fun t =>
        s.startRan env (s.on F.MGT_BOOTSTAT_POWER_ON) t ∧ t.time.osc = s.time.osc + 25000000) ∧
    (s.innkUp = true → s.mode ≠ 0 → s.mode ≠ 2 → endsIn (exec (.restartImmediate true env) s) (s.startRan env false)) ∧
    (s.innkUp = true → s.mode ≠ 0 → s.mode ≠ 2 → s.tripped = true →
      endsIn (exec (.restartAtBoundary true env) s) (s.startRan env false)) ∧
    (s.innkUp = true → s.mode = 2 →
      endsIn (exec (.startRetry true env) s) fun t =>
        s.startRan env false t ∧
          (env.hangStep = 4 → t.start.consec = 0 ∧ t.get F.MGT_BOOTSTAT_CONSEC_FAIL = 0 ∧ t.ledger.consecFail = 0))

/-- START_STEP_TIMEOUT: a step from 4 to 8 that waits fails the start with that step and the first reason of its row; step 9 leaves ports that
still train DOWN, the others as they are, and goes on to step 10.
CXL_LINK_UP with an allowed width and rate while the CXL domain is on and PERST_N high: the link is up with its width, in CXL mode where that is
negotiated at 32 GT/s; past step 10 nothing else changes. -/
def Obligations.StepTimeoutsAndLinkUp : Prop :=
  (∀ s : State, s.memWf = true → s.start.powered = true →
    (4 ≤ s.start.hung → s.start.hung ≤ 8 → s.start.ledgerRead = true → s.start.consec < 2 → s.start.noRetry = false → s.bootDir.trial = false →
      endsIn (exec .startStepTimeout s) fun t =>
        s.failedStart s.start.hung (stepReason s.start.hung) t ∧ t.time.osc = s.time.osc + stepLimit s.start.hung * 25000) ∧
    (s.start.hung = 9 →
      endsIn (exec .startStepTimeout s) fun t =>
        t.get F.MGT_BOOTSTAT_STEP = 10 ∧ t.start.hung = 10 ∧ t.dom domCxl = 3 ∧ t.time.osc = s.time.osc + 7500000 ∧
          (∀ p : PortIx, t.portState p.val = (if s.portState p.val = 1 ∨ s.portState p.val = 2 then 5 else s.portState p.val)) ∧
          Same [.regs, .time, .ledger, .perf, .start, .flt, .cast] s t)) ∧
  ∀ (link : CxlLink) (cxl : Bool) (s : State), link.lanes ∈ [4, 8, 16] → link.rate ∈ [25, 50, 80, 160, 320] → s.start.powered = true →
    s.dom domCxl = 3 → s.start.perstAsserted = false → s.start.cxlUp = false → s.start.hung ≠ 10 →
    exec (.cxlLinkUp link cxl) s =
      .next { s with start := { s.start with cxlUp := true, cxlLanes := link.lanes, cxlMode := cxl && link.rate == 320 } }

/-- The three turn-offs are a loss of power: every volatile state is lost and every register is back at its reset value; flash, pins and what was
sent stay. -/
def Obligations.TurnOffsLosePower : Prop :=
  ∀ (c : Instr) (s : State), c = .underVoltageTurnOff ∨ c = .overVoltageTurnOff ∨ c = .overCurrentTurnOff → s.start.powered = true →
    endsIn (exec c s) fun t =>
      t.start.powered = false ∧ t.time = State.reset.time ∧ (∀ o, t.rd o = regReset o) ∧ t.wb = none ∧ t.mem = State.reset.mem ∧
        t.tiles = State.reset.tiles ∧ t.coll = State.reset.coll ∧ t.mbx = State.reset.mbx ∧ t.flt = State.reset.flt ∧
        t.stalled = [] ∧ t.flash.slots = s.flash.slots ∧ t.flash.owner = s.flash.owner ∧ t.flash.ledgerNand = s.flash.ledgerNand ∧
        t.flash.ledgerXspi = s.flash.ledgerXspi ∧ t.start.perstAsserted = s.start.perstAsserted ∧ t.start.presentS = s.start.presentS ∧
        t.bootDir = s.bootDir ∧ t.sent = s.sent

/-! Resets of the host side, clocks, power. -/

/-- PERST_ASSERT of each kind, PERST_DEASSERT and the two FLRs: what each resets, and that the job goes on. -/
def Obligations.HostSideResets : Prop :=
  ∀ s : State, s.memWf = true → s.start.powered = true →
    (s.still → ∀ kind, endsIn (exec (.perstAssert kind) s) fun t =>
      t.start = { s.start with cxlUp := false, upload := none, uploadBytes := [], msix0 := MsixSt.init, msix1 := MsixSt.init
                               perstAsserted := s.start.perstAsserted || decide (kind = .perst) } ∧
        s.ringsReset true t ∧ t.mem = { s.mem with hostBias := [] } ∧ t.get F.MGT_HDM_HOST_BIAS = 0 ∧ t.running = s.running ∧
        frame ringWin [F.MGT_HDM_GRANULE, F.MGT_HDM_HOST_BIAS] s t ∧ Same [.regs, .start, .period, .mem] s t) ∧
    exec .perstDeassert s = .next { s with start := { s.start with perstAsserted := false } } ∧
    (endsIn (exec .flrFunction0 s) fun t =>
      s.ringsReset false t ∧ t.start = { s.start with msix0 := MsixSt.init } ∧ frame ringWin [F.MGT_HDM_GRANULE] s t ∧
        Same [.regs, .start, .period] s t) ∧
    exec .flrFunction1 s = .next s ∧
    exec .presentSMade s = .next { s with start := { s.start with presentS := true } }

/-- PLL_LOCK_LOSS: LOCK_LOSS, an error record, every unfenced tile of a step in progress FAILED; the work on the PLL's domains is lost: a loss of CORE
empties the queues of the tiles, of FAB those of the collectives, of MEM the write-combining buffers. -/
def Obligations.PllLossFailsTheStep : Prop :=
  ∀ (pll : Pll) (s : State), s.memWf = true → s.start.powered = true → s.mode = 1 → s.on (pllLock pll) = true → s.roomFor clsPower 0 →
    (pll = .fab → s.mem.spoiled = []) →
    endsIn (exec (.pllLockLoss pll) s) fun t =>
      t.get F.CLK_STAT_LOCK_LOSS = 1 ∧ s.queued (s.mkRec clsPower 0 1 0x0E 0 0 1 0) t ∧
        (s.period.stepActive = true → ∀ n : TileIx, s.tileFenced n.val = false → (t.tile n).failed = true) ∧
        (pll = .core → ∀ n : TileIx, (t.tile n).dwq = [] ∧ (t.tile n).portA = [] ∧ (t.tile n).portB = [] ∧ (t.tile n).portT = []) ∧
        (pll = .fab → t.coll.queue = [] ∧ (s.coll.queue ≠ [] → t.get F.COLL_STAT_ABANDONED = 1)) ∧
        (pll = .mem → fieldsBut (F.CLK_STAT_LOCK_LOSS :: queueFields) s t ∧ t.mem = { s.mem with wc := Vector.replicate 32 [] }) ∧
        (pll ≠ .core → t.stalled = s.stalled) ∧ (pll ≠ .fab → t.coll = s.coll) ∧ (pll = .core → t.mem = s.mem) ∧
        t.mode = 1 ∧ t.period = s.period

/-- DOMAIN_STATE_REQUEST, whatever its requests, leaves every domain it does not name as it is. It takes them in turn: a sleep state that the domain
uses is entered, a sleeping domain asked ON starts to wake, a state that it does not use is left; an OFF Flash domain stops the BOOT PLL.
DOMAIN_WAKE_DONE: the woken domain is ON and no longer waking, with Flash the BOOT PLL runs; of a domain that is not waking there is nothing to
do. -/
def Obligations.DomainsChangeStateAndWake : Prop :=
  (∀ s : State, s.memWf = true → s.timetableUp = true →
    (∀ reqs, endsIn (exec (.domainStateRequest reqs) s) fun t =>
      t.timetableUp = true ∧ Same [.regs, .power] s t ∧
        ∀ d < 155, (∀ r ∈ reqs, r.1.val ≠ d) → t.dom d = s.dom d ∧ t.get (F.PWR_DOM_STAT_REQ_STATE d) = s.get (F.PWR_DOM_STAT_REQ_STATE d)) ∧
    ∀ (d : DomIx) (st : PState), endsIn (exec (.domainStateRequest [(d, st)]) s) fun t =>
      (∀ rest, exec (.domainStateRequest ((d, st) :: rest)) s = exec (.domainStateRequest rest) t) ∧
        (s.mayRequest d.val st = false → t = s) ∧
        (s.mayRequest d.val st = true →
          t.get (F.PWR_DOM_STAT_REQ_STATE d.val) = PState.code st ∧
            (st ≠ .on → t.dom d.val = PState.code st ∧ t.power.waking = s.power.waking.filter (fun w => w.1 != d.val)) ∧
            (st = .on → t.dom d.val = s.dom d.val) ∧
            (st = .on → s.sleeping d.val → s.wakeBegan d.val 4 t) ∧
            (st = .off → d.val = domFlash ∧ t.get F.CLK_STAT_BOOT_LOCK = 0) ∧
            (st ≠ .off → t.get F.CLK_STAT_BOOT_LOCK = s.get F.CLK_STAT_BOOT_LOCK) ∧
            fieldsBut ([F.PWR_DOM_STAT_REQ_STATE d.val, F.PWR_DOM_STAT_STATE d.val, F.CLK_STAT_BOOT_LOCK] ++ wakeFields d.val) s t)) ∧
  ∀ (d : DomIx) (s : State), s.memWf = true →
    (s.power.waking.any (fun w => w.1 == d.val) = true → s.still →
      endsIn (exec (.domainWakeDone d) s) fun t =>
        t.dom d.val = 3 ∧ t.power = { s.power with waking := s.power.waking.filter (fun w => w.1 != d.val) } ∧
          t.get F.CLK_STAT_BOOT_LOCK = (if d.val = domFlash then 1 else s.get F.CLK_STAT_BOOT_LOCK) ∧
          fieldsBut [F.PWR_DOM_STAT_STATE d.val, F.CLK_STAT_BOOT_LOCK] s t ∧ Same [.regs, .power] s t) ∧
    (s.power.waking.any (fun w => w.1 == d.val) = false → exec (.domainWakeDone d) s = .next s)

/-- DEEP_SLEEP_ENTER stops the CORE PLL exactly where the three conditions of R303 hold; WAKE_LEAD_TIMER restarts it WAKE_LEAD before the
boundary and wakes the Timetable and the domains that the plan names for tick 0. -/
def Obligations.DeepSleepAndItsEnd : Prop :=
  ∀ s : State, s.memWf = true → s.running = true → s.period.inPeriod = true →
    (s.on F.CLK_STAT_CORE_LOCK = true →
      ((s.phase = 4 ∨ s.phase = 5) ∧ (∀ d < 155, coreDom d = true → s.dom d = 1 ∨ s.dom d = 0) ∧
          s.aon + s.get F.CLK_SLEEP_CFG_PLL_STOP_MIN ≤ s.nextWake →
        endsIn (exec .deepSleepEnter s) fun t =>
          t.get F.CLK_STAT_CORE_LOCK = 0 ∧ t.get F.CLK_STAT_CORE_STOPPED = 1 ∧
            t.get F.CLK_STAT_DEEP_SLEEPS = min (2 ^ 32 - 1) (s.get F.CLK_STAT_DEEP_SLEEPS + 1) ∧
            fieldsBut [F.CLK_STAT_CORE_LOCK, F.CLK_STAT_CORE_STOPPED, F.CLK_STAT_DEEP_SLEEPS] s t ∧ Same [.regs] s t) ∧
      (¬ ((s.phase = 4 ∨ s.phase = 5) ∧ (∀ d < 155, coreDom d = true → s.dom d = 1 ∨ s.dom d = 0) ∧
          s.aon + s.get F.CLK_SLEEP_CFG_PLL_STOP_MIN ≤ s.nextWake) → exec .deepSleepEnter s = .next s)) ∧
    (s.time.running = true → s.time.osc ≤ s.boundaryOsc →
      endsIn (exec .wakeLeadTimer s) fun t =>
        t.time.osc = max s.time.osc (s.nextWake * 8) ∧ t.on F.CLK_STAT_CORE_STOPPED = false ∧
          (∀ d, d = domTimetable ∨ (∃ p, s.plan = some p ∧ ∃ x ∈ p.tick0, x.val = d) → s.sleeping d → s.wakeBegan d 3 t) ∧
          (∀ d < 155, t.dom d = s.dom d) ∧
          Same [.regs, .time, .ledger, .power, .perf] s t)

/-- WORK_ITEM_COMPLETE of a running item: it is done, and where it was the last of the self-test the module sleeps. -/
def Obligations.CompletedItemIsDone : Prop :=
  ∀ (id : Nat) (x : ItemSt) (s : State), s.memWf = true → s.running = true → s.period.inPeriod = true → s.itemSt id = some x → x.running = true →
    endsIn (exec (.workItemComplete id) s) fun t =>
      t.itemSt id = some { x with running := false, done := true, reserve := 0 } ∧
        (s.phase = 4 → (∀ y ∈ s.power.items, y.id = id ∨ y.done = true) → t.phase = 5) ∧
        (s.phase ≠ 4 → t.phase = s.phase) ∧
        frame (fun o => o = 0x10008 ∨ o = 0x10028) [F.MGT_PERIOD_STAT_PHASE] s t ∧ Same [.regs, .power] s t

/-- POWER_LIMIT_WRITE, METER_LIMIT_REACHED, PWRBRK_ASSERT and PWRBRK_RELEASE. -/
def Obligations.PowerLimitsAndBrake : Prop :=
  ∀ s : State, s.memWf = true →
    (∀ v : BitVec 12, s.regsLoaded = true → 600 ≤ s.get F.PWR_LIMIT_LIMIT_MAX →
      endsIn (exec (.powerLimitWrite v) s) fun t =>
        t.get F.PWR_LIMIT_POWER_LIMIT = min (s.get F.PWR_LIMIT_LIMIT_MAX) (max 600 v.toNat) ∧
          t.get F.PWR_STAT_LIMIT_CLAMP =
            (if v.toNat < 600 ∨ s.get F.PWR_LIMIT_LIMIT_MAX < v.toNat then 1 else s.get F.PWR_STAT_LIMIT_CLAMP) ∧
          fieldsBut [F.PWR_LIMIT_POWER_LIMIT, F.PWR_STAT_LIMIT_CLAMP] s t ∧ Same [.regs] s t) ∧
    (∀ d : DomIx, s.grants = true → dynDom d.val = true →
      exec (.meterLimitReached d) s = .next { s with power := { s.power with metered := NatSet.add s.power.metered d.val } }) ∧
    (s.reckonerOn = true →
      (endsIn (exec .pwrbrkAssert s) fun t =>
        t.get F.PWR_STAT_BRAKE_ACTIVE = 1 ∧
          (s.on F.PWR_STAT_BRAKE_ACTIVE = true → t.power = { s.power with brakeAge := max 1 s.power.brakeAge }) ∧
          (s.on F.PWR_STAT_BRAKE_ACTIVE = false → t.get F.PWR_STAT_BRAKE = 1 ∧ (s.on F.PWR_STAT_BRAKE = false → s.raised false 5 t) ∧
            t.burstRunning = false ∧ t.freeCredit = s.freeCredit ∧
            t.power = { s.power with
              brakeAge := max 1 s.power.brakeAge, items := s.power.items.map (fun x => { x with burst := false, reserve := 0 })
              reserved := t.power.reserved }) ∧
          fieldsBut [F.PWR_STAT_BRAKE_ACTIVE, F.PWR_STAT_BRAKE] s t ∧ SameAndSent [.regs, .power] s t) ∧
      (endsIn (exec .pwrbrkRelease s) fun t =>
        t.power = { s.power with brakeAge := 0 } ∧ t.get F.PWR_STAT_BRAKE_ACTIVE = 0 ∧
          fieldsBut [F.PWR_STAT_BRAKE_ACTIVE] s t ∧ Same [.regs, .power] s t))

/-- GRANT_INTERVAL without a burst and with the base within its limits: time comes to the next multiple of 10 µs, a written POWER_LIMIT comes into
force, the measurements stand in their registers, base and dynamic grants stay within POWER_LIMIT, and CREDIT grows by what is left, up to its
maximum.
The grants of an interval: as many as domains, each at most what its domain asks for, together at most what is available; and where the
requests fit, every domain gets what it asks for. -/
def Obligations.GrantIntervalKeepsTheLimit : Prop :=
  (∀ (inp : IntervalIn) (s : State), s.memWf = true → s.grants = true → s.still → (∀ p, (s.port p).waiting = []) → s.burstRunning = false →
    inp.base ≤ s.get F.PWR_LIMIT_POWER_LIMIT → inp.base ≤ s.get F.PWR_LIMIT_PEAK_LIMIT →
    endsIn (exec (.grantInterval inp) s) fun t =>
      t.time.osc = s.time.osc + (250 - s.time.osc % 250) ∧ t.power.interval = s.power.interval + 1 ∧
        t.power.limit = s.get F.PWR_LIMIT_POWER_LIMIT ∧ t.power.tileTemp = inp.tileTemp ∧ t.power.stackTemp = inp.stackTemp ∧
        t.get F.PWR_INPUT_VIN = min 65535 inp.vinMv ∧ t.get F.PWR_THERM_JT_MAX = min 1023 (listMax inp.tileTemp.toList) ∧
        t.get F.PWR_GRANT_BASE = inp.base ∧ t.get F.PWR_GRANT_TOTAL_GRANT = inp.base + t.get F.PWR_GRANT_DYN_GRANT ∧
        t.get F.PWR_GRANT_TOTAL_GRANT ≤ s.get F.PWR_LIMIT_POWER_LIMIT ∧ t.get F.PWR_STAT_BURST = 0 ∧ t.get F.PWR_STAT_BURST_RUN = 0 ∧
        t.credit = min (s.creditMax (s.get F.PWR_LIMIT_POWER_LIMIT) : Int)
          (s.credit + (s.get F.PWR_LIMIT_POWER_LIMIT - t.get F.PWR_GRANT_TOTAL_GRANT : Int)) ∧
        (∀ d < 155, t.dom d = s.dom d) ∧ SameAndSent [.regs, .time, .ledger, .power, .flt, .perf] s t ∧ t.flt.queue = s.flt.queue) ∧
  ∀ (k avail : Nat) (r1 r2 r3 : List Nat), r1.length = 155 → r2.length = 155 → r3.length = 155 →
    (grantAll k avail r1 r2 r3).length = 155 ∧ (grantAll k avail r1 r2 r3).sum ≤ avail ∧
      (∀ d < 155, (grantAll k avail r1 r2 r3).getD d 0 ≤ r1.getD d 0 + r2.getD d 0 + r3.getD d 0) ∧
      (r1.sum + r2.sum + r3.sum ≤ avail → ∀ d < 155, (grantAll k avail r1 r2 r3).getD d 0 = r1.getD d 0 + r2.getD d 0 + r3.getD d 0)

/-- The two trips: THERMAL_TRIP after 100 hot intervals, and a GRANT_INTERVAL whose base is above PEAK_LIMIT. Each turns every domain but
the CXL domain OFF, sets its flag and queues its record last. -/
def Obligations.TripsTurnTheModuleOff : Prop :=
  ∀ s : State, s.memWf = true → s.grants = true → s.roomFor clsPower 0 → s.flt.queue.length < 62 →
    (100 ≤ s.power.hotRun →
      endsIn (exec .thermalTrip s) fun t =>
        s.turnedOff t ∧ t.get F.PWR_STAT_THERM_TRIP = 1 ∧ s.queued (s.mkRec clsPower 0 3 0x0C 0 0 1 0) t ∧ t.running = false) ∧
    (∀ inp : IntervalIn, s.get F.PWR_LIMIT_PEAK_LIMIT < inp.base →
      endsIn (exec (.grantInterval inp) s) fun t =>
        s.turnedOff t ∧ t.get F.PWR_STAT_BASE_TRIP = 1 ∧ t.running = false ∧
          ∃ r ∈ t.flt.queue, r.cls = clsPower ∧ r.severity = 3 ∧ r.kind = 0x0D)

/-! Start-up step 11 and the period. -/

/-- A start that waits at step 10 enters step 11 with the link, or without it at its limit with CXL_LATE: the job starts; a RESTART with AT_BOUNDARY
that it holds is due at the boundary. -/
def Obligations.JobStartsAtStepEleven : Prop :=
  ∀ s : State, s.memWf = true → s.start.powered = true → s.start.hung = 10 → (∀ env, s.start.restartHeld ≠ some (.immediate, env)) →
    s.start.restoreHeld = false → s.tooManyFenced = false → s.ladderEntries.all (fun e => e.initRung != 7) = true →
    (s.bootDir.trial = true → s.bootRoom) →
    (∀ (link : CxlLink) (cxl : Bool), link.lanes ∈ [4, 8, 16] → link.rate ∈ [25, 50, 80, 160, 320] → s.dom domCxl = 3 →
      s.start.perstAsserted = false → s.start.cxlUp = false →
      endsIn (exec (.cxlLinkUp link cxl) s) fun t =>
        s.jobBegan t ∧ t.start.cxlUp = true ∧ t.start.cxlLanes = link.lanes ∧ t.start.cxlMode = (cxl && link.rate == 320) ∧
          (∀ env, s.start.restartHeld = some (.atBoundary, env) → t.start.restartAtBoundary = some env) ∧
          t.get F.MGT_BOOTSTAT_CXL_LATE = s.get F.MGT_BOOTSTAT_CXL_LATE) ∧
    endsIn (exec .startStepTimeout s) fun t =>
      s.jobBegan t ∧ t.get F.MGT_BOOTSTAT_CXL_LATE = 1 ∧ t.time.osc = s.time.osc + 25000000 ∧
        (∀ env, s.start.restartHeld = some (.atBoundary, env) → t.start.restartAtBoundary = some env)

/-- PERIOD_BOUNDARY after the phases have ended: the next period, or the master's, begins in its boundary phase at the tick where the last
one ends; tile memories, queues, collectives and work items are gone, work is bound to what is not fenced, FEC_CORR shows the codewords of the
period that ends; without an unresolved step pending rungs are applied. -/
def Obligations.BoundaryBeginsThePeriod : Prop :=
  ∀ s : State, s.memWf = true → s.running = true → s.on F.FLT_STAT_INNK_DOWN = false → s.start.restartAtBoundary = none →
    s.mem.latent = [] → (s.period.inPeriod = true → (s.phase = 4 ∨ s.phase = 5) ∧ s.period.stepActive = false) →
    endsIn (exec .periodBoundary s) fun t =>
      t.period.inPeriod = true ∧ t.phase = 0 ∧ t.get F.MGT_PERIOD_STAT_PERIOD_NUM = s.nextPeriod ∧
        t.time.osc = (if s.period.inPeriod then max s.time.osc s.boundaryOsc else s.time.osc) ∧ t.periodStart = t.aon % 2 ^ 64 ∧
        t.get F.MGT_PERIOD_STAT_STEPS_SEALED_LAST = min 255 s.period.sealedNow ∧
        t.get F.MGT_PERIOD_STAT_STEPS_DROPPED_LAST = min 255 s.period.droppedNow ∧ t.period.sealedNow = 0 ∧ t.period.droppedNow = 0 ∧
        (∀ n : TileIx, (t.tile n).mem = [] ∧ (t.tile n).poison = [] ∧ (t.tile n).dwq = [] ∧ (t.tile n).portA = [] ∧ (t.tile n).portB = [] ∧
          (t.tile n).pending = [] ∧ (t.tile n).parts = [] ∧ (t.tile n).part = none) ∧
        (∀ p : PortIx, t.get (F.LINK_PORT_ERR_FEC_CORR p.val) = min 0xFFFFFFFF (s.port p).corrected ∧ (t.port p).corrected = 0) ∧
        t.period.boundFence = s.get F.FLT_FENCE_TILE_TILES ∧ t.period.boundEng = (s.rd 0x50018).toNat ∧ t.mem.stash = [] ∧ t.mem.held = [] ∧
        t.coll.queue = [] ∧ t.power.items = [] ∧ (∀ w ∈ t.stalled, hostSide w.cmd = true) ∧ t.mem.wc = Vector.replicate 32 [] ∧
        (s.get F.SEAL_STAT_SEAL_STATE ≠ 2 → t.mem.shadows = [] ∧ t.ladder = s.applyRungs.ladder ∧ t.seals.votes = []) ∧
        s.sameStart t ∧ t.wb = s.wb ∧ t.mbx = s.mbx ∧ t.flt = s.flt

/-- BOUNDARY_PHASE_END: at tick 160 a spare module goes to sleep, another one begins its ingest with PROD of each ring as given. -/
def Obligations.IngestBeginsAtTickOneSixty : Prop :=
  ∀ (prods : Vector U64 8) (s : State), s.memWf = true → s.running = true → s.time.running = true → s.period.inPeriod = true →
    s.phase = 0 → s.period.ttFault = false →
    endsIn (exec (.boundaryPhaseEnd prods) s) fun t =>
      t.time.osc = max s.time.osc ((s.periodStart + 160) * 8) ∧ s.raised false 1 t ∧
        (s.on F.ENG_CAST_CFG_SPARE = true → t.phase = 5 ∧ frame perfWin [F.MGT_PERIOD_STAT_PHASE] s t) ∧
        (s.on F.ENG_CAST_CFG_SPARE = false → t.phase = 1 ∧ t.power.items.map (fun x => x.id) = (s.planItems 1).map (fun i => i.id) ∧
          ∀ r : RingIx, s.ringTaken r prods[r].toNat t) ∧
        SameAndSent [.regs, .time, .ledger, .power, .period, .perf] s t

/-- RING_RECORD_ARRIVE for the lowest ring being read: a good record is handed to ingest, a poisoned one counted and skipped, a completion error
stops the ring where it stands. Each is read at its host address. -/
def Obligations.RingRecordsAreRead : Prop :=
  ∀ (r : RingIx) (s : State), s.memWf = true → s.running = true → s.period.inPeriod = true → s.phase = 1 →
    allRings.find? (fun q => (s.ring q).reading) = some r → s.get (F.MGT_RING_CONS_CONS r.val) + 1 < 2 ^ 64 →
    (∀ bytes, endsIn (exec (.ringRecordArrive r (.good bytes)) s) fun t =>
      t.period.ingested = (r.val, s.get (F.MGT_RING_CONS_CONS r.val), sliceBytes bytes 0 (s.ring r).recBytes) :: s.period.ingested ∧
        t.sent = s.recordRead r :: s.sent ∧
        s.consMoved r t ∧ fieldsBut [F.MGT_RING_CONS_CONS r.val, F.MGT_RING_STAT_ACTIVE r.val] s t ∧ Same [.regs, .period, .sent] s t) ∧
    (endsIn (exec (.ringRecordArrive r .poisoned) s) fun t =>
      t.period.ingested = s.period.ingested ∧ s.recordRead r ∈ t.sent ∧ s.consMoved r t ∧ t.get (F.MGT_RING_STAT_POISON_REC r.val) = 1 ∧
        t.get (F.MGT_RING_STAT_POISONED r.val) = min 65535 (s.get (F.MGT_RING_STAT_POISONED r.val) + 1) ∧
        fieldsBut [F.MGT_RING_CONS_CONS r.val, F.MGT_RING_STAT_ACTIVE r.val, F.MGT_RING_STAT_POISON_REC r.val,
          F.MGT_RING_STAT_POISONED r.val] s t ∧ SameAndSent [.regs, .period] s t) ∧
    (endsIn (exec (.ringRecordArrive r .completionError) s) fun t =>
      t.period.ingested = s.period.ingested ∧ s.recordRead r ∈ t.sent ∧ (t.ring r).reading = false ∧ t.get (F.MGT_RING_STAT_READ_ERR r.val) = 1 ∧
        t.get (F.MGT_RING_STAT_ACTIVE r.val) = 0 ∧
        fieldsBut [F.MGT_RING_STAT_ACTIVE r.val, F.MGT_RING_STAT_READ_ERR r.val] s t ∧ SameAndSent [.regs, .period] s t)

/-- Ingest ends complete, or at INGEST_DL with what is left in the rings; inference begins either way, its output buffer opened unless it is
held. Past the phase INGEST_DL ends its collectives alone. -/
def Obligations.IngestEndsAndInferenceBegins : Prop :=
  ∀ s : State, s.memWf = true → s.running = true → s.period.inPeriod = true →
    (s.phase = 1 → s.ingestOver = true → exec .ingestComplete s = .next s.enterInference ∧
      (s.mem.latent = [] → s.inferenceBegan s.enterInference ∧
        s.enterInference.get F.MGT_PERIOD_STAT_INGEST_LATE = s.get F.MGT_PERIOD_STAT_INGEST_LATE ∧
        SameAndSent [.regs, .power, .period, .mem, .tiles, .stalled, .free] s s.enterInference)) ∧
    (s.phase = 1 → s.time.running = true → s.mem.latent = [] →
      endsIn (exec .ingestDeadline s) fun t =>
        s.inferenceBegan t ∧
          t.get F.MGT_PERIOD_STAT_INGEST_LATE = (if s.ingestOver = true ∧ s.period.ttFault = false ∧ (∀ c ∈ s.coll.queue, c.phase ≠ 1)
            then s.get F.MGT_PERIOD_STAT_INGEST_LATE else 1) ∧
          t.time.osc = max s.time.osc ((s.periodStart + s.get F.MGT_PERIOD_CFG0_INGEST_DL) * 8) ∧ t.ingestOver = true ∧
          (∀ r : RingIx, t.get (F.MGT_RING_CONS_CONS r.val) = s.get (F.MGT_RING_CONS_CONS r.val)) ∧
          t.coll.queue = s.coll.queue.filter (fun c => c.phase != 1)) ∧
    (1 < s.phase → s.mem.spoiled = [] →
      endsIn (exec .ingestDeadline s) fun t =>
        t.phase = s.phase ∧ t.coll.queue = s.coll.queue.filter (fun c => c.phase != 1) ∧ t.period = s.period)

/-- Inference ends complete, or at INFER_DL with what is left cancelled; the output is published either way and training begins. Past the phase
INFER_DL ends its collectives alone. -/
def Obligations.InferenceEndsAndTrainingBegins : Prop :=
  ∀ s : State, s.memWf = true → s.running = true → s.period.inPeriod = true →
    (s.phase = 2 → s.outStalled = false → s.itemsDone = true → exec .inferenceComplete s = .next (s.outPublish false).enterTraining ∧
      (s.mem.latent = [] → s.get F.SEAL_STAT_SEAL_STATE ≠ 2 →
        s.outputPublished (s.outPublish false).enterTraining ∧ (s.outPublish false).enterTraining.trainingBegan ∧
          (s.outPublish false).enterTraining.get F.MGT_PERIOD_STAT_INFER_LATE = s.get F.MGT_PERIOD_STAT_INFER_LATE)) ∧
    (s.phase = 2 → s.time.running = true → s.outStalled = false → s.mem.latent = [] → s.get F.SEAL_STAT_SEAL_STATE ≠ 2 →
      endsIn (exec .inferDeadline s) fun t =>
        s.outputPublished t ∧ t.trainingBegan ∧
          t.get F.MGT_PERIOD_STAT_INFER_LATE = (if s.itemsDone = true ∧ s.period.ttFault = false ∧ (∀ c ∈ s.coll.queue, c.phase ≠ 2)
            then s.get F.MGT_PERIOD_STAT_INFER_LATE else 1) ∧
          t.time.osc = max s.time.osc ((s.periodStart + s.get F.MGT_PERIOD_CFG1_INFER_DL) * 8) ∧
          t.coll.queue = s.coll.queue.filter (fun c => decide (2 < c.phase))) ∧
    (2 < s.phase → s.mem.spoiled = [] →
      endsIn (exec .inferDeadline s) fun t =>
        t.phase = s.phase ∧ t.coll.queue = s.coll.queue.filter (fun c => decide (2 < c.phase)) ∧ t.period = s.period)

/-- TRAIN_DEADLINE in the training phase: a step in flight is dropped, or unresolved where the module has voted; training collectives end and the
self-test phase begins. No collective of the step broke a rule of R285, whose destination would be written anew. -/
def Obligations.TrainingEndsAtItsDeadline : Prop :=
  ∀ s : State, s.memWf = true → s.running = true → s.time.running = true → s.period.inPeriod = true → s.phase = 3 → s.mem.spoiled = [] →
    endsIn (exec .trainDeadline s) fun t =>
      (t.phase = 4 ∨ t.phase = 5) ∧ t.period.stepActive = false ∧
        t.time.osc = max s.time.osc ((s.periodStart + s.get F.MGT_PERIOD_CFG1_TRAIN_DL) * 8) ∧
        t.coll.queue = s.coll.queue.filter (fun c => decide (3 < c.phase)) ∧
        (s.period.stepActive = true → s.seals.voted = false →
          t.get F.MGT_PERIOD_STAT_STEP_DROPPED = 1 ∧ t.period.droppedNow = s.period.droppedNow + 1 ∧ t.mem.shadows = [] ∧ t.seals.votes = [] ∧
            t.seals.late = true ∧ t.get F.SEAL_STAT_SEAL_STATE = s.get F.SEAL_STAT_SEAL_STATE) ∧
        (s.period.stepActive = true → s.seals.voted = true →
          t.get F.SEAL_STAT_SEAL_STATE = 2 ∧ t.get F.SEAL_STAT_UNRESOLVED = 1 ∧ t.mem.shadows = s.mem.shadows ∧
            t.period.droppedNow = s.period.droppedNow) ∧
        (s.period.stepActive = false → t.period.droppedNow = s.period.droppedNow ∧ t.mem.shadows = s.mem.shadows) ∧
        t.get F.SEAL_STEP_STEP_COUNTER = s.get F.SEAL_STEP_STEP_COUNTER ∧ t.mem.dram = s.mem.dram ∧ t.mem.frames = s.mem.frames

/-- TRAINING_STEP_START: a step that may start and fits before TRAIN_DL begins with its tiles' flags clear, counts at 0 and pending rungs applied;
where none fits, the training phase ends. -/
def Obligations.TrainingStepStarts : Prop :=
  ∀ s : State, s.memWf = true → s.mem.latent = [] →
    (s.mayTrain = true → s.stepFits = true → (s.layout = none ∨ ∃ l, s.layout = some l ∧ l.rangeCopies = []) →
      endsIn (exec .trainingStepStart s) fun t =>
        t.period.stepActive = true ∧ t.phase = 3 ∧ t.stepNo = s.stepNo ∧ t.ladder = s.applyRungs.ladder ∧ t.mem.returning = [] ∧
          t.seals.votes = [] ∧ t.seals.voted = false ∧ t.power.items.map (fun x => x.id) = (s.planItems 3).map (fun i => i.id) ∧
          (∀ n : TileIx, s.tileFenced n.val = false →
            (t.tile n).failed = false ∧ (t.tile n).nonfin = false ∧ (t.tile n).poisonUsed = false ∧ (t.tile n).part = none ∧
              (t.tile n).drain = false ∧ (t.tile n).mem = (s.tile n).mem) ∧
          t.mem.dram = s.mem.dram ∧ t.mem.shadows = s.mem.shadows ∧
          Same [.regs, .power, .period, .seals, .ladder, .mem, .tiles, .stallReq] s t) ∧
    (s.running = true → s.period.inPeriod = true → s.phase = 3 → s.period.stepActive = false → s.stepFits = false →
      endsIn (exec .trainingStepStart s) fun t => (t.phase = 4 ∨ t.phase = 5) ∧ t.period = s.period)

/-! The units of a tile. -/

/-- The nine vector commands run at once on a free tile whose scalar entry is not pending: a record with TAG and STATUS, no memory changed
but the destination, none where the command is refused, the scalar file but for a summary. A CVT in G4 is in FP4 where the layer's rung says so. -/
def Obligations.VectorCommandsComplete : Prop :=
  ∀ (c : Instr) (n : TileIx) (op : Nat) (d : BitVec 512) (s : State), vectorOp c = some (n, op, d) → s.memWf = true → s.tileFree n →
    (∀ k, scalarAsked c = some (n, k) → (s.tile n).pending.contains k = false) →
    let e := s.rungVector n op d
    endsIn (exec c s) fun t =>
      (∃ r, (t.tile n).recs = r :: (s.tile n).recs ∧ recTag r = vTag d ∧ recStatus r = vStatus op e) ∧
        s.tileBytesBut n (fun a => vStatus op e = stOk ∧ vStored e a) t ∧
        (vStatus op e ≠ stOk → t.get (F.TILE_VE_STATUS_REFUSED n.val) = 1) ∧
        (∀ i : Fin 32, ¬ (vSummary d = true ∧ vSumSlot d ≤ i.val ∧ i.val < vSumSlot d + 4) → (t.tile n).sf[i] = (s.tile n).sf[i]) ∧
        (t.tile n).cru = (s.tile n).cru ∧ (t.tile n).portA = (s.tile n).portA ∧ (t.tile n).portB = (s.tile n).portB ∧
        (t.tile n).portT = (s.tile n).portT ∧ (t.tile n).dwq = (s.tile n).dwq ∧ s.onTile n t

/-- The element operations on one row of one lane, without a scalar operand: the destination's bytes are the code that R202 to R204 give for the
operands as they were.
PERM with lane numbers in tile memory: a lane number of VL or more gives zero, the command completes normally, LANE_OOR is set where there is
such a lane and OOR_LANES counts them. -/
def Obligations.VectorLaneResults : Prop :=
  (∀ (c : Instr) (n : TileIx) (op : Nat) (d : BitVec 512) (s : State), vectorOp c = some (n, op, d) → s.memWf = true → s.tileFree n →
    op ≠ vCvt → vStatus op d = stOk → vRows d = 1 → vLanes d = 1 → vScalarOp d = 0 → (∀ j ≤ 3, vBase d j + 8 ≤ tileBytes) →
    let lane := fun j => if vUses op j then laneOf (vFmt d j) (leNat (s.tileRead n (vBase d j) (elemBytes (vFmt d j))).1) else laneOf fInt32 0
    let r := vLane d (s.vDraw d 0 0) (s.vFree n 0 0) [lane 1] (lane 1) (lane 2) (lane 3)
    endsIn (exec c s) fun t =>
      (∀ i < elemBytes (vDst d), t.tileByte n (vBase d 0 + i) = (leBytes (elemBytes (vDst d)) r.elem.code).getD i 0) ∧
        t.get (F.TILE_VE_STATUS_LANE_OOR n.val) = (if r.oor then 1 else s.get (F.TILE_VE_STATUS_LANE_OOR n.val)) ∧
        t.get (F.TILE_VE_STATUS_INT_SAT n.val) = (if r.isat then 1 else s.get (F.TILE_VE_STATUS_INT_SAT n.val))) ∧
  (∀ (d : BitVec 512) (u fr : Nat) (row : List Lane) (a b c : Lane), vOp d = vPerm → vLanes d ≤ c.code →
    (vLane d u fr row a b c).elem.code = 0 ∧ (vLane d u fr row a b c).oor = true) ∧
  ∀ (n : TileIx) (d : BitVec 512) (s : State), s.memWf = true → s.tileFree n → vStatus vPerm d = stOk → vScalarOp d = 0 →
    (∀ j ≤ 3, ∀ r < vRows d, ∀ l < vLanes d, vBase d j + (r * vPitch d j + l * vStride d j) * 8 + 8 ≤ tileBytes) →
    let oor := (List.range (vRows d)).flatMap (fun r => (List.range (vLanes d)).filter (fun l =>
      decide (vLanes d ≤ leNat (s.tileRead n (vBase d 3 + (r * vPitch d 3 + l * vStride d 3) * 4) 4).1)))
    endsIn (exec (.perm n d) s) fun t =>
      ∃ r, (t.tile n).recs = r :: (s.tile n).recs ∧ recStatus r = stOk ∧ recField r 111 96 = min 65535 oor.length ∧
        t.get (F.TILE_VE_STATUS_LANE_OOR n.val) = (if oor.isEmpty then s.get (F.TILE_VE_STATUS_LANE_OOR n.val) else 1)

/-- OPERAND_IN and TRANSPOSE_IN at once on a free tile, as the layer's rung changes them: the operand, or its refusal, stands last at the Ladle's
port; a refused command alone leaves a record; tile memory is read only, but for the stash that the first TRANSPOSE_IN of a layer reloads. -/
def Obligations.OperandsReachTheirPort : Prop :=
  ∀ (c : Instr) (n : TileIx) (l : Fin 4) (op : Nat) (d0 : BitVec 512) (s : State),
    (c = .operandIn n l d0 ∧ op = opOperandIn) ∨ (c = .transposeIn n l d0 ∧ op = opTransposeIn) → s.memWf = true → s.tileFree n →
    let d := s.rungLadle n l.val d0
    let s0 := s.setLayer n (lLayer d)
    let s1 := if op = opTransposeIn then s0.reachLayer n (lLayer d) else s0
    let status := s1.ladleStatus n l.val op d
    (s.period.stepActive = false ∨ s.mem.reached.contains (64 * lLayer d + n.val) = true → s1 = s0) ∧
    (s1.stallReq = false → endsIn (exec c s) fun t =>
      (l ≠ 3 → ∃ o : Operand, o.d = d ∧ o.ladle = l.val ∧ o.status = status ∧
        (t.tile n).portA = (s1.tile n).portA ++ (if l = 0 then [o] else []) ∧
        (t.tile n).portB = (s1.tile n).portB ++ (if l = 1 then [o] else []) ∧
        (t.tile n).portT = (s1.tile n).portT ++ (if l = 2 then [o] else [])) ∧
      (status = stOk → (t.tile n).recs = (s1.tile n).recs) ∧
      (status ≠ stOk → (∃ r, (t.tile n).recs = r :: (s1.tile n).recs ∧ recTag r = lTag d0 ∧ recStatus r = status) ∧
        t.get (F.TILE_LDL_STAT_LAST_REFUSED_TAG n.val) = lTag d0 ∧ t.get (F.TILE_LDL_STAT_LAST_REFUSED_LADLE n.val) = l.val) ∧
      s1.tileBytesBut n (fun _ => False) t ∧ (t.tile n).cru = (s1.tile n).cru ∧ (t.tile n).sf = (s1.tile n).sf ∧
      (t.tile n).dwq = (s1.tile n).dwq ∧ (s1 = s0 → (t.tile n).layer = lLayer d0) ∧ s1.onTile n t)

/-- CONVERT and RESULT_OUT at once on a free tile, as the layer's rung changes them: a record with TAG and STATUS; a refused command changes no byte,
the others none but the destination and the clip mask; the Crucible's words stay. -/
def Obligations.ConvertAndResultOutStore : Prop :=
  ∀ (n : TileIx) (l : Fin 4) (d0 : BitVec 512) (s : State), s.memWf = true → s.tileFree n →
    let d := s.rungLadle n l.val d0
    let s0 := s.setLayer n (lLayer d)
    (endsIn (exec (.convert n l d0) s) fun t =>
      let status := s0.ladleStatus n l.val opConvert d
      (∃ r, (t.tile n).recs = r :: (s.tile n).recs ∧ recTag r = lTag d0 ∧ recStatus r = status) ∧
        s.tileBytesBut n (fun a => status = stOk ∧ ladleStored l.val d false a) t ∧ (t.tile n).cru = (s.tile n).cru ∧
        (t.tile n).sf = (s.tile n).sf ∧ (t.tile n).portA = (s.tile n).portA ∧ (t.tile n).portB = (s.tile n).portB ∧ s.onTile n t) ∧
    (endsIn (exec (.resultOut n l d0) s) fun t =>
      let held := if l.val == 3 && decide (lSrcBase d < 128) then ((s.tile n).cru[slotIx (lSrcBase d)]).bad else stOk
      let status := max (s0.ladleStatus n l.val opResultOut d) held
      (held ≤ stLayout → ∃ r, (t.tile n).recs = r :: (s.tile n).recs ∧ recTag r = lTag d0 ∧ recStatus r = status) ∧
        s.tileBytesBut n (fun a => status = stOk ∧ ladleStored l.val d (s.intCopy n l.val d) a) t ∧
        (∀ i : Fin 128, ((t.tile n).cru[i]).words = ((s.tile n).cru[i]).words) ∧
        (t.tile n).sf = (s.tile n).sf ∧ (t.tile n).portA = (s.tile n).portA ∧ (t.tile n).portB = (s.tile n).portB ∧ s.onTile n t)

/-- MATMUL with both operands at its ports takes them; its record is last; a refused one changes no slot's words, an accepted one those of its slots
alone, which hold the sums of R114 to R121 where the tile starts at zero and the array does not fail. Of tile memory only what its operands' Ladle
commands write changes. -/
def Obligations.MatmulTakesItsOperands : Prop :=
  ∀ (n : TileIx) (d : BitVec 256) (stalls : Nat) (us : List Upset) (s : State) (a b : Operand), s.memWf = true → s.tileFree n →
    s.roomFor clsTile n.val → s.noVoteDue → mOp d = opMatmulCode → mSel d ≠ 3 → (s.tile n).sideA (mSel d) = a :: ((s.tile n).sideA (mSel d)).tail →
    (s.tile n).sideB (mSel d) = b :: ((s.tile n).sideB (mSel d)).tail → a.status ≤ stLayout → b.status ≤ stLayout →
    let s1 := (s.setLayer n (mLayer d)).modTile n (fun t => t.popPorts (mSel d))
    let status := if s1.mxOwn n d a b then stLayout else if max (opStatus d a) (opStatus d b) ≠ stOk then max (opStatus d a) (opStatus d b)
      else if a.basis ≠ b.basis then stLayout else stOk
    endsIn (exec (.matmul n d stalls us) s) fun t =>
      (∃ r l, (t.tile n).recs = r :: (l ++ (s.tile n).recs) ∧ l.length ≤ 2 ∧ recTag r = mTag d ∧ recStatus r = status) ∧
        (t.tile n).portA = ((s.tile n).popPorts (mSel d)).portA ∧ (t.tile n).portB = ((s.tile n).popPorts (mSel d)).portB ∧
        (t.tile n).portT = ((s.tile n).popPorts (mSel d)).portT ∧
        (∀ i : Fin 128, status ≠ stOk ∨ i.val ∉ mxSlots d → ((t.tile n).cru[i]).words = ((s.tile n).cru[i]).words) ∧
        (status ≠ stOk → ∀ i : Fin 128, i.val ∈ mxSlots d → ((t.tile n).cru[i]).bad = status) ∧
        (status = stOk → mInit d = 0 → us = [] → ∀ i : Fin 128, i.val ∈ mxSlots d →
          ((t.tile n).cru[i]).fmt = mAcc d ∧ ((t.tile n).cru[i]).words = ((mxProduct d a b).drop (4096 * (i.val - mSlot d))).take 4096) ∧
        s.tileBytesBut n (fun x => ∃ w ∈ a.writes ++ b.writes, w.1 ≤ x ∧ x < w.1 + w.2.length) t ∧
        (t.tile n).sf = (s.tile n).sf ∧ (t.tile n).dwq = (s.tile n).dwq ∧
        (∀ m, m ≠ n → t.tile m = s.tile m) ∧ Same [.regs, .tiles, .mem, .flt, .perf] s t ∧ s.memNoted t

/-- CRU_COPY puts the slot's words, or those of the pair, at LOAD_BASE bit for bit; refused, it leaves its status with the slot. SPLIT_COMBINE of a
plan whose partials have all arrived writes their pairwise sums at DST and frees their positions, unless a part was refused, which fails the step;
with a partial missing it waits; without a split plan of the tile nothing happens. -/
def Obligations.PartialsMoveAndCombine : Prop :=
  ∀ (n : TileIx) (s : State), s.memWf = true → s.tileFree n →
    (∀ d : BitVec 256, mOp d = opCruCopyCode → mLoad d % 512 = 0 →
      let size := if ((s.tile n).cru[slotIx (mSlot d)]).fmt = 1 then 32768 else 16384
      mLoad d + size ≤ tileBytes →
      endsIn (exec (.cruCopy n d) s) fun t =>
        (∀ i < size / 4, t.tileWord n (mLoad d + 4 * i) = s.cruWord n (s.pairBase n (mSlot d) + i / 4096) (i % 4096)) ∧
          (∃ r, (t.tile n).recs = r :: (s.tile n).recs ∧ recTag r = mTag d ∧ recStatus r = stOk) ∧
          s.tileBytesBut n (fun a => mLoad d ≤ a ∧ a < mLoad d + size) t ∧ s.onTile n t) ∧
    (∀ d : BitVec 256, mOp d ≠ opCruCopyCode ∨ mLoad d % 512 ≠ 0 →
      endsIn (exec (.cruCopy n d) s) fun t =>
        ((t.tile n).cru[slotIx (mSlot d)]).bad = stLayout ∧ t.get (F.TILE_MX_STAT_REFUSED n.val) = 1 ∧
          (∃ r, (t.tile n).recs = r :: (s.tile n).recs ∧ recTag r = mTag d ∧ recStatus r = stLayout) ∧
          (t.tile n).mem = (s.tile n).mem ∧ s.onTile n t) ∧
    (∀ (c : CombineCmd) (p : SplitPlan), s.splitPlan n c.plan = some p →
      let s1 := s.partsArrive n c
      let size := if p.acc = 1 then 32768 else 16384
      let part := fun (r : PartRef) => p.buffer + size * r.index
      let freed := s1.modTile n (fun t => { t with parts := t.parts.filter (fun x => x.1 != c.plan) })
      (∀ l, s1.partsReady n c.plan p = some l → (∀ r ∈ l, bits r.mstatus.toNat 11 8 = 0 ∧ part r + size ≤ tileBytes) →
        c.dst + 16384 ≤ tileBytes →
        endsIn (exec (.splitCombine n c) s) fun t =>
          (∀ i < 4096, t.tileWord n (c.dst + 4 * i) = (combineEntry p.acc (l.map (fun r =>
            if p.acc = 1 then add32 (s.tileWord n (part r + 8 * i)) (s.tileWord n (part r + 8 * i + 4))
            else s.tileWord n (part r + 4 * i)))).1) ∧
            (∃ r, (t.tile n).recs = r :: (s.tile n).recs ∧ recTag r = c.tag.toNat ∧ recStatus r = stOk) ∧
            (t.tile n).parts = (freed.tile n).parts ∧ s.tileBytesBut n (fun a => c.dst ≤ a ∧ a < c.dst + 16384) t ∧ s.onTile n t) ∧
      (∀ l, s1.partsReady n c.plan p = some l → (∃ r ∈ l, bits r.mstatus.toNat 11 8 ≠ 0) →
        exec (.splitCombine n c) s = .next (freed.failTile n)) ∧
      (s1.partsReady n c.plan p = none →
        endsIn (exec (.splitCombine n c) s) fun t =>
          t.stalled = [⟨.splitCombine n c, 0, true, false⟩] ∧ t.get (F.TILE_VE_STATUS_QUEUE_DEPTH n.val) = 1 ∧ t.tile n = s1.tile n)) ∧
    (∀ c : CombineCmd, s.splitPlan n c.plan = none → exec (.splitCombine n c) s = .next s)

/-- The sequencer's own operations: SCALAR_FILE_WRITE, DWQ_POST, DWQ_ENTRY_START, whose list is posted in order, DWQ_DRAIN, MEM_FENCE. -/
def Obligations.SequencerOperations : Prop :=
  ∀ (n : TileIx) (s : State), s.memWf = true → s.tileFree n →
    (∀ (i : Fin 32) (v : U32), exec (.scalarFileWrite n i v) s = .next (s.modTile n (fun t => { t with sf := t.sf.set i v }))) ∧
    (∀ e, (s.tile n).dwq.length < 256 → (s.tile n).drain = false →
      endsIn (exec (.dwqPost n e) s) fun t =>
        t.tile n = { s.tile n with dwq := (s.tile n).dwq ++ [e] } ∧
          t.get (F.TILE_DWQ_STAT_DEPTH n.val) = (s.tile n).dwq.length + 1 ∧ (∀ m, m ≠ n → t.tile m = s.tile m) ∧
          fieldsBut [F.TILE_DWQ_STAT_DEPTH n.val, F.TILE_DWQ_STAT_PEAK_DEPTH n.val] s t ∧ Same [.regs, .tiles] s t) ∧
    (∀ e rest, (s.tile n).dwq = e :: rest →
      let s1 := ((s.modTile n (fun t => { t with dwq := rest })).dwqDepth n).perfEvent n.val 0x1A 1
      let r := State.readList n (dwqLen e) (s1.setLayer n (dwqLayer e)) (dwqBase e)
      exec (.dwqEntryStart n) s = .next ((listCommands n 0 r.2).foldl (fun s i => s.tryUnit ⟨i, 0, false, false⟩) r.1) ∧
        s1.get (F.TILE_DWQ_STAT_DEPTH n.val) = rest.length % 512 ∧
        (dwqLen e = 0 → endsIn (exec (.dwqEntryStart n) s) fun t =>
          t.tile n = { s.tile n with dwq := rest, layer := dwqLayer e } ∧ s.onTile n t)) ∧
    ((s.tile n).dwq = [] →
      endsIn (exec (.dwqDrain n) s) fun t =>
        t.tile n = { s.tile n with drain := true } ∧ t.get (F.TILE_DWQ_STAT_DRAIN_REQ n.val) = 1 ∧
          t.get (F.TILE_DWQ_STAT_DRAINED n.val) = 1 ∧ (∀ m, m ≠ n → t.tile m = s.tile m) ∧
          fieldsBut [F.TILE_DWQ_STAT_DRAIN_REQ n.val, F.TILE_DWQ_STAT_DRAINED n.val] s t ∧ Same [.regs, .tiles] s t) ∧
    ((s.tile n).dwq ≠ [] →
      let t := ((s.flag (F.TILE_DWQ_STAT_DRAIN_REQ n.val)).modTile n (fun t => { t with drain := true })).pump n
      exec (.dwqDrain n) s = .next (if t.stalled = [] then t else t.setDepths t.stalled)) ∧
    (s.start.memReady = true → s.mem.latent = [] → s.ledger.waiting = [] → (∀ k < 32, s.wcOf k = [] ∨ s.memCapped k = false) →
      endsIn (exec (.memFence n) s) fun t =>
        t.mem.wc = Vector.replicate 32 [] ∧ Same [.regs, .power, .mem] s t ∧
          ((∀ k < 32, s.wcOf k = [] ∨ s.dom (domMem k) = 3) → Same [.mem] s t))

/-- SEAL_VOTE of a tile that may vote and whose loss entry is not pending. Once its share of the step has ended: the tile's fence, then its part of
the vote, which holds its loss share and flags; while another unfenced tile has yet to vote nothing else happens, with the last part the module
casts its vote. Before that, while deferred entries are left or an exchange is in progress, it waits. -/
def Obligations.TileCastsItsPart : Prop :=
  ∀ (n : TileIx) (e : Fin 32) (s : State), s.memWf = true → s.tileFree n → s.domReady domTimetable = true → s.mayVote n = true →
    (s.tile n).pending.contains e.val = false →
    (s.on (F.TILE_DWQ_STAT_DRAINED n.val) = true → s.exchanging = false → s.mem.latent = [] →
      (∀ k < 32, s.wcOf k = [] ∨ s.dom (domMem k) = 3) →
      endsIn (exec (.sealVote n e) s) fun t =>
        (t.tile n).part = some ⟨(s.tile n).sf[e], (s.tile n).nonfin, (s.tile n).poisonUsed, (s.tile n).failed,
          decide (s.phaseTick ≤ s.voteDl), (s.tile n).spill, (s.tile n).sat, (s.tile n).origin⟩ ∧
          (∀ m, m ≠ n → t.tile m = s.tile m) ∧
          ((∃ m, m ≠ n ∧ s.tileFenced m.val = false ∧ (s.tile m).part = none) →
            t.mem.wc = Vector.replicate 32 [] ∧ fieldsBut [F.TILE_UPD_STAT_UPDATE_SKIPPED n.val] s t ∧ Same [.regs, .tiles, .mem] s t) ∧
          ((∀ m, m ≠ n → s.tileFenced m.val = true ∨ (s.tile m).part.isSome = true) → s.seals.voted = false →
            t.seals.voted = true ∧ t.get F.SEAL_STAT_SEAL_STATE = (if s.get F.SEAL_STAT_SEAL_STATE = 3 then 3 else 1))) ∧
    (s.on (F.TILE_DWQ_STAT_DRAINED n.val) = false ∨ s.exchanging = true →
      endsIn (exec (.sealVote n e) s) fun t => t.tile n = s.tile n ∧ t.stalled = [⟨.sealVote n e, (s.tile n).sf[e], false, false⟩])

/-! The zoo engines. -/

/-- The six Kiln commands on a free Kiln do what `State.atUnit` says unless an access holds them back. With quiet
memory: a record with TAG, STATUS and the element count; a refused command changes no memory; one element between tile
memories becomes the code that R195 and R196 give for it. -/
def Obligations.KilnCommandsComplete : Prop :=
  ∀ (c : Instr) (k : EngIx) (n : TileIx) (op : Nat) (d : BitVec 256) (s : State), kilnOf c = some (k, n, op, d) → s.memWf = true →
    s.engineFree (domKiln k.val) n →
    ((s.atUnit c).stallReq = false → exec c s = .next (s.atUnit c)) ∧ (s.memQuiet →
    let e := s.engFor domKiln k
    (endsIn (exec c s) fun t =>
      (∃ r, (t.tile n).recs = r :: (s.tile n).recs ∧ recTag r = kTag d ∧ recStatus r = (if kRefused op d then stLayout else stOk) ∧
        (kRefused op d = false → recField r 63 32 = min 0xFFFFFFFF (kCount d))) ∧
        (kRefused op d = true → t.mem = s.mem ∧ (∀ m, (t.tile m).mem = (s.tile m).mem) ∧ t.get (F.ENG_KIL_STAT_REFUSED e.val) = 1) ∧
        (kRefused op d = false → t.get (F.ENG_KIL_STAT_ELEMS_STEP e.val) =
          min 0xFFFFFFFF (s.get (F.ENG_KIL_STAT_ELEMS_STEP e.val) + kCount d)) ∧
        s.byEngine n (domKiln e.val) (0x618000 + e.val * 0x1000) t) ∧
    ∀ (m m' : TileIx) (a a' : Nat), s.period.outBlocked = false → kRefused op d = false → kCount d = 1 → kSrcBase d = tileAddr m.val a →
      kDstBase d = tileAddr m'.val a' → a + 4 ≤ tileBytes → a' + 4 ≤ tileBytes →
      let x := leNat (s.tileRead m a (elemBytes (kSrc d))).1
      let u := if rndMode (kRnd d) == 2 then srDraw s.stepNo (kTag d % 2 ^ 24) 0 else 0
      endsIn (exec c s) fun t =>
        ∀ i < elemBytes (kDst d), t.tileByte m' (a' + i) = (leBytes (elemBytes (kDst d)) (kElem op d u x).elem.code).getD i 0)

/-- The six Tally commands on a free Tally do what `State.atUnit` says unless an access holds them back. With quiet
memory: a record with TAG, STATUS and SEG_COUNT; a refused command changes no memory.
What a segment gives: COUNT its rows, an empty segment zero or the smallest value, MAX of integers their maximum, SUM and DOT of integers the
saturated running sum, MEAN the sum over the rows. -/
def Obligations.TallyCommandsComplete : Prop :=
  (∀ (c : Instr) (e : EngIx) (n : TileIx) (op : Nat) (d : BitVec 512) (s : State), tallyOf c = some (e, n, op, d) → s.memWf = true →
    s.engineFree (domTally e.val) n →
    ((s.atUnit c).stallReq = false → exec c s = .next (s.atUnit c)) ∧ (s.memQuiet →
    let k := s.engFor domTally e
    endsIn (exec c s) fun t =>
      (∃ r, (t.tile n).recs = r :: (s.tile n).recs ∧ recTag r = tTag d ∧ recStatus r = (if tRefused op d then stLayout else stOk) ∧
        (tRefused op d = false → recField r 63 32 = tSegs d)) ∧
        (tRefused op d = true → t.mem = s.mem ∧ (∀ m, (t.tile m).mem = (s.tile m).mem) ∧ t.get (F.ENG_TAL_STAT_REFUSED k.val) = 1) ∧
        (tRefused op d = false → t.get (F.ENG_TAL_STAT_SEGS_STEP k.val) =
          min 0xFFFFFFFF (s.get (F.ENG_TAL_STAT_SEGS_STEP k.val) + tSegs d)) ∧
        s.byEngine n (domTally k.val) (0x610000 + k.val * 0x1000) t)) ∧
  ∀ (int neg : Bool) (xs ys : List TVal),
    tReduce tCount int neg xs ys = ([.int xs.length], 0) ∧
      tReduce tMax int neg [] ys = ([if neg then (if int then .int (-2147483648) else .flt (inf32 true)) else tZero int], 0) ∧
      (∀ l : List Int, l ≠ [] → ∃ m, tReduce tMax true neg (l.map TVal.int) ys = ([.int m], 0) ∧ m ∈ l ∧ ∀ x ∈ l, x ≤ m) ∧
      (∀ l : List Int, (∀ k ≤ l.length, -2147483648 ≤ (l.take k).sum ∧ (l.take k).sum ≤ 2147483647) →
        tReduce tSum true neg (l.map TVal.int) ys = ([.int l.sum], 0)) ∧
      (tReduce tMean int neg xs ys).1 = (tReduce tSum int neg xs ys).1.map (fun v => tDivide v xs.length) ∧
      (tReduce tDot int neg xs ys).1 = (tReduce tSum int neg ((xs.zip ys).map (fun p => (tMul p.1 p.2).1)) []).1

/-- The five Wayfarer commands on a free Wayfarer do what `State.atUnit` says unless an access holds them back. With
quiet memory: a record with TAG, STATUS and ROWS; a refused command changes no memory; copies move ROW_COUNT rows, an indexed gather as
many as DST_CAP holds, and a scatter's rows and bad indices add up to its list. -/
def Obligations.WayfarerCommandsComplete : Prop :=
  ∀ (c : Instr) (q : WayIx) (n : TileIx) (op : Nat) (d : BitVec 512) (s : State), wayOf c = some (q, n, op, d) → s.memWf = true →
    s.engineFree (domWay q.val) n →
    ((s.atUnit c).stallReq = false → exec c s = .next (s.atUnit c)) ∧ (s.memQuiet →
    let k := s.wayFor q
    endsIn (exec c s) fun t =>
      (∃ r, (t.tile n).recs = r :: (s.tile n).recs ∧ recTag r = wTag d ∧ recStatus r = (if wRefused op d then stLayout else stOk) ∧
        (wRefused op d = true → recField r 63 32 = 0) ∧
        (wRefused op d = false →
          (op = wCopyIn ∨ op = wCopyOut → recField r 63 32 = wCount d ∧ recField r 127 96 = 0) ∧
          (op = wGatherIdx → recField r 63 32 = min (wCount d) (wFit d) ∧ recField r 224 224 = b2n (decide (wFit d < wCount d))) ∧
          (op = wScatterIdx → recField r 63 32 + recField r 127 96 = wCount d) ∧
          (op = wGatherCsr → recField r 63 32 ≤ wFit d))) ∧
        (wRefused op d = true → t.mem = s.mem ∧ (∀ m, (t.tile m).mem = (s.tile m).mem) ∧ t.get (F.ENG_WAY_STAT_REFUSED k.val) = 1) ∧
        s.byEngine n (domWay k.val) (0x600000 + k.val * 0x1000) t)

/-! Bonded memory. -/

/-- SCRUB, REFRESH, RECALIBRATION, RECALIBRATION_END and WC_TIMER_EXPIRE on a running module: corrected and uncorrectable lines, the refresh
rate, the retry of a recalibration, the channel that fails, the flush of an entry. -/
def Obligations.MemoryUpkeep : Prop :=
  ∀ s : State, s.memWf = true → s.dramUp = true → s.ledger.waiting = [] →
    (∀ (c : ChIx) (line e e2 : Nat), line < 0x400000 → s.inService c.val = true →
      let pl := c.val * 0x400000 + line
      let cls := s.lineAddr c.val line
      (e = 0 → endsIn (exec (.scrub c line e e2) s) fun t => t.mem = { s.mem with latent := Sparse.erase s.mem.latent pl } ∧ Same [.mem] s t) ∧
      (0 < e → e ≤ 16 → endsIn (exec (.scrub c line e e2) s) fun t =>
        t.mem.dram = s.mem.dram ∧ t.mem.poison = s.mem.poison ∧ (s.aon, c.val) ∈ t.mem.corrLog ∧
          t.get (F.MEM_CH_STAT_CORR_HOUR c.val) =
            min 0xFFFF (1 + (s.mem.corrLog.filter (fun x => x.2 == c.val && decide (s.aon < x.1 + 11250000000))).length) ∧
          (t.get (F.MEM_CH_STAT_CORR_HOUR c.val) ≤ s.get F.MEM_MIG_CTL_CORR_THRESH →
            fieldsBut [F.MEM_CH_STAT_CORR_HOUR c.val] s t ∧ Same [.regs, .mem] s t) ∧
          (∀ sp, s.get F.MEM_MIG_CTL_CORR_THRESH < t.get (F.MEM_CH_STAT_CORR_HOUR c.val) → s.migratesTo c.val sp →
            s.migrationBegan c.val sp t ∧ fieldsBut (F.MEM_CH_STAT_CORR_HOUR c.val :: migrationFields c.val sp) s t ∧
              Same [.regs, .mem, .ledger] s t)) ∧
      (16 < e → e2 ≤ 16 → s.roomFor clsDram c.val → endsIn (exec (.scrub c line e e2) s) fun t =>
        pl ∈ t.mem.poison ∧ t.mem.dram = s.mem.dram ∧ t.get (F.MEM_CH_STAT_UNCORR c.val) = min 0xFFFF (s.get (F.MEM_CH_STAT_UNCORR c.val) + 1) ∧
          s.queued (s.mkRec clsDram c.val 1 0x04 e2 cls.1 1 (if cls.2 then 8 else 0)) t ∧
          fieldsBut (F.MEM_CH_STAT_UNCORR c.val :: queueFields) s t ∧ Same [.regs, .mem, .flt] s t) ∧
      (∀ sp, 16 < e → 16 < e2 → s.roomFor clsDram c.val → s.migratesTo c.val sp → endsIn (exec (.scrub c line e e2) s) fun t =>
        pl ∈ t.mem.poison ∧ s.migrationBegan c.val sp t)) ∧
    (∀ (c : ChIx) (temp : Nat), endsIn (exec (.refresh c temp) s) fun t =>
      t.get (F.MEM_CH_STAT_REFRESH_2X c.val) = b2n (decide (340 < temp)) ∧
        fieldsBut [F.MEM_CH_STAT_REFRESH_2X c.val] s t ∧ Same [.regs] s t) ∧
    (∀ c : ChIx, s.recalibrates c.val = true → endsIn (exec (.recalibration c) s) fun t =>
      t.get (F.MEM_CH_STAT_RECAL c.val) = 1 ∧ (s.migrating = true → c.val = s.migSrc ∨ c.val = s.migDst → t.get F.MEM_MIG_STAT_STATE = 2) ∧
        (s.migrating = false → t.get F.MEM_MIG_STAT_STATE = 0) ∧
        fieldsBut [F.MEM_CH_STAT_RECAL c.val, F.MEM_MIG_STAT_STATE] s t ∧ Same [.regs] s t) ∧
    (∀ c : ChIx, s.on (F.MEM_CH_STAT_RECAL c.val) = true →
      (endsIn (exec (.recalibrationEnd c true) s) fun t =>
        t.get (F.MEM_CH_STAT_RECAL c.val) = 0 ∧ t.mem = { s.mem with recalRun := Sparse.erase s.mem.recalRun c.val } ∧
          fieldsBut [F.MEM_CH_STAT_RECAL c.val, F.MEM_MIG_STAT_STATE] s t ∧ Same [.regs, .mem] s t) ∧
      (Sparse.getD s.mem.recalRun c.val 0 = 0 → exec (.recalibrationEnd c false) s =
        .next { s with mem := { s.mem with recalRun := Sparse.insert s.mem.recalRun c.val 1 } }) ∧
      (∀ sp, Sparse.getD s.mem.recalRun c.val 0 ≠ 0 → s.migratesTo c.val sp → endsIn (exec (.recalibrationEnd c false) s) fun t =>
        t.get (F.MEM_CH_STAT_RECAL c.val) = 0 ∧
          t.get (F.MEM_CH_STAT_RECAL_FAIL c.val) = min (2 ^ (F.MEM_CH_STAT_RECAL_FAIL c.val).w - 1) (s.get (F.MEM_CH_STAT_RECAL_FAIL c.val) + 1) ∧
          s.migrationBegan c.val sp t ∧ Same [.regs, .mem, .ledger] s t)) ∧
    ∀ (k : StackIx) (pos : Fin 8) (line pl : Nat) (e : WcEntry), s.mem.latent = [] → s.domReady (domMem k.val) = true →
      s.stalled = [] → s.stallReq = false →
      (s.wcOf k.val).find? (fun x => x.pos == pos.val && x.line == line) = some e → s.physLine (8 * k.val + pos.val) line = some pl →
      Sparse.sorted e.bytes = true → (∀ x ∈ e.bytes, x.1 < 512) →
      endsIn (exec (.wcTimerExpire k pos line) s) fun t =>
        (∀ o < 512, t.dramByte pl o = (Sparse.find e.bytes o).getD (s.dramByte pl o)) ∧ s.onLine pl t ∧
          t.wcOf k.val = (s.wcOf k.val).filter (fun x => !(x.pos == pos.val && x.line == line)) ∧ Same [.mem] s t ∧
          t.mem = { s.mem with dram := t.mem.dram, poison := t.mem.poison, wc := t.mem.wc } ∧
          (∀ l, l ≠ pl ∨ e.bytes.length ≠ 512 → (l ∈ t.mem.poison ↔ l ∈ s.mem.poison)) ∧ (e.bytes.length = 512 → pl ∉ t.mem.poison)

/-- MIGRATION_REQ, MIGRATION_LINE_COPY and CHANNEL_DEAD on a running module: what a request writes and starts, a threshold below a
channel's count, the line that goes to the spare in one step, the end of the copy, a channel that no longer answers with and without a spare. -/
def Obligations.ChannelsMigrate : Prop :=
  ∀ s : State, s.memWf = true → s.dramUp = true → s.ledger.waiting = [] → s.mem.latent = [] →
    (∀ v : U64, v.toNat % 2 = 0 → (∀ x < 288, s.chState x = 0 → s.corrHour x ≤ bits v.toNat 47 32) → endsIn (exec (.migrationReq v) s) fun t =>
      t.get F.MEM_MIG_CTL_CORR_THRESH = bits v.toNat 47 32 ∧ t.get F.MEM_MIG_CTL_REQ_STACK = bits v.toNat 12 8 ∧
        t.get F.MEM_MIG_CTL_REQ_CH = bits v.toNat 7 4 ∧ t.get F.MEM_MIG_CTL_MIG_RATE = bits v.toNat 3 1 ∧
        fieldsBut [F.MEM_MIG_CTL_CORR_THRESH, F.MEM_MIG_CTL_REQ_STACK, F.MEM_MIG_CTL_REQ_CH, F.MEM_MIG_CTL_MIG_RATE] s t ∧ Same [.regs] s t) ∧
    (∀ (v : U64) (ch sp : Nat), v.toNat % 2 = 0 → ch < 288 → s.migratesTo ch sp → bits v.toNat 47 32 < s.corrHour ch →
      (∀ x < 288, x ≠ ch → s.chState x = 0 → s.corrHour x ≤ bits v.toNat 47 32) →
      endsIn (exec (.migrationReq v) s) fun t => s.migrationBegan ch sp t ∧ Same [.regs, .ledger] s t) ∧
    (∀ v : U64, v.toNat % 2 = 1 → (∀ x < 288, s.chState x = 0 → s.corrHour x ≤ bits v.toNat 47 32) →
      let ch := 9 * bits v.toNat 12 8 + bits v.toNat 7 4
      (∀ sp, bits v.toNat 7 4 ≤ 8 → s.migratesTo ch sp → endsIn (exec (.migrationReq v) s) fun t => s.migrationBegan ch sp t ∧ Same [.regs, .ledger] s t) ∧
      (8 < bits v.toNat 7 4 ∨ s.chState ch ≠ 0 → endsIn (exec (.migrationReq v) s) fun t =>
        t.get F.MEM_STAT_REQ_IGNORED = 1 ∧ t.get F.MEM_MIG_STAT_STATE = s.get F.MEM_MIG_STAT_STATE ∧ Same [.regs] s t)) ∧
    (∀ p, p = s.get F.MEM_MIG_STAT_PROGRESS → p < 0x400000 → s.get F.MEM_MIG_STAT_STATE = 1 → s.memCapped (chStack s.migSrc) = false →
      s.migSrc ≠ s.migDst → s.migSrc < 288 → s.migDst < 288 →
      let from_ := s.migSrc * 0x400000 + p
      let to_ := s.migDst * 0x400000 + p
      endsIn (exec (.migrationLineCopy 0) s) fun t =>
        (∀ o < 512, t.dramByte to_ o = s.dramByte from_ o) ∧ s.onLine to_ t ∧
          (to_ ∈ t.mem.poison ↔ from_ ∈ s.mem.poison) ∧ (∀ l, l ≠ to_ → (l ∈ t.mem.poison ↔ l ∈ s.mem.poison)) ∧
          t.get F.MEM_MIG_STAT_PROGRESS = p + 1 ∧
          (p + 1 ≠ 0x400000 → fieldsBut [F.MEM_MIG_STAT_PROGRESS] s t ∧ Same [.regs, .mem] s t) ∧
          (p + 1 = 0x400000 → t.chState s.migSrc = 4 ∧ t.chState s.migDst = 0 ∧ t.migrating = false ∧ t.get F.MEM_STAT_MIG_DONE = 1 ∧
            t.get (F.MEM_CH_STAT_SLOT s.migDst) = s.get (F.MEM_CH_STAT_SLOT s.migSrc) ∧
            (∀ q : Fin 256, s.posOf s.migSrc = some q.val →
              t.ledger.channelMap[q] = chPhys s.migDst ∧ s.migSrc ∈ t.ledger.retiredCh ∧ t.ledger.interrupted = none) ∧
            SameAndSent [.regs, .mem, .ledger] s t)) ∧
    ∀ c : ChIx, s.chState c.val = 0 → s.migrating = false → s.roomFor clsDram c.val →
      (s.spareOf (chStack c.val) = none → endsIn (exec (.channelDead c) s) fun t =>
        t.chState c.val = 7 ∧ t.get F.MEM_STAT_CH_DEAD = 1 ∧ t.get F.MEM_STAT_RESTART_REQ = 1 ∧ c.val ∈ t.ledger.toFence ∧
          s.queued (s.mkRec clsDram c.val 1 0x05 0 0 1 0) t ∧ t.mem = s.mem ∧ t.flash = s.flash ∧
          (∀ q l : Nat, s.posOf c.val = some q → s.ledger.diedCopy = [] → t.physLine q l = none) ∧
          fieldsBut (outFields c.val ++ queueFields) s t ∧ SameAndSent [.regs, .ledger, .flt] s t) ∧
      ∀ sp q, s.spareOf (chStack c.val) = some sp → s.posOf c.val = some q → endsIn (exec (.channelDead c) s) fun t =>
        t.chState c.val = 7 ∧ t.chState sp = 3 ∧ t.migrating = false ∧ t.get F.MEM_STAT_CH_DEAD = 1 ∧ t.get F.MEM_STAT_RESTART_REQ = 1 ∧
          t.ledger.diedCopy = (c.val, sp, q, 0) :: s.ledger.diedCopy ∧ s.queued (s.mkRec clsDram c.val 1 0x05 0 0 1 0) t ∧ t.mem = s.mem ∧
          SameAndSent [.regs, .ledger, .flt] s t

/-! The seal. -/

/-- COMMIT and DISCARD of a due decision: a commit makes every shadow the committed frame, moves the step counter by 1 and switches PAGE_GEN; a
discard keeps the committed frames and the counter, returns the shadow frames and flushes the queues; both stand in the step log and the seal registers.
A discard that comes after the step was dropped at TRAIN_DL is logged and leaves its reason; the step was counted then. Every decision that is due
is applied, once it is forwarded to the pod of a sub-leader. -/
def Obligations.DecisionsAreApplied : Prop :=
  (∀ (dec : Decision) (s : State), (s.forwardDecision dec).decisionDue dec = true →
    (dec.commit = true → exec (.commit dec) s = .next ((s.forwardDecision dec).applyCommit dec).trainCheck) ∧
      (dec.commit = false → exec (.discard dec) s = .next ((s.forwardDecision dec).applyDiscard dec).trainCheck)) ∧
  ∀ (dec : Decision) (s : State), s.memWf = true → s.decisionDue dec = true → s.seals.decided = false → s.mem.latent = [] →
    Sparse.sorted s.mem.shadows = true → Sparse.sorted s.mem.frames = true → (∀ n : TileIx, (s.tile n).cksFailed = false) →
    s.roomFor clsJob 0 → s.flt.queue.length < 60 →
    (dec.commit = true → endsIn (exec (.commit dec) s) fun t =>
      s.decided dec t ∧ t.get F.SEAL_STEP_STEP_COUNTER = (s.get F.SEAL_STEP_STEP_COUNTER + 1) % 2 ^ 64 ∧
        t.get F.SEAL_STAT_PAGE_GEN = 1 - s.get F.SEAL_STAT_PAGE_GEN ∧ t.get F.SEAL_STAT_DISCARD_RUN = 0 ∧
        t.period.sealedNow = s.period.sealedNow + 1 ∧ t.period.droppedNow = s.period.droppedNow ∧
        (∀ page, t.committedFrame page = (Sparse.find s.mem.shadows page).getD (s.committedFrame page)) ∧
        (∀ page f, Sparse.find s.mem.shadows page = some f →
          (page, s.committedFrame page) ∈ t.mem.returning ∨ (page, s.committedFrame page) ∈ t.mem.pinned) ∧
        (∀ n : TileIx, (t.tile n).recs = (s.tile n).recs) ∧
        (counts dec = false → s.get F.SEAL_STAT_SEAL_STATE ≠ 2 → t.ladder = s.ladder) ∧
        (¬ s.forwards → t.perf = s.perf ∧ t.coll = s.coll) ∧
        SameAndSent [.regs, .flash, .power, .period, .seals, .ladder, .mem, .tiles, .coll, .flt, .cast, .perf, .stalled, .free] s t) ∧
    (dec.commit = false → s.seals.late = false → (∀ c ∈ s.coll.queue, c.dest ∉ s.mem.spoiled) → endsIn (exec (.discard dec) s) fun t =>
      s.decided dec t ∧ t.get F.SEAL_STEP_STEP_COUNTER = s.get F.SEAL_STEP_STEP_COUNTER ∧
        t.get F.SEAL_STAT_PAGE_GEN = s.get F.SEAL_STAT_PAGE_GEN ∧ t.mem.frames = s.mem.frames ∧
        t.get F.SEAL_STAT_DISCARD_RUN = min 255 (s.get F.SEAL_STAT_DISCARD_RUN + 1) ∧
        (s.get F.SEAL_STAT_DISCARD_RUN + 1 = s.get F.SEAL_CFG_DISCARD_ALERT → t.get F.SEAL_STAT_DISCARD_ALERT = 1) ∧
        t.period.droppedNow = s.period.droppedNow + 1 ∧ t.period.sealedNow = s.period.sealedNow ∧
        (dec.reason.toNat.testBit 3 = true ∨ dec.reason.toNat.testBit 6 = true → t.get F.MGT_PERIOD_STAT_STEP_DROPPED = 1) ∧
        (dec.reason.toNat.testBit 3 = false → dec.reason.toNat.testBit 6 = false →
          t.get F.MGT_PERIOD_STAT_STEP_DROPPED = s.get F.MGT_PERIOD_STAT_STEP_DROPPED) ∧
        (dec.reason.toNat.testBit 4 = true → t.get F.SEAL_STAT_MISMATCH = 1) ∧
        (∀ (k : StackIx) (f : Nat), (f - 0x8000000000) / 0x200000000 = k.val → (∃ page, Sparse.find s.mem.shadows page = some f) →
          f ∈ t.mem.pool[k]) ∧
        (∀ n : TileIx, (t.tile n).dwq = [] ∧ (t.tile n).portA = [] ∧ (t.tile n).portB = [] ∧ (t.tile n).portT = []) ∧
        (∀ c ∈ t.coll.queue, c.phase ≠ 3) ∧
        (counts dec = false → s.get F.SEAL_STAT_SEAL_STATE ≠ 2 → t.ladder = s.ladder) ∧
        SameAndSent [.regs, .power, .period, .seals, .ladder, .mem, .tiles, .coll, .flt, .cast, .perf, .stalled, .free] s t) ∧
    (dec.commit = false → s.seals.late = true → endsIn (exec (.discard dec) s) fun t =>
      t.seals.log = (dec :: s.seals.log).take 1024 ∧ t.seals.late = false ∧ t.get F.SEAL_STAT_LAST_REASON = dec.reason.toNat ∧
        t.get F.SEAL_STAT_DISCARD_RUN = min 255 (s.get F.SEAL_STAT_DISCARD_RUN + 1) ∧ t.period.droppedNow = s.period.droppedNow ∧
        t.period.sealedNow = s.period.sealedNow ∧ t.mem.shadows = s.mem.shadows ∧ t.mem.frames = s.mem.frames ∧
        SameAndSent [.regs, .power, .period, .seals, .ladder, .mem, .tiles, .coll, .flt, .cast, .perf, .stalled, .free] s t)

/-- VOTE, VOTE_DEADLINE and DECISION_QUERY: the leader holds a vote that arrives; with the last vote, or at VOTE_DL, it decides by R244 over the
votes it holds and logs the decision, never a commit where a member's vote is missing; elsewhere a vote goes on to the leader; a query is answered from
the step log. -/
def Obligations.VotesAndDecisions : Prop :=
  (∀ (p : PortIx) (f : DataFrame) (s : State), s.running = true →
    let s1 := (s.takeFrame p f).1
    ((s.takeFrame p f).2 = false → exec (.vote p f) s = .next s1) ∧
      ((s.takeFrame p f).2 = true → s1.staleChunk f.chunk = true → exec (.vote p f) s = .next (s1.countStale f.chunk)) ∧
      ((s.takeFrame p f).2 = true → s1.staleChunk f.chunk = false →
        (s1.hasColl (keyOfChunk f.chunk) = true → exec (.vote p f) s = .next (s1.onColl (keyOfChunk f.chunk) (State.onVote f)).settle) ∧
        ∀ g, s1.hasColl (keyOfChunk f.chunk) = false → s1.sealGroup = some g →
          (∀ i, groupLeads g = true → groupPos g f.chunk.srcId.toNat = some i →
            exec (.vote p f) s = .next (s1.takeVote g i (voteOf f.payload))) ∧
          ∀ l q, groupLeads g = false → memberAt g g.leaderPos = some l → s1.portTo l 0 = some q →
            exec (.vote p f) s = .next (s1.sendChunk q f.chunk f.payload))) ∧
  ∀ (g : Group) (s : State), s.memWf = true → s.running = true → s.mem.latent = [] →
    (∀ (p : PortIx) (f : DataFrame) (i : Nat), s.sealGroup = some g → groupLeads g = true → s.period.stepActive = true → s.seals.decided = false →
      s.inOrder p f → s.staleChunk f.chunk = false → s.hasColl (keyOfChunk f.chunk) = false → groupPos g f.chunk.srcId.toNat = some i →
      let votes := Sparse.insert s.seals.votes i (voteOf f.payload)
      let dec := { s with seals := { s.seals with votes := votes } }.decideStep g.members.length
      endsIn (exec (.vote p f) s) fun t =>
        s.frameTaken p t ∧
          (votes.length ≠ g.members.length → t.seals = { s.seals with votes := votes } ∧ Same [.regs, .seals, .coll, .perf, .sent] s t) ∧
          (votes.length = g.members.length → t.seals.decided = true ∧ t.seals.votes = votes ∧ t.seals.log = (dec :: s.seals.log).take 1024)) ∧
    (s.mayDecide = true → s.time.running = true → s.sealGroup = some g →
      let dec := s.decideStep g.members.length
      (s.seals.votes.length < g.members.length → dec.commit = false) ∧
        endsIn (exec .voteDeadline s) fun t =>
          t.time.osc = max s.time.osc ((s.periodStart + s.voteDl) * 8) ∧ t.seals.decided = true ∧
            t.seals.log = (dec :: s.seals.log).take 1024 ∧ t.get F.SEAL_LOG_HEAD = (s.get F.SEAL_LOG_HEAD + 1) % 1024 ∧
            t.get F.SEAL_STEP_STEP_COUNTER = s.get F.SEAL_STEP_STEP_COUNTER ∧ t.mem.shadows = s.mem.shadows ∧ t.mem.frames = s.mem.frames ∧
            Same [.regs, .time, .ledger, .power, .seals, .mem, .coll, .perf, .sent] s t) ∧
    ∀ (p : PortIx) (src : BitVec 16) (step : U64),
      (s.seals.log.any (fun d => d.step == step) = false → exec (.decisionQuery p src step) s = .next s) ∧
      ∀ dec, s.seals.log.find? (fun d => d.step == step) = some dec → s.sendsNow p →
        endsIn (exec (.decisionQuery p src step) s) fun t =>
          (∃ f, t.sent = .data p.val f :: s.sent ∧ f.chunk.dstId = src ∧ f.chunk.kind = 0 ∧
            f.payload.take 64 = (decisionBytes dec).take 64 ∧ f.payload.drop 64 = List.replicate 4032 0) ∧
            Same [.regs, .coll, .perf, .sent] s t

/-! Links. -/

/-- PORT_TRAINING_DONE, IDENT and LANE_FAIL: the stages of training, each passed and failed, at the first training, in a retrain and for the third
time; the IDENT frame and the 16 probes that the module sends; identification with some check failed; the port that is UP after its latency probe; a
lane that fails in training and in service. -/
def Obligations.LinksTrainAndIdentify : Prop :=
  ∀ (p : PortIx) (s : State), s.memWf = true → s.blocksUp = true →
    (∀ lanes : Nat, s.portState p.val = 1 ∨ s.portState p.val = 4 →
      exec (.portTrainingDone p (.electrical lanes)) s = .next (s.electricalDone p lanes).portEvent ∧
      (s.portQuiet → fullLanes p.val ≤ 2 * lanes → endsIn (exec (.portTrainingDone p (.electrical lanes)) s) fun t =>
        t.portState p.val = 1 ∧ t.get (F.LINK_PORT_STAT_WIDTH p.val) = (if fullLanes p.val ≤ lanes then fullLanes p.val else fullLanes p.val / 2) ∧
          (lanes < fullLanes p.val → t.get (F.LINK_PORT_STAT_DEGRADED p.val) = 1) ∧
          fieldsBut [F.LINK_PORT_STAT_STATE p.val, F.LINK_PORT_STAT_WIDTH p.val, F.LINK_PORT_STAT_DEGRADED p.val] s t ∧ Same [.regs] s t) ∧
      (s.portQuiet → 2 * lanes < fullLanes p.val → s.get (F.LINK_PORT_STAT_RETRAINS p.val) = 0 →
        endsIn (exec (.portTrainingDone p (.electrical lanes)) s) fun t =>
          t.portIsDown p ∧ fieldsBut (downFields p) s t ∧ Same [.regs, .flt, .cast] s t) ∧
      (s.portQuiet → 2 * lanes < fullLanes p.val → s.get (F.LINK_PORT_STAT_RETRAINS p.val) ≠ 0 → s.roomFor clsPort p.val →
        endsIn (exec (.portTrainingDone p (.electrical lanes)) s) fun t => s.portFenced p t)) ∧
    (s.portState p.val = 1 → s.get (F.LINK_PORT_STAT_WIDTH p.val) ≠ 0 →
      (endsIn (exec (.portTrainingDone p (.fecLock true)) s) fun t =>
        t.portState p.val = 2 ∧
          (∃ h, t.sent = .control p.val h 1 ([s.get F.LINK_IDENT_GEN_MIN, s.get F.LINK_IDENT_GEN_MAX, s.get F.LINK_IDENT_MEMBER_ID, p.val,
            s.get F.LINK_IDENT_JOB_TAG, 0] ++ (if p.val = 17 then [s.get F.LINK_PAIR_STATUS_OWN_FEED] else [])) :: s.sent) ∧
          fieldsBut [F.LINK_PORT_STAT_STATE p.val] s t ∧ Same [.regs, .coll, .sent] s t) ∧
      exec (.portTrainingDone p (.fecLock false)) s = .next (s.trainFail p).portEvent) ∧
    exec (.portTrainingDone p .identification) s = .next s ∧
    (∀ stage : TrainStage, s.portQuiet → (stage = .fecLock false ∧ s.portState p.val = 1 ∧ s.get (F.LINK_PORT_STAT_WIDTH p.val) ≠ 0) ∨
        (stage = .latency false ∧ s.portState p.val = 2) →
      (s.get (F.LINK_PORT_STAT_RETRAINS p.val) = 0 → endsIn (exec (.portTrainingDone p stage) s) fun t =>
        t.portIsDown p ∧ fieldsBut (downFields p) s t ∧ Same [.regs, .flt, .cast] s t) ∧
      (s.get (F.LINK_PORT_STAT_RETRAINS p.val) ≠ 0 → (s.port p).retrainFails < 2 →
        endsIn (exec (.portTrainingDone p stage) s) fun t =>
          s.retrainBegan p t ∧ (t.port p).retrainFails = (s.port p).retrainFails + 1 ∧
            fieldsBut (retrainFields p) s t ∧ Same [.regs, .coll, .flt] s t) ∧
      (s.get (F.LINK_PORT_STAT_RETRAINS p.val) ≠ 0 → (s.port p).retrainFails = 2 → s.roomFor clsPort p.val →
        endsIn (exec (.portTrainingDone p stage) s) fun t => s.portFenced p t)) ∧
    (s.portState p.val = 2 → s.probed p = false → exec (.portTrainingDone p (.latency true)) s = .next s) ∧
    (s.probed p = true → exec (.portTrainingDone p (.latency true)) s = .next (s.probeDone p).portEvent) ∧
    (s.probed p = true → s.portQuiet → keptHere (s.port p).unacked → endsIn (exec (.portTrainingDone p (.latency true)) s) fun t =>
      let ns := (s.port p).trips.sum * 1000 / (32 * s.get F.CLK_CFG_CORE_MHZ)
      let un := renumber 0 (s.port p).unacked
      t.portState p.val = 3 ∧ (t.port p).latNs = ns ∧ t.get (F.LINK_PORT_STAT_LAT p.val) = min 255 (ns / 4) ∧
        (t.port p).rxSeq = 0 ∧ (t.port p).resends = 0 ∧ (t.port p).retrainFails = 0 ∧
        ((s.port p).waiting = [] → s.resent p un t ∧ (t.port p).unacked = un ∧ (t.port p).txSeq = un.length % 65536 ∧
          (s.get (F.LINK_PORT_STAT_RETRAINS p.val) = 0 → (t.port p).credits = 64)) ∧
        (p.val = 17 → t.get F.LINK_PAIR_STATUS_SHARED_FEED =
            b2n (sharedFeed (s.get F.LINK_PAIR_STATUS_OWN_FEED) (s.get F.LINK_PAIR_STATUS_PEER_FEED)) ∧
          (s.takesCasts = true → t.cast.ownPending = true)) ∧
        Same [.regs, .coll, .cast, .perf, .sent] s t) ∧
    (s.portState p.val = 2 →
      exec (.ident p none) s = .next (s.portDown p.val).portEvent ∧
      (s.portQuiet → endsIn (exec (.ident p none) s) fun t => t.portIsDown p ∧ fieldsBut (downFields p) s t ∧ Same [.regs, .flt, .cast] s t) ∧
      ∀ b : IdentBody,
        let ok := s.genOk b = true ∧ b.jobTag.toNat = s.get F.LINK_IDENT_JOB_TAG ∧ s.wiredOk p.val b = true
        (ok → endsIn (exec (.ident p (some b)) s) fun t =>
          t.portState p.val = 2 ∧ t.get (F.LINK_PORT_STAT_GEN p.val) = min (s.get F.LINK_IDENT_GEN_MAX) b.genMax ∧
            t.get (F.LINK_PORT_STAT_PEER_ID p.val) = (if p.val = 15 ∨ p.val = 16 then b.bridgePort.toNat else b.memberId.toNat) ∧
            (t.port p).trips = [] ∧
            (∃ hs : List LinkHeader, hs.length = 16 ∧ t.sent = hs.map (fun h => .control p.val h 2 [s.perfCyc 0, 0]) ++ s.sent) ∧
            (p.val = 17 → t.get F.LINK_PAIR_STATUS_PEER_FEED = b.feedId.toNat) ∧
            fieldsBut [F.LINK_PORT_STAT_GEN p.val, F.LINK_PORT_STAT_PEER_ID p.val, F.LINK_PAIR_STATUS_PEER_FEED] s t ∧
            Same [.regs, .coll, .sent] s t) ∧
        (¬ ok → s.portQuiet → endsIn (exec (.ident p (some b)) s) fun t =>
          t.portIsDown p ∧ (s.genOk b = false → t.get (F.LINK_PORT_STAT_GEN_MISMATCH p.val) = 1) ∧
            (b.jobTag.toNat ≠ s.get F.LINK_IDENT_JOB_TAG → t.get (F.LINK_PORT_STAT_JOB_MISMATCH p.val) = 1) ∧
            (s.wiredOk p.val b = false → t.get (F.LINK_PORT_STAT_MISWIRED p.val) = 1) ∧ Same [.regs, .flt, .cast] s t)) ∧
    ∀ usable : Nat, s.portState p.val ≠ 0 → s.portState p.val ≠ 5 →
      (fullLanes p.val ≤ 2 * usable → endsIn (exec (.laneFail p usable) s) fun t =>
        t.portState p.val = s.portState p.val ∧
          (s.portState p.val = 1 → s.get (F.LINK_PORT_STAT_WIDTH p.val) = 0 → t.get (F.LINK_PORT_STAT_WIDTH p.val) = 0) ∧
          (s.portState p.val ≠ 1 ∨ s.get (F.LINK_PORT_STAT_WIDTH p.val) ≠ 0 →
            t.get (F.LINK_PORT_STAT_WIDTH p.val) = (if fullLanes p.val ≤ usable then fullLanes p.val else fullLanes p.val / 2)) ∧
          (usable < fullLanes p.val → t.get (F.LINK_PORT_STAT_DEGRADED p.val) = 1) ∧
          fieldsBut [F.LINK_PORT_STAT_WIDTH p.val, F.LINK_PORT_STAT_DEGRADED p.val] s t ∧ Same [.regs] s t) ∧
      (2 * usable < fullLanes p.val → s.portQuiet →
        (s.portUp p.val = true ∨ s.get (F.LINK_PORT_STAT_RETRAINS p.val) ≠ 0 → s.roomFor clsPort p.val →
          endsIn (exec (.laneFail p usable) s) fun t => s.portFenced p t) ∧
        (s.portUp p.val = false → s.get (F.LINK_PORT_STAT_RETRAINS p.val) = 0 → endsIn (exec (.laneFail p usable) s) fun t =>
          t.portIsDown p ∧ fieldsBut (downFields p) s t ∧ Same [.regs, .flt, .cast] s t))

/-- PROBE, LINK_ACK, RESEND_TIMEOUT and UNCORRECTABLE_CODEWORD on a port: the echo and the round trip, the acknowledged frames that leave the window,
the frames sent again, the retrain after the eighth resend and after a bad codeword: a port receives fewer than 10⁶ codewords in 1 ms, so one is more
than 1 in 10⁶ (log entry 12, deduced). -/
def Obligations.LinkService : Prop :=
  ∀ (p : PortIx) (s : State), s.memWf = true →
    (∀ (b : ProbeBody) (arrival : U64), s.blocksUp = true → s.portState p.val = 2 ∨ s.portState p.val = 3 →
      (b.echoTime = 0 → endsIn (exec (.probe p b arrival) s) fun t =>
        (∃ h, t.sent = .control p.val h 2 [b.sendTime.toNat, arrival.toNat] :: s.sent) ∧
          (t.port p).probes = (s.port p).probes + 1 ∧ Same [.coll, .sent] s t) ∧
      (b.echoTime ≠ 0 → endsIn (exec (.probe p b arrival) s) fun t =>
        (t.port p).trips = (if s.portState p.val = 2 ∧ (s.port p).trips.length < 16 then (arrival - b.sendTime).toNat :: (s.port p).trips
          else (s.port p).trips) ∧ Same [.coll] s t)) ∧
    (s.portUp p.val = true → (s.port p).waiting = [] →
      (∀ (h : LinkHeader) (f : SentFrame) (fs : List SentFrame) (k : Nat), h.gen.toNat = s.get (F.LINK_PORT_STAT_GEN p.val) →
        h.ftype.toNat ≤ 1 → (s.port p).unacked = f :: fs → k ≤ fs.length + 1 → k < 65536 →
        h.ackSeq.toNat = (f.link.seqNo.toNat + k) % 65536 →
        let left := (f :: fs).drop k
        let resends := if 0 < k then 0 else (s.port p).resends
        (h.nak = false ∨ left = [] → endsIn (exec (.linkAck p h) s) fun t =>
          t.port p = { s.port p with unacked := left, credits := (s.port p).credits + h.credits.toNat, resends := resends } ∧ Same [.coll] s t) ∧
        (h.nak = true → left ≠ [] → resends < 7 → keptHere left → endsIn (exec (.linkAck p h) s) fun t =>
          (t.port p).unacked = left ∧ (t.port p).resends = resends + 1 ∧ s.resent p left t ∧
            t.get (F.LINK_PORT_ERR_REPLAYS p.val) = min 65535 (s.get (F.LINK_PORT_ERR_REPLAYS p.val) + left.length) ∧
            Same [.regs, .coll, .perf, .sent] s t)) ∧
      (∀ h : LinkHeader, h.gen.toNat ≠ s.get (F.LINK_PORT_STAT_GEN p.val) → endsIn (exec (.linkAck p h) s) fun t =>
        t.get (F.LINK_PORT_ERR_REPLAYS p.val) = min 65535 (s.get (F.LINK_PORT_ERR_REPLAYS p.val) + 1) ∧
          fieldsBut [F.LINK_PORT_ERR_REPLAYS p.val] s t ∧ Same [.regs] s t) ∧
      ((s.port p).unacked = [] → exec (.resendTimeout p) s = .next s) ∧
      exec (.resendTimeout p) s = .next (s.resendAll p) ∧
      ((s.port p).unacked ≠ [] → keptHere (s.port p).unacked → endsIn (exec (.resendTimeout p) s) fun t =>
        (t.port p).unacked = (s.port p).unacked ∧ s.resent p (s.port p).unacked t ∧
          ((s.port p).resends < 7 → (t.port p).resends = (s.port p).resends + 1 ∧ t.portState p.val = 3) ∧
          (7 ≤ (s.port p).resends → s.retrainBegan p t ∧ (t.port p).resends = 0) ∧
          frame perfWin (F.LINK_PORT_ERR_REPLAYS p.val :: retrainFields p) s t ∧ Same [.regs, .coll, .flt, .perf, .sent] s t)) ∧
    (s.portUp p.val = true →
      let n := if (s.port p).uncorrAt + 3125 ≤ s.aon then 1 else (s.port p).uncorrMs + 1
      endsIn (exec (.uncorrectableCodeword p) s) fun t =>
        t.get (F.LINK_PORT_ERR_FEC_UNCORR p.val) = min 65535 (s.get (F.LINK_PORT_ERR_FEC_UNCORR p.val) + 1) ∧ (t.port p).uncorrMs = n ∧
          (∃ h : LinkHeader, t.sent = .ack p.val h :: s.sent ∧ h.nak = true ∧ h.ackSeq.toNat = (s.port p).rxSeq % 65536) ∧
          s.retrainBegan p t ∧
          fieldsBut (F.LINK_PORT_ERR_FEC_UNCORR p.val :: retrainFields p) s t ∧ Same [.regs, .coll, .flt, .sent] s t)

/-- MARKER_SEND, MARKER, MARKER_MISSED and MARKER_LOSS_TIMEOUT: the master's markers on every UP port at their ticks; what the first copy of a marker
does by the size of its offset; a marker of port P goes on; intervals and silence without a marker. -/
def Obligations.MarkersAlign : Prop :=
  ∀ s : State, s.memWf = true → s.running = true → s.time.running = true →
    (s.period.inPeriod = true → s.on F.LINK_ALIGN_MASTER = true → s.markerDue < s.get F.MGT_PERIOD_CFG0_PERIOD_TICKS →
      endsIn (exec .markerSend s) fun t =>
        s.markerDue % 31250 = 0 ∧ t.phaseTick = s.markerDue ∧ s.time.osc ≤ t.time.osc ∧ t.get F.LINK_ALIGN_ALIGNED = 1 ∧
          t.period.lastMarker = some (s.get F.MGT_PERIOD_STAT_PERIOD_NUM, s.markerDue) ∧
          (∀ p : PortIx, s.portUp p.val = true → ∃ h, .control p.val h 8 [s.get F.MGT_PERIOD_STAT_PERIOD_NUM, s.markerDue, 0] ∈ t.sent) ∧
          frame perfWin [F.LINK_ALIGN_ALIGNED] s t ∧ Same [.regs, .time, .ledger, .period, .coll, .perf, .sent] s t) ∧
    (∀ (p : PortIx) (period phaseTick : U32) (corr : Nat) (own : Int), s.portUp p.val = true →
      let key := (period.toNat, phaseTick.toNat)
      let l := s.lateness period.toNat (phaseTick.toNat * 320 + corr + (s.port p).latNs) own
      (p.val ≠ 17 → s.on F.LINK_ALIGN_MASTER = true ∨ s.period.lastMarker = some key →
        exec (.marker p period phaseTick corr own) s = .next s) ∧
      (p.val = 17 → endsIn (exec (.marker p period phaseTick corr own) s) fun t =>
        ∀ q : PortIx, q.val ≠ 17 → s.portUp q.val = true →
          ∃ h, .control q.val h 8 [period.toNat, phaseTick.toNat, corr + (s.port p).latNs] ∈ t.sent) ∧
      (s.on F.LINK_ALIGN_MASTER = false → s.period.lastMarker ≠ some key →
        endsIn (exec (.marker p period phaseTick corr own) s) fun t =>
          t.get F.LINK_ALIGN_OFFSET = ofSigned 24 l.1 % 2 ^ 24 ∧ t.get F.LINK_ALIGN_MISSED = 0 ∧ t.period.lastMarker = some key ∧
            (l.1.natAbs ≤ 2000 → t.period.sleepCorr = s.period.sleepCorr ∧ t.get F.LINK_ALIGN_STEP_CORR = s.get F.LINK_ALIGN_STEP_CORR) ∧
            (2000 < l.1.natAbs → t.period.sleepCorr = l.1) ∧
            (2000 < l.1.natAbs → l.1.natAbs ≤ 10000 → t.get F.LINK_ALIGN_STEP_CORR = 1) ∧
            (10000 < l.1.natAbs → t.get F.LINK_ALIGN_ALIGN_LOST = 1 ∧ t.get F.LINK_ALIGN_ALIGNED = 0) ∧
            (l.1.natAbs ≤ 2000 → t.get F.LINK_ALIGN_ALIGNED = b2n (decide (s.period.alignOwed ≠ 2))) ∧
            (l.2 ≠ s.get F.MGT_PERIOD_STAT_PERIOD_NUM → t.period.jump = some (l.2, period.toNat)) ∧
            fieldsBut [F.LINK_ALIGN_OFFSET, F.LINK_ALIGN_MISSED, F.LINK_ALIGN_STEP_CORR, F.LINK_ALIGN_ALIGN_LOST, F.LINK_ALIGN_ALIGNED] s t ∧
            Same [.regs, .period, .coll, .sent] s t)) ∧
    (s.on F.LINK_ALIGN_MASTER = false →
      (endsIn (exec .markerMissed s) fun t =>
        t.time.osc = max s.time.osc ((s.period.markerAt + 31250 * (s.get F.LINK_ALIGN_MISSED + 1)) * 8) ∧
          t.get F.LINK_ALIGN_MISSED = min 65535 (s.get F.LINK_ALIGN_MISSED + 1) ∧
          frame perfWin [F.LINK_ALIGN_MISSED] s t ∧ Same [.regs, .time, .ledger, .perf] s t) ∧
      endsIn (exec .markerLossTimeout s) fun t =>
        t.time.osc = max s.time.osc ((s.period.markerAt + 31250000) * 8) ∧ t.get F.LINK_ALIGN_ALIGN_LOST = 1 ∧
          t.get F.LINK_ALIGN_ALIGNED = 0 ∧ t.period = { s.period with alignOwed := if s.period.alignOwed = 0 then 3 else s.period.alignOwed } ∧
          frame perfWin [F.LINK_ALIGN_ALIGN_LOST, F.LINK_ALIGN_ALIGNED] s t ∧ Same [.regs, .time, .ledger, .period, .perf] s t)

/-! Collectives. -/

/-- BCAST, REDUCE, SEND and RECV posted by a free tile: refused with a record, waiting while the collective queue is full, or in flight with READY sent
to every module that is to send to this one. -/
def Obligations.CollectivesArePosted : Prop :=
  ∀ (cmd : Instr) (n : TileIx) (op : Nat) (d : BitVec 512) (s : State), postOf cmd = some (n, op, d) → s.memWf = true → s.tileFree n →
    s.memQuiet →
    ((s.atUnit cmd).stallReq = false → exec cmd s = .next (s.atUnit cmd)) ∧
    (s.collStatus op d ≠ stOk → endsIn (exec cmd s) fun t =>
      (∃ r, (t.tile n).recs = r :: (s.tile n).recs ∧ recTag r = cTag d ∧ recField r 103 96 = 2 ∧ recStatus r = s.collStatus op d) ∧
        t.get F.COLL_STAT_REFUSED = 1 ∧ t.coll = s.coll ∧ (∀ m, (t.tile m).mem = (s.tile m).mem) ∧
        fieldsBut [F.COLL_STAT_REFUSED] s t ∧ Same [.regs, .tiles] s t) ∧
    (s.collStatus op d = stOk → 64 ≤ (s.coll.queue.filter (fun c => !c.active)).length → endsIn (exec cmd s) fun t =>
      t.coll = s.coll ∧ t.stalled = [⟨cmd, 0, false, false⟩] ∧ t.tiles = s.tiles ∧ t.mem = s.mem) ∧
    ∀ g, s.collStatus op d = stOk → s.group (cGroup d) = some g → s.coll.queue = [] → s.coll.readys = [] → s.coll.gos = [] →
      sendTargets g d ≠ [] ∨ dataSources g d ≠ [] →
      endsIn (exec cmd s) fun t =>
        (∃ c, t.coll.queue = [c] ∧ c.tile = n.val ∧ c.d = d ∧ c.period = s.get F.MGT_PERIOD_STAT_PERIOD_NUM ∧ c.phase = s.phase ∧
          c.active = true ∧ c.recorded = false ∧
          ∀ i m p, i ∈ recvSources g d → memberAt g i = some m → s.portTo m 0 = some p → s.portUp p.val = true →
            i ∈ c.readySent ∧ ∃ h, .control p.val h 3 (bodyOf (collKeyOf c) ++ [cOp d, b2n (cWire d), cCombine d, cLength d, cWireId d]) ∈ t.sent) ∧
          t.get F.COLL_STAT_ACTIVE = 1 ∧ t.get F.COLL_STAT_QUEUE_DEPTH = 0 ∧ (∀ m, (t.tile m).recs = (s.tile m).recs) ∧
          (cWire d = false → t.mem = s.mem ∧ ∀ m, (t.tile m).mem = (s.tile m).mem)

/-- Chunks that arrive for the one collective in flight: BROADCAST_DATA at a member of the leader's pod and SEND_DATA are written and acknowledged;
REDUCE_CONTRIBUTION, POD_PARTIAL and BRIDGE_SLOT_RESULT of a leader's one contributor are added to its own source; with the last chunk the
collective's record is written. Whatever is in flight, each chunk is taken by `State.takeColl` for its kind; one of the assay group is the Timetable's. -/
def Obligations.CollectiveDataArrives : Prop :=
  (∀ (p : PortIx) (f : DataFrame) (s : State),
    exec (.reduceContribution p f) s = .next (s.takeColl p f 1 (State.onContribution p f)).settle ∧
      exec (.podPartial p f) s = .next (s.takeColl p f 2 (State.onPartial p f)).settle ∧
      exec (.bridgeSlotResult p f) s = .next (s.takeColl p f 5 (State.onSlotResult f)).settle ∧
      (s.assayChunk f.chunk = none →
        exec (.broadcastData p f) s = .next (s.takeColl p f 0 (State.onBroadcast f)).settle ∧
          exec (.sendData p f) s = .next (s.takeColl p f 3 (State.onSend f)).settle) ∧
      ∀ g, s.assayChunk f.chunk = some g → s.running = true → (s.takeFrame p f).2 = true →
        exec (.broadcastData p f) s = .next ((s.takeFrame p f).1.hearVerdict g f) ∧
          (∀ pos, groupPos g f.chunk.srcId.toNat = some pos → groupLeads g = true →
            exec (.sendData p f) s = .next ((s.takeFrame p f).1.takeDigest g pos f))) ∧
  ∀ (cmd : Instr) (p : PortIx) (f : DataFrame) (kind : Nat) (g : Group) (c : Coll) (n m : TileIx) (a pos : Nat) (s : State), s.memWf = true →
    s.inFlight g c → c.tile = n.val → s.frameFor p f c kind → pos < 1024 →
    let i := f.chunk.chunkIdx.toNat
    let len := f.chunk.len.toNat
    (∀ op, landArrival cmd = some (p, f, op, kind) → cOp c.d = op → i < cChunks c.d → (∀ e ∈ c.got, e.1 = pos) → (pos, i) ∉ c.got →
      (op = 0x60 → partOf g = .localMember ∧ pos = g.leaderPos) →
      (op = 0x63 → pos = cPeer c.d ∧ groupPos g f.chunk.srcId.toNat = some pos) →
      chunkDst c.d i = tileAddr m.val a → a + len ≤ tileBytes →
      endsIn (exec cmd s) fun t =>
        s.frameTaken p t ∧ (∀ j < len, t.tileByte m (a + j) = f.payload.getD j 0) ∧
          (∀ x, (x < a ∨ a + len ≤ x) → Sparse.find (t.tile m).mem x = Sparse.find (s.tile m).mem x) ∧
          (∀ w, memberAt g pos = some w → .collAck w.id.toNat (collKeyOf c) i ∈ t.sent) ∧
          (c.got.length + 1 < cChunks c.d → ∃ c', t.coll.queue = [c'] ∧ c'.got = (pos, i) :: c.got ∧ c'.chunks = c.chunks + 1) ∧
          (cChunks c.d ≤ c.got.length + 1 → s.collDone c n t)) ∧
    ∀ (m' : TileIx) (a' : Nat), sumArrival cmd = some (p, f, kind) → cOp c.d = 0x61 → cCombine c.d = 0 → cWire c.d = false →
      partOf g = .leader → oneContributor g kind f.chunk.srcId.toNat pos → i < cChunks c.d → i < cPartialChunks c.d →
      (∀ e ∈ c.got, e.2 ≠ i) → c.staged = [] → i ∉ c.written → len = 4 * unitElems c.d i →
      cSrc c.d + 4096 * i = tileAddr m'.val a' → a' + len ≤ tileBytes → cDst c.d + 4096 * i = tileAddr m.val a → a + len ≤ tileBytes →
      let own := words32 (s.tileRead m' a' len).1
      endsIn (exec cmd s) fun t =>
        s.frameTaken p t ∧ (∀ j < len, t.tileByte m (a + j) = (wordBytes (addWords own (words32 (sliceBytes f.payload 0 len)))).getD j 0) ∧
          (∀ w, memberAt g pos = some w → .collAck w.id.toNat (collKeyOf c) i ∈ t.sent) ∧
          (c.written.length + 1 < cPartialChunks c.d → ∃ c', t.coll.queue = [c'] ∧ c'.written = NatSet.add c.written i ∧ c'.staged = []) ∧
          (cPartialChunks c.d = 1 → cChunks c.d = 1 → c.got = [] → c.written = [] → s.collDone c n t)

/-- READY, GO, SLOT_GRANT, SLOT_BUSY, SLOT_REQ_TIMEOUT and COLLECTIVE_ACK for the one collective in flight, or kept for one to come, and
ASSAY_SWEEP_DONE. Whatever is in flight, each changes the collective of its key by its own operation, and what waited for it goes on. -/
def Obligations.CollectiveControl : Prop :=
  (∀ s : State, s.running = true →
    (∀ src b, exec (.ready src b) s = .next (s.onReady src b).settle) ∧
      (∀ plane key slot, exec (.slotGrant plane key slot) s = .next (s.onColl key (State.onAnswer plane (some slot) false)).settle) ∧
      (∀ plane key, exec (.slotBusy plane key) s = .next (s.onColl key (State.onAnswer plane none false)).settle) ∧
      (∀ plane key, exec (.slotReqTimeout plane key) s = .next (s.onColl key (State.onAnswer plane none true)).settle) ∧
      (∀ key src chunk, exec (.collectiveAck key src chunk) s = .next (s.onColl key (State.onCollAck src.toNat chunk.toNat)).settle) ∧
      (∀ key s0 s1, s.hasColl key = true → exec (.go key s0 s1) s = .next (s.onColl key (fun s g c =>
        if sumWithRemote g c.d && partOf g == .subLeader then s.takeGo g c s0 s1 else (s, c))).settle) ∧
      (s.assayHeld = false → exec .assaySweepDone s = .next s.sweepDone)) ∧
  ∀ s : State, s.memWf = true → s.running = true → s.stalled = [] →
    (∀ (src : BitVec 16) (b : ReadyBody), s.coll.queue = [] → s.noVoteDue → endsIn (exec (.ready src b) s) fun t =>
      t.coll = { s.coll with readys := s.coll.readys ++ [(src, b)] } ∧ Same [.regs, .coll] s t) ∧
    (∀ (key : CollKey) (s0 s1 : Option Nat), s.hasColl key = false →
      exec (.go key s0 s1) s = .next { s with coll := { s.coll with gos := s.coll.gos ++ [(key, s0, s1)] } }) ∧
    (∀ (g : Group) (c : Coll) (n : TileIx), s.inFlight g c → c.tile = n.val →
      let sends := cWire c.d = false ∧ (cOp c.d = 0x62 ∨ (cOp c.d = 0x60 ∧ partOf g = .leader)) ∧ 0 < cChunks c.d ∧ c.fwd = []
      (∀ (src : BitVec 16) (b : ReadyBody) (i a : Nat) (m : Member) (p : PortIx) (k : TileIx), sends → c.acked = [] → c.readyFrom = [] →
        c.sentTo = [] → i ∈ sendTargets g c.d → groupPos g src.toNat = some i → readyMatches c b = true → memberAt g i = some m →
        s.portTo m 0 = some p → s.sendsNow p → cSrc c.d = tileAddr k.val a → a + rawLen c.d 0 ≤ tileBytes →
        endsIn (exec (.ready src b) s) fun t =>
          (∃ c', t.coll.queue = [c'] ∧ i ∈ c'.readyFrom) ∧
            ∃ f, .data p.val f ∈ t.sent ∧ f.chunk.chunkIdx = 0 ∧ f.chunk.dstId = m.id ∧ keyOfChunk f.chunk = collKeyOf c ∧
              f.payload = sliceBytes (s.tileRead k a (rawLen c.d 0)).1 0 4096) ∧
      (∀ (src : BitVec 16) (b : ReadyBody) (i : Nat), sends → c.acked = [] → s.readyFor src.toNat b c = some i → readyMatches c b = false →
        s.roomFor clsJob 0 → endsIn (exec (.ready src b) s) fun t =>
          t.get F.COLL_STAT_MISMATCH = 1 ∧ s.queued (s.mkRec clsJob 0 1 0x0F 0 0 1 0) t ∧
            ∃ c', t.coll.queue = [c'] ∧ c'.readyFrom = c.readyFrom ∧ c'.cflags.testBit 4 = true) ∧
      (∀ (src : BitVec 16) (chunk : U32) (i : Nat), sends → groupPos g src.toNat = some i → sendTargets g c.d = [i] →
        (i, chunk.toNat) ∉ c.acked → (∀ e ∈ c.acked, e.1 = i) →
        endsIn (exec (.collectiveAck (collKeyOf c) src chunk) s) fun t =>
          (c.acked.length + 1 < cChunks c.d → ∃ c', t.coll.queue = [c'] ∧ c'.acked = (i, chunk.toNat) :: c.acked) ∧
            (cChunks c.d ≤ c.acked.length + 1 → s.collDone c n t)) ∧
      (∀ s0 s1 : Option Nat, sumWithRemote g c.d = true → partOf g = .subLeader → 0 < cPartialChunks c.d → c.acked = [] → c.go = false →
        endsIn (exec (.go (collKeyOf c) s0 s1) s) fun t =>
          (∃ c', t.coll.queue = [c'] ∧ c'.go = true ∧ c'.planes = #v[some (modeOf s0), some (modeOf s1)]) ∧
            let lost0 := s0.isNone && s.planeTo g g.leaderPos 0
            let lost1 := s1.isNone && s.planeTo g g.leaderPos 1
            t.get F.COLL_STAT_RELAY = (if lost0 || lost1 then 1 else s.get F.COLL_STAT_RELAY) ∧
            t.get F.COLL_CNT_RELAY_PLANES = min 65535 (s.get F.COLL_CNT_RELAY_PLANES + b2n lost0 + b2n lost1)) ∧
      ∀ plane : Fin 2, sumWithRemote g c.d = true → partOf g = .leader → 0 < cPartialChunks c.d → c.got = [] → c.planes[plane] = some .asked →
        (∀ slot, endsIn (exec (.slotGrant plane (collKeyOf c) slot) s) fun t =>
          (∃ c', t.coll.queue = [c'] ∧ c'.planes[plane] = some (.slot slot)) ∧
            t.get F.COLL_CNT_SLOT_GRANTS = min 65535 (s.get F.COLL_CNT_SLOT_GRANTS + 1)) ∧
        ∀ late : Bool, endsIn (exec (if late then .slotReqTimeout plane (collKeyOf c) else .slotBusy plane (collKeyOf c)) s) fun t =>
          (∃ c', t.coll.queue = [c'] ∧ c'.planes[plane] = some .relay ∧ c'.cflags.testBit plane.val = true) ∧
            t.get F.COLL_STAT_RELAY = 1 ∧ t.get F.COLL_CNT_RELAY_PLANES = min 65535 (s.get F.COLL_CNT_RELAY_PLANES + 1) ∧
            t.get F.COLL_STAT_SLOT_TIMEOUT = (if late then 1 else s.get F.COLL_STAT_SLOT_TIMEOUT)) ∧
    ∀ (step sweep : Nat) (pages : List (Nat × Nat)) (g : Group), s.mem.latent = [] → s.flt.assay = some (step, sweep, pages) →
      s.assayGroup = some g → s.flt.assayHashed = false → s.assayHeld = false →
      let bytes := (s.sweepBytes pages).2
      (∀ m p, groupLeads g = false → memberAt g g.leaderPos = some m → s.portTo m 0 = some p → s.sendsNow p →
        endsIn (exec .assaySweepDone s) fun t =>
          (∃ f, t.sent = .data p.val f :: s.sent ∧ f.chunk.dstId = m.id ∧
            f.payload = digestBytes step sweep ((bytes.length + 0xFFFFF) / 0x100000) (treeHash bytes)) ∧
            t.flt = { s.flt with assayHashed := true } ∧ t.mem.pinned = [] ∧ t.mem.returning = s.mem.pinned ++ s.mem.returning ∧
            Same [.regs, .power, .mem, .coll, .flt, .perf, .sent] s t) ∧
      (groupLeads g = true → (Sparse.insert s.flt.roots g.selfPos (some (treeHash bytes))).length < g.members.length →
        endsIn (exec .assaySweepDone s) fun t =>
          t.flt = { s.flt with assayHashed := true, roots := Sparse.insert s.flt.roots g.selfPos (some (treeHash bytes)) } ∧ t.sent = s.sent ∧
            t.mem.pinned = [] ∧ Same [.regs, .power, .mem, .flt, .perf] s t)

/-! The host and the Pigeonholes. -/

/-- RELEASE_BUFFER, RETURN, RETURN_ALL, the host's reads and writes of the window, CXL_SNOOP and GLOBAL_PERSISTENT_FLUSH: what is held and what is in
host bias afterwards, the bytes read and written, what the decoder does not map; without CXL the host reads the output buffers through BAR2. -/
def Obligations.HostReachesMemory : Prop :=
  ∀ s : State, s.memWf = true →
    (s.blocksUp = true → s.mode ≠ 2 → s.still →
      (∀ v : U64, endsIn (exec (.releaseBuffer v) s) fun t =>
        let rel := fun b : Nat => v.toNat.testBit b = true ∧ s.on (if b = 0 then F.MGT_OUT_HELD0 else F.MGT_OUT_HELD1) = true
        t.get F.MGT_OUT_HELD0 = (if v.toNat.testBit 0 then 0 else s.get F.MGT_OUT_HELD0) ∧
          t.get F.MGT_OUT_HELD1 = (if v.toNat.testBit 1 then 0 else s.get F.MGT_OUT_HELD1) ∧
          (∀ g, g ∈ t.mem.hostBias ↔ g ∈ s.mem.hostBias ∧
            ∀ b ≤ 1, rel b → ¬ ((s.outBuf b).1 / 0x200000 ≤ g ∧ g < ((s.outBuf b).1 + (s.outBuf b).2) / 0x200000)) ∧
          (¬ rel 0 → ¬ rel 1 → t = s) ∧
          (rel 0 ∨ rel 1 → t.get F.MGT_HDM_HOST_BIAS = t.mem.hostBias.length % 2 ^ 19) ∧
          fieldsBut [F.MGT_OUT_HELD0, F.MGT_OUT_HELD1, F.MGT_HDM_HOST_BIAS] s t ∧ Same [.regs, .mem] s t) ∧
      (∀ v : U64, v.toNat.testBit 21 = true → v.toNat.testBit 22 = false → endsIn (exec (.returnGranule v) s) fun t =>
        t.get F.MGT_HDM_GRANULE = v.toNat % 2 ^ 18 ∧ t.mem = { s.mem with hostBias := s.mem.hostBias.filter (fun g => g != v.toNat % 2 ^ 18) } ∧
          t.get F.MGT_HDM_HOST_BIAS = t.mem.hostBias.length % 2 ^ 19 ∧
          fieldsBut [F.MGT_HDM_GRANULE, F.MGT_HDM_HOST_BIAS, F.MGT_HDM_BIAS_STALL, F.MGT_HDM_HOST_UNMAPPED] s t ∧ Same [.regs, .mem] s t) ∧
      ∀ v : U64, v.toNat.testBit 22 = true → endsIn (exec (.returnAll v) s) fun t =>
        t.mem = { s.mem with hostBias := [] } ∧ t.get F.MGT_HDM_HOST_BIAS = 0 ∧
          fieldsBut [F.MGT_HDM_GRANULE, F.MGT_HDM_HOST_BIAS, F.MGT_HDM_BIAS_STALL, F.MGT_HDM_HOST_UNMAPPED] s t ∧ Same [.regs, .mem] s t) ∧
    (∀ off len : Nat, s.hdmOpen = true → s.hostServed off len → s.memApart → endsIn (exec (.hostMemRead off len) s) fun t =>
      (∃ d bad, t.sent = .readData d bad :: s.sent ∧ d.length = len ∧ ∀ j < len, s.peek (off + j) = some (d.getD j 0)) ∧
        (∀ g, g ∈ t.mem.hostBias ↔ g ∈ s.mem.hostBias ∨ inRange off len g) ∧
        fieldsBut [F.MGT_HDM_HOST_BIAS, F.MEM_STAT_POISON_READ] s t ∧ Same [.regs, .mem, .sent] s t) ∧
    (∀ off len : Nat, s.bar2Open = true → off + len ≤ bar2Bytes → s.hostServed (s.bar2Offset off) len → s.memApart →
      endsIn (exec (.hostMemRead off len) s) fun t =>
        (∃ d bad, t.sent = .readData d bad :: s.sent ∧ d.length = len ∧ ∀ j < len, s.peek (s.bar2Offset off + j) = some (d.getD j 0)) ∧
          fieldsBut [F.MEM_STAT_POISON_READ] s t ∧ Same [.regs, .mem, .sent] s t ∧ t.mem = s.mem) ∧
    (∀ (off : Nat) (bytes : List Byte), s.hdmOpen = true → s.hostServed off bytes.length → s.memApart →
      (∀ j < bytes.length, ∀ q b, s.decodeAddr (off + j) = .dram q b → s.physLine q (b / 512) ≠ none) →
      endsIn (exec (.hostMemWrite off bytes) s) fun t =>
        (∀ j < bytes.length, t.peek (off + j) = some (bytes.getD j 0)) ∧
          (∀ a q b, s.decodeAddr a = .dram q b → a < off ∨ off + bytes.length ≤ a → t.peek a = s.peek a) ∧
          (∀ g, g ∈ t.mem.hostBias ↔ g ∈ s.mem.hostBias ∨ inRange off bytes.length g) ∧
          fieldsBut [F.MGT_HDM_HOST_BIAS] s t ∧ Same [.regs, .mem] s t) ∧
    (s.hdmOpen = true → s.stallReq = false → ∀ (off len : Nat) (bytes : List Byte), bytes.length = len →
      (s.hdmActive = false → exec (.hostMemRead off len) s = .next { s with sent := .readData (List.replicate len 0) true :: s.sent } ∧
        exec (.hostMemWrite off bytes) s = .next s) ∧
      (s.hdmActive = true → s.hdmMapped off len = false →
        (endsIn (exec (.hostMemRead off len) s) fun t => t.sent = .readData (List.replicate len 0) true :: s.sent ∧
          t.get F.MGT_HDM_HOST_UNMAPPED = 1 ∧ fieldsBut [F.MGT_HDM_HOST_UNMAPPED] s t ∧ Same [.regs, .sent] s t) ∧
        (endsIn (exec (.hostMemWrite off bytes) s) fun t =>
          t.get F.MGT_HDM_HOST_UNMAPPED = 1 ∧ fieldsBut [F.MGT_HDM_HOST_UNMAPPED] s t ∧ Same [.regs] s t))) ∧
    (s.hdmOpen = true → ∀ a : U64, exec (.cxlSnoop a) s = .next { s with sent := .cxl "holds nothing" :: s.sent } ∧
      exec .globalPersistentFlush s = .next { s with sent := .cxl "flush acknowledged" :: s.sent })

/-- REGISTER_WRITE of a register without a command among its bits: RW bits of the part addressed take the written ones, RW1C bits written 1 are
cleared, every other bit and register stays; a write that is not aligned, or to a register that does not answer, changes nothing. An offset
that holds no register reads zero, and a write there is discarded and runs like any other. A write that takes the mask off a pending vector sends
its message. A write of any register is `State.busWrite`. -/
def Obligations.RegisterWrites : Prop :=
  (∀ (fn1 : Bool) (off : Nat) (half : Bool) (v : U64) (s : State), exec (.registerWrite fn1 off half v) s = .next (s.busWrite fn1 off half v)) ∧
  (∀ (fn1 : Bool) (off : Nat) (half : Bool) (v : U64) (s : State), registerAt fn1 (off / 8 * 8) = false →
    s.readReg fn1 (off / 8 * 8) = 0 ∧ exec (.registerWrite fn1 off half v) s = .next s) ∧
  (∀ (fn1 : Bool) (k : Nat) (v : U64) (s : State), k < msixVectors fn1 → s.blocksUp = true → s.start.cxlUp = true →
    bit (s.msix fn1).mask k = true → bit (s.msix fn1).pba k = true → v.getLsbD 32 = false →
    endsIn (exec (.registerWrite fn1 (msixTable fn1 + 16 * k + 8) false v) s) fun t =>
      t.sent = .msi fn1 k :: s.sent ∧ bit (t.msix fn1).mask k = false ∧ bit (t.msix fn1).pba k = false ∧ t.msix (!fn1) = s.msix (!fn1) ∧
        Same [.start, .sent] s t) ∧
  ∀ (off : Nat) (half : Bool) (v : U64) (s : State), s.memWf = true → s.blocksUp = true →
    (off % (if half then 4 else 8) ≠ 0 → ∀ fn1, exec (.registerWrite fn1 off half v) s = .next s) ∧
    (mbxOf true (off / 8 * 8) = none → msixWordIx true (off / 8 * 8) = none → exec (.registerWrite true off half v) s = .next s) ∧
    (mbxOf false (off / 8 * 8) = none → msixWordIx false (off / 8 * 8) = none → s.answers (off / 8 * 8) = false ∨ cardAt (off / 8 * 8) = none →
      exec (.registerWrite false off half v) s = .next s) ∧
    ∀ c, off % (if half then 4 else 8) = 0 → plainReg (off / 8 * 8) = true → s.answers (off / 8 * 8) = true → cardAt (off / 8 * 8) = some c →
      endsIn (exec (.registerWrite false off half v) s) fun t =>
        (∀ j < 64, (t.rd (off / 8 * 8)).getLsbD j =
          if bitWritten off half j = false then (s.rd (off / 8 * 8)).getLsbD j
          else
            let w := v.getLsbD (if half ∧ 32 ≤ j then j - 32 else j)
            if c.rw.testBit j then w
            else if c.rw1c.testBit j then (s.rd (off / 8 * 8)).getLsbD j && !w
            else (s.rd (off / 8 * 8)).getLsbD j) ∧
          regsBut (fun o => o = off / 8 * 8) s t ∧ Same [.regs] s t

/-- MBX_DATA_WRITE, DOORBELL, RX_EMPTY and RX_RESET at both ends of a Pigeonhole channel below the secure ones, no sequencer's access waiting: the slot
goes from EMPTY to FULL and back, a FULL slot takes neither data nor a doorbell, and the other end is told. -/
def Obligations.PigeonholesPassMessages : Prop :=
  ∀ (c : MbxIx) (col : Fin 8) (s : State), s.memWf = true → s.mode = 1 → c.val < 24 → s.stalled = [] → s.stallReq = false →
    (s.chan c).parts = [] → (s.chan c).reply = none →
    (s.mailEnd c .a col = true → s.claimed c .a col = false → ∀ (w : Fin 8) (v : U64),
      ((s.chan c).toB.full = false →
        (endsIn (exec (.mbxDataWrite c .a col w v) s) fun t =>
          t.chan c = { s.chan c with toB := { (s.chan c).toB with
            data := (s.chan c).toB.data.set w v, column := if 16 ≤ c.val then some col.val else (s.chan c).toB.column } } ∧
            s.otherChans c t ∧ Same [.mbx] s t) ∧
        (endsIn (exec (.doorbell c .a col) s) fun t =>
          t.chan c = { s.chan c with
            toB := { (s.chan c).toB with full := true, column := if 16 ≤ c.val then some col.val else (s.chan c).toB.column }
            endA := { (s.chan c).endA with sent := min 65535 ((s.chan c).endA.sent + 1) }
            endB := { (s.chan c).endB with arrived := true, received := min 65535 ((s.chan c).endB.received + 1) } } ∧
            s.otherChans c t ∧ (s.running = true → s.sleeping domTimetable → s.wakeBegan domTimetable 2 t) ∧
            fieldsBut (wakeFields domTimetable) s t ∧ Same [.regs, .power, .mbx] s t)) ∧
      ((s.chan c).toB.full = true →
        (endsIn (exec (.mbxDataWrite c .a col w v) s) fun t =>
          t.chan c = { s.chan c with endA := { (s.chan c).endA with writeFull := true } } ∧ s.otherChans c t ∧ Same [.mbx] s t) ∧
        (endsIn (exec (.doorbell c .a col) s) fun t =>
          t.chan c = { s.chan c with endA := { (s.chan c).endA with doorbellFull := true } } ∧ s.otherChans c t ∧ Same [.mbx] s t))) ∧
    (s.mailEnd c .b col = true → ∀ (w : Fin 8) (v : U64),
      ((s.chan c).toA.full = false → endsIn (exec (.mbxDataWrite c .b col w v) s) fun t =>
        t.chan c = { s.chan c with toA := { (s.chan c).toA with data := (s.chan c).toA.data.set w v } } ∧ s.otherChans c t ∧ Same [.mbx] s t) ∧
      ((s.chan c).toA.full = true → endsIn (exec (.mbxDataWrite c .b col w v) s) fun t =>
        t.chan c = { s.chan c with endB := { (s.chan c).endB with writeFull := true } } ∧ s.otherChans c t ∧ Same [.mbx] s t) ∧
      (c.val < 16 → (s.chan c).toA.full = false → endsIn (exec (.doorbell c .b col) s) fun t =>
        t.chan c = { s.chan c with
          toA := { (s.chan c).toA with full := true, column := none }
          endA := { (s.chan c).endA with arrived := true, received := min 65535 ((s.chan c).endA.received + 1) }
          endB := { (s.chan c).endB with sent := min 65535 ((s.chan c).endB.sent + 1) } } ∧
          ((s.chan c).endA.arrived = false → s.raised false (8 + c.val) t) ∧ s.otherChans c t ∧ SameAndSent [.mbx] s t) ∧
      (∀ n : TileIx, mailTile c col = some n → 16 ≤ c.val → s.tileFenced n.val = true →
        exec (.doorbell c .b col) s = .next { s with sent := .doorbellRefused c.val col.val :: s.sent }) ∧
      (∀ n : TileIx, mailTile c col = some n → 16 ≤ c.val → s.tileFenced n.val = false → (s.chan c).toA.full = false →
        endsIn (exec (.doorbell c .b col) s) fun t =>
          (t.chan c).toA.full = true ∧ (t.chan c).toA.column = some col.val ∧ (t.chan c).endA.arrived = true ∧ s.otherChans c t ∧
            (s.sleeping n.val → s.wakeBegan n.val 2 t) ∧ fieldsBut (wakeFields n.val) s t ∧ Same [.regs, .power, .mbx] s t) ∧
      ((s.chan c).toA.full = true → (∀ n : TileIx, mailTile c col = some n → 16 ≤ c.val → s.tileFenced n.val = false) →
        endsIn (exec (.doorbell c .b col) s) fun t =>
          t.chan c = { s.chan c with endB := { (s.chan c).endB with doorbellFull := true } } ∧ s.otherChans c t ∧ Same [.mbx] s t)) ∧
    ∀ reset : Bool,
      (s.mailEnd c .a col = true → (s.chan c).toA.full = true → (16 ≤ c.val → (s.chan c).toA.column = some col.val) →
        endsIn (exec (if reset then .rxReset c .a col else .rxEmpty c .a col) s) fun t =>
          t.chan c = { s.chan c with
            toA := { (s.chan c).toA with full := false, column := none }
            endB := { (s.chan c).endB with emptied := true, dropped := (s.chan c).endB.dropped || reset } } ∧ s.otherChans c t ∧
            (c.val < 16 → Same [.mbx] s t) ∧ Same [.regs, .mbx] s t) ∧
      (s.mailEnd c .b col = true → (s.chan c).toB.full = true →
        endsIn (exec (if reset then .rxReset c .b col else .rxEmpty c .b col) s) fun t =>
          t.chan c = { s.chan c with
            toB := { (s.chan c).toB with full := false, column := none }
            endA := { (s.chan c).endA with emptied := true, dropped := (s.chan c).endA.dropped || reset } } ∧ s.otherChans c t ∧
            (c.val < 16 → (s.chan c).endA.emptied = false → s.raised false (8 + c.val) t) ∧
            fieldsBut [F.PWR_DOM_STAT_STATE domTimetable] s t ∧ SameAndSent [.regs, .mbx] s t) ∧
      ((s.chan c).toA.full = false → exec (if reset then .rxReset c .a col else .rxEmpty c .a col) s = .next s) ∧
      ((s.chan c).toB.full = false → exec (if reset then .rxReset c .b col else .rxEmpty c .b col) s = .next s)

/-! Identity, faults, performance counters, formats. -/

/-- Enrolment, the Waybill upload and MIN_SEQ over DOE: what is kept in flash and what is answered; an unsigned, stale, oversized or misplaced request
changes no flash. -/
def Obligations.OwnerAndWaybillObjects : Prop :=
  ∀ s : State, s.memWf = true → s.innkUp = true → s.bootRoom →
    (∀ (part : BitVec 16) (last : Bool) (img : WaybillImage),
      let n := part.toNat
      let all := if n = 0 then img.bytes else s.start.uploadBytes ++ img.bytes
      let whole : WaybillImage := { img with bytes := all }
      (n ≠ s.start.upload.getD 0 → exec (.waybillWrite part last img) s =
        .next ({ s with start := { s.start with upload := none, uploadBytes := [] } }.answered (vorastOut 1 n 3 []))) ∧
      (n = s.start.upload.getD 0 → 0x40000 < img.bytes.length →
        exec (.waybillWrite part last img) s = .next (s.answered (vorastOut 1 n 1 []))) ∧
      (n = s.start.upload.getD 0 → img.bytes.length ≤ 0x40000 → last = false → endsIn (exec (.waybillWrite part last img) s) fun t =>
        t.start.upload = some (n + 1) ∧ t.start.uploadBytes = all ∧ s.replied (vorastOut 1 n 0 []) t ∧
          (n = 0 → t.flash.slots[s.stagingSlot] = none ∧ t.bootDir.stagedPending = false ∧ t.get F.MGT_BOOTSTAT_STAGED_PENDING = 0) ∧
          (n ≠ 0 → t.flash = s.flash ∧ t.get F.MGT_BOOTSTAT_STAGED_PENDING = s.get F.MGT_BOOTSTAT_STAGED_PENDING) ∧
          t.activeSlot = s.activeSlot ∧ t.flash.slots[s.activeSlot] = s.flash.slots[s.activeSlot] ∧ t.flash.owner = s.flash.owner ∧
          fieldsBut (F.MGT_BOOTSTAT_STAGED_PENDING :: wakeFields domFlash) s t ∧ Same [.regs, .start, .flash, .sent] s t) ∧
      (n = s.start.upload.getD 0 → img.bytes.length ≤ 0x40000 → last = true → endsIn (exec (.waybillWrite part last img) s) fun t =>
        t.start.upload = none ∧ t.start.uploadBytes = [] ∧ t.activeSlot = s.activeSlot ∧
          t.flash.slots[s.activeSlot] = s.flash.slots[s.activeSlot] ∧ t.flash.owner = s.flash.owner ∧
          (verifyRead s.start.ownerNow whole = 0 → t.flash.slots[s.stagingSlot] = some whole ∧ t.bootDir.stagedPending = true ∧
            t.get F.MGT_BOOTSTAT_STAGED_PENDING = 1 ∧ s.replied (vorastOut 1 n 0 []) t) ∧
          (verifyRead s.start.ownerNow whole ≠ 0 → t.get F.MGT_BOOTSTAT_STAGED_REJECTED = 1 ∧
            s.replied (vorastOut 1 n 4 [BitVec.ofNat 8 (verifyRead s.start.ownerNow whole)]) t ∧ (n = 0 → t.flash.slots[s.stagingSlot] = none)) ∧
          fieldsBut (F.MGT_BOOTSTAT_STAGED_PENDING :: F.MGT_BOOTSTAT_STAGED_REJECTED :: wakeFields domFlash) s t ∧
          Same [.regs, .start, .flash, .sent] s t)) ∧
    (∀ (key : BitVec 1064) (dev : Digest) (nonce : BitVec 256) (sig : Signed),
      (sig.root = false ∨ (∃ o, s.flash.owner = some o ∧ o.key ∉ sig.keys) →
        exec (.enrol key dev nonce sig) s = .next (s.answered (vorastOut 2 0 2 []))) ∧
      (sig.root = true → (∀ o, s.flash.owner = some o → o.key ∈ sig.keys) → ∀ k, s.start.nonceCount = k + 1 →
        (s.start.keysOk = false ∨ nonce ≠ Config.nonce k ∨ dev ≠ s.start.deviceId →
          exec (.enrol key dev nonce sig) s = .next (s.answered (vorastOut 2 0 1 []))) ∧
        (s.start.keysOk = true → nonce = Config.nonce k → dev = s.start.deviceId → endsIn (exec (.enrol key dev nonce sig) s) fun t =>
          (s.flash.owner = none → t.flash = { s.flash with owner := some (makeOwner key 0 1) }) ∧
            (∀ o, s.flash.owner = some o → t.flash = { s.flash with owner := some (makeOwner key o.minSeq (o.enrolCount + 1)) }) ∧
            t.start.ownerNow = s.start.ownerNow ∧ t.start.nonceCount = s.start.nonceCount + 1 ∧ s.replied (vorastOut 2 0 0 []) t ∧
            fieldsBut (wakeFields domFlash) s t ∧ Same [.regs, .start, .flash, .sent] s t))) ∧
    ∀ (v : U32) (sig : Signed),
      (∀ o, s.start.ownerNow = some o → o.key ∉ sig.keys → exec (.setMinSeq v sig) s = .next (s.answered (vorastOut 3 0 2 []))) ∧
      (s.start.ownerNow = none → exec (.setMinSeq v sig) s = .next (s.answered (vorastOut 3 0 2 []))) ∧
      ∀ o, s.start.ownerNow = some o → o.key ∈ sig.keys →
        (v.toNat < o.minSeq ∨ s.activeSeq < v.toNat → exec (.setMinSeq v sig) s = .next (s.answered (vorastOut 3 0 1 []))) ∧
        (o.minSeq ≤ v.toNat → v.toNat ≤ s.activeSeq → endsIn (exec (.setMinSeq v sig) s) fun t =>
          t.start.ownerNow = some (makeOwner o.key v.toNat o.enrolCount) ∧ t.get F.MGT_WAYBILL_MIN_SEQ = v.toNat ∧
            s.replied (vorastOut 3 0 0 []) t ∧
            t.flash.owner = s.flash.owner.map (fun x => makeOwner x.key (max x.minSeq v.toNat) x.enrolCount) ∧ t.flash.slots = s.flash.slots ∧
            fieldsBut (F.MGT_WAYBILL_MIN_SEQ :: wakeFields domFlash) s t ∧ Same [.regs, .start, .flash, .sent] s t)

/-- STATUS, DOE_DISCOVERY, CXL_TABLE_ACCESS and the SPDM requests: the answer of each; a request that is not supported or not for slot 0 gets an ERROR,
and without keys nothing is signed. SPDM responses are named by their fields (log entry 22, the model's choice). -/
def Obligations.DoeAndSpdmAnswers : Prop :=
  ∀ s : State, s.innkUp = true →
    (endsIn (exec .status s) fun t => t.start.nonceCount = s.start.nonceCount + 1 ∧
      s.replied (vorastOut 6 0 0 (leBytes 8 (s.rd 8).toNat ++ leBytes 8 (s.rd 0x10).toNat ++ leBytes 32 (Config.nonce s.start.nonceCount).toNat)) t ∧
        Same [.start, .sent] s t) ∧
    (∀ i < 3, ∃ p : Nat × Nat, [(0x0001, 0), (0x0001, 1), (0x1F9A, 0x80)][i]? = some p ∧
      exec (.doeDiscovery true i) s = .next (s.answered (.doe true "DISCOVERY" 0 [p.1, p.2, (i + 1) % 3]))) ∧
    (∀ i < 2, ∃ p : Nat × Nat, [(0x0001, 0), (0x1E98, 2)][i]? = some p ∧
      exec (.doeDiscovery false i) s = .next { s with sent := .doe false "DISCOVERY" 0 [p.1, p.2, (i + 1) % 2] :: s.sent }) ∧
    (∀ e, exec (.cxlTableAccess e) s = .next { s with sent := .doe false "CDAT" 0 (e :: nats (Config.cdat e s.hdmSize)) :: s.sent }) ∧
    exec .getVersion s = .next (s.answered (.doe true "VERSION" 0 [0x12])) ∧
    exec .getCapabilities s = .next (s.answered (.doe true "CAPABILITIES" 0 [17, 0x16])) ∧
    exec .negotiateAlgorithms s = .next (s.answered (.doe true "ALGORITHMS" 0 [521, 512, 512, 1])) ∧
    exec .getDigests s = .next (s.answered (.doe true "DIGESTS" 0 (1 :: nats (sha512Bytes s.certChain)))) ∧
    (∀ slot off len,
      let l := s.certChain
      let part := (l.drop off).take len
      exec (.getCertificate slot off len) s = .next (s.answered (if slot = 0 ∧ off < l.length then
          .doe true "CERTIFICATE" 0 ([0, part.length, l.length - off - part.length] ++ nats part) else .doe true "ERROR" 0 [1]))) ∧
    (∀ code, exec (.spdmUnsupportedRequest code) s = .next (s.answered (.doe true "ERROR" 0 [7, code.toNat]))) ∧
    (∀ slot nonce,
      let out := if s.start.keysOk = false then .doe true "ERROR" 0 [5]
        else if slot = 0 then .doe true "CHALLENGE_AUTH" 0 ([nonce.toNat, s.aliasKey.toNat] ++ nats (sha512Bytes s.certChain))
        else .doe true "ERROR" 0 [1]
      exec (.challenge slot nonce) s = .next (s.answered out)) ∧
    ∀ i signed nonce,
      let blocks := if i = 0 then [5] else if i = 0xFF then [1, 2, 3, 4, 5].flatMap s.measurement else s.measurement i
      let out := if signed = true ∧ s.start.keysOk = false then .doe true "ERROR" 0 [5]
        else if 5 < i ∧ i ≠ 0xFF then .doe true "ERROR" 0 [1]
        else .doe true "MEASUREMENTS" 0 (blocks ++ if signed then [nonce.toNat, s.aliasKey.toNat] else [])
      exec (.getMeasurements i signed nonce) s = .next (s.answered out)

/-- Errors that several units detect in one cycle are queued in ascending UNIT order; a known-answer test passes, is transient, or fences its unit; a
watchdog fences its tile, or takes the outcome of its core; the Innkeeper goes on after its restart. An SRAM error that cannot be corrected marks its
granule. -/
def Obligations.ErrorsAreRecorded : Prop :=
  ∀ s : State, s.memWf = true →
    (∀ errs : List PostedError, s.islandOn = true → s.ledger.waiting = [] → s.dom domTimetable = 3 → s.tooManyFenced = false → s.still →
      s.flt.queue.length + errs.length ≤ 64 → errs.Pairwise (fun a b => unitOf a ≠ unitOf b) →
      (∀ e ∈ errs, e.severity ≤ 3 ∧ (e.severity < 2 ∨ (e.cls ≠ 0x09 ∧ e.cls ≠ 0x0A)) ∧
        ∀ r ∈ s.flt.queue, ¬ (r.cls = e.cls.toNat ∧ r.index = e.index.toNat)) →
      endsIn (exec (.errorRecordPost errs) s) fun t =>
        (∃ l : List PostedError, l.Perm errs ∧ l.Pairwise (fun a b => unitOf a < unitOf b) ∧
          t.flt.queue = s.flt.queue ++ l.map (fun e => s.mkRec e.cls.toNat e.index.toNat e.severity e.kind.toNat e.syndrome.toNat e.address.toNat
            e.count.toNat ((if e.persistLoss then 8 else 0) + (if 1 < e.count.toNat then 4 else 0)))) ∧
          (errs ≠ [] → t.get F.FLT_QUEUE_DEPTH = t.flt.queue.length) ∧
          (∀ n : TileIx, t.tile n = { s.tile n with poison := (t.tile n).poison } ∧
            ∀ g, g ∈ (t.tile n).poison ↔ g ∈ (s.tile n).poison ∨ (s.tileFenced n.val = false ∧
              ∃ e ∈ errs, e.cls.toNat = clsTile ∧ e.index.toNat = n.val ∧ e.kind = 0x02 ∧ e.severity = 1 ∧ e.address.toNat < 0x600000 ∧
                e.address.toNat / 64 = g)) ∧
          frame perfWin queueFields s t ∧ Same [.regs, .tiles, .flt, .perf] s t) ∧
    (∀ (cls : Byte) (index : Nat), s.running = true → (s.phase = 4 ∨ s.phase = 5 ∨ s.on F.FLT_STAT_EXPELLED = true) → s.katUnit cls.toNat index = true →
      (∀ again, endsIn (exec (.knownAnswerTest cls index true again) s) fun t =>
        t.get F.FLT_KAT_STAT_TESTS_RUN = min 0xFFFFFFFF (s.get F.FLT_KAT_STAT_TESTS_RUN + 1) ∧ t.get F.FLT_KAT_STAT_UNIT_CLASS = cls.toNat ∧
          t.get F.FLT_KAT_STAT_UNIT_INDEX = index ∧
          fieldsBut [F.FLT_KAT_STAT_TESTS_RUN, F.FLT_KAT_STAT_UNIT_CLASS, F.FLT_KAT_STAT_UNIT_INDEX] s t ∧ Same [.regs] s t) ∧
      (s.roomFor cls.toNat index → endsIn (exec (.knownAnswerTest cls index false true) s) fun t =>
        t.get F.FLT_KAT_STAT_TESTS_RUN = min 0xFFFFFFFF (s.get F.FLT_KAT_STAT_TESTS_RUN + 2) ∧
          t.get F.FLT_KAT_STAT_FAILS = min 255 (s.get F.FLT_KAT_STAT_FAILS + 1) ∧ t.get F.FLT_STAT_KAT_TRANSIENT = 1 ∧
          s.queued (s.mkRec cls.toNat index 0 0x13 0 0 1 0) t ∧ Same [.regs, .flt] s t) ∧
      (s.still → s.roomFor cls.toNat index → s.get F.FLT_STAT_FENCED_TILES < 8 → (∃ j, j ≠ index ∧ s.katUnit cls.toNat j = true) →
        endsIn (exec (.knownAnswerTest cls index false false) s) fun t =>
          t.get F.FLT_KAT_STAT_FAILS = min 255 (s.get F.FLT_KAT_STAT_FAILS + 2) ∧ t.get F.FLT_STAT_KAT_FAIL = 1 ∧ t.get F.FLT_STAT_FENCE = 1 ∧
            t.unfenced cls.toNat index = false ∧ t.dom (unitDom cls.toNat index) = 0 ∧ t.flash.ledgerNand = some t.ledger ∧
            s.queued (s.mkRec cls.toNat index 2 0x07 0 0 1 1) t)) ∧
    (∀ n : TileIx, s.running = true → s.islandOn = true → s.still → s.tileFenced n.val = false → s.roomFor clsTile n.val → s.get F.FLT_STAT_FENCED_TILES < 8 →
      endsIn (exec (.watchdogExpire (.sequencer n)) s) fun t =>
        t.tileFenced n.val = true ∧ t.dom n.val = 0 ∧ (t.tile n).mem = [] ∧ t.get F.FLT_STAT_FENCE = 1 ∧ t.flash.ledgerNand = some t.ledger ∧
          t.get F.FLT_STAT_FENCED_TILES = s.get F.FLT_STAT_FENCED_TILES + 1 ∧ (∀ m, m ≠ n → t.tile m = s.tile m) ∧
          s.queued (s.mkRec clsTile n.val 2 0x09 0 0 1 1) t) ∧
    (s.islandOn = true → s.mode = 1 → s.roomFor clsInnkeeper 0 → s.on F.FLT_STAT_INNK_DOWN = false →
      (s.flt.innkFaultAt = none → endsIn (exec (.watchdogExpire .innkeeper) s) fun t =>
        t.get F.FLT_STAT_INNK_RESTARTS = min 255 (s.get F.FLT_STAT_INNK_RESTARTS + 1) ∧ t.flt.innkRestarting = true ∧ t.start.upload = none ∧ t.start.uploadBytes = [] ∧
          s.queued (s.mkRec clsInnkeeper 0 2 0x09 0 0 1 0) t ∧ Same [.regs, .start, .flt] s t) ∧
      (∀ a, s.flt.innkFaultAt = some a → s.aon < a + 3125000 → endsIn (exec (.watchdogExpire .innkeeper) s) fun t =>
        t.get F.FLT_STAT_INNK_DOWN = 1 ∧ s.queued (s.mkRec clsInnkeeper 0 2 0x09 0 0 1 0) t ∧ Same [.regs, .flt] s t)) ∧
    (s.islandOn = true → s.flt.innkRestarting = true → s.on F.FLT_STAT_INNK_DOWN = false → (∀ c : MbxIx, (s.chan c).toB.full = false) →
      exec .innkeeperRestartDone s = .next { s with flt := { s.flt with innkRestarting := false } })

/-- The Innkeeper handles the oldest record: it is counted in the Ledger and kept as a CPER record under the next Record ID; the management agent
reads the oldest CPER record in parts and removes one; the Ledger's writes and the hourly DRAM records. -/
def Obligations.RecordsAreHandledAndKept : Prop :=
  ∀ s : State, s.memWf = true →
    (∀ (r : ErrRec) (rest : List ErrRec), s.innkUp = true → s.flt.queue = r :: rest → rest.length < 64 → s.flt.store.length < 256 →
      (r.severity ≠ 2 ∨ r.cls = 0 ∨ 5 < r.cls ∨ r.rflags.testBit 0 = true) → endsIn (exec .errorRecordHandle s) fun t =>
        t.flt.queue = rest ∧ t.get F.FLT_QUEUE_DEPTH = rest.length ∧ t.flt.store = s.flt.store ++ [⟨(s.ledger.cperId + 1) % 2 ^ 64, r⟩] ∧
          t.get F.FLT_CPER_STAT_HELD = s.flt.store.length + 1 ∧
          t.ledger = { (if r.severity = 0 then s.ledger.addCorrected r.cls r.index r.count else s.ledger.addUncorrected r.cls r.index r.severity 1)
            with cperId := (s.ledger.cperId + 1) % 2 ^ 64 } ∧
          (s.flt.store = [] → s.raised true 9 t) ∧
          (s.mode = 1 → r.kind = 0x13 → t.get F.FLT_STAT_KAT_TRANSIENT = 1) ∧ (s.mode = 1 → r.kind = 0x0B → t.get F.FLT_STAT_ASSAY_DIV = 1) ∧
          SameAndSent [.regs, .ledger, .flt] s t) ∧
    (∀ c : MbxIx, 24 ≤ c.val → s.islandOn = true → s.innkUp = true → s.mode = 1 → (s.chan c).toB.full = false → (s.chan c).toA.full = false →
      (s.chan c).parts = [] → (s.chan c).reply = none →
      (endsIn (exec (.cperGet c) s) fun t =>
        let ps := match s.flt.store with | [] => [secureMsg 0x0113 0 []] | r :: _ => cperParts 0 r
        (t.chan c).toA.full = true ∧ (t.chan c).toA.data = msgWords (ps.headD []) ∧ (t.chan c).parts = ps.tail ∧ (t.chan c).toB.full = false ∧
          s.otherChans c t ∧ SameAndSent [.mbx] s t) ∧
      ∀ record : U32, s.flt.store.length ≤ 256 → endsIn (exec (.cperAck c record) s) fun t =>
        t.flt = { s.flt with store := s.flt.store.filter (fun x => x.id % 2 ^ 32 != record.toNat) } ∧
          t.get F.FLT_CPER_STAT_HELD = t.flt.store.length ∧ (t.chan c).toB.full = false ∧ (t.chan c).toA = (s.chan c).toA ∧ s.otherChans c t ∧
          fieldsBut [F.FLT_CPER_STAT_HELD] s t ∧ SameAndSent [.regs, .mbx, .flt] s t) ∧
    (s.innkUp = true → s.start.ledgerRead = true →
      (endsIn (exec .ledgerWrite s) fun t => t.flash.ledgerNand = some s.ledger ∧
        t.flash.slots = s.flash.slots ∧ t.flash.nand = s.flash.nand ∧ t.flash.owner = s.flash.owner ∧ t.flash.ledgerXspi = s.flash.ledgerXspi ∧
        fieldsBut (wakeFields domFlash) s t ∧ Same [.regs, .flash] s t) ∧
      endsIn (exec .ledgerXspiCopy s) fun t => t.flash.ledgerXspi = some s.ledger ∧ t.flt = { s.flt with lastXspi := s.ledger.poweredTicks } ∧
        t.flash.slots = s.flash.slots ∧ t.flash.nand = s.flash.nand ∧ t.flash.owner = s.flash.owner ∧ t.flash.ledgerNand = s.flash.ledgerNand ∧
        fieldsBut (wakeFields domFlash) s t ∧ Same [.regs, .flash, .flt] s t) ∧
    (s.running = true → s.dom domTimetable = 3 →
      s.flt.queue.length + ((List.range 288).filter (fun ch => decide (s.corrHour ch ≠ 0))).length ≤ 64 → endsIn (exec .dramCeHourlyRecord s) fun t =>
        t.flt.queue = s.flt.queue ++ ((List.range 288).filter (fun ch => decide (s.corrHour ch ≠ 0))).map (fun ch =>
          s.mkRec clsDram ch 0 0x03 0 0 (s.corrHour ch) (if 1 < s.corrHour ch then 4 else 0)) ∧
        fieldsBut queueFields s t ∧ Same [.regs, .flt] s t)

/-- CLEAR, PERF_SEL_WRITE, DUMP_ALL, PERF_DUMP and PERF_RING_RECORD_WRITE. A select write leaves the counter and chooses what it counts from then on; a
dump samples the block; a record goes to its place in the ring or is dropped and counted. -/
def Obligations.PerformanceCounters : Prop :=
  ∀ s : State, s.memWf = true → s.regsUp = true →
    (∀ (b : PerfIx) (i : Fin 8) (v : U64), i.val < perfCount b.val → endsIn (exec (.perfSelWrite b i v) s) fun t =>
      t.get (F.PERF_B_CNT_COUNT b.val i.val) = s.get (F.PERF_B_CNT_COUNT b.val i.val) ∧
        t.get (F.PERF_B_SEL_EVENT b.val i.val) = v.toNat % 256 ∧ t.get (F.PERF_B_SEL_MODE b.val i.val) = v.toNat / 2 ^ 8 % 4 ∧
        t.get (F.PERF_B_SEL_UMASK b.val i.val) = v.toNat / 2 ^ 12 % 16 ∧ t.get (F.PERF_B_SEL_THRESH b.val i.val) = v.toNat / 2 ^ 16 % 65536 ∧
        t.get (F.PERF_B_SEL_PHASE_MASK b.val i.val) = v.toNat / 2 ^ 32 % 64 ∧
        t.get (F.PERF_B_SEL_SEL_BAD b.val i.val) = b2n (!perfSupported (perfKind b.val) (v.toNat % 256)) ∧
        (∀ code, t.perfListens b.val i.val code = (v.toNat % 256 == code && (v.toNat / 2 ^ 32 % 64).testBit (s.get F.MGT_PERIOD_STAT_PHASE) &&
          perfSupported (perfKind b.val) code)) ∧
        (∀ n, v.toNat / 2 ^ 8 % 4 = 0 → n ≠ 0 → s.get (F.PERF_B_CNT_COUNT b.val i.val) + n < 2 ^ 48 →
          (t.perfSample b.val i.val n).get (F.PERF_B_CNT_COUNT b.val i.val) = s.get (F.PERF_B_CNT_COUNT b.val i.val) + n) ∧
        regsBut (fun o => o = 0x41080 + b.val * 0x100 + i.val * 8) s t ∧ Same [.regs, .perf] s t) ∧
    (∀ b : PerfIx, endsIn (exec (.clear b) s) fun t =>
      (∀ i < perfCount b.val, t.get (F.PERF_B_CNT_COUNT b.val i) = 0) ∧
        fieldsBut ((List.range (perfCount b.val)).map (F.PERF_B_CNT_COUNT b.val)) s t ∧ t.perf.queue = s.perf.queue ∧ Same [.regs, .perf] s t) ∧
    (s.dumpsOn = false → exec .dumpAll s = .next s) ∧
    (s.dumpsOn = true → s.perf.queue.length + 119 ≤ 256 → Sparse.sorted s.perf.ovf = true → endsIn (exec .dumpAll s) fun t =>
      t.perf.queue = s.perf.queue ++ ((List.range 119).filter (fun b => !s.perfFenced b)).map (fun b =>
        s.dumpRecord b ((s.get (F.PERF_B_STAT_DUMPS b) + 1) % 2 ^ 32) (s.perfCyc b) true (s.perf.lost.contains b)) ∧
      t.get F.PERF_RING_STAT_QUEUE_DEPTH = t.perf.queue.length ∧
      fieldsBut (F.PERF_RING_STAT_QUEUE_DEPTH :: (List.range 119).map F.PERF_B_STAT_DUMPS) s t ∧ Same [.regs, .perf] s t) ∧
    (∀ b : PerfIx, s.dumpsOn = true → s.on (F.PERF_B_CFG_DUMP_EN b.val) = true → s.perfClock b.val = true → s.perfFenced b.val = false →
      (s.perf.queue.length < 256 → endsIn (exec (.perfDump b) s) fun t =>
        (∃ cyc, cyc % 2 ^ (min 30 (max 10 (s.get (F.PERF_B_CFG_DUMP_K b.val)))) = 0 ∧ cyc ≤ s.perfCyc b.val ∧
          t.perf.queue = s.perf.queue ++ [s.dumpRecord b.val ((s.get (F.PERF_B_STAT_DUMPS b.val) + 1) % 2 ^ 32) cyc false (s.perf.lost.contains b.val)]) ∧
        t.get F.PERF_RING_STAT_QUEUE_DEPTH = s.perf.queue.length + 1 ∧
        fieldsBut [F.PERF_RING_STAT_QUEUE_DEPTH, F.PERF_B_STAT_DUMPS b.val] s t ∧ Same [.regs, .perf] s t) ∧
      (256 ≤ s.perf.queue.length → endsIn (exec (.perfDump b) s) fun t =>
        t.perf.queue = s.perf.queue ∧ b.val ∈ t.perf.lost ∧
          t.get F.PERF_RING_STAT_DROP_FULL = min 0xFFFFFFFF (s.get F.PERF_RING_STAT_DROP_FULL + 1) ∧
          fieldsBut [F.PERF_RING_STAT_DROP_FULL, F.PERF_B_STAT_DUMPS b.val] s t ∧ Same [.regs, .perf] s t)) ∧
    ∀ (r : List Byte) (rest : List (List Byte)), s.perf.queue = r :: rest → rest.length < 256 → s.running = true → s.start.memReady = true →
      6 ≤ s.get F.PERF_RING_BASE_LOG2_REC → s.get F.PERF_RING_BASE_LOG2_REC ≤ 24 →
      let m := s.get F.PERF_RING_BASE_LOG2_REC
      let prod := s.get F.PERF_RING_PROD_PROD
      let a := s.get F.PERF_RING_BASE_BASE * 4096 + 128 * (prod % 2 ^ m)
      let full := 2 ^ m ≤ prod - s.get F.PERF_RING_CONS_CONS
      (full → endsIn (exec .perfRingRecordWrite s) fun t =>
        t.get F.PERF_RING_STAT_DROP_FULL = min 0xFFFFFFFF (s.get F.PERF_RING_STAT_DROP_FULL + 1) ∧ t.get F.PERF_RING_PROD_PROD = prod ∧
          t.perf.queue.length = rest.length ∧ t.get F.PERF_RING_STAT_QUEUE_DEPTH = rest.length ∧ Same [.regs, .perf] s t) ∧
      (¬ full → a / 0x200000 ∈ s.mem.hostBias → endsIn (exec .perfRingRecordWrite s) fun t =>
        t.get F.PERF_RING_STAT_DROP_BIAS = min 0xFFFF (s.get F.PERF_RING_STAT_DROP_BIAS + 1) ∧ t.get F.PERF_RING_PROD_PROD = prod ∧
          t.perf.queue.length = rest.length ∧ t.get F.PERF_RING_STAT_QUEUE_DEPTH = rest.length ∧ Same [.regs, .perf] s t) ∧
      (¬ full → a / 0x200000 ∉ s.mem.hostBias → s.memApart → s.mem.latent = [] → (∀ x, s.persistent x = false) → r.length = 128 →
        s.memOn → (∃ q b, s.decodeAddr a = .dram q b ∧ s.physLine q (b / 512) ≠ none) → endsIn (exec .perfRingRecordWrite s) fun t =>
          (∀ j < 128, t.peek (a + j) = some (r.getD j 0)) ∧ (∀ x q b, s.decodeAddr x = .dram q b → x < a ∨ a + 128 ≤ x → t.peek x = s.peek x) ∧
            t.get F.PERF_RING_PROD_PROD = (prod + 1) % 2 ^ 64 ∧ t.perf.queue = rest ∧
            fieldsBut [F.PERF_RING_PROD_PROD, F.PERF_RING_STAT_QUEUE_DEPTH] s t ∧ Same [.regs, .mem, .perf] s t)

/-- The values of the INT4, W2, W1 and UE5M3 codes. -/
def Obligations.NarrowCodesHaveTheirValues : Prop :=
  (∀ c < 16, (elemValue fInt4 c).rat = some (if c < 8 then (c : ℚ) else (c : ℚ) - 16)) ∧
    (elemValue fW2 0).rat = some (1 / 2) ∧ (elemValue fW2 1).rat = some (3 / 2) ∧ (elemValue fW2 2).rat = some (-1 / 2) ∧
    (elemValue fW2 3).rat = some (-3 / 2) ∧ (elemValue fW1 0).rat = some 1 ∧ (elemValue fW1 1).rat = some (-1) ∧
    (∀ c < 256, (elemValue fUe5m3 c).rat = some (if c < 8 then (c : ℚ) / 8 * 2 ^ (-14 : Int) else
      (1 + ((c % 8 : Nat) : ℚ) / 8) * 2 ^ (((c / 8 : Nat) : Int) - 15)))

/-! Casts. -/

/-- CAST_REQ, CAST_PAGE_COPY and CAST_TIER_COMPLETE: a request waits for the next commit; a tier takes its next page as memory holds it, later where the
Caster or its memory interface may issue nothing; a complete tier has its header, and the cast is over when no tier is being written. -/
def Obligations.CastsAreWritten : Prop :=
  ∀ s : State, s.memWf = true → s.running = true →
    (s.takesCasts = false → exec .castReq s = .next s) ∧
    (s.takesCasts = true → endsIn (exec .castReq s) fun t =>
      t.cast = { s.cast with ownPending := true } ∧ t.get F.ENG_CAST_STAT_PENDING = 1 ∧ fieldsBut [F.ENG_CAST_STAT_PENDING] s t ∧
        Same [.regs, .cast] s t) ∧
    (∀ r : CastRun, s.cast.run = some r → s.still → s.memOn → s.mem.latent = [] →
      ∀ (x : Tier) (i page fr : Nat), r.tier x = .copying i → r.pages[i]? = some (page, fr) → r.data.length = i → s.castHeld page = false →
        s.frameSound ((Sparse.find r.staged page).getD fr) → endsIn (exec (.castPageCopy x) s) fun t =>
          ∃ r' d, t.cast.run = some r' ∧ r'.tier x = .copying (i + 1) ∧ (∀ y, y ≠ x → r'.tier y = r.tier y) ∧
            r'.data = r.data ++ [(page * 0x10000, d)] ∧ t.frameHolds ((Sparse.find r.staged page).getD fr) d ∧ r'.hdr = r.hdr ∧
            r'.poison = r.poison ∧ r'.pages = r.pages ∧
            t.sent = (if x = .partner then [.toPartner "page" (page * 0x10000) (pageBytes d)] else []) ++ s.sent ∧
            frame perfWin (if x = .nand then wakeFields domFlash else []) s t ∧ Same [.regs, .mem, .cast, .perf, .sent] s t) ∧
    (∀ (r : CastRun) (x : Tier) (i page fr : Nat), s.cast.run = some r → r.tier x = .copying i → r.pages[i]? = some (page, fr) →
      (s.castHeld page = true → exec (.castPageCopy x) s = .next s) ∧
        (s.castHeld page = false → exec (.castPageCopy x) s = .next (s.pageTaken r x i page fr))) ∧
    ∀ r : CastRun, s.cast.run = some r → (r.nandSlot < 8) →
      (r.nand = .copying r.pages.length → endsIn (exec (.castTierComplete .nand) s) fun t =>
        t.castSlot r.nandSlot = some ({ CastSlot.init with
          img := some r.image, complete := true, secured := !r.hdr.damaged }.verifiedBy s.cast.agree[15]?) ∧
          (∀ i < 8, i ≠ r.nandSlot → t.castSlot i = (s.castSlot i).map (fun c => c.verifiedBy s.cast.agree[15]?)) ∧
          (∀ i, 8 ≤ i → t.castSlot i = s.castSlot i) ∧ t.get F.ENG_CAST_STAT_N_DONE = 1 ∧
          t.ledger.castsTaken[0] = s.ledger.castsTaken[0] + 1 ∧ t.ledger.castsTaken[1] = s.ledger.castsTaken[1] ∧
          (∀ k, r.partner = .copying k → t.cast.run = some { r with nand := .complete } ∧
            t.get F.ENG_CAST_STAT_ACTIVE = s.get F.ENG_CAST_STAT_ACTIVE) ∧
          ((∀ k, r.partner ≠ .copying k) → t.cast.run = none ∧ t.get F.ENG_CAST_STAT_ACTIVE = 0) ∧
          fieldsBut (F.ENG_CAST_STAT_N_DONE :: F.ENG_CAST_STAT_ACTIVE :: wakeFields domFlash) s t ∧ Same [.regs, .flash, .ledger, .cast] s t) ∧
      (r.partner = .copying r.pages.length → endsIn (exec (.castTierComplete .partner) s) fun t =>
        t.get F.ENG_CAST_STAT_P_DONE = 1 ∧ t.sent = .toPartner "header" r.hdr.gen.toNat (imageHeader r.image) :: s.sent ∧
          t.ledger.castsTaken[1] = s.ledger.castsTaken[1] + 1 ∧ t.ledger.castsTaken[0] = s.ledger.castsTaken[0] ∧
          (∀ k, r.nand = .copying k → t.cast.run = some { r with partner := .complete } ∧
            t.get F.ENG_CAST_STAT_ACTIVE = s.get F.ENG_CAST_STAT_ACTIVE) ∧
          ((∀ k, r.nand ≠ .copying k) → t.cast.run = none ∧ t.get F.ENG_CAST_STAT_ACTIVE = 0) ∧
          fieldsBut [F.ENG_CAST_STAT_P_DONE, F.ENG_CAST_STAT_ACTIVE] s t ∧ Same [.regs, .ledger, .cast, .sent] s t)

/-- EXPORT, CAST_WINDOW_FILL, NEXT and STORED: an export goes window by window from the slot's image to the host and ends with DONE; STORED marks the slot
named, and secures it unless it is damaged. -/
def Obligations.ExportsGoThroughTheWindow : Prop :=
  ∀ s : State, s.memWf = true → s.running = true →
    (∀ c, s.castSlot (s.get F.ENG_CAST_HOST_SLOT) = some c → c.usable = true → s.get F.ENG_CAST_HOST_OP = 0 → endsIn (exec .exportSlot s) fun t =>
      t.get F.ENG_CAST_HOST_OP = 1 ∧ t.get F.ENG_CAST_HOST_OFFSET = 0 ∧ t.cast.exportSlot = s.get F.ENG_CAST_HOST_SLOT ∧ t.cast.exportOff = 0 ∧
        t.castSlot (s.get F.ENG_CAST_HOST_SLOT) = some { c with exporting := true } ∧
        (∀ i, i ≠ s.get F.ENG_CAST_HOST_SLOT → t.castSlot i = s.castSlot i) ∧
        fieldsBut [F.ENG_CAST_HOST_OP, F.ENG_CAST_HOST_OFFSET] s t ∧ Same [.regs, .flash, .cast] s t) ∧
    (s.castSlot (s.get F.ENG_CAST_HOST_SLOT) = none ∨ s.get F.ENG_CAST_HOST_OP ≠ 0 ∨
        (∃ c, s.castSlot (s.get F.ENG_CAST_HOST_SLOT) = some c ∧ c.usable = false) → endsIn (exec .exportSlot s) fun t =>
      t.get F.ENG_CAST_STAT_REQ_BAD = 1 ∧ fieldsBut [F.ENG_CAST_STAT_REQ_BAD] s t ∧ Same [.regs] s t) ∧
    (s.get F.ENG_CAST_HOST_OP = 1 → s.on F.ENG_CAST_HOST_WIN_HOST = false → exec .castWindowFill s = .next s.fillWindow) ∧
    (∀ c g, s.get F.ENG_CAST_HOST_OP = 1 → s.on F.ENG_CAST_HOST_WIN_HOST = false → s.cast.exportSlot < 8 →
      s.castSlot s.cast.exportSlot = some c → c.img = some g →
      let n := min (min 128 (max 1 (s.get F.ENG_CAST_HOST_WIN)) * 0x200000) (imageSize g.pages.length g.poison.length - s.cast.exportOff)
      endsIn (exec .castWindowFill s) fun t =>
        t.sent = .hostWrite (s.get F.ENG_CAST_HOST_BASE_BASE * 0x200000) (sliceBytes (imageBytes g) s.cast.exportOff n) :: s.sent ∧
          t.cast = { s.cast with exportOff := s.cast.exportOff + n } ∧ t.get F.ENG_CAST_HOST_WIN_HOST = 1 ∧
          t.get F.ENG_CAST_HOST_OFFSET = (s.cast.exportOff + n + 0xFFFF) / 0x10000 % 2 ^ 32 ∧
          fieldsBut [F.ENG_CAST_HOST_WIN_HOST, F.ENG_CAST_HOST_OFFSET] s t ∧ Same [.regs, .cast, .sent] s t) ∧
    (s.on F.ENG_CAST_HOST_WIN_HOST = true →
      (s.get F.ENG_CAST_HOST_OP = 1 → ∀ c, s.castSlot s.cast.exportSlot = some c → endsIn (exec .nextWindow s) fun t =>
        t.get F.ENG_CAST_HOST_WIN_HOST = 0 ∧
          (s.slotSize s.cast.exportSlot ≤ s.cast.exportOff → t.get F.ENG_CAST_HOST_OP = 0 ∧ t.get F.ENG_CAST_HOST_DONE = 1 ∧
            t.castSlot s.cast.exportSlot = some { c with exporting := false }) ∧
          (s.cast.exportOff < s.slotSize s.cast.exportSlot → t.get F.ENG_CAST_HOST_OP = 1 ∧ Same [.regs] s t) ∧
          fieldsBut [F.ENG_CAST_HOST_WIN_HOST, F.ENG_CAST_HOST_OP, F.ENG_CAST_HOST_DONE] s t ∧ Same [.regs, .flash, .cast] s t) ∧
      (s.get F.ENG_CAST_HOST_OP = 2 → endsIn (exec .nextWindow s) fun t =>
        t.get F.ENG_CAST_HOST_OFFSET =
            min 0xFFFFFFFF (s.get F.ENG_CAST_HOST_OFFSET + 32 * min 128 (max 1 (s.get F.ENG_CAST_HOST_WIN))) ∧
          fieldsBut [F.ENG_CAST_HOST_OFFSET] s t ∧ Same [.regs] s t)) ∧
    ∀ c, s.castSlot (s.get F.ENG_CAST_HOST_SLOT) = some c →
      (∀ g, c.img = some g → c.complete = true → endsIn (exec .stored s) fun t =>
        t.castSlot (s.get F.ENG_CAST_HOST_SLOT) = some { c with
          exported := true, secured := c.secured || (!g.damaged && decide (s.get F.ENG_CAST_HOST_SLOT < 8)) } ∧
        (∀ i, i ≠ s.get F.ENG_CAST_HOST_SLOT → t.castSlot i = s.castSlot i) ∧ Same [.flash, .cast] s t) ∧
      (c.complete = false → endsIn (exec .stored s) fun t =>
        t.get F.ENG_CAST_STAT_REQ_BAD = 1 ∧ fieldsBut [F.ENG_CAST_STAT_REQ_BAD] s t ∧ Same [.regs] s t)

/-- RESTORE_GO and RESTORE_FETCH_DONE: a restore is armed, held during a start, or refused; an image that passes the checks gives its pages, step, ladder
and epoch; a lost source or a failed check ends in STATE 7 with persistent bytes undefined. -/
def Obligations.RestoresTakeTheImageOrFail : Prop :=
  ∀ s : State, s.memWf = true →
    (∀ v : U64, s.start.powered = true → s.mode ≠ 2 → endsIn (exec (.restoreGo v) s) fun t =>
      t.get F.ENG_RESTORE_CTL_STEP = v.toNat / 2 ^ 16 ∧ t.get F.ENG_RESTORE_CTL_SRC = v.toNat / 16 % 4 ∧
        t.on F.ENG_RESTORE_CTL_EVAL = v.toNat.testBit 6 ∧
        (v.toNat / 16 % 4 = 3 → t.get F.ENG_RESTORE_STAT_STATE = 0 ∧ t.get F.ENG_RESTORE_STAT_REASON = 7 ∧ t.start = s.start) ∧
        (v.toNat / 16 % 4 ≠ 3 → s.mode = 0 → t.start = { s.start with restoreHeld := true } ∧
          t.get F.ENG_RESTORE_STAT_STATE = s.get F.ENG_RESTORE_STAT_STATE) ∧
        (v.toNat / 16 % 4 ≠ 3 → s.mode ≠ 0 → t.get F.ENG_RESTORE_STAT_STATE = 1 ∧ t.get F.ENG_RESTORE_STAT_REASON = 0 ∧ t.start = s.start) ∧
        fieldsBut [F.ENG_RESTORE_CTL_STEP, F.ENG_RESTORE_CTL_SRC, F.ENG_RESTORE_CTL_EVAL, F.ENG_RESTORE_STAT_STATE, F.ENG_RESTORE_STAT_REASON] s t ∧
        Same [.regs, .start] s t) ∧
    (s.running = true → s.restoreBusy = true →
      (∀ r, exec (.restoreFetchDone r) s = .next (s.fetchEnds (s.fetched r))) ∧
      (∀ (i : Nat) (c : CastSlot), s.get F.ENG_RESTORE_CTL_SRC = 0 → s.castSlot i = some c → s.fetched .ownSlotRead = c.img → c.img ≠ none →
        (∀ g, c.img = some g → s.imageReason g 0 = 0) → endsIn (exec (.restoreFetchDone .ownSlotRead) s) fun t =>
          ∀ g, c.img = some g → t.get F.SEAL_STEP_STEP_COUNTER = g.step.toNat ∧ t.mem.undefPersist = none ∧
            t.ledger.castsRestored[0] = s.ledger.castsRestored[0] + 1) ∧
      (endsIn (exec (.restoreFetchDone .lost) s) fun t =>
        t.get F.ENG_RESTORE_STAT_STATE = 7 ∧ t.get F.ENG_RESTORE_STAT_REASON = 5 ∧ t.mem = { s.mem with undefPersist := some s.free } ∧
          t.free = s.free + 1 ∧ (s.get F.ENG_RESTORE_CTL_SRC = 2 → t.get F.ENG_CAST_STAT_HOST_ERR = 1 ∧ t.get F.ENG_CAST_HOST_OP = 0) ∧
          (s.get F.ENG_RESTORE_CTL_SRC = 0 → t.get F.ENG_CAST_STAT_NAND_ERR = 1) ∧ Same [.regs, .mem, .free] s t) ∧
      ∀ g : CastImage, s.get F.ENG_RESTORE_CTL_SRC ≠ 0 → s.mem.latent = [] →
        (∀ why, s.imageReason g (s.get F.ENG_RESTORE_CTL_SRC) = why → why ≠ 0 → endsIn (exec (.restoreFetchDone (.received g)) s) fun t =>
          t.get F.ENG_RESTORE_STAT_STATE = 7 ∧ t.get F.ENG_RESTORE_STAT_REASON = why ∧ t.mem.undefPersist = some s.free ∧
            t.get F.SEAL_STEP_STEP_COUNTER = s.get F.SEAL_STEP_STEP_COUNTER ∧ t.ladder = s.ladder) ∧
        (s.imageReason g (s.get F.ENG_RESTORE_CTL_SRC) = 0 → endsIn (exec (.restoreFetchDone (.received g)) s) fun t =>
          (t.get F.ENG_RESTORE_STAT_STATE = 5 ∨ t.get F.ENG_RESTORE_STAT_STATE = 3) ∧ t.mem.undefPersist = none ∧
            t.get F.SEAL_STEP_STEP_COUNTER = g.step.toNat ∧ t.get F.SEAL_STAT_LADDER_EPOCH = g.epoch.toNat ∧
            t.ladder = ladderFrom s.ladder g.ladder ∧ t.seals = s.seals ∧ t.flash.ledgerNand = some t.ledger ∧
            (∀ a d, g.pages = [(a, d)] → s.memApart → s.frameSound (s.committedFrame (a / 0x10000)) → Sparse.sorted d = true →
              t.frameHolds (s.committedFrame (a / 0x10000)) d)))

/-- GUEST_CAST_DATA, GUEST_SLOT_FETCH and PARTNER_CAST_REPORT while port P is UP: the guest slot holds what the partner sends, and its cast is sent back; the
report divides the guest region. -/
def Obligations.ThePartnerTierWorks : Prop :=
  ∀ s : State, s.memWf = true → s.running = true → s.portUp 17 = true →
    (∀ size, s.cast.partnerImage = some size → 0 < size → size ≤ s.get F.ENG_CAST_CFG_GUEST_SIZE * 0x10000000 →
      ∀ (off : Nat) (bytes : List Byte), off + bytes.length ≤ size → s.memApart → s.memQuiet →
      (∀ j < bytes.length, ∃ q b, s.decodeAddr (s.guestAddr s.guestVictim + off + j) = .dram q b ∧ s.physLine q (b / 512) ≠ none) →
      endsIn (exec (.guestCastData true off bytes) s) fun t =>
        (∀ j < bytes.length, t.peek (s.guestAddr s.guestVictim + off + j) = some (bytes.getD j 0)) ∧
          (∀ a q b, s.decodeAddr a = .dram q b →
            a < s.guestAddr s.guestVictim + off ∨ s.guestAddr s.guestVictim + off + bytes.length ≤ a → t.peek a = s.peek a) ∧
          (off ≠ 0 ∨ bytes.length < 168 → t.castSlot (8 + s.guestVictim) = some { CastSlot.init with writing := true }) ∧
          (off = 0 → 168 ≤ bytes.length →
            t.castSlot (8 + s.guestVictim) = some { CastSlot.init with img := some (headerOf bytes), complete := true }) ∧
          (∀ i < 10, i ≠ 8 + s.guestVictim → t.castSlot i = s.castSlot i) ∧ Same [.mem, .cast] s t) ∧
    (∀ size, s.cast.partnerImage = some size → 0 < size → size ≤ s.get F.ENG_CAST_CFG_GUEST_SIZE * 0x10000000 →
      ∀ (first : Bool) (off : Nat) (bytes : List Byte), off + bytes.length ≤ size →
        exec (.guestCastData first off bytes) s = .next (s.guestTakes first off bytes)) ∧
    (∀ step : U64,
      ((∀ j : Fin 2, ∀ g, s.cast.guest[j].img = some g → s.cast.guest[j].usable = true → g.step ≠ step) →
        exec (.guestSlotFetch step) s = .next { s with sent := .toPartner "none" step.toNat [] :: s.sent }) ∧
      (∀ (j : Fin 2) g, s.cast.guest[j].img = some g → s.cast.guest[j].usable = true → g.step = step →
        (∀ i : Fin 2, i ≠ j → ∀ g', s.cast.guest[i].img = some g' → g'.step ≠ step) → s.memApart → s.memQuiet →
        (∀ i < s.cast.partnerImage.getD 0, ∃ q b, s.decodeAddr (s.guestAddr j.val + i) = .dram q b) → endsIn (exec (.guestSlotFetch step) s) fun t =>
          ∃ d : List Byte, t.sent = .toPartner "slot" j.val d :: s.sent ∧ d.length = s.cast.partnerImage.getD 0 ∧
            (∀ i < d.length, s.peek (s.guestAddr j.val + i) = some (d.getD i 0)) ∧ fieldsBut [F.MEM_STAT_POISON_READ] s t ∧
            Same [.regs, .sent] s t)) ∧
    ∀ (size : Option Nat) (lacks : Bool), endsIn (exec (.partnerCastReport size lacks) s) fun t =>
      let n := guestSlots (s.get F.ENG_CAST_CFG_GUEST_SIZE * 0x10000000) s.ownImageSize
      t.get F.LINK_PAIR_STATUS_GUEST_SLOTS = n ∧ t.on F.LINK_PAIR_STATUS_GUEST_SMALL = decide (n = 0) ∧
        t.on F.LINK_PAIR_STATUS_PARTNER_TIER = decide (n ≠ 0) ∧
        t.cast.partnerImage = (if size = none then s.cast.partnerImage else size) ∧
        (lacks = true → t.get F.ENG_CAST_STAT_GUEST_EMPTY = 1 ∧ t.cast.partnerHeld = [] ∧ (s.takesCasts = true → t.cast.ownPending = true)) ∧
        (lacks = false → t.cast.partnerHeld = s.cast.partnerHeld ∧ t.cast.ownPending = s.cast.ownPending) ∧
        fieldsBut [F.LINK_PAIR_STATUS_GUEST_SLOTS, F.LINK_PAIR_STATUS_GUEST_SMALL, F.LINK_PAIR_STATUS_PARTNER_TIER, F.ENG_CAST_STAT_GUEST_EMPTY,
          F.ENG_CAST_STAT_PENDING] s t ∧ Same [.regs, .cast] s t
end

