-- ==== Sys2Proof/Laws/Sparse.lean ====
section
/-! SUPPORT. Sparse storage: a read after a write, and the canonical form that every operation keeps. -/

namespace Sys2Proof.Machine

variable {α : Type}

/-! Strictly rising keys, as Mathlib says it. -/

theorem Sparse.sorted_iff (m : Sparse α) : Sparse.sorted m = true ↔ m.Pairwise (fun a b => a.1 < b.1) := by
  induction m with
  | nil => simp [Sparse.sorted]
  | cons a l ih =>
    cases l with
    | nil => simp [Sparse.sorted]
    | cons b l =>
      simp only [Sparse.sorted, Bool.and_eq_true, decide_eq_true_eq, ih, List.pairwise_cons]
      constructor
      · rintro ⟨h, h2, h3⟩
        exact ⟨fun c hc => by
          rcases List.mem_cons.1 hc with rfl | hc
          · exact h
          · exact lt_trans h (h2 c hc), h2, h3⟩
      · rintro ⟨h, h2⟩
        exact ⟨h b (by simp), h2⟩

theorem NatSet.sorted_iff (m : NatSet) : NatSet.sorted m = true ↔ m.Pairwise (· < ·) := by
  induction m with
  | nil => simp [NatSet.sorted]
  | cons a l ih =>
    cases l with
    | nil => simp [NatSet.sorted]
    | cons b l =>
      simp only [NatSet.sorted, Bool.and_eq_true, decide_eq_true_eq, ih, List.pairwise_cons]
      constructor
      · rintro ⟨h, h2, h3⟩
        exact ⟨fun c hc => by
          rcases List.mem_cons.1 hc with rfl | hc
          · exact h
          · exact lt_trans h (h2 c hc), h2, h3⟩
      · rintro ⟨h, h2⟩
        exact ⟨h b (by simp), h2⟩

/-! Entries after a write. -/

theorem Sparse.mem_insert {m : Sparse α} {k : Nat} {v : α} {e : Nat × α} (h : e ∈ Sparse.insert m k v) : e = (k, v) ∨ e ∈ m := by
  induction m with
  | nil => simp_all [Sparse.insert]
  | cons a l ih =>
    obtain ⟨j, u⟩ := a
    unfold Sparse.insert at h
    split at h
    · simpa using h
    · split at h
      · rcases List.mem_cons.1 h with h | h
        · exact .inl h
        · exact .inr (List.mem_cons_of_mem _ h)
      · rcases List.mem_cons.1 h with h | h
        · exact .inr (h ▸ List.mem_cons_self)
        · exact (ih h).imp id (List.mem_cons_of_mem _)

theorem Sparse.erase_sublist (m : Sparse α) (k : Nat) : (Sparse.erase m k).Sublist m := by
  induction m with
  | nil => simp [Sparse.erase]
  | cons a l ih =>
    obtain ⟨j, u⟩ := a
    unfold Sparse.erase
    split
    · exact List.Sublist.refl _
    · split
      · exact List.sublist_cons_self _ _
      · exact ih.cons_cons _

theorem Sparse.insert_sorted {m : Sparse α} {k : Nat} {v : α} (h : Sparse.sorted m = true) : Sparse.sorted (Sparse.insert m k v) = true := by
  rw [Sparse.sorted_iff] at *
  induction m with
  | nil => simp [Sparse.insert]
  | cons a l ih =>
    obtain ⟨j, u⟩ := a
    rw [List.pairwise_cons] at h
    unfold Sparse.insert
    split
    · rename_i hk
      exact List.pairwise_cons.2 ⟨fun e he => by
        rcases List.mem_cons.1 he with rfl | he
        · exact hk
        · exact lt_trans hk (h.1 e he), List.pairwise_cons.2 h⟩
    · split
      · rename_i hj
        exact List.pairwise_cons.2 ⟨fun e he => hj ▸ h.1 e he, h.2⟩
      · exact List.pairwise_cons.2 ⟨fun e he => by
          rcases Sparse.mem_insert he with rfl | he
          · show j < k; omega
          · exact h.1 e he, ih h.2⟩

theorem Sparse.erase_sorted {m : Sparse α} {k : Nat} (h : Sparse.sorted m = true) : Sparse.sorted (Sparse.erase m k) = true := by
  rw [Sparse.sorted_iff] at *
  exact h.sublist (Sparse.erase_sublist m k)

theorem Sparse.filter_sorted {m : Sparse α} (p : Nat × α → Bool) (h : Sparse.sorted m = true) : Sparse.sorted (m.filter p) = true := by
  rw [Sparse.sorted_iff] at *
  exact h.sublist List.filter_sublist

/-- A write keeps the canonical form. -/
theorem Sparse.put_canonical [DecidableEq α] {d : Nat → α} {m : Sparse α} {k : Nat} {v : α} (h : Sparse.canonical d m = true) :
    Sparse.canonical d (Sparse.put m k v (d k)) = true := by
  simp only [Sparse.canonical, Bool.and_eq_true, List.all_eq_true, decide_eq_true_eq] at *
  unfold Sparse.put
  split
  · exact ⟨Sparse.erase_sorted h.1, fun e he => h.2 e ((Sparse.erase_sublist m k).subset he)⟩
  · rename_i hv
    refine ⟨Sparse.insert_sorted h.1, fun e he => ?_⟩
    rcases Sparse.mem_insert he with rfl | he
    · exact hv
    · exact h.2 e he

theorem Sparse.filter_canonical [DecidableEq α] {d : Nat → α} {m : Sparse α} (p : Nat × α → Bool) (h : Sparse.canonical d m = true) :
    Sparse.canonical d (m.filter p) = true := by
  simp only [Sparse.canonical, Bool.and_eq_true, List.all_eq_true, decide_eq_true_eq] at *
  exact ⟨Sparse.filter_sorted p h.1, fun e he => h.2 e (List.mem_of_mem_filter he)⟩

@[simp] theorem Sparse.canonical_nil [DecidableEq α] (d : Nat → α) : Sparse.canonical d ([] : Sparse α) = true := rfl

theorem Sparse.insertAll_sorted {β : Type} (f : β → Nat × α) (l : List β) {m : Sparse α} (h : Sparse.sorted m = true) :
    Sparse.sorted (l.foldl (fun m x => Sparse.insert m (f x).1 (f x).2) m) = true := by
  induction l generalizing m with
  | nil => exact h
  | cons a l ih => exact ih (Sparse.insert_sorted h)

/-- The bytes of a line in canonical form: rising offsets below 512, no zero. -/
theorem lineForm_canonical (d : Sparse Byte) :
    Sparse.canonical (fun _ => (0 : Byte)) (lineForm d) = true ∧ ∀ e ∈ lineForm d, e.1 < 512 := by
  have step : ∀ (l : Sparse Byte) (m : Sparse Byte), (∀ e ∈ l, e.1 < 512) → (∀ e ∈ m, e.1 < 512) →
      Sparse.canonical (fun _ => (0 : Byte)) m = true →
      Sparse.canonical (fun _ => (0 : Byte)) (overlay m l) = true ∧ ∀ e ∈ overlay m l, e.1 < 512 := by
    intro l
    induction l with
    | nil => intro m _ hm hc; exact ⟨hc, hm⟩
    | cons a l ih =>
      intro m hl hm hc
      refine ih _ (fun e he => hl e (List.mem_cons_of_mem _ he)) ?_ (Sparse.put_canonical (d := fun _ => (0 : Byte)) hc)
      intro e he
      simp only [Sparse.put] at he
      split at he
      · exact hm e ((Sparse.erase_sublist m _).subset he)
      · rcases Sparse.mem_insert he with rfl | he
        · exact hl a List.mem_cons_self
        · exact hm e he
  exact step _ [] (fun e he => by simpa using (List.mem_filter.1 he).2) (by simp) rfl

/-- Replacing a line keeps bonded memory canonical. -/
theorem Sparse.splice_canonical {m : Sparse Byte} (pl : Nat) (d : Sparse Byte) (h : Sparse.canonical (fun _ => (0 : Byte)) m = true) :
    Sparse.canonical (fun _ => (0 : Byte)) (m.filter (fun e => decide (e.1 < pl * 512)) ++ (lineForm d).map (fun e => (pl * 512 + e.1, e.2)) ++
      m.filter (fun e => decide (pl * 512 + 512 ≤ e.1))) = true := by
  obtain ⟨hc, hb⟩ := lineForm_canonical d
  simp only [Sparse.canonical, Bool.and_eq_true, Sparse.sorted_iff, List.all_eq_true, decide_eq_true_eq] at *
  refine ⟨?_, ?_⟩
  · rw [List.pairwise_append, List.pairwise_append]
    refine ⟨⟨h.1.sublist List.filter_sublist, ?_, ?_⟩, h.1.sublist List.filter_sublist, ?_⟩
    · exact List.pairwise_map.2 (hc.1.imp (fun hab => by show _ + _ < _ + _; omega))
    · intro a ha b hb'
      obtain ⟨e, he, rfl⟩ := List.mem_map.1 hb'
      exact lt_of_lt_of_le (of_decide_eq_true (List.mem_filter.1 ha).2) (Nat.le_add_right _ _)
    · intro a ha b hb'
      have hb2 := (List.mem_filter.1 hb').2
      simp only [decide_eq_true_eq] at hb2
      rcases List.mem_append.1 ha with ha | ha
      · have := (List.mem_filter.1 ha).2
        simp only [decide_eq_true_eq] at this
        omega
      · obtain ⟨e, he, rfl⟩ := List.mem_map.1 ha
        have := hb e he
        dsimp only
        omega
  · intro e he
    rcases List.mem_append.1 he with he | he
    · rcases List.mem_append.1 he with he | he
      · exact h.2 e (List.mem_of_mem_filter he)
      · obtain ⟨x, hx, rfl⟩ := List.mem_map.1 he
        exact hc.2 x hx
    · exact h.2 e (List.mem_of_mem_filter he)

/-! Reads after writes. -/

theorem Sparse.find_insert {m : Sparse α} (k j : Nat) (v : α) (h : Sparse.sorted m = true) :
    Sparse.find (Sparse.insert m k v) j = if k = j then some v else Sparse.find m j := by
  rw [Sparse.sorted_iff] at h
  induction m with
  | nil => simp only [Sparse.insert, Sparse.find]; split <;> simp_all
  | cons a l ih =>
    obtain ⟨i, u⟩ := a
    rw [List.pairwise_cons] at h
    unfold Sparse.insert
    split
    · simp only [Sparse.find]
      by_cases hkj : k = j
      · simp [hkj]
      · by_cases hjk : j < k
        · have : ¬ i = j := by omega
          have : j < i := by omega
          simp [*]
        · simp [*]
    · split
      · rename_i _ hik
        subst hik
        simp only [Sparse.find]
        by_cases hkj : i = j <;> simp [hkj]
      · simp only [Sparse.find, ih h.2]
        by_cases hij : i = j
        · have : ¬ k = j := by omega
          simp [*]
        · by_cases hji : j < i
          · have : ¬ k = j := by omega
            simp [*]
          · simp [*]

theorem Sparse.find_none_of_lt {m : Sparse α} {j : Nat} (h : ∀ e ∈ m, j < e.1) : Sparse.find m j = none := by
  cases m with
  | nil => rfl
  | cons a l =>
    have := h a (by simp)
    unfold Sparse.find
    have h1 : ¬ a.1 = j := by omega
    simp [h1, this]

theorem Sparse.find_erase {m : Sparse α} (k j : Nat) (h : Sparse.sorted m = true) :
    Sparse.find (Sparse.erase m k) j = if k = j then none else Sparse.find m j := by
  rw [Sparse.sorted_iff] at h
  induction m with
  | nil => simp [Sparse.erase, Sparse.find]
  | cons a l ih =>
    obtain ⟨i, u⟩ := a
    rw [List.pairwise_cons] at h
    unfold Sparse.erase
    split
    · rename_i hki
      by_cases hkj : k = j
      · subst hkj
        have : ¬ i = k := by omega
        simp [Sparse.find, hki, this]
      · simp [hkj]
    · split
      · rename_i _ hik
        subst hik
        by_cases hij : i = j
        · subst hij
          simp [Sparse.find_none_of_lt h.1]
        · simp only [Sparse.find, hij, if_false]
          by_cases hji : j < i
          · simp [hji, Sparse.find_none_of_lt (fun e he => lt_trans hji (h.1 e he))]
          · simp [hji]
      · simp only [Sparse.find, ih h.2]
        by_cases hij : i = j
        · have : ¬ k = j := by omega
          simp [*]
        · by_cases hji : j < i
          · have : ¬ k = j := by omega
            simp [*]
          · simp [*]

/-- A read of the key written gives the value written, a read of another key is as before. -/
theorem Sparse.getD_put [DecidableEq α] {m : Sparse α} (k j : Nat) (v d : α) (h : Sparse.sorted m = true) :
    Sparse.getD (Sparse.put m k v d) j d = if k = j then v else Sparse.getD m j d := by
  unfold Sparse.put Sparse.getD
  split
  · rw [Sparse.find_erase k j h]; split <;> simp_all
  · rw [Sparse.find_insert k j v h]; split <;> simp_all

/-- A read of another key than the one written, for any value that an unlisted key reads as. -/
theorem Sparse.getD_put_ne [DecidableEq α] {m : Sparse α} {k j : Nat} (v d e : α) (hkj : k ≠ j) (h : Sparse.sorted m = true) :
    Sparse.getD (Sparse.put m k v d) j e = Sparse.getD m j e := by
  unfold Sparse.put Sparse.getD
  split
  · rw [Sparse.find_erase k j h]; simp [hkj]
  · rw [Sparse.find_insert k j v h]; simp [hkj]

/-! Sets. -/

theorem NatSet.mem_add {m : NatSet} {k j : Nat} : j ∈ NatSet.add m k ↔ j = k ∨ j ∈ m := by
  induction m with
  | nil => simp [NatSet.add]
  | cons i l ih =>
    unfold NatSet.add
    split
    · simp
    · split
      · rename_i _ h; subst h; simp
      · simp only [List.mem_cons, ih]; tauto

theorem NatSet.add_sorted {m : NatSet} {k : Nat} (h : NatSet.sorted m = true) : NatSet.sorted (NatSet.add m k) = true := by
  rw [NatSet.sorted_iff] at *
  induction m with
  | nil => simp [NatSet.add]
  | cons i l ih =>
    rw [List.pairwise_cons] at h
    unfold NatSet.add
    split
    · rename_i hk
      exact List.pairwise_cons.2 ⟨fun e he => by
        rcases List.mem_cons.1 he with rfl | he
        · exact hk
        · exact lt_trans hk (h.1 e he), List.pairwise_cons.2 h⟩
    · split
      · exact List.pairwise_cons.2 h
      · exact List.pairwise_cons.2 ⟨fun e he => by
          rcases NatSet.mem_add.1 he with rfl | he
          · omega
          · exact h.1 e he, ih h.2⟩

theorem NatSet.filter_sorted {m : NatSet} (p : Nat → Bool) (h : NatSet.sorted m = true) : NatSet.sorted (m.filter p) = true := by
  rw [NatSet.sorted_iff] at *
  exact h.sublist List.filter_sublist

theorem NatSet.del_sorted {m : NatSet} {k : Nat} (h : NatSet.sorted m = true) : NatSet.sorted (NatSet.del m k) = true :=
  NatSet.filter_sorted _ h

theorem NatSet.addAll_sorted {m : NatSet} (l : List Nat) (h : NatSet.sorted m = true) : NatSet.sorted (l.foldl NatSet.add m) = true := by
  induction l generalizing m with
  | nil => exact h
  | cons a l ih => exact ih (NatSet.add_sorted h)

end Sys2Proof.Machine
end

