-- ==== Sys2Proof/Laws/State.lean ====
section
/-! SUPPORT. The small lemmas of State: which field each update changes, register fields after a write, tiles after a write. -/

namespace Sys2Proof.Machine

/-! `State.wr` changes `regs` alone. -/

@[simp] theorem State.wr_time (s : State) (o : Nat) (v : U64) : (s.wr o v).time = s.time := rfl
@[simp] theorem State.wr_start (s : State) (o : Nat) (v : U64) : (s.wr o v).start = s.start := rfl
@[simp] theorem State.wr_flash (s : State) (o : Nat) (v : U64) : (s.wr o v).flash = s.flash := rfl
@[simp] theorem State.wr_wb (s : State) (o : Nat) (v : U64) : (s.wr o v).wb = s.wb := rfl
@[simp] theorem State.wr_ledger (s : State) (o : Nat) (v : U64) : (s.wr o v).ledger = s.ledger := rfl
@[simp] theorem State.wr_power (s : State) (o : Nat) (v : U64) : (s.wr o v).power = s.power := rfl
@[simp] theorem State.wr_period (s : State) (o : Nat) (v : U64) : (s.wr o v).period = s.period := rfl
@[simp] theorem State.wr_seals (s : State) (o : Nat) (v : U64) : (s.wr o v).seals = s.seals := rfl
@[simp] theorem State.wr_ladder (s : State) (o : Nat) (v : U64) : (s.wr o v).ladder = s.ladder := rfl
@[simp] theorem State.wr_mem (s : State) (o : Nat) (v : U64) : (s.wr o v).mem = s.mem := rfl
@[simp] theorem State.wr_tiles (s : State) (o : Nat) (v : U64) : (s.wr o v).tiles = s.tiles := rfl
@[simp] theorem State.wr_coll (s : State) (o : Nat) (v : U64) : (s.wr o v).coll = s.coll := rfl
@[simp] theorem State.wr_mbx (s : State) (o : Nat) (v : U64) : (s.wr o v).mbx = s.mbx := rfl
@[simp] theorem State.wr_flt (s : State) (o : Nat) (v : U64) : (s.wr o v).flt = s.flt := rfl
@[simp] theorem State.wr_cast (s : State) (o : Nat) (v : U64) : (s.wr o v).cast = s.cast := rfl
@[simp] theorem State.wr_perf (s : State) (o : Nat) (v : U64) : (s.wr o v).perf = s.perf := rfl
@[simp] theorem State.wr_sent (s : State) (o : Nat) (v : U64) : (s.wr o v).sent = s.sent := rfl
@[simp] theorem State.wr_stalled (s : State) (o : Nat) (v : U64) : (s.wr o v).stalled = s.stalled := rfl
@[simp] theorem State.wr_stallReq (s : State) (o : Nat) (v : U64) : (s.wr o v).stallReq = s.stallReq := rfl
@[simp] theorem State.wr_free (s : State) (o : Nat) (v : U64) : (s.wr o v).free = s.free := rfl
@[simp] theorem State.wr_pending (s : State) (o : Nat) (v : U64) : (s.wr o v).pending = s.pending := rfl

/-! `State.set` changes `regs` alone. -/

@[simp] theorem State.set_time (s : State) (f : Field) (x : Nat) : (s.set f x).time = s.time := rfl
@[simp] theorem State.set_start (s : State) (f : Field) (x : Nat) : (s.set f x).start = s.start := rfl
@[simp] theorem State.set_flash (s : State) (f : Field) (x : Nat) : (s.set f x).flash = s.flash := rfl
@[simp] theorem State.set_wb (s : State) (f : Field) (x : Nat) : (s.set f x).wb = s.wb := rfl
@[simp] theorem State.set_ledger (s : State) (f : Field) (x : Nat) : (s.set f x).ledger = s.ledger := rfl
@[simp] theorem State.set_power (s : State) (f : Field) (x : Nat) : (s.set f x).power = s.power := rfl
@[simp] theorem State.set_period (s : State) (f : Field) (x : Nat) : (s.set f x).period = s.period := rfl
@[simp] theorem State.set_seals (s : State) (f : Field) (x : Nat) : (s.set f x).seals = s.seals := rfl
@[simp] theorem State.set_ladder (s : State) (f : Field) (x : Nat) : (s.set f x).ladder = s.ladder := rfl
@[simp] theorem State.set_mem (s : State) (f : Field) (x : Nat) : (s.set f x).mem = s.mem := rfl
@[simp] theorem State.set_tiles (s : State) (f : Field) (x : Nat) : (s.set f x).tiles = s.tiles := rfl
@[simp] theorem State.set_coll (s : State) (f : Field) (x : Nat) : (s.set f x).coll = s.coll := rfl
@[simp] theorem State.set_mbx (s : State) (f : Field) (x : Nat) : (s.set f x).mbx = s.mbx := rfl
@[simp] theorem State.set_flt (s : State) (f : Field) (x : Nat) : (s.set f x).flt = s.flt := rfl
@[simp] theorem State.set_cast (s : State) (f : Field) (x : Nat) : (s.set f x).cast = s.cast := rfl
@[simp] theorem State.set_perf (s : State) (f : Field) (x : Nat) : (s.set f x).perf = s.perf := rfl
@[simp] theorem State.set_sent (s : State) (f : Field) (x : Nat) : (s.set f x).sent = s.sent := rfl
@[simp] theorem State.set_stalled (s : State) (f : Field) (x : Nat) : (s.set f x).stalled = s.stalled := rfl
@[simp] theorem State.set_stallReq (s : State) (f : Field) (x : Nat) : (s.set f x).stallReq = s.stallReq := rfl
@[simp] theorem State.set_free (s : State) (f : Field) (x : Nat) : (s.set f x).free = s.free := rfl
@[simp] theorem State.set_pending (s : State) (f : Field) (x : Nat) : (s.set f x).pending = s.pending := rfl

/-! `State.flag` changes `regs` alone. -/

@[simp] theorem State.flag_time (s : State) (f : Field) : (s.flag f).time = s.time := rfl
@[simp] theorem State.flag_start (s : State) (f : Field) : (s.flag f).start = s.start := rfl
@[simp] theorem State.flag_flash (s : State) (f : Field) : (s.flag f).flash = s.flash := rfl
@[simp] theorem State.flag_wb (s : State) (f : Field) : (s.flag f).wb = s.wb := rfl
@[simp] theorem State.flag_ledger (s : State) (f : Field) : (s.flag f).ledger = s.ledger := rfl
@[simp] theorem State.flag_power (s : State) (f : Field) : (s.flag f).power = s.power := rfl
@[simp] theorem State.flag_period (s : State) (f : Field) : (s.flag f).period = s.period := rfl
@[simp] theorem State.flag_seals (s : State) (f : Field) : (s.flag f).seals = s.seals := rfl
@[simp] theorem State.flag_ladder (s : State) (f : Field) : (s.flag f).ladder = s.ladder := rfl
@[simp] theorem State.flag_mem (s : State) (f : Field) : (s.flag f).mem = s.mem := rfl
@[simp] theorem State.flag_tiles (s : State) (f : Field) : (s.flag f).tiles = s.tiles := rfl
@[simp] theorem State.flag_coll (s : State) (f : Field) : (s.flag f).coll = s.coll := rfl
@[simp] theorem State.flag_mbx (s : State) (f : Field) : (s.flag f).mbx = s.mbx := rfl
@[simp] theorem State.flag_flt (s : State) (f : Field) : (s.flag f).flt = s.flt := rfl
@[simp] theorem State.flag_cast (s : State) (f : Field) : (s.flag f).cast = s.cast := rfl
@[simp] theorem State.flag_perf (s : State) (f : Field) : (s.flag f).perf = s.perf := rfl
@[simp] theorem State.flag_sent (s : State) (f : Field) : (s.flag f).sent = s.sent := rfl
@[simp] theorem State.flag_stalled (s : State) (f : Field) : (s.flag f).stalled = s.stalled := rfl
@[simp] theorem State.flag_stallReq (s : State) (f : Field) : (s.flag f).stallReq = s.stallReq := rfl
@[simp] theorem State.flag_free (s : State) (f : Field) : (s.flag f).free = s.free := rfl
@[simp] theorem State.flag_pending (s : State) (f : Field) : (s.flag f).pending = s.pending := rfl

/-! `State.setB` changes `regs` alone. -/

@[simp] theorem State.setB_time (s : State) (f : Field) (b : Bool) : (s.setB f b).time = s.time := rfl
@[simp] theorem State.setB_start (s : State) (f : Field) (b : Bool) : (s.setB f b).start = s.start := rfl
@[simp] theorem State.setB_flash (s : State) (f : Field) (b : Bool) : (s.setB f b).flash = s.flash := rfl
@[simp] theorem State.setB_wb (s : State) (f : Field) (b : Bool) : (s.setB f b).wb = s.wb := rfl
@[simp] theorem State.setB_ledger (s : State) (f : Field) (b : Bool) : (s.setB f b).ledger = s.ledger := rfl
@[simp] theorem State.setB_power (s : State) (f : Field) (b : Bool) : (s.setB f b).power = s.power := rfl
@[simp] theorem State.setB_period (s : State) (f : Field) (b : Bool) : (s.setB f b).period = s.period := rfl
@[simp] theorem State.setB_seals (s : State) (f : Field) (b : Bool) : (s.setB f b).seals = s.seals := rfl
@[simp] theorem State.setB_ladder (s : State) (f : Field) (b : Bool) : (s.setB f b).ladder = s.ladder := rfl
@[simp] theorem State.setB_mem (s : State) (f : Field) (b : Bool) : (s.setB f b).mem = s.mem := rfl
@[simp] theorem State.setB_tiles (s : State) (f : Field) (b : Bool) : (s.setB f b).tiles = s.tiles := rfl
@[simp] theorem State.setB_coll (s : State) (f : Field) (b : Bool) : (s.setB f b).coll = s.coll := rfl
@[simp] theorem State.setB_mbx (s : State) (f : Field) (b : Bool) : (s.setB f b).mbx = s.mbx := rfl
@[simp] theorem State.setB_flt (s : State) (f : Field) (b : Bool) : (s.setB f b).flt = s.flt := rfl
@[simp] theorem State.setB_cast (s : State) (f : Field) (b : Bool) : (s.setB f b).cast = s.cast := rfl
@[simp] theorem State.setB_perf (s : State) (f : Field) (b : Bool) : (s.setB f b).perf = s.perf := rfl
@[simp] theorem State.setB_sent (s : State) (f : Field) (b : Bool) : (s.setB f b).sent = s.sent := rfl
@[simp] theorem State.setB_stalled (s : State) (f : Field) (b : Bool) : (s.setB f b).stalled = s.stalled := rfl
@[simp] theorem State.setB_stallReq (s : State) (f : Field) (b : Bool) : (s.setB f b).stallReq = s.stallReq := rfl
@[simp] theorem State.setB_free (s : State) (f : Field) (b : Bool) : (s.setB f b).free = s.free := rfl
@[simp] theorem State.setB_pending (s : State) (f : Field) (b : Bool) : (s.setB f b).pending = s.pending := rfl

/-! `State.bump` changes `regs` alone. -/

@[simp] theorem State.bump_time (s : State) (f : Field) (n : Nat) : (s.bump f n).time = s.time := rfl
@[simp] theorem State.bump_start (s : State) (f : Field) (n : Nat) : (s.bump f n).start = s.start := rfl
@[simp] theorem State.bump_flash (s : State) (f : Field) (n : Nat) : (s.bump f n).flash = s.flash := rfl
@[simp] theorem State.bump_wb (s : State) (f : Field) (n : Nat) : (s.bump f n).wb = s.wb := rfl
@[simp] theorem State.bump_ledger (s : State) (f : Field) (n : Nat) : (s.bump f n).ledger = s.ledger := rfl
@[simp] theorem State.bump_power (s : State) (f : Field) (n : Nat) : (s.bump f n).power = s.power := rfl
@[simp] theorem State.bump_period (s : State) (f : Field) (n : Nat) : (s.bump f n).period = s.period := rfl
@[simp] theorem State.bump_seals (s : State) (f : Field) (n : Nat) : (s.bump f n).seals = s.seals := rfl
@[simp] theorem State.bump_ladder (s : State) (f : Field) (n : Nat) : (s.bump f n).ladder = s.ladder := rfl
@[simp] theorem State.bump_mem (s : State) (f : Field) (n : Nat) : (s.bump f n).mem = s.mem := rfl
@[simp] theorem State.bump_tiles (s : State) (f : Field) (n : Nat) : (s.bump f n).tiles = s.tiles := rfl
@[simp] theorem State.bump_coll (s : State) (f : Field) (n : Nat) : (s.bump f n).coll = s.coll := rfl
@[simp] theorem State.bump_mbx (s : State) (f : Field) (n : Nat) : (s.bump f n).mbx = s.mbx := rfl
@[simp] theorem State.bump_flt (s : State) (f : Field) (n : Nat) : (s.bump f n).flt = s.flt := rfl
@[simp] theorem State.bump_cast (s : State) (f : Field) (n : Nat) : (s.bump f n).cast = s.cast := rfl
@[simp] theorem State.bump_perf (s : State) (f : Field) (n : Nat) : (s.bump f n).perf = s.perf := rfl
@[simp] theorem State.bump_sent (s : State) (f : Field) (n : Nat) : (s.bump f n).sent = s.sent := rfl
@[simp] theorem State.bump_stalled (s : State) (f : Field) (n : Nat) : (s.bump f n).stalled = s.stalled := rfl
@[simp] theorem State.bump_stallReq (s : State) (f : Field) (n : Nat) : (s.bump f n).stallReq = s.stallReq := rfl
@[simp] theorem State.bump_free (s : State) (f : Field) (n : Nat) : (s.bump f n).free = s.free := rfl
@[simp] theorem State.bump_pending (s : State) (f : Field) (n : Nat) : (s.bump f n).pending = s.pending := rfl

/-! `State.setDom` changes `regs` alone. -/

@[simp] theorem State.setDom_time (s : State) (d st : Nat) : (s.setDom d st).time = s.time := rfl
@[simp] theorem State.setDom_start (s : State) (d st : Nat) : (s.setDom d st).start = s.start := rfl
@[simp] theorem State.setDom_flash (s : State) (d st : Nat) : (s.setDom d st).flash = s.flash := rfl
@[simp] theorem State.setDom_wb (s : State) (d st : Nat) : (s.setDom d st).wb = s.wb := rfl
@[simp] theorem State.setDom_ledger (s : State) (d st : Nat) : (s.setDom d st).ledger = s.ledger := rfl
@[simp] theorem State.setDom_power (s : State) (d st : Nat) : (s.setDom d st).power = s.power := rfl
@[simp] theorem State.setDom_period (s : State) (d st : Nat) : (s.setDom d st).period = s.period := rfl
@[simp] theorem State.setDom_seals (s : State) (d st : Nat) : (s.setDom d st).seals = s.seals := rfl
@[simp] theorem State.setDom_ladder (s : State) (d st : Nat) : (s.setDom d st).ladder = s.ladder := rfl
@[simp] theorem State.setDom_mem (s : State) (d st : Nat) : (s.setDom d st).mem = s.mem := rfl
@[simp] theorem State.setDom_tiles (s : State) (d st : Nat) : (s.setDom d st).tiles = s.tiles := rfl
@[simp] theorem State.setDom_coll (s : State) (d st : Nat) : (s.setDom d st).coll = s.coll := rfl
@[simp] theorem State.setDom_mbx (s : State) (d st : Nat) : (s.setDom d st).mbx = s.mbx := rfl
@[simp] theorem State.setDom_flt (s : State) (d st : Nat) : (s.setDom d st).flt = s.flt := rfl
@[simp] theorem State.setDom_cast (s : State) (d st : Nat) : (s.setDom d st).cast = s.cast := rfl
@[simp] theorem State.setDom_perf (s : State) (d st : Nat) : (s.setDom d st).perf = s.perf := rfl
@[simp] theorem State.setDom_sent (s : State) (d st : Nat) : (s.setDom d st).sent = s.sent := rfl
@[simp] theorem State.setDom_stalled (s : State) (d st : Nat) : (s.setDom d st).stalled = s.stalled := rfl
@[simp] theorem State.setDom_stallReq (s : State) (d st : Nat) : (s.setDom d st).stallReq = s.stallReq := rfl
@[simp] theorem State.setDom_free (s : State) (d st : Nat) : (s.setDom d st).free = s.free := rfl
@[simp] theorem State.setDom_pending (s : State) (d st : Nat) : (s.setDom d st).pending = s.pending := rfl

/-! `State.setDomReq` changes `regs` alone. -/

@[simp] theorem State.setDomReq_time (s : State) (d st : Nat) : (s.setDomReq d st).time = s.time := rfl
@[simp] theorem State.setDomReq_start (s : State) (d st : Nat) : (s.setDomReq d st).start = s.start := rfl
@[simp] theorem State.setDomReq_flash (s : State) (d st : Nat) : (s.setDomReq d st).flash = s.flash := rfl
@[simp] theorem State.setDomReq_wb (s : State) (d st : Nat) : (s.setDomReq d st).wb = s.wb := rfl
@[simp] theorem State.setDomReq_ledger (s : State) (d st : Nat) : (s.setDomReq d st).ledger = s.ledger := rfl
@[simp] theorem State.setDomReq_power (s : State) (d st : Nat) : (s.setDomReq d st).power = s.power := rfl
@[simp] theorem State.setDomReq_period (s : State) (d st : Nat) : (s.setDomReq d st).period = s.period := rfl
@[simp] theorem State.setDomReq_seals (s : State) (d st : Nat) : (s.setDomReq d st).seals = s.seals := rfl
@[simp] theorem State.setDomReq_ladder (s : State) (d st : Nat) : (s.setDomReq d st).ladder = s.ladder := rfl
@[simp] theorem State.setDomReq_mem (s : State) (d st : Nat) : (s.setDomReq d st).mem = s.mem := rfl
@[simp] theorem State.setDomReq_tiles (s : State) (d st : Nat) : (s.setDomReq d st).tiles = s.tiles := rfl
@[simp] theorem State.setDomReq_coll (s : State) (d st : Nat) : (s.setDomReq d st).coll = s.coll := rfl
@[simp] theorem State.setDomReq_mbx (s : State) (d st : Nat) : (s.setDomReq d st).mbx = s.mbx := rfl
@[simp] theorem State.setDomReq_flt (s : State) (d st : Nat) : (s.setDomReq d st).flt = s.flt := rfl
@[simp] theorem State.setDomReq_cast (s : State) (d st : Nat) : (s.setDomReq d st).cast = s.cast := rfl
@[simp] theorem State.setDomReq_perf (s : State) (d st : Nat) : (s.setDomReq d st).perf = s.perf := rfl
@[simp] theorem State.setDomReq_sent (s : State) (d st : Nat) : (s.setDomReq d st).sent = s.sent := rfl
@[simp] theorem State.setDomReq_stalled (s : State) (d st : Nat) : (s.setDomReq d st).stalled = s.stalled := rfl
@[simp] theorem State.setDomReq_stallReq (s : State) (d st : Nat) : (s.setDomReq d st).stallReq = s.stallReq := rfl
@[simp] theorem State.setDomReq_free (s : State) (d st : Nat) : (s.setDomReq d st).free = s.free := rfl
@[simp] theorem State.setDomReq_pending (s : State) (d st : Nat) : (s.setDomReq d st).pending = s.pending := rfl

/-! `State.send` changes `sent` alone. -/

@[simp] theorem State.send_regs (s : State) (x : Out) : (s.send x).regs = s.regs := rfl
@[simp] theorem State.send_time (s : State) (x : Out) : (s.send x).time = s.time := rfl
@[simp] theorem State.send_start (s : State) (x : Out) : (s.send x).start = s.start := rfl
@[simp] theorem State.send_flash (s : State) (x : Out) : (s.send x).flash = s.flash := rfl
@[simp] theorem State.send_wb (s : State) (x : Out) : (s.send x).wb = s.wb := rfl
@[simp] theorem State.send_ledger (s : State) (x : Out) : (s.send x).ledger = s.ledger := rfl
@[simp] theorem State.send_power (s : State) (x : Out) : (s.send x).power = s.power := rfl
@[simp] theorem State.send_period (s : State) (x : Out) : (s.send x).period = s.period := rfl
@[simp] theorem State.send_seals (s : State) (x : Out) : (s.send x).seals = s.seals := rfl
@[simp] theorem State.send_ladder (s : State) (x : Out) : (s.send x).ladder = s.ladder := rfl
@[simp] theorem State.send_mem (s : State) (x : Out) : (s.send x).mem = s.mem := rfl
@[simp] theorem State.send_tiles (s : State) (x : Out) : (s.send x).tiles = s.tiles := rfl
@[simp] theorem State.send_coll (s : State) (x : Out) : (s.send x).coll = s.coll := rfl
@[simp] theorem State.send_mbx (s : State) (x : Out) : (s.send x).mbx = s.mbx := rfl
@[simp] theorem State.send_flt (s : State) (x : Out) : (s.send x).flt = s.flt := rfl
@[simp] theorem State.send_cast (s : State) (x : Out) : (s.send x).cast = s.cast := rfl
@[simp] theorem State.send_perf (s : State) (x : Out) : (s.send x).perf = s.perf := rfl
@[simp] theorem State.send_stalled (s : State) (x : Out) : (s.send x).stalled = s.stalled := rfl
@[simp] theorem State.send_stallReq (s : State) (x : Out) : (s.send x).stallReq = s.stallReq := rfl
@[simp] theorem State.send_free (s : State) (x : Out) : (s.send x).free = s.free := rfl
@[simp] theorem State.send_pending (s : State) (x : Out) : (s.send x).pending = s.pending := rfl

/-! `State.setTile` changes `tiles` alone. -/

@[simp] theorem State.setTile_regs (s : State) (n : TileIx) (t : TileSt) : (s.setTile n t).regs = s.regs := rfl
@[simp] theorem State.setTile_time (s : State) (n : TileIx) (t : TileSt) : (s.setTile n t).time = s.time := rfl
@[simp] theorem State.setTile_start (s : State) (n : TileIx) (t : TileSt) : (s.setTile n t).start = s.start := rfl
@[simp] theorem State.setTile_flash (s : State) (n : TileIx) (t : TileSt) : (s.setTile n t).flash = s.flash := rfl
@[simp] theorem State.setTile_wb (s : State) (n : TileIx) (t : TileSt) : (s.setTile n t).wb = s.wb := rfl
@[simp] theorem State.setTile_ledger (s : State) (n : TileIx) (t : TileSt) : (s.setTile n t).ledger = s.ledger := rfl
@[simp] theorem State.setTile_power (s : State) (n : TileIx) (t : TileSt) : (s.setTile n t).power = s.power := rfl
@[simp] theorem State.setTile_period (s : State) (n : TileIx) (t : TileSt) : (s.setTile n t).period = s.period := rfl
@[simp] theorem State.setTile_seals (s : State) (n : TileIx) (t : TileSt) : (s.setTile n t).seals = s.seals := rfl
@[simp] theorem State.setTile_ladder (s : State) (n : TileIx) (t : TileSt) : (s.setTile n t).ladder = s.ladder := rfl
@[simp] theorem State.setTile_mem (s : State) (n : TileIx) (t : TileSt) : (s.setTile n t).mem = s.mem := rfl
@[simp] theorem State.setTile_coll (s : State) (n : TileIx) (t : TileSt) : (s.setTile n t).coll = s.coll := rfl
@[simp] theorem State.setTile_mbx (s : State) (n : TileIx) (t : TileSt) : (s.setTile n t).mbx = s.mbx := rfl
@[simp] theorem State.setTile_flt (s : State) (n : TileIx) (t : TileSt) : (s.setTile n t).flt = s.flt := rfl
@[simp] theorem State.setTile_cast (s : State) (n : TileIx) (t : TileSt) : (s.setTile n t).cast = s.cast := rfl
@[simp] theorem State.setTile_perf (s : State) (n : TileIx) (t : TileSt) : (s.setTile n t).perf = s.perf := rfl
@[simp] theorem State.setTile_sent (s : State) (n : TileIx) (t : TileSt) : (s.setTile n t).sent = s.sent := rfl
@[simp] theorem State.setTile_stalled (s : State) (n : TileIx) (t : TileSt) : (s.setTile n t).stalled = s.stalled := rfl
@[simp] theorem State.setTile_stallReq (s : State) (n : TileIx) (t : TileSt) : (s.setTile n t).stallReq = s.stallReq := rfl
@[simp] theorem State.setTile_free (s : State) (n : TileIx) (t : TileSt) : (s.setTile n t).free = s.free := rfl
@[simp] theorem State.setTile_pending (s : State) (n : TileIx) (t : TileSt) : (s.setTile n t).pending = s.pending := rfl

/-! `State.modTile` changes `tiles` alone. -/

@[simp] theorem State.modTile_regs (s : State) (n : TileIx) (f : TileSt → TileSt) : (s.modTile n f).regs = s.regs := rfl
@[simp] theorem State.modTile_time (s : State) (n : TileIx) (f : TileSt → TileSt) : (s.modTile n f).time = s.time := rfl
@[simp] theorem State.modTile_start (s : State) (n : TileIx) (f : TileSt → TileSt) : (s.modTile n f).start = s.start := rfl
@[simp] theorem State.modTile_flash (s : State) (n : TileIx) (f : TileSt → TileSt) : (s.modTile n f).flash = s.flash := rfl
@[simp] theorem State.modTile_wb (s : State) (n : TileIx) (f : TileSt → TileSt) : (s.modTile n f).wb = s.wb := rfl
@[simp] theorem State.modTile_ledger (s : State) (n : TileIx) (f : TileSt → TileSt) : (s.modTile n f).ledger = s.ledger := rfl
@[simp] theorem State.modTile_power (s : State) (n : TileIx) (f : TileSt → TileSt) : (s.modTile n f).power = s.power := rfl
@[simp] theorem State.modTile_period (s : State) (n : TileIx) (f : TileSt → TileSt) : (s.modTile n f).period = s.period := rfl
@[simp] theorem State.modTile_seals (s : State) (n : TileIx) (f : TileSt → TileSt) : (s.modTile n f).seals = s.seals := rfl
@[simp] theorem State.modTile_ladder (s : State) (n : TileIx) (f : TileSt → TileSt) : (s.modTile n f).ladder = s.ladder := rfl
@[simp] theorem State.modTile_mem (s : State) (n : TileIx) (f : TileSt → TileSt) : (s.modTile n f).mem = s.mem := rfl
@[simp] theorem State.modTile_coll (s : State) (n : TileIx) (f : TileSt → TileSt) : (s.modTile n f).coll = s.coll := rfl
@[simp] theorem State.modTile_mbx (s : State) (n : TileIx) (f : TileSt → TileSt) : (s.modTile n f).mbx = s.mbx := rfl
@[simp] theorem State.modTile_flt (s : State) (n : TileIx) (f : TileSt → TileSt) : (s.modTile n f).flt = s.flt := rfl
@[simp] theorem State.modTile_cast (s : State) (n : TileIx) (f : TileSt → TileSt) : (s.modTile n f).cast = s.cast := rfl
@[simp] theorem State.modTile_perf (s : State) (n : TileIx) (f : TileSt → TileSt) : (s.modTile n f).perf = s.perf := rfl
@[simp] theorem State.modTile_sent (s : State) (n : TileIx) (f : TileSt → TileSt) : (s.modTile n f).sent = s.sent := rfl
@[simp] theorem State.modTile_stalled (s : State) (n : TileIx) (f : TileSt → TileSt) : (s.modTile n f).stalled = s.stalled := rfl
@[simp] theorem State.modTile_stallReq (s : State) (n : TileIx) (f : TileSt → TileSt) : (s.modTile n f).stallReq = s.stallReq := rfl
@[simp] theorem State.modTile_free (s : State) (n : TileIx) (f : TileSt → TileSt) : (s.modTile n f).free = s.free := rfl
@[simp] theorem State.modTile_pending (s : State) (n : TileIx) (f : TileSt → TileSt) : (s.modTile n f).pending = s.pending := rfl

/-! `State.modTiles` changes `tiles` alone. -/

@[simp] theorem State.modTiles_regs (s : State) (f : TileSt → TileSt) : (s.modTiles f).regs = s.regs := rfl
@[simp] theorem State.modTiles_time (s : State) (f : TileSt → TileSt) : (s.modTiles f).time = s.time := rfl
@[simp] theorem State.modTiles_start (s : State) (f : TileSt → TileSt) : (s.modTiles f).start = s.start := rfl
@[simp] theorem State.modTiles_flash (s : State) (f : TileSt → TileSt) : (s.modTiles f).flash = s.flash := rfl
@[simp] theorem State.modTiles_wb (s : State) (f : TileSt → TileSt) : (s.modTiles f).wb = s.wb := rfl
@[simp] theorem State.modTiles_ledger (s : State) (f : TileSt → TileSt) : (s.modTiles f).ledger = s.ledger := rfl
@[simp] theorem State.modTiles_power (s : State) (f : TileSt → TileSt) : (s.modTiles f).power = s.power := rfl
@[simp] theorem State.modTiles_period (s : State) (f : TileSt → TileSt) : (s.modTiles f).period = s.period := rfl
@[simp] theorem State.modTiles_seals (s : State) (f : TileSt → TileSt) : (s.modTiles f).seals = s.seals := rfl
@[simp] theorem State.modTiles_ladder (s : State) (f : TileSt → TileSt) : (s.modTiles f).ladder = s.ladder := rfl
@[simp] theorem State.modTiles_mem (s : State) (f : TileSt → TileSt) : (s.modTiles f).mem = s.mem := rfl
@[simp] theorem State.modTiles_coll (s : State) (f : TileSt → TileSt) : (s.modTiles f).coll = s.coll := rfl
@[simp] theorem State.modTiles_mbx (s : State) (f : TileSt → TileSt) : (s.modTiles f).mbx = s.mbx := rfl
@[simp] theorem State.modTiles_flt (s : State) (f : TileSt → TileSt) : (s.modTiles f).flt = s.flt := rfl
@[simp] theorem State.modTiles_cast (s : State) (f : TileSt → TileSt) : (s.modTiles f).cast = s.cast := rfl
@[simp] theorem State.modTiles_perf (s : State) (f : TileSt → TileSt) : (s.modTiles f).perf = s.perf := rfl
@[simp] theorem State.modTiles_sent (s : State) (f : TileSt → TileSt) : (s.modTiles f).sent = s.sent := rfl
@[simp] theorem State.modTiles_stalled (s : State) (f : TileSt → TileSt) : (s.modTiles f).stalled = s.stalled := rfl
@[simp] theorem State.modTiles_stallReq (s : State) (f : TileSt → TileSt) : (s.modTiles f).stallReq = s.stallReq := rfl
@[simp] theorem State.modTiles_free (s : State) (f : TileSt → TileSt) : (s.modTiles f).free = s.free := rfl
@[simp] theorem State.modTiles_pending (s : State) (f : TileSt → TileSt) : (s.modTiles f).pending = s.pending := rfl

/-! `State.failTile` changes `tiles` alone. -/

@[simp] theorem State.failTile_regs (s : State) (n : TileIx) : (s.failTile n).regs = s.regs := rfl
@[simp] theorem State.failTile_time (s : State) (n : TileIx) : (s.failTile n).time = s.time := rfl
@[simp] theorem State.failTile_start (s : State) (n : TileIx) : (s.failTile n).start = s.start := rfl
@[simp] theorem State.failTile_flash (s : State) (n : TileIx) : (s.failTile n).flash = s.flash := rfl
@[simp] theorem State.failTile_wb (s : State) (n : TileIx) : (s.failTile n).wb = s.wb := rfl
@[simp] theorem State.failTile_ledger (s : State) (n : TileIx) : (s.failTile n).ledger = s.ledger := rfl
@[simp] theorem State.failTile_power (s : State) (n : TileIx) : (s.failTile n).power = s.power := rfl
@[simp] theorem State.failTile_period (s : State) (n : TileIx) : (s.failTile n).period = s.period := rfl
@[simp] theorem State.failTile_seals (s : State) (n : TileIx) : (s.failTile n).seals = s.seals := rfl
@[simp] theorem State.failTile_ladder (s : State) (n : TileIx) : (s.failTile n).ladder = s.ladder := rfl
@[simp] theorem State.failTile_mem (s : State) (n : TileIx) : (s.failTile n).mem = s.mem := rfl
@[simp] theorem State.failTile_coll (s : State) (n : TileIx) : (s.failTile n).coll = s.coll := rfl
@[simp] theorem State.failTile_mbx (s : State) (n : TileIx) : (s.failTile n).mbx = s.mbx := rfl
@[simp] theorem State.failTile_flt (s : State) (n : TileIx) : (s.failTile n).flt = s.flt := rfl
@[simp] theorem State.failTile_cast (s : State) (n : TileIx) : (s.failTile n).cast = s.cast := rfl
@[simp] theorem State.failTile_perf (s : State) (n : TileIx) : (s.failTile n).perf = s.perf := rfl
@[simp] theorem State.failTile_sent (s : State) (n : TileIx) : (s.failTile n).sent = s.sent := rfl
@[simp] theorem State.failTile_stalled (s : State) (n : TileIx) : (s.failTile n).stalled = s.stalled := rfl
@[simp] theorem State.failTile_stallReq (s : State) (n : TileIx) : (s.failTile n).stallReq = s.stallReq := rfl
@[simp] theorem State.failTile_free (s : State) (n : TileIx) : (s.failTile n).free = s.free := rfl
@[simp] theorem State.failTile_pending (s : State) (n : TileIx) : (s.failTile n).pending = s.pending := rfl

/-! `State.taintTile` changes `tiles` alone. -/

@[simp] theorem State.taintTile_regs (s : State) (n : TileIx) : (s.taintTile n).regs = s.regs := rfl
@[simp] theorem State.taintTile_time (s : State) (n : TileIx) : (s.taintTile n).time = s.time := rfl
@[simp] theorem State.taintTile_start (s : State) (n : TileIx) : (s.taintTile n).start = s.start := rfl
@[simp] theorem State.taintTile_flash (s : State) (n : TileIx) : (s.taintTile n).flash = s.flash := rfl
@[simp] theorem State.taintTile_wb (s : State) (n : TileIx) : (s.taintTile n).wb = s.wb := rfl
@[simp] theorem State.taintTile_ledger (s : State) (n : TileIx) : (s.taintTile n).ledger = s.ledger := rfl
@[simp] theorem State.taintTile_power (s : State) (n : TileIx) : (s.taintTile n).power = s.power := rfl
@[simp] theorem State.taintTile_period (s : State) (n : TileIx) : (s.taintTile n).period = s.period := rfl
@[simp] theorem State.taintTile_seals (s : State) (n : TileIx) : (s.taintTile n).seals = s.seals := rfl
@[simp] theorem State.taintTile_ladder (s : State) (n : TileIx) : (s.taintTile n).ladder = s.ladder := rfl
@[simp] theorem State.taintTile_mem (s : State) (n : TileIx) : (s.taintTile n).mem = s.mem := rfl
@[simp] theorem State.taintTile_coll (s : State) (n : TileIx) : (s.taintTile n).coll = s.coll := rfl
@[simp] theorem State.taintTile_mbx (s : State) (n : TileIx) : (s.taintTile n).mbx = s.mbx := rfl
@[simp] theorem State.taintTile_flt (s : State) (n : TileIx) : (s.taintTile n).flt = s.flt := rfl
@[simp] theorem State.taintTile_cast (s : State) (n : TileIx) : (s.taintTile n).cast = s.cast := rfl
@[simp] theorem State.taintTile_perf (s : State) (n : TileIx) : (s.taintTile n).perf = s.perf := rfl
@[simp] theorem State.taintTile_sent (s : State) (n : TileIx) : (s.taintTile n).sent = s.sent := rfl
@[simp] theorem State.taintTile_stalled (s : State) (n : TileIx) : (s.taintTile n).stalled = s.stalled := rfl
@[simp] theorem State.taintTile_stallReq (s : State) (n : TileIx) : (s.taintTile n).stallReq = s.stallReq := rfl
@[simp] theorem State.taintTile_free (s : State) (n : TileIx) : (s.taintTile n).free = s.free := rfl
@[simp] theorem State.taintTile_pending (s : State) (n : TileIx) : (s.taintTile n).pending = s.pending := rfl

/-! `State.record` changes `tiles` alone. -/

@[simp] theorem State.record_regs (s : State) (n : TileIx) (r : BitVec 256) : (s.record n r).regs = s.regs := rfl
@[simp] theorem State.record_time (s : State) (n : TileIx) (r : BitVec 256) : (s.record n r).time = s.time := rfl
@[simp] theorem State.record_start (s : State) (n : TileIx) (r : BitVec 256) : (s.record n r).start = s.start := rfl
@[simp] theorem State.record_flash (s : State) (n : TileIx) (r : BitVec 256) : (s.record n r).flash = s.flash := rfl
@[simp] theorem State.record_wb (s : State) (n : TileIx) (r : BitVec 256) : (s.record n r).wb = s.wb := rfl
@[simp] theorem State.record_ledger (s : State) (n : TileIx) (r : BitVec 256) : (s.record n r).ledger = s.ledger := rfl
@[simp] theorem State.record_power (s : State) (n : TileIx) (r : BitVec 256) : (s.record n r).power = s.power := rfl
@[simp] theorem State.record_period (s : State) (n : TileIx) (r : BitVec 256) : (s.record n r).period = s.period := rfl
@[simp] theorem State.record_seals (s : State) (n : TileIx) (r : BitVec 256) : (s.record n r).seals = s.seals := rfl
@[simp] theorem State.record_ladder (s : State) (n : TileIx) (r : BitVec 256) : (s.record n r).ladder = s.ladder := rfl
@[simp] theorem State.record_mem (s : State) (n : TileIx) (r : BitVec 256) : (s.record n r).mem = s.mem := rfl
@[simp] theorem State.record_coll (s : State) (n : TileIx) (r : BitVec 256) : (s.record n r).coll = s.coll := rfl
@[simp] theorem State.record_mbx (s : State) (n : TileIx) (r : BitVec 256) : (s.record n r).mbx = s.mbx := rfl
@[simp] theorem State.record_flt (s : State) (n : TileIx) (r : BitVec 256) : (s.record n r).flt = s.flt := rfl
@[simp] theorem State.record_cast (s : State) (n : TileIx) (r : BitVec 256) : (s.record n r).cast = s.cast := rfl
@[simp] theorem State.record_perf (s : State) (n : TileIx) (r : BitVec 256) : (s.record n r).perf = s.perf := rfl
@[simp] theorem State.record_sent (s : State) (n : TileIx) (r : BitVec 256) : (s.record n r).sent = s.sent := rfl
@[simp] theorem State.record_stalled (s : State) (n : TileIx) (r : BitVec 256) : (s.record n r).stalled = s.stalled := rfl
@[simp] theorem State.record_stallReq (s : State) (n : TileIx) (r : BitVec 256) : (s.record n r).stallReq = s.stallReq := rfl
@[simp] theorem State.record_free (s : State) (n : TileIx) (r : BitVec 256) : (s.record n r).free = s.free := rfl
@[simp] theorem State.record_pending (s : State) (n : TileIx) (r : BitVec 256) : (s.record n r).pending = s.pending := rfl

/-! `State.setChan` changes `mbx` alone. -/

@[simp] theorem State.setChan_regs (s : State) (c : MbxIx) (m : MbxChan) : (s.setChan c m).regs = s.regs := rfl
@[simp] theorem State.setChan_time (s : State) (c : MbxIx) (m : MbxChan) : (s.setChan c m).time = s.time := rfl
@[simp] theorem State.setChan_start (s : State) (c : MbxIx) (m : MbxChan) : (s.setChan c m).start = s.start := rfl
@[simp] theorem State.setChan_flash (s : State) (c : MbxIx) (m : MbxChan) : (s.setChan c m).flash = s.flash := rfl
@[simp] theorem State.setChan_wb (s : State) (c : MbxIx) (m : MbxChan) : (s.setChan c m).wb = s.wb := rfl
@[simp] theorem State.setChan_ledger (s : State) (c : MbxIx) (m : MbxChan) : (s.setChan c m).ledger = s.ledger := rfl
@[simp] theorem State.setChan_power (s : State) (c : MbxIx) (m : MbxChan) : (s.setChan c m).power = s.power := rfl
@[simp] theorem State.setChan_period (s : State) (c : MbxIx) (m : MbxChan) : (s.setChan c m).period = s.period := rfl
@[simp] theorem State.setChan_seals (s : State) (c : MbxIx) (m : MbxChan) : (s.setChan c m).seals = s.seals := rfl
@[simp] theorem State.setChan_ladder (s : State) (c : MbxIx) (m : MbxChan) : (s.setChan c m).ladder = s.ladder := rfl
@[simp] theorem State.setChan_mem (s : State) (c : MbxIx) (m : MbxChan) : (s.setChan c m).mem = s.mem := rfl
@[simp] theorem State.setChan_tiles (s : State) (c : MbxIx) (m : MbxChan) : (s.setChan c m).tiles = s.tiles := rfl
@[simp] theorem State.setChan_coll (s : State) (c : MbxIx) (m : MbxChan) : (s.setChan c m).coll = s.coll := rfl
@[simp] theorem State.setChan_flt (s : State) (c : MbxIx) (m : MbxChan) : (s.setChan c m).flt = s.flt := rfl
@[simp] theorem State.setChan_cast (s : State) (c : MbxIx) (m : MbxChan) : (s.setChan c m).cast = s.cast := rfl
@[simp] theorem State.setChan_perf (s : State) (c : MbxIx) (m : MbxChan) : (s.setChan c m).perf = s.perf := rfl
@[simp] theorem State.setChan_sent (s : State) (c : MbxIx) (m : MbxChan) : (s.setChan c m).sent = s.sent := rfl
@[simp] theorem State.setChan_stalled (s : State) (c : MbxIx) (m : MbxChan) : (s.setChan c m).stalled = s.stalled := rfl
@[simp] theorem State.setChan_stallReq (s : State) (c : MbxIx) (m : MbxChan) : (s.setChan c m).stallReq = s.stallReq := rfl
@[simp] theorem State.setChan_free (s : State) (c : MbxIx) (m : MbxChan) : (s.setChan c m).free = s.free := rfl
@[simp] theorem State.setChan_pending (s : State) (c : MbxIx) (m : MbxChan) : (s.setChan c m).pending = s.pending := rfl

/-! `State.dropUpload` changes `start` alone. -/

@[simp] theorem State.dropUpload_regs (s : State) : s.dropUpload.regs = s.regs := rfl
@[simp] theorem State.dropUpload_time (s : State) : s.dropUpload.time = s.time := rfl
@[simp] theorem State.dropUpload_flash (s : State) : s.dropUpload.flash = s.flash := rfl
@[simp] theorem State.dropUpload_wb (s : State) : s.dropUpload.wb = s.wb := rfl
@[simp] theorem State.dropUpload_ledger (s : State) : s.dropUpload.ledger = s.ledger := rfl
@[simp] theorem State.dropUpload_power (s : State) : s.dropUpload.power = s.power := rfl
@[simp] theorem State.dropUpload_period (s : State) : s.dropUpload.period = s.period := rfl
@[simp] theorem State.dropUpload_seals (s : State) : s.dropUpload.seals = s.seals := rfl
@[simp] theorem State.dropUpload_ladder (s : State) : s.dropUpload.ladder = s.ladder := rfl
@[simp] theorem State.dropUpload_mem (s : State) : s.dropUpload.mem = s.mem := rfl
@[simp] theorem State.dropUpload_tiles (s : State) : s.dropUpload.tiles = s.tiles := rfl
@[simp] theorem State.dropUpload_coll (s : State) : s.dropUpload.coll = s.coll := rfl
@[simp] theorem State.dropUpload_mbx (s : State) : s.dropUpload.mbx = s.mbx := rfl
@[simp] theorem State.dropUpload_flt (s : State) : s.dropUpload.flt = s.flt := rfl
@[simp] theorem State.dropUpload_cast (s : State) : s.dropUpload.cast = s.cast := rfl
@[simp] theorem State.dropUpload_perf (s : State) : s.dropUpload.perf = s.perf := rfl
@[simp] theorem State.dropUpload_sent (s : State) : s.dropUpload.sent = s.sent := rfl
@[simp] theorem State.dropUpload_stalled (s : State) : s.dropUpload.stalled = s.stalled := rfl
@[simp] theorem State.dropUpload_stallReq (s : State) : s.dropUpload.stallReq = s.stallReq := rfl
@[simp] theorem State.dropUpload_free (s : State) : s.dropUpload.free = s.free := rfl
@[simp] theorem State.dropUpload_pending (s : State) : s.dropUpload.pending = s.pending := rfl

/-! `State.setMsix` changes `start` alone. -/

@[simp] theorem State.setMsix_regs (s : State) (fn1 : Bool) (x : MsixSt) : (s.setMsix fn1 x).regs = s.regs := rfl
@[simp] theorem State.setMsix_time (s : State) (fn1 : Bool) (x : MsixSt) : (s.setMsix fn1 x).time = s.time := rfl
@[simp] theorem State.setMsix_flash (s : State) (fn1 : Bool) (x : MsixSt) : (s.setMsix fn1 x).flash = s.flash := rfl
@[simp] theorem State.setMsix_wb (s : State) (fn1 : Bool) (x : MsixSt) : (s.setMsix fn1 x).wb = s.wb := rfl
@[simp] theorem State.setMsix_ledger (s : State) (fn1 : Bool) (x : MsixSt) : (s.setMsix fn1 x).ledger = s.ledger := rfl
@[simp] theorem State.setMsix_power (s : State) (fn1 : Bool) (x : MsixSt) : (s.setMsix fn1 x).power = s.power := rfl
@[simp] theorem State.setMsix_period (s : State) (fn1 : Bool) (x : MsixSt) : (s.setMsix fn1 x).period = s.period := rfl
@[simp] theorem State.setMsix_seals (s : State) (fn1 : Bool) (x : MsixSt) : (s.setMsix fn1 x).seals = s.seals := rfl
@[simp] theorem State.setMsix_ladder (s : State) (fn1 : Bool) (x : MsixSt) : (s.setMsix fn1 x).ladder = s.ladder := rfl
@[simp] theorem State.setMsix_mem (s : State) (fn1 : Bool) (x : MsixSt) : (s.setMsix fn1 x).mem = s.mem := rfl
@[simp] theorem State.setMsix_tiles (s : State) (fn1 : Bool) (x : MsixSt) : (s.setMsix fn1 x).tiles = s.tiles := rfl
@[simp] theorem State.setMsix_coll (s : State) (fn1 : Bool) (x : MsixSt) : (s.setMsix fn1 x).coll = s.coll := rfl
@[simp] theorem State.setMsix_mbx (s : State) (fn1 : Bool) (x : MsixSt) : (s.setMsix fn1 x).mbx = s.mbx := rfl
@[simp] theorem State.setMsix_flt (s : State) (fn1 : Bool) (x : MsixSt) : (s.setMsix fn1 x).flt = s.flt := rfl
@[simp] theorem State.setMsix_cast (s : State) (fn1 : Bool) (x : MsixSt) : (s.setMsix fn1 x).cast = s.cast := rfl
@[simp] theorem State.setMsix_perf (s : State) (fn1 : Bool) (x : MsixSt) : (s.setMsix fn1 x).perf = s.perf := rfl
@[simp] theorem State.setMsix_sent (s : State) (fn1 : Bool) (x : MsixSt) : (s.setMsix fn1 x).sent = s.sent := rfl
@[simp] theorem State.setMsix_stalled (s : State) (fn1 : Bool) (x : MsixSt) : (s.setMsix fn1 x).stalled = s.stalled := rfl
@[simp] theorem State.setMsix_stallReq (s : State) (fn1 : Bool) (x : MsixSt) : (s.setMsix fn1 x).stallReq = s.stallReq := rfl
@[simp] theorem State.setMsix_free (s : State) (fn1 : Bool) (x : MsixSt) : (s.setMsix fn1 x).free = s.free := rfl
@[simp] theorem State.setMsix_pending (s : State) (fn1 : Bool) (x : MsixSt) : (s.setMsix fn1 x).pending = s.pending := rfl

/-! Registers: a read after a write. -/

/-- The registers are in canonical form. -/
abbrev State.regsOk (s : State) : Prop := Sparse.sorted s.regs = true

theorem State.rd_wr (s : State) (o o' : Nat) (v : U64) (h : s.regsOk) : (s.wr o v).rd o' = if o = o' then v else s.rd o' := by
  unfold State.rd State.wr
  by_cases ho : o = o'
  · subst ho
    simp [Sparse.getD_put o o v (regReset o) h]
  · simp [ho, Sparse.getD_put_ne v (regReset o) (regReset o') ho h]

/-- The bits that a field covers. -/
theorem fieldOf_testBit (f : Field) (v : U64) (i : Nat) :
    (fieldOf f v).testBit i = (decide (i < f.w) && v.getLsbD (f.lo + i)) := by
  simp [fieldOf, BitVec.getLsbD_extractLsb', BitVec.testBit_toNat]

theorem fieldPut_getLsbD (f : Field) (v : U64) (x i : Nat) :
    (fieldPut f v x).getLsbD i = (decide (i < 64) && if f.lo ≤ i ∧ i < f.lo + f.w then x.testBit (i - f.lo) else v.getLsbD i) := by
  unfold fieldPut
  simp only [BitVec.getLsbD_or, BitVec.getLsbD_and, BitVec.getLsbD_not, BitVec.getLsbD_shiftLeft, BitVec.getLsbD_setWidth,
    BitVec.getLsbD_allOnes, BitVec.getLsbD_ofNat]
  by_cases h64 : i < 64
  · by_cases hlo : i < f.lo
    · have : ¬ f.lo ≤ i := by omega
      simp [h64, hlo, this]
    · have h1 : f.lo ≤ i := by omega
      have h2 : i - f.lo < 64 := by omega
      by_cases hw : i < f.lo + f.w
      · have h3 : i - f.lo < f.w := by omega
        simp [h64, hlo, h1, h2, hw, h3]
      · have h3 : ¬ i - f.lo < f.w := by omega
        simp [h64, hlo, h1, h2, hw, h3]
  · simp [h64, BitVec.getLsbD_of_ge v i (by omega)]

/-- A field reads as the number put into it, cut to its width. -/
theorem fieldOf_fieldPut (f : Field) (v : U64) (x : Nat) (h : f.lo + f.w ≤ 64) : fieldOf f (fieldPut f v x) = x % 2 ^ f.w := by
  apply Nat.eq_of_testBit_eq
  intro i
  rw [fieldOf_testBit, fieldPut_getLsbD, Nat.testBit_mod_two_pow]
  by_cases hi : i < f.w
  · have h1 : f.lo + i < 64 := by omega
    simp [hi, h1]
  · simp [hi]

/-- A field of other bits reads as before. -/
theorem fieldOf_fieldPut_disjoint (f g : Field) (v : U64) (x : Nat) (h : g.lo + g.w ≤ f.lo ∨ f.lo + f.w ≤ g.lo) (hg : g.lo + g.w ≤ 64) :
    fieldOf g (fieldPut f v x) = fieldOf g v := by
  apply Nat.eq_of_testBit_eq
  intro i
  rw [fieldOf_testBit, fieldOf_testBit, fieldPut_getLsbD]
  by_cases hi : i < g.w
  · have h1 : g.lo + i < 64 := by omega
    have h2 : ¬ (f.lo ≤ g.lo + i ∧ g.lo + i < f.lo + f.w) := by omega
    simp [hi, h1, h2]
  · simp [hi]

theorem State.set_regsOk (s : State) (f : Field) (x : Nat) (h : s.regsOk) : (s.set f x).regsOk := by
  unfold State.regsOk State.set State.wr Sparse.put
  simp only
  split
  · exact Sparse.erase_sorted h
  · exact Sparse.insert_sorted h

theorem State.wr_regsOk (s : State) (o : Nat) (v : U64) (h : s.regsOk) : (s.wr o v).regsOk := by
  unfold State.regsOk State.wr Sparse.put
  simp only
  split
  · exact Sparse.erase_sorted h
  · exact Sparse.insert_sorted h

/-- A field after it is set. -/
theorem State.get_set_self (s : State) (f : Field) (x : Nat) (h : s.regsOk) (hf : f.lo + f.w ≤ 64) : (s.set f x).get f = x % 2 ^ f.w := by
  unfold State.get State.set
  rw [State.rd_wr _ _ _ _ h]
  simp [fieldOf_fieldPut f _ x hf]

/-- A field of another register, or of other bits, after one is set. -/
theorem State.get_set_other (s : State) (f g : Field) (x : Nat) (h : s.regsOk)
    (hd : f.off ≠ g.off ∨ ((g.lo + g.w ≤ f.lo ∨ f.lo + f.w ≤ g.lo) ∧ g.lo + g.w ≤ 64)) : (s.set f x).get g = s.get g := by
  unfold State.get State.set
  rw [State.rd_wr _ _ _ _ h]
  by_cases ho : f.off = g.off
  · rcases hd with hd | ⟨hd, hg⟩
    · exact absurd ho hd
    · simp [ho, fieldOf_fieldPut_disjoint f g _ x hd hg]
  · simp [ho]

/-! Tiles. -/

@[simp] theorem State.tile_setTile_self (s : State) (n : TileIx) (t : TileSt) : (s.setTile n t).tile n = t := by
  simp [State.tile, State.setTile]

theorem State.tile_setTile_ne (s : State) (n m : TileIx) (t : TileSt) (h : n ≠ m) : (s.setTile n t).tile m = s.tile m := by
  have hv : n.val ≠ m.val := fun e => h (Fin.ext e)
  simp [State.tile, State.setTile, hv]

@[simp] theorem State.tile_modTile_self (s : State) (n : TileIx) (f : TileSt → TileSt) : (s.modTile n f).tile n = f (s.tile n) := by
  simp [State.modTile]

theorem State.tile_modTile_ne (s : State) (n m : TileIx) (f : TileSt → TileSt) (h : n ≠ m) : (s.modTile n f).tile m = s.tile m := by
  simp [State.modTile, State.tile_setTile_ne _ _ _ _ h]

@[simp] theorem State.chan_setChan_self (s : State) (c : MbxIx) (m : MbxChan) : (s.setChan c m).chan c = m := by
  simp [State.chan, State.setChan]

theorem State.chan_setChan_ne (s : State) (c e : MbxIx) (m : MbxChan) (h : c ≠ e) : (s.setChan c m).chan e = s.chan e := by
  have hv : c.val ≠ e.val := fun x => h (Fin.ext x)
  simp [State.chan, State.setChan, hv]

end Sys2Proof.Machine
end

