-- ==== Sys2Proof/Laws/Keeps.lean ====
section
/-! SUPPORT. What every operation of the machine keeps, whatever it does: the queue of waiting commands is not touched, what was sent stays sent,
the memories stay in canonical form, and the parts of the state that the operation does not write are as they were. One lemma per primitive
update; the files after this one carry it to every shared operation, each lemma with the list of the parts its operation may write. -/

namespace Sys2Proof.Machine

set_option Elab.async false

theorem Same.refl {L : List Piece} (s : State) : Same L s s := by constructor <;> exact fun _ => rfl

theorem Same.trans {L : List Piece} {s t u : State} (h : Same L s t) (k : Same L t u) : Same L s u where
  regs n := (k.regs n).trans (h.regs n)
  time n := (k.time n).trans (h.time n)
  start n := (k.start n).trans (h.start n)
  flash n := (k.flash n).trans (h.flash n)
  wb n := (k.wb n).trans (h.wb n)
  ledger n := (k.ledger n).trans (h.ledger n)
  power n := (k.power n).trans (h.power n)
  period n := (k.period n).trans (h.period n)
  seals n := (k.seals n).trans (h.seals n)
  ladder n := (k.ladder n).trans (h.ladder n)
  mem n := (k.mem n).trans (h.mem n)
  tiles n := (k.tiles n).trans (h.tiles n)
  coll n := (k.coll n).trans (h.coll n)
  mbx n := (k.mbx n).trans (h.mbx n)
  flt n := (k.flt n).trans (h.flt n)
  cast n := (k.cast n).trans (h.cast n)
  perf n := (k.perf n).trans (h.perf n)
  sent n := (k.sent n).trans (h.sent n)
  stalled n := (k.stalled n).trans (h.stalled n)
  stallReq n := (k.stallReq n).trans (h.stallReq n)
  free n := (k.free n).trans (h.free n)

theorem Same.mono {L M : List Piece} {s t : State} (hL : M ⊆ L) (h : Same M s t) : Same L s t where
  regs n := h.regs (fun m => n (hL m))
  time n := h.time (fun m => n (hL m))
  start n := h.start (fun m => n (hL m))
  flash n := h.flash (fun m => n (hL m))
  wb n := h.wb (fun m => n (hL m))
  ledger n := h.ledger (fun m => n (hL m))
  power n := h.power (fun m => n (hL m))
  period n := h.period (fun m => n (hL m))
  seals n := h.seals (fun m => n (hL m))
  ladder n := h.ladder (fun m => n (hL m))
  mem n := h.mem (fun m => n (hL m))
  tiles n := h.tiles (fun m => n (hL m))
  coll n := h.coll (fun m => n (hL m))
  mbx n := h.mbx (fun m => n (hL m))
  flt n := h.flt (fun m => n (hL m))
  cast n := h.cast (fun m => n (hL m))
  perf n := h.perf (fun m => n (hL m))
  sent n := h.sent (fun m => n (hL m))
  stalled n := h.stalled (fun m => n (hL m))
  stallReq n := h.stallReq (fun m => n (hL m))
  free n := h.free (fun m => n (hL m))

/-- An update that writes parts of `M` alone. -/
theorem Same.upd {L M : List Piece} {σ s t : State} (hL : M ⊆ L) (h : Same L σ s)
    (k : Same M s t := by constructor <;> first | exact fun h => (h (by decide)).elim | exact fun _ => rfl) : Same L σ t :=
  h.trans (k.mono hL)

/-- From `s` to `t` the queue of commands is untouched, the outputs only grow, canonical memories stay canonical, and only parts of `L` are
written. -/
structure Keeps (L : List Piece) (s t : State) : Prop where
  pending : t.pending = s.pending
  sent : s.sent <:+ t.sent
  memWf : s.memWf = true → t.memWf = true
  same : Same L s t

theorem Keeps.refl {L : List Piece} (s : State) : Keeps L s s := ⟨rfl, List.suffix_refl _, id, Same.refl s⟩

theorem Keeps.trans {L : List Piece} {s t u : State} (h : Keeps L s t) (k : Keeps L t u) : Keeps L s u :=
  ⟨k.pending.trans h.pending, h.sent.trans k.sent, fun m => k.memWf (h.memWf m), h.same.trans k.same⟩

/-- An update of parts that hold neither a memory, the queue nor the outputs. -/
theorem Keeps.upd {L M : List Piece} {σ s t : State} (hL : M ⊆ L) (h : Keeps L σ s)
    (h1 : t.regs = s.regs := by rfl) (h2 : t.mem.dram = s.mem.dram := by rfl) (h3 : t.mem.poison = s.mem.poison := by rfl)
    (h4 : t.tiles = s.tiles := by rfl) (h5 : t.pending = s.pending := by rfl) (h6 : t.sent = s.sent := by rfl)
    (k : Same M s t := by constructor <;> first | exact fun h => (h (by decide)).elim | exact fun _ => rfl) : Keeps L σ t where
  pending := h5.trans h.pending
  sent := h6 ▸ h.sent
  memWf m := by
    have k := h.memWf m
    simp only [State.memWf, MemSt.wf] at k ⊢
    rw [h1, h2, h3, h4]
    exact k
  same := h.same.upd hL k

/-- An update that empties bonded memory. -/
theorem Keeps.clearMem {L M : List Piece} {σ s t : State} (hL : M ⊆ L) (h : Keeps L σ s) (h1 : t.regs = s.regs := by rfl)
    (h2 : t.mem.dram = [] := by rfl) (h3 : t.mem.poison = [] := by rfl) (h4 : t.tiles = s.tiles := by rfl)
    (h5 : t.pending = s.pending := by rfl) (h6 : t.sent = s.sent := by rfl)
    (k : Same M s t := by constructor <;> first | exact fun h => (h (by decide)).elim | exact fun _ => rfl) : Keeps L σ t where
  pending := h5.trans h.pending
  sent := h6 ▸ h.sent
  memWf m := by
    have k := h.memWf m
    simp only [State.memWf, MemSt.wf, Bool.and_eq_true] at k ⊢
    rw [h1, h2, h3, h4]
    exact ⟨⟨k.1.1, rfl, rfl⟩, k.2⟩
  same := h.same.upd hL k

theorem State.wr_keeps {L : List Piece} {σ s : State} (hL : [Piece.regs] ⊆ L) (h : Keeps L σ s) (o : Nat) (v : U64) : Keeps L σ (s.wr o v) where
  pending := h.pending
  sent := h.sent
  memWf m := by
    have k := h.memWf m
    simp only [State.memWf, State.wr, Bool.and_eq_true] at k ⊢
    exact ⟨⟨Sparse.put_canonical k.1.1, k.1.2⟩, k.2⟩
  same := h.same.upd hL

theorem State.send_keeps {L : List Piece} {σ s : State} (hL : [Piece.sent] ⊆ L) (h : Keeps L σ s) (x : Out) : Keeps L σ (s.send x) :=
  ⟨h.pending, h.sent.trans (List.suffix_cons _ _), h.memWf, h.same.upd hL⟩

/-- An update of parts of a tile that hold no memory. -/
theorem TileSt.wf_upd {t u : TileSt} (h1 : u.mem = t.mem) (h2 : u.poison = t.poison) (h : t.wf = true) : u.wf = true := by
  unfold TileSt.wf at *
  rw [h1, h2]
  exact h

theorem TileSt.all_wf (v : Vector TileSt 64) : v.all TileSt.wf = true ↔ ∀ i : TileIx, v[i].wf = true := by
  simp only [Vector.all_eq_true]
  exact ⟨fun h i => h i.val i.isLt, fun h i hi => h ⟨i, hi⟩⟩

theorem State.memWf_tile {s : State} (h : s.memWf = true) (n : TileIx) : (s.tile n).wf = true := by
  simp only [State.memWf, Bool.and_eq_true] at h
  exact (TileSt.all_wf _).1 h.2 n

theorem State.setTile_keeps {L : List Piece} {σ s : State} (hL : [Piece.tiles] ⊆ L) (h : Keeps L σ s) (n : TileIx) (t : TileSt)
    (ht : s.memWf = true → t.wf = true) : Keeps L σ (s.setTile n t) where
  pending := h.pending
  sent := h.sent
  memWf m := by
    have k := h.memWf m
    have w := ht k
    simp only [State.memWf, State.setTile, Bool.and_eq_true] at k ⊢
    refine ⟨k.1, (TileSt.all_wf _).2 fun i => ?_⟩
    have := (TileSt.all_wf _).1 k.2 i
    by_cases hi : n.val = i.val
    · simp [hi, w]
    · simpa [hi] using this
  same := h.same.upd hL

theorem State.modTile_keeps {L : List Piece} {σ s : State} (hL : [Piece.tiles] ⊆ L) (h : Keeps L σ s) (n : TileIx) (f : TileSt → TileSt)
    (hf : ∀ t, t.wf = true → (f t).wf = true) : Keeps L σ (s.modTile n f) :=
  State.setTile_keeps hL h n _ (fun m => hf _ (State.memWf_tile m n))

theorem State.modTiles_keeps {L : List Piece} {σ s : State} (hL : [Piece.tiles] ⊆ L) (h : Keeps L σ s) (f : TileSt → TileSt)
    (hf : ∀ t, t.wf = true → (f t).wf = true) : Keeps L σ (s.modTiles f) where
  pending := h.pending
  sent := h.sent
  memWf m := by
    have k := h.memWf m
    simp only [State.memWf, State.modTiles, Bool.and_eq_true] at k ⊢
    refine ⟨k.1, (TileSt.all_wf _).2 fun i => ?_⟩
    have := hf _ ((TileSt.all_wf _).1 k.2 i)
    simpa using this
  same := h.same.upd hL

theorem ite_keeps {L : List Piece} {σ a b : State} {c : Prop} [Decidable c] (ha : Keeps L σ a) (hb : Keeps L σ b) : Keeps L σ (if c then a else b) := by
  split
  · exact ha
  · exact hb

theorem ite1_keeps {L : List Piece} {β : Type} {σ : State} {a b : State × β} {c : Prop} [Decidable c] (ha : Keeps L σ a.1) (hb : Keeps L σ b.1) :
    Keeps L σ (if c then a else b).1 := by
  split
  · exact ha
  · exact hb

/-! Folds. -/

theorem foldl_keeps {L : List Piece} {α : Type} {σ : State} (f : State → α → State) (hf : ∀ s a, Keeps L σ s → Keeps L σ (f s a)) (l : List α) {s : State}
    (h : Keeps L σ s) : Keeps L σ (l.foldl f s) := by
  induction l generalizing s with
  | nil => exact h
  | cons a l ih => exact ih (hf _ _ h)

theorem State.forEach_keeps {L : List Piece} {α : Type} {σ : State} (f : State → α → State) (hf : ∀ s a, Keeps L σ s → Keeps L σ (f s a)) (l : List α) {s : State}
    (h : Keeps L σ s) : Keeps L σ (s.forEach l f) := foldl_keeps f hf l h

/-- A fold whose accumulator begins with the state. -/
theorem foldl1_keeps {L : List Piece} {α β : Type} {σ : State} (f : State × β → α → State × β) (hf : ∀ p a, Keeps L σ p.1 → Keeps L σ (f p a).1) (l : List α)
    {p : State × β} (h : Keeps L σ p.1) : Keeps L σ (l.foldl f p).1 := by
  induction l generalizing p with
  | nil => exact h
  | cons a l ih => exact ih (hf _ _ h)

end Sys2Proof.Machine
end

