-- ==== Sys2Proof/Laws/Fields.lean ====
section
/-! SUPPORT. Reads of registers and fields after the operations that set them, and the frame of a set. -/

namespace Sys2Proof.Machine

theorem State.regsOk_of_memWf {s : State} (h : s.memWf = true) : s.regsOk := by
  simp only [State.memWf, Sparse.canonical, Bool.and_eq_true] at h
  exact h.1.1.1

theorem fieldsBut.refl (l : List Field) (s : State) : fieldsBut l s s := fun _ _ _ => rfl

theorem fieldsBut.trans {l : List Field} {s t u : State} (h : fieldsBut l s t) (k : fieldsBut l t u) : fieldsBut l s u :=
  fun f hf ha => (k f hf ha).trans (h f hf ha)

theorem fieldsBut.of_regs {l : List Field} {s t : State} (h : t.regs = s.regs) : fieldsBut l s t :=
  fun f _ _ => by simp only [State.get, State.rd, h]

theorem fieldsBut.set {l : List Field} {s : State} (h : s.regsOk) (g : Field) (x : Nat) (hg : g ∈ l) : fieldsBut l s (s.set g x) := by
  intro f hf ha
  apply State.get_set_other _ _ _ _ h
  rcases ha g hg with h | h | h
  · exact .inl (Ne.symm h)
  · exact .inr ⟨.inl h, hf⟩
  · exact .inr ⟨.inr h, hf⟩

theorem regsBut.refl (w : Nat → Prop) (s : State) : regsBut w s s := fun _ _ => rfl

theorem regsBut.trans {w : Nat → Prop} {s t u : State} (h : regsBut w s t) (k : regsBut w t u) : regsBut w s u :=
  fun o ho => (k o ho).trans (h o ho)

theorem regsBut.wr {w : Nat → Prop} {s : State} (h : s.regsOk) (o : Nat) (v : U64) (ho : w o) : regsBut w s (s.wr o v) := by
  intro o' ho'
  rw [State.rd_wr _ _ _ _ h, if_neg]
  rintro rfl
  exact ho' ho

theorem regsBut.set {w : Nat → Prop} {s : State} (h : s.regsOk) (f : Field) (x : Nat) (hf : w f.off) : regsBut w s (s.set f x) :=
  regsBut.wr h _ _ hf

theorem regsBut.get {w : Nat → Prop} {s t : State} (h : regsBut w s t) (f : Field) (hf : ¬ w f.off) : t.get f = s.get f := by
  simp only [State.get, h f.off hf]

theorem State.get_congr {s t : State} (h : t.regs = s.regs) (f : Field) : t.get f = s.get f := by
  simp only [State.get, State.rd, h]

theorem State.get_set {s : State} (f : Field) (x : Nat) (h : s.regsOk) (hf : f.lo + f.w ≤ 64 := by decide) (hx : x < 2 ^ f.w := by decide) :
    (s.set f x).get f = x := by
  rw [State.get_set_self _ _ _ h hf, Nat.mod_eq_of_lt hx]

theorem State.get_set_ne {s : State} (f g : Field) (x : Nat) (h : s.regsOk) (hd : g.apart f) (hg : g.lo + g.w ≤ 64 := by decide) :
    (s.set f x).get g = s.get g := by
  apply State.get_set_other _ _ _ _ h
  rcases hd with h | h | h
  · exact .inl (Ne.symm h)
  · exact .inr ⟨.inl h, hg⟩
  · exact .inr ⟨.inr h, hg⟩

end Sys2Proof.Machine
end

