-- ==== Sys2Proof/Laws/KeepsOps.lean ====
section
/-! SUPPORT. What the operations of Machine/Ops.lean keep: the queue of commands, what was sent, canonical memories, and the parts of the state
they do not write. -/

namespace Sys2Proof.Machine

set_option Elab.async false

theorem State.advanceOsc_keeps {L : List Piece} {σ : State} {s : State} (hL : ([.time, .ledger] : List Piece) ⊆ L) (hs : Keeps L σ s) (n : Nat) : Keeps L σ (State.advanceOsc s n) := by
  unfold State.advanceOsc
  extract_lets core fab src src1'
  refine Keeps.upd (s := s) hL ?_
  assumption

theorem State.set_keeps {L : List Piece} {σ : State} {s : State} (hL : ([.regs] : List Piece) ⊆ L) (hs : Keeps L σ s) (f : Field) (x : Nat) : Keeps L σ (State.set s f x) := by
  unfold State.set
  apply State.wr_keeps (List.Subset.trans (by decide) hL)
  assumption

theorem State.setDom_keeps {L : List Piece} {σ : State} {s : State} (hL : ([.regs] : List Piece) ⊆ L) (hs : Keeps L σ s) (d : Nat) (st : Nat) : Keeps L σ (State.setDom s d st) := by
  unfold State.setDom
  apply State.set_keeps (List.Subset.trans (by decide) hL)
  assumption

theorem State.setDomReq_keeps {L : List Piece} {σ : State} {s : State} (hL : ([.regs] : List Piece) ⊆ L) (hs : Keeps L σ s) (d : Nat) (st : Nat) : Keeps L σ (State.setDomReq s d st) := by
  unfold State.setDomReq
  apply State.set_keeps (List.Subset.trans (by decide) hL)
  assumption

theorem State.allOff_keeps {L : List Piece} {σ : State} {s : State} (hL : ([.regs, .start, .flash, .power, .period, .seals, .mem, .tiles, .coll, .flt, .cast, .stalled] : List Piece) ⊆ L) (hs : Keeps L σ s) (keep : List Nat) : Keeps L σ (State.allOff s keep) := by
  unfold State.allOff
  extract_lets s1 s2 s3 keepNand
  have h3 : Keeps L σ s3 := by
    apply State.set_keeps (List.Subset.trans (by decide) hL)
    iterate 4 apply State.set_keeps (List.Subset.trans (by decide) hL)
    refine State.forEach_keeps _ ?_ _ hs
    intro s d hd
    split
    · exact hd
    · exact State.setDomReq_keeps (List.Subset.trans (by decide) hL) (State.setDom_keeps (List.Subset.trans (by decide) hL) hd _ _) _ _
  clear_value s3
  refine ⟨h3.pending, h3.sent, fun m => ?_, h3.same.upd hL⟩
  have k := h3.memWf m
  simp only [State.memWf, Bool.and_eq_true] at k ⊢
  exact ⟨⟨k.1.1, rfl⟩, (TileSt.all_wf _).2 fun i => by simp [TileSt.init, TileSt.wf, Sparse.sorted, NatSet.sorted]⟩

theorem State.setMsix_keeps {L : List Piece} {σ : State} {s : State} (hL : ([.start] : List Piece) ⊆ L) (hs : Keeps L σ s) (fn1 : Bool) (x : MsixSt) : Keeps L σ (State.setMsix s fn1 x) := by
  unfold State.setMsix
  refine Keeps.upd (s := s) hL ?_
  assumption

theorem State.msi_keeps {L : List Piece} {σ : State} {s : State} (hL : ([.start, .sent] : List Piece) ⊆ L) (hs : Keeps L σ s) (fn1 : Bool) (v : Nat) : Keeps L σ (State.msi s fn1 v) := by
  unfold State.msi
  extract_lets x
  refine ite_keeps ?_ ?_
  · assumption
  · refine ite_keeps ?_ ?_
    · apply State.setMsix_keeps (List.Subset.trans (by decide) hL)
      assumption
    · apply State.send_keeps (List.Subset.trans (by decide) hL)
      assumption

theorem State.mbxVector_keeps {L : List Piece} {σ : State} {s : State} (hL : ([.start, .sent] : List Piece) ⊆ L) (hs : Keeps L σ s) (c : MbxIx) : Keeps L σ (State.mbxVector s c) := by
  unfold State.mbxVector
  refine ite_keeps ?_ ?_
  · apply State.msi_keeps (List.Subset.trans (by decide) hL)
    assumption
  · refine ite_keeps ?_ ?_
    · apply State.msi_keeps (List.Subset.trans (by decide) hL)
      assumption
    · assumption

theorem State.setChan_keeps {L : List Piece} {σ : State} {s : State} (hL : ([.mbx] : List Piece) ⊆ L) (hs : Keeps L σ s) (c : MbxIx) (m : MbxChan) : Keeps L σ (State.setChan s c m) := by
  unfold State.setChan
  refine Keeps.upd (s := s) hL ?_
  assumption

theorem State.arrivedA_keeps {L : List Piece} {σ : State} {s : State} (hL : ([.start, .mbx, .sent] : List Piece) ⊆ L) (hs : Keeps L σ s) (c : MbxIx) : Keeps L σ (State.arrivedA s c) := by
  unfold State.arrivedA
  extract_lets m src src1' s1
  have hs1 : Keeps L σ s1 := by
    unfold s1
    apply State.setChan_keeps (List.Subset.trans (by decide) hL)
    assumption
  clear_value s1
  refine ite_keeps ?_ ?_
  · assumption
  · apply State.mbxVector_keeps (List.Subset.trans (by decide) hL)
    assumption

theorem State.bindWork_keeps {L : List Piece} {σ : State} {s : State} (hL : ([.period] : List Piece) ⊆ L) (hs : Keeps L σ s) : Keeps L σ (State.bindWork s) := by
  unfold State.bindWork
  refine Keeps.upd (s := s) hL ?_
  assumption

theorem State.bump_keeps {L : List Piece} {σ : State} {s : State} (hL : ([.regs] : List Piece) ⊆ L) (hs : Keeps L σ s) (f : Field) (n : Nat) : Keeps L σ (State.bump s f n) := by
  unfold State.bump
  apply State.set_keeps (List.Subset.trans (by decide) hL)
  assumption

theorem State.flag_keeps {L : List Piece} {σ : State} {s : State} (hL : ([.regs] : List Piece) ⊆ L) (hs : Keeps L σ s) (f : Field) : Keeps L σ (State.flag s f) := by
  unfold State.flag
  apply State.set_keeps (List.Subset.trans (by decide) hL)
  assumption

theorem State.cause_keeps {L : List Piece} {σ : State} {s : State} (hL : ([.regs, .start, .sent] : List Piece) ⊆ L) (hs : Keeps L σ s) (f : Field) (fn1 : Bool) (v : Nat) : Keeps L σ (State.cause s f fn1 v) := by
  unfold State.cause
  refine ite_keeps ?_ ?_
  · assumption
  · apply State.msi_keeps (List.Subset.trans (by decide) hL)
    apply State.flag_keeps (List.Subset.trans (by decide) hL)
    assumption

theorem State.coreRestart_keeps {L : List Piece} {σ : State} {s : State} (hL : ([.regs] : List Piece) ⊆ L) (hs : Keeps L σ s) : Keeps L σ (State.coreRestart s) := by
  unfold State.coreRestart
  refine ite_keeps ?_ ?_
  · apply State.flag_keeps (List.Subset.trans (by decide) hL)
    apply State.set_keeps (List.Subset.trans (by decide) hL)
    assumption
  · assumption

theorem State.stopWaking_keeps {L : List Piece} {σ : State} {s : State} (hL : ([.power] : List Piece) ⊆ L) (hs : Keeps L σ s) (d : Nat) : Keeps L σ (State.stopWaking s d) := by
  unfold State.stopWaking
  refine Keeps.upd (s := s) hL ?_
  assumption

theorem State.flagIf_keeps {L : List Piece} {σ : State} {s : State} (hL : ([.regs] : List Piece) ⊆ L) (hs : Keeps L σ s) (b : Bool) (f : Field) : Keeps L σ (State.flagIf s b f) := by
  unfold State.flagIf
  refine ite_keeps ?_ ?_
  · apply State.flag_keeps (List.Subset.trans (by decide) hL)
    assumption
  · assumption

theorem State.domOn_keeps {L : List Piece} {σ : State} {s : State} (hL : ([.regs, .power] : List Piece) ⊆ L) (hs : Keeps L σ s) (d : Nat) : Keeps L σ (State.domOn s d) := by
  unfold State.domOn
  apply State.flagIf_keeps (List.Subset.trans (by decide) hL)
  apply State.setDom_keeps (List.Subset.trans (by decide) hL)
  apply State.stopWaking_keeps (List.Subset.trans (by decide) hL)
  assumption

theorem State.dropUpload_keeps {L : List Piece} {σ : State} {s : State} (hL : ([.start] : List Piece) ⊆ L) (hs : Keeps L σ s) : Keeps L σ (State.dropUpload s) := by
  unfold State.dropUpload
  refine Keeps.upd (s := s) hL ?_
  assumption

theorem State.emptiedA_keeps {L : List Piece} {σ : State} {s : State} (hL : ([.start, .mbx, .sent] : List Piece) ⊆ L) (hs : Keeps L σ s) (c : MbxIx) : Keeps L σ (State.emptiedA s c) := by
  unfold State.emptiedA
  extract_lets m src
  refine ite_keeps ?_ ?_
  · assumption
  · apply State.mbxVector_keeps (List.Subset.trans (by decide) hL)
    apply State.setChan_keeps (List.Subset.trans (by decide) hL)
    assumption

theorem State.failTile_keeps {L : List Piece} {σ : State} {s : State} (hL : ([.tiles] : List Piece) ⊆ L) (hs : Keeps L σ s) (n : TileIx) : Keeps L σ (State.failTile s n) := by
  unfold State.failTile
  apply State.modTile_keeps (List.Subset.trans (by decide) hL)
  · assumption
  · exact fun t ht => TileSt.wf_upd (t := t) rfl rfl ht

theorem State.wakeEvent_keeps {L : List Piece} {σ : State} {s : State} (hL : ([.regs] : List Piece) ⊆ L) (hs : Keeps L σ s) (d : Nat) (code : Nat) : Keeps L σ (State.wakeEvent s d code) := by
  unfold State.wakeEvent
  apply State.coreRestart_keeps (List.Subset.trans (by decide) hL)
  apply State.bump_keeps (List.Subset.trans (by decide) hL)
  apply State.set_keeps (List.Subset.trans (by decide) hL)
  assumption

theorem State.flashAccess_keeps {L : List Piece} {σ : State} {s : State} (hL : ([.regs] : List Piece) ⊆ L) (hs : Keeps L σ s) : Keeps L σ (State.flashAccess s) := by
  unfold State.flashAccess
  refine ite_keeps ?_ ?_
  · apply State.wakeEvent_keeps (List.Subset.trans (by decide) hL)
    assumption
  · assumption

theorem State.mailToA_keeps {L : List Piece} {σ : State} {s : State} (hL : ([.start, .mbx, .sent] : List Piece) ⊆ L) (hs : Keeps L σ s) (c : MbxIx) (bytes : List Byte) : Keeps L σ (State.mailToA s c bytes) := by
  unfold State.mailToA
  extract_lets m src
  apply State.arrivedA_keeps (List.Subset.trans (by decide) hL)
  apply State.setChan_keeps (List.Subset.trans (by decide) hL)
  assumption

theorem State.mailPump_keeps {L : List Piece} {σ : State} {s : State} (hL : ([.start, .mbx, .sent] : List Piece) ⊆ L) (hs : Keeps L σ s) (c : MbxIx) : Keeps L σ (State.mailPump s c) := by
  unfold State.mailPump
  extract_lets m
  refine ite_keeps ?_ ?_
  · assumption
  · split
    · apply State.mailToA_keeps (List.Subset.trans (by decide) hL)
      apply State.setChan_keeps (List.Subset.trans (by decide) hL)
      assumption
    · split
      · apply State.mailToA_keeps (List.Subset.trans (by decide) hL)
        apply State.setChan_keeps (List.Subset.trans (by decide) hL)
        assumption
      · assumption

theorem State.wake_keeps {L : List Piece} {σ : State} {s : State} (hL : ([.regs, .power] : List Piece) ⊆ L) (hs : Keeps L σ s) (d : Nat) (code : Nat) : Keeps L σ (State.wake s d code) := by
  unfold State.wake
  refine ite_keeps ?_ ?_
  · extract_lets s1 src
    have hs1 : Keeps L σ s1 := by
      unfold s1
      apply State.wakeEvent_keeps (List.Subset.trans (by decide) hL)
      assumption
    clear_value s1
    refine Keeps.upd (s := s1) hL ?_
    assumption
  · assumption

theorem State.memAwake_keeps {L : List Piece} {σ : State} {s : State} (hL : ([.regs, .power] : List Piece) ⊆ L) (hs : Keeps L σ s) (k : Nat) : Keeps L σ (State.memAwake s k) := by
  unfold State.memAwake
  refine ite_keeps ?_ ?_
  · apply State.domOn_keeps (List.Subset.trans (by decide) hL)
    apply State.wake_keeps (List.Subset.trans (by decide) hL)
    assumption
  · assumption

theorem State.minimalAnswer_keeps {L : List Piece} {σ : State} {s : State} (hL : ([.start, .mbx, .sent] : List Piece) ⊆ L) (hs : Keeps L σ s) (c : MbxIx) : Keeps L σ (State.minimalAnswer s c) := by
  unfold State.minimalAnswer
  extract_lets m tag src m'
  refine ite_keeps ?_ ?_
  · apply State.mailPump_keeps (List.Subset.trans (by decide) hL)
    apply State.emptiedA_keeps (List.Subset.trans (by decide) hL)
    apply State.setChan_keeps (List.Subset.trans (by decide) hL)
    assumption
  · assumption

theorem State.putBoot_keeps {L : List Piece} {σ : State} {s : State} (hL : ([.flash] : List Piece) ⊆ L) (hs : Keeps L σ s) (d : BootDir) : Keeps L σ (State.putBoot s d) := by
  unfold State.putBoot
  refine ite_keeps ?_ ?_
  · assumption
  · extract_lets i c src
    refine Keeps.upd (s := s) hL ?_
    assumption

theorem State.record_keeps {L : List Piece} {σ : State} {s : State} (hL : ([.tiles] : List Piece) ⊆ L) (hs : Keeps L σ s) (n : TileIx) (r : BitVec 256) : Keeps L σ (State.record s n r) := by
  unfold State.record
  apply State.modTile_keeps (List.Subset.trans (by decide) hL)
  · assumption
  · exact fun t ht => TileSt.wf_upd (t := t) rfl rfl ht

theorem State.setB_keeps {L : List Piece} {σ : State} {s : State} (hL : ([.regs] : List Piece) ⊆ L) (hs : Keeps L σ s) (f : Field) (b : Bool) : Keeps L σ (State.setB s f b) := by
  unfold State.setB
  apply State.set_keeps (List.Subset.trans (by decide) hL)
  assumption

theorem State.taintTile_keeps {L : List Piece} {σ : State} {s : State} (hL : ([.tiles] : List Piece) ⊆ L) (hs : Keeps L σ s) (n : TileIx) : Keeps L σ (State.taintTile s n) := by
  unfold State.taintTile
  apply State.modTile_keeps (List.Subset.trans (by decide) hL)
  · assumption
  · exact fun t ht => TileSt.wf_upd (t := t) rfl rfl ht

theorem State.writeLedger_keeps {L : List Piece} {σ : State} {s : State} (hL : ([.regs, .flash] : List Piece) ⊆ L) (hs : Keeps L σ s) : Keeps L σ (State.writeLedger s) := by
  unfold State.writeLedger
  extract_lets s1 src
  have hs1 : Keeps L σ s1 := by
    unfold s1
    apply State.flashAccess_keeps (List.Subset.trans (by decide) hL)
    assumption
  clear_value s1
  refine Keeps.upd (s := s1) hL ?_
  assumption

end Sys2Proof.Machine
end

