-- ==== Sys2Proof/Laws/KeepsQueues.lean ====
section
/-! SUPPORT. What the operations of Machine/Queues.lean keep: the queue of commands, what was sent, canonical memories, and the parts of the state
they do not write. -/

namespace Sys2Proof.Machine

set_option Elab.async false

theorem State.setDepths_keeps {L : List Piece} {σ : State} {s : State} (hL : ([.regs] : List Piece) ⊆ L) (hs : Keeps L σ s) (l : List Waiting) : Keeps L σ (State.setDepths s l) := by
  unfold State.setDepths
  refine State.forEach_keeps _ ?_ _ ?_
  · intro s1' a hs1'
    split
    · split
      · apply State.set_keeps (List.Subset.trans (by decide) hL)
        assumption
      · assumption
    · assumption
  · assumption

theorem State.dropWaiting_keeps {L : List Piece} {σ : State} {s : State} (hL : ([.regs, .stalled] : List Piece) ⊆ L) (hs : Keeps L σ s) (p : Waiting → Bool) : Keeps L σ (State.dropWaiting s p) := by
  unfold State.dropWaiting
  refine ite_keeps ?_ ?_
  · assumption
  · apply State.setDepths_keeps (List.Subset.trans (by decide) hL)
    refine Keeps.upd (s := s) hL ?_
    assumption

end Sys2Proof.Machine
end

