-- ==== Sys2Proof/Laws/KeepsFaultOps.lean ====
section
/-! SUPPORT. What the operations of Machine/FaultOps.lean keep: the queue of commands, what was sent, canonical memories, and the parts of the state
they do not write. -/

namespace Sys2Proof.Machine

set_option Elab.async false

theorem State.copyPause_keeps {L : List Piece} {σ : State} {s : State} (hL : ([.regs] : List Piece) ⊆ L) (hs : Keeps L σ s) : Keeps L σ (State.copyPause s) := by
  unfold State.copyPause
  refine ite_keeps ?_ ?_
  · assumption
  · extract_lets busy
    apply State.set_keeps (List.Subset.trans (by decide) hL)
    assumption

theorem State.setChState_keeps {L : List Piece} {σ : State} {s : State} (hL : ([.regs] : List Piece) ⊆ L) (hs : Keeps L σ s) (ch : Nat) (st : Nat) : Keeps L σ (State.setChState s ch st) := by
  unfold State.setChState
  apply State.set_keeps (List.Subset.trans (by decide) hL)
  assumption

theorem State.startMigration_keeps {L : List Piece} {σ : State} {s : State} (hL : ([.regs, .ledger] : List Piece) ⊆ L) (hs : Keeps L σ s) (src : Nat) (dst : Nat) : Keeps L σ (State.startMigration s src dst) := by
  unfold State.startMigration
  extract_lets s1 s2 s3 src1'
  have hs1 : Keeps L σ s1 := by
    unfold s1
    apply State.setChState_keeps (List.Subset.trans (by decide) hL)
    apply State.setChState_keeps (List.Subset.trans (by decide) hL)
    assumption
  clear_value s1
  have hs2 : Keeps L σ s2 := by
    unfold s2
    apply State.copyPause_keeps (List.Subset.trans (by decide) hL)
    apply State.set_keeps (List.Subset.trans (by decide) hL)
    apply State.set_keeps (List.Subset.trans (by decide) hL)
    apply State.set_keeps (List.Subset.trans (by decide) hL)
    apply State.set_keeps (List.Subset.trans (by decide) hL)
    apply State.set_keeps (List.Subset.trans (by decide) hL)
    assumption
  clear_value s2
  have hs3 : Keeps L σ s3 := by
    unfold s3
    apply State.set_keeps (List.Subset.trans (by decide) hL)
    assumption
  clear_value s3
  refine Keeps.upd (s := s3) hL ?_
  assumption

theorem State.chOut_keeps {L : List Piece} {σ : State} (hL : ([.regs, .start, .ledger, .sent] : List Piece) ⊆ L) {s0 : State} (hs0 : Keeps L σ s0) (ch : Nat) (dead : Bool) : Keeps L σ (State.chOut s0 ch dead) := by
  unfold State.chOut
  extract_lets s s1 s2 src
  have hs : Keeps L σ s := by
    unfold s
    refine ite_keeps ?_ ?_
    · apply State.set_keeps (List.Subset.trans (by decide) hL)
      assumption
    · assumption
  clear_value s
  have hs1 : Keeps L σ s1 := by
    unfold s1
    apply State.setChState_keeps (List.Subset.trans (by decide) hL)
    assumption
  clear_value s1
  have hs2 : Keeps L σ s2 := by
    unfold s2
    apply State.cause_keeps (List.Subset.trans (by decide) hL)
    apply State.flag_keeps (List.Subset.trans (by decide) hL)
    assumption
  clear_value s2
  refine Keeps.upd (s := s2) hL ?_
  assumption

theorem State.stopMigration_keeps {L : List Piece} {σ : State} {s : State} (hL : ([.regs, .ledger] : List Piece) ⊆ L) (hs : Keeps L σ s) (srcSt : Nat) (dstSt : Nat) : Keeps L σ (State.stopMigration s srcSt dstSt) := by
  unfold State.stopMigration
  extract_lets s1 s2 src
  have hs1 : Keeps L σ s1 := by
    unfold s1
    apply State.setChState_keeps (List.Subset.trans (by decide) hL)
    apply State.setChState_keeps (List.Subset.trans (by decide) hL)
    assumption
  clear_value s1
  have hs2 : Keeps L σ s2 := by
    unfold s2
    apply State.set_keeps (List.Subset.trans (by decide) hL)
    assumption
  clear_value s2
  refine Keeps.upd (s := s2) hL ?_
  assumption

theorem State.srcDied_keeps {L : List Piece} {σ : State} {s : State} (hL : ([.regs, .start, .ledger, .sent] : List Piece) ⊆ L) (hs : Keeps L σ s) : Keeps L σ (State.srcDied s) := by
  unfold State.srcDied
  extract_lets src dst p s1 s2 src1'
  have hs1 : Keeps L σ s1 := by
    unfold s1
    apply State.stopMigration_keeps (List.Subset.trans (by decide) hL)
    assumption
  clear_value s1
  have hs2 : Keeps L σ s2 := by
    unfold s2
    apply State.cause_keeps (List.Subset.trans (by decide) hL)
    apply State.flag_keeps (List.Subset.trans (by decide) hL)
    assumption
  clear_value s2
  split
  · refine Keeps.upd (s := s2) hL ?_
    assumption
  · assumption

theorem State.dstLost_keeps {L : List Piece} {σ : State} {s : State} (hL : ([.regs, .start, .ledger, .sent] : List Piece) ⊆ L) (hs : Keeps L σ s) : Keeps L σ (State.dstLost s) := by
  unfold State.dstLost
  extract_lets src
  refine Keeps.upd (s := (s.stopMigration 0 4).chOut src false) hL ?_
  apply State.chOut_keeps (List.Subset.trans (by decide) hL)
  apply State.stopMigration_keeps (List.Subset.trans (by decide) hL)
  assumption

theorem State.enterMinimal_keeps {L : List Piece} {σ : State} {s : State} (hL : ([.regs, .start, .flash, .power, .period, .seals, .mem, .tiles, .coll, .mbx, .flt, .cast, .sent, .stalled] : List Piece) ⊆ L) (hs : Keeps L σ s) (reason : Nat) : Keeps L σ (State.enterMinimal s reason) := by
  unfold State.enterMinimal
  extract_lets s1 s2 src s3
  have hs1 : Keeps L σ s1 := by
    unfold s1
    apply State.allOff_keeps (List.Subset.trans (by decide) hL)
    assumption
  clear_value s1
  have hs2 : Keeps L σ s2 := by
    unfold s2
    apply State.set_keeps (List.Subset.trans (by decide) hL)
    apply State.set_keeps (List.Subset.trans (by decide) hL)
    apply State.setDomReq_keeps (List.Subset.trans (by decide) hL)
    apply State.setDom_keeps (List.Subset.trans (by decide) hL)
    assumption
  clear_value s2
  have hs3 : Keeps L σ s3 := by
    unfold s3
    refine Keeps.upd (s := s2) hL ?_
    assumption
  clear_value s3
  refine State.forEach_keeps _ ?_ _ ?_
  · intro s1' a hs1'
    apply State.minimalAnswer_keeps (List.Subset.trans (by decide) hL)
    assumption
  · assumption

theorem State.mergeRec_keeps {L : List Piece} {σ : State} {s : State} (hL : ([.regs, .ledger] : List Piece) ⊆ L) (hs : Keeps L σ s) (r : ErrRec) : Keeps L σ (State.mergeRec s r) := by
  unfold State.mergeRec
  extract_lets s1
  have hs1 : Keeps L σ s1 := by
    unfold s1
    apply State.bump_keeps (List.Subset.trans (by decide) hL)
    assumption
  clear_value s1
  refine ite_keeps ?_ ?_
  · refine Keeps.upd (s := s1) hL ?_
    assumption
  · apply State.flag_keeps (List.Subset.trans (by decide) hL)
    assumption

theorem State.enqueue_keeps {L : List Piece} {σ : State} {s : State} (hL : ([.regs, .flt] : List Piece) ⊆ L) (hs : Keeps L σ s) (r : ErrRec) : Keeps L σ (State.enqueue s r) := by
  unfold State.enqueue
  extract_lets src s1 n
  have hs1 : Keeps L σ s1 := by
    unfold s1
    refine Keeps.upd (s := s) hL ?_
    assumption
  clear_value s1
  apply State.set_keeps (List.Subset.trans (by decide) hL)
  apply State.set_keeps (List.Subset.trans (by decide) hL)
  assumption

theorem State.enqueueOrMerge_keeps {L : List Piece} {σ : State} {s : State} (hL : ([.regs, .ledger, .flt] : List Piece) ⊆ L) (hs : Keeps L σ s) (r : ErrRec) : Keeps L σ (State.enqueueOrMerge s r) := by
  unfold State.enqueueOrMerge
  refine ite_keeps ?_ ?_
  · apply State.enqueue_keeps (List.Subset.trans (by decide) hL)
    assumption
  · refine ite_keeps ?_ ?_
    · apply State.mergeRec_keeps (List.Subset.trans (by decide) hL)
      assumption
    · split
      · apply State.enqueue_keeps (List.Subset.trans (by decide) hL)
        apply State.mergeRec_keeps (List.Subset.trans (by decide) hL)
        refine Keeps.upd (s := s) hL ?_
        assumption
      · apply State.mergeRec_keeps (List.Subset.trans (by decide) hL)
        assumption

theorem State.moduleFailed_keeps {L : List Piece} {σ : State} {s : State} (hL : ([.regs, .start, .flash, .ledger, .power, .period, .seals, .mem, .tiles, .coll, .mbx, .flt, .cast, .sent, .stalled] : List Piece) ⊆ L) (hs : Keeps L σ s) : Keeps L σ (State.moduleFailed s) := by
  unfold State.moduleFailed
  refine ite_keeps ?_ ?_
  · assumption
  · extract_lets s1 src s2
    have hs1 : Keeps L σ s1 := by
      unfold s1
      apply State.enqueueOrMerge_keeps (List.Subset.trans (by decide) hL)
      assumption
    clear_value s1
    have hs2 : Keeps L σ s2 := by
      unfold s2
      refine Keeps.upd (s := s1) hL ?_
      assumption
    clear_value s2
    apply State.enterMinimal_keeps (List.Subset.trans (by decide) hL)
    apply State.writeLedger_keeps (List.Subset.trans (by decide) hL)
    assumption

theorem State.engFencedFlag_keeps {L : List Piece} {σ : State} {s : State} (hL : ([.regs] : List Piece) ⊆ L) (hs : Keeps L σ s) (d : Nat) : Keeps L σ (State.engFencedFlag s d) := by
  unfold State.engFencedFlag
  refine ite_keeps ?_ ?_
  · apply State.flag_keeps (List.Subset.trans (by decide) hL)
    assumption
  · refine ite_keeps ?_ ?_
    · apply State.flag_keeps (List.Subset.trans (by decide) hL)
      assumption
    · refine ite_keeps ?_ ?_
      · apply State.flag_keeps (List.Subset.trans (by decide) hL)
        assumption
      · assumption

theorem State.fenceEng_keeps {L : List Piece} {σ : State} {s : State} (hL : ([.regs, .ledger, .tiles, .stalled] : List Piece) ⊆ L) (hs : Keeps L σ s) (d : Nat) : Keeps L σ (State.fenceEng s d) := by
  unfold State.fenceEng
  extract_lets v s1 s2 src s3 s4
  have hs1 : Keeps L σ s1 := by
    unfold s1
    apply State.wr_keeps (List.Subset.trans (by decide) hL)
    apply State.setDomReq_keeps (List.Subset.trans (by decide) hL)
    apply State.setDom_keeps (List.Subset.trans (by decide) hL)
    assumption
  clear_value s1
  have hs2 : Keeps L σ s2 := by
    unfold s2
    apply State.engFencedFlag_keeps (List.Subset.trans (by decide) hL)
    apply State.flag_keeps (List.Subset.trans (by decide) hL)
    apply State.bump_keeps (List.Subset.trans (by decide) hL)
    assumption
  clear_value s2
  have hs3 : Keeps L σ s3 := by
    unfold s3
    refine Keeps.upd (s := s2) hL ?_
    assumption
  clear_value s3
  have hs4 : Keeps L σ s4 := by
    unfold s4
    apply State.dropWaiting_keeps (List.Subset.trans (by decide) hL)
    assumption
  clear_value s4
  refine ite_keeps ?_ ?_
  · assumption
  · refine State.forEach_keeps _ ?_ _ ?_
    · intro s1' a hs1'
      refine ite_keeps ?_ ?_
      · apply State.failTile_keeps (List.Subset.trans (by decide) hL)
        assumption
      · assumption
    · assumption

theorem State.fenceChannel_keeps {L : List Piece} {σ : State} {s : State} (hL : ([.regs, .start, .ledger, .sent] : List Piece) ⊆ L) (hs : Keeps L σ s) (ch : Nat) (answers : Bool) : Keeps L σ (State.fenceChannel s ch answers) := by
  unfold State.fenceChannel
  extract_lets st
  refine ite_keeps ?_ ?_
  · assumption
  · refine ite_keeps ?_ ?_
    · refine ite_keeps ?_ ?_
      · apply State.cause_keeps (List.Subset.trans (by decide) hL)
        apply State.flag_keeps (List.Subset.trans (by decide) hL)
        apply State.setChState_keeps (List.Subset.trans (by decide) hL)
        assumption
      · apply State.srcDied_keeps (List.Subset.trans (by decide) hL)
        assumption
    · refine ite_keeps ?_ ?_
      · apply State.dstLost_keeps (List.Subset.trans (by decide) hL)
        assumption
      · apply State.chOut_keeps (List.Subset.trans (by decide) hL)
        assumption

theorem State.freeStage_keeps {L : List Piece} {σ : State} {s : State} (hL : ([.cast] : List Piece) ⊆ L) (hs : Keeps L σ s) (entries : Sparse Nat) : Keeps L σ (State.freeStage s entries) := by
  unfold State.freeStage
  refine State.forEach_keeps _ ?_ _ ?_
  · intro s1' a hs1'
    extract_lets k src
    split
    · refine Keeps.upd (s := s1') hL ?_
      assumption
    · assumption
  · assumption

theorem State.castSettle_keeps {L : List Piece} {σ : State} {s : State} (hL : ([.regs, .cast] : List Piece) ⊆ L) (hs : Keeps L σ s) : Keeps L σ (State.castSettle s) := by
  unfold State.castSettle
  split
  · assumption
  · extract_lets busy src
    refine ite_keeps ?_ ?_
    · assumption
    · apply State.set_keeps (List.Subset.trans (by decide) hL)
      apply State.freeStage_keeps (List.Subset.trans (by decide) hL)
      refine Keeps.upd (s := s) hL ?_
      assumption

theorem State.abandonPartnerTier_keeps {L : List Piece} {σ : State} {s : State} (hL : ([.regs, .cast] : List Piece) ⊆ L) (hs : Keeps L σ s) : Keeps L σ (State.abandonPartnerTier s) := by
  unfold State.abandonPartnerTier
  extract_lets s1 src
  have hs1 : Keeps L σ s1 := by
    unfold s1
    apply State.set_keeps (List.Subset.trans (by decide) hL)
    assumption
  clear_value s1
  split
  · split
    · apply State.castSettle_keeps (List.Subset.trans (by decide) hL)
      apply State.flag_keeps (List.Subset.trans (by decide) hL)
      refine Keeps.upd (s := s1) hL ?_
      assumption
    · assumption
  · assumption

theorem State.portDown_keeps {L : List Piece} {σ : State} {s : State} (hL : ([.regs, .flt, .cast] : List Piece) ⊆ L) (hs : Keeps L σ s) (p : Nat) : Keeps L σ (State.portDown s p) := by
  unfold State.portDown
  extract_lets s1 src s2
  have hs1 : Keeps L σ s1 := by
    unfold s1
    apply State.set_keeps (List.Subset.trans (by decide) hL)
    apply State.set_keeps (List.Subset.trans (by decide) hL)
    apply State.set_keeps (List.Subset.trans (by decide) hL)
    assumption
  clear_value s1
  have hs2 : Keeps L σ s2 := by
    unfold s2
    refine Keeps.upd (s := s1) hL ?_
    assumption
  clear_value s2
  refine ite_keeps ?_ ?_
  · apply State.abandonPartnerTier_keeps (List.Subset.trans (by decide) hL)
    assumption
  · assumption

theorem State.loseItems_keeps {L : List Piece} {σ : State} {s : State} (hL : ([.power] : List Piece) ⊆ L) (hs : Keeps L σ s) (n : Nat) : Keeps L σ (State.loseItems s n) := by
  unfold State.loseItems
  refine Keeps.upd (s := s) hL ?_
  assumption

theorem State.fenceMail_keeps {L : List Piece} {σ : State} {s : State} (hL : ([.mbx] : List Piece) ⊆ L) (hs : Keeps L σ s) (n : TileIx) : Keeps L σ (State.fenceMail s n) := by
  unfold State.fenceMail
  split
  · assumption
  · extract_lets m src src1' m1 src2' m2
    apply State.setChan_keeps (List.Subset.trans (by decide) hL)
    assumption

theorem State.fenceTile_keeps {L : List Piece} {σ : State} {s : State} (hL : ([.regs, .ledger, .power, .tiles, .mbx, .stalled] : List Piece) ⊆ L) (hs : Keeps L σ s) (n : TileIx) : Keeps L σ (State.fenceTile s n) := by
  unfold State.fenceTile
  split
  · exact hs
  · extract_lets s1 tiles s2 x s3 y s4
    have h2 : Keeps L σ s2 := by
      apply State.flag_keeps (List.Subset.trans (by decide) hL)
      apply State.bump_keeps (List.Subset.trans (by decide) hL)
      apply State.set_keeps (List.Subset.trans (by decide) hL)
      exact State.setDomReq_keeps (List.Subset.trans (by decide) hL) (State.setDom_keeps (List.Subset.trans (by decide) hL) hs _ _) _ _
    clear_value s2
    have h3 : Keeps L σ s3 := State.setTile_keeps (List.Subset.trans (by decide) hL) h2 _ _ (fun _ => rfl)
    clear_value s3
    exact State.fenceMail_keeps (List.Subset.trans (by decide) hL) (State.dropWaiting_keeps (List.Subset.trans (by decide) hL) (State.loseItems_keeps (List.Subset.trans (by decide) hL) (Keeps.upd (s := s3) (t := s4) hL h3) _) _) _

theorem State.fenceNow_keeps {L : List Piece} {σ : State} {s : State} (hL : ([.regs, .start, .ledger, .power, .tiles, .mbx, .flt, .cast, .sent, .stalled] : List Piece) ⊆ L) (hs : Keeps L σ s) (cls : Nat) (index : Nat) (answers : Bool) : Keeps L σ (State.fenceNow s cls index answers) := by
  unfold State.fenceNow
  refine ite_keeps ?_ ?_
  · split
    · apply State.fenceTile_keeps (List.Subset.trans (by decide) hL)
      assumption
    · assumption
  · refine ite_keeps ?_ ?_
    · apply State.flag_keeps (List.Subset.trans (by decide) hL)
      apply State.portDown_keeps (List.Subset.trans (by decide) hL)
      assumption
    · refine ite_keeps ?_ ?_
      · apply State.flag_keeps (List.Subset.trans (by decide) hL)
        apply State.fenceChannel_keeps (List.Subset.trans (by decide) hL)
        assumption
      · apply State.fenceEng_keeps (List.Subset.trans (by decide) hL)
        assumption

theorem State.postFull_keeps {L : List Piece} {σ : State} {s : State} (hL : ([.regs, .start, .flash, .ledger, .power, .period, .seals, .mem, .tiles, .coll, .mbx, .flt, .cast, .sent, .stalled] : List Piece) ⊆ L) (hs : Keeps L σ s) (cls : Nat) (index : Nat) (severity : Nat) (kind : Nat) (syndrome : Nat) (address : Nat) (count : Nat) (rflags : Nat) (answers : Bool) : Keeps L σ (State.postFull s cls index severity kind syndrome address count rflags answers) := by
  unfold State.postFull
  extract_lets r s0 busy lost stops fence flags s1 s2 s3 s4
  have hs0 : Keeps L σ s0 := by
    unfold s0
    apply State.wake_keeps (List.Subset.trans (by decide) hL)
    assumption
  clear_value s0
  have hs1 : Keeps L σ s1 := by
    unfold s1
    apply State.flagIf_keeps (List.Subset.trans (by decide) hL)
    assumption
  clear_value s1
  have hs2 : Keeps L σ s2 := by
    unfold s2
    refine ite_keeps ?_ ?_
    · apply State.fenceNow_keeps (List.Subset.trans (by decide) hL)
      assumption
    · assumption
  clear_value s2
  have hs3 : Keeps L σ s3 := by
    unfold s3
    apply State.enqueueOrMerge_keeps (List.Subset.trans (by decide) hL)
    assumption
  clear_value s3
  have hs4 : Keeps L σ s4 := by
    unfold s4
    refine ite_keeps ?_ ?_
    · apply State.writeLedger_keeps (List.Subset.trans (by decide) hL)
      assumption
    · assumption
  clear_value s4
  refine ite_keeps ?_ ?_
  · apply State.enqueueOrMerge_keeps (List.Subset.trans (by decide) hL)
    assumption
  · refine ite_keeps ?_ ?_
    · apply State.moduleFailed_keeps (List.Subset.trans (by decide) hL)
      assumption
    · assumption

theorem State.channelFails_keeps {L : List Piece} {σ : State} {s : State} (hL : ([.regs, .start, .flash, .ledger, .power, .period, .seals, .mem, .tiles, .coll, .mbx, .flt, .cast, .sent, .stalled] : List Piece) ⊆ L) (hs : Keeps L σ s) (ch : Nat) (answers : Bool) : Keeps L σ (State.channelFails s ch answers) := by
  unfold State.channelFails
  extract_lets st chanRec w src
  refine ite_keeps ?_ ?_
  · unfold chanRec
    apply State.postFull_keeps (List.Subset.trans (by decide) hL)
    apply State.dstLost_keeps (List.Subset.trans (by decide) hL)
    assumption
  · refine ite_keeps ?_ ?_
    · refine ite_keeps ?_ ?_
      · assumption
      · unfold chanRec
        apply State.postFull_keeps (List.Subset.trans (by decide) hL)
        apply State.srcDied_keeps (List.Subset.trans (by decide) hL)
        assumption
    · refine ite_keeps ?_ ?_
      · assumption
      · refine ite_keeps ?_ ?_
        · unfold chanRec
          apply State.postFull_keeps (List.Subset.trans (by decide) hL)
          apply State.chOut_keeps (List.Subset.trans (by decide) hL)
          assumption
        · refine ite_keeps ?_ ?_
          · refine ite_keeps ?_ ?_
            · assumption
            · apply State.set_keeps (List.Subset.trans (by decide) hL)
              refine Keeps.upd (s := s) hL ?_
              assumption
          · split
            · refine ite_keeps ?_ ?_
              · apply State.startMigration_keeps (List.Subset.trans (by decide) hL)
                assumption
              · unfold chanRec
                apply State.postFull_keeps (List.Subset.trans (by decide) hL)
                apply State.srcDied_keeps (List.Subset.trans (by decide) hL)
                apply State.startMigration_keeps (List.Subset.trans (by decide) hL)
                assumption
            · unfold chanRec
              apply State.postFull_keeps (List.Subset.trans (by decide) hL)
              apply State.chOut_keeps (List.Subset.trans (by decide) hL)
              assumption

theorem drainWaiting_keeps {L : List Piece} {σ : State} {s : State} (hL : ([.regs, .start, .flash, .ledger, .power, .period, .seals, .mem, .tiles, .coll, .mbx, .flt, .cast, .sent, .stalled] : List Piece) ⊆ L) (l : List Nat) (hs : Keeps L σ s) : Keeps L σ (drainWaiting l s) := by
  induction l generalizing s with
  | nil => exact hs
  | cons ch rest ih =>
    unfold drainWaiting
    split
    · exact hs
    · refine ih (State.channelFails_keeps (List.Subset.trans (by decide) hL) (State.set_keeps (List.Subset.trans (by decide) hL) ?_ _ _) _ _)
      exact Keeps.upd (s := s) hL hs

theorem State.drainMigrations_keeps {L : List Piece} {σ : State} {s : State} (hL : ([.regs, .start, .flash, .ledger, .power, .period, .seals, .mem, .tiles, .coll, .mbx, .flt, .cast, .sent, .stalled] : List Piece) ⊆ L) (hs : Keeps L σ s) : Keeps L σ (State.drainMigrations s) := by
  unfold State.drainMigrations
  apply drainWaiting_keeps (List.Subset.trans (by decide) hL)
  assumption

theorem State.fenceUnit_keeps {L : List Piece} {σ : State} {s : State} (hL : ([.regs, .start, .flash, .ledger, .power, .period, .seals, .mem, .tiles, .coll, .mbx, .flt, .cast, .sent, .stalled] : List Piece) ⊆ L) (hs : Keeps L σ s) (cls : Nat) (index : Nat) (kind : Nat) : Keeps L σ (State.fenceUnit s cls index kind) := by
  unfold State.fenceUnit
  extract_lets s1 s2 s3
  have hs1 : Keeps L σ s1 := by
    unfold s1
    apply State.fenceNow_keeps (List.Subset.trans (by decide) hL)
    assumption
  clear_value s1
  have hs2 : Keeps L σ s2 := by
    unfold s2
    apply State.postFull_keeps (List.Subset.trans (by decide) hL)
    assumption
  clear_value s2
  have hs3 : Keeps L σ s3 := by
    unfold s3
    apply State.writeLedger_keeps (List.Subset.trans (by decide) hL)
    assumption
  clear_value s3
  refine ite_keeps ?_ ?_
  · apply State.moduleFailed_keeps (List.Subset.trans (by decide) hL)
    assumption
  · assumption

theorem State.post_keeps {L : List Piece} {σ : State} {s : State} (hL : ([.regs, .start, .flash, .ledger, .power, .period, .seals, .mem, .tiles, .coll, .mbx, .flt, .cast, .sent, .stalled] : List Piece) ⊆ L) (hs : Keeps L σ s) (cls : Nat) (index : Nat) (severity : Nat) (kind : Nat) (syndrome : Nat) (address : Nat) : Keeps L σ (State.post s cls index severity kind syndrome address) := by
  unfold State.post
  apply State.postFull_keeps (List.Subset.trans (by decide) hL)
  assumption

end Sys2Proof.Machine
end

