-- ==== Sys2Proof/Laws/KeepsMemOps.lean ====
section
/-! SUPPORT. What the operations of Machine/MemOps.lean keep: the queue of commands, what was sent, canonical memories, and the parts of the state
they do not write. -/

namespace Sys2Proof.Machine

set_option Elab.async false

theorem State.accessGate_keeps {L : List Piece} {σ : State} {s : State} (hL : ([.regs, .power, .stallReq] : List Piece) ⊆ L) (hs : Keeps L σ s) (a : Nat) : Keeps L σ (State.accessGate s a) := by
  unfold State.accessGate
  split
  · refine ite_keeps ?_ ?_
    · extract_lets src
      have hsrc : Keeps L σ src := by
        unfold src
        apply State.flag_keeps (List.Subset.trans (by decide) hL)
        assumption
      clear_value src
      refine Keeps.upd (s := src) hL ?_
      assumption
    · extract_lets d src
      have hsrc : Keeps L σ src := by
        unfold src
        apply State.wake_keeps (List.Subset.trans (by decide) hL)
        assumption
      clear_value src
      refine ite_keeps ?_ ?_
      · assumption
      · refine Keeps.upd (s := src) hL ?_
        assumption
  · assumption

theorem State.setWc_keeps {L : List Piece} {σ : State} {s : State} (hL : ([.mem] : List Piece) ⊆ L) (hs : Keeps L σ s) (k : Nat) (l : List WcEntry) : Keeps L σ (State.setWc s k l) := by
  unfold State.setWc
  split
  · refine Keeps.upd (s := s) hL ?_
    assumption
  · assumption

theorem State.setPoison_keeps {L : List Piece} {σ : State} {s : State} (hL : ([.mem] : List Piece) ⊆ L) (hs : Keeps L σ s) (pl : Nat) (p : Bool) : Keeps L σ (State.setPoison s pl p) where
  pending := hs.pending
  sent := hs.sent
  memWf m := by
    have k := hs.memWf m
    simp only [State.memWf, MemSt.wf, State.setPoison, Bool.and_eq_true] at k ⊢
    refine ⟨⟨k.1.1, k.1.2.1, ?_⟩, k.2⟩
    split
    · exact NatSet.add_sorted k.1.2.2
    · exact NatSet.del_sorted k.1.2.2
  same := hs.same.upd hL

theorem State.uncorrectable_keeps {L : List Piece} {σ : State} {s : State} (hL : ([.regs, .start, .flash, .ledger, .power, .period, .seals, .mem, .tiles, .coll, .mbx, .flt, .cast, .sent, .stalled] : List Piece) ⊆ L) (hs : Keeps L σ s) (pl : Nat) (reread : Nat) (address : Nat) (persist : Bool) : Keeps L σ (State.uncorrectable s pl reread address persist) := by
  unfold State.uncorrectable
  extract_lets ch s1 src s2 s3
  have hs1 : Keeps L σ s1 := by
    unfold s1
    apply State.setPoison_keeps (List.Subset.trans (by decide) hL)
    apply State.bump_keeps (List.Subset.trans (by decide) hL)
    assumption
  clear_value s1
  have hs2 : Keeps L σ s2 := by
    unfold s2
    refine ite_keeps ?_ ?_
    · refine Keeps.upd (s := s1) hL ?_
      assumption
    · assumption
  clear_value s2
  have hs3 : Keeps L σ s3 := by
    unfold s3
    apply State.postFull_keeps (List.Subset.trans (by decide) hL)
    assumption
  clear_value s3
  refine ite_keeps ?_ ?_
  · apply State.channelFails_keeps (List.Subset.trans (by decide) hL)
    assumption
  · assumption

theorem State.corrected_keeps {L : List Piece} {σ : State} {s : State} (hL : ([.regs, .start, .flash, .ledger, .power, .period, .seals, .mem, .tiles, .coll, .mbx, .flt, .cast, .sent, .stalled] : List Piece) ⊆ L) (hs : Keeps L σ s) (ch : Nat) : Keeps L σ (State.corrected s ch) := by
  unfold State.corrected
  extract_lets src s1 s2
  have h1 : Keeps L σ s1 := Keeps.upd (s := s) hL hs
  have h2 : Keeps L σ s2 := State.set_keeps (List.Subset.trans (by decide) hL) h1 _ _
  split
  · exact State.channelFails_keeps (List.Subset.trans (by decide) hL) h2 _ _
  · exact h2

theorem State.meetErrors_keeps {L : List Piece} {σ : State} {s : State} (hL : ([.regs, .start, .flash, .ledger, .power, .period, .seals, .mem, .tiles, .coll, .mbx, .flt, .cast, .sent, .stalled] : List Piece) ⊆ L) (hs : Keeps L σ s) (pl : Nat) (address : Nat) (persist : Bool) (scrub : Bool) : Keeps L σ (State.meetErrors s pl address persist scrub) := by
  unfold State.meetErrors
  split
  · assumption
  · refine ite_keeps ?_ ?_
    · assumption
    · refine ite_keeps ?_ ?_
      · extract_lets src s1
        have hs1 : Keeps L σ s1 := by
          unfold s1
          refine ite_keeps ?_ ?_
          · refine Keeps.upd (s := s) hL ?_
            assumption
          · assumption
        clear_value s1
        apply State.corrected_keeps (List.Subset.trans (by decide) hL)
        assumption
      · apply State.uncorrectable_keeps (List.Subset.trans (by decide) hL)
        assumption

theorem State.putLine_keeps {L : List Piece} {σ : State} {s : State} (hL : ([.mem] : List Piece) ⊆ L) (hs : Keeps L σ s) (pl : Nat) (d : Sparse Byte) : Keeps L σ (State.putLine s pl d) where
  pending := hs.pending
  sent := hs.sent
  memWf m := by
    have k := hs.memWf m
    simp only [State.memWf, MemSt.wf, State.putLine, Bool.and_eq_true] at k ⊢
    exact ⟨⟨k.1.1, Sparse.splice_canonical pl d k.1.2.1, k.1.2.2⟩, k.2⟩
  same := hs.same.upd hL

theorem State.writeLine_keeps {L : List Piece} {σ : State} {s : State} (hL : ([.regs, .start, .flash, .ledger, .power, .period, .seals, .mem, .tiles, .coll, .mbx, .flt, .cast, .sent, .stalled] : List Piece) ⊆ L) (hs : Keeps L σ s) (q : Nat) (line : Nat) (d : Sparse Byte) (whole : Bool) (poison : Bool) : Keeps L σ (State.writeLine s q line d whole poison) := by
  unfold State.writeLine
  split
  · assumption
  · refine ite_keeps ?_ ?_
    · extract_lets src s1
      have hs1 : Keeps L σ s1 := by
        unfold s1
        refine Keeps.upd (s := s) hL ?_
        assumption
      clear_value s1
      apply State.setPoison_keeps (List.Subset.trans (by decide) hL)
      apply State.putLine_keeps (List.Subset.trans (by decide) hL)
      assumption
    · extract_lets s1 s2
      have hs1 : Keeps L σ s1 := by
        unfold s1
        apply State.meetErrors_keeps (List.Subset.trans (by decide) hL)
        assumption
      clear_value s1
      have hs2 : Keeps L σ s2 := by
        unfold s2
        apply State.putLine_keeps (List.Subset.trans (by decide) hL)
        assumption
      clear_value s2
      refine ite_keeps ?_ ?_
      · apply State.setPoison_keeps (List.Subset.trans (by decide) hL)
        assumption
      · assumption

theorem State.copyFrame_keeps {L : List Piece} {σ : State} {s : State} (hL : ([.regs, .start, .flash, .ledger, .power, .period, .seals, .mem, .tiles, .coll, .mbx, .flt, .cast, .sent, .stalled] : List Piece) ⊆ L) (hs : Keeps L σ s) (src : Nat) (dst : Nat) : Keeps L σ (State.copyFrame s src dst) := by
  unfold State.copyFrame
  refine State.forEach_keeps _ ?_ _ ?_
  · intro s1' a hs1'
    split
    · extract_lets s2' k
      have hs2' : Keeps L σ s2' := by
        unfold s2'
        apply State.memAwake_keeps (List.Subset.trans (by decide) hL)
        apply State.memAwake_keeps (List.Subset.trans (by decide) hL)
        assumption
      clear_value s2'
      split
      · apply State.writeLine_keeps (List.Subset.trans (by decide) hL)
        assumption
      · extract_lets s1 base d s2
        have hs1 : Keeps L σ s1 := by
          unfold s1
          apply State.meetErrors_keeps (List.Subset.trans (by decide) hL)
          assumption
        clear_value s1
        have hs2 : Keeps L σ s2 := by
          unfold s2
          apply State.setWc_keeps (List.Subset.trans (by decide) hL)
          assumption
        clear_value s2
        apply State.writeLine_keeps (List.Subset.trans (by decide) hL)
        assumption
    · assumption
  · assumption

theorem State.recompute_keeps {L : List Piece} {σ : State} {s : State} (hL : ([.regs, .mem] : List Piece) ⊆ L) (hs : Keeps L σ s) (layers : List (List (TileIx × Nat))) (t : Nat) (l : Nat) : Keeps L σ (State.recompute s layers t l) := by
  unfold State.recompute
  extract_lets base first between kept others src
  apply State.bump_keeps (List.Subset.trans (by decide) hL)
  refine Keeps.upd (s := s) hL ?_
  assumption

theorem State.stashPoison_keeps {L : List Piece} {σ : State} {s : State} (hL : ([.regs, .mem] : List Piece) ⊆ L) (hs : Keeps L σ s) (t : Nat) (l : Nat) : Keeps L σ (State.stashPoison s t l) := by
  unfold State.stashPoison
  apply State.recompute_keeps (List.Subset.trans (by decide) hL)
  apply State.bump_keeps (List.Subset.trans (by decide) hL)
  assumption

theorem State.countReload_keeps {L : List Piece} {σ : State} {s : State} (hL : ([.regs, .mem] : List Piece) ⊆ L) {before : State} (hs : Keeps L σ s) (n : TileIx) (a : Nat) (len : Nat) (hbefore : Keeps L σ before) : Keeps L σ (State.countReload s n a len before) := by
  unfold State.countReload
  split
  · refine ite_keeps ?_ ?_
    · apply State.stashPoison_keeps (List.Subset.trans (by decide) hL)
      assumption
    · assumption
  · assumption

theorem State.freeFrame_keeps {L : List Piece} {σ : State} {s : State} (hL : ([.mem] : List Piece) ⊆ L) (hs : Keeps L σ s) (f : Nat) : Keeps L σ (State.freeFrame s f) := by
  unfold State.freeFrame
  extract_lets k src
  split
  · refine Keeps.upd (s := s) hL ?_
    assumption
  · assumption

theorem State.dropShadows_keeps {L : List Piece} {σ : State} {s : State} (hL : ([.mem] : List Piece) ⊆ L) (hs : Keeps L σ s) : Keeps L σ (State.dropShadows s) := by
  unfold State.dropShadows
  extract_lets l src
  refine State.forEach_keeps _ ?_ _ ?_
  · intro s1' a hs1'
    apply State.freeFrame_keeps (List.Subset.trans (by decide) hL)
    assumption
  · refine Keeps.upd (s := s) hL ?_
    assumption

theorem State.touch_keeps {L : List Piece} {σ : State} {s : State} (hL : ([.mem] : List Piece) ⊆ L) (hs : Keeps L σ s) (a : Nat) (len : Nat) (write : Bool) : Keeps L σ (State.touch s a len write) := by
  unfold State.touch
  extract_lets hit src
  refine ite_keeps ?_ ?_
  · assumption
  · refine Keeps.upd (s := s) hL ?_
    assumption

theorem State.larderHeal_keeps {L : List Piece} {σ : State} {s : State} (hL : ([.regs, .mem, .tiles] : List Piece) ⊆ L) (hs : Keeps L σ s) (n : TileIx) (a : Nat) (len : Nat) : Keeps L σ (State.larderHeal s n a len) := by
  unfold State.larderHeal
  refine ite_keeps ?_ ?_
  · assumption
  · refine State.forEach_keeps _ ?_ _ ?_
    · intro s1' a1' hs1'
      refine State.modTile_keeps (List.Subset.trans (by decide) hL) (State.stashPoison_keeps (List.Subset.trans (by decide) hL) hs1' _ _) _ _ (fun t ht => ?_)
      simp only [TileSt.wf, Bool.and_eq_true] at ht ⊢
      exact ⟨ht.1, NatSet.filter_sorted _ ht.2⟩
    · assumption

theorem State.readDram_keeps {L : List Piece} {σ : State} (hL : ([.regs, .start, .flash, .ledger, .power, .period, .seals, .mem, .tiles, .coll, .mbx, .flt, .cast, .sent, .stalled] : List Piece) ⊆ L) {s0 : State} (hs0 : Keeps L σ s0) (q : Nat) (byte : Nat) (n : Nat) (address : Nat) (persist : Bool) : Keeps L σ (State.readDram s0 q byte n address persist).1 := by
  unfold State.readDram
  extract_lets line s
  have hs : Keeps L σ s := by
    unfold s
    apply State.memAwake_keeps (List.Subset.trans (by decide) hL)
    assumption
  clear_value s
  split
  · try dsimp only
    apply State.flag_keeps (List.Subset.trans (by decide) hL)
    assumption
  · extract_lets s1 base d bad
    have hs1 : Keeps L σ s1 := by
      unfold s1
      apply State.meetErrors_keeps (List.Subset.trans (by decide) hL)
      assumption
    clear_value s1
    try dsimp only
    apply State.flagIf_keeps (List.Subset.trans (by decide) hL)
    assumption

theorem State.unitRead1_keeps {L : List Piece} {σ : State} {s : State} (hL : ([.regs, .start, .flash, .ledger, .power, .period, .seals, .mem, .tiles, .coll, .mbx, .flt, .cast, .sent, .stalled, .stallReq] : List Piece) ⊆ L) (hs : Keeps L σ s) (n : TileIx) (committed : Bool) (a : Nat) (len : Nat) : Keeps L σ (State.unitRead1 s n committed a len).1 := by
  unfold State.unitRead1
  extract_lets pers v sg s0 onCommitted line
  have hsg : Keeps L σ sg := by
    unfold sg
    apply State.accessGate_keeps (List.Subset.trans (by decide) hL)
    assumption
  clear_value sg
  have hs0 : Keeps L σ s0 := by
    unfold s0
    refine ite_keeps ?_ ?_
    · apply State.taintTile_keeps (List.Subset.trans (by decide) hL)
      assumption
    · assumption
  clear_value s0
  split
  · split
    rename_i s1 d0 bad heq
    have hs1 : Keeps L σ s1 := by
      rw [show s1 = _ from (congrArg Prod.fst heq).symm]
      apply State.readDram_keeps (List.Subset.trans (by decide) hL)
      assumption
    clear heq
    extract_lets d
    refine ite1_keeps ?_ ?_
    · split
      · try dsimp only
        apply State.postFull_keeps (List.Subset.trans (by decide) hL)
        assumption
      · assumption
    · assumption
  · split
    · extract_lets s1
      have hs1 : Keeps L σ s1 := by
        unfold s1
        apply State.larderHeal_keeps (List.Subset.trans (by decide) hL)
        assumption
      clear_value s1
      split
      · assumption
    · assumption
  · try dsimp only
    apply State.failTile_keeps (List.Subset.trans (by decide) hL)
    apply State.flag_keeps (List.Subset.trans (by decide) hL)
    assumption

theorem State.unitRead_keeps {L : List Piece} {σ : State} {s : State} (hL : ([.regs, .start, .flash, .ledger, .power, .period, .seals, .mem, .tiles, .coll, .mbx, .flt, .cast, .sent, .stalled, .stallReq] : List Piece) ⊆ L) (hs : Keeps L σ s) (n : TileIx) (committed : Bool) (a : Nat) (len : Nat) : Keeps L σ (State.unitRead s n committed a len).1 := by
  unfold State.unitRead
  refine foldl1_keeps _ ?_ _ ?_
  · intro p a1' hp
    split
    rename_i s1 d bad heq
    have hs1 : Keeps L σ s1 := by
      rw [show s1 = _ from (congrArg Prod.fst heq).symm]
      apply State.unitRead1_keeps (List.Subset.trans (by decide) hL)
      assumption
    clear heq
    assumption
  · try dsimp only
    apply State.touch_keeps (List.Subset.trans (by decide) hL)
    assumption

theorem State.engRead_keeps {L : List Piece} {σ : State} {s : State} (hL : ([.regs, .start, .flash, .ledger, .power, .period, .seals, .mem, .tiles, .coll, .mbx, .flt, .cast, .sent, .stalled, .stallReq] : List Piece) ⊆ L) (hs : Keeps L σ s) (n : TileIx) (a : Nat) (len : Nat) : Keeps L σ (State.engRead s n a len).1 := by
  unfold State.engRead
  split
  rename_i s1 d bad heq
  have hs1 : Keeps L σ s1 := by
    rw [show s1 = _ from (congrArg Prod.fst heq).symm]
    apply State.unitRead_keeps (List.Subset.trans (by decide) hL)
    assumption
  clear heq
  try dsimp only
  refine ite_keeps ?_ ?_
  · apply State.taintTile_keeps (List.Subset.trans (by decide) hL)
    assumption
  · assumption

theorem State.flushEntry_keeps {L : List Piece} {σ : State} {s : State} (hL : ([.regs, .start, .flash, .ledger, .power, .period, .seals, .mem, .tiles, .coll, .mbx, .flt, .cast, .sent, .stalled] : List Piece) ⊆ L) (hs : Keeps L σ s) (k : Nat) (e : WcEntry) : Keeps L σ (State.flushEntry s k e) := by
  unfold State.flushEntry
  apply State.writeLine_keeps (List.Subset.trans (by decide) hL)
  apply State.memAwake_keeps (List.Subset.trans (by decide) hL)
  assumption

theorem State.fence_keeps {L : List Piece} {σ : State} {s : State} (hL : ([.regs, .start, .flash, .ledger, .power, .period, .seals, .mem, .tiles, .coll, .mbx, .flt, .cast, .sent, .stalled] : List Piece) ⊆ L) (hs : Keeps L σ s) : Keeps L σ (State.fence s) := by
  unfold State.fence
  refine State.forEach_keeps _ ?_ _ ?_
  · intro s1' a hs1'
    refine foldl_keeps _ ?_ _ ?_
    · intro s2' a1' hs2'
      apply State.flushEntry_keeps (List.Subset.trans (by decide) hL)
      assumption
    · apply State.setWc_keeps (List.Subset.trans (by decide) hL)
      assumption
  · assumption

theorem State.flushGranule_keeps {L : List Piece} {σ : State} {s : State} (hL : ([.regs, .start, .flash, .ledger, .power, .period, .seals, .mem, .tiles, .coll, .mbx, .flt, .cast, .sent, .stalled] : List Piece) ⊆ L) (hs : Keeps L σ s) (g : Nat) : Keeps L σ (State.flushGranule s g) := by
  unfold State.flushGranule
  refine State.forEach_keeps _ ?_ _ ?_
  · intro s1' a hs1'
    split
    · extract_lets k
      split
      · apply State.flushEntry_keeps (List.Subset.trans (by decide) hL)
        apply State.setWc_keeps (List.Subset.trans (by decide) hL)
        assumption
      · assumption
    · assumption
  · assumption

theorem State.wcMerge_keeps {L : List Piece} {σ : State} (hL : ([.regs, .start, .flash, .ledger, .power, .period, .seals, .mem, .tiles, .coll, .mbx, .flt, .cast, .sent, .stalled] : List Piece) ⊆ L) {s0 : State} (hs0 : Keeps L σ s0) (q : Nat) (line : Nat) (d : Sparse Byte) : Keeps L σ (State.wcMerge s0 q line d) := by
  unfold State.wcMerge
  extract_lets k p s l s1
  have hs : Keeps L σ s := State.memAwake_keeps (List.Subset.trans (by decide) hL) hs0 _
  clear_value s k l
  have hs1 : Keeps L σ s1 := by
    unfold s1
    split
    · refine ite_keeps ?_ ?_
      · exact State.flushEntry_keeps (List.Subset.trans (by decide) hL) (State.setWc_keeps (List.Subset.trans (by decide) hL) hs _ _) _ _
      · exact hs
    · exact hs
  clear_value s1
  refine ite_keeps ?_ ?_
  · exact State.writeLine_keeps (List.Subset.trans (by decide) hL) (State.setWc_keeps (List.Subset.trans (by decide) hL) hs _ _) _ _ _ _ _
  · split
    · extract_lets b
      refine ite_keeps ?_ ?_
      · exact State.flushEntry_keeps (List.Subset.trans (by decide) hL) (State.setWc_keeps (List.Subset.trans (by decide) hL) hs _ _) _ _
      · exact State.setWc_keeps (List.Subset.trans (by decide) hL) hs _ _
    · exact State.setWc_keeps (List.Subset.trans (by decide) hL) hs1 _ _

theorem State.writeDram_keeps {L : List Piece} {σ : State} {s : State} (hL : ([.regs, .start, .flash, .ledger, .power, .period, .seals, .mem, .tiles, .coll, .mbx, .flt, .cast, .sent, .stalled] : List Piece) ⊆ L) (hs : Keeps L σ s) (q : Nat) (byte : Nat) (data : List Byte) (poison : Bool) : Keeps L σ (State.writeDram s q byte data poison) := by
  unfold State.writeDram
  extract_lets line d k s0 s1 s11'
  have hs0 : Keeps L σ s0 := by
    unfold s0
    apply State.memAwake_keeps (List.Subset.trans (by decide) hL)
    assumption
  clear_value s0
  have hs1 : Keeps L σ s1 := by
    unfold s1
    apply State.setWc_keeps (List.Subset.trans (by decide) hL)
    assumption
  clear_value s1
  have hs11' : Keeps L σ s11' := by
    unfold s11'
    apply State.wcMerge_keeps (List.Subset.trans (by decide) hL)
    assumption
  clear_value s11'
  refine ite_keeps ?_ ?_
  · apply State.writeLine_keeps (List.Subset.trans (by decide) hL)
    assumption
  · refine ite_keeps ?_ ?_
    · split
      · apply State.setPoison_keeps (List.Subset.trans (by decide) hL)
        assumption
      · assumption
    · assumption

theorem State.moduleWrite_keeps {L : List Piece} {σ : State} {s : State} (hL : ([.regs, .start, .flash, .ledger, .power, .period, .seals, .mem, .tiles, .coll, .mbx, .flt, .cast, .sent, .stalled] : List Piece) ⊆ L) (hs : Keeps L σ s) (a : Nat) (data : List Byte) (poison : Bool) : Keeps L σ (State.moduleWrite s a data poison) := by
  unfold State.moduleWrite
  refine foldl_keeps _ ?_ _ hs
  intro s1 p h
  have hf : Keeps L σ (s1.flag F.MGT_HDM_BIAS_STALL) := State.flag_keeps (List.Subset.trans (by decide) hL) h _
  split
  · refine ite_keeps ?_ ?_
    · exact Keeps.upd (s := s1.flag F.MGT_HDM_BIAS_STALL) hL hf
    · exact State.writeDram_keeps (List.Subset.trans (by decide) hL) h _ _ _ _
  · exact State.flag_keeps (List.Subset.trans (by decide) hL) h _

theorem State.heldWrites_keeps {L : List Piece} {σ : State} {s : State} (hL : ([.regs, .start, .flash, .ledger, .power, .period, .seals, .mem, .tiles, .coll, .mbx, .flt, .cast, .sent, .stalled] : List Piece) ⊆ L) (hs : Keeps L σ s) : Keeps L σ (State.heldWrites s) := by
  unfold State.heldWrites
  refine ite_keeps ?_ ?_
  · assumption
  · refine foldl_keeps _ ?_ _ ?_
    · intro s1' a hs1'
      apply State.moduleWrite_keeps (List.Subset.trans (by decide) hL)
      assumption
    · refine Keeps.upd (s := s) hL ?_
      assumption

theorem State.moduleRead_keeps {L : List Piece} {σ : State} {s : State} (hL : ([.regs, .start, .flash, .ledger, .power, .period, .seals, .mem, .tiles, .coll, .mbx, .flt, .cast, .sent, .stalled] : List Piece) ⊆ L) (hs : Keeps L σ s) (a : Nat) (len : Nat) : Keeps L σ (State.moduleRead s a len).1 := by
  unfold State.moduleRead
  refine foldl1_keeps _ ?_ _ ?_
  · intro p a1' hp
    split
    · split
      rename_i s1 d bad heq
      have hs1 : Keeps L σ s1 := by
        rw [show s1 = _ from (congrArg Prod.fst heq).symm]
        apply State.readDram_keeps (List.Subset.trans (by decide) hL)
        assumption
      clear heq
      assumption
    · try dsimp only
      apply State.flag_keeps (List.Subset.trans (by decide) hL)
      assumption
  · assumption

theorem State.tileWrite_keeps {L : List Piece} {σ : State} {s : State} (hL : ([.tiles] : List Piece) ⊆ L) (hs : Keeps L σ s) (n : TileIx) (a : Nat) (data : List Byte) (poison : Bool) :
    Keeps L σ (State.tileWrite s n a data poison) := by
  unfold State.tileWrite
  refine State.modTile_keeps (List.Subset.trans (by decide) hL) hs _ _ (fun t ht => ?_)
  simp only [TileSt.wf, Bool.and_eq_true] at ht ⊢
  refine ⟨Sparse.insertAll_sorted (fun (x : Sys2Proof.Byte × Nat) => (a + x.2, x.1)) _ ht.1, ?_⟩
  split
  · exact NatSet.addAll_sorted _ ht.2
  · exact NatSet.filter_sorted _ ht.2

theorem State.stageEntry_keeps {L : List Piece} {σ : State} {s : State} (hL : ([.regs, .start, .flash, .ledger, .power, .period, .seals, .mem, .tiles, .coll, .mbx, .flt, .cast, .sent, .stalled, .stallReq] : List Piece) ⊆ L) (hs : Keeps L σ s) (page : Nat) : Keeps L σ (State.stageEntry s page) := by
  unfold State.stageEntry
  split
  · assumption
  · refine ite_keeps ?_ ?_
    · assumption
    · extract_lets k src
      have hsrc : Keeps L σ src := by
        unfold src
        apply State.flag_keeps (List.Subset.trans (by decide) hL)
        assumption
      clear_value src
      split
      · split
        · refine Keeps.upd (s := src) hL ?_
          assumption
        · extract_lets s1 r1 src1'
          have hs1 : Keeps L σ s1 := by
            unfold s1
            apply State.copyFrame_keeps (List.Subset.trans (by decide) hL)
            assumption
          clear_value s1
          refine Keeps.upd (s := s1) hL ?_
          assumption
      · assumption

theorem State.shadow_keeps {L : List Piece} {σ : State} {s : State} (hL : ([.regs, .start, .flash, .ledger, .power, .period, .seals, .mem, .tiles, .coll, .mbx, .flt, .cast, .sent, .stalled, .stallReq] : List Piece) ⊆ L) (hs : Keeps L σ s) (n : TileIx) (page : Nat) (whole : Bool) : Keeps L σ (State.shadow s n page whole).1 := by
  unfold State.shadow
  refine ite1_keeps ?_ ?_
  · assumption
  · extract_lets k s1 src
    have hs1 : Keeps L σ s1 := by
      unfold s1
      apply State.stageEntry_keeps (List.Subset.trans (by decide) hL)
      assumption
    clear_value s1
    split
    · split
      · try dsimp only
        apply State.failTile_keeps (List.Subset.trans (by decide) hL)
        apply State.flag_keeps (List.Subset.trans (by decide) hL)
        assumption
      · refine ite1_keeps ?_ ?_
        · assumption
        · extract_lets s2 src1' s3 src2' s4
          have hs2 : Keeps L σ s2 := by
            unfold s2
            refine Keeps.upd (s := s1) hL ?_
            assumption
          clear_value s2
          have hs3 : Keeps L σ s3 := by
            unfold s3
            refine ite_keeps ?_ ?_
            · assumption
            · refine ite_keeps ?_ ?_
              · apply State.taintTile_keeps (List.Subset.trans (by decide) hL)
                apply State.copyFrame_keeps (List.Subset.trans (by decide) hL)
                assumption
              · apply State.copyFrame_keeps (List.Subset.trans (by decide) hL)
                assumption
          clear_value s3
          have hs4 : Keeps L σ s4 := by
            unfold s4
            refine Keeps.upd (s := s3) hL ?_
            assumption
          clear_value s4
          try dsimp only
          apply State.bump_keeps (List.Subset.trans (by decide) hL)
          assumption
    · try dsimp only
      apply State.failTile_keeps (List.Subset.trans (by decide) hL)
      apply State.flag_keeps (List.Subset.trans (by decide) hL)
      assumption

theorem State.unitWrite1_keeps {L : List Piece} {σ : State} {s : State} (hL : ([.regs, .start, .flash, .ledger, .power, .period, .seals, .mem, .tiles, .coll, .mbx, .flt, .cast, .sent, .stalled, .stallReq] : List Piece) ⊆ L) (hs : Keeps L σ s) (n : TileIx) (lo : Nat) (hi : Nat) (a : Nat) (data : List Byte) (poison : Bool) : Keeps L σ (State.unitWrite1 s n lo hi a data poison) := by
  unfold State.unitWrite1
  refine ite_keeps ?_ ?_
  · assumption
  · extract_lets page
    split
    rename_i s1 go heq
    have hs1 : Keeps L σ s1 := by
      rw [show s1 = _ from (congrArg Prod.fst heq).symm]
      refine ite1_keeps ?_ ?_
      · apply State.shadow_keeps (List.Subset.trans (by decide) hL)
        assumption
      · assumption
    clear heq
    refine ite_keeps ?_ ?_
    · assumption
    · extract_lets v s2
      have hs2 : Keeps L σ s2 := by
        unfold s2
        apply State.accessGate_keeps (List.Subset.trans (by decide) hL)
        assumption
      clear_value s2
      split
      · apply State.writeDram_keeps (List.Subset.trans (by decide) hL)
        refine ite_keeps ?_ ?_
        · apply State.taintTile_keeps (List.Subset.trans (by decide) hL)
          assumption
        · assumption
      · split
        · apply State.tileWrite_keeps (List.Subset.trans (by decide) hL)
          assumption
        · assumption
      · apply State.failTile_keeps (List.Subset.trans (by decide) hL)
        apply State.flag_keeps (List.Subset.trans (by decide) hL)
        assumption

theorem State.noteStash_keeps {L : List Piece} {σ : State} {s : State} (hL : ([.mem] : List Piece) ⊆ L) (hs : Keeps L σ s) (a : Nat) (data : List Byte) : Keeps L σ (State.noteStash s a data) := by
  unfold State.noteStash
  refine ite_keeps ?_ ?_
  · refine Keeps.upd (s := s) hL ?_
    assumption
  · assumption

theorem State.unitStore_keeps {L : List Piece} {σ : State} {s : State} (hL : ([.regs, .start, .flash, .ledger, .power, .period, .seals, .mem, .tiles, .coll, .mbx, .flt, .cast, .sent, .stalled, .stallReq] : List Piece) ⊆ L) (hs : Keeps L σ s) (n : TileIx) (a : Nat) (data : List Byte) (poison : Bool) : Keeps L σ (State.unitStore s n a data poison) := by
  unfold State.unitStore
  extract_lets s0 src s1
  have hs0 : Keeps L σ s0 := by
    unfold s0
    apply State.touch_keeps (List.Subset.trans (by decide) hL)
    assumption
  clear_value s0
  have hs1 : Keeps L σ s1 := by
    unfold s1
    refine ite_keeps ?_ ?_
    · refine Keeps.upd (s := s0) hL ?_
      assumption
    · assumption
  clear_value s1
  refine foldl_keeps _ ?_ _ ?_
  · intro s1' a1' hs1'
    extract_lets d
    apply State.noteStash_keeps (List.Subset.trans (by decide) hL)
    apply State.unitWrite1_keeps (List.Subset.trans (by decide) hL)
    assumption
  · assumption

theorem State.updateStore_keeps {L : List Piece} {σ : State} {s : State} (hL : ([.regs, .start, .flash, .ledger, .power, .period, .seals, .mem, .tiles, .coll, .mbx, .flt, .cast, .sent, .stalled, .stallReq] : List Piece) ⊆ L) (hs : Keeps L σ s) (n : TileIx) (a : Nat) (data : List Byte) (poison : Bool) : Keeps L σ (State.updateStore s n a data poison) := by
  unfold State.updateStore
  split
  · apply State.unitStore_keeps (List.Subset.trans (by decide) hL)
    assumption
  · extract_lets d old
    split
    · extract_lets s1
      have hs1 : Keeps L σ s1 := by
        unfold s1
        apply State.bump_keeps (List.Subset.trans (by decide) hL)
        assumption
      clear_value s1
      refine ite_keeps ?_ ?_
      · refine State.forEach_keeps _ ?_ _ ?_
        · intro s1' a1' hs1'
          apply State.unitStore_keeps (List.Subset.trans (by decide) hL)
          assumption
        · assumption
      · apply State.unitStore_keeps (List.Subset.trans (by decide) hL)
        assumption

theorem State.unitWrite_keeps {L : List Piece} {σ : State} {s : State} (hL : ([.regs, .start, .flash, .ledger, .power, .period, .seals, .mem, .tiles, .coll, .mbx, .flt, .cast, .sent, .stalled, .stallReq] : List Piece) ⊆ L) (hs : Keeps L σ s) (n : TileIx) (a : Nat) (data : List Byte) (poison : Bool) : Keeps L σ (State.unitWrite s n a data poison) := by
  unfold State.unitWrite
  refine ite_keeps ?_ ?_
  · apply State.unitStore_keeps (List.Subset.trans (by decide) hL)
    assumption
  · extract_lets t
    refine ite_keeps ?_ ?_
    · apply State.modTile_keeps (List.Subset.trans (by decide) hL)
      · apply State.flag_keeps (List.Subset.trans (by decide) hL)
        assumption
      · exact fun t ht => TileSt.wf_upd (t := t) rfl rfl ht
    · apply State.updateStore_keeps (List.Subset.trans (by decide) hL)
      apply State.modTile_keeps (List.Subset.trans (by decide) hL)
      · assumption
      · exact fun t ht => TileSt.wf_upd (t := t) rfl rfl ht

theorem State.moveBytes_keeps {L : List Piece} {σ : State} {s : State} (hL : ([.regs, .start, .flash, .ledger, .power, .period, .seals, .mem, .tiles, .coll, .mbx, .flt, .cast, .sent, .stalled, .stallReq] : List Piece) ⊆ L) (hs : Keeps L σ s) (n : TileIx) (src : Nat) (dst : Nat) (len : Nat) : Keeps L σ (State.moveBytes s n src dst len) := by
  unfold State.moveBytes
  apply State.countReload_keeps (List.Subset.trans (by decide) hL)
  · refine State.forEach_keeps _ ?_ _ ?_
    · intro s1' a hs1'
      split
      rename_i s1 d bad heq
      have hs1 : Keeps L σ s1 := by
        rw [show s1 = _ from (congrArg Prod.fst heq).symm]
        apply State.unitRead_keeps (List.Subset.trans (by decide) hL)
        assumption
      clear heq
      refine ite_keeps ?_ ?_
      · extract_lets bits
        apply State.unitWrite_keeps (List.Subset.trans (by decide) hL)
        apply State.modTile_keeps (List.Subset.trans (by decide) hL)
        · assumption
        · exact fun t ht => TileSt.wf_upd (t := t) rfl rfl ht
      · apply State.unitWrite_keeps (List.Subset.trans (by decide) hL)
        assumption
    · assumption
  · assumption

theorem State.opMemFence_keeps {L : List Piece} {σ : State} {s : State} (hL : ([.regs, .start, .flash, .ledger, .power, .period, .seals, .mem, .tiles, .coll, .mbx, .flt, .cast, .sent, .stalled, .stallReq] : List Piece) ⊆ L) (hs : Keeps L σ s) : Keeps L σ (State.opMemFence s) := by
  unfold State.opMemFence
  refine ite_keeps ?_ ?_
  · assumption
  · refine ite_keeps ?_ ?_
    · refine Keeps.upd (s := s) hL ?_
      assumption
    · apply State.drainMigrations_keeps (List.Subset.trans (by decide) hL)
      apply State.fence_keeps (List.Subset.trans (by decide) hL)
      assumption

theorem State.opWcTimer_keeps {L : List Piece} {σ : State} {s : State} (hL : ([.regs, .start, .flash, .ledger, .power, .period, .seals, .mem, .tiles, .coll, .mbx, .flt, .cast, .sent, .stalled, .stallReq] : List Piece) ⊆ L) (hs : Keeps L σ s) (k : Nat) (pos : Nat) (line : Nat) : Keeps L σ (State.opWcTimer s k pos line) := by
  unfold State.opWcTimer
  refine ite_keeps ?_ ?_
  · assumption
  · split
    · assumption
    · refine ite_keeps ?_ ?_
      · refine Keeps.upd (s := s) hL ?_
        assumption
      · apply State.drainMigrations_keeps (List.Subset.trans (by decide) hL)
        apply State.flushEntry_keeps (List.Subset.trans (by decide) hL)
        apply State.setWc_keeps (List.Subset.trans (by decide) hL)
        assumption

theorem State.stallEffects_keeps {L : List Piece} {σ : State} {s : State} (hL : ([.regs, .power] : List Piece) ⊆ L) {tried : State} (hs : Keeps L σ s) (htried : Keeps L σ tried) : Keeps L σ (State.stallEffects s tried) := by
  unfold State.stallEffects
  extract_lets new s1
  have hs1 : Keeps L σ s1 := by
    unfold s1
    refine State.forEach_keeps _ ?_ _ ?_
    · intro s1' a hs1'
      apply State.wake_keeps (List.Subset.trans (by decide) hL)
      assumption
    · assumption
  clear_value s1
  apply State.flagIf_keeps (List.Subset.trans (by decide) hL)
  apply State.flagIf_keeps (List.Subset.trans (by decide) hL)
  assumption

theorem State.courier_keeps {L : List Piece} {σ : State} (hL : ([.regs, .power, .mem] : List Piece) ⊆ L) {α : Type} (x : State × α) (f : State → α → State × α) (hx : Keeps L σ x.1)
    (hf : ∀ s a, Keeps L σ s → Keeps L σ (f s a).1) : Keeps L σ (State.courier x f).1 := by
  unfold State.courier
  extract_lets r
  have hr : Keeps L σ r.1 := hf _ _ hx
  clear_value r
  refine ite1_keeps ?_ ?_
  · exact State.stallEffects_keeps (List.Subset.trans (by decide) hL) hx hr
  · exact Keeps.upd (s := r.1) hL hr

theorem State.wait_keeps {L : List Piece} {σ : State} {s : State} (hL : ([.stalled] : List Piece) ⊆ L) (hs : Keeps L σ s) (w : Waiting) : Keeps L σ (State.wait s w) := by
  unfold State.wait
  refine Keeps.upd (s := s) hL ?_
  assumption

theorem State.orStall_keeps {L : List Piece} {σ : State} {s : State} (hL : ([.regs, .power, .stalled] : List Piece) ⊆ L) {tried : State} (hs : Keeps L σ s) (htried : Keeps L σ tried) (w : Waiting) : Keeps L σ (State.orStall s tried w) := by
  unfold State.orStall
  refine ite_keeps ?_ ?_
  · apply State.wait_keeps (List.Subset.trans (by decide) hL)
    apply State.stallEffects_keeps (List.Subset.trans (by decide) hL)
    · assumption
    · assumption
  · assumption

theorem State.reloadStash_keeps {L : List Piece} {σ : State} {s : State} (hL : ([.regs, .start, .flash, .ledger, .power, .period, .seals, .mem, .tiles, .coll, .mbx, .flt, .cast, .sent, .stalled, .stallReq] : List Piece) ⊆ L) (hs : Keeps L σ s) (n : TileIx) (l : Nat) : Keeps L σ (State.reloadStash s n l) := by
  unfold State.reloadStash
  split
  · assumption
  · split
    · assumption
    · refine State.forEach_keeps _ ?_ _ ?_
      · intro s1' a hs1'
        apply State.moveBytes_keeps (List.Subset.trans (by decide) hL)
        assumption
      · assumption

theorem State.reachLayer_keeps {L : List Piece} {σ : State} {s : State} (hL : ([.regs, .start, .flash, .ledger, .power, .period, .seals, .mem, .tiles, .coll, .mbx, .flt, .cast, .sent, .stalled, .stallReq] : List Piece) ⊆ L) (hs : Keeps L σ s) (n : TileIx) (l : Nat) : Keeps L σ (State.reachLayer s n l) := by
  unfold State.reachLayer
  extract_lets key src s1
  have hs1 : Keeps L σ s1 := by
    unfold s1
    refine Keeps.upd (s := s) hL ?_
    assumption
  clear_value s1
  refine ite_keeps ?_ ?_
  · assumption
  · refine ite_keeps ?_ ?_
    · refine ite_keeps ?_ ?_
      · assumption
      · apply State.recompute_keeps (List.Subset.trans (by decide) hL)
        assumption
    · apply State.reloadStash_keeps (List.Subset.trans (by decide) hL)
      assumption

end Sys2Proof.Machine
end

