-- ==== Sys2Proof/Laws/KeepsPerfOps.lean ====
section
/-! SUPPORT. What the operations of Machine/PerfOps.lean keep: the queue of commands, what was sent, canonical memories, and the parts of the state
they do not write. -/

namespace Sys2Proof.Machine

set_option Elab.async false

theorem State.dump_keeps {L : List Piece} {σ : State} {s : State} (hL : ([.regs, .perf] : List Piece) ⊆ L) (hs : Keeps L σ s) (b : Nat) (cyc : Nat) (all_ : Bool) : Keeps L σ (State.dump s b cyc all_) := by
  unfold State.dump
  refine ite_keeps ?_ ?_
  · assumption
  · extract_lets seq s1 s2 src q src1'
    have hs1 : Keeps L σ s1 := by
      unfold s1
      apply State.set_keeps (List.Subset.trans (by decide) hL)
      assumption
    clear_value s1
    have hs2 : Keeps L σ s2 := by
      unfold s2
      apply State.bump_keeps (List.Subset.trans (by decide) hL)
      assumption
    clear_value s2
    refine ite_keeps ?_ ?_
    · refine Keeps.upd (s := s2) hL ?_
      assumption
    · apply State.set_keeps (List.Subset.trans (by decide) hL)
      refine Keeps.upd (s := s1) hL ?_
      assumption

theorem State.perfAdd_keeps {L : List Piece} {σ : State} {s : State} (hL : ([.regs, .perf] : List Piece) ⊆ L) (hs : Keeps L σ s) (b : Nat) (i : Nat) (n : Nat) : Keeps L σ (State.perfAdd s b i n) := by
  unfold State.perfAdd
  refine ite_keeps ?_ ?_
  · assumption
  · extract_lets c s1 o s2 src
    have hs1 : Keeps L σ s1 := by
      unfold s1
      apply State.set_keeps (List.Subset.trans (by decide) hL)
      assumption
    clear_value s1
    have hs2 : Keeps L σ s2 := by
      unfold s2
      apply State.set_keeps (List.Subset.trans (by decide) hL)
      assumption
    clear_value s2
    refine ite_keeps ?_ ?_
    · assumption
    · refine Keeps.upd (s := s2) hL ?_
      assumption

theorem State.perfLevels_keeps {L : List Piece} {σ : State} {s : State} (hL : ([.regs, .perf] : List Piece) ⊆ L) (hs : Keeps L σ s) (core : Nat) (fab : Nat) : Keeps L σ (State.perfLevels s core fab) := by
  unfold State.perfLevels
  refine State.forEach_keeps _ ?_ _ ?_
  · intro s1' a hs1'
    extract_lets n
    refine ite_keeps ?_ ?_
    · assumption
    · refine State.forEach_keeps _ ?_ _ ?_
      · intro s2' a1' hs2'
        extract_lets code v th mode prev add src
        refine ite_keeps ?_ ?_
        · assumption
        · apply State.perfAdd_keeps (List.Subset.trans (by decide) hL)
          refine Keeps.upd (s := s2') hL ?_
          assumption
      · assumption
  · assumption

theorem State.passTime_keeps {L : List Piece} {σ : State} {s : State} (hL : ([.regs, .time, .ledger, .perf] : List Piece) ⊆ L) (hs : Keeps L σ s) (n : Nat) : Keeps L σ (State.passTime s n) := by
  unfold State.passTime
  extract_lets s1
  have hs1 : Keeps L σ s1 := by
    unfold s1
    apply State.advanceOsc_keeps (List.Subset.trans (by decide) hL)
    assumption
  clear_value s1
  apply State.perfLevels_keeps (List.Subset.trans (by decide) hL)
  assumption

theorem State.idle_keeps {L : List Piece} {σ : State} {s : State} (hL : ([.regs, .time, .ledger, .perf] : List Piece) ⊆ L) (hs : Keeps L σ s) : Keeps L σ (State.idle s) := by
  unfold State.idle
  refine ite_keeps ?_ ?_
  · apply State.passTime_keeps (List.Subset.trans (by decide) hL)
    assumption
  · assumption

theorem State.perfSample_keeps {L : List Piece} {σ : State} {s : State} (hL : ([.regs, .perf] : List Piece) ⊆ L) (hs : Keeps L σ s) (b : Nat) (i : Nat) (v : Nat) : Keeps L σ (State.perfSample s b i v) := by
  unfold State.perfSample
  extract_lets th mode prev add src s1
  have hs1 : Keeps L σ s1 := by
    unfold s1
    refine Keeps.upd (s := s) hL ?_
    assumption
  clear_value s1
  apply State.perfAdd_keeps (List.Subset.trans (by decide) hL)
  assumption

theorem State.perfEvent_keeps {L : List Piece} {σ : State} {s : State} (hL : ([.regs, .perf] : List Piece) ⊆ L) (hs : Keeps L σ s) (b : Nat) (code : Nat) (n : Nat) : Keeps L σ (State.perfEvent s b code n) := by
  unfold State.perfEvent
  refine ite_keeps ?_ ?_
  · assumption
  · refine State.forEach_keeps _ ?_ _ ?_
    · intro s1' a hs1'
      refine ite_keeps ?_ ?_
      · apply State.perfSample_keeps (List.Subset.trans (by decide) hL)
        assumption
      · assumption
    · assumption

theorem State.perfLadle_keeps {L : List Piece} {σ : State} {s : State} (hL : ([.regs, .perf] : List Piece) ⊆ L) (hs : Keeps L σ s) (b : Nat) (l : Nat) (code : Nat) (n : Nat) : Keeps L σ (State.perfLadle s b l code n) := by
  unfold State.perfLadle
  refine ite_keeps ?_ ?_
  · assumption
  · refine State.forEach_keeps _ ?_ _ ?_
    · intro s1' a hs1'
      extract_lets m
      refine ite_keeps ?_ ?_
      · apply State.perfSample_keeps (List.Subset.trans (by decide) hL)
        assumption
      · assumption
    · assumption

theorem State.toTick_keeps {L : List Piece} {σ : State} {s : State} (hL : ([.regs, .time, .ledger, .perf] : List Piece) ⊆ L) (hs : Keeps L σ s) (t : Nat) : Keeps L σ (State.toTick s t) := by
  unfold State.toTick
  refine ite_keeps ?_ ?_
  · apply State.passTime_keeps (List.Subset.trans (by decide) hL)
    assumption
  · assumption

end Sys2Proof.Machine
end

