-- ==== Sys2Proof/Laws/KeepsFlags.lean ====
section
/-! SUPPORT. What the operations of Machine/Flags.lean keep: the queue of commands, what was sent, canonical memories, and the parts of the state
they do not write. -/

namespace Sys2Proof.Machine

set_option Elab.async false

theorem State.complete_keeps {L : List Piece} {σ : State} {s : State} (hL : ([.regs, .tiles, .perf] : List Piece) ⊆ L) (hs : Keeps L σ s) (n : TileIx) (b : Nat) (r : BitVec 256) : Keeps L σ (State.complete s n b r) := by
  unfold State.complete
  apply State.perfEvent_keeps (List.Subset.trans (by decide) hL)
  refine ite_keeps ?_ ?_
  · assumption
  · apply State.record_keeps (List.Subset.trans (by decide) hL)
    assumption

theorem State.putSummary_keeps {L : List Piece} {σ : State} {s : State} (hL : ([.tiles] : List Piece) ⊆ L) (hs : Keeps L σ s) (n : TileIx) (slot : Nat) (vals : List U32) : Keeps L σ (State.putSummary s n slot vals) := by
  unfold State.putSummary
  refine ite_keeps ?_ ?_
  · assumption
  · apply State.modTile_keeps (List.Subset.trans (by decide) hL)
    · assumption
    · exact fun t ht => TileSt.wf_upd (t := t) rfl rfl ht

theorem State.setLayer_keeps {L : List Piece} {σ : State} {s : State} (hL : ([.tiles] : List Piece) ⊆ L) (hs : Keeps L σ s) (n : TileIx) (l : Nat) : Keeps L σ (State.setLayer s n l) := by
  unfold State.setLayer
  apply State.modTile_keeps (List.Subset.trans (by decide) hL)
  · assumption
  · exact fun t ht => TileSt.wf_upd (t := t) rfl rfl ht

theorem State.sticky_keeps {L : List Piece} {σ : State} {s : State} (hL : ([.tiles] : List Piece) ⊆ L) (hs : Keeps L σ s) (n : TileIx) (nonfinIn : Nat) (nonfinOut : Bool) : Keeps L σ (State.sticky s n nonfinIn nonfinOut) := by
  unfold State.sticky
  refine ite_keeps ?_ ?_
  · assumption
  · apply State.modTile_keeps (List.Subset.trans (by decide) hL)
    · assumption
    · exact fun t ht => TileSt.wf_upd (t := t) rfl rfl ht

end Sys2Proof.Machine
end

