-- ==== Sys2Proof/Laws/KeepsWire.lean ====
section
/-! SUPPORT. What the operations of Machine/Wire.lean keep: the queue of commands, what was sent, canonical memories, and the parts of the state
they do not write. -/

namespace Sys2Proof.Machine

set_option Elab.async false

theorem State.wireChunk_keeps {L : List Piece} {σ : State} {s : State} (hL : ([.regs, .start, .flash, .ledger, .power, .period, .seals, .mem, .tiles, .coll, .mbx, .flt, .cast, .sent, .stalled, .stallReq] : List Piece) ⊆ L) (hs : Keeps L σ s) (tile : Nat) (d : BitVec 512) (w : WireEntry) (i : Nat) : Keeps L σ (State.wireChunk s tile d w i).1 := by
  unfold State.wireChunk
  extract_lets n
  refine foldl1_keeps _ ?_ _ ?_
  · intro p a hp
    refine ite1_keeps ?_ ?_
    · assumption
    · split
      rename_i s1 src bad heq
      have hs1 : Keeps L σ s1 := by
        rw [show s1 = _ from (congrArg Prod.fst heq).symm]
        apply State.engRead_keeps (List.Subset.trans (by decide) hL)
        assumption
      clear heq
      split
      rename_i s2 res bad2 heq
      have hs2 : Keeps L σ s2 := by
        rw [show s2 = _ from (congrArg Prod.fst heq).symm]
        apply State.engRead_keeps (List.Subset.trans (by decide) hL)
        assumption
      clear heq
      assumption
  · assumption

theorem State.payload_keeps {L : List Piece} {σ : State} {s : State} (hL : ([.regs, .start, .flash, .ledger, .power, .period, .seals, .mem, .tiles, .coll, .mbx, .flt, .cast, .sent, .stalled, .stallReq] : List Piece) ⊆ L) (hs : Keeps L σ s) (src : Source) : Keeps L σ (State.payload s src).1 := by
  unfold State.payload
  split
  · assumption
  · split
    rename_i s1 b snd heq
    have hs1 : Keeps L σ s1 := by
      rw [show s1 = _ from (congrArg Prod.fst heq).symm]
      apply State.engRead_keeps (List.Subset.trans (by decide) hL)
      assumption
    clear heq
    assumption
  · split
    · assumption
    · split
      rename_i s1 blocks snd heq
      have hs1 : Keeps L σ s1 := by
        rw [show s1 = _ from (congrArg Prod.fst heq).symm]
        apply State.wireChunk_keeps (List.Subset.trans (by decide) hL)
        assumption
      clear heq
      assumption

theorem State.writeResidual_keeps {L : List Piece} {σ : State} {s : State} (hL : ([.regs, .start, .flash, .ledger, .power, .period, .seals, .mem, .tiles, .coll, .mbx, .flt, .cast, .sent, .stalled, .stallReq] : List Piece) ⊆ L) (hs : Keeps L σ s) (tile : Nat) (d : BitVec 512) (w : WireEntry) (i : Nat) : Keeps L σ (State.writeResidual s tile d w i) := by
  unfold State.writeResidual
  extract_lets n
  split
  rename_i s1 blocks bad heq
  have hs1 : Keeps L σ s1 := by
    rw [show s1 = _ from (congrArg Prod.fst heq).symm]
    apply State.wireChunk_keeps (List.Subset.trans (by decide) hL)
    assumption
  clear heq
  refine State.forEach_keeps _ ?_ _ ?_
  · intro s1' a hs1'
    refine ite_keeps ?_ ?_
    · assumption
    · apply State.bump_keeps (List.Subset.trans (by decide) hL)
      apply State.unitStore_keeps (List.Subset.trans (by decide) hL)
      assumption
  · assumption

end Sys2Proof.Machine
end

