-- ==== Sys2Proof/Laws/KeepsLinkOps.lean ====
section
/-! SUPPORT. What the operations of Machine/LinkOps.lean keep: the queue of commands, what was sent, canonical memories, and the parts of the state
they do not write. -/

namespace Sys2Proof.Machine

set_option Elab.async false

theorem State.setPort_keeps {L : List Piece} {σ : State} {s : State} (hL : ([.coll] : List Piece) ⊆ L) (hs : Keeps L σ s) (p : PortIx) (x : PortSt) : Keeps L σ (State.setPort s p x) := by
  unfold State.setPort
  refine Keeps.upd (s := s) hL ?_
  assumption

theorem State.reported_keeps {L : List Piece} {σ : State} {s : State} (hL : ([.coll] : List Piece) ⊆ L) (hs : Keeps L σ s) (p : PortIx) : Keeps L σ (State.reported s p) := by
  unfold State.reported
  apply State.setPort_keeps (List.Subset.trans (by decide) hL)
  assumption

theorem State.emitFrame_keeps {L : List Piece} {σ : State} {s : State} (hL : ([.regs, .coll, .perf, .sent] : List Piece) ⊆ L) (hs : Keeps L σ s) (p : PortIx) (h : ChunkHeader) (payload : List Byte) (src : Source) : Keeps L σ (State.emitFrame s p h payload src) := by
  unfold State.emitFrame
  extract_lets link s1 x x'
  have hs1 : Keeps L σ s1 := by
    unfold s1
    apply State.reported_keeps (List.Subset.trans (by decide) hL)
    assumption
  clear_value s1
  apply State.send_keeps (List.Subset.trans (by decide) hL)
  apply State.perfEvent_keeps (List.Subset.trans (by decide) hL)
  apply State.setPort_keeps (List.Subset.trans (by decide) hL)
  assumption

theorem pumpPort_keeps {L : List Piece} {σ : State} {s : State} (hL : ([.regs, .coll, .perf, .sent] : List Piece) ⊆ L) (p : PortIx) (k : Nat) (hs : Keeps L σ s) : Keeps L σ (pumpPort p k s) := by
  induction k generalizing s with
  | zero => exact hs
  | succ k ih =>
    unfold pumpPort
    dsimp only
    split
    · exact hs
    · split
      · exact ih (State.emitFrame_keeps (List.Subset.trans (by decide) hL) (State.setPort_keeps (List.Subset.trans (by decide) hL) hs _ _) _ _ _ _)
      · exact hs

theorem State.sendControl_keeps {L : List Piece} {σ : State} {s : State} (hL : ([.coll, .sent] : List Piece) ⊆ L) (hs : Keeps L σ s) (p : PortIx) (ctype : Nat) (body : List Nat) : Keeps L σ (State.sendControl s p ctype body) := by
  unfold State.sendControl
  apply State.send_keeps (List.Subset.trans (by decide) hL)
  apply State.reported_keeps (List.Subset.trans (by decide) hL)
  assumption

theorem State.controlTo_keeps {L : List Piece} {σ : State} {s : State} (hL : ([.coll, .sent] : List Piece) ⊆ L) (hs : Keeps L σ s) (g : Group) (ctype : Nat) (body : List Nat) : Keeps L σ (State.controlTo s g ctype body) := by
  unfold State.controlTo
  refine State.forEach_keeps _ ?_ _ ?_
  · intro s1' a hs1'
    split
    · refine ite_keeps ?_ ?_
      · apply State.sendControl_keeps (List.Subset.trans (by decide) hL)
        assumption
      · assumption
    · assumption
  · assumption

theorem State.fecPeriod_keeps {L : List Piece} {σ : State} {s : State} (hL : ([.regs, .coll] : List Piece) ⊆ L) (hs : Keeps L σ s) : Keeps L σ (State.fecPeriod s) := by
  unfold State.fecPeriod
  refine State.forEach_keeps _ ?_ _ ?_
  · intro s1' a hs1'
    apply State.setPort_keeps (List.Subset.trans (by decide) hL)
    apply State.set_keeps (List.Subset.trans (by decide) hL)
    assumption
  · assumption

theorem State.pumpPorts_keeps {L : List Piece} {σ : State} {s : State} (hL : ([.regs, .coll, .perf, .sent] : List Piece) ⊆ L) (hs : Keeps L σ s) : Keeps L σ (State.pumpPorts s) := by
  unfold State.pumpPorts
  refine State.forEach_keeps _ ?_ _ ?_
  · intro s1' a hs1'
    refine ite_keeps ?_ ?_
    · assumption
    · apply pumpPort_keeps (List.Subset.trans (by decide) hL)
      assumption
  · assumption

theorem State.retrain_keeps {L : List Piece} {σ : State} {s : State} (hL : ([.regs, .coll, .flt] : List Piece) ⊆ L) (hs : Keeps L σ s) (p : PortIx) : Keeps L σ (State.retrain s p) := by
  unfold State.retrain
  extract_lets s1 src src1' src2'
  have hs1 : Keeps L σ s1 := by
    unfold s1
    apply State.bump_keeps (List.Subset.trans (by decide) hL)
    apply State.set_keeps (List.Subset.trans (by decide) hL)
    apply State.set_keeps (List.Subset.trans (by decide) hL)
    assumption
  clear_value s1
  have hsrc1' : Keeps L σ src1' := by
    unfold src1'
    apply State.setPort_keeps (List.Subset.trans (by decide) hL)
    assumption
  clear_value src1'
  refine Keeps.upd (s := src1') hL ?_
  assumption

theorem State.resendOne_keeps {L : List Piece} {σ : State} {s : State} (hL : ([.regs, .start, .flash, .ledger, .power, .period, .seals, .mem, .tiles, .coll, .mbx, .flt, .cast, .sent, .stalled, .stallReq] : List Piece) ⊆ L) (hs : Keeps L σ s) (p : PortIx) (f : SentFrame) : Keeps L σ (State.resendOne s p f) := by
  unfold State.resendOne
  refine State.courier_keeps (List.Subset.trans (by decide) hL) _ _ ?_ ?_
  · assumption
  · intro s1' a hs1'
    beta_reduce
    split
    rename_i s1 d heq
    have hs1 : Keeps L σ s1 := by
      rw [show s1 = _ from (congrArg Prod.fst heq).symm]
      apply State.payload_keeps (List.Subset.trans (by decide) hL)
      assumption
    clear heq
    try dsimp only
    apply State.send_keeps (List.Subset.trans (by decide) hL)
    apply State.reported_keeps (List.Subset.trans (by decide) hL)
    assumption

theorem State.resendAll_keeps {L : List Piece} {σ : State} {s : State} (hL : ([.regs, .start, .flash, .ledger, .power, .period, .seals, .mem, .tiles, .coll, .mbx, .flt, .cast, .perf, .sent, .stalled, .stallReq] : List Piece) ⊆ L) (hs : Keeps L σ s) (p : PortIx) : Keeps L σ (State.resendAll s p) := by
  unfold State.resendAll
  extract_lets x s1 s2
  have hs1 : Keeps L σ s1 := by
    unfold s1
    apply State.perfEvent_keeps (List.Subset.trans (by decide) hL)
    apply State.bump_keeps (List.Subset.trans (by decide) hL)
    apply State.setPort_keeps (List.Subset.trans (by decide) hL)
    assumption
  clear_value s1
  have hs2 : Keeps L σ s2 := by
    unfold s2
    refine State.forEach_keeps _ ?_ _ ?_
    · intro s1' a hs1'
      apply State.resendOne_keeps (List.Subset.trans (by decide) hL)
      assumption
    · assumption
  clear_value s2
  refine ite_keeps ?_ ?_
  · assumption
  · refine ite_keeps ?_ ?_
    · apply State.retrain_keeps (List.Subset.trans (by decide) hL)
      assumption
    · assumption

theorem State.sendAck_keeps {L : List Piece} {σ : State} {s : State} (hL : ([.coll, .sent] : List Piece) ⊆ L) (hs : Keeps L σ s) (p : PortIx) (nak : Bool) : Keeps L σ (State.sendAck s p nak) := by
  unfold State.sendAck
  apply State.send_keeps (List.Subset.trans (by decide) hL)
  apply State.reported_keeps (List.Subset.trans (by decide) hL)
  assumption

theorem State.sendFrom_keeps {L : List Piece} {σ : State} {s : State} (hL : ([.regs, .coll, .perf, .sent] : List Piece) ⊆ L) (hs : Keeps L σ s) (p : PortIx) (h : ChunkHeader) (payload : List Byte) (src : Source) : Keeps L σ (State.sendFrom s p h payload src) := by
  unfold State.sendFrom
  extract_lets x s1
  have hs1 : Keeps L σ s1 := by
    unfold s1
    apply State.setPort_keeps (List.Subset.trans (by decide) hL)
    assumption
  clear_value s1
  apply pumpPort_keeps (List.Subset.trans (by decide) hL)
  assumption

theorem State.sendChunk_keeps {L : List Piece} {σ : State} {s : State} (hL : ([.regs, .coll, .perf, .sent] : List Piece) ⊆ L) (hs : Keeps L σ s) (p : PortIx) (h : ChunkHeader) (payload : List Byte) : Keeps L σ (State.sendChunk s p h payload) := by
  unfold State.sendChunk
  apply State.sendFrom_keeps (List.Subset.trans (by decide) hL)
  assumption

theorem State.takeAck_keeps {L : List Piece} {σ : State} {s : State} (hL : ([.regs, .start, .flash, .ledger, .power, .period, .seals, .mem, .tiles, .coll, .mbx, .flt, .cast, .perf, .sent, .stalled, .stallReq] : List Piece) ⊆ L) (hs : Keeps L σ s) (p : PortIx) (h : LinkHeader) : Keeps L σ (State.takeAck s p h) := by
  unfold State.takeAck
  extract_lets x n k x' s1 s2
  have hs1 : Keeps L σ s1 := by
    unfold s1
    apply State.setPort_keeps (List.Subset.trans (by decide) hL)
    assumption
  clear_value s1
  have hs2 : Keeps L σ s2 := by
    unfold s2
    refine ite_keeps ?_ ?_
    · apply State.resendAll_keeps (List.Subset.trans (by decide) hL)
      assumption
    · assumption
  clear_value s2
  apply pumpPort_keeps (List.Subset.trans (by decide) hL)
  assumption

theorem State.takeFrame_keeps {L : List Piece} {σ : State} (hL : ([.regs, .start, .flash, .ledger, .power, .period, .seals, .mem, .tiles, .coll, .mbx, .flt, .cast, .perf, .sent, .stalled, .stallReq] : List Piece) ⊆ L) {s0 : State} (hs0 : Keeps L σ s0) (p : PortIx) (f : DataFrame) : Keeps L σ (State.takeFrame s0 p f).1 := by
  unfold State.takeFrame
  refine ite1_keeps ?_ ?_
  · assumption
  · extract_lets src s s1 x d good s2
    have hs : Keeps L σ s := by
      unfold s
      apply State.setPort_keeps (List.Subset.trans (by decide) hL)
      assumption
    clear_value s
    have hs1 : Keeps L σ s1 := by
      unfold s1
      apply State.takeAck_keeps (List.Subset.trans (by decide) hL)
      assumption
    clear_value s1
    have hs2 : Keeps L σ s2 := by
      unfold s2
      apply State.perfEvent_keeps (List.Subset.trans (by decide) hL)
      apply State.perfEvent_keeps (List.Subset.trans (by decide) hL)
      apply State.setPort_keeps (List.Subset.trans (by decide) hL)
      assumption
    clear_value s2
    refine ite1_keeps ?_ ?_
    · try dsimp only
      apply State.sendAck_keeps (List.Subset.trans (by decide) hL)
      assumption
    · refine ite1_keeps ?_ ?_
      · try dsimp only
        apply State.bump_keeps (List.Subset.trans (by decide) hL)
        assumption
      · refine ite1_keeps ?_ ?_
        · assumption
        · refine ite1_keeps ?_ ?_
          · refine ite1_keeps ?_ ?_
            · try dsimp only
              apply State.sendAck_keeps (List.Subset.trans (by decide) hL)
              assumption
            · try dsimp only
              apply State.sendAck_keeps (List.Subset.trans (by decide) hL)
              assumption
          · try dsimp only
            apply State.sendAck_keeps (List.Subset.trans (by decide) hL)
            assumption

end Sys2Proof.Machine
end

