-- ==== Sys2Proof/Laws/KeepsCastOps.lean ====
section
/-! SUPPORT. What the operations of Machine/CastOps.lean keep: the queue of commands, what was sent, canonical memories, and the parts of the state
they do not write. -/

namespace Sys2Proof.Machine

set_option Elab.async false

theorem State.setCastSlot_keeps {L : List Piece} {σ : State} {s : State} (hL : ([.flash, .cast] : List Piece) ⊆ L) (hs : Keeps L σ s) (i : Nat) (c : CastSlot) : Keeps L σ (State.setCastSlot s i c) := by
  unfold State.setCastSlot
  split
  · refine Keeps.upd (s := s) hL ?_
    assumption
  · split
    · refine Keeps.upd (s := s) hL ?_
      assumption
    · assumption

theorem State.abandonCast_keeps {L : List Piece} {σ : State} {s : State} (hL : ([.regs, .flash, .cast] : List Piece) ⊆ L) (hs : Keeps L σ s) : Keeps L σ (State.abandonCast s) := by
  unfold State.abandonCast
  split
  · assumption
  · extract_lets stop s1 src s2
    have hs1 : Keeps L σ s1 := by
      unfold s1
      split
      · apply State.setCastSlot_keeps (List.Subset.trans (by decide) hL)
        assumption
      · assumption
    clear_value s1
    have hs2 : Keeps L σ s2 := by
      unfold s2
      refine Keeps.upd (s := s1) hL ?_
      assumption
    clear_value s2
    apply State.castSettle_keeps (List.Subset.trans (by decide) hL)
    apply State.flag_keeps (List.Subset.trans (by decide) hL)
    assumption

theorem State.castBegin_keeps {L : List Piece} {σ : State} {s : State} (hL : ([.regs, .flash, .cast] : List Piece) ⊆ L) (hs : Keeps L σ s) (group : Bool) : Keeps L σ (State.castBegin s group) := by
  unfold State.castBegin
  extract_lets gen digest pages hdr v partner run src s1 held src1' s2 s3
  have hs1 : Keeps L σ s1 := by
    unfold s1
    apply State.setCastSlot_keeps (List.Subset.trans (by decide) hL)
    assumption
  clear_value s1
  have hs2 : Keeps L σ s2 := by
    unfold s2
    refine Keeps.upd (s := s1) hL ?_
    assumption
  clear_value s2
  have hs3 : Keeps L σ s3 := by
    unfold s3
    apply State.flag_keeps (List.Subset.trans (by decide) hL)
    apply State.set_keeps (List.Subset.trans (by decide) hL)
    assumption
  clear_value s3
  apply State.set_keeps (List.Subset.trans (by decide) hL)
  apply State.set_keeps (List.Subset.trans (by decide) hL)
  assumption

theorem State.castAtCommit_keeps {L : List Piece} {σ : State} {s : State} (hL : ([.regs, .flash, .cast] : List Piece) ⊆ L) (hs : Keeps L σ s) (st : Nat) : Keeps L σ (State.castAtCommit s st) := by
  unfold State.castAtCommit
  extract_lets every armed named s1 src
  have hs1 : Keeps L σ s1 := by
    unfold s1
    refine ite_keeps ?_ ?_
    · apply State.set_keeps (List.Subset.trans (by decide) hL)
      assumption
    · assumption
  clear_value s1
  refine ite_keeps ?_ ?_
  · assumption
  · refine ite_keeps ?_ ?_
    · apply State.castBegin_keeps (List.Subset.trans (by decide) hL)
      apply State.abandonCast_keeps (List.Subset.trans (by decide) hL)
      assumption
    · refine ite_keeps ?_ ?_
      · apply State.castBegin_keeps (List.Subset.trans (by decide) hL)
        apply State.set_keeps (List.Subset.trans (by decide) hL)
        refine Keeps.upd (s := s1) hL ?_
        assumption
      · assumption

theorem State.castTrigger_keeps {L : List Piece} {σ : State} {s : State} (hL : ([.regs, .cast] : List Piece) ⊆ L) (hs : Keeps L σ s) : Keeps L σ (State.castTrigger s) := by
  unfold State.castTrigger
  refine ite_keeps ?_ ?_
  · apply State.set_keeps (List.Subset.trans (by decide) hL)
    refine Keeps.upd (s := s) hL ?_
    assumption
  · assumption

theorem State.markSecured_keeps {L : List Piece} {σ : State} {s : State} (hL : ([.flash, .cast] : List Piece) ⊆ L) (hs : Keeps L σ s) (i : Nat) : Keeps L σ (State.markSecured s i) := by
  unfold State.markSecured
  split
  · extract_lets damaged
    refine ite_keeps ?_ ?_
    · assumption
    · apply State.setCastSlot_keeps (List.Subset.trans (by decide) hL)
      assumption
  · assumption

theorem State.restoreFail_keeps {L : List Piece} {σ : State} {s : State} (hL : ([.regs] : List Piece) ⊆ L) (hs : Keeps L σ s) (reason : Nat) : Keeps L σ (State.restoreFail s reason) := by
  unfold State.restoreFail
  apply State.set_keeps (List.Subset.trans (by decide) hL)
  apply State.set_keeps (List.Subset.trans (by decide) hL)
  assumption

theorem State.restoreBegin_keeps {L : List Piece} {σ : State} {s : State} (hL : ([.regs, .flash, .mem, .cast, .sent] : List Piece) ⊆ L) (hs : Keeps L σ s) : Keeps L σ (State.restoreBegin s) := by
  unfold State.restoreBegin
  refine ite_keeps ?_ ?_
  · assumption
  · extract_lets s1 s2 r src at_ src1' s3
    have hs1 : Keeps L σ s1 := by
      unfold s1
      apply State.dropShadows_keeps (List.Subset.trans (by decide) hL)
      apply State.abandonCast_keeps (List.Subset.trans (by decide) hL)
      assumption
    clear_value s1
    have hs2 : Keeps L σ s2 := by
      unfold s2
      apply State.set_keeps (List.Subset.trans (by decide) hL)
      apply State.set_keeps (List.Subset.trans (by decide) hL)
      apply State.set_keeps (List.Subset.trans (by decide) hL)
      assumption
    clear_value s2
    have hs3 : Keeps L σ s3 := by
      unfold s3
      refine Keeps.upd (s := s2) hL ?_
      assumption
    clear_value s3
    refine ite_keeps ?_ ?_
    · split
      · assumption
      · refine ite_keeps ?_ ?_
        · apply State.restoreFail_keeps (List.Subset.trans (by decide) hL)
          assumption
        · apply State.restoreFail_keeps (List.Subset.trans (by decide) hL)
          assumption
    · refine ite_keeps ?_ ?_
      · refine ite_keeps ?_ ?_
        · apply State.send_keeps (List.Subset.trans (by decide) hL)
          assumption
        · apply State.restoreFail_keeps (List.Subset.trans (by decide) hL)
          assumption
      · apply State.set_keeps (List.Subset.trans (by decide) hL)
        apply State.set_keeps (List.Subset.trans (by decide) hL)
        apply State.set_keeps (List.Subset.trans (by decide) hL)
        assumption

theorem State.verifyCasts_keeps {L : List Piece} {σ : State} {s : State} (hL : ([.flash] : List Piece) ⊆ L) (hs : Keeps L σ s) : Keeps L σ (State.verifyCasts s) := by
  unfold State.verifyCasts
  split
  · assumption
  · refine Keeps.upd (s := s) hL ?_
    assumption

end Sys2Proof.Machine
end

