-- ==== Sys2Proof/Laws/KeepsCollOps.lean ====
section
/-! SUPPORT. What the operations of Machine/CollOps.lean keep: the queue of commands, what was sent, canonical memories, and the parts of the state
they do not write. -/

namespace Sys2Proof.Machine

set_option Elab.async false

theorem State.undefDest_keeps {L : List Piece} {σ : State} {s : State} (hL : ([.regs, .start, .flash, .ledger, .power, .period, .seals, .mem, .tiles, .coll, .mbx, .flt, .cast, .sent, .stalled, .stallReq, .free] : List Piece) ⊆ L) (hs : Keeps L σ s) (c : Coll) : Keeps L σ (State.undefDest s c) := by
  unfold State.undefDest
  refine ite_keeps ?_ ?_
  · assumption
  · extract_lets src s1
    have hs1 : Keeps L σ s1 := by
      unfold s1
      refine Keeps.upd (s := s) hL ?_
      assumption
    clear_value s1
    apply State.unitStore_keeps (List.Subset.trans (by decide) hL)
    assumption

theorem State.collRecord_keeps {L : List Piece} {σ : State} {s : State} (hL : ([.tiles] : List Piece) ⊆ L) (hs : Keeps L σ s) (c : Coll) (cstatus : Nat) (missing : Nat) (num : Nat) : Keeps L σ (State.collRecord s c cstatus missing num) := by
  unfold State.collRecord
  split
  · apply State.sticky_keeps (List.Subset.trans (by decide) hL)
    apply State.record_keeps (List.Subset.trans (by decide) hL)
    assumption
  · assumption

theorem State.freeStaging_keeps {L : List Piece} {σ : State} {s : State} (hL : ([.coll, .sent] : List Piece) ⊆ L) (hs : Keeps L σ s) (port : Nat) (n : Nat) : Keeps L σ (State.freeStaging s port n) := by
  unfold State.freeStaging
  split
  · extract_lets src s1
    have hs1 : Keeps L σ s1 := by
      unfold s1
      apply State.setPort_keeps (List.Subset.trans (by decide) hL)
      assumption
    clear_value s1
    refine ite_keeps ?_ ?_
    · apply State.sendAck_keeps (List.Subset.trans (by decide) hL)
      assumption
    · assumption
  · assumption

theorem State.collDepth_keeps {L : List Piece} {σ : State} {s : State} (hL : ([.regs] : List Piece) ⊆ L) (hs : Keeps L σ s) : Keeps L σ (State.collDepth s) := by
  unfold State.collDepth
  extract_lets a
  apply State.set_keeps (List.Subset.trans (by decide) hL)
  apply State.set_keeps (List.Subset.trans (by decide) hL)
  assumption

theorem State.setCollQueue_keeps {L : List Piece} {σ : State} {s : State} (hL : ([.regs, .coll] : List Piece) ⊆ L) (hs : Keeps L σ s) (q : List Coll) : Keeps L σ (State.setCollQueue s q) := by
  unfold State.setCollQueue
  apply State.collDepth_keeps (List.Subset.trans (by decide) hL)
  refine Keeps.upd (s := s) hL ?_
  assumption

theorem State.abandonColls_keeps {L : List Piece} {σ : State} {s : State} (hL : ([.regs, .start, .flash, .ledger, .power, .period, .seals, .mem, .tiles, .coll, .mbx, .flt, .cast, .sent, .stalled, .stallReq, .free] : List Piece) ⊆ L) (hs : Keeps L σ s) (which : Coll → Bool) : Keeps L σ (State.abandonColls s which) := by
  unfold State.abandonColls
  extract_lets gone s1 s2
  have hs1 : Keeps L σ s1 := by
    unfold s1
    apply State.setCollQueue_keeps (List.Subset.trans (by decide) hL)
    assumption
  clear_value s1
  have hs2 : Keeps L σ s2 := by
    unfold s2
    apply State.flagIf_keeps (List.Subset.trans (by decide) hL)
    assumption
  clear_value s2
  refine State.forEach_keeps _ ?_ _ ?_
  · intro s1' a hs1'
    extract_lets s11' m src
    have hs11' : Keeps L σ s11' := by
      unfold s11'
      refine State.forEach_keeps _ ?_ _ ?_
      · intro s2' a1' hs2'
        apply State.freeStaging_keeps (List.Subset.trans (by decide) hL)
        assumption
      · assumption
    clear_value s11'
    have hsrc : Keeps L σ src := by
      unfold src
      apply State.undefDest_keeps (List.Subset.trans (by decide) hL)
      assumption
    clear_value src
    refine ite_keeps ?_ ?_
    · assumption
    · apply State.collRecord_keeps (List.Subset.trans (by decide) hL)
      refine Keeps.upd (s := src) hL ?_
      assumption
  · assumption

theorem State.flushTile_keeps {L : List Piece} {σ : State} {s : State} (hL : ([.regs, .tiles] : List Piece) ⊆ L) (hs : Keeps L σ s) (n : TileIx) : Keeps L σ (State.flushTile s n) := by
  unfold State.flushTile
  extract_lets t s1 s2 sf
  have h2 : Keeps L σ s2 := State.set_keeps (List.Subset.trans (by decide) hL) (State.flagIf_keeps (List.Subset.trans (by decide) hL) hs _ _) _ _
  have e : s2.tile n = t := by
    simp only [s2, s1, t, State.flagIf]
    split <;> rfl
  clear_value s2 t
  subst e
  exact State.setTile_keeps (List.Subset.trans (by decide) hL) h2 _ _ (fun m => TileSt.wf_upd (t := s2.tile n) rfl rfl (State.memWf_tile m n))

theorem State.flushQueues_keeps {L : List Piece} {σ : State} {s : State} (hL : ([.regs, .tiles, .stalled, .free] : List Piece) ⊆ L) (hs : Keeps L σ s) : Keeps L σ (State.flushQueues s) := by
  unfold State.flushQueues
  extract_lets s1
  have hs1 : Keeps L σ s1 := by
    unfold s1
    refine State.forEach_keeps _ ?_ _ ?_
    · intro s1' a hs1'
      apply State.flushTile_keeps (List.Subset.trans (by decide) hL)
      assumption
    · assumption
  clear_value s1
  apply State.dropWaiting_keeps (List.Subset.trans (by decide) hL)
  refine Keeps.upd (s := s1) hL ?_
  assumption

end Sys2Proof.Machine
end

