-- ==== Sys2Proof/Laws/KeepsSealOps.lean ====
section
/-! SUPPORT. What the operations of Machine/SealOps.lean keep: the queue of commands, what was sent, canonical memories, and the parts of the state
they do not write. -/

namespace Sys2Proof.Machine

set_option Elab.async false

theorem State.halt_keeps {L : List Piece} {σ : State} {s : State} (hL : ([.regs, .start, .flash, .ledger, .power, .period, .seals, .mem, .tiles, .coll, .mbx, .flt, .cast, .sent, .stalled] : List Piece) ⊆ L) (hs : Keeps L σ s) : Keeps L σ (State.halt s) := by
  unfold State.halt
  refine ite_keeps ?_ ?_
  · assumption
  · apply State.post_keeps (List.Subset.trans (by decide) hL)
    apply State.cause_keeps (List.Subset.trans (by decide) hL)
    apply State.set_keeps (List.Subset.trans (by decide) hL)
    assumption

theorem State.replayCheck_keeps {L : List Piece} {σ : State} {s : State} (hL : ([.regs, .start, .flash, .ledger, .power, .period, .seals, .mem, .tiles, .coll, .mbx, .flt, .cast, .sent, .stalled] : List Piece) ⊆ L) (hs : Keeps L σ s) (d : Decision) : Keeps L σ (State.replayCheck s d) := by
  unfold State.replayCheck
  refine ite_keeps ?_ ?_
  · assumption
  · split
    · apply State.set_keeps (List.Subset.trans (by decide) hL)
      assumption
    · extract_lets src s1
      have hs1 : Keeps L σ s1 := by
        unfold s1
        refine Keeps.upd (s := s) hL ?_
        assumption
      clear_value s1
      refine ite_keeps ?_ ?_
      · refine ite_keeps ?_ ?_
        · apply State.set_keeps (List.Subset.trans (by decide) hL)
          assumption
        · refine ite_keeps ?_ ?_
          · apply State.set_keeps (List.Subset.trans (by decide) hL)
            assumption
          · assumption
      · apply State.post_keeps (List.Subset.trans (by decide) hL)
        apply State.halt_keeps (List.Subset.trans (by decide) hL)
        apply State.set_keeps (List.Subset.trans (by decide) hL)
        assumption

theorem State.cksCount_keeps {L : List Piece} {σ : State} {s : State} (hL : ([.regs, .start, .flash, .ledger, .power, .period, .seals, .mem, .tiles, .coll, .mbx, .flt, .cast, .sent, .stalled] : List Piece) ⊆ L) (hs : Keeps L σ s) : Keeps L σ (State.cksCount s) := by
  unfold State.cksCount
  refine State.forEach_keeps _ ?_ _ hs
  intro s n hs
  split
  · exact hs
  · extract_lets t h s1
    have h1 : Keeps L σ s1 := State.setTile_keeps (List.Subset.trans (by decide) hL) hs _ _ (fun m => State.memWf_tile m n)
    split
    · exact State.fenceUnit_keeps (List.Subset.trans (by decide) hL) h1 _ _ _
    · exact h1

theorem State.assayStart_keeps {L : List Piece} {σ : State} {s : State} (hL : ([.flt] : List Piece) ⊆ L) (hs : Keeps L σ s) (st : Nat) : Keeps L σ (State.assayStart s st) := by
  unfold State.assayStart
  extract_lets k sweep pages src
  split
  · refine ite_keeps ?_ ?_
    · refine Keeps.upd (s := s) hL ?_
      assumption
    · assumption
  · assumption

theorem State.stepOver_keeps {L : List Piece} {σ : State} {s : State} (hL : ([.period, .seals] : List Piece) ⊆ L) (hs : Keeps L σ s) : Keeps L σ (State.stepOver s) := by
  unfold State.stepOver
  refine Keeps.upd (s := s) hL ?_
  assumption

theorem State.ladderUpdate_keeps {L : List Piece} {σ : State} {s : State} (hL : ([.regs, .start, .flash, .ledger, .power, .period, .seals, .ladder, .mem, .tiles, .coll, .mbx, .flt, .cast, .sent, .stalled] : List Piece) ⊆ L) (hs : Keeps L σ s) (d : Decision) : Keeps L σ (State.ladderUpdate s d) := by
  unfold State.ladderUpdate
  refine ite_keeps ?_ ?_
  · assumption
  · extract_lets s1 origin s2 s3
    have hs1 : Keeps L σ s1 := by
      unfold s1
      refine Keeps.upd (s := s) hL ?_
      assumption
    clear_value s1
    have hs2 : Keeps L σ s2 := by
      unfold s2
      refine ite_keeps ?_ ?_
      · apply State.set_keeps (List.Subset.trans (by decide) hL)
        assumption
      · refine ite_keeps ?_ ?_
        · apply State.bump_keeps (List.Subset.trans (by decide) hL)
          assumption
        · assumption
    clear_value s2
    have hs3 : Keeps L σ s3 := by
      unfold s3
      refine ite_keeps ?_ ?_
      · refine Keeps.upd (s := s2) hL ?_
        assumption
      · assumption
    clear_value s3
    refine ite_keeps ?_ ?_
    · apply State.halt_keeps (List.Subset.trans (by decide) hL)
      assumption
    · assumption

theorem State.applyRungs_keeps {L : List Piece} {σ : State} {s : State} (hL : ([.regs, .ladder] : List Piece) ⊆ L) (hs : Keeps L σ s) : Keeps L σ (State.applyRungs s) := by
  unfold State.applyRungs
  extract_lets up down move s1 s2
  have hs1 : Keeps L σ s1 := by
    unfold s1
    refine Keeps.upd (s := s) hL ?_
    assumption
  clear_value s1
  have hs2 : Keeps L σ s2 := by
    unfold s2
    apply State.flagIf_keeps (List.Subset.trans (by decide) hL)
    apply State.flagIf_keeps (List.Subset.trans (by decide) hL)
    assumption
  clear_value s2
  refine ite_keeps ?_ ?_
  · apply State.set_keeps (List.Subset.trans (by decide) hL)
    assumption
  · assumption

theorem State.rungsDue_keeps {L : List Piece} {σ : State} {s : State} (hL : ([.regs, .ladder] : List Piece) ⊆ L) (hs : Keeps L σ s) (was : Bool) : Keeps L σ (State.rungsDue s was) := by
  unfold State.rungsDue
  refine ite_keeps ?_ ?_
  · apply State.applyRungs_keeps (List.Subset.trans (by decide) hL)
    assumption
  · assumption

theorem State.releaseFrame_keeps {L : List Piece} {σ : State} {s : State} (hL : ([.mem] : List Piece) ⊆ L) (hs : Keeps L σ s) (page : Nat) (f : Nat) : Keeps L σ (State.releaseFrame s page f) := by
  unfold State.releaseFrame
  extract_lets pin src
  refine ite_keeps ?_ ?_
  · refine Keeps.upd (s := s) hL ?_
    assumption
  · refine Keeps.upd (s := s) hL ?_
    assumption

theorem State.switchPages_keeps {L : List Piece} {σ : State} {s : State} (hL : ([.regs, .mem] : List Piece) ⊆ L) (hs : Keeps L σ s) : Keeps L σ (State.switchPages s) := by
  unfold State.switchPages
  extract_lets old frames src s1 s2 s3
  have hs1 : Keeps L σ s1 := by
    unfold s1
    refine Keeps.upd (s := s) hL ?_
    assumption
  clear_value s1
  have hs2 : Keeps L σ s2 := by
    unfold s2
    apply State.set_keeps (List.Subset.trans (by decide) hL)
    assumption
  clear_value s2
  have hs3 : Keeps L σ s3 := by
    unfold s3
    apply State.set_keeps (List.Subset.trans (by decide) hL)
    assumption
  clear_value s3
  refine State.forEach_keeps _ ?_ _ ?_
  · intro s1' a hs1'
    apply State.releaseFrame_keeps (List.Subset.trans (by decide) hL)
    assumption
  · assumption

theorem State.logDecision_keeps {L : List Piece} {σ : State} {s : State} (hL : ([.regs, .start, .flash, .ledger, .power, .period, .seals, .mem, .tiles, .coll, .mbx, .flt, .cast, .sent, .stalled] : List Piece) ⊆ L) (hs : Keeps L σ s) (d : Decision) : Keeps L σ (State.logDecision s d) := by
  unfold State.logDecision
  extract_lets head s1 s2 src
  have hs1 : Keeps L σ s1 := by
    unfold s1
    apply State.moduleWrite_keeps (List.Subset.trans (by decide) hL)
    assumption
  clear_value s1
  have hs2 : Keeps L σ s2 := by
    unfold s2
    apply State.set_keeps (List.Subset.trans (by decide) hL)
    assumption
  clear_value s2
  refine Keeps.upd (s := s2) hL ?_
  assumption

theorem State.logOnce_keeps {L : List Piece} {σ : State} {s : State} (hL : ([.regs, .start, .flash, .ledger, .power, .period, .seals, .mem, .tiles, .coll, .mbx, .flt, .cast, .sent, .stalled] : List Piece) ⊆ L) (hs : Keeps L σ s) (d : Decision) : Keeps L σ (State.logOnce s d) := by
  unfold State.logOnce
  refine ite_keeps ?_ ?_
  · assumption
  · apply State.logDecision_keeps (List.Subset.trans (by decide) hL)
    assumption

theorem State.sealRegs_keeps {L : List Piece} {σ : State} {s : State} (hL : ([.regs] : List Piece) ⊆ L) (hs : Keeps L σ s) (d : Decision) : Keeps L σ (State.sealRegs s d) := by
  unfold State.sealRegs
  extract_lets r s1 s2 s3
  have hs1 : Keeps L σ s1 := by
    unfold s1
    apply State.set_keeps (List.Subset.trans (by decide) hL)
    apply State.set_keeps (List.Subset.trans (by decide) hL)
    assumption
  clear_value s1
  have hs2 : Keeps L σ s2 := by
    unfold s2
    apply State.set_keeps (List.Subset.trans (by decide) hL)
    apply State.set_keeps (List.Subset.trans (by decide) hL)
    assumption
  clear_value s2
  have hs3 : Keeps L σ s3 := by
    unfold s3
    apply State.flagIf_keeps (List.Subset.trans (by decide) hL)
    apply State.flagIf_keeps (List.Subset.trans (by decide) hL)
    assumption
  clear_value s3
  refine ite_keeps ?_ ?_
  · assumption
  · apply State.set_keeps (List.Subset.trans (by decide) hL)
    assumption

theorem State.applyCommit_keeps {L : List Piece} {σ : State} {s : State} (hL : ([.regs, .start, .flash, .ledger, .power, .period, .seals, .ladder, .mem, .tiles, .coll, .mbx, .flt, .cast, .sent, .stalled] : List Piece) ⊆ L) (hs : Keeps L σ s) (d : Decision) : Keeps L σ (State.applyCommit s d) := by
  unfold State.applyCommit
  extract_lets s1 s2 src s3 s4 s5
  have hs1 : Keeps L σ s1 := by
    unfold s1
    apply State.sealRegs_keeps (List.Subset.trans (by decide) hL)
    apply State.logOnce_keeps (List.Subset.trans (by decide) hL)
    apply State.switchPages_keeps (List.Subset.trans (by decide) hL)
    assumption
  clear_value s1
  have hs2 : Keeps L σ s2 := by
    unfold s2
    apply State.set_keeps (List.Subset.trans (by decide) hL)
    assumption
  clear_value s2
  have hs3 : Keeps L σ s3 := by
    unfold s3
    refine Keeps.upd (s := s2) hL ?_
    assumption
  clear_value s3
  have hs4 : Keeps L σ s4 := by
    unfold s4
    apply State.rungsDue_keeps (List.Subset.trans (by decide) hL)
    apply State.ladderUpdate_keeps (List.Subset.trans (by decide) hL)
    apply State.stepOver_keeps (List.Subset.trans (by decide) hL)
    assumption
  clear_value s4
  have hs5 : Keeps L σ s5 := by
    unfold s5
    apply State.castAtCommit_keeps (List.Subset.trans (by decide) hL)
    apply State.assayStart_keeps (List.Subset.trans (by decide) hL)
    apply State.cksCount_keeps (List.Subset.trans (by decide) hL)
    assumption
  clear_value s5
  apply State.replayCheck_keeps (List.Subset.trans (by decide) hL)
  assumption

theorem State.countRun_keeps {L : List Piece} {σ : State} {s : State} (hL : ([.regs, .start, .flash, .ledger, .power, .period, .seals, .mem, .tiles, .coll, .mbx, .flt, .cast, .sent, .stalled] : List Piece) ⊆ L) (hs : Keeps L σ s) : Keeps L σ (State.countRun s) := by
  unfold State.countRun
  extract_lets run s1
  have hs1 : Keeps L σ s1 := by
    unfold s1
    apply State.bump_keeps (List.Subset.trans (by decide) hL)
    assumption
  clear_value s1
  refine ite_keeps ?_ ?_
  · apply State.post_keeps (List.Subset.trans (by decide) hL)
    apply State.cause_keeps (List.Subset.trans (by decide) hL)
    assumption
  · assumption

theorem State.countDiscard_keeps {L : List Piece} {σ : State} {s : State} (hL : ([.regs, .start, .flash, .ledger, .power, .period, .seals, .mem, .tiles, .coll, .mbx, .flt, .cast, .sent, .stalled] : List Piece) ⊆ L) (hs : Keeps L σ s) : Keeps L σ (State.countDiscard s) := by
  unfold State.countDiscard
  apply State.countRun_keeps (List.Subset.trans (by decide) hL)
  refine Keeps.upd (s := s) hL ?_
  assumption

theorem State.dropItems_keeps {L : List Piece} {σ : State} {s : State} (hL : ([.power] : List Piece) ⊆ L) (hs : Keeps L σ s) : Keeps L σ (State.dropItems s) := by
  unfold State.dropItems
  refine Keeps.upd (s := s) hL ?_
  assumption

theorem State.dropStep_keeps {L : List Piece} {σ : State} {s : State} (hL : ([.regs, .start, .flash, .ledger, .power, .period, .seals, .mem, .tiles, .coll, .mbx, .flt, .cast, .sent, .stalled, .stallReq, .free] : List Piece) ⊆ L) (hs : Keeps L σ s) : Keeps L σ (State.dropStep s) := by
  unfold State.dropStep
  apply State.stepOver_keeps (List.Subset.trans (by decide) hL)
  apply State.flushQueues_keeps (List.Subset.trans (by decide) hL)
  apply State.dropShadows_keeps (List.Subset.trans (by decide) hL)
  apply State.abandonColls_keeps (List.Subset.trans (by decide) hL)
  apply State.dropItems_keeps (List.Subset.trans (by decide) hL)
  assumption

theorem State.dropLate_keeps {L : List Piece} {σ : State} {s : State} (hL : ([.seals] : List Piece) ⊆ L) (hs : Keeps L σ s) : Keeps L σ (State.dropLate s) := by
  unfold State.dropLate
  refine Keeps.upd (s := s) hL ?_
  assumption

theorem State.applyDiscard_keeps {L : List Piece} {σ : State} {s : State} (hL : ([.regs, .start, .flash, .ledger, .power, .period, .seals, .ladder, .mem, .tiles, .coll, .mbx, .flt, .cast, .sent, .stalled, .stallReq, .free] : List Piece) ⊆ L) (hs : Keeps L σ s) (d : Decision) : Keeps L σ (State.applyDiscard s d) := by
  unfold State.applyDiscard
  extract_lets r s1 s2 s3 s4
  have hs1 : Keeps L σ s1 := by
    unfold s1
    apply State.sealRegs_keeps (List.Subset.trans (by decide) hL)
    refine ite_keeps ?_ ?_
    · apply State.dropLate_keeps (List.Subset.trans (by decide) hL)
      apply State.logOnce_keeps (List.Subset.trans (by decide) hL)
      assumption
    · apply State.dropStep_keeps (List.Subset.trans (by decide) hL)
      apply State.logOnce_keeps (List.Subset.trans (by decide) hL)
      assumption
  clear_value s1
  have hs2 : Keeps L σ s2 := by
    unfold s2
    refine ite_keeps ?_ ?_
    · apply State.cause_keeps (List.Subset.trans (by decide) hL)
      assumption
    · assumption
  clear_value s2
  have hs3 : Keeps L σ s3 := by
    unfold s3
    refine ite_keeps ?_ ?_
    · apply State.post_keeps (List.Subset.trans (by decide) hL)
      assumption
    · assumption
  clear_value s3
  have hs4 : Keeps L σ s4 := by
    unfold s4
    apply State.cksCount_keeps (List.Subset.trans (by decide) hL)
    apply State.rungsDue_keeps (List.Subset.trans (by decide) hL)
    apply State.ladderUpdate_keeps (List.Subset.trans (by decide) hL)
    refine ite_keeps ?_ ?_
    · apply State.countRun_keeps (List.Subset.trans (by decide) hL)
      assumption
    · apply State.countDiscard_keeps (List.Subset.trans (by decide) hL)
      assumption
  clear_value s4
  apply State.replayCheck_keeps (List.Subset.trans (by decide) hL)
  assumption

theorem State.leaderDecides_keeps {L : List Piece} {σ : State} {s : State} (hL : ([.regs, .start, .flash, .ledger, .power, .period, .seals, .mem, .tiles, .coll, .mbx, .flt, .cast, .perf, .sent, .stalled] : List Piece) ⊆ L) (hs : Keeps L σ s) (g : Group) : Keeps L σ (State.leaderDecides s g) := by
  unfold State.leaderDecides
  extract_lets d src s1 gi targets
  have hs1 : Keeps L σ s1 := by
    unfold s1
    apply State.logDecision_keeps (List.Subset.trans (by decide) hL)
    refine Keeps.upd (s := s) hL ?_
    assumption
  clear_value s1
  refine State.forEach_keeps _ ?_ _ ?_
  · intro s1' a hs1'
    split
    · split
      · apply State.sendChunk_keeps (List.Subset.trans (by decide) hL)
        assumption
      · assumption
    · assumption
  · assumption

theorem State.takeVote_keeps {L : List Piece} {σ : State} {s : State} (hL : ([.regs, .start, .flash, .ledger, .power, .period, .seals, .mem, .tiles, .coll, .mbx, .flt, .cast, .perf, .sent, .stalled] : List Piece) ⊆ L) (hs : Keeps L σ s) (g : Group) (pos : Nat) (v : Vote) : Keeps L σ (State.takeVote s g pos v) := by
  unfold State.takeVote
  refine ite_keeps ?_ ?_
  · assumption
  · extract_lets src s1
    have hs1 : Keeps L σ s1 := by
      unfold s1
      refine Keeps.upd (s := s) hL ?_
      assumption
    clear_value s1
    refine ite_keeps ?_ ?_
    · apply State.leaderDecides_keeps (List.Subset.trans (by decide) hL)
      assumption
    · assumption

theorem State.castVote_keeps {L : List Piece} {σ : State} {s : State} (hL : ([.regs, .start, .flash, .ledger, .power, .period, .seals, .mem, .tiles, .coll, .mbx, .flt, .cast, .perf, .sent, .stalled] : List Piece) ⊆ L) (hs : Keeps L σ s) (v : Vote) : Keeps L σ (State.castVote s v) := by
  unfold State.castVote
  extract_lets src s1 s2
  have hs1 : Keeps L σ s1 := by
    unfold s1
    refine Keeps.upd (s := s) hL ?_
    assumption
  clear_value s1
  have hs2 : Keeps L σ s2 := by
    unfold s2
    refine ite_keeps ?_ ?_
    · assumption
    · apply State.set_keeps (List.Subset.trans (by decide) hL)
      assumption
  clear_value s2
  split
  · apply State.takeVote_keeps (List.Subset.trans (by decide) hL)
    assumption
  · refine ite_keeps ?_ ?_
    · apply State.takeVote_keeps (List.Subset.trans (by decide) hL)
      assumption
    · extract_lets dst
      split
      · split
        · apply State.sendChunk_keeps (List.Subset.trans (by decide) hL)
          assumption
        · assumption
      · assumption

theorem State.forwardDecision_keeps {L : List Piece} {σ : State} {s : State} (hL : ([.regs, .coll, .perf, .sent] : List Piece) ⊆ L) (hs : Keeps L σ s) (d : Decision) : Keeps L σ (State.forwardDecision s d) := by
  unfold State.forwardDecision
  split
  · assumption
  · refine ite_keeps ?_ ?_
    · assumption
    · refine State.forEach_keeps _ ?_ _ ?_
      · intro s1' a hs1'
        split
        · split
          · apply State.sendChunk_keeps (List.Subset.trans (by decide) hL)
            assumption
          · assumption
        · assumption
      · assumption

theorem State.queryDiscard_keeps {L : List Piece} {σ : State} {s : State} (hL : ([.regs, .start, .flash, .ledger, .power, .period, .seals, .ladder, .mem, .tiles, .coll, .mbx, .flt, .cast, .sent, .stalled] : List Piece) ⊆ L) (hs : Keeps L σ s) : Keeps L σ (State.queryDiscard s) := by
  unfold State.queryDiscard
  refine ite_keeps ?_ ?_
  · assumption
  · extract_lets s1
    have hs1 : Keeps L σ s1 := by
      unfold s1
      apply State.cause_keeps (List.Subset.trans (by decide) hL)
      apply State.set_keeps (List.Subset.trans (by decide) hL)
      apply State.stepOver_keeps (List.Subset.trans (by decide) hL)
      apply State.dropShadows_keeps (List.Subset.trans (by decide) hL)
      assumption
    clear_value s1
    apply State.rungsDue_keeps (List.Subset.trans (by decide) hL)
    apply State.countDiscard_keeps (List.Subset.trans (by decide) hL)
    assumption

end Sys2Proof.Machine
end

