-- ==== Sys2Proof/Laws/KeepsOperands.lean ====
section
/-! SUPPORT. What the operations of Machine/Operands.lean keep: the queue of commands, what was sent, canonical memories, and the parts of the state
they do not write. -/

namespace Sys2Proof.Machine

set_option Elab.async false

theorem State.tmRead_keeps {L : List Piece} {σ : State} (hL : ([.regs, .mem, .tiles] : List Piece) ⊆ L) {s0 : State} (hs0 : Keeps L σ s0) (n : TileIx) (a : Nat) (len : Nat) : Keeps L σ (State.tmRead s0 n a len).1 := by
  unfold State.tmRead
  extract_lets k s
  have hs : Keeps L σ s := by
    unfold s
    apply State.larderHeal_keeps (List.Subset.trans (by decide) hL)
    apply State.touch_keeps (List.Subset.trans (by decide) hL)
    assumption
  clear_value s
  split
  · refine ite1_keeps ?_ ?_
    · try dsimp only
      refine ite_keeps ?_ ?_
      · apply State.taintTile_keeps (List.Subset.trans (by decide) hL)
        assumption
      · assumption
    · try dsimp only
      apply State.taintTile_keeps (List.Subset.trans (by decide) hL)
      apply State.failTile_keeps (List.Subset.trans (by decide) hL)
      apply State.flag_keeps (List.Subset.trans (by decide) hL)
      assumption

theorem State.readTensor_keeps {L : List Piece} {σ : State} {s : State} (hL : ([] : List Piece) ⊆ L) (get : State → Nat → Nat → State × List Byte × Bool) (hs : Keeps L σ s)
    (p : Plane) (rows cols : Nat) (hg : ∀ s a n, Keeps L σ s → Keeps L σ (get s a n).1) : Keeps L σ (State.readTensor get s p rows cols).1 := by
  unfold State.readTensor
  dsimp only
  split
  · refine foldl1_keeps _ ?_ _ hs
    intro q a hq
    dsimp only
    split <;> first | exact hg _ _ _ (hg _ _ _ hq) | exact hg _ _ _ hq
  · refine foldl1_keeps _ ?_ _ hs
    intro q a hq
    dsimp only
    split <;> first | exact hg _ _ _ (hg _ _ _ hq) | exact hg _ _ _ hq

theorem State.readPlane_keeps {L : List Piece} {σ : State} {s : State} (hL : ([.regs, .mem, .tiles] : List Piece) ⊆ L) (hs : Keeps L σ s) (n : TileIx) (p : Plane) (rows : Nat) (cols : Nat) : Keeps L σ (State.readPlane s n p rows cols).1 := by
  unfold State.readPlane
  apply State.readTensor_keeps (List.Subset.trans (by decide) hL)
  · assumption
  · exact fun s a n h => State.tmRead_keeps (List.Subset.trans (by decide) hL) h _ _ _

theorem State.tmWrite_keeps {L : List Piece} {σ : State} {s : State} (hL : ([.regs, .mem, .tiles] : List Piece) ⊆ L) (hs : Keeps L σ s) (n : TileIx) (a : Nat) (data : List Byte) (poison : Bool) : Keeps L σ (State.tmWrite s n a data poison) := by
  unfold State.tmWrite
  extract_lets k s1
  have hs1 : Keeps L σ s1 := by
    unfold s1
    apply State.tileWrite_keeps (List.Subset.trans (by decide) hL)
    apply State.touch_keeps (List.Subset.trans (by decide) hL)
    assumption
  clear_value s1
  refine ite_keeps ?_ ?_
  · assumption
  · apply State.failTile_keeps (List.Subset.trans (by decide) hL)
    apply State.flag_keeps (List.Subset.trans (by decide) hL)
    assumption

theorem State.writePlane_keeps {L : List Piece} {σ : State} {s : State} (hL : ([.regs, .mem, .tiles] : List Piece) ⊆ L) (hs : Keeps L σ s) (n : TileIx) (p : Plane) (cols : Nat) (codes : List (List Nat)) (scales : List (List Nat)) (poison : Bool) : Keeps L σ (State.writePlane s n p cols codes scales poison) := by
  unfold State.writePlane
  refine State.forEach_keeps _ ?_ _ ?_
  · intro s1' a hs1'
    extract_lets s1
    have hs1 : Keeps L σ s1 := by
      unfold s1
      apply State.tmWrite_keeps (List.Subset.trans (by decide) hL)
      assumption
    clear_value s1
    refine ite_keeps ?_ ?_
    · apply State.tmWrite_keeps (List.Subset.trans (by decide) hL)
      assumption
    · assumption
  · assumption

end Sys2Proof.Machine
end

