-- ==== Sys2Proof/Laws/KeepsLadleOps.lean ====
section
/-! SUPPORT. What the operations of Machine/LadleOps.lean keep: the queue of commands, what was sent, canonical memories, and the parts of the state
they do not write. -/

namespace Sys2Proof.Machine

set_option Elab.async false

theorem State.clipRead_keeps {L : List Piece} {σ : State} {s : State} (hL : ([.regs, .mem, .tiles] : List Piece) ⊆ L) (hs : Keeps L σ s) (n : TileIx) (l : Nat) (d : BitVec 512) : Keeps L σ (State.clipRead s n l d) := by
  unfold State.clipRead
  refine ite_keeps ?_ ?_
  · apply State.tmRead_keeps (List.Subset.trans (by decide) hL)
    assumption
  · assumption

theorem State.ladleEnd_keeps {L : List Piece} {σ : State} {s : State} (hL : ([.regs, .tiles, .perf] : List Piece) ⊆ L) (hs : Keeps L σ s) (n : TileIx) (l : Nat) (d : BitVec 512) (r : LRep) : Keeps L σ (State.ladleEnd s n l d r) := by
  unfold State.ladleEnd
  extract_lets k a b c a1' s1 s2 s3
  have ha : Keeps L σ a := by
    unfold a
    apply State.flagIf_keeps (List.Subset.trans (by decide) hL)
    apply State.flagIf_keeps (List.Subset.trans (by decide) hL)
    apply State.flagIf_keeps (List.Subset.trans (by decide) hL)
    apply State.flagIf_keeps (List.Subset.trans (by decide) hL)
    assumption
  clear_value a
  have hb : Keeps L σ b := by
    unfold b
    apply State.flagIf_keeps (List.Subset.trans (by decide) hL)
    assumption
  clear_value b
  have hc : Keeps L σ c := by
    unfold c
    apply State.bump_keeps (List.Subset.trans (by decide) hL)
    apply State.bump_keeps (List.Subset.trans (by decide) hL)
    assumption
  clear_value c
  have ha1' : Keeps L σ a1' := by
    unfold a1'
    apply State.flagIf_keeps (List.Subset.trans (by decide) hL)
    apply State.flagIf_keeps (List.Subset.trans (by decide) hL)
    assumption
  clear_value a1'
  have hs1 : Keeps L σ s1 := by
    unfold s1
    refine ite_keeps ?_ ?_
    · refine ite_keeps ?_ ?_
      · apply State.set_keeps (List.Subset.trans (by decide) hL)
        assumption
      · assumption
    · apply State.set_keeps (List.Subset.trans (by decide) hL)
      apply State.set_keeps (List.Subset.trans (by decide) hL)
      apply State.flagIf_keeps (List.Subset.trans (by decide) hL)
      assumption
  clear_value s1
  have hs2 : Keeps L σ s2 := by
    unfold s2
    apply State.modTile_keeps (List.Subset.trans (by decide) hL)
    · assumption
    · exact fun t ht => TileSt.wf_upd (t := t) rfl rfl ht
  clear_value s2
  have hs3 : Keeps L σ s3 := by
    unfold s3
    apply State.complete_keeps (List.Subset.trans (by decide) hL)
    apply State.sticky_keeps (List.Subset.trans (by decide) hL)
    assumption
  clear_value s3
  apply State.perfEvent_keeps (List.Subset.trans (by decide) hL)
  apply State.perfLadle_keeps (List.Subset.trans (by decide) hL)
  apply State.perfLadle_keeps (List.Subset.trans (by decide) hL)
  apply State.perfLadle_keeps (List.Subset.trans (by decide) hL)
  assumption

theorem State.liveSlots_keeps {L : List Piece} {σ : State} {s : State} (hL : ([.regs] : List Piece) ⊆ L) (hs : Keeps L σ s) (n : TileIx) : Keeps L σ (State.liveSlots s n) := by
  unfold State.liveSlots
  extract_lets k
  apply State.set_keeps (List.Subset.trans (by decide) hL)
  apply State.set_keeps (List.Subset.trans (by decide) hL)
  assumption

theorem State.makeOperand_keeps {L : List Piece} {σ : State} {s : State} (hL : ([.regs, .mem, .tiles] : List Piece) ⊆ L) (hs : Keeps L σ s) (n : TileIx) (l : Nat) (op : Nat) (d : BitVec 512) : Keeps L σ (State.makeOperand s n l op d).1 := by
  unfold State.makeOperand
  extract_lets status clips
  refine ite1_keeps ?_ ?_
  · assumption
  · split
    rename_i s1 src bad heq
    have hs1 : Keeps L σ s1 := by
      rw [show s1 = _ from (congrArg Prod.fst heq).symm]
      apply State.readPlane_keeps (List.Subset.trans (by decide) hL)
      apply State.clipRead_keeps (List.Subset.trans (by decide) hL)
      assumption
    clear heq
    refine ite1_keeps ?_ ?_
    · assumption
    · extract_lets c r
      assumption

theorem State.opConvertCmd_keeps {L : List Piece} {σ : State} {s : State} (hL : ([.regs, .mem, .tiles, .perf] : List Piece) ⊆ L) (hs : Keeps L σ s) (n : TileIx) (l : Nat) (d0 : BitVec 512) : Keeps L σ (State.opConvertCmd s n l d0) := by
  unfold State.opConvertCmd
  extract_lets d s0 status clips dst
  have hs0 : Keeps L σ s0 := by
    unfold s0
    apply State.setLayer_keeps (List.Subset.trans (by decide) hL)
    assumption
  clear_value s0
  refine ite_keeps ?_ ?_
  · apply State.ladleEnd_keeps (List.Subset.trans (by decide) hL)
    assumption
  · split
    rename_i s1 src bad heq
    have hs1 : Keeps L σ s1 := by
      rw [show s1 = _ from (congrArg Prod.fst heq).symm]
      apply State.readPlane_keeps (List.Subset.trans (by decide) hL)
      apply State.clipRead_keeps (List.Subset.trans (by decide) hL)
      assumption
    clear heq
    refine ite_keeps ?_ ?_
    · extract_lets x scales
      apply State.ladleEnd_keeps (List.Subset.trans (by decide) hL)
      apply State.writePlane_keeps (List.Subset.trans (by decide) hL)
      assumption
    · extract_lets c s2
      have hs2 : Keeps L σ s2 := by
        unfold s2
        refine State.forEach_keeps _ ?_ _ ?_
        · intro s1' a hs1'
          apply State.tmWrite_keeps (List.Subset.trans (by decide) hL)
          assumption
        · assumption
      clear_value s2
      apply State.ladleEnd_keeps (List.Subset.trans (by decide) hL)
      apply State.writePlane_keeps (List.Subset.trans (by decide) hL)
      assumption

theorem State.opOperand_keeps {L : List Piece} {σ : State} {s : State} (hL : ([.regs, .start, .flash, .ledger, .power, .period, .seals, .mem, .tiles, .coll, .mbx, .flt, .cast, .perf, .sent, .stalled, .stallReq] : List Piece) ⊆ L) (hs : Keeps L σ s) (n : TileIx) (l : Nat) (op : Nat) (d0 : BitVec 512) : Keeps L σ (State.opOperand s n l op d0) := by
  unfold State.opOperand
  extract_lets d s0
  have hs0 : Keeps L σ s0 := by
    unfold s0
    refine ite_keeps ?_ ?_
    · apply State.reachLayer_keeps (List.Subset.trans (by decide) hL)
      apply State.setLayer_keeps (List.Subset.trans (by decide) hL)
      assumption
    · apply State.setLayer_keeps (List.Subset.trans (by decide) hL)
      assumption
  clear_value s0
  split
  rename_i s1 o heq
  have hs1 : Keeps L σ s1 := by
    rw [show s1 = _ from (congrArg Prod.fst heq).symm]
    apply State.makeOperand_keeps (List.Subset.trans (by decide) hL)
    assumption
  clear heq
  extract_lets s2
  have hs2 : Keeps L σ s2 := by
    unfold s2
    refine ite_keeps ?_ ?_
    · apply State.ladleEnd_keeps (List.Subset.trans (by decide) hL)
      assumption
    · assumption
  clear_value s2
  refine ite_keeps ?_ ?_
  · assumption
  · apply State.modTile_keeps (List.Subset.trans (by decide) hL)
    · assumption
    · intro t ht
      unfold TileSt.pushPort
      split
      · exact TileSt.wf_upd (t := t) rfl rfl ht
      · split
        · exact TileSt.wf_upd (t := t) rfl rfl ht
        · exact TileSt.wf_upd (t := t) rfl rfl ht

theorem State.slotRead_keeps {L : List Piece} {σ : State} {s : State} (hL : ([.regs, .tiles] : List Piece) ⊆ L) (hs : Keeps L σ s) (n : TileIx) (slot : Nat) : Keeps L σ (State.slotRead s n slot) := by
  unfold State.slotRead
  extract_lets b pair
  apply State.liveSlots_keeps (List.Subset.trans (by decide) hL)
  apply State.modTile_keeps (List.Subset.trans (by decide) hL)
  · assumption
  · exact fun t ht => TileSt.wf_upd (t := t) rfl rfl ht

theorem State.opResultOutCmd_keeps {L : List Piece} {σ : State} {s : State} (hL : ([.regs, .mem, .tiles, .perf] : List Piece) ⊆ L) (hs : Keeps L σ s) (n : TileIx) (l : Nat) (d0 : BitVec 512) : Keeps L σ (State.opResultOutCmd s n l d0) := by
  unfold State.opResultOutCmd
  extract_lets d s0 own slot held status c w at_ dst inside grid raw x v s1 s2
  have hs0 : Keeps L σ s0 := by
    unfold s0
    apply State.setLayer_keeps (List.Subset.trans (by decide) hL)
    assumption
  clear_value s0
  have hs1 : Keeps L σ s1 := by
    unfold s1
    refine State.forEach_keeps _ ?_ _ ?_
    · intro s1' a hs1'
      apply State.tmWrite_keeps (List.Subset.trans (by decide) hL)
      assumption
    · apply State.clipRead_keeps (List.Subset.trans (by decide) hL)
      assumption
  clear_value s1
  have hs2 : Keeps L σ s2 := by
    unfold s2
    apply State.writePlane_keeps (List.Subset.trans (by decide) hL)
    assumption
  clear_value s2
  refine ite_keeps ?_ ?_
  · apply State.ladleEnd_keeps (List.Subset.trans (by decide) hL)
    assumption
  · refine ite_keeps ?_ ?_
    · apply State.ladleEnd_keeps (List.Subset.trans (by decide) hL)
      apply State.slotRead_keeps (List.Subset.trans (by decide) hL)
      apply State.writePlane_keeps (List.Subset.trans (by decide) hL)
      assumption
    · apply State.ladleEnd_keeps (List.Subset.trans (by decide) hL)
      apply State.slotRead_keeps (List.Subset.trans (by decide) hL)
      assumption

theorem State.operandTaken_keeps {L : List Piece} {σ : State} {s : State} (hL : ([.regs, .mem, .tiles, .perf] : List Piece) ⊆ L) (hs : Keeps L σ s) (n : TileIx) (o : Operand) (status : Nat) (lflags : Nat) : Keeps L σ (State.operandTaken s n o status lflags) := by
  unfold State.operandTaken
  refine ite_keeps ?_ ?_
  · assumption
  · refine ite_keeps ?_ ?_
    · apply State.ladleEnd_keeps (List.Subset.trans (by decide) hL)
      assumption
    · apply State.ladleEnd_keeps (List.Subset.trans (by decide) hL)
      refine State.forEach_keeps _ ?_ _ ?_
      · intro s1' a hs1'
        apply State.tmWrite_keeps (List.Subset.trans (by decide) hL)
        assumption
      · assumption

end Sys2Proof.Machine
end

