-- ==== Sys2Proof/Laws/KeepsPowerOps.lean ====
section
/-! SUPPORT. What the operations of Machine/PowerOps.lean keep: the queue of commands, what was sent, canonical memories, and the parts of the state
they do not write. -/

namespace Sys2Proof.Machine

set_option Elab.async false

theorem State.modItem_keeps {L : List Piece} {σ : State} {s : State} (hL : ([.power] : List Piece) ⊆ L) (hs : Keeps L σ s) (id : Nat) (f : ItemSt → ItemSt) : Keeps L σ (State.modItem s id f) := by
  unfold State.modItem
  refine Keeps.upd (s := s) hL ?_
  assumption

theorem scheduleLoop_keeps {L : List Piece} {σ : State} {s : State} (hL : ([.regs, .power] : List Piece) ⊆ L) (base : Nat) (l : List WorkItem) (b : Bool) (c : Int) (hs : Keeps L σ s) :
    Keeps L σ (scheduleLoop base l b c s) := by
  induction l generalizing s b c with
  | nil => exact hs
  | cons i rest ih =>
    unfold scheduleLoop
    dsimp only
    split
    · exact ih _ _ (State.modItem_keeps (List.Subset.trans (by decide) hL) hs _ _)
    · split
      · exact ih _ _ (State.modItem_keeps (List.Subset.trans (by decide) hL) hs _ _)
      · split
        · exact ih _ _ (State.bump_keeps (List.Subset.trans (by decide) hL) (State.flag_keeps (List.Subset.trans (by decide) hL) (State.modItem_keeps (List.Subset.trans (by decide) hL) hs _ _) _) _ _)
        · generalize (match s.itemSt i.id with | some x => x.skips | none => 0) + 1 = k
          split
          · exact State.flag_keeps (List.Subset.trans (by decide) hL) (State.bump_keeps (List.Subset.trans (by decide) hL) (State.modItem_keeps (List.Subset.trans (by decide) hL) hs _ _) _ _) _
          · exact ih _ _ (State.bump_keeps (List.Subset.trans (by decide) hL) (State.modItem_keeps (List.Subset.trans (by decide) hL) hs _ _) _ _)

theorem State.brakeItems_keeps {L : List Piece} {σ : State} {s : State} (hL : ([.power] : List Piece) ⊆ L) (hs : Keeps L σ s) : Keeps L σ (State.brakeItems s) := by
  unfold State.brakeItems
  extract_lets kept src
  refine Keeps.upd (s := s) hL ?_
  assumption

theorem State.endItem_keeps {L : List Piece} {σ : State} {s : State} (hL : ([.power] : List Piece) ⊆ L) (hs : Keeps L σ s) (id : Nat) : Keeps L σ (State.endItem s id) := by
  unfold State.endItem
  apply State.modItem_keeps (List.Subset.trans (by decide) hL)
  assumption

theorem State.loadItems_keeps {L : List Piece} {σ : State} {s : State} (hL : ([.power] : List Piece) ⊆ L) (hs : Keeps L σ s) (phase : Nat) : Keeps L σ (State.loadItems s phase) := by
  unfold State.loadItems
  refine Keeps.upd (s := s) hL ?_
  assumption

theorem State.schedule_keeps {L : List Piece} {σ : State} {s : State} (hL : ([.regs, .power] : List Piece) ⊆ L) (hs : Keeps L σ s) : Keeps L σ (State.schedule s) := by
  unfold State.schedule
  extract_lets ready base
  apply scheduleLoop_keeps (List.Subset.trans (by decide) hL)
  assumption

theorem State.setCredit_keeps {L : List Piece} {σ : State} {s : State} (hL : ([.regs] : List Piece) ⊆ L) (hs : Keeps L σ s) (c : Int) : Keeps L σ (State.setCredit s c) := by
  unfold State.setCredit
  apply State.set_keeps (List.Subset.trans (by decide) hL)
  assumption

theorem State.trip_keeps {L : List Piece} {σ : State} {s : State} (hL : ([.regs, .start, .flash, .ledger, .power, .period, .seals, .mem, .tiles, .coll, .mbx, .flt, .cast, .sent, .stalled] : List Piece) ⊆ L) (hs : Keeps L σ s) (flagF : Field) (kind : Nat) : Keeps L σ (State.trip s flagF kind) := by
  unfold State.trip
  refine ite_keeps ?_ ?_
  · assumption
  · extract_lets s1
    have hs1 : Keeps L σ s1 := by
      unfold s1
      apply State.post_keeps (List.Subset.trans (by decide) hL)
      assumption
    clear_value s1
    apply State.flag_keeps (List.Subset.trans (by decide) hL)
    apply State.allOff_keeps (List.Subset.trans (by decide) hL)
    assumption

end Sys2Proof.Machine
end

