-- ==== Sys2Proof/Laws/KeepsPeriodOps.lean ====
section
/-! SUPPORT. What the operations of Machine/PeriodOps.lean keep: the queue of commands, what was sent, canonical memories, and the parts of the state
they do not write. -/

namespace Sys2Proof.Machine

set_option Elab.async false

theorem State.unpin_keeps {L : List Piece} {σ : State} {s : State} (hL : ([.mem] : List Piece) ⊆ L) (hs : Keeps L σ s) : Keeps L σ (State.unpin s) := by
  unfold State.unpin
  refine Keeps.upd (s := s) hL ?_
  assumption

theorem State.assayLate_keeps {L : List Piece} {σ : State} {s : State} (hL : ([.regs, .mem, .flt, .cast] : List Piece) ⊆ L) (hs : Keeps L σ s) : Keeps L σ (State.assayLate s) := by
  unfold State.assayLate
  split
  · assumption
  · extract_lets s1 src src1' src2'
    have hs1 : Keeps L σ s1 := by
      unfold s1
      apply State.set_keeps (List.Subset.trans (by decide) hL)
      apply State.bump_keeps (List.Subset.trans (by decide) hL)
      apply State.flag_keeps (List.Subset.trans (by decide) hL)
      assumption
    clear_value s1
    have hsrc : Keeps L σ src := by
      unfold src
      apply State.unpin_keeps (List.Subset.trans (by decide) hL)
      assumption
    clear_value src
    refine Keeps.upd (s := src) hL ?_
    assumption

theorem State.health_keeps {L : List Piece} {σ : State} {s : State} (hL : ([.regs, .power, .cast] : List Piece) ⊆ L) (hs : Keeps L σ s) : Keeps L σ (State.health s) := by
  unfold State.health
  extract_lets corr excess temp droop link nbr score was th s1 s2 src s3
  have hs1 : Keeps L σ s1 := by
    unfold s1
    apply State.set_keeps (List.Subset.trans (by decide) hL)
    apply State.set_keeps (List.Subset.trans (by decide) hL)
    apply State.set_keeps (List.Subset.trans (by decide) hL)
    apply State.set_keeps (List.Subset.trans (by decide) hL)
    apply State.set_keeps (List.Subset.trans (by decide) hL)
    assumption
  clear_value s1
  have hs2 : Keeps L σ s2 := by
    unfold s2
    apply State.flagIf_keeps (List.Subset.trans (by decide) hL)
    apply State.set_keeps (List.Subset.trans (by decide) hL)
    assumption
  clear_value s2
  have hs3 : Keeps L σ s3 := by
    unfold s3
    refine Keeps.upd (s := s2) hL ?_
    assumption
  clear_value s3
  refine ite_keeps ?_ ?_
  · apply State.castTrigger_keeps (List.Subset.trans (by decide) hL)
    apply State.set_keeps (List.Subset.trans (by decide) hL)
    assumption
  · refine ite_keeps ?_ ?_
    · apply State.set_keeps (List.Subset.trans (by decide) hL)
      assumption
    · assumption

theorem State.setPhase_keeps {L : List Piece} {σ : State} {s : State} (hL : ([.regs] : List Piece) ⊆ L) (hs : Keeps L σ s) (p : Nat) : Keeps L σ (State.setPhase s p) := by
  unfold State.setPhase
  apply State.set_keeps (List.Subset.trans (by decide) hL)
  assumption

theorem State.tileBoundary_keeps {L : List Piece} {σ : State} {s : State} (hL : ([.tiles] : List Piece) ⊆ L) (hs : Keeps L σ s) (n : TileIx) : Keeps L σ (State.tileBoundary s n) :=
  State.modTile_keeps (List.Subset.trans (by decide) hL) hs _ _ (fun _ _ => rfl)

theorem State.tileCounts_keeps {L : List Piece} {σ : State} {s : State} (hL : ([.regs, .tiles] : List Piece) ⊆ L) (hs : Keeps L σ s) (n : TileIx) : Keeps L σ (State.tileCounts s n) := by
  unfold State.tileCounts
  extract_lets k s0 s1 s2 s3 s4
  have hs0 : Keeps L σ s0 := by
    unfold s0
    apply State.set_keeps (List.Subset.trans (by decide) hL)
    apply State.set_keeps (List.Subset.trans (by decide) hL)
    assumption
  clear_value s0
  have hs1 : Keeps L σ s1 := by
    unfold s1
    apply State.set_keeps (List.Subset.trans (by decide) hL)
    apply State.set_keeps (List.Subset.trans (by decide) hL)
    assumption
  clear_value s1
  have hs2 : Keeps L σ s2 := by
    unfold s2
    apply State.set_keeps (List.Subset.trans (by decide) hL)
    apply State.set_keeps (List.Subset.trans (by decide) hL)
    apply State.set_keeps (List.Subset.trans (by decide) hL)
    assumption
  clear_value s2
  have hs3 : Keeps L σ s3 := by
    unfold s3
    apply State.set_keeps (List.Subset.trans (by decide) hL)
    apply State.set_keeps (List.Subset.trans (by decide) hL)
    assumption
  clear_value s3
  have hs4 : Keeps L σ s4 := by
    unfold s4
    apply State.set_keeps (List.Subset.trans (by decide) hL)
    apply State.set_keeps (List.Subset.trans (by decide) hL)
    apply State.set_keeps (List.Subset.trans (by decide) hL)
    assumption
  clear_value s4
  apply State.modTile_keeps (List.Subset.trans (by decide) hL)
  · assumption
  · exact fun t ht => TileSt.wf_upd (t := t) rfl rfl ht

theorem State.engineCounts_keeps {L : List Piece} {σ : State} {s : State} (hL : ([.regs] : List Piece) ⊆ L) (hs : Keeps L σ s) : Keeps L σ (State.engineCounts s) := by
  unfold State.engineCounts
  extract_lets s1 s2
  have hs1 : Keeps L σ s1 := by
    unfold s1
    refine State.forEach_keeps _ ?_ _ ?_
    · intro s1' a hs1'
      apply State.set_keeps (List.Subset.trans (by decide) hL)
      assumption
    · assumption
  clear_value s1
  have hs2 : Keeps L σ s2 := by
    unfold s2
    refine State.forEach_keeps _ ?_ _ ?_
    · intro s1' a hs1'
      apply State.set_keeps (List.Subset.trans (by decide) hL)
      apply State.set_keeps (List.Subset.trans (by decide) hL)
      assumption
    · assumption
  clear_value s2
  apply State.wr_keeps (List.Subset.trans (by decide) hL)
  assumption

theorem State.stepCounts_keeps {L : List Piece} {σ : State} {s : State} (hL : ([.regs, .tiles] : List Piece) ⊆ L) (hs : Keeps L σ s) : Keeps L σ (State.stepCounts s) := by
  unfold State.stepCounts
  apply State.engineCounts_keeps (List.Subset.trans (by decide) hL)
  refine State.forEach_keeps _ ?_ _ ?_
  · intro s1' a hs1'
    apply State.tileCounts_keeps (List.Subset.trans (by decide) hL)
    assumption
  · assumption

theorem State.boundary_keeps {L : List Piece} {σ : State} {s : State} (hL : ([.regs, .start, .flash, .ledger, .power, .period, .seals, .ladder, .mem, .tiles, .coll, .mbx, .flt, .cast, .sent, .stalled, .stallReq, .free] : List Piece) ⊆ L) (hs : Keeps L σ s) : Keeps L σ (State.boundary s) := by
  unfold State.boundary
  extract_lets s1 s2 src src1' s3 num s4 s5 s6 src2' src3' s7 s8 src4'
  have hs1 : Keeps L σ s1 := by
    unfold s1
    apply State.stepCounts_keeps (List.Subset.trans (by decide) hL)
    refine State.forEach_keeps _ ?_ _ ?_
    · intro s1' a hs1'
      apply State.tileBoundary_keeps (List.Subset.trans (by decide) hL)
      assumption
    · apply State.flushQueues_keeps (List.Subset.trans (by decide) hL)
      apply State.dropItems_keeps (List.Subset.trans (by decide) hL)
      apply State.fence_keeps (List.Subset.trans (by decide) hL)
      apply State.abandonColls_keeps (List.Subset.trans (by decide) hL)
      assumption
  clear_value s1
  have hs2 : Keeps L σ s2 := by
    unfold s2
    refine ite_keeps ?_ ?_
    · assumption
    · apply State.stepOver_keeps (List.Subset.trans (by decide) hL)
      apply State.dropShadows_keeps (List.Subset.trans (by decide) hL)
      assumption
  clear_value s2
  have hs3 : Keeps L σ s3 := by
    unfold s3
    refine Keeps.upd (s := s2) hL ?_
    assumption
  clear_value s3
  have hs4 : Keeps L σ s4 := by
    unfold s4
    apply State.set_keeps (List.Subset.trans (by decide) hL)
    apply State.flagIf_keeps (List.Subset.trans (by decide) hL)
    apply State.bindWork_keeps (List.Subset.trans (by decide) hL)
    apply State.fecPeriod_keeps (List.Subset.trans (by decide) hL)
    assumption
  clear_value s4
  have hs5 : Keeps L σ s5 := by
    unfold s5
    apply State.set_keeps (List.Subset.trans (by decide) hL)
    apply State.set_keeps (List.Subset.trans (by decide) hL)
    assumption
  clear_value s5
  have hs6 : Keeps L σ s6 := by
    unfold s6
    apply State.setPhase_keeps (List.Subset.trans (by decide) hL)
    apply State.set_keeps (List.Subset.trans (by decide) hL)
    assumption
  clear_value s6
  have hs7 : Keeps L σ s7 := by
    unfold s7
    refine Keeps.upd (s := s6) hL ?_
    assumption
  clear_value s7
  have hs8 : Keeps L σ s8 := by
    unfold s8
    apply State.restoreBegin_keeps (List.Subset.trans (by decide) hL)
    apply State.health_keeps (List.Subset.trans (by decide) hL)
    refine ite_keeps ?_ ?_
    · assumption
    · apply State.applyRungs_keeps (List.Subset.trans (by decide) hL)
      assumption
  clear_value s8
  refine ite_keeps ?_ ?_
  · split
    · extract_lets src5'
      have hsrc5' : Keeps L σ src5' := by
        unfold src5'
        apply State.controlTo_keeps (List.Subset.trans (by decide) hL)
        assumption
      clear_value src5'
      refine Keeps.upd (s := src5') hL ?_
      assumption
    · assumption
  · assumption

theorem State.phaseOver_keeps {L : List Piece} {σ : State} {s : State} (hL : ([.regs, .power, .mem, .tiles, .stalled, .free] : List Piece) ⊆ L) (hs : Keeps L σ s) : Keeps L σ (State.phaseOver s) := by
  unfold State.phaseOver
  extract_lets s1 src
  have hs1 : Keeps L σ s1 := by
    unfold s1
    apply State.flushQueues_keeps (List.Subset.trans (by decide) hL)
    apply State.dropItems_keeps (List.Subset.trans (by decide) hL)
    assumption
  clear_value s1
  refine Keeps.upd (s := s1) hL ?_
  assumption

theorem State.enterSelfTest_keeps {L : List Piece} {σ : State} {s : State} (hL : ([.regs, .power, .mem, .tiles, .flt, .cast, .stalled, .free] : List Piece) ⊆ L) (hs : Keeps L σ s) : Keeps L σ (State.enterSelfTest s) := by
  unfold State.enterSelfTest
  extract_lets s1
  have hs1 : Keeps L σ s1 := by
    unfold s1
    apply State.loadItems_keeps (List.Subset.trans (by decide) hL)
    apply State.setPhase_keeps (List.Subset.trans (by decide) hL)
    apply State.phaseOver_keeps (List.Subset.trans (by decide) hL)
    apply State.assayLate_keeps (List.Subset.trans (by decide) hL)
    assumption
  clear_value s1
  refine ite_keeps ?_ ?_
  · apply State.setPhase_keeps (List.Subset.trans (by decide) hL)
    assumption
  · apply State.schedule_keeps (List.Subset.trans (by decide) hL)
    assumption

theorem State.late_keeps {L : List Piece} {σ : State} {s : State} (hL : ([.regs, .start, .sent] : List Piece) ⊆ L) (hs : Keeps L σ s) (f : Field) : Keeps L σ (State.late s f) := by
  unfold State.late
  apply State.cause_keeps (List.Subset.trans (by decide) hL)
  assumption

theorem State.stepAtDeadline_keeps {L : List Piece} {σ : State} {s : State} (hL : ([.regs, .start, .flash, .ledger, .power, .period, .seals, .mem, .tiles, .coll, .mbx, .flt, .cast, .sent, .stalled, .stallReq, .free] : List Piece) ⊆ L) (hs : Keeps L σ s) : Keeps L σ (State.stepAtDeadline s) := by
  unfold State.stepAtDeadline
  refine ite_keeps ?_ ?_
  · assumption
  · refine ite_keeps ?_ ?_
    · extract_lets s1 src
      have hs1 : Keeps L σ s1 := by
        unfold s1
        apply State.cause_keeps (List.Subset.trans (by decide) hL)
        apply State.set_keeps (List.Subset.trans (by decide) hL)
        assumption
      clear_value s1
      refine Keeps.upd (s := s1) hL ?_
      assumption
    · extract_lets s1 src src1'
      have hs1 : Keeps L σ s1 := by
        unfold s1
        apply State.late_keeps (List.Subset.trans (by decide) hL)
        apply State.dropStep_keeps (List.Subset.trans (by decide) hL)
        assumption
      clear_value s1
      refine Keeps.upd (s := s1) hL ?_
      assumption

theorem State.trainEnd_keeps {L : List Piece} {σ : State} {s : State} (hL : ([.regs, .start, .flash, .ledger, .power, .period, .seals, .mem, .tiles, .coll, .mbx, .flt, .cast, .sent, .stalled, .stallReq, .free] : List Piece) ⊆ L) (hs : Keeps L σ s) : Keeps L σ (State.trainEnd s) := by
  unfold State.trainEnd
  extract_lets s1
  have hs1 : Keeps L σ s1 := by
    unfold s1
    apply State.abandonColls_keeps (List.Subset.trans (by decide) hL)
    apply State.dropItems_keeps (List.Subset.trans (by decide) hL)
    apply State.stepAtDeadline_keeps (List.Subset.trans (by decide) hL)
    assumption
  clear_value s1
  refine ite_keeps ?_ ?_
  · apply State.enterSelfTest_keeps (List.Subset.trans (by decide) hL)
    assumption
  · assumption

theorem State.outMark_keeps {L : List Piece} {σ : State} {s : State} (hL : ([.period] : List Piece) ⊆ L) (hs : Keeps L σ s) (started : Bool) (wait : Bool) : Keeps L σ (State.outMark s started wait) := by
  unfold State.outMark
  refine Keeps.upd (s := s) hL ?_
  assumption

theorem State.outOpen_keeps {L : List Piece} {σ : State} {s : State} (hL : ([.regs, .start, .flash, .ledger, .power, .period, .seals, .mem, .tiles, .coll, .mbx, .flt, .cast, .sent, .stalled] : List Piece) ⊆ L) (hs : Keeps L σ s) : Keeps L σ (State.outOpen s) := by
  unfold State.outOpen
  refine ite_keeps ?_ ?_
  · apply State.outMark_keeps (List.Subset.trans (by decide) hL)
    apply State.flag_keeps (List.Subset.trans (by decide) hL)
    assumption
  · apply State.outMark_keeps (List.Subset.trans (by decide) hL)
    apply State.moduleWrite_keeps (List.Subset.trans (by decide) hL)
    assumption

theorem State.outBegin_keeps {L : List Piece} {σ : State} {s : State} (hL : ([.regs, .start, .flash, .ledger, .power, .period, .seals, .mem, .tiles, .coll, .mbx, .flt, .cast, .sent, .stalled] : List Piece) ⊆ L) (hs : Keeps L σ s) : Keeps L σ (State.outBegin s) := by
  unfold State.outBegin
  extract_lets src s1 s2 src1'
  have hs1 : Keeps L σ s1 := by
    unfold s1
    refine Keeps.upd (s := s) hL ?_
    assumption
  clear_value s1
  have hs2 : Keeps L σ s2 := by
    unfold s2
    apply State.late_keeps (List.Subset.trans (by decide) hL)
    assumption
  clear_value s2
  refine ite_keeps ?_ ?_
  · assumption
  · refine ite_keeps ?_ ?_
    · refine Keeps.upd (s := s2) hL ?_
      assumption
    · apply State.outOpen_keeps (List.Subset.trans (by decide) hL)
      assumption

theorem State.enterInference_keeps {L : List Piece} {σ : State} {s : State} (hL : ([.regs, .start, .flash, .ledger, .power, .period, .seals, .mem, .tiles, .coll, .mbx, .flt, .cast, .sent, .stalled, .free] : List Piece) ⊆ L) (hs : Keeps L σ s) : Keeps L σ (State.enterInference s) := by
  unfold State.enterInference
  extract_lets s1 s2
  have hs1 : Keeps L σ s1 := by
    unfold s1
    apply State.setPhase_keeps (List.Subset.trans (by decide) hL)
    apply State.phaseOver_keeps (List.Subset.trans (by decide) hL)
    assumption
  clear_value s1
  have hs2 : Keeps L σ s2 := by
    unfold s2
    refine ite_keeps ?_ ?_
    · assumption
    · apply State.loadItems_keeps (List.Subset.trans (by decide) hL)
      assumption
  clear_value s2
  apply State.schedule_keeps (List.Subset.trans (by decide) hL)
  apply State.outBegin_keeps (List.Subset.trans (by decide) hL)
  assumption

theorem State.setRing_keeps {L : List Piece} {σ : State} {s : State} (hL : ([.period] : List Piece) ⊆ L) (hs : Keeps L σ s) (r : RingIx) (x : RingSt) : Keeps L σ (State.setRing s r x) := by
  unfold State.setRing
  refine Keeps.upd (s := s) hL ?_
  assumption

theorem State.stopRing_keeps {L : List Piece} {σ : State} {s : State} (hL : ([.regs, .period] : List Piece) ⊆ L) (hs : Keeps L σ s) (r : RingIx) : Keeps L σ (State.stopRing s r) := by
  unfold State.stopRing
  apply State.set_keeps (List.Subset.trans (by decide) hL)
  apply State.setRing_keeps (List.Subset.trans (by decide) hL)
  assumption

theorem State.ingestLate_keeps {L : List Piece} {σ : State} {s : State} (hL : ([.regs, .start, .flash, .ledger, .power, .period, .seals, .mem, .tiles, .coll, .mbx, .flt, .cast, .sent, .stalled, .stallReq, .free] : List Piece) ⊆ L) (hs : Keeps L σ s) : Keeps L σ (State.ingestLate s) := by
  unfold State.ingestLate
  refine ite_keeps ?_ ?_
  · assumption
  · extract_lets s1 open_
    have hs1 : Keeps L σ s1 := by
      unfold s1
      refine State.forEach_keeps _ ?_ _ ?_
      · intro s1' a hs1'
        refine ite_keeps ?_ ?_
        · apply State.stopRing_keeps (List.Subset.trans (by decide) hL)
          assumption
        · assumption
      · assumption
    clear_value s1
    apply State.enterInference_keeps (List.Subset.trans (by decide) hL)
    apply State.abandonColls_keeps (List.Subset.trans (by decide) hL)
    refine ite_keeps ?_ ?_
    · apply State.late_keeps (List.Subset.trans (by decide) hL)
      assumption
    · assumption

theorem State.outPublish_keeps {L : List Piece} {σ : State} {s : State} (hL : ([.regs, .start, .flash, .ledger, .power, .period, .seals, .mem, .tiles, .coll, .mbx, .flt, .cast, .sent, .stalled] : List Piece) ⊆ L) (hs : Keeps L σ s) (late : Bool) : Keeps L σ (State.outPublish s late) := by
  unfold State.outPublish
  refine ite_keeps ?_ ?_
  · apply State.flagIf_keeps (List.Subset.trans (by decide) hL)
    assumption
  · extract_lets h s1 s2 s3 s4
    have hs1 : Keeps L σ s1 := by
      unfold s1
      apply State.fence_keeps (List.Subset.trans (by decide) hL)
      apply State.moduleWrite_keeps (List.Subset.trans (by decide) hL)
      assumption
    clear_value s1
    have hs2 : Keeps L σ s2 := by
      unfold s2
      apply State.moduleWrite_keeps (List.Subset.trans (by decide) hL)
      assumption
    clear_value s2
    have hs3 : Keeps L σ s3 := by
      unfold s3
      apply State.set_keeps (List.Subset.trans (by decide) hL)
      assumption
    clear_value s3
    have hs4 : Keeps L σ s4 := by
      unfold s4
      apply State.cause_keeps (List.Subset.trans (by decide) hL)
      assumption
    clear_value s4
    apply State.outMark_keeps (List.Subset.trans (by decide) hL)
    assumption

theorem State.trainCheck_keeps {L : List Piece} {σ : State} {s : State} (hL : ([.regs, .power, .mem, .tiles, .flt, .cast, .stalled, .free] : List Piece) ⊆ L) (hs : Keeps L σ s) : Keeps L σ (State.trainCheck s) := by
  unfold State.trainCheck
  refine ite_keeps ?_ ?_
  · apply State.enterSelfTest_keeps (List.Subset.trans (by decide) hL)
    assumption
  · assumption

theorem State.enterTraining_keeps {L : List Piece} {σ : State} {s : State} (hL : ([.regs, .start, .flash, .ledger, .power, .period, .seals, .ladder, .mem, .tiles, .coll, .mbx, .flt, .cast, .sent, .stalled, .free] : List Piece) ⊆ L) (hs : Keeps L σ s) : Keeps L σ (State.enterTraining s) := by
  unfold State.enterTraining
  apply State.trainCheck_keeps (List.Subset.trans (by decide) hL)
  apply State.queryDiscard_keeps (List.Subset.trans (by decide) hL)
  apply State.setPhase_keeps (List.Subset.trans (by decide) hL)
  apply State.phaseOver_keeps (List.Subset.trans (by decide) hL)
  assumption

theorem State.inferLate_keeps {L : List Piece} {σ : State} {s : State} (hL : ([.regs, .start, .flash, .ledger, .power, .period, .seals, .ladder, .mem, .tiles, .coll, .mbx, .flt, .cast, .sent, .stalled, .stallReq, .free] : List Piece) ⊆ L) (hs : Keeps L σ s) : Keeps L σ (State.inferLate s) := by
  unfold State.inferLate
  refine ite_keeps ?_ ?_
  · assumption
  · refine ite_keeps ?_ ?_
    · apply State.enterTraining_keeps (List.Subset.trans (by decide) hL)
      apply State.outPublish_keeps (List.Subset.trans (by decide) hL)
      assumption
    · apply State.enterTraining_keeps (List.Subset.trans (by decide) hL)
      apply State.outPublish_keeps (List.Subset.trans (by decide) hL)
      apply State.abandonColls_keeps (List.Subset.trans (by decide) hL)
      apply State.late_keeps (List.Subset.trans (by decide) hL)
      assumption

theorem State.closePhases_keeps {L : List Piece} {σ : State} {s : State} (hL : ([.regs, .start, .flash, .ledger, .power, .period, .seals, .ladder, .mem, .tiles, .coll, .mbx, .flt, .cast, .sent, .stalled, .stallReq, .free] : List Piece) ⊆ L) (hs : Keeps L σ s) : Keeps L σ (State.closePhases s) := by
  unfold State.closePhases
  extract_lets s1
  have hs1 : Keeps L σ s1 := by
    unfold s1
    apply State.inferLate_keeps (List.Subset.trans (by decide) hL)
    apply State.ingestLate_keeps (List.Subset.trans (by decide) hL)
    assumption
  clear_value s1
  refine ite_keeps ?_ ?_
  · apply State.trainEnd_keeps (List.Subset.trans (by decide) hL)
    assumption
  · assumption

theorem State.outResume_keeps {L : List Piece} {σ : State} {s : State} (hL : ([.regs, .start, .flash, .ledger, .power, .period, .seals, .mem, .tiles, .coll, .mbx, .flt, .cast, .sent, .stalled] : List Piece) ⊆ L) (hs : Keeps L σ s) : Keeps L σ (State.outResume s) := by
  unfold State.outResume
  refine ite_keeps ?_ ?_
  · apply State.outOpen_keeps (List.Subset.trans (by decide) hL)
    assumption
  · assumption

theorem State.ringFlag_keeps {L : List Piece} {σ : State} {s : State} (hL : ([.regs, .start, .sent] : List Piece) ⊆ L) (hs : Keeps L σ s) (f : Field) : Keeps L σ (State.ringFlag s f) := by
  unfold State.ringFlag
  apply State.cause_keeps (List.Subset.trans (by decide) hL)
  assumption

theorem State.ringStart_keeps {L : List Piece} {σ : State} {s : State} (hL : ([.regs, .start, .period, .sent] : List Piece) ⊆ L) (hs : Keeps L σ s) (r : RingIx) (prod : Nat) : Keeps L σ (State.ringStart s r prod) := by
  unfold State.ringStart
  extract_lets l cons x s0 s1 s2
  have hs0 : Keeps L σ s0 := by
    unfold s0
    refine ite_keeps ?_ ?_
    · apply State.send_keeps (List.Subset.trans (by decide) hL)
      assumption
    · assumption
  clear_value s0
  have hs1 : Keeps L σ s1 := by
    unfold s1
    apply State.set_keeps (List.Subset.trans (by decide) hL)
    apply State.setRing_keeps (List.Subset.trans (by decide) hL)
    assumption
  clear_value s1
  have hs2 : Keeps L σ s2 := by
    unfold s2
    refine ite_keeps ?_ ?_
    · apply State.set_keeps (List.Subset.trans (by decide) hL)
      apply State.bump_keeps (List.Subset.trans (by decide) hL)
      apply State.ringFlag_keeps (List.Subset.trans (by decide) hL)
      assumption
    · assumption
  clear_value s2
  refine ite_keeps ?_ ?_
  · apply State.set_keeps (List.Subset.trans (by decide) hL)
    assumption
  · refine ite_keeps ?_ ?_
    · apply State.ringFlag_keeps (List.Subset.trans (by decide) hL)
      assumption
    · refine ite_keeps ?_ ?_
      · assumption
      · apply State.set_keeps (List.Subset.trans (by decide) hL)
        apply State.setRing_keeps (List.Subset.trans (by decide) hL)
        assumption

theorem State.timetableFault_keeps {L : List Piece} {σ : State} {s : State} (hL : ([.regs, .start, .flash, .ledger, .power, .period, .seals, .ladder, .mem, .tiles, .coll, .mbx, .flt, .cast, .sent, .stalled, .stallReq, .free] : List Piece) ⊆ L) (hs : Keeps L σ s) : Keeps L σ (State.timetableFault s) := by
  unfold State.timetableFault
  extract_lets recent s1 src s2
  have hs1 : Keeps L σ s1 := by
    unfold s1
    apply State.flag_keeps (List.Subset.trans (by decide) hL)
    assumption
  clear_value s1
  have hs2 : Keeps L σ s2 := by
    unfold s2
    refine Keeps.upd (s := s1) hL ?_
    assumption
  clear_value s2
  refine ite_keeps ?_ ?_
  · apply State.moduleFailed_keeps (List.Subset.trans (by decide) hL)
    assumption
  · refine ite_keeps ?_ ?_
    · apply State.closePhases_keeps (List.Subset.trans (by decide) hL)
      assumption
    · assumption

end Sys2Proof.Machine
end

