-- ==== Sys2Proof/Laws/KeepsVoteOps.lean ====
section
/-! SUPPORT. What the operations of Machine/VoteOps.lean keep: the queue of commands, what was sent, canonical memories, and the parts of the state
they do not write. -/

namespace Sys2Proof.Machine

set_option Elab.async false

theorem State.opSealVote_keeps {L : List Piece} {σ : State} {s : State} (hL : ([.regs, .start, .flash, .ledger, .power, .period, .seals, .mem, .tiles, .coll, .mbx, .flt, .cast, .sent, .stalled, .stallReq] : List Piece) ⊆ L) (hs : Keeps L σ s) (n : TileIx) (lossEntry : Fin 32) : Keeps L σ (State.opSealVote s n lossEntry) := by
  unfold State.opSealVote
  refine ite_keeps ?_ ?_
  · assumption
  · refine ite_keeps ?_ ?_
    · refine Keeps.upd (s := s) hL ?_
      assumption
    · extract_lets s1 p s2
      have hs1 : Keeps L σ s1 := by
        unfold s1
        apply State.fence_keeps (List.Subset.trans (by decide) hL)
        assumption
      clear_value s1
      have hs2 : Keeps L σ s2 := by
        unfold s2
        apply State.flagIf_keeps (List.Subset.trans (by decide) hL)
        assumption
      clear_value s2
      apply State.modTile_keeps (List.Subset.trans (by decide) hL)
      · assumption
      · exact fun t ht => TileSt.wf_upd (t := t) rfl rfl ht

theorem State.voteIfComplete_keeps {L : List Piece} {σ : State} {s : State} (hL : ([.regs, .start, .flash, .ledger, .power, .period, .seals, .mem, .tiles, .coll, .mbx, .flt, .cast, .perf, .sent, .stalled] : List Piece) ⊆ L) (hs : Keeps L σ s) : Keeps L σ (State.voteIfComplete s) := by
  unfold State.voteIfComplete
  refine ite_keeps ?_ ?_
  · extract_lets live parts gone
    apply State.castVote_keeps (List.Subset.trans (by decide) hL)
    assumption
  · assumption

end Sys2Proof.Machine
end

