-- ==== Sys2Proof/Laws/KeepsMatrixOps.lean ====
section
/-! SUPPORT. What the operations of Machine/MatrixOps.lean keep: the queue of commands, what was sent, canonical memories, and the parts of the state
they do not write. -/

namespace Sys2Proof.Machine

set_option Elab.async false

theorem State.cksFailed_keeps {L : List Piece} {σ : State} {s : State} (hL : ([.regs, .start, .flash, .ledger, .power, .period, .seals, .mem, .tiles, .coll, .mbx, .flt, .cast, .perf, .sent, .stalled] : List Piece) ⊆ L) (hs : Keeps L σ s) (n : TileIx) (d : BitVec 256) (o : MxOut) : Keeps L σ (State.cksFailed s n d o) := by
  unfold State.cksFailed
  extract_lets k r c s1 s2 s3 s4
  have hs1 : Keeps L σ s1 := by
    unfold s1
    apply State.setB_keeps (List.Subset.trans (by decide) hL)
    apply State.bump_keeps (List.Subset.trans (by decide) hL)
    apply State.set_keeps (List.Subset.trans (by decide) hL)
    apply State.flag_keeps (List.Subset.trans (by decide) hL)
    assumption
  clear_value s1
  have hs2 : Keeps L σ s2 := by
    unfold s2
    apply State.set_keeps (List.Subset.trans (by decide) hL)
    apply State.set_keeps (List.Subset.trans (by decide) hL)
    apply State.setB_keeps (List.Subset.trans (by decide) hL)
    assumption
  clear_value s2
  have hs3 : Keeps L σ s3 := by
    unfold s3
    apply State.perfEvent_keeps (List.Subset.trans (by decide) hL)
    apply State.modTile_keeps (List.Subset.trans (by decide) hL)
    · assumption
    · exact fun t ht => TileSt.wf_upd (t := t) rfl rfl ht
  clear_value s3
  have hs4 : Keeps L σ s4 := by
    unfold s4
    refine ite_keeps ?_ ?_
    · apply State.failTile_keeps (List.Subset.trans (by decide) hL)
      assumption
    · assumption
  clear_value s4
  apply State.voteIfComplete_keeps (List.Subset.trans (by decide) hL)
  apply State.postFull_keeps (List.Subset.trans (by decide) hL)
  assumption

theorem State.combineParts_keeps {L : List Piece} {σ : State} {s : State} (hL : ([.regs, .mem, .tiles, .perf] : List Piece) ⊆ L) (hs : Keeps L σ s) (n : TileIx) (c : CombineCmd) (p : SplitPlan) (l : List PartRef) : Keeps L σ (State.combineParts s n c p l) := by
  unfold State.combineParts
  extract_lets size infinite
  split
  rename_i s1 vals bad heq
  have hs1 : Keeps L σ s1 := by
    rw [show s1 = _ from (congrArg Prod.fst heq).symm]
    refine foldl1_keeps _ ?_ _ ?_
    · intro p1' a hp1'
      split
      rename_i s11' b x heq
      have hs11' : Keeps L σ s11' := by
        rw [show s11' = _ from (congrArg Prod.fst heq).symm]
        apply State.tmRead_keeps (List.Subset.trans (by decide) hL)
        assumption
      clear heq
      assumption
    · assumption
  clear heq
  extract_lets ent sat nf nfIn s2 s3 s4
  have hs2 : Keeps L σ s2 := by
    unfold s2
    apply State.tmWrite_keeps (List.Subset.trans (by decide) hL)
    assumption
  clear_value s2
  have hs3 : Keeps L σ s3 := by
    unfold s3
    refine ite_keeps ?_ ?_
    · apply State.taintTile_keeps (List.Subset.trans (by decide) hL)
      assumption
    · assumption
  clear_value s3
  have hs4 : Keeps L σ s4 := by
    unfold s4
    apply State.flagIf_keeps (List.Subset.trans (by decide) hL)
    apply State.flagIf_keeps (List.Subset.trans (by decide) hL)
    assumption
  clear_value s4
  apply State.complete_keeps (List.Subset.trans (by decide) hL)
  apply State.sticky_keeps (List.Subset.trans (by decide) hL)
  assumption

theorem State.cruStore_keeps {L : List Piece} {σ : State} {s : State} (hL : ([.regs, .tiles] : List Piece) ⊆ L) (hs : Keeps L σ s) (n : TileIx) (d : BitVec 256) (rows : Nat) (cols : Nat) (words : List U32) : Keeps L σ (State.cruStore s n d rows cols words) := by
  unfold State.cruStore
  extract_lets goOn
  apply State.liveSlots_keeps (List.Subset.trans (by decide) hL)
  apply State.modTile_keeps (List.Subset.trans (by decide) hL)
  · assumption
  · exact fun t ht => TileSt.wf_upd (t := t) rfl rfl ht

theorem State.mxInitial_keeps {L : List Piece} {σ : State} {s : State} (hL : ([.regs, .mem, .tiles] : List Piece) ⊆ L) (hs : Keeps L σ s) (n : TileIx) (d : BitVec 256) : Keeps L σ (State.mxInitial s n d).1 := by
  unfold State.mxInitial
  refine ite1_keeps ?_ ?_
  · assumption
  · refine ite1_keeps ?_ ?_
    · assumption
    · split
      rename_i s1 bytes snd heq
      have hs1 : Keeps L σ s1 := by
        rw [show s1 = _ from (congrArg Prod.fst heq).symm]
        apply State.tmRead_keeps (List.Subset.trans (by decide) hL)
        assumption
      clear heq
      extract_lets w
      assumption

theorem State.mxRefuse_keeps {L : List Piece} {σ : State} {s : State} (hL : ([.regs, .tiles, .perf] : List Piece) ⊆ L) (hs : Keeps L σ s) (n : TileIx) (d : BitVec 256) (status : Nat) : Keeps L σ (State.mxRefuse s n d status) := by
  unfold State.mxRefuse
  extract_lets s1
  have hs1 : Keeps L σ s1 := by
    unfold s1
    apply State.modTile_keeps (List.Subset.trans (by decide) hL)
    · assumption
    · exact fun t ht => TileSt.wf_upd (t := t) rfl rfl ht
  clear_value s1
  apply State.complete_keeps (List.Subset.trans (by decide) hL)
  apply State.flag_keeps (List.Subset.trans (by decide) hL)
  assumption

theorem State.sprueCount_keeps {L : List Piece} {σ : State} {s : State} (hL : ([.regs, .perf] : List Piece) ⊆ L) (hs : Keeps L σ s) (n : TileIx) (d : BitVec 256) (o : Operand) : Keeps L σ (State.sprueCount s n d o) := by
  unfold State.sprueCount
  extract_lets l s1
  have hs1 : Keeps L σ s1 := by
    unfold s1
    apply State.bump_keeps (List.Subset.trans (by decide) hL)
    apply State.bump_keeps (List.Subset.trans (by decide) hL)
    assumption
  clear_value s1
  apply State.perfEvent_keeps (List.Subset.trans (by decide) hL)
  apply State.perfEvent_keeps (List.Subset.trans (by decide) hL)
  assumption

theorem State.mxRun_keeps {L : List Piece} {σ : State} {s : State} (hL : ([.regs, .start, .flash, .ledger, .power, .period, .seals, .mem, .tiles, .coll, .mbx, .flt, .cast, .perf, .sent, .stalled] : List Piece) ⊆ L) (hs : Keeps L σ s) (n : TileIx) (d : BitVec 256) (a : Operand) (b : Operand) (stalls : Nat) (us : List Upset) : Keeps L σ (State.mxRun s n d a b stalls us) := by
  unfold State.mxRun
  extract_lets cfg cks k
  split
  rename_i s1 init heq
  have hs1 : Keeps L σ s1 := by
    rw [show s1 = _ from (congrArg Prod.fst heq).symm]
    apply State.mxInitial_keeps (List.Subset.trans (by decide) hL)
    assumption
  clear heq
  extract_lets o fail skip mflags s2 s3
  have hs2 : Keeps L σ s2 := by
    unfold s2
    apply State.sprueCount_keeps (List.Subset.trans (by decide) hL)
    apply State.sprueCount_keeps (List.Subset.trans (by decide) hL)
    apply State.flagIf_keeps (List.Subset.trans (by decide) hL)
    apply State.flagIf_keeps (List.Subset.trans (by decide) hL)
    apply State.flagIf_keeps (List.Subset.trans (by decide) hL)
    apply State.cruStore_keeps (List.Subset.trans (by decide) hL)
    assumption
  clear_value s2
  have hs3 : Keeps L σ s3 := by
    unfold s3
    refine ite_keeps ?_ ?_
    · apply State.cksFailed_keeps (List.Subset.trans (by decide) hL)
      assumption
    · assumption
  clear_value s3
  apply State.complete_keeps (List.Subset.trans (by decide) hL)
  apply State.sticky_keeps (List.Subset.trans (by decide) hL)
  assumption

theorem State.opCruCopyCmd_keeps {L : List Piece} {σ : State} {s : State} (hL : ([.regs, .mem, .tiles, .perf] : List Piece) ⊆ L) (hs : Keeps L σ s) (n : TileIx) (d : BitVec 256) : Keeps L σ (State.opCruCopyCmd s n d) := by
  unfold State.opCruCopyCmd
  refine ite_keeps ?_ ?_
  · extract_lets s1
    have hs1 : Keeps L σ s1 := by
      unfold s1
      apply State.modTile_keeps (List.Subset.trans (by decide) hL)
      · assumption
      · exact fun t ht => TileSt.wf_upd (t := t) rfl rfl ht
    clear_value s1
    apply State.complete_keeps (List.Subset.trans (by decide) hL)
    apply State.flag_keeps (List.Subset.trans (by decide) hL)
    assumption
  · extract_lets pair b words s1
    have hs1 : Keeps L σ s1 := by
      unfold s1
      apply State.tmWrite_keeps (List.Subset.trans (by decide) hL)
      assumption
    clear_value s1
    apply State.complete_keeps (List.Subset.trans (by decide) hL)
    apply State.slotRead_keeps (List.Subset.trans (by decide) hL)
    assumption

theorem State.opMatmulCmd_keeps {L : List Piece} {σ : State} {s : State} (hL : ([.regs, .start, .flash, .ledger, .power, .period, .seals, .mem, .tiles, .coll, .mbx, .flt, .cast, .perf, .sent, .stalled, .stallReq] : List Piece) ⊆ L) (hs : Keeps L σ s) (n : TileIx) (d : BitVec 256) (stalls : Nat) (us : List Upset) : Keeps L σ (State.opMatmulCmd s n d stalls us) := by
  unfold State.opMatmulCmd
  extract_lets s0 s1
  have hs0 : Keeps L σ s0 := by
    unfold s0
    apply State.setLayer_keeps (List.Subset.trans (by decide) hL)
    assumption
  clear_value s0
  have hs1 : Keeps L σ s1 := by
    unfold s1
    apply State.modTile_keeps (List.Subset.trans (by decide) hL)
    · assumption
    · exact fun t ht => TileSt.wf_upd (t := t) rfl rfl ht
  clear_value s1
  refine ite_keeps ?_ ?_
  · apply State.mxRefuse_keeps (List.Subset.trans (by decide) hL)
    assumption
  · split
    · extract_lets sa sb mismatch s2
      have hs2 : Keeps L σ s2 := by
        unfold s2
        refine ite_keeps ?_ ?_
        · apply State.operandTaken_keeps (List.Subset.trans (by decide) hL)
          apply State.operandTaken_keeps (List.Subset.trans (by decide) hL)
          assumption
        · apply State.operandTaken_keeps (List.Subset.trans (by decide) hL)
          apply State.operandTaken_keeps (List.Subset.trans (by decide) hL)
          assumption
      clear_value s2
      refine ite_keeps ?_ ?_
      · apply State.mxRefuse_keeps (List.Subset.trans (by decide) hL)
        assumption
      · refine ite_keeps ?_ ?_
        · apply State.mxRefuse_keeps (List.Subset.trans (by decide) hL)
          assumption
        · apply State.mxRun_keeps (List.Subset.trans (by decide) hL)
          assumption
    · refine Keeps.upd (s := s0) hL ?_
      assumption

theorem State.opSplitCombine_keeps {L : List Piece} {σ : State} {s : State} (hL : ([.regs, .mem, .tiles, .perf, .stallReq] : List Piece) ⊆ L) (hs : Keeps L σ s) (n : TileIx) (c : CombineCmd) : Keeps L σ (State.opSplitCombine s n c) := by
  unfold State.opSplitCombine
  split
  · assumption
  · split
    · refine Keeps.upd (s := s) hL ?_
      assumption
    · extract_lets s1
      have hs1 : Keeps L σ s1 := by
        unfold s1
        apply State.modTile_keeps (List.Subset.trans (by decide) hL)
        · assumption
        · exact fun t ht => TileSt.wf_upd (t := t) rfl rfl ht
      clear_value s1
      refine ite_keeps ?_ ?_
      · apply State.failTile_keeps (List.Subset.trans (by decide) hL)
        assumption
      · apply State.combineParts_keeps (List.Subset.trans (by decide) hL)
        assumption

theorem State.partArrives_keeps {L : List Piece} {σ : State} {s : State} (hL : ([.tiles] : List Piece) ⊆ L) (hs : Keeps L σ s) (n : TileIx) (k : Nat) (p : SplitPlan) (r : PartRef) : Keeps L σ (State.partArrives s n k p r) := by
  unfold State.partArrives
  split
  · refine ite_keeps ?_ ?_
    · apply State.modTile_keeps (List.Subset.trans (by decide) hL)
      · assumption
      · exact fun t ht => TileSt.wf_upd (t := t) rfl rfl ht
    · assumption
  · assumption

theorem State.partsArrive_keeps {L : List Piece} {σ : State} {s : State} (hL : ([.tiles] : List Piece) ⊆ L) (hs : Keeps L σ s) (n : TileIx) (c : CombineCmd) : Keeps L σ (State.partsArrive s n c) := by
  unfold State.partsArrive
  split
  · refine State.forEach_keeps _ ?_ _ ?_
    · intro s1' a hs1'
      apply State.partArrives_keeps (List.Subset.trans (by decide) hL)
      assumption
    · assumption
  · assumption

end Sys2Proof.Machine
end

