-- ==== Sys2Proof/Laws/KeepsVecOps.lean ====
section
/-! SUPPORT. What the operations of Machine/VecOps.lean keep: the queue of commands, what was sent, canonical memories, and the parts of the state
they do not write. -/

namespace Sys2Proof.Machine

set_option Elab.async false

theorem State.vRead_keeps {L : List Piece} {σ : State} {s : State} (hL : ([.regs, .mem, .tiles] : List Piece) ⊆ L) (hs : Keeps L σ s) (n : TileIx) (d : BitVec 512) (sf : U32) (j : Nat) : Keeps L σ (State.vRead s n d sf j).1 := by
  unfold State.vRead
  extract_lets f w
  refine ite1_keeps ?_ ?_
  · assumption
  · refine ite1_keeps ?_ ?_
    · assumption
    · refine foldl1_keeps _ ?_ _ ?_
      · intro p a hp
        split
        rename_i s1 row bad heq
        have hs1 : Keeps L σ s1 := by
          rw [show s1 = _ from (congrArg Prod.fst heq).symm]
          refine foldl1_keeps _ ?_ _ ?_
          · intro p1' a1' hp1'
            split
            rename_i s11' b bad1' heq
            have hs11' : Keeps L σ s11' := by
              rw [show s11' = _ from (congrArg Prod.fst heq).symm]
              apply State.tmRead_keeps (List.Subset.trans (by decide) hL)
              assumption
            clear heq
            assumption
          · assumption
        clear heq
        assumption
      · assumption

theorem State.cvtValues_keeps {L : List Piece} {σ : State} {s : State} (hL : ([.regs, .mem, .tiles] : List Piece) ⊆ L) (hs : Keeps L σ s) (n : TileIx) (d : BitVec 512) (sf : U32) : Keeps L σ (State.cvtValues s n d sf).1 := by
  unfold State.cvtValues
  refine ite1_keeps ?_ ?_
  · split
    rename_i s1 c bad heq
    have hs1 : Keeps L σ s1 := by
      rw [show s1 = _ from (congrArg Prod.fst heq).symm]
      apply State.readPlane_keeps (List.Subset.trans (by decide) hL)
      assumption
    clear heq
    assumption
  · split
    rename_i s1 x bad heq
    have hs1 : Keeps L σ s1 := by
      rw [show s1 = _ from (congrArg Prod.fst heq).symm]
      apply State.vRead_keeps (List.Subset.trans (by decide) hL)
      assumption
    clear heq
    assumption

theorem State.vEnd_keeps {L : List Piece} {σ : State} {s : State} (hL : ([.regs, .tiles, .perf] : List Piece) ⊆ L) (hs : Keeps L σ s) (n : TileIx) (d : BitVec 512) (elems : List (List Elem)) (pre : Results) (isat : Nat) (oor : Nat) : Keeps L σ (State.vEnd s n d elems pre isat oor) := by
  unfold State.vEnd
  extract_lets k cnt nf s1 s2 s3 s4
  have hs1 : Keeps L σ s1 := by
    unfold s1
    apply State.flagIf_keeps (List.Subset.trans (by decide) hL)
    apply State.flagIf_keeps (List.Subset.trans (by decide) hL)
    apply State.flagIf_keeps (List.Subset.trans (by decide) hL)
    assumption
  clear_value s1
  have hs2 : Keeps L σ s2 := by
    unfold s2
    refine ite_keeps ?_ ?_
    · apply State.set_keeps (List.Subset.trans (by decide) hL)
      assumption
    · assumption
  clear_value s2
  have hs3 : Keeps L σ s3 := by
    unfold s3
    refine ite_keeps ?_ ?_
    · apply State.putSummary_keeps (List.Subset.trans (by decide) hL)
      assumption
    · assumption
  clear_value s3
  have hs4 : Keeps L σ s4 := by
    unfold s4
    refine ite_keeps ?_ ?_
    · apply State.bump_keeps (List.Subset.trans (by decide) hL)
      assumption
    · assumption
  clear_value s4
  apply State.complete_keeps (List.Subset.trans (by decide) hL)
  apply State.sticky_keeps (List.Subset.trans (by decide) hL)
  assumption

theorem State.vWrite_keeps {L : List Piece} {σ : State} {s : State} (hL : ([.regs, .mem, .tiles] : List Piece) ⊆ L) (hs : Keeps L σ s) (n : TileIx) (d : BitVec 512) (rows : List (List Nat)) (bad : Bool) : Keeps L σ (State.vWrite s n d rows bad) := by
  unfold State.vWrite
  extract_lets w
  refine State.forEach_keeps _ ?_ _ ?_
  · intro s1' a hs1'
    refine State.forEach_keeps _ ?_ _ ?_
    · intro s2' a1' hs2'
      apply State.tmWrite_keeps (List.Subset.trans (by decide) hL)
      assumption
    · assumption
  · assumption

theorem State.refusedSummary_keeps {L : List Piece} {σ : State} {s : State} (hL : ([.tiles] : List Piece) ⊆ L) (hs : Keeps L σ s) (n : TileIx) (summary : Bool) (slot : Nat) : Keeps L σ (State.refusedSummary s n summary slot) := by
  unfold State.refusedSummary
  refine ite_keeps ?_ ?_
  · apply State.putSummary_keeps (List.Subset.trans (by decide) hL)
    assumption
  · assumption

theorem State.vRefuse_keeps {L : List Piece} {σ : State} {s : State} (hL : ([.regs, .tiles, .perf] : List Piece) ⊆ L) (hs : Keeps L σ s) (n : TileIx) (d : BitVec 512) (status : Nat) : Keeps L σ (State.vRefuse s n d status) := by
  unfold State.vRefuse
  apply State.complete_keeps (List.Subset.trans (by decide) hL)
  apply State.refusedSummary_keeps (List.Subset.trans (by decide) hL)
  apply State.flag_keeps (List.Subset.trans (by decide) hL)
  assumption

theorem State.opVector_keeps {L : List Piece} {σ : State} {s : State} (hL : ([.regs, .mem, .tiles, .perf] : List Piece) ⊆ L) (hs : Keeps L σ s) (n : TileIx) (op : Nat) (d0 : BitVec 512) (sf : U32) : Keeps L σ (State.opVector s n op d0 sf) := by
  unfold State.opVector
  extract_lets d status int
  refine ite_keeps ?_ ?_
  · apply State.vRefuse_keeps (List.Subset.trans (by decide) hL)
    assumption
  · refine ite_keeps ?_ ?_
    · split
      rename_i s1 x bad heq
      have hs1 : Keeps L σ s1 := by
        rw [show s1 = _ from (congrArg Prod.fst heq).symm]
        apply State.cvtValues_keeps (List.Subset.trans (by decide) hL)
        assumption
      clear heq
      split
      · extract_lets codes s2
        have hs2 : Keeps L σ s2 := by
          unfold s2
          refine ite_keeps ?_ ?_
          · apply State.writePlane_keeps (List.Subset.trans (by decide) hL)
            assumption
          · apply State.vWrite_keeps (List.Subset.trans (by decide) hL)
            assumption
        clear_value s2
        apply State.vEnd_keeps (List.Subset.trans (by decide) hL)
        assumption
    · split
      rename_i s1 a bad1 heq
      have hs1 : Keeps L σ s1 := by
        rw [show s1 = _ from (congrArg Prod.fst heq).symm]
        apply State.vRead_keeps (List.Subset.trans (by decide) hL)
        assumption
      clear heq
      split
      rename_i s2 b bad2 heq
      have hs2 : Keeps L σ s2 := by
        rw [show s2 = _ from (congrArg Prod.fst heq).symm]
        apply State.vRead_keeps (List.Subset.trans (by decide) hL)
        assumption
      clear heq
      split
      rename_i s3 c bad3 heq
      have hs3 : Keeps L σ s3 := by
        rw [show s3 = _ from (congrArg Prod.fst heq).symm]
        apply State.vRead_keeps (List.Subset.trans (by decide) hL)
        assumption
      clear heq
      extract_lets rows elems s4
      have hs4 : Keeps L σ s4 := by
        unfold s4
        apply State.vWrite_keeps (List.Subset.trans (by decide) hL)
        assumption
      clear_value s4
      apply State.vEnd_keeps (List.Subset.trans (by decide) hL)
      assumption

end Sys2Proof.Machine
end

