-- ==== Sys2Proof/Laws/KeepsZooOps.lean ====
section
/-! SUPPORT. What the operations of Machine/ZooOps.lean keep: the queue of commands, what was sent, canonical memories, and the parts of the state
they do not write. -/

namespace Sys2Proof.Machine

set_option Elab.async false

theorem State.engInts_keeps {L : List Piece} {σ : State} {s : State} (hL : ([.regs, .start, .flash, .ledger, .power, .period, .seals, .mem, .tiles, .coll, .mbx, .flt, .cast, .sent, .stalled, .stallReq] : List Piece) ⊆ L) (hs : Keeps L σ s) (n : TileIx) (a : Nat) (count : Nat) : Keeps L σ (State.engInts s n a count).1 := by
  unfold State.engInts
  split
  rename_i s1 d bad heq
  have hs1 : Keeps L σ s1 := by
    rw [show s1 = _ from (congrArg Prod.fst heq).symm]
    apply State.engRead_keeps (List.Subset.trans (by decide) hL)
    assumption
  clear heq
  assumption

theorem State.wEnd_keeps {L : List Piece} {σ : State} {s : State} (hL : ([.regs, .tiles, .perf] : List Piece) ⊆ L) (hs : Keeps L σ s) (q : WayIx) (n : TileIx) (d : BitVec 512) (status : Nat) (c : WCnt) : Keeps L σ (State.wEnd s q n d status c) := by
  unfold State.wEnd
  extract_lets k reb next wst s1 s2 b s3
  have hs1 : Keeps L σ s1 := by
    unfold s1
    apply State.flagIf_keeps (List.Subset.trans (by decide) hL)
    apply State.flagIf_keeps (List.Subset.trans (by decide) hL)
    apply State.flagIf_keeps (List.Subset.trans (by decide) hL)
    apply State.flagIf_keeps (List.Subset.trans (by decide) hL)
    assumption
  clear_value s1
  have hs2 : Keeps L σ s2 := by
    unfold s2
    apply State.bump_keeps (List.Subset.trans (by decide) hL)
    apply State.flagIf_keeps (List.Subset.trans (by decide) hL)
    apply State.flagIf_keeps (List.Subset.trans (by decide) hL)
    assumption
  clear_value s2
  have hs3 : Keeps L σ s3 := by
    unfold s3
    apply State.perfEvent_keeps (List.Subset.trans (by decide) hL)
    apply State.perfEvent_keeps (List.Subset.trans (by decide) hL)
    apply State.perfEvent_keeps (List.Subset.trans (by decide) hL)
    assumption
  clear_value s3
  apply State.complete_keeps (List.Subset.trans (by decide) hL)
  assumption

theorem State.opCopyIn_keeps {L : List Piece} {σ : State} {s : State} (hL : ([.regs, .start, .flash, .ledger, .power, .period, .seals, .mem, .tiles, .coll, .mbx, .flt, .cast, .perf, .sent, .stalled, .stallReq] : List Piece) ⊆ L) (hs : Keeps L σ s) (q : WayIx) (n : TileIx) (d : BitVec 512) : Keeps L σ (State.opCopyIn s q n d) := by
  unfold State.opCopyIn
  refine ite_keeps ?_ ?_
  · apply State.wEnd_keeps (List.Subset.trans (by decide) hL)
    assumption
  · extract_lets s1 src
    have hs1 : Keeps L σ s1 := by
      unfold s1
      refine State.forEach_keeps _ ?_ _ ?_
      · intro s1' a hs1'
        apply State.moveBytes_keeps (List.Subset.trans (by decide) hL)
        assumption
      · assumption
    clear_value s1
    apply State.wEnd_keeps (List.Subset.trans (by decide) hL)
    assumption

theorem State.opCopyOut_keeps {L : List Piece} {σ : State} {s : State} (hL : ([.regs, .start, .flash, .ledger, .power, .period, .seals, .mem, .tiles, .coll, .mbx, .flt, .cast, .perf, .sent, .stalled, .stallReq] : List Piece) ⊆ L) (hs : Keeps L σ s) (q : WayIx) (n : TileIx) (d : BitVec 512) : Keeps L σ (State.opCopyOut s q n d) := by
  unfold State.opCopyOut
  refine ite_keeps ?_ ?_
  · apply State.wEnd_keeps (List.Subset.trans (by decide) hL)
    assumption
  · extract_lets s1 src
    have hs1 : Keeps L σ s1 := by
      unfold s1
      refine State.forEach_keeps _ ?_ _ ?_
      · intro s1' a hs1'
        split
        rename_i s11' row bad heq
        have hs11' : Keeps L σ s11' := by
          rw [show s11' = _ from (congrArg Prod.fst heq).symm]
          apply State.engRead_keeps (List.Subset.trans (by decide) hL)
          assumption
        clear heq
        apply State.unitWrite_keeps (List.Subset.trans (by decide) hL)
        assumption
      · assumption
    clear_value s1
    apply State.wEnd_keeps (List.Subset.trans (by decide) hL)
    assumption

theorem State.wGatherRow_keeps {L : List Piece} {σ : State} {s : State} (hL : ([.regs, .start, .flash, .ledger, .power, .period, .seals, .mem, .tiles, .coll, .mbx, .flt, .cast, .sent, .stalled, .stallReq] : List Piece) ⊆ L) (hs : Keeps L σ s) (q : WayIx) (n : TileIx) (d : BitVec 512) (c : WCnt) (pos : Nat) (ix : Nat) : Keeps L σ (State.wGatherRow s q n d c pos ix).1 := by
  unfold State.wGatherRow
  extract_lets rb sb put
  refine ite1_keeps ?_ ?_
  · try dsimp only
    unfold put
    extract_lets s1
    have hs1 : Keeps L σ s1 := by
      unfold s1
      apply State.unitWrite_keeps (List.Subset.trans (by decide) hL)
      assumption
    clear_value s1
    refine ite_keeps ?_ ?_
    · assumption
    · apply State.unitWrite_keeps (List.Subset.trans (by decide) hL)
      assumption
  · split
    rename_i s1 row bad1 heq
    have hs1 : Keeps L σ s1 := by
      rw [show s1 = _ from (congrArg Prod.fst heq).symm]
      apply State.engRead_keeps (List.Subset.trans (by decide) hL)
      assumption
    clear heq
    split
    rename_i s2 sc bad2 heq
    have hs2 : Keeps L σ s2 := by
      rw [show s2 = _ from (congrArg Prod.fst heq).symm]
      refine ite1_keeps ?_ ?_
      · assumption
      · apply State.engRead_keeps (List.Subset.trans (by decide) hL)
        assumption
    clear heq
    refine ite1_keeps ?_ ?_
    · try dsimp only
      unfold put
      extract_lets s11'
      have hs11' : Keeps L σ s11' := by
        unfold s11'
        apply State.unitWrite_keeps (List.Subset.trans (by decide) hL)
        assumption
      clear_value s11'
      refine ite_keeps ?_ ?_
      · assumption
      · apply State.unitWrite_keeps (List.Subset.trans (by decide) hL)
        assumption
    · try dsimp only
      unfold put
      extract_lets s11'
      have hs11' : Keeps L σ s11' := by
        unfold s11'
        apply State.unitWrite_keeps (List.Subset.trans (by decide) hL)
        assumption
      clear_value s11'
      refine ite_keeps ?_ ?_
      · assumption
      · apply State.unitWrite_keeps (List.Subset.trans (by decide) hL)
        assumption

theorem State.wGatherRows_keeps {L : List Piece} {σ : State} {s : State} (hL : ([.regs, .start, .flash, .ledger, .power, .period, .seals, .mem, .tiles, .coll, .mbx, .flt, .cast, .sent, .stalled, .stallReq] : List Piece) ⊆ L) (hs : Keeps L σ s) (q : WayIx) (n : TileIx) (d : BitVec 512) (c : WCnt) (pos : Nat) (l : List Nat) : Keeps L σ (State.wGatherRows s q n d c pos l).1 := by
  unfold State.wGatherRows
  refine foldl1_keeps _ ?_ _ ?_
  · intro p a hp
    apply State.wGatherRow_keeps (List.Subset.trans (by decide) hL)
    assumption
  · assumption

theorem State.wNeighbours_keeps {L : List Piece} {σ : State} {s : State} (hL : ([.regs, .start, .flash, .ledger, .power, .period, .seals, .mem, .tiles, .coll, .mbx, .flt, .cast, .sent, .stalled, .stallReq] : List Piece) ⊆ L) (hs : Keeps L σ s) (n : TileIx) (d : BitVec 512) (v : Nat) : Keeps L σ (State.wNeighbours s n d v).1 := by
  unfold State.wNeighbours
  split
  rename_i s1 o snd heq
  have hs1 : Keeps L σ s1 := by
    rw [show s1 = _ from (congrArg Prod.fst heq).symm]
    apply State.engInts_keeps (List.Subset.trans (by decide) hL)
    assumption
  clear heq
  extract_lets a b
  refine ite1_keeps ?_ ?_
  · assumption
  · split
    rename_i s2 l snd1' heq
    have hs2 : Keeps L σ s2 := by
      rw [show s2 = _ from (congrArg Prod.fst heq).symm]
      apply State.engInts_keeps (List.Subset.trans (by decide) hL)
      assumption
    clear heq
    assumption

theorem State.wNodes_keeps {L : List Piece} {σ : State} {s : State} (hL : ([.regs, .start, .flash, .ledger, .power, .period, .seals, .mem, .tiles, .coll, .mbx, .flt, .cast, .sent, .stalled, .stallReq] : List Piece) ⊆ L) (hs : Keeps L σ s) (q : WayIx) (n : TileIx) (d : BitVec 512) (k v : Nat) (c : WCnt)
    (l : List Nat) : Keeps L σ (State.wNodes s q n d k v c l).1 := by
  induction k generalizing s v c l with
  | zero => exact hs
  | succ k ih =>
    unfold State.wNodes
    dsimp only
    split
    · exact State.wNeighbours_keeps (List.Subset.trans (by decide) hL) hs _ _ _
    · exact ih (State.wGatherRows_keeps (List.Subset.trans (by decide) hL) (State.wNeighbours_keeps (List.Subset.trans (by decide) hL) hs _ _ _) _ _ _ _ _ _) _ _ _

theorem State.opGatherCsr_keeps {L : List Piece} {σ : State} {s : State} (hL : ([.regs, .start, .flash, .ledger, .power, .period, .seals, .mem, .tiles, .coll, .mbx, .flt, .cast, .perf, .sent, .stalled, .stallReq] : List Piece) ⊆ L) (hs : Keeps L σ s) (q : WayIx) (n : TileIx) (d : BitVec 512) : Keeps L σ (State.opGatherCsr s q n d) := by
  unfold State.opGatherCsr
  refine ite_keeps ?_ ?_
  · apply State.wEnd_keeps (List.Subset.trans (by decide) hL)
    assumption
  · split
    rename_i s1 c segs heq
    have hs1 : Keeps L σ s1 := by
      rw [show s1 = _ from (congrArg Prod.fst heq).symm]
      apply State.wNodes_keeps (List.Subset.trans (by decide) hL)
      assumption
    clear heq
    extract_lets offs
    apply State.wEnd_keeps (List.Subset.trans (by decide) hL)
    apply State.unitWrite_keeps (List.Subset.trans (by decide) hL)
    assumption

theorem State.opGatherIdx_keeps {L : List Piece} {σ : State} {s : State} (hL : ([.regs, .start, .flash, .ledger, .power, .period, .seals, .mem, .tiles, .coll, .mbx, .flt, .cast, .perf, .sent, .stalled, .stallReq] : List Piece) ⊆ L) (hs : Keeps L σ s) (q : WayIx) (n : TileIx) (d : BitVec 512) : Keeps L σ (State.opGatherIdx s q n d) := by
  unfold State.opGatherIdx
  refine ite_keeps ?_ ?_
  · apply State.wEnd_keeps (List.Subset.trans (by decide) hL)
    assumption
  · extract_lets k
    split
    rename_i s1 l snd heq
    have hs1 : Keeps L σ s1 := by
      rw [show s1 = _ from (congrArg Prod.fst heq).symm]
      apply State.engInts_keeps (List.Subset.trans (by decide) hL)
      assumption
    clear heq
    split
    rename_i s2 c heq
    have hs2 : Keeps L σ s2 := by
      rw [show s2 = _ from (congrArg Prod.fst heq).symm]
      apply State.wGatherRows_keeps (List.Subset.trans (by decide) hL)
      assumption
    clear heq
    apply State.wEnd_keeps (List.Subset.trans (by decide) hL)
    assumption

theorem State.opScatterIdx_keeps {L : List Piece} {σ : State} {s : State} (hL : ([.regs, .start, .flash, .ledger, .power, .period, .seals, .mem, .tiles, .coll, .mbx, .flt, .cast, .perf, .sent, .stalled, .stallReq] : List Piece) ⊆ L) (hs : Keeps L σ s) (q : WayIx) (n : TileIx) (d : BitVec 512) : Keeps L σ (State.opScatterIdx s q n d) := by
  unfold State.opScatterIdx
  refine ite_keeps ?_ ?_
  · apply State.wEnd_keeps (List.Subset.trans (by decide) hL)
    assumption
  · split
    rename_i s1 l snd heq
    have hs1 : Keeps L σ s1 := by
      rw [show s1 = _ from (congrArg Prod.fst heq).symm]
      apply State.engInts_keeps (List.Subset.trans (by decide) hL)
      assumption
    clear heq
    split
    rename_i s2 c heq
    have hs2 : Keeps L σ s2 := by
      rw [show s2 = _ from (congrArg Prod.fst heq).symm]
      refine foldl1_keeps _ ?_ _ ?_
      · intro p a hp
        split
        rename_i s1' c1'
        refine ite1_keeps ?_ ?_
        · assumption
        · split
          rename_i s11' row bad1 heq
          have hs11' : Keeps L σ s11' := by
            rw [show s11' = _ from (congrArg Prod.fst heq).symm]
            apply State.engRead_keeps (List.Subset.trans (by decide) hL)
            assumption
          clear heq
          extract_lets s21' c1
          have hs21' : Keeps L σ s21' := by
            unfold s21'
            apply State.unitWrite_keeps (List.Subset.trans (by decide) hL)
            assumption
          clear_value s21'
          refine ite1_keeps ?_ ?_
          · assumption
          · split
            rename_i s3 sc bad2 heq
            have hs3 : Keeps L σ s3 := by
              rw [show s3 = _ from (congrArg Prod.fst heq).symm]
              apply State.engRead_keeps (List.Subset.trans (by decide) hL)
              assumption
            clear heq
            try dsimp only
            apply State.unitWrite_keeps (List.Subset.trans (by decide) hL)
            assumption
      · assumption
    clear heq
    apply State.wEnd_keeps (List.Subset.trans (by decide) hL)
    assumption

theorem State.tColumns_keeps {L : List Piece} {σ : State} {s : State} (hL : ([.regs, .start, .flash, .ledger, .power, .period, .seals, .mem, .tiles, .coll, .mbx, .flt, .cast, .sent, .stalled, .stallReq] : List Piece) ⊆ L) (hs : Keeps L σ s) (n : TileIx) (d : BitVec 512) (rows : List Nat) (x : Sparse (List TVal)) (y : Sparse (List TVal)) : Keeps L σ (State.tColumns s n d rows x y) := by
  unfold State.tColumns
  extract_lets cols p at_ sums bytes
  split
  rename_i s1 b1 bad1 heq
  have hs1 : Keeps L σ s1 := by
    rw [show s1 = _ from (congrArg Prod.fst heq).symm]
    apply State.engRead_keeps (List.Subset.trans (by decide) hL)
    assumption
  clear heq
  split
  rename_i s2 b2 bad2 heq
  have hs2 : Keeps L σ s2 := by
    rw [show s2 = _ from (congrArg Prod.fst heq).symm]
    apply State.engRead_keeps (List.Subset.trans (by decide) hL)
    assumption
  clear heq
  extract_lets xy ys
  apply State.unitWrite_keeps (List.Subset.trans (by decide) hL)
  apply State.unitWrite_keeps (List.Subset.trans (by decide) hL)
  assumption

theorem State.tRow_keeps {L : List Piece} {σ : State} {s : State} (hL : ([.regs, .start, .flash, .ledger, .power, .period, .seals, .mem, .tiles, .coll, .mbx, .flt, .cast, .sent, .stalled, .stallReq] : List Piece) ⊆ L) (hs : Keeps L σ s) (n : TileIx) (base : Nat) (f : Nat) (cols : Nat) (r : Nat) : Keeps L σ (State.tRow s n base f cols r).1 := by
  unfold State.tRow
  split
  rename_i s1 b snd heq
  have hs1 : Keeps L σ s1 := by
    rw [show s1 = _ from (congrArg Prod.fst heq).symm]
    apply State.engRead_keeps (List.Subset.trans (by decide) hL)
    assumption
  clear heq
  assumption

theorem State.tXrow_keeps {L : List Piece} {σ : State} {s : State} (hL : ([.regs, .start, .flash, .ledger, .power, .period, .seals, .mem, .tiles, .coll, .mbx, .flt, .cast, .sent, .stalled, .stallReq] : List Piece) ⊆ L) (hs : Keeps L σ s) (n : TileIx) (d : BitVec 512) (r : Nat) : Keeps L σ (State.tXrow s n d r).1 := by
  unfold State.tXrow
  refine ite1_keeps ?_ ?_
  · extract_lets rb p row
    split
    rename_i s1 c snd heq
    have hs1 : Keeps L σ s1 := by
      rw [show s1 = _ from (congrArg Prod.fst heq).symm]
      apply State.readTensor_keeps (List.Subset.trans (by decide) hL)
      · assumption
      · exact fun s a n h => State.engRead_keeps (List.Subset.trans (by decide) hL) h _ _ _
    clear heq
    assumption
  · apply State.tRow_keeps (List.Subset.trans (by decide) hL)
    assumption

theorem State.tRows_keeps {L : List Piece} {σ : State} {s : State} (hL : ([] : List Piece) ⊆ L) (hs : Keeps L σ s) (get : State → Nat → State × List TVal) (l : List Nat)
    (hg : ∀ s a, Keeps L σ s → Keeps L σ (get s a).1) : Keeps L σ (State.tRows s get l).1 := by
  refine foldl1_keeps _ ?_ _ hs
  intro q a hq
  dsimp only
  split
  · exact hq
  · exact hg _ _ hq

theorem State.tSegments_keeps {L : List Piece} {σ : State} {s : State} (hL : ([.regs, .start, .flash, .ledger, .power, .period, .seals, .mem, .tiles, .coll, .mbx, .flt, .cast, .sent, .stalled, .stallReq] : List Piece) ⊆ L) (hs : Keeps L σ s) (n : TileIx) (d : BitVec 512) : Keeps L σ (State.tSegments s n d).1 := by
  unfold State.tSegments
  refine ite1_keeps ?_ ?_
  · assumption
  · split
    rename_i s1 o snd heq
    have hs1 : Keeps L σ s1 := by
      rw [show s1 = _ from (congrArg Prod.fst heq).symm]
      apply State.engInts_keeps (List.Subset.trans (by decide) hL)
      assumption
    clear heq
    extract_lets v pairs
    assumption

theorem State.tRefuse_keeps {L : List Piece} {σ : State} {s : State} (hL : ([.regs, .tiles, .perf] : List Piece) ⊆ L) (hs : Keeps L σ s) (t : EngIx) (n : TileIx) (d : BitVec 512) : Keeps L σ (State.tRefuse s t n d) := by
  unfold State.tRefuse
  apply State.complete_keeps (List.Subset.trans (by decide) hL)
  apply State.refusedSummary_keeps (List.Subset.trans (by decide) hL)
  apply State.flag_keeps (List.Subset.trans (by decide) hL)
  assumption

theorem State.opTally_keeps {L : List Piece} {σ : State} {s : State} (hL : ([.regs, .start, .flash, .ledger, .power, .period, .seals, .mem, .tiles, .coll, .mbx, .flt, .cast, .perf, .sent, .stalled, .stallReq] : List Piece) ⊆ L) (hs : Keeps L σ s) (t : EngIx) (n : TileIx) (op : Nat) (d : BitVec 512) : Keeps L σ (State.opTally s t n op d) := by
  unfold State.opTally
  refine ite_keeps ?_ ?_
  · apply State.tRefuse_keeps (List.Subset.trans (by decide) hL)
    assumption
  · extract_lets before int pick line w k b
    split
    rename_i s1 segs bad heq
    have hs1 : Keeps L σ s1 := by
      rw [show s1 = _ from (congrArg Prod.fst heq).symm]
      apply State.tSegments_keeps (List.Subset.trans (by decide) hL)
      apply State.modTile_keeps (List.Subset.trans (by decide) hL)
      · assumption
      · exact fun t ht => TileSt.wf_upd (t := t) rfl rfl ht
    clear heq
    extract_lets rows empty
    split
    rename_i s2 x heq
    have hs2 : Keeps L σ s2 := by
      rw [show s2 = _ from (congrArg Prod.fst heq).symm]
      refine ite1_keeps ?_ ?_
      · assumption
      · apply State.tRows_keeps (List.Subset.trans (by decide) hL)
        · assumption
        · exact fun s a h => State.tXrow_keeps (List.Subset.trans (by decide) hL) h _ _ _
    clear heq
    split
    rename_i s3 y heq
    have hs3 : Keeps L σ s3 := by
      rw [show s3 = _ from (congrArg Prod.fst heq).symm]
      refine ite1_keeps ?_ ?_
      · apply State.tRows_keeps (List.Subset.trans (by decide) hL)
        · assumption
        · exact fun s a h => State.tRow_keeps (List.Subset.trans (by decide) hL) h _ _ _ _ _
      · assumption
    clear heq
    extract_lets tainted cells all outs done s4 s5 cnt0 cnt isat elems s6 s7 vals pre s8 s9
    have hs4 : Keeps L σ s4 := by
      unfold s4
      refine State.forEach_keeps _ ?_ _ ?_
      · intro s1' a hs1'
        refine State.forEach_keeps _ ?_ _ ?_
        · intro s2' a1' hs2'
          apply State.unitWrite_keeps (List.Subset.trans (by decide) hL)
          assumption
        · assumption
      · refine ite_keeps ?_ ?_
        · apply State.taintTile_keeps (List.Subset.trans (by decide) hL)
          assumption
        · assumption
    clear_value s4
    have hs5 : Keeps L σ s5 := by
      unfold s5
      refine ite_keeps ?_ ?_
      · apply State.tColumns_keeps (List.Subset.trans (by decide) hL)
        assumption
      · assumption
    clear_value s5
    have hs6 : Keeps L σ s6 := by
      unfold s6
      apply State.flagIf_keeps (List.Subset.trans (by decide) hL)
      apply State.flagIf_keeps (List.Subset.trans (by decide) hL)
      apply State.flagIf_keeps (List.Subset.trans (by decide) hL)
      assumption
    clear_value s6
    have hs7 : Keeps L σ s7 := by
      unfold s7
      apply State.bump_keeps (List.Subset.trans (by decide) hL)
      assumption
    clear_value s7
    have hs8 : Keeps L σ s8 := by
      unfold s8
      refine ite_keeps ?_ ?_
      · apply State.putSummary_keeps (List.Subset.trans (by decide) hL)
        assumption
      · assumption
    clear_value s8
    have hs9 : Keeps L σ s9 := by
      unfold s9
      apply State.perfEvent_keeps (List.Subset.trans (by decide) hL)
      apply State.perfEvent_keeps (List.Subset.trans (by decide) hL)
      apply State.perfEvent_keeps (List.Subset.trans (by decide) hL)
      assumption
    clear_value s9
    apply State.complete_keeps (List.Subset.trans (by decide) hL)
    apply State.sticky_keeps (List.Subset.trans (by decide) hL)
    assumption

theorem State.useEngine_keeps {L : List Piece} {σ : State} {s : State} (hL : ([.period] : List Piece) ⊆ L) (hs : Keeps L σ s) (d : Nat) (n : TileIx) : Keeps L σ (State.useEngine s d n) := by
  unfold State.useEngine
  refine ite_keeps ?_ ?_
  · assumption
  · refine Keeps.upd (s := s) hL ?_
    assumption

end Sys2Proof.Machine
end

