-- ==== Sys2Proof/Laws/KeepsCollRun.lean ====
section
/-! SUPPORT. What the operations of Machine/CollRun.lean keep: the queue of commands, what was sent, canonical memories, and the parts of the state
they do not write. -/

namespace Sys2Proof.Machine

set_option Elab.async false

theorem State.ackTo_keeps {L : List Piece} {σ : State} {s : State} (hL : ([.sent] : List Piece) ⊆ L) (hs : Keeps L σ s) (g : Group) (c : Coll) (pos : Nat) (chunk : Nat) : Keeps L σ (State.ackTo s g c pos chunk) := by
  unfold State.ackTo
  split
  · apply State.send_keeps (List.Subset.trans (by decide) hL)
    assumption
  · assumption

theorem State.acceptChunk_keeps {L : List Piece} {σ : State} {s : State} (hL : ([.sent] : List Piece) ⊆ L) (hs : Keeps L σ s) (g : Group) (c : Coll) (pos : Nat) (f : DataFrame) : Keeps L σ (State.acceptChunk s g c pos f).1 := by
  unfold State.acceptChunk
  extract_lets i
  refine ite1_keeps ?_ ?_
  · assumption
  · refine ite1_keeps ?_ ?_
    · try dsimp only
      refine ite_keeps ?_ ?_
      · apply State.ackTo_keeps (List.Subset.trans (by decide) hL)
        assumption
      · assumption
    · assumption

theorem State.arriving_keeps {L : List Piece} {σ : State} {s : State} (hL : ([.regs, .start, .flash, .ledger, .power, .period, .seals, .mem, .tiles, .coll, .mbx, .flt, .cast, .sent, .stalled] : List Piece) ⊆ L) (hs : Keeps L σ s) (c : Coll) (f : DataFrame) : Keeps L σ (State.arriving s c f).1 := by
  unfold State.arriving
  extract_lets h sent n wire known miss bytes poison s1 s2
  have hs1 : Keeps L σ s1 := by
    unfold s1
    refine ite_keeps ?_ ?_
    · apply State.post_keeps (List.Subset.trans (by decide) hL)
      apply State.flag_keeps (List.Subset.trans (by decide) hL)
      assumption
    · assumption
  clear_value s1
  have hs2 : Keeps L σ s2 := by
    unfold s2
    refine ite_keeps ?_ ?_
    · apply State.taintTile_keeps (List.Subset.trans (by decide) hL)
      apply State.flag_keeps (List.Subset.trans (by decide) hL)
      assumption
    · assumption
  clear_value s2
  assumption

theorem State.askSlot_keeps {L : List Piece} {σ : State} {s : State} (hL : ([.coll, .sent] : List Piece) ⊆ L) (hs : Keeps L σ s) (g : Group) (c : Coll) (p : Fin 2) : Keeps L σ (State.askSlot s g c p).1 := by
  unfold State.askSlot
  refine ite1_keeps ?_ ?_
  · assumption
  · try dsimp only
    apply State.sendControl_keeps (List.Subset.trans (by decide) hL)
    assumption

theorem State.unstage_keeps {L : List Piece} {σ : State} {s : State} (hL : ([.coll, .sent] : List Piece) ⊆ L) (hs : Keeps L σ s) (c : Coll) (gone : Staged → Bool) : Keeps L σ (State.unstage s c gone).1 := by
  unfold State.unstage
  try dsimp only
  refine State.forEach_keeps _ ?_ _ ?_
  · intro s1' a hs1'
    apply State.freeStaging_keeps (List.Subset.trans (by decide) hL)
    assumption
  · assumption

theorem State.ownUnit_keeps {L : List Piece} {σ : State} {s : State} (hL : ([.regs, .start, .flash, .ledger, .power, .period, .seals, .mem, .tiles, .coll, .mbx, .flt, .cast, .sent, .stalled, .stallReq] : List Piece) ⊆ L) (hs : Keeps L σ s) (c : Coll) (u : Nat) : Keeps L σ (State.ownUnit s c u).1 := by
  unfold State.ownUnit
  split
  rename_i s1 b bad heq
  have hs1 : Keeps L σ s1 := by
    rw [show s1 = _ from (congrArg Prod.fst heq).symm]
    apply State.engRead_keeps (List.Subset.trans (by decide) hL)
    assumption
  clear heq
  assumption

theorem State.formResult_keeps {L : List Piece} {σ : State} {s : State} (hL : ([.regs, .start, .flash, .ledger, .power, .period, .seals, .mem, .tiles, .coll, .mbx, .flt, .cast, .sent, .stalled, .stallReq] : List Piece) ⊆ L) (hs : Keeps L σ s) (g : Group) (c : Coll) (u : Nat) : Keeps L σ (State.formResult s g c u).1 := by
  unfold State.formResult
  extract_lets i parts c1
  split
  rename_i s1 own bad heq
  have hs1 : Keeps L σ s1 := by
    rw [show s1 = _ from (congrArg Prod.fst heq).symm]
    apply State.ownUnit_keeps (List.Subset.trans (by decide) hL)
    assumption
  clear heq
  extract_lets acc
  split
  · extract_lets s2
    have hs2 : Keeps L σ s2 := by
      unfold s2
      apply State.unitWrite_keeps (List.Subset.trans (by decide) hL)
      assumption
    clear_value s2
    apply State.unstage_keeps (List.Subset.trans (by decide) hL)
    assumption

theorem State.readyMismatch_keeps {L : List Piece} {σ : State} {s : State} (hL : ([.regs, .start, .flash, .ledger, .power, .period, .seals, .mem, .tiles, .coll, .mbx, .flt, .cast, .sent, .stalled] : List Piece) ⊆ L) (hs : Keeps L σ s) (c : Coll) : Keeps L σ (State.readyMismatch s c).1 := by
  unfold State.readyMismatch
  try dsimp only
  apply State.post_keeps (List.Subset.trans (by decide) hL)
  apply State.flag_keeps (List.Subset.trans (by decide) hL)
  assumption

theorem State.formVotes_keeps {L : List Piece} {σ : State} {s : State} (hL : ([.regs, .start, .flash, .ledger, .power, .period, .seals, .mem, .tiles, .coll, .mbx, .flt, .cast, .sent, .stalled, .stallReq] : List Piece) ⊆ L) (hs : Keeps L σ s) (g : Group) (c : Coll) : Keeps L σ (State.formVotes s g c).1 := by
  unfold State.formVotes
  split
  rename_i s1 own bad heq
  have hs1 : Keeps L σ s1 := by
    rw [show s1 = _ from (congrArg Prod.fst heq).symm]
    apply State.engRead_keeps (List.Subset.trans (by decide) hL)
    assumption
  clear heq
  extract_lets at_ l votes
  split
  rename_i s2 c1 heq
  have hs2 : Keeps L σ s2 := by
    rw [show s2 = _ from (congrArg Prod.fst heq).symm]
    refine ite1_keeps ?_ ?_
    · apply State.readyMismatch_keeps (List.Subset.trans (by decide) hL)
      assumption
    · assumption
  clear heq
  try dsimp only
  apply State.unitWrite_keeps (List.Subset.trans (by decide) hL)
  assumption

theorem State.collResults_keeps {L : List Piece} {σ : State} {s : State} (hL : ([.regs, .start, .flash, .ledger, .power, .period, .seals, .mem, .tiles, .coll, .mbx, .flt, .cast, .sent, .stalled, .stallReq] : List Piece) ⊆ L) (hs : Keeps L σ s) (g : Group) (c : Coll) : Keeps L σ (State.collResults s g c).1 := by
  unfold State.collResults
  refine ite1_keeps ?_ ?_
  · assumption
  · refine ite1_keeps ?_ ?_
    · refine ite1_keeps ?_ ?_
      · refine State.courier_keeps (List.Subset.trans (by decide) hL) _ _ ?_ ?_
        · assumption
        · intro s1' a hs1'
          beta_reduce
          apply State.formVotes_keeps (List.Subset.trans (by decide) hL)
          assumption
      · assumption
    · refine foldl1_keeps _ ?_ _ ?_
      · intro p a hp
        refine ite1_keeps ?_ ?_
        · refine State.courier_keeps (List.Subset.trans (by decide) hL) _ _ ?_ ?_
          · assumption
          · intro s1' a1' hs1'
            beta_reduce
            apply State.formResult_keeps (List.Subset.trans (by decide) hL)
            assumption
        · assumption
      · assumption

theorem State.collTold_keeps {L : List Piece} {σ : State} {s : State} (hL : ([.sent] : List Piece) ⊆ L) (hs : Keeps L σ s) (g : Group) (c : Coll) : Keeps L σ (State.collTold s g c).1 := by
  unfold State.collTold
  refine ite1_keeps ?_ ?_
  · assumption
  · refine ite1_keeps ?_ ?_
    · refine foldl1_keeps _ ?_ _ ?_
      · intro p a hp
        refine ite1_keeps ?_ ?_
        · try dsimp only
          apply State.ackTo_keeps (List.Subset.trans (by decide) hL)
          assumption
        · assumption
      · assumption
    · refine ite1_keeps ?_ ?_
      · assumption
      · assumption

theorem State.collResidual_keeps {L : List Piece} {σ : State} {s : State} (hL : ([.regs, .start, .flash, .ledger, .power, .period, .seals, .mem, .tiles, .coll, .mbx, .flt, .cast, .sent, .stalled, .stallReq] : List Piece) ⊆ L) (hs : Keeps L σ s) (g : Group) (c : Coll) : Keeps L σ (State.collResidual s g c).1 := by
  unfold State.collResidual
  refine ite1_keeps ?_ ?_
  · assumption
  · split
    · assumption
    · refine foldl1_keeps _ ?_ _ ?_
      · intro p a hp
        refine ite1_keeps ?_ ?_
        · refine State.courier_keeps (List.Subset.trans (by decide) hL) _ _ ?_ ?_
          · assumption
          · intro s1' a1' hs1'
            beta_reduce
            try dsimp only
            apply State.writeResidual_keeps (List.Subset.trans (by decide) hL)
            assumption
        · assumption
      · assumption

theorem State.collChunk_keeps {L : List Piece} {σ : State} {s : State} (hL : ([.regs, .start, .flash, .ledger, .power, .period, .seals, .mem, .tiles, .coll, .mbx, .flt, .cast, .sent, .stalled, .stallReq] : List Piece) ⊆ L) (hs : Keeps L σ s) (g : Group) (c : Coll) (key : Nat) : Keeps L σ (State.collChunk s g c key).1 := by
  unfold State.collChunk
  split
  · assumption
  · extract_lets last first hdr fmt
    refine ite1_keeps ?_ ?_
    · split
      · split
        rename_i s1 blocks bad heq
        have hs1 : Keeps L σ s1 := by
          rw [show s1 = _ from (congrArg Prod.fst heq).symm]
          apply State.wireChunk_keeps (List.Subset.trans (by decide) hL)
          assumption
        clear heq
        extract_lets pay
        assumption
      · assumption
    · split
      rename_i s1 b bad heq
      have hs1 : Keeps L σ s1 := by
        rw [show s1 = _ from (congrArg Prod.fst heq).symm]
        apply State.engRead_keeps (List.Subset.trans (by decide) hL)
        assumption
      clear heq
      assumption

theorem State.sendKey_keeps {L : List Piece} {σ : State} {s : State} (hL : ([.regs, .start, .flash, .ledger, .power, .period, .seals, .mem, .tiles, .coll, .mbx, .flt, .cast, .perf, .sent, .stalled, .stallReq] : List Piece) ⊆ L) (g : Group) (key : Nat) (hs : Keeps L σ s) (c : Coll) : Keeps L σ (State.sendKey g key s c).1 := by
  unfold State.sendKey
  extract_lets plan fresh
  refine ite1_keeps ?_ ?_
  · assumption
  · split
    rename_i s1 c1 h pay src heq
    have hs1 : Keeps L σ s1 := by
      rw [show s1 = _ from (congrArg Prod.fst heq).symm]
      apply State.collChunk_keeps (List.Subset.trans (by decide) hL)
      assumption
    clear heq
    extract_lets c2
    refine foldl1_keeps _ ?_ _ ?_
    · intro p a hp
      extract_lets dst again h1 s2 sent src1'
      have hs2 : Keeps L σ s2 := by
        unfold s2
        apply State.sendFrom_keeps (List.Subset.trans (by decide) hL)
        assumption
      clear_value s2
      refine ite1_keeps ?_ ?_
      · try dsimp only
        apply State.bump_keeps (List.Subset.trans (by decide) hL)
        apply State.flag_keeps (List.Subset.trans (by decide) hL)
        assumption
      · assumption
    · assumption

theorem State.collSends_keeps {L : List Piece} {σ : State} {s : State} (hL : ([.regs, .start, .flash, .ledger, .power, .period, .seals, .mem, .tiles, .coll, .mbx, .flt, .cast, .perf, .sent, .stalled, .stallReq] : List Piece) ⊆ L) (hs : Keeps L σ s) (g : Group) (c : Coll) : Keeps L σ (State.collSends s g c).1 := by
  unfold State.collSends
  refine foldl1_keeps _ ?_ _ ?_
  · intro p a hp
    refine State.courier_keeps (List.Subset.trans (by decide) hL) _ _ ?_ ?_
    · assumption
    · intro s1' a1' hs1'
      beta_reduce
      apply State.sendKey_keeps (List.Subset.trans (by decide) hL)
      assumption
  · assumption

theorem State.ownWire_keeps {L : List Piece} {σ : State} {s : State} (hL : ([.regs, .start, .flash, .ledger, .power, .period, .seals, .mem, .tiles, .coll, .mbx, .flt, .cast, .sent, .stalled, .stallReq] : List Piece) ⊆ L) (hs : Keeps L σ s) (g : Group) (c : Coll) (i : Nat) : Keeps L σ (State.ownWire s g c i).1 := by
  unfold State.ownWire
  split
  · assumption
  · split
    rename_i s1 blocks bad heq
    have hs1 : Keeps L σ s1 := by
      rw [show s1 = _ from (congrArg Prod.fst heq).symm]
      apply State.wireChunk_keeps (List.Subset.trans (by decide) hL)
      assumption
    clear heq
    extract_lets x src
    try dsimp only
    apply State.writeResidual_keeps (List.Subset.trans (by decide) hL)
    assumption

theorem State.formPartial_keeps {L : List Piece} {σ : State} {s : State} (hL : ([.regs, .start, .flash, .ledger, .power, .period, .seals, .mem, .tiles, .coll, .mbx, .flt, .cast, .sent, .stalled, .stallReq] : List Piece) ⊆ L) (hs : Keeps L σ s) (g : Group) (c : Coll) (u : Nat) : Keeps L σ (State.formPartial s g c u).1 := by
  unfold State.formPartial
  extract_lets i last
  split
  rename_i s1 c1 heq
  have hs1 : Keeps L σ s1 := by
    rw [show s1 = _ from (congrArg Prod.fst heq).symm]
    refine ite1_keeps ?_ ?_
    · apply State.ownWire_keeps (List.Subset.trans (by decide) hL)
      assumption
    · assumption
  clear heq
  split
  rename_i s2 own bad heq
  have hs2 : Keeps L σ s2 := by
    rw [show s2 = _ from (congrArg Prod.fst heq).symm]
    refine ite1_keeps ?_ ?_
    · assumption
    · apply State.ownUnit_keeps (List.Subset.trans (by decide) hL)
      assumption
  clear heq
  extract_lets parts bytes poison h c2
  apply State.unstage_keeps (List.Subset.trans (by decide) hL)
  assumption

theorem State.collPartials_keeps {L : List Piece} {σ : State} {s : State} (hL : ([.regs, .start, .flash, .ledger, .power, .period, .seals, .mem, .tiles, .coll, .mbx, .flt, .cast, .sent, .stalled, .stallReq] : List Piece) ⊆ L) (hs : Keeps L σ s) (g : Group) (c : Coll) : Keeps L σ (State.collPartials s g c).1 := by
  unfold State.collPartials
  refine ite1_keeps ?_ ?_
  · refine foldl1_keeps _ ?_ _ ?_
    · intro p a hp
      refine ite1_keeps ?_ ?_
      · refine State.courier_keeps (List.Subset.trans (by decide) hL) _ _ ?_ ?_
        · assumption
        · intro s1' a1' hs1'
          beta_reduce
          apply State.formPartial_keeps (List.Subset.trans (by decide) hL)
          assumption
      · assumption
    · assumption
  · assumption

theorem State.collOwnCopy_keeps {L : List Piece} {σ : State} {s : State} (hL : ([.regs, .start, .flash, .ledger, .power, .period, .seals, .mem, .tiles, .coll, .mbx, .flt, .cast, .sent, .stalled, .stallReq] : List Piece) ⊆ L) (hs : Keeps L σ s) (g : Group) (c : Coll) : Keeps L σ (State.collOwnCopy s g c).1 := by
  unfold State.collOwnCopy
  refine ite1_keeps ?_ ?_
  · assumption
  · split
    · assumption
    · refine foldl1_keeps _ ?_ _ ?_
      · intro p a hp
        refine ite1_keeps ?_ ?_
        · assumption
        · refine State.courier_keeps (List.Subset.trans (by decide) hL) _ _ ?_ ?_
          · assumption
          · intro s1' a1' hs1'
            beta_reduce
            split
            rename_i s1 blocks bad heq
            have hs1 : Keeps L σ s1 := by
              rw [show s1 = _ from (congrArg Prod.fst heq).symm]
              apply State.wireChunk_keeps (List.Subset.trans (by decide) hL)
              assumption
            clear heq
            extract_lets s2 a1
            have hs2 : Keeps L σ s2 := by
              unfold s2
              apply State.unitWrite_keeps (List.Subset.trans (by decide) hL)
              assumption
            clear_value s2
            assumption
      · assumption

theorem State.sendGo_keeps {L : List Piece} {σ : State} {s : State} (hL : ([.coll, .sent] : List Piece) ⊆ L) (hs : Keeps L σ s) (g : Group) (c : Coll) : Keeps L σ (State.sendGo s g c).1 := by
  unfold State.sendGo
  extract_lets open_ c1
  refine ite1_keeps ?_ ?_
  · assumption
  · refine foldl1_keeps _ ?_ _ ?_
    · intro p a hp
      refine ite1_keeps ?_ ?_
      · assumption
      · split
        · assumption
        · split
          · refine ite1_keeps ?_ ?_
            · try dsimp only
              apply State.sendControl_keeps (List.Subset.trans (by decide) hL)
              assumption
            · assumption
          · assumption
    · assumption

theorem State.collSlots_keeps {L : List Piece} {σ : State} {s : State} (hL : ([.coll, .sent] : List Piece) ⊆ L) (hs : Keeps L σ s) (g : Group) (c : Coll) : Keeps L σ (State.collSlots s g c).1 := by
  unfold State.collSlots
  refine ite1_keeps ?_ ?_
  · split
    rename_i s1 c1 heq
    have hs1 : Keeps L σ s1 := by
      rw [show s1 = _ from (congrArg Prod.fst heq).symm]
      apply State.askSlot_keeps (List.Subset.trans (by decide) hL)
      assumption
    clear heq
    split
    rename_i s2 c2 heq
    have hs2 : Keeps L σ s2 := by
      rw [show s2 = _ from (congrArg Prod.fst heq).symm]
      apply State.askSlot_keeps (List.Subset.trans (by decide) hL)
      assumption
    clear heq
    apply State.sendGo_keeps (List.Subset.trans (by decide) hL)
    assumption
  · assumption

theorem State.collReadys_keeps {L : List Piece} {σ : State} {s : State} (hL : ([.coll, .sent] : List Piece) ⊆ L) (hs : Keeps L σ s) (g : Group) (c : Coll) : Keeps L σ (State.collReadys s g c).1 := by
  unfold State.collReadys
  refine foldl1_keeps _ ?_ _ ?_
  · intro p a hp
    refine ite1_keeps ?_ ?_
    · assumption
    · split
      · assumption
      · split
        · refine ite1_keeps ?_ ?_
          · try dsimp only
            apply State.sendControl_keeps (List.Subset.trans (by decide) hL)
            assumption
          · assumption
        · assumption
  · assumption

theorem State.relays_keeps {L : List Piece} {σ : State} {s : State} (hL : ([.regs] : List Piece) ⊆ L) (hs : Keeps L σ s) (c : Coll) (p : Nat) : Keeps L σ (State.relays s c p).1 := by
  unfold State.relays
  try dsimp only
  apply State.bump_keeps (List.Subset.trans (by decide) hL)
  apply State.flag_keeps (List.Subset.trans (by decide) hL)
  assumption

theorem State.takeGo_keeps {L : List Piece} {σ : State} {s : State} (hL : ([.regs] : List Piece) ⊆ L) (hs : Keeps L σ s) (g : Group) (c : Coll) (s0 : Option Nat) (s1 : Option Nat) : Keeps L σ (State.takeGo s g c s0 s1).1 := by
  unfold State.takeGo
  refine ite1_keeps ?_ ?_
  · assumption
  · extract_lets c1
    split
    rename_i t c2 heq
    have ht : Keeps L σ t := by
      rw [show t = _ from (congrArg Prod.fst heq).symm]
      refine ite1_keeps ?_ ?_
      · apply State.relays_keeps (List.Subset.trans (by decide) hL)
        assumption
      · assumption
    clear heq
    refine ite1_keeps ?_ ?_
    · apply State.relays_keeps (List.Subset.trans (by decide) hL)
      assumption
    · assumption

theorem State.takeGos_keeps {L : List Piece} {σ : State} {s : State} (hL : ([.regs, .coll] : List Piece) ⊆ L) (hs : Keeps L σ s) (g : Group) (c : Coll) : Keeps L σ (State.takeGos s g c).1 := by
  unfold State.takeGos
  refine ite1_keeps ?_ ?_
  · split
    · apply State.takeGo_keeps (List.Subset.trans (by decide) hL)
      refine Keeps.upd (s := s) hL ?_
      assumption
    · assumption
  · assumption

theorem State.landChunk_keeps {L : List Piece} {σ : State} {s : State} (hL : ([.regs, .start, .flash, .ledger, .power, .period, .seals, .mem, .tiles, .coll, .mbx, .flt, .cast, .sent, .stalled, .stallReq] : List Piece) ⊆ L) (hs : Keeps L σ s) (c : Coll) (pos : Nat) (f : DataFrame) : Keeps L σ (State.landChunk s c pos f).1 := by
  unfold State.landChunk
  split
  rename_i s1 c1 bytes poison heq
  have hs1 : Keeps L σ s1 := by
    rw [show s1 = _ from (congrArg Prod.fst heq).symm]
    apply State.arriving_keeps (List.Subset.trans (by decide) hL)
    assumption
  clear heq
  extract_lets i
  try dsimp only
  apply State.unitWrite_keeps (List.Subset.trans (by decide) hL)
  assumption

theorem State.landOne_keeps {L : List Piece} {σ : State} {s : State} (hL : ([.regs, .start, .flash, .ledger, .power, .period, .seals, .mem, .tiles, .coll, .mbx, .flt, .cast, .sent, .stalled, .stallReq] : List Piece) ⊆ L) (hs : Keeps L σ s) (g : Group) (c : Coll) (pos : Nat) (f : DataFrame) : Keeps L σ (State.landOne s g c pos f).1 := by
  unfold State.landOne
  extract_lets i
  split
  rename_i s1 c1 heq
  have hs1 : Keeps L σ s1 := by
    rw [show s1 = _ from (congrArg Prod.fst heq).symm]
    apply State.landChunk_keeps (List.Subset.trans (by decide) hL)
    assumption
  clear heq
  refine ite1_keeps ?_ ?_
  · assumption
  · try dsimp only
    apply State.ackTo_keeps (List.Subset.trans (by decide) hL)
    assumption

theorem State.landAll_keeps {L : List Piece} {σ : State} {s : State} (hL : ([.regs, .start, .flash, .ledger, .power, .period, .seals, .mem, .tiles, .coll, .mbx, .flt, .cast, .sent, .stalled, .stallReq] : List Piece) ⊆ L) (hs : Keeps L σ s) (g : Group) (c : Coll) : Keeps L σ (State.landAll s g c).1 := by
  unfold State.landAll
  refine foldl1_keeps _ ?_ _ ?_
  · intro p a hp
    refine State.courier_keeps (List.Subset.trans (by decide) hL) _ _ ?_ ?_
    · assumption
    · intro s1' a1' hs1'
      beta_reduce
      apply State.landOne_keeps (List.Subset.trans (by decide) hL)
      assumption
  · assumption

theorem State.collAdvance_keeps {L : List Piece} {σ : State} {s : State} (hL : ([.regs, .start, .flash, .ledger, .power, .period, .seals, .mem, .tiles, .coll, .mbx, .flt, .cast, .perf, .sent, .stalled, .stallReq] : List Piece) ⊆ L) (hs : Keeps L σ s) (g : Group) (c : Coll) : Keeps L σ (State.collAdvance s g c).1 := by
  unfold State.collAdvance
  split
  rename_i sl cl heq
  have hsl : Keeps L σ sl := by
    rw [show sl = _ from (congrArg Prod.fst heq).symm]
    apply State.landAll_keeps (List.Subset.trans (by decide) hL)
    assumption
  clear heq
  split
  rename_i s0 c0 heq
  have hs0 : Keeps L σ s0 := by
    rw [show s0 = _ from (congrArg Prod.fst heq).symm]
    apply State.takeGos_keeps (List.Subset.trans (by decide) hL)
    assumption
  clear heq
  split
  rename_i s1 c1 heq
  have hs1 : Keeps L σ s1 := by
    rw [show s1 = _ from (congrArg Prod.fst heq).symm]
    apply State.collReadys_keeps (List.Subset.trans (by decide) hL)
    assumption
  clear heq
  split
  rename_i s2 c2 heq
  have hs2 : Keeps L σ s2 := by
    rw [show s2 = _ from (congrArg Prod.fst heq).symm]
    apply State.collSlots_keeps (List.Subset.trans (by decide) hL)
    assumption
  clear heq
  split
  rename_i s3 c3 heq
  have hs3 : Keeps L σ s3 := by
    rw [show s3 = _ from (congrArg Prod.fst heq).symm]
    apply State.collOwnCopy_keeps (List.Subset.trans (by decide) hL)
    assumption
  clear heq
  split
  rename_i s4 c4 heq
  have hs4 : Keeps L σ s4 := by
    rw [show s4 = _ from (congrArg Prod.fst heq).symm]
    apply State.collPartials_keeps (List.Subset.trans (by decide) hL)
    assumption
  clear heq
  split
  rename_i s5 c5 heq
  have hs5 : Keeps L σ s5 := by
    rw [show s5 = _ from (congrArg Prod.fst heq).symm]
    apply State.collSends_keeps (List.Subset.trans (by decide) hL)
    assumption
  clear heq
  split
  rename_i s6 c6 heq
  have hs6 : Keeps L σ s6 := by
    rw [show s6 = _ from (congrArg Prod.fst heq).symm]
    apply State.collResidual_keeps (List.Subset.trans (by decide) hL)
    assumption
  clear heq
  split
  rename_i s7 c7 heq
  have hs7 : Keeps L σ s7 := by
    rw [show s7 = _ from (congrArg Prod.fst heq).symm]
    apply State.collTold_keeps (List.Subset.trans (by decide) hL)
    assumption
  clear heq
  apply State.collResults_keeps (List.Subset.trans (by decide) hL)
  assumption

theorem State.collRecorded_keeps {L : List Piece} {σ : State} {s : State} (hL : ([.regs, .start, .flash, .ledger, .power, .period, .seals, .mem, .tiles, .coll, .mbx, .flt, .cast, .sent, .stalled, .stallReq, .free] : List Piece) ⊆ L) (hs : Keeps L σ s) (c : Coll) : Keeps L σ (State.collRecorded s c).1 := by
  unfold State.collRecorded
  refine ite1_keeps ?_ ?_
  · assumption
  · refine State.courier_keeps (List.Subset.trans (by decide) hL) _ _ ?_ ?_
    · assumption
    · intro s1' a hs1'
      beta_reduce
      try dsimp only
      apply State.collRecord_keeps (List.Subset.trans (by decide) hL)
      apply State.undefDest_keeps (List.Subset.trans (by decide) hL)
      assumption

theorem State.collStep_keeps {L : List Piece} {σ : State} {s : State} (hL : ([.regs, .start, .flash, .ledger, .power, .period, .seals, .mem, .tiles, .coll, .mbx, .flt, .cast, .perf, .sent, .stalled, .stallReq, .free] : List Piece) ⊆ L) (hs : Keeps L σ s) (c : Coll) : Keeps L σ (State.collStep s c).1 := by
  unfold State.collStep
  split
  · assumption
  · split
    rename_i s1 c1 heq
    have hs1 : Keeps L σ s1 := by
      rw [show s1 = _ from (congrArg Prod.fst heq).symm]
      apply State.collAdvance_keeps (List.Subset.trans (by decide) hL)
      assumption
    clear heq
    extract_lets early
    split
    rename_i s2 c2 heq
    have hs2 : Keeps L σ s2 := by
      rw [show s2 = _ from (congrArg Prod.fst heq).symm]
      refine ite1_keeps ?_ ?_
      · apply State.collRecorded_keeps (List.Subset.trans (by decide) hL)
        assumption
      · assumption
    clear heq
    refine ite1_keeps ?_ ?_
    · assumption
    · assumption

theorem State.collRun_keeps {L : List Piece} {σ : State} {s : State} (hL : ([.regs, .start, .flash, .ledger, .power, .period, .seals, .mem, .tiles, .coll, .mbx, .flt, .cast, .perf, .sent, .stalled, .stallReq, .free] : List Piece) ⊆ L) (k : Nat) (hs : Keeps L σ s) : Keeps L σ (State.collRun k s) := by
  induction k generalizing s with
  | zero => exact hs
  | succ k ih =>
    unfold State.collRun
    extract_lets q
    split
    rename_i s1 l heq
    have h1 : Keeps L σ s1 := by
      rw [show s1 = _ from (congrArg Prod.fst heq).symm]
      refine foldl1_keeps _ ?_ _ hs
      intro p c hp
      dsimp only
      split
      · exact State.collStep_keeps (List.Subset.trans (by decide) hL) hp _
      · exact hp
    dsimp only
    split
    · exact ih (State.setCollQueue_keeps (List.Subset.trans (by decide) hL) h1 _)
    · exact State.setCollQueue_keeps (List.Subset.trans (by decide) hL) h1 _

theorem State.collPump_keeps {L : List Piece} {σ : State} {s : State} (hL : ([.regs, .start, .flash, .ledger, .power, .period, .seals, .mem, .tiles, .coll, .mbx, .flt, .cast, .perf, .sent, .stalled, .stallReq, .free] : List Piece) ⊆ L) (hs : Keeps L σ s) : Keeps L σ (State.collPump s) := by
  unfold State.collPump
  refine ite_keeps ?_ ?_
  · assumption
  · apply State.collRun_keeps (List.Subset.trans (by decide) hL)
    assumption

theorem State.countStale_keeps {L : List Piece} {σ : State} {s : State} (hL : ([.regs, .coll] : List Piece) ⊆ L) (hs : Keeps L σ s) (h : ChunkHeader) : Keeps L σ (State.countStale s h) := by
  unfold State.countStale
  extract_lets s1
  have hs1 : Keeps L σ s1 := by
    unfold s1
    apply State.bump_keeps (List.Subset.trans (by decide) hL)
    apply State.flag_keeps (List.Subset.trans (by decide) hL)
    assumption
  clear_value s1
  apply State.setCollQueue_keeps (List.Subset.trans (by decide) hL)
  assumption

theorem State.meetReady_keeps {L : List Piece} {σ : State} {s : State} (hL : ([.regs, .start, .flash, .ledger, .power, .period, .seals, .mem, .tiles, .coll, .mbx, .flt, .cast, .sent, .stalled] : List Piece) ⊆ L) (hs : Keeps L σ s) (src : Nat) (b : ReadyBody) (c : Coll) : Keeps L σ (State.meetReady s src b c).1 := by
  unfold State.meetReady
  split
  · assumption
  · refine ite1_keeps ?_ ?_
    · assumption
    · split
      rename_i s1 c1 heq
      have hs1 : Keeps L σ s1 := by
        rw [show s1 = _ from (congrArg Prod.fst heq).symm]
        apply State.readyMismatch_keeps (List.Subset.trans (by decide) hL)
        assumption
      clear heq
      assumption

theorem State.onAnswer_keeps {L : List Piece} {σ : State} {s : State} (hL : ([.regs] : List Piece) ⊆ L) (plane : Fin 2) (slot : Option Nat) (timeout : Bool) (hs : Keeps L σ s) (_g : Group) (c : Coll) : Keeps L σ (State.onAnswer plane slot timeout s _g c).1 := by
  unfold State.onAnswer
  refine ite1_keeps ?_ ?_
  · assumption
  · extract_lets c1
    split
    · try dsimp only
      apply State.bump_keeps (List.Subset.trans (by decide) hL)
      assumption
    · apply State.relays_keeps (List.Subset.trans (by decide) hL)
      apply State.flagIf_keeps (List.Subset.trans (by decide) hL)
      assumption

theorem State.onBroadcast_keeps {L : List Piece} {σ : State} {s : State} (hL : ([.sent] : List Piece) ⊆ L) (f : DataFrame) (hs : Keeps L σ s) (g : Group) (c : Coll) : Keeps L σ (State.onBroadcast f s g c).1 := by
  unfold State.onBroadcast
  split
  · assumption
  · refine ite1_keeps ?_ ?_
    · assumption
    · apply State.acceptChunk_keeps (List.Subset.trans (by decide) hL)
      assumption

theorem State.onColl_keeps {L : List Piece} {σ : State} {s : State} (hL : ([.regs, .start, .flash, .ledger, .power, .period, .seals, .mem, .tiles, .coll, .mbx, .flt, .cast, .perf, .sent, .stalled, .stallReq, .free] : List Piece) ⊆ L) (hs : Keeps L σ s) (key : CollKey)
    (f : State → Sys2Proof.Group → Coll → State × Coll) (hf : ∀ s g c, Keeps L σ s → Keeps L σ (f s g c).1) : Keeps L σ (State.onColl s key f) := by
  unfold State.onColl
  split
  · exact hs
  · split
    · exact hs
    · split
      · exact hs
      · dsimp only
        exact State.collPump_keeps (List.Subset.trans (by decide) hL) (State.setCollQueue_keeps (List.Subset.trans (by decide) hL) (hf _ _ _ hs) _)

theorem State.onCollAck_keeps {L : List Piece} {σ : State} {s : State} (hL : ([] : List Piece) ⊆ L) (src : Nat) (chunk : Nat) (hs : Keeps L σ s) (g : Group) (c : Coll) : Keeps L σ (State.onCollAck src chunk s g c).1 := by
  unfold State.onCollAck
  split
  · refine ite1_keeps ?_ ?_
    · assumption
    · assumption
  · assumption

theorem State.stageChunk_keeps {L : List Piece} {σ : State} {s : State} (hL : ([.regs, .start, .flash, .ledger, .power, .period, .seals, .mem, .tiles, .coll, .mbx, .flt, .cast, .sent, .stalled] : List Piece) ⊆ L) (hs : Keeps L σ s) (g : Group) (c : Coll) (p : Nat) (pos : Nat) (f : DataFrame) : Keeps L σ (State.stageChunk s g c p pos f).1 := by
  unfold State.stageChunk
  extract_lets i
  refine ite1_keeps ?_ ?_
  · try dsimp only
    apply State.ackTo_keeps (List.Subset.trans (by decide) hL)
    apply State.freeStaging_keeps (List.Subset.trans (by decide) hL)
    assumption
  · split
    rename_i s1 c1 bytes poison heq
    have hs1 : Keeps L σ s1 := by
      rw [show s1 = _ from (congrArg Prod.fst heq).symm]
      apply State.arriving_keeps (List.Subset.trans (by decide) hL)
      assumption
    clear heq
    try dsimp only
    apply State.ackTo_keeps (List.Subset.trans (by decide) hL)
    assumption

theorem State.onContribution_keeps {L : List Piece} {σ : State} {s : State} (hL : ([.regs, .start, .flash, .ledger, .power, .period, .seals, .mem, .tiles, .coll, .mbx, .flt, .cast, .sent, .stalled] : List Piece) ⊆ L) (p : PortIx) (f : DataFrame) (hs : Keeps L σ s) (g : Group) (c : Coll) : Keeps L σ (State.onContribution p f s g c).1 := by
  unfold State.onContribution
  extract_lets from_
  split
  · refine ite1_keeps ?_ ?_
    · apply State.stageChunk_keeps (List.Subset.trans (by decide) hL)
      assumption
    · try dsimp only
      apply State.freeStaging_keeps (List.Subset.trans (by decide) hL)
      assumption
  · try dsimp only
    apply State.freeStaging_keeps (List.Subset.trans (by decide) hL)
    assumption

theorem State.onPartial_keeps {L : List Piece} {σ : State} {s : State} (hL : ([.regs, .start, .flash, .ledger, .power, .period, .seals, .mem, .tiles, .coll, .mbx, .flt, .cast, .sent, .stalled] : List Piece) ⊆ L) (p : PortIx) (f : DataFrame) (hs : Keeps L σ s) (g : Group) (c : Coll) : Keeps L σ (State.onPartial p f s g c).1 := by
  unfold State.onPartial
  split
  · refine ite1_keeps ?_ ?_
    · apply State.stageChunk_keeps (List.Subset.trans (by decide) hL)
      assumption
    · try dsimp only
      apply State.ackTo_keeps (List.Subset.trans (by decide) hL)
      apply State.freeStaging_keeps (List.Subset.trans (by decide) hL)
      assumption
  · try dsimp only
    apply State.freeStaging_keeps (List.Subset.trans (by decide) hL)
    assumption

theorem State.onReady_keeps {L : List Piece} {σ : State} {s : State} (hL : ([.regs, .start, .flash, .ledger, .power, .period, .seals, .mem, .tiles, .coll, .mbx, .flt, .cast, .perf, .sent, .stalled, .stallReq, .free] : List Piece) ⊆ L) (hs : Keeps L σ s) (src : BitVec 16) (b : ReadyBody) : Keeps L σ (State.onReady s src b) := by
  unfold State.onReady
  split
  rename_i s1 q used heq
  have hs1 : Keeps L σ s1 := by
    rw [show s1 = _ from (congrArg Prod.fst heq).symm]
    refine foldl1_keeps _ ?_ _ ?_
    · intro p a hp
      refine ite1_keeps ?_ ?_
      · assumption
      · split
        rename_i s11' c1 used1' heq
        have hs11' : Keeps L σ s11' := by
          rw [show s11' = _ from (congrArg Prod.fst heq).symm]
          apply State.meetReady_keeps (List.Subset.trans (by decide) hL)
          assumption
        clear heq
        assumption
    · assumption
  clear heq
  extract_lets s2 src1'
  have hs2 : Keeps L σ s2 := by
    unfold s2
    apply State.setCollQueue_keeps (List.Subset.trans (by decide) hL)
    assumption
  clear_value s2
  apply State.collPump_keeps (List.Subset.trans (by decide) hL)
  refine ite_keeps ?_ ?_
  · assumption
  · refine Keeps.upd (s := s2) hL ?_
    assumption

theorem State.onSend_keeps {L : List Piece} {σ : State} {s : State} (hL : ([.sent] : List Piece) ⊆ L) (f : DataFrame) (hs : Keeps L σ s) (g : Group) (c : Coll) : Keeps L σ (State.onSend f s g c).1 := by
  unfold State.onSend
  extract_lets pos
  refine ite1_keeps ?_ ?_
  · assumption
  · apply State.acceptChunk_keeps (List.Subset.trans (by decide) hL)
    assumption

theorem State.onSlotResult_keeps {L : List Piece} {σ : State} {s : State} (hL : ([.regs, .start, .flash, .ledger, .power, .period, .seals, .mem, .tiles, .coll, .mbx, .flt, .cast, .sent, .stalled] : List Piece) ⊆ L) (f : DataFrame) (hs : Keeps L σ s) (g : Group) (c : Coll) : Keeps L σ (State.onSlotResult f s g c).1 := by
  unfold State.onSlotResult
  extract_lets i subs s0
  have hs0 : Keeps L σ s0 := by
    unfold s0
    refine State.forEach_keeps _ ?_ _ ?_
    · intro s1' a hs1'
      apply State.ackTo_keeps (List.Subset.trans (by decide) hL)
      assumption
    · assumption
  clear_value s0
  refine ite1_keeps ?_ ?_
  · assumption
  · refine ite1_keeps ?_ ?_
    · assumption
    · split
      rename_i s1 c1 bytes poison heq
      have hs1 : Keeps L σ s1 := by
        rw [show s1 = _ from (congrArg Prod.fst heq).symm]
        apply State.arriving_keeps (List.Subset.trans (by decide) hL)
        assumption
      clear heq
      assumption

theorem State.onVote_keeps {L : List Piece} {σ : State} {s : State} (hL : ([.regs, .start, .flash, .ledger, .power, .period, .seals, .mem, .tiles, .coll, .mbx, .flt, .cast, .sent, .stalled] : List Piece) ⊆ L) (f : DataFrame) (hs : Keeps L σ s) (g : Group) (c : Coll) : Keeps L σ (State.onVote f s g c).1 := by
  unfold State.onVote
  split
  · assumption
  · refine ite1_keeps ?_ ?_
    · assumption
    · extract_lets hop
      refine ite1_keeps ?_ ?_
      · try dsimp only
        apply State.ackTo_keeps (List.Subset.trans (by decide) hL)
        assumption
      · refine ite1_keeps ?_ ?_
        · split
          rename_i s1 c1 bytes poison heq
          have hs1 : Keeps L σ s1 := by
            rw [show s1 = _ from (congrArg Prod.fst heq).symm]
            apply State.arriving_keeps (List.Subset.trans (by decide) hL)
            assumption
          clear heq
          try dsimp only
          apply State.ackTo_keeps (List.Subset.trans (by decide) hL)
          assumption
        · refine ite1_keeps ?_ ?_
          · try dsimp only
            apply State.ackTo_keeps (List.Subset.trans (by decide) hL)
            assumption
          · assumption

theorem State.takeReadys_keeps {L : List Piece} {σ : State} {s : State} (hL : ([.regs, .start, .flash, .ledger, .power, .period, .seals, .mem, .tiles, .coll, .mbx, .flt, .cast, .sent, .stalled] : List Piece) ⊆ L) (hs : Keeps L σ s) (c : Coll) : Keeps L σ (State.takeReadys s c).1 := by
  unfold State.takeReadys
  split
  rename_i s1 c1 left heq
  have hs1 : Keeps L σ s1 := by
    rw [show s1 = _ from (congrArg Prod.fst heq).symm]
    refine foldl1_keeps _ ?_ _ ?_
    · intro p a hp
      split
      rename_i s11' c11' used heq
      have hs11' : Keeps L σ s11' := by
        rw [show s11' = _ from (congrArg Prod.fst heq).symm]
        apply State.meetReady_keeps (List.Subset.trans (by decide) hL)
        assumption
      clear heq
      assumption
    · assumption
  clear heq
  try dsimp only
  refine Keeps.upd (s := s1) hL ?_
  assumption

theorem State.opCollPost_keeps {L : List Piece} {σ : State} {s : State} (hL : ([.regs, .start, .flash, .ledger, .power, .period, .seals, .mem, .tiles, .coll, .mbx, .flt, .cast, .perf, .sent, .stalled, .stallReq, .free] : List Piece) ⊆ L) (hs : Keeps L σ s) (n : TileIx) (op : Nat) (d : BitVec 512) : Keeps L σ (State.opCollPost s n op d) := by
  unfold State.opCollPost
  extract_lets c st
  refine ite_keeps ?_ ?_
  · apply State.collRecord_keeps (List.Subset.trans (by decide) hL)
    apply State.flag_keeps (List.Subset.trans (by decide) hL)
    assumption
  · refine ite_keeps ?_ ?_
    · refine Keeps.upd (s := s) hL ?_
      assumption
    · split
      rename_i s1 c1 heq
      have hs1 : Keeps L σ s1 := by
        rw [show s1 = _ from (congrArg Prod.fst heq).symm]
        apply State.takeReadys_keeps (List.Subset.trans (by decide) hL)
        assumption
      clear heq
      apply State.collPump_keeps (List.Subset.trans (by decide) hL)
      apply State.setCollQueue_keeps (List.Subset.trans (by decide) hL)
      assumption

theorem State.takeColl_keeps {L : List Piece} {σ : State} {s : State} (hL : ([.regs, .start, .flash, .ledger, .power, .period, .seals, .mem, .tiles, .coll, .mbx, .flt, .cast, .perf, .sent, .stalled, .stallReq, .free] : List Piece) ⊆ L) (hs : Keeps L σ s) (p : PortIx) (f : DataFrame) (kind : Nat) (act : State → Group → Coll → State × Coll) (hact : ∀ s g c, Keeps L σ s → Keeps L σ (act s g c).1) : Keeps L σ (State.takeColl s p f kind act) := by
  unfold State.takeColl
  refine ite_keeps ?_ ?_
  · assumption
  · split
    rename_i s1 ok heq
    have hs1 : Keeps L σ s1 := by
      rw [show s1 = _ from (congrArg Prod.fst heq).symm]
      apply State.takeFrame_keeps (List.Subset.trans (by decide) hL)
      assumption
    clear heq
    extract_lets held s2
    have hs2 : Keeps L σ s2 := by
      unfold s2
      apply State.countStale_keeps (List.Subset.trans (by decide) hL)
      assumption
    clear_value s2
    refine ite_keeps ?_ ?_
    · assumption
    · refine ite_keeps ?_ ?_
      · refine ite_keeps ?_ ?_
        · apply State.freeStaging_keeps (List.Subset.trans (by decide) hL)
          assumption
        · assumption
      · refine ite_keeps ?_ ?_
        · apply State.onColl_keeps (List.Subset.trans (by decide) hL)
          · assumption
          · assumption
        · refine ite_keeps ?_ ?_
          · apply State.freeStaging_keeps (List.Subset.trans (by decide) hL)
            assumption
          · assumption

end Sys2Proof.Machine
end

