-- ==== Sys2Proof/Laws/KeepsAssayOps.lean ====
section
/-! SUPPORT. What the operations of Machine/AssayOps.lean keep: the queue of commands, what was sent, canonical memories, and the parts of the state
they do not write. -/

namespace Sys2Proof.Machine

set_option Elab.async false

theorem State.assayEvents_keeps {L : List Piece} {σ : State} {s : State} (hL : ([.regs, .perf] : List Piece) ⊆ L) (hs : Keeps L σ s) (len : Nat) : Keeps L σ (State.assayEvents s len) := by
  unfold State.assayEvents
  extract_lets live leaves
  refine ite_keeps ?_ ?_
  · assumption
  · refine State.forEach_keeps _ ?_ _ ?_
    · intro s1' a hs1'
      extract_lets b
      apply State.perfEvent_keeps (List.Subset.trans (by decide) hL)
      apply State.perfEvent_keeps (List.Subset.trans (by decide) hL)
      assumption
    · assumption

theorem State.assaySend_keeps {L : List Piece} {σ : State} {s : State} (hL : ([.regs, .coll, .perf, .sent] : List Piece) ⊆ L) (hs : Keeps L σ s) (g : Group) (targets : List Nat) (kind : Nat) (bytes : List Byte) : Keeps L σ (State.assaySend s g targets kind bytes) := by
  unfold State.assaySend
  refine State.forEach_keeps _ ?_ _ ?_
  · intro s1' a hs1'
    split
    · split
      · apply State.sendChunk_keeps (List.Subset.trans (by decide) hL)
        assumption
      · assumption
    · assumption
  · assumption

theorem State.expel_keeps {L : List Piece} {σ : State} {s : State} (hL : ([.regs, .start, .flash, .ledger, .power, .period, .seals, .mem, .tiles, .coll, .mbx, .flt, .cast, .sent, .stalled, .stallReq, .free] : List Piece) ⊆ L) (hs : Keeps L σ s) : Keeps L σ (State.expel s) := by
  unfold State.expel
  extract_lets s1 s2
  have hs1 : Keeps L σ s1 := by
    unfold s1
    apply State.flag_keeps (List.Subset.trans (by decide) hL)
    assumption
  clear_value s1
  have hs2 : Keeps L σ s2 := by
    unfold s2
    refine ite_keeps ?_ ?_
    · apply State.dropStep_keeps (List.Subset.trans (by decide) hL)
      assumption
    · assumption
  clear_value s2
  apply State.abandonColls_keeps (List.Subset.trans (by decide) hL)
  refine ite_keeps ?_ ?_
  · apply State.dropItems_keeps (List.Subset.trans (by decide) hL)
    assumption
  · assumption

theorem State.takeVerdict_keeps {L : List Piece} {σ : State} {s : State} (hL : ([.regs, .start, .flash, .ledger, .power, .period, .seals, .mem, .tiles, .coll, .mbx, .flt, .cast, .sent, .stalled, .stallReq, .free] : List Piece) ⊆ L) (hs : Keeps L σ s) (g : Group) (step : Nat) (sweep : Nat) (result : Nat) (out : List Nat) : Keeps L σ (State.takeVerdict s g step sweep result out) := by
  unfold State.takeVerdict
  extract_lets s0 src src1' s1 s2 src2' s21' src3' src4' s3 mine s4
  have hs0 : Keeps L σ s0 := by
    unfold s0
    apply State.set_keeps (List.Subset.trans (by decide) hL)
    apply State.set_keeps (List.Subset.trans (by decide) hL)
    apply State.set_keeps (List.Subset.trans (by decide) hL)
    assumption
  clear_value s0
  have hsrc : Keeps L σ src := by
    unfold src
    apply State.unpin_keeps (List.Subset.trans (by decide) hL)
    assumption
  clear_value src
  have hs1 : Keeps L σ s1 := by
    unfold s1
    refine Keeps.upd (s := src) hL ?_
    assumption
  clear_value s1
  have hs2 : Keeps L σ s2 := by
    unfold s2
    apply State.bump_keeps (List.Subset.trans (by decide) hL)
    assumption
  clear_value s2
  have hs21' : Keeps L σ s21' := by
    unfold s21'
    apply State.flag_keeps (List.Subset.trans (by decide) hL)
    apply State.set_keeps (List.Subset.trans (by decide) hL)
    assumption
  clear_value s21'
  have hs3 : Keeps L σ s3 := by
    unfold s3
    refine Keeps.upd (s := s21') hL ?_
    assumption
  clear_value s3
  have hs4 : Keeps L σ s4 := by
    unfold s4
    refine ite_keeps ?_ ?_
    · apply State.post_keeps (List.Subset.trans (by decide) hL)
      assumption
    · assumption
  clear_value s4
  refine ite_keeps ?_ ?_
  · apply State.verifyCasts_keeps (List.Subset.trans (by decide) hL)
    refine Keeps.upd (s := s2) hL ?_
    assumption
  · refine ite_keeps ?_ ?_
    · refine ite_keeps ?_ ?_
      · apply State.expel_keeps (List.Subset.trans (by decide) hL)
        assumption
      · assumption
    · apply State.post_keeps (List.Subset.trans (by decide) hL)
      apply State.flag_keeps (List.Subset.trans (by decide) hL)
      assumption

theorem State.hearVerdict_keeps {L : List Piece} {σ : State} {s : State} (hL : ([.regs, .start, .flash, .ledger, .power, .period, .seals, .mem, .tiles, .coll, .mbx, .flt, .cast, .perf, .sent, .stalled, .stallReq, .free] : List Piece) ⊆ L) (hs : Keeps L σ s) (g : Group) (f : DataFrame) : Keeps L σ (State.hearVerdict s g f) := by
  unfold State.hearVerdict
  extract_lets step s1
  have hs1 : Keeps L σ s1 := by
    unfold s1
    refine ite_keeps ?_ ?_
    · apply State.assaySend_keeps (List.Subset.trans (by decide) hL)
      assumption
    · assumption
  clear_value s1
  split
  · refine ite_keeps ?_ ?_
    · apply State.takeVerdict_keeps (List.Subset.trans (by decide) hL)
      assumption
    · assumption
  · assumption

theorem State.judge_keeps {L : List Piece} {σ : State} {s : State} (hL : ([.regs, .start, .flash, .ledger, .power, .period, .seals, .mem, .tiles, .coll, .mbx, .flt, .cast, .perf, .sent, .stalled, .stallReq, .free] : List Piece) ⊆ L) (hs : Keeps L σ s) (g : Group) : Keeps L σ (State.judge s g) := by
  unfold State.judge
  split
  · assumption
  · refine ite_keeps ?_ ?_
    · assumption
    · split
      · extract_lets s1
        have hs1 : Keeps L σ s1 := by
          unfold s1
          apply State.assaySend_keeps (List.Subset.trans (by decide) hL)
          assumption
        clear_value s1
        apply State.takeVerdict_keeps (List.Subset.trans (by decide) hL)
        assumption

theorem State.sweepBytes_keeps {L : List Piece} {σ : State} {s : State} (hL : ([.regs, .start, .flash, .ledger, .power, .period, .seals, .mem, .tiles, .coll, .mbx, .flt, .cast, .sent, .stalled] : List Piece) ⊆ L) (hs : Keeps L σ s) (pages : List (Nat × Nat)) : Keeps L σ (State.sweepBytes s pages).1 := by
  unfold State.sweepBytes
  refine foldl1_keeps _ ?_ _ ?_
  · intro p a hp
    split
    rename_i s1 b snd heq
    have hs1 : Keeps L σ s1 := by
      rw [show s1 = _ from (congrArg Prod.fst heq).symm]
      apply State.moduleRead_keeps (List.Subset.trans (by decide) hL)
      assumption
    clear heq
    assumption
  · assumption

theorem State.sweepDone_keeps {L : List Piece} {σ : State} {s : State} (hL : ([.regs, .start, .flash, .ledger, .power, .period, .seals, .mem, .tiles, .coll, .mbx, .flt, .cast, .perf, .sent, .stalled, .stallReq, .free] : List Piece) ⊆ L) (hs : Keeps L σ s) : Keeps L σ (State.sweepDone s) := by
  unfold State.sweepDone
  split
  · refine ite_keeps ?_ ?_
    · assumption
    · split
      rename_i s1 bytes heq
      have hs1 : Keeps L σ s1 := by
        rw [show s1 = _ from (congrArg Prod.fst heq).symm]
        apply State.sweepBytes_keeps (List.Subset.trans (by decide) hL)
        assumption
      clear heq
      extract_lets root src s2 src1'
      have hs2 : Keeps L σ s2 := by
        unfold s2
        apply State.unpin_keeps (List.Subset.trans (by decide) hL)
        apply State.assayEvents_keeps (List.Subset.trans (by decide) hL)
        refine Keeps.upd (s := s1) hL ?_
        assumption
      clear_value s2
      refine ite_keeps ?_ ?_
      · apply State.judge_keeps (List.Subset.trans (by decide) hL)
        refine Keeps.upd (s := s2) hL ?_
        assumption
      · apply State.assaySend_keeps (List.Subset.trans (by decide) hL)
        assumption
  · assumption

theorem State.takeDigest_keeps {L : List Piece} {σ : State} {s : State} (hL : ([.regs, .start, .flash, .ledger, .power, .period, .seals, .mem, .tiles, .coll, .mbx, .flt, .cast, .perf, .sent, .stalled, .stallReq, .free] : List Piece) ⊆ L) (hs : Keeps L σ s) (g : Group) (pos : Nat) (f : DataFrame) : Keeps L σ (State.takeDigest s g pos f) := by
  unfold State.takeDigest
  extract_lets step due r src
  refine ite_keeps ?_ ?_
  · assumption
  · apply State.judge_keeps (List.Subset.trans (by decide) hL)
    refine Keeps.upd (s := s) hL ?_
    assumption

end Sys2Proof.Machine
end

