-- ==== Sys2Proof/Laws/KeepsConfigSpace.lean ====
section
/-! SUPPORT. What the operations of Machine/ConfigSpace.lean keep: the queue of commands, what was sent, canonical memories, and the parts of the state
they do not write. -/

namespace Sys2Proof.Machine

set_option Elab.async false

theorem State.msixUnmasked_keeps {L : List Piece} {σ : State} {s : State} (hL : ([.start, .sent] : List Piece) ⊆ L) (hs : Keeps L σ s) (fn1 : Bool) (v : Nat) : Keeps L σ (State.msixUnmasked s fn1 v) := by
  unfold State.msixUnmasked
  extract_lets x
  refine ite_keeps ?_ ?_
  · apply State.msi_keeps (List.Subset.trans (by decide) hL)
    apply State.setMsix_keeps (List.Subset.trans (by decide) hL)
    assumption
  · assumption

theorem State.msixWrite_keeps {L : List Piece} {σ : State} {s : State} (hL : ([.start, .sent] : List Piece) ⊆ L) (hs : Keeps L σ s) (fn1 : Bool) (i : Nat) (v : Nat) (m : Nat) : Keeps L σ (State.msixWrite s fn1 i v m) := by
  unfold State.msixWrite
  extract_lets x w k mask
  refine ite_keeps ?_ ?_
  · apply State.setMsix_keeps (List.Subset.trans (by decide) hL)
    assumption
  · apply State.msixUnmasked_keeps (List.Subset.trans (by decide) hL)
    apply State.setMsix_keeps (List.Subset.trans (by decide) hL)
    assumption

end Sys2Proof.Machine
end

