-- ==== Sys2Proof/Laws/KeepsHdmOps.lean ====
section
/-! SUPPORT. What the operations of Machine/HdmOps.lean keep: the queue of commands, what was sent, canonical memories, and the parts of the state
they do not write. -/

namespace Sys2Proof.Machine

set_option Elab.async false

theorem State.toHostBias_keeps {L : List Piece} {σ : State} {s : State} (hL : ([.mem] : List Piece) ⊆ L) (hs : Keeps L σ s) (g : Nat) : Keeps L σ (State.toHostBias s g) := by
  unfold State.toHostBias
  refine Keeps.upd (s := s) hL ?_
  assumption

theorem State.flipHost_keeps {L : List Piece} {σ : State} {s : State} (hL : ([.regs, .start, .flash, .ledger, .power, .period, .seals, .mem, .tiles, .coll, .mbx, .flt, .cast, .sent, .stalled] : List Piece) ⊆ L) (hs : Keeps L σ s) (off : Nat) (len : Nat) : Keeps L σ (State.flipHost s off len) := by
  unfold State.flipHost
  extract_lets gs s1
  have hs1 : Keeps L σ s1 := by
    unfold s1
    refine State.forEach_keeps _ ?_ _ ?_
    · intro s1' a hs1'
      apply State.toHostBias_keeps (List.Subset.trans (by decide) hL)
      apply State.flushGranule_keeps (List.Subset.trans (by decide) hL)
      assumption
    · assumption
  clear_value s1
  apply State.set_keeps (List.Subset.trans (by decide) hL)
  assumption

theorem State.hdmGate_keeps {L : List Piece} {σ : State} {s : State} (hL : ([.regs, .power, .stallReq] : List Piece) ⊆ L) (hs : Keeps L σ s) (off : Nat) (len : Nat) : Keeps L σ (State.hdmGate s off len) := by
  unfold State.hdmGate
  extract_lets l src
  have hsrc : Keeps L σ src := by
    unfold src
    refine State.forEach_keeps _ ?_ _ ?_
    · intro s1' a hs1'
      apply State.wake_keeps (List.Subset.trans (by decide) hL)
      assumption
    · assumption
  clear_value src
  refine ite_keeps ?_ ?_
  · assumption
  · refine Keeps.upd (s := src) hL ?_
    assumption

theorem State.hdmRead_keeps {L : List Piece} {σ : State} {s : State} (hL : ([.regs, .start, .flash, .ledger, .power, .period, .seals, .mem, .tiles, .coll, .mbx, .flt, .cast, .sent, .stalled] : List Piece) ⊆ L) (hs : Keeps L σ s) (off : Nat) (len : Nat) : Keeps L σ (State.hdmRead s off len).1 := by
  unfold State.hdmRead
  refine foldl1_keeps _ ?_ _ ?_
  · intro p a hp
    split
    · split
      rename_i s1 d bad heq
      have hs1 : Keeps L σ s1 := by
        rw [show s1 = _ from (congrArg Prod.fst heq).symm]
        apply State.readDram_keeps (List.Subset.trans (by decide) hL)
        assumption
      clear heq
      assumption
    · assumption
  · assumption

theorem State.hdmWrite_keeps {L : List Piece} {σ : State} {s : State} (hL : ([.regs, .start, .flash, .ledger, .power, .period, .seals, .mem, .tiles, .coll, .mbx, .flt, .cast, .sent, .stalled] : List Piece) ⊆ L) (hs : Keeps L σ s) (off : Nat) (data : List Byte) : Keeps L σ (State.hdmWrite s off data) := by
  unfold State.hdmWrite
  refine foldl_keeps _ ?_ _ ?_
  · intro s1' a hs1'
    split
    · apply State.wcMerge_keeps (List.Subset.trans (by decide) hL)
      assumption
    · assumption
  · assumption

theorem State.windowRead_keeps {L : List Piece} {σ : State} {s : State} (hL : ([.regs, .start, .flash, .ledger, .power, .period, .seals, .mem, .tiles, .coll, .mbx, .flt, .cast, .sent, .stalled, .stallReq] : List Piece) ⊆ L) (hs : Keeps L σ s) (off : Nat) (len : Nat) (flip : Bool) : Keeps L σ (State.windowRead s off len flip) := by
  unfold State.windowRead
  refine ite_keeps ?_ ?_
  · apply State.send_keeps (List.Subset.trans (by decide) hL)
    assumption
  · refine ite_keeps ?_ ?_
    · apply State.send_keeps (List.Subset.trans (by decide) hL)
      apply State.flag_keeps (List.Subset.trans (by decide) hL)
      assumption
    · extract_lets s0
      have hs0 : Keeps L σ s0 := by
        unfold s0
        apply State.hdmGate_keeps (List.Subset.trans (by decide) hL)
        assumption
      clear_value s0
      refine ite_keeps ?_ ?_
      · assumption
      · split
        rename_i s1 d bad heq
        have hs1 : Keeps L σ s1 := by
          rw [show s1 = _ from (congrArg Prod.fst heq).symm]
          apply State.hdmRead_keeps (List.Subset.trans (by decide) hL)
          refine ite_keeps ?_ ?_
          · apply State.flipHost_keeps (List.Subset.trans (by decide) hL)
            assumption
          · assumption
        clear heq
        apply State.send_keeps (List.Subset.trans (by decide) hL)
        assumption

theorem State.hostRead_keeps {L : List Piece} {σ : State} {s : State} (hL : ([.regs, .start, .flash, .ledger, .power, .period, .seals, .mem, .tiles, .coll, .mbx, .flt, .cast, .sent, .stalled, .stallReq] : List Piece) ⊆ L) (hs : Keeps L σ s) (off : Nat) (len : Nat) : Keeps L σ (State.hostRead s off len) := by
  unfold State.hostRead
  refine ite_keeps ?_ ?_
  · apply State.windowRead_keeps (List.Subset.trans (by decide) hL)
    assumption
  · refine ite_keeps ?_ ?_
    · apply State.windowRead_keeps (List.Subset.trans (by decide) hL)
      assumption
    · assumption

theorem State.windowWrite_keeps {L : List Piece} {σ : State} {s : State} (hL : ([.regs, .start, .flash, .ledger, .power, .period, .seals, .mem, .tiles, .coll, .mbx, .flt, .cast, .sent, .stalled, .stallReq] : List Piece) ⊆ L) (hs : Keeps L σ s) (off : Nat) (data : List Byte) (flip : Bool) : Keeps L σ (State.windowWrite s off data flip) := by
  unfold State.windowWrite
  refine ite_keeps ?_ ?_
  · assumption
  · refine ite_keeps ?_ ?_
    · apply State.flag_keeps (List.Subset.trans (by decide) hL)
      assumption
    · extract_lets s0
      have hs0 : Keeps L σ s0 := by
        unfold s0
        apply State.hdmGate_keeps (List.Subset.trans (by decide) hL)
        assumption
      clear_value s0
      refine ite_keeps ?_ ?_
      · assumption
      · apply State.hdmWrite_keeps (List.Subset.trans (by decide) hL)
        refine ite_keeps ?_ ?_
        · apply State.flipHost_keeps (List.Subset.trans (by decide) hL)
          assumption
        · assumption

theorem State.hostWrite_keeps {L : List Piece} {σ : State} {s : State} (hL : ([.regs, .start, .flash, .ledger, .power, .period, .seals, .mem, .tiles, .coll, .mbx, .flt, .cast, .sent, .stalled, .stallReq] : List Piece) ⊆ L) (hs : Keeps L σ s) (off : Nat) (data : List Byte) : Keeps L σ (State.hostWrite s off data) := by
  unfold State.hostWrite
  refine ite_keeps ?_ ?_
  · apply State.windowWrite_keeps (List.Subset.trans (by decide) hL)
    assumption
  · refine ite_keeps ?_ ?_
    · apply State.windowWrite_keeps (List.Subset.trans (by decide) hL)
      assumption
    · assumption

end Sys2Proof.Machine
end

