-- ==== Sys2Proof/Laws/KeepsKilnOps.lean ====
section
/-! SUPPORT. What the operations of Machine/KilnOps.lean keep: the queue of commands, what was sent, canonical memories, and the parts of the state
they do not write. -/

namespace Sys2Proof.Machine

set_option Elab.async false

theorem State.kRefuse_keeps {L : List Piece} {σ : State} {s : State} (hL : ([.regs, .tiles, .perf] : List Piece) ⊆ L) (hs : Keeps L σ s) (k : EngIx) (n : TileIx) (d : BitVec 256) : Keeps L σ (State.kRefuse s k n d) := by
  unfold State.kRefuse
  apply State.complete_keeps (List.Subset.trans (by decide) hL)
  apply State.refusedSummary_keeps (List.Subset.trans (by decide) hL)
  apply State.flag_keeps (List.Subset.trans (by decide) hL)
  assumption

theorem State.opKiln_keeps {L : List Piece} {σ : State} {s : State} (hL : ([.regs, .start, .flash, .ledger, .power, .period, .seals, .mem, .tiles, .coll, .mbx, .flt, .cast, .perf, .sent, .stalled, .stallReq] : List Piece) ⊆ L) (hs : Keeps L σ s) (k : EngIx) (n : TileIx) (op : Nat) (d : BitVec 256) : Keeps L σ (State.opKiln s k n op d) := by
  unfold State.opKiln
  refine ite_keeps ?_ ?_
  · apply State.kRefuse_keeps (List.Subset.trans (by decide) hL)
    assumption
  · extract_lets w draw wd i e
    split
    rename_i s1 b bad heq
    have hs1 : Keeps L σ s1 := by
      rw [show s1 = _ from (congrArg Prod.fst heq).symm]
      apply State.engRead_keeps (List.Subset.trans (by decide) hL)
      assumption
    clear heq
    extract_lets out s2 cnt dom s3 s4 s5
    have hs2 : Keeps L σ s2 := by
      unfold s2
      apply State.unitWrite_keeps (List.Subset.trans (by decide) hL)
      assumption
    clear_value s2
    have hs3 : Keeps L σ s3 := by
      unfold s3
      apply State.flagIf_keeps (List.Subset.trans (by decide) hL)
      apply State.flagIf_keeps (List.Subset.trans (by decide) hL)
      apply State.flagIf_keeps (List.Subset.trans (by decide) hL)
      assumption
    clear_value s3
    have hs4 : Keeps L σ s4 := by
      unfold s4
      apply State.bump_keeps (List.Subset.trans (by decide) hL)
      assumption
    clear_value s4
    have hs5 : Keeps L σ s5 := by
      unfold s5
      refine ite_keeps ?_ ?_
      · apply State.putSummary_keeps (List.Subset.trans (by decide) hL)
        assumption
      · assumption
    clear_value s5
    apply State.complete_keeps (List.Subset.trans (by decide) hL)
    apply State.sticky_keeps (List.Subset.trans (by decide) hL)
    apply State.perfEvent_keeps (List.Subset.trans (by decide) hL)
    apply State.perfEvent_keeps (List.Subset.trans (by decide) hL)
    assumption

end Sys2Proof.Machine
end

