-- ==== Sys2Proof/Laws/KeepsStartOps.lean ====
section
/-! SUPPORT. What the operations of Machine/StartOps.lean keep: the queue of commands, what was sent, canonical memories, and the parts of the state
they do not write. -/

namespace Sys2Proof.Machine

set_option Elab.async false

theorem State.beginStep_keeps {L : List Piece} {σ : State} {s : State} (hL : ([.regs, .start] : List Piece) ⊆ L) (hs : Keeps L σ s) (k : Nat) : Keeps L σ (State.beginStep s k).1 := by
  unfold State.beginStep
  extract_lets s1 src
  have hs1 : Keeps L σ s1 := by
    unfold s1
    apply State.set_keeps (List.Subset.trans (by decide) hL)
    assumption
  clear_value s1
  refine ite1_keeps ?_ ?_
  · try dsimp only
    refine Keeps.upd (s := s1) hL ?_
    assumption
  · assumption

theorem State.startReset_keeps {L : List Piece} {σ : State} {s : State} (hL : ([.regs, .time, .start, .flash, .wb, .power, .period, .seals, .ladder, .mem, .tiles, .coll, .mbx, .flt, .cast, .perf, .stalled, .free] : List Piece) ⊆ L) (hs : Keeps L σ s) (env : StartEnv) (powerOn : Bool) :
    Keeps L σ (State.startReset s env powerOn) := by
  unfold State.startReset
  extract_lets s1 reason failStep xtal st0 st t1 t2 t3 s2 s3 s4 s5 n
  have h1 : Keeps L σ s1 := State.allOff_keeps (List.Subset.trans (by decide) hL) hs _
  clear_value s1
  have h2 : Keeps L σ s2 := by
    refine ⟨h1.pending, h1.sent, fun m => ?_, h1.same.upd hL⟩
    have k := h1.memWf m
    simp only [State.memWf, Bool.and_eq_true] at k ⊢
    exact ⟨⟨rfl, k.1.2⟩, k.2⟩
  clear_value s2
  have h3 : Keeps L σ s3 := by
    iterate 3 apply State.set_keeps (List.Subset.trans (by decide) hL)
    exact h2
  have h4 : Keeps L σ s4 := State.set_keeps (List.Subset.trans (by decide) hL) (State.setB_keeps (List.Subset.trans (by decide) hL) h3 _ _) _ _
  have h5 : Keeps L σ s5 := by
    iterate 3 apply State.set_keeps (List.Subset.trans (by decide) hL)
    exact h4
  iterate 3 apply State.set_keeps (List.Subset.trans (by decide) hL)
  exact h5

theorem State.startDom_keeps {L : List Piece} {σ : State} {s : State} (hL : ([.regs] : List Piece) ⊆ L) (hs : Keeps L σ s) (d : Nat) (on_ : Bool) : Keeps L σ (State.startDom s d on_) := by
  unfold State.startDom
  extract_lets st
  apply State.setDomReq_keeps (List.Subset.trans (by decide) hL)
  apply State.setDom_keeps (List.Subset.trans (by decide) hL)
  assumption

theorem State.step9_keeps {L : List Piece} {σ : State} {s : State} (hL : ([.regs, .start] : List Piece) ⊆ L) (hs : Keeps L σ s) : Keeps L σ (State.step9 s) := by
  unfold State.step9
  extract_lets s1 src
  have hs1 : Keeps L σ s1 := by
    unfold s1
    refine State.forEach_keeps _ ?_ _ ?_
    · intro s1' a hs1'
      apply State.set_keeps (List.Subset.trans (by decide) hL)
      apply State.startDom_keeps (List.Subset.trans (by decide) hL)
      assumption
    · apply State.set_keeps (List.Subset.trans (by decide) hL)
      assumption
  clear_value s1
  refine Keeps.upd (s := s1) hL ?_
  assumption

theorem State.step10_keeps {L : List Piece} {σ : State} {s : State} (hL : ([.regs, .start] : List Piece) ⊆ L) (hs : Keeps L σ s) : Keeps L σ (State.step10 s) := by
  unfold State.step10
  extract_lets s1 src
  have hs1 : Keeps L σ s1 := by
    unfold s1
    apply State.startDom_keeps (List.Subset.trans (by decide) hL)
    apply State.set_keeps (List.Subset.trans (by decide) hL)
    assumption
  clear_value s1
  refine Keeps.upd (s := s1) hL ?_
  assumption

theorem State.portsSettled_keeps {L : List Piece} {σ : State} {s : State} (hL : ([.regs, .start] : List Piece) ⊆ L) (hs : Keeps L σ s) : Keeps L σ (State.portsSettled s) := by
  unfold State.portsSettled
  refine ite_keeps ?_ ?_
  · apply State.step10_keeps (List.Subset.trans (by decide) hL)
    assumption
  · assumption

theorem State.readLedger_keeps {L : List Piece} {σ : State} {s : State} (hL : ([.regs, .start, .ledger] : List Piece) ⊆ L) (hs : Keeps L σ s) : Keeps L σ (State.readLedger s) := by
  unfold State.readLedger
  refine ite_keeps ?_ ?_
  · assumption
  · extract_lets nand l fromXspi n src s1
    have hs1 : Keeps L σ s1 := by
      unfold s1
      refine Keeps.upd (s := s) hL ?_
      assumption
    clear_value s1
    apply State.flagIf_keeps (List.Subset.trans (by decide) hL)
    apply State.set_keeps (List.Subset.trans (by decide) hL)
    assumption

theorem State.failStart_keeps {L : List Piece} {σ : State} (hL : ([.regs, .start, .flash, .ledger, .power, .period, .seals, .mem, .tiles, .coll, .mbx, .flt, .cast, .sent, .stalled] : List Piece) ⊆ L) {s0 : State} (hs0 : Keeps L σ s0) (step : Nat) (reason : Nat) : Keeps L σ (State.failStart s0 step reason) := by
  unfold State.failStart
  extract_lets s n s1 src src1' s2 src2' t src3' s3 s4 src4' src5'
  have hs : Keeps L σ s := by
    unfold s
    apply State.readLedger_keeps (List.Subset.trans (by decide) hL)
    assumption
  clear_value s
  have hs1 : Keeps L σ s1 := by
    unfold s1
    apply State.set_keeps (List.Subset.trans (by decide) hL)
    apply State.set_keeps (List.Subset.trans (by decide) hL)
    apply State.set_keeps (List.Subset.trans (by decide) hL)
    assumption
  clear_value s1
  have hs2 : Keeps L σ s2 := by
    unfold s2
    refine Keeps.upd (s := s1) hL ?_
    assumption
  clear_value s2
  have ht : Keeps L σ t := by
    unfold t
    apply State.putBoot_keeps (List.Subset.trans (by decide) hL)
    apply State.flag_keeps (List.Subset.trans (by decide) hL)
    assumption
  clear_value t
  have hs3 : Keeps L σ s3 := by
    unfold s3
    refine ite_keeps ?_ ?_
    · refine Keeps.upd (s := t) hL ?_
      assumption
    · assumption
  clear_value s3
  have hs4 : Keeps L σ s4 := by
    unfold s4
    apply State.writeLedger_keeps (List.Subset.trans (by decide) hL)
    assumption
  clear_value s4
  have hsrc4' : Keeps L σ src4' := by
    unfold src4'
    apply State.allOff_keeps (List.Subset.trans (by decide) hL)
    assumption
  clear_value src4'
  refine ite_keeps ?_ ?_
  · apply State.enterMinimal_keeps (List.Subset.trans (by decide) hL)
    assumption
  · refine ite_keeps ?_ ?_
    · apply State.enterMinimal_keeps (List.Subset.trans (by decide) hL)
      assumption
    · refine Keeps.upd (s := src4') hL ?_
      assumption

theorem State.step8_keeps {L : List Piece} {σ : State} {s : State} (hL : ([.regs, .start, .flash, .ledger, .power, .period, .seals, .mem, .tiles, .coll, .mbx, .flt, .cast, .sent, .stalled] : List Piece) ⊆ L) (hs : Keeps L σ s) : Keeps L σ (State.step8 s).1 := by
  unfold State.step8
  extract_lets e src s1 l chan st slots src1' s2 s3 s4 s5 lay need want size small cellar cut pool stageB stage src2' src3' src4' s6 spares fenced nStacks s7 s8 s9
  have hsrc : Keeps L σ src := by
    unfold src
    apply State.set_keeps (List.Subset.trans (by decide) hL)
    assumption
  clear_value src
  have hs1 : Keeps L σ s1 := by
    unfold s1
    refine Keeps.upd (s := src) hL ?_
    assumption
  clear_value s1
  have hs2 : Keeps L σ s2 := by
    unfold s2
    refine Keeps.clearMem (s := s1) hL ?_
    assumption
  clear_value s2
  have hs3 : Keeps L σ s3 := by
    unfold s3
    refine State.forEach_keeps _ ?_ _ ?_
    · intro s1' a hs1'
      apply State.set_keeps (List.Subset.trans (by decide) hL)
      apply State.setChState_keeps (List.Subset.trans (by decide) hL)
      assumption
    · assumption
  clear_value s3
  have hs4 : Keeps L σ s4 := by
    unfold s4
    refine State.forEach_keeps _ ?_ _ ?_
    · intro s1' a hs1'
      apply State.set_keeps (List.Subset.trans (by decide) hL)
      assumption
    · assumption
  clear_value s4
  have hs5 : Keeps L σ s5 := by
    unfold s5
    refine State.forEach_keeps _ ?_ _ ?_
    · intro s1' a hs1'
      apply State.startDom_keeps (List.Subset.trans (by decide) hL)
      assumption
    · assumption
  clear_value s5
  have hs6 : Keeps L σ s6 := by
    unfold s6
    refine Keeps.upd (s := s5) hL ?_
    assumption
  clear_value s6
  have hs7 : Keeps L σ s7 := by
    unfold s7
    apply State.set_keeps (List.Subset.trans (by decide) hL)
    apply State.set_keeps (List.Subset.trans (by decide) hL)
    apply State.flagIf_keeps (List.Subset.trans (by decide) hL)
    assumption
  clear_value s7
  have hs8 : Keeps L σ s8 := by
    unfold s8
    apply State.set_keeps (List.Subset.trans (by decide) hL)
    apply State.set_keeps (List.Subset.trans (by decide) hL)
    assumption
  clear_value s8
  have hs9 : Keeps L σ s9 := by
    unfold s9
    apply State.set_keeps (List.Subset.trans (by decide) hL)
    apply State.set_keeps (List.Subset.trans (by decide) hL)
    assumption
  clear_value s9
  refine ite1_keeps ?_ ?_
  · try dsimp only
    apply State.failStart_keeps (List.Subset.trans (by decide) hL)
    assumption
  · refine ite1_keeps ?_ ?_
    · try dsimp only
      apply State.failStart_keeps (List.Subset.trans (by decide) hL)
      assumption
    · refine ite1_keeps ?_ ?_
      · try dsimp only
        apply State.failStart_keeps (List.Subset.trans (by decide) hL)
        assumption
      · try dsimp only
        apply State.set_keeps (List.Subset.trans (by decide) hL)
        assumption

theorem State.loadImages_keeps {L : List Piece} {σ : State} {s : State} (hL : ([.start] : List Piece) ⊆ L) (hs : Keeps L σ s) : Keeps L σ (State.loadImages s) := by
  unfold State.loadImages
  split
  · refine Keeps.upd (s := s) hL ?_
    assumption
  · assumption

theorem State.startFences_keeps {L : List Piece} {σ : State} {s : State} (hL : ([.regs] : List Piece) ⊆ L) (hs : Keeps L σ s) : Keeps L σ (State.startFences s) := by
  unfold State.startFences
  extract_lets t e s1 s2
  have hs1 : Keeps L σ s1 := by
    unfold s1
    apply State.set_keeps (List.Subset.trans (by decide) hL)
    apply State.set_keeps (List.Subset.trans (by decide) hL)
    apply State.set_keeps (List.Subset.trans (by decide) hL)
    assumption
  clear_value s1
  have hs2 : Keeps L σ s2 := by
    unfold s2
    apply State.set_keeps (List.Subset.trans (by decide) hL)
    apply State.wr_keeps (List.Subset.trans (by decide) hL)
    assumption
  clear_value s2
  refine State.forEach_keeps _ ?_ _ ?_
  · intro s1' a hs1'
    apply State.engFencedFlag_keeps (List.Subset.trans (by decide) hL)
    assumption
  · assumption

theorem State.step7_keeps {L : List Piece} {σ : State} {s : State} (hL : ([.regs, .start, .flash, .ledger, .power, .period, .seals, .mem, .tiles, .coll, .mbx, .flt, .cast, .sent, .stalled] : List Piece) ⊆ L) (hs : Keeps L σ s) : Keeps L σ (State.step7 s).1 := by
  unfold State.step7
  refine ite1_keeps ?_ ?_
  · try dsimp only
    apply State.failStart_keeps (List.Subset.trans (by decide) hL)
    assumption
  · extract_lets s1 t s2
    have hs1 : Keeps L σ s1 := by
      unfold s1
      apply State.startFences_keeps (List.Subset.trans (by decide) hL)
      apply State.set_keeps (List.Subset.trans (by decide) hL)
      apply State.set_keeps (List.Subset.trans (by decide) hL)
      assumption
    clear_value s1
    have hs2 : Keeps L σ s2 := by
      unfold s2
      refine State.forEach_keeps _ ?_ _ ?_
      · intro s1' a hs1'
        apply State.startDom_keeps (List.Subset.trans (by decide) hL)
        assumption
      · assumption
    clear_value s2
    refine ite1_keeps ?_ ?_
    · try dsimp only
      apply State.failStart_keeps (List.Subset.trans (by decide) hL)
      assumption
    · try dsimp only
      apply State.loadImages_keeps (List.Subset.trans (by decide) hL)
      assumption

theorem State.startFrom7_keeps {L : List Piece} {σ : State} {s : State} (hL : ([.regs, .start, .flash, .ledger, .power, .period, .seals, .mem, .tiles, .coll, .mbx, .flt, .cast, .sent, .stalled] : List Piece) ⊆ L) (hs : Keeps L σ s) : Keeps L σ (State.startFrom7 s) := by
  unfold State.startFrom7
  split
  rename_i s1 ok1 heq
  have hs1 : Keeps L σ s1 := by
    rw [show s1 = _ from (congrArg Prod.fst heq).symm]
    apply State.beginStep_keeps (List.Subset.trans (by decide) hL)
    assumption
  clear heq
  refine ite_keeps ?_ ?_
  · assumption
  · split
    rename_i s2 ok2 heq
    have hs2 : Keeps L σ s2 := by
      rw [show s2 = _ from (congrArg Prod.fst heq).symm]
      apply State.step7_keeps (List.Subset.trans (by decide) hL)
      assumption
    clear heq
    refine ite_keeps ?_ ?_
    · assumption
    · split
      rename_i s3 ok3 heq
      have hs3 : Keeps L σ s3 := by
        rw [show s3 = _ from (congrArg Prod.fst heq).symm]
        apply State.beginStep_keeps (List.Subset.trans (by decide) hL)
        assumption
      clear heq
      refine ite_keeps ?_ ?_
      · assumption
      · split
        rename_i s4 ok4 heq
        have hs4 : Keeps L σ s4 := by
          rw [show s4 = _ from (congrArg Prod.fst heq).symm]
          apply State.step8_keeps (List.Subset.trans (by decide) hL)
          assumption
        clear heq
        refine ite_keeps ?_ ?_
        · assumption
        · apply State.portsSettled_keeps (List.Subset.trans (by decide) hL)
          apply State.step9_keeps (List.Subset.trans (by decide) hL)
          assumption

theorem State.loadRegs_keeps {L : List Piece} {σ : State} {s : State} (hL : ([.regs] : List Piece) ⊆ L) (hs : Keeps L σ s) (g : WaybillImage) : Keeps L σ (State.loadRegs s g) := by
  unfold State.loadRegs
  refine State.forEach_keeps _ ?_ _ ?_
  · intro s1' a hs1'
    split
    · extract_lets m
      apply State.wr_keeps (List.Subset.trans (by decide) hL)
      assumption
    · assumption
  · assumption

theorem State.useWaybill_keeps {L : List Piece} {σ : State} {s : State} (hL : ([.regs, .flash, .wb, .power] : List Piece) ⊆ L) (hs : Keeps L σ s) (g0 : WaybillImage) (slot : Fin 2) (trial : Bool) : Keeps L σ (State.useWaybill s g0 slot trial) := by
  unfold State.useWaybill
  extract_lets g src s1 s2 s3 s4 src1' s5
  have hs1 : Keeps L σ s1 := by
    unfold s1
    apply State.loadRegs_keeps (List.Subset.trans (by decide) hL)
    apply State.putBoot_keeps (List.Subset.trans (by decide) hL)
    refine Keeps.upd (s := s) hL ?_
    assumption
  clear_value s1
  have hs2 : Keeps L σ s2 := by
    unfold s2
    apply State.set_keeps (List.Subset.trans (by decide) hL)
    apply State.set_keeps (List.Subset.trans (by decide) hL)
    assumption
  clear_value s2
  have hs3 : Keeps L σ s3 := by
    unfold s3
    refine ite_keeps ?_ ?_
    · apply State.set_keeps (List.Subset.trans (by decide) hL)
      assumption
    · assumption
  clear_value s3
  have hs4 : Keeps L σ s4 := by
    unfold s4
    apply State.set_keeps (List.Subset.trans (by decide) hL)
    apply State.setB_keeps (List.Subset.trans (by decide) hL)
    apply State.set_keeps (List.Subset.trans (by decide) hL)
    assumption
  clear_value s4
  have hs5 : Keeps L σ s5 := by
    unfold s5
    refine Keeps.upd (s := s4) hL ?_
    assumption
  clear_value s5
  apply State.setCredit_keeps (List.Subset.trans (by decide) hL)
  assumption

theorem State.step6_keeps {L : List Piece} {σ : State} {s : State} (hL : ([.regs, .start, .flash, .wb, .ledger, .power, .period, .seals, .mem, .tiles, .coll, .mbx, .flt, .cast, .sent, .stalled] : List Piece) ⊆ L) (hs : Keeps L σ s) : Keeps L σ (State.step6 s).1 := by
  unfold State.step6
  refine ite1_keeps ?_ ?_
  · try dsimp only
    apply State.failStart_keeps (List.Subset.trans (by decide) hL)
    assumption
  · split
    · assumption
    · extract_lets self act stg s1 src s2 staged src1' s3 img
      have hs1 : Keeps L σ s1 := by
        unfold s1
        apply State.flagIf_keeps (List.Subset.trans (by decide) hL)
        assumption
      clear_value s1
      have hs2 : Keeps L σ s2 := by
        unfold s2
        apply State.setB_keeps (List.Subset.trans (by decide) hL)
        refine Keeps.upd (s := s1) hL ?_
        assumption
      clear_value s2
      have hs3 : Keeps L σ s3 := by
        unfold s3
        refine ite_keeps ?_ ?_
        · apply State.set_keeps (List.Subset.trans (by decide) hL)
          apply State.flag_keeps (List.Subset.trans (by decide) hL)
          apply State.putBoot_keeps (List.Subset.trans (by decide) hL)
          assumption
        · assumption
      clear_value s3
      split
      · try dsimp only
        apply State.useWaybill_keeps (List.Subset.trans (by decide) hL)
        assumption
      · split
        · try dsimp only
          apply State.useWaybill_keeps (List.Subset.trans (by decide) hL)
          assumption
        · try dsimp only
          apply State.failStart_keeps (List.Subset.trans (by decide) hL)
          assumption

theorem State.step5_keeps {L : List Piece} {σ : State} {s : State} (hL : ([.regs, .start, .flash, .ledger, .power, .period, .seals, .mem, .tiles, .coll, .mbx, .flt, .cast, .sent, .stalled] : List Piece) ⊆ L) (hs : Keeps L σ s) : Keeps L σ (State.step5 s).1 := by
  unfold State.step5
  extract_lets e s1 src s2 src1'
  have hs1 : Keeps L σ s1 := by
    unfold s1
    apply State.readLedger_keeps (List.Subset.trans (by decide) hL)
    assumption
  clear_value s1
  have hs2 : Keeps L σ s2 := by
    unfold s2
    apply State.setB_keeps (List.Subset.trans (by decide) hL)
    refine Keeps.upd (s := s1) hL ?_
    assumption
  clear_value s2
  refine ite1_keeps ?_ ?_
  · try dsimp only
    apply State.failStart_keeps (List.Subset.trans (by decide) hL)
    assumption
  · refine ite1_keeps ?_ ?_
    · try dsimp only
      apply State.failStart_keeps (List.Subset.trans (by decide) hL)
      assumption
    · split
      · try dsimp only
        apply State.flag_keeps (List.Subset.trans (by decide) hL)
        apply State.enterMinimal_keeps (List.Subset.trans (by decide) hL)
        assumption
      · refine ite1_keeps ?_ ?_
        · try dsimp only
          apply State.failStart_keeps (List.Subset.trans (by decide) hL)
          assumption
        · try dsimp only
          apply State.set_keeps (List.Subset.trans (by decide) hL)
          refine Keeps.upd (s := s2) hL ?_
          assumption

theorem State.startTo7_keeps {L : List Piece} {σ : State} {s : State} (hL : ([.regs, .start, .flash, .wb, .ledger, .power, .period, .seals, .mem, .tiles, .coll, .mbx, .flt, .cast, .sent, .stalled] : List Piece) ⊆ L) (hs : Keeps L σ s) : Keeps L σ (State.startTo7 s).1 := by
  unfold State.startTo7
  split
  rename_i s4 ok4 heq
  have hs4 : Keeps L σ s4 := by
    rw [show s4 = _ from (congrArg Prod.fst heq).symm]
    apply State.beginStep_keeps (List.Subset.trans (by decide) hL)
    apply State.set_keeps (List.Subset.trans (by decide) hL)
    assumption
  clear heq
  refine ite1_keeps ?_ ?_
  · assumption
  · refine ite1_keeps ?_ ?_
    · try dsimp only
      apply State.failStart_keeps (List.Subset.trans (by decide) hL)
      assumption
    · split
      rename_i s5 ok5 heq
      have hs5 : Keeps L σ s5 := by
        rw [show s5 = _ from (congrArg Prod.fst heq).symm]
        apply State.beginStep_keeps (List.Subset.trans (by decide) hL)
        assumption
      clear heq
      refine ite1_keeps ?_ ?_
      · assumption
      · split
        rename_i s6 ok6 heq
        have hs6 : Keeps L σ s6 := by
          rw [show s6 = _ from (congrArg Prod.fst heq).symm]
          apply State.step5_keeps (List.Subset.trans (by decide) hL)
          assumption
        clear heq
        refine ite1_keeps ?_ ?_
        · assumption
        · split
          rename_i s7 ok7 heq
          have hs7 : Keeps L σ s7 := by
            rw [show s7 = _ from (congrArg Prod.fst heq).symm]
            apply State.beginStep_keeps (List.Subset.trans (by decide) hL)
            assumption
          clear heq
          refine ite1_keeps ?_ ?_
          · assumption
          · apply State.step6_keeps (List.Subset.trans (by decide) hL)
            assumption

theorem State.promote_keeps {L : List Piece} {σ : State} {s : State} (hL : ([.regs, .flash] : List Piece) ⊆ L) (hs : Keeps L σ s) : Keeps L σ (State.promote s) := by
  unfold State.promote
  refine ite_keeps ?_ ?_
  · assumption
  · extract_lets s1
    have hs1 : Keeps L σ s1 := by
      unfold s1
      apply State.putBoot_keeps (List.Subset.trans (by decide) hL)
      assumption
    clear_value s1
    apply State.set_keeps (List.Subset.trans (by decide) hL)
    apply State.set_keeps (List.Subset.trans (by decide) hL)
    apply State.flag_keeps (List.Subset.trans (by decide) hL)
    assumption

theorem State.jobStart_keeps {L : List Piece} {σ : State} {s : State} (hL : ([.regs, .start, .flash, .ledger, .power, .period, .seals, .ladder, .mem, .tiles, .coll, .mbx, .flt, .cast, .sent, .stalled] : List Piece) ⊆ L) (hs : Keeps L σ s) : Keeps L σ (State.jobStart s) := by
  unfold State.jobStart
  extract_lets src s0 s1 s2 src1' s3 s4 s5 s6 s7 src2' s8
  have hs0 : Keeps L σ s0 := by
    unfold s0
    refine Keeps.upd (s := s) hL ?_
    assumption
  clear_value s0
  have hs1 : Keeps L σ s1 := by
    unfold s1
    apply State.set_keeps (List.Subset.trans (by decide) hL)
    apply State.set_keeps (List.Subset.trans (by decide) hL)
    apply State.set_keeps (List.Subset.trans (by decide) hL)
    assumption
  clear_value s1
  have hs2 : Keeps L σ s2 := by
    unfold s2
    apply State.promote_keeps (List.Subset.trans (by decide) hL)
    apply State.set_keeps (List.Subset.trans (by decide) hL)
    assumption
  clear_value s2
  have hs3 : Keeps L σ s3 := by
    unfold s3
    refine Keeps.upd (s := s2) hL ?_
    assumption
  clear_value s3
  have hs4 : Keeps L σ s4 := by
    unfold s4
    refine Keeps.upd (s := s3) hL ?_
    assumption
  clear_value s4
  have hs5 : Keeps L σ s5 := by
    unfold s5
    apply State.set_keeps (List.Subset.trans (by decide) hL)
    assumption
  clear_value s5
  have hs6 : Keeps L σ s6 := by
    unfold s6
    refine ite_keeps ?_ ?_
    · apply State.halt_keeps (List.Subset.trans (by decide) hL)
      assumption
    · assumption
  clear_value s6
  have hs7 : Keeps L σ s7 := by
    unfold s7
    apply State.writeLedger_keeps (List.Subset.trans (by decide) hL)
    assumption
  clear_value s7
  have hs8 : Keeps L σ s8 := by
    unfold s8
    refine ite_keeps ?_ ?_
    · apply State.restoreBegin_keeps (List.Subset.trans (by decide) hL)
      apply State.set_keeps (List.Subset.trans (by decide) hL)
      apply State.set_keeps (List.Subset.trans (by decide) hL)
      refine Keeps.upd (s := s7) hL ?_
      assumption
    · assumption
  clear_value s8
  refine ite_keeps ?_ ?_
  · apply State.moduleFailed_keeps (List.Subset.trans (by decide) hL)
    assumption
  · assumption

theorem State.powerLost_keeps {L : List Piece} {σ : State} {s : State} (hL : ([.regs, .time, .start, .flash, .wb, .ledger, .power, .period, .seals, .ladder, .mem, .tiles, .coll, .mbx, .flt, .cast, .perf, .stalled, .stallReq, .free] : List Piece) ⊆ L) (hs : Keeps L σ s) : Keeps L σ (State.powerLost s) := by
  unfold State.powerLost
  split
  · exact hs
  · refine ⟨hs.pending, hs.sent, fun _ => ?_, hs.same.upd hL⟩
    simp only [State.memWf, Bool.and_eq_true]
    exact ⟨⟨rfl, rfl⟩, (TileSt.all_wf _).2 fun i => by simp [State.reset, TileSt.init, TileSt.wf, Sparse.sorted, NatSet.sorted]⟩

end Sys2Proof.Machine
end

