-- ==== Sys2Proof/Laws/KeepsCperOps.lean ====
section
/-! SUPPORT. What the operations of Machine/CperOps.lean keep: the queue of commands, what was sent, canonical memories, and the parts of the state
they do not write. -/

namespace Sys2Proof.Machine

set_option Elab.async false

theorem State.ackCper_keeps {L : List Piece} {σ : State} {s : State} (hL : ([.regs, .flt] : List Piece) ⊆ L) (hs : Keeps L σ s) (id : Nat) : Keeps L σ (State.ackCper s id) := by
  unfold State.ackCper
  extract_lets l src
  apply State.set_keeps (List.Subset.trans (by decide) hL)
  refine Keeps.upd (s := s) hL ?_
  assumption

theorem State.innkFault_keeps {L : List Piece} {σ : State} {s : State} (hL : ([.regs, .start, .flash, .ledger, .power, .period, .seals, .mem, .tiles, .coll, .mbx, .flt, .cast, .sent, .stalled] : List Piece) ⊆ L) (hs : Keeps L σ s) : Keeps L σ (State.innkFault s) := by
  unfold State.innkFault
  refine ite_keeps ?_ ?_
  · apply State.failStart_keeps (List.Subset.trans (by decide) hL)
    assumption
  · refine ite_keeps ?_ ?_
    · assumption
    · extract_lets again s1 src src1'
      have hs1 : Keeps L σ s1 := by
        unfold s1
        apply State.bump_keeps (List.Subset.trans (by decide) hL)
        assumption
      clear_value s1
      have hsrc : Keeps L σ src := by
        unfold src
        apply State.dropUpload_keeps (List.Subset.trans (by decide) hL)
        assumption
      clear_value src
      refine ite_keeps ?_ ?_
      · apply State.flag_keeps (List.Subset.trans (by decide) hL)
        assumption
      · refine Keeps.upd (s := src) hL ?_
        assumption

theorem State.coreFault_keeps {L : List Piece} {σ : State} {s : State} (hL : ([.regs, .start, .flash, .ledger, .power, .period, .seals, .ladder, .mem, .tiles, .coll, .mbx, .flt, .cast, .sent, .stalled, .stallReq, .free] : List Piece) ⊆ L) (hs : Keeps L σ s) (cls : Nat) (kind : Nat) (severity : Nat) : Keeps L σ (State.coreFault s cls kind severity) := by
  unfold State.coreFault
  refine ite_keeps ?_ ?_
  · assumption
  · refine ite_keeps ?_ ?_
    · apply State.timetableFault_keeps (List.Subset.trans (by decide) hL)
      assumption
    · refine ite_keeps ?_ ?_
      · apply State.innkFault_keeps (List.Subset.trans (by decide) hL)
        assumption
      · assumption

theorem State.storeCper_keeps {L : List Piece} {σ : State} {s : State} (hL : ([.regs, .start, .ledger, .flt, .sent] : List Piece) ⊆ L) (hs : Keeps L σ s) (r : ErrRec) : Keeps L σ (State.storeCper s r) := by
  unfold State.storeCper
  extract_lets id full l s1 src src1' s2 s3
  have hs1 : Keeps L σ s1 := by
    unfold s1
    refine ite_keeps ?_ ?_
    · apply State.bump_keeps (List.Subset.trans (by decide) hL)
      assumption
    · assumption
  clear_value s1
  have hs2 : Keeps L σ s2 := by
    unfold s2
    refine Keeps.upd (s := s1) hL ?_
    assumption
  clear_value s2
  have hs3 : Keeps L σ s3 := by
    unfold s3
    apply State.set_keeps (List.Subset.trans (by decide) hL)
    assumption
  clear_value s3
  refine ite_keeps ?_ ?_
  · apply State.msi_keeps (List.Subset.trans (by decide) hL)
    assumption
  · assumption

theorem State.kindFlags_keeps {L : List Piece} {σ : State} {s : State} (hL : ([.regs, .start, .sent] : List Piece) ⊆ L) (hs : Keeps L σ s) (r : ErrRec) : Keeps L σ (State.kindFlags s r) := by
  unfold State.kindFlags
  refine ite_keeps ?_ ?_
  · assumption
  · refine ite_keeps ?_ ?_
    · apply State.flag_keeps (List.Subset.trans (by decide) hL)
      assumption
    · refine ite_keeps ?_ ?_
      · apply State.flag_keeps (List.Subset.trans (by decide) hL)
        assumption
      · refine ite_keeps ?_ ?_
        · apply State.flagIf_keeps (List.Subset.trans (by decide) hL)
          assumption
        · refine ite_keeps ?_ ?_
          · apply State.flag_keeps (List.Subset.trans (by decide) hL)
            assumption
          · refine ite_keeps ?_ ?_
            · apply State.cause_keeps (List.Subset.trans (by decide) hL)
              assumption
            · refine ite_keeps ?_ ?_
              · apply State.cause_keeps (List.Subset.trans (by decide) hL)
                assumption
              · refine ite_keeps ?_ ?_
                · apply State.flag_keeps (List.Subset.trans (by decide) hL)
                  assumption
                · refine ite_keeps ?_ ?_
                  · apply State.flag_keeps (List.Subset.trans (by decide) hL)
                    assumption
                  · assumption

theorem State.handle_keeps {L : List Piece} {σ : State} {s : State} (hL : ([.regs, .start, .flash, .ledger, .power, .period, .seals, .mem, .tiles, .coll, .mbx, .flt, .cast, .sent, .stalled] : List Piece) ⊆ L) (hs : Keeps L σ s) (r : ErrRec) : Keeps L σ (State.handle s r) := by
  unfold State.handle
  extract_lets l s1 fence r1 s2 s3 src s4 s5
  have hs1 : Keeps L σ s1 := by
    unfold s1
    refine Keeps.upd (s := s) hL ?_
    assumption
  clear_value s1
  have hs2 : Keeps L σ s2 := by
    unfold s2
    refine ite_keeps ?_ ?_
    · apply State.writeLedger_keeps (List.Subset.trans (by decide) hL)
      apply State.fenceNow_keeps (List.Subset.trans (by decide) hL)
      assumption
    · assumption
  clear_value s2
  have hs3 : Keeps L σ s3 := by
    unfold s3
    apply State.kindFlags_keeps (List.Subset.trans (by decide) hL)
    apply State.storeCper_keeps (List.Subset.trans (by decide) hL)
    assumption
  clear_value s3
  have hs4 : Keeps L σ s4 := by
    unfold s4
    refine Keeps.upd (s := s3) hL ?_
    assumption
  clear_value s4
  have hs5 : Keeps L σ s5 := by
    unfold s5
    apply State.set_keeps (List.Subset.trans (by decide) hL)
    assumption
  clear_value s5
  refine ite_keeps ?_ ?_
  · apply State.moduleFailed_keeps (List.Subset.trans (by decide) hL)
    assumption
  · assumption

theorem State.secureTake_keeps {L : List Piece} {σ : State} {s : State} (hL : ([.regs, .start, .mbx, .flt, .sent] : List Piece) ⊆ L) (hs : Keeps L σ s) (c : MbxIx) : Keeps L σ (State.secureTake s c) := by
  unfold State.secureTake
  extract_lets m typ tag parts src m1 s1 s2
  have hs1 : Keeps L σ s1 := by
    unfold s1
    apply State.emptiedA_keeps (List.Subset.trans (by decide) hL)
    apply State.setChan_keeps (List.Subset.trans (by decide) hL)
    assumption
  clear_value s1
  have hs2 : Keeps L σ s2 := by
    unfold s2
    refine ite_keeps ?_ ?_
    · apply State.ackCper_keeps (List.Subset.trans (by decide) hL)
      assumption
    · assumption
  clear_value s2
  refine ite_keeps ?_ ?_
  · assumption
  · apply State.mailPump_keeps (List.Subset.trans (by decide) hL)
    assumption

theorem State.sendFromA_keeps {L : List Piece} {σ : State} {s : State} (hL : ([.mbx] : List Piece) ⊆ L) (hs : Keeps L σ s) (c : MbxIx) (bytes : List Byte) : Keeps L σ (State.sendFromA s c bytes) := by
  unfold State.sendFromA
  extract_lets m src src1' src2'
  refine ite_keeps ?_ ?_
  · apply State.setChan_keeps (List.Subset.trans (by decide) hL)
    assumption
  · apply State.setChan_keeps (List.Subset.trans (by decide) hL)
    assumption

end Sys2Proof.Machine
end

