-- ==== Sys2Proof/Laws/KeepsMailOps.lean ====
section
/-! SUPPORT. What the operations of Machine/MailOps.lean keep: the queue of commands, what was sent, canonical memories, and the parts of the state
they do not write. -/

namespace Sys2Proof.Machine

set_option Elab.async false

theorem State.sleepAgain_keeps {L : List Piece} {σ : State} {s : State} (hL : ([.regs] : List Piece) ⊆ L) (hs : Keeps L σ s) (d : Nat) : Keeps L σ (State.sleepAgain s d) := by
  unfold State.sleepAgain
  refine ite_keeps ?_ ?_
  · apply State.setDom_keeps (List.Subset.trans (by decide) hL)
    assumption
  · assumption

theorem State.emptyB_keeps {L : List Piece} {σ : State} {s : State} (hL : ([.regs, .start, .mbx, .sent] : List Piece) ⊆ L) (hs : Keeps L σ s) (c : MbxIx) (reset : Bool) : Keeps L σ (State.emptyB s c reset) := by
  unfold State.emptyB
  extract_lets m src src1' s1
  have hs1 : Keeps L σ s1 := by
    unfold s1
    apply State.setChan_keeps (List.Subset.trans (by decide) hL)
    assumption
  clear_value s1
  refine ite_keeps ?_ ?_
  · assumption
  · apply State.sleepAgain_keeps (List.Subset.trans (by decide) hL)
    apply State.emptiedA_keeps (List.Subset.trans (by decide) hL)
    assumption

theorem State.mailGoOn_keeps {L : List Piece} {σ : State} {s : State} (hL : ([.regs, .start, .mbx, .flt, .sent] : List Piece) ⊆ L) (hs : Keeps L σ s) (c : MbxIx) : Keeps L σ (State.mailGoOn s c) := by
  unfold State.mailGoOn
  apply State.minimalAnswer_keeps (List.Subset.trans (by decide) hL)
  apply State.secureTake_keeps (List.Subset.trans (by decide) hL)
  apply State.mailPump_keeps (List.Subset.trans (by decide) hL)
  assumption

theorem State.emptyA_keeps {L : List Piece} {σ : State} {s : State} (hL : ([.regs, .start, .mbx, .flt, .sent] : List Piece) ⊆ L) (hs : Keeps L σ s) (c : MbxIx) (col : Fin 8) (reset : Bool) : Keeps L σ (State.emptyA s c col reset) := by
  unfold State.emptyA
  extract_lets m named src src1' s1 s2
  have hs1 : Keeps L σ s1 := by
    unfold s1
    apply State.setChan_keeps (List.Subset.trans (by decide) hL)
    assumption
  clear_value s1
  have hs2 : Keeps L σ s2 := by
    unfold s2
    apply State.mailGoOn_keeps (List.Subset.trans (by decide) hL)
    assumption
  clear_value s2
  refine ite_keeps ?_ ?_
  · assumption
  · refine ite_keeps ?_ ?_
    · apply State.sleepAgain_keeps (List.Subset.trans (by decide) hL)
      assumption
    · assumption

theorem State.empty_keeps {L : List Piece} {σ : State} {s : State} (hL : ([.regs, .start, .mbx, .flt, .sent] : List Piece) ⊆ L) (hs : Keeps L σ s) (c : MbxIx) (e : MbxEnd) (col : Fin 8) (reset : Bool) : Keeps L σ (State.empty s c e col reset) := by
  unfold State.empty
  split
  · apply State.emptyA_keeps (List.Subset.trans (by decide) hL)
    assumption
  · apply State.emptyB_keeps (List.Subset.trans (by decide) hL)
    assumption

theorem State.mailWrite_keeps {L : List Piece} {σ : State} {s : State} (hL : ([.mbx] : List Piece) ⊆ L) (hs : Keeps L σ s) (c : MbxIx) (e : MbxEnd) (col : Fin 8) (w : Fin 8) (v : U64) : Keeps L σ (State.mailWrite s c e col w v) := by
  unfold State.mailWrite
  extract_lets m src src1' src2' src3'
  split
  · refine ite_keeps ?_ ?_
    · apply State.setChan_keeps (List.Subset.trans (by decide) hL)
      assumption
    · apply State.setChan_keeps (List.Subset.trans (by decide) hL)
      assumption
  · refine ite_keeps ?_ ?_
    · apply State.setChan_keeps (List.Subset.trans (by decide) hL)
      assumption
    · apply State.setChan_keeps (List.Subset.trans (by decide) hL)
      assumption

theorem State.ringA_keeps {L : List Piece} {σ : State} {s : State} (hL : ([.regs, .start, .power, .mbx, .sent] : List Piece) ⊆ L) (hs : Keeps L σ s) (c : MbxIx) (col : Fin 8) : Keeps L σ (State.ringA s c col) := by
  unfold State.ringA
  extract_lets m fenced src src1' s1 s2
  have hs1 : Keeps L σ s1 := by
    unfold s1
    apply State.setChan_keeps (List.Subset.trans (by decide) hL)
    assumption
  clear_value s1
  have hs2 : Keeps L σ s2 := by
    unfold s2
    apply State.arrivedA_keeps (List.Subset.trans (by decide) hL)
    assumption
  clear_value s2
  refine ite_keeps ?_ ?_
  · apply State.send_keeps (List.Subset.trans (by decide) hL)
    assumption
  · refine ite_keeps ?_ ?_
    · apply State.setChan_keeps (List.Subset.trans (by decide) hL)
      assumption
    · refine ite_keeps ?_ ?_
      · apply State.wake_keeps (List.Subset.trans (by decide) hL)
        assumption
      · assumption

theorem State.ringB_keeps {L : List Piece} {σ : State} {s : State} (hL : ([.regs, .start, .power, .mbx, .flt, .sent] : List Piece) ⊆ L) (hs : Keeps L σ s) (c : MbxIx) (col : Fin 8) : Keeps L σ (State.ringB s c col) := by
  unfold State.ringB
  extract_lets m src src1' src2' s1 s2
  have hs1 : Keeps L σ s1 := by
    unfold s1
    apply State.setChan_keeps (List.Subset.trans (by decide) hL)
    assumption
  clear_value s1
  have hs2 : Keeps L σ s2 := by
    unfold s2
    refine ite_keeps ?_ ?_
    · apply State.wake_keeps (List.Subset.trans (by decide) hL)
      assumption
    · assumption
  clear_value s2
  refine ite_keeps ?_ ?_
  · apply State.setChan_keeps (List.Subset.trans (by decide) hL)
    assumption
  · apply State.minimalAnswer_keeps (List.Subset.trans (by decide) hL)
    apply State.secureTake_keeps (List.Subset.trans (by decide) hL)
    assumption

theorem State.ringBell_keeps {L : List Piece} {σ : State} {s : State} (hL : ([.regs, .start, .power, .mbx, .flt, .sent] : List Piece) ⊆ L) (hs : Keeps L σ s) (c : MbxIx) (e : MbxEnd) (col : Fin 8) : Keeps L σ (State.ringBell s c e col) := by
  unfold State.ringBell
  split
  · apply State.ringB_keeps (List.Subset.trans (by decide) hL)
    assumption
  · apply State.ringA_keeps (List.Subset.trans (by decide) hL)
    assumption

theorem State.opDoorbell_keeps {L : List Piece} {σ : State} {s : State} (hL : ([.regs, .start, .power, .mbx, .flt, .sent, .stallReq] : List Piece) ⊆ L) (hs : Keeps L σ s) (c : MbxIx) (e : MbxEnd) (col : Fin 8) : Keeps L σ (State.opDoorbell s c e col) := by
  unfold State.opDoorbell
  refine ite_keeps ?_ ?_
  · refine Keeps.upd (s := s) hL ?_
    assumption
  · apply State.ringBell_keeps (List.Subset.trans (by decide) hL)
    assumption

theorem State.opMailWrite_keeps {L : List Piece} {σ : State} {s : State} (hL : ([.mbx, .stallReq] : List Piece) ⊆ L) (hs : Keeps L σ s) (c : MbxIx) (e : MbxEnd) (col : Fin 8) (w : Fin 8) (v : U64) : Keeps L σ (State.opMailWrite s c e col w v) := by
  unfold State.opMailWrite
  refine ite_keeps ?_ ?_
  · refine Keeps.upd (s := s) hL ?_
    assumption
  · apply State.mailWrite_keeps (List.Subset.trans (by decide) hL)
    assumption

end Sys2Proof.Machine
end

