-- ==== Sys2Proof/Laws/KeepsUnits.lean ====
section
/-! SUPPORT. What the operations of Machine/Units.lean keep: the queue of commands, what was sent, canonical memories, and the parts of the state
they do not write. -/

namespace Sys2Proof.Machine

set_option Elab.async false

theorem State.atKiln_keeps {L : List Piece} {σ : State} {s : State} (hL : ([.regs, .start, .flash, .ledger, .power, .period, .seals, .mem, .tiles, .coll, .mbx, .flt, .cast, .perf, .sent, .stalled, .stallReq] : List Piece) ⊆ L) (hs : Keeps L σ s) (k : EngIx) (n : TileIx) (op : Nat) (d : BitVec 256) : Keeps L σ (State.atKiln s k n op d) := by
  unfold State.atKiln
  apply State.opKiln_keeps (List.Subset.trans (by decide) hL)
  apply State.useEngine_keeps (List.Subset.trans (by decide) hL)
  assumption

theorem State.wakeFor_keeps {L : List Piece} {σ : State} {s : State} (hL : ([.regs, .power] : List Piece) ⊆ L) (hs : Keeps L σ s) (l : List Nat) : Keeps L σ (State.wakeFor s l) := by
  unfold State.wakeFor
  refine State.forEach_keeps _ ?_ _ ?_
  · intro s1' a hs1'
    apply State.wake_keeps (List.Subset.trans (by decide) hL)
    assumption
  · assumption

theorem State.atSequencer_keeps {L : List Piece} {σ : State} {s : State} (hL : ([.regs, .power, .stalled] : List Piece) ⊆ L) (hs : Keeps L σ s) (w : Waiting) (run : State → State)
    (hr : ∀ s, Keeps L σ s → Keeps L σ (run s)) : Keeps L σ (State.atSequencer s w run) := by
  unfold State.atSequencer
  extract_lets w0
  refine ite_keeps ?_ ?_
  · exact State.wait_keeps (List.Subset.trans (by decide) hL) hs _
  · split
    · exact State.wait_keeps (List.Subset.trans (by decide) hL) (State.flag_keeps (List.Subset.trans (by decide) hL) hs _) _
    · refine ite_keeps ?_ ?_
      · exact hr _ hs
      · exact State.wait_keeps (List.Subset.trans (by decide) hL) (State.wakeFor_keeps (List.Subset.trans (by decide) hL) hs _) _

theorem State.atTally_keeps {L : List Piece} {σ : State} {s : State} (hL : ([.regs, .start, .flash, .ledger, .power, .period, .seals, .mem, .tiles, .coll, .mbx, .flt, .cast, .perf, .sent, .stalled, .stallReq] : List Piece) ⊆ L) (hs : Keeps L σ s) (t : EngIx) (n : TileIx) (op : Nat) (d : BitVec 512) : Keeps L σ (State.atTally s t n op d) := by
  unfold State.atTally
  apply State.opTally_keeps (List.Subset.trans (by decide) hL)
  apply State.useEngine_keeps (List.Subset.trans (by decide) hL)
  assumption

theorem State.atWay_keeps {L : List Piece} {σ : State} {s : State} (hL : ([.period] : List Piece) ⊆ L) (hs : Keeps L σ s) (q : WayIx) (n : TileIx) : Keeps L σ (State.atWay s q n) := by
  unfold State.atWay
  apply State.useEngine_keeps (List.Subset.trans (by decide) hL)
  assumption

theorem State.awaitSummary_keeps {L : List Piece} {σ : State} {s : State} (hL : ([.tiles] : List Piece) ⊆ L) (hs : Keeps L σ s) (i : Instr) : Keeps L σ (State.awaitSummary s i) := by
  unfold State.awaitSummary
  split
  · apply State.modTile_keeps (List.Subset.trans (by decide) hL)
    · assumption
    · exact fun t ht => TileSt.wf_upd (t := t) rfl rfl ht
  · assumption

theorem State.dwqDepth_keeps {L : List Piece} {σ : State} {s : State} (hL : ([.regs] : List Piece) ⊆ L) (hs : Keeps L σ s) (n : TileIx) : Keeps L σ (State.dwqDepth s n) := by
  unfold State.dwqDepth
  extract_lets k
  apply State.set_keeps (List.Subset.trans (by decide) hL)
  apply State.set_keeps (List.Subset.trans (by decide) hL)
  assumption

theorem State.summaryDone_keeps {L : List Piece} {σ : State} {s : State} (hL : ([.tiles] : List Piece) ⊆ L) (hs : Keeps L σ s) (i : Instr) : Keeps L σ (State.summaryDone s i) := by
  unfold State.summaryDone
  split
  · apply State.modTile_keeps (List.Subset.trans (by decide) hL)
    · assumption
    · exact fun t ht => TileSt.wf_upd (t := t) rfl rfl ht
  · assumption

theorem State.unitOp_keeps {L : List Piece} {σ : State} {s : State} (hL : ([.regs, .start, .flash, .ledger, .power, .period, .seals, .mem, .tiles, .coll, .mbx, .flt, .cast, .perf, .sent, .stalled, .stallReq, .free] : List Piece) ⊆ L) (hs : Keeps L σ s) (w : Waiting) : Keeps L σ (State.unitOp s w) := by
  unfold State.unitOp
  split
  · apply State.opOperand_keeps (List.Subset.trans (by decide) hL)
    assumption
  · apply State.opOperand_keeps (List.Subset.trans (by decide) hL)
    assumption
  · apply State.opConvertCmd_keeps (List.Subset.trans (by decide) hL)
    assumption
  · apply State.opResultOutCmd_keeps (List.Subset.trans (by decide) hL)
    assumption
  · apply State.opMatmulCmd_keeps (List.Subset.trans (by decide) hL)
    assumption
  · apply State.opCruCopyCmd_keeps (List.Subset.trans (by decide) hL)
    assumption
  · apply State.opSplitCombine_keeps (List.Subset.trans (by decide) hL)
    assumption
  · apply State.opGatherCsr_keeps (List.Subset.trans (by decide) hL)
    apply State.atWay_keeps (List.Subset.trans (by decide) hL)
    assumption
  · apply State.opGatherIdx_keeps (List.Subset.trans (by decide) hL)
    apply State.atWay_keeps (List.Subset.trans (by decide) hL)
    assumption
  · apply State.opScatterIdx_keeps (List.Subset.trans (by decide) hL)
    apply State.atWay_keeps (List.Subset.trans (by decide) hL)
    assumption
  · apply State.opCopyIn_keeps (List.Subset.trans (by decide) hL)
    apply State.atWay_keeps (List.Subset.trans (by decide) hL)
    assumption
  · apply State.opCopyOut_keeps (List.Subset.trans (by decide) hL)
    apply State.atWay_keeps (List.Subset.trans (by decide) hL)
    assumption
  · apply State.atTally_keeps (List.Subset.trans (by decide) hL)
    assumption
  · apply State.atTally_keeps (List.Subset.trans (by decide) hL)
    assumption
  · apply State.atTally_keeps (List.Subset.trans (by decide) hL)
    assumption
  · apply State.atTally_keeps (List.Subset.trans (by decide) hL)
    assumption
  · apply State.atTally_keeps (List.Subset.trans (by decide) hL)
    assumption
  · apply State.atTally_keeps (List.Subset.trans (by decide) hL)
    assumption
  · apply State.atKiln_keeps (List.Subset.trans (by decide) hL)
    assumption
  · apply State.atKiln_keeps (List.Subset.trans (by decide) hL)
    assumption
  · apply State.atKiln_keeps (List.Subset.trans (by decide) hL)
    assumption
  · apply State.atKiln_keeps (List.Subset.trans (by decide) hL)
    assumption
  · apply State.atKiln_keeps (List.Subset.trans (by decide) hL)
    assumption
  · apply State.atKiln_keeps (List.Subset.trans (by decide) hL)
    assumption
  · apply State.opVector_keeps (List.Subset.trans (by decide) hL)
    assumption
  · apply State.opVector_keeps (List.Subset.trans (by decide) hL)
    assumption
  · apply State.opVector_keeps (List.Subset.trans (by decide) hL)
    assumption
  · apply State.opVector_keeps (List.Subset.trans (by decide) hL)
    assumption
  · apply State.opVector_keeps (List.Subset.trans (by decide) hL)
    assumption
  · apply State.opVector_keeps (List.Subset.trans (by decide) hL)
    assumption
  · apply State.opVector_keeps (List.Subset.trans (by decide) hL)
    assumption
  · apply State.opVector_keeps (List.Subset.trans (by decide) hL)
    assumption
  · apply State.opVector_keeps (List.Subset.trans (by decide) hL)
    assumption
  · apply State.opSealVote_keeps (List.Subset.trans (by decide) hL)
    assumption
  · apply State.opCollPost_keeps (List.Subset.trans (by decide) hL)
    assumption
  · apply State.opCollPost_keeps (List.Subset.trans (by decide) hL)
    assumption
  · apply State.opCollPost_keeps (List.Subset.trans (by decide) hL)
    assumption
  · apply State.opCollPost_keeps (List.Subset.trans (by decide) hL)
    assumption
  · apply State.hostRead_keeps (List.Subset.trans (by decide) hL)
    assumption
  · apply State.hostWrite_keeps (List.Subset.trans (by decide) hL)
    assumption
  · apply State.opMailWrite_keeps (List.Subset.trans (by decide) hL)
    assumption
  · apply State.opDoorbell_keeps (List.Subset.trans (by decide) hL)
    assumption
  · apply State.modTile_keeps (List.Subset.trans (by decide) hL)
    · assumption
    · exact fun t ht => TileSt.wf_upd (t := t) rfl rfl ht
  · apply State.opMemFence_keeps (List.Subset.trans (by decide) hL)
    assumption
  · apply State.opWcTimer_keeps (List.Subset.trans (by decide) hL)
    assumption
  · assumption

theorem State.waitAtUnit_keeps {L : List Piece} {σ : State} {s : State} (hL : ([.tiles, .stalled] : List Piece) ⊆ L) (hs : Keeps L σ s) (w : Waiting) : Keeps L σ (State.waitAtUnit s w) := by
  unfold State.waitAtUnit
  refine ite_keeps ?_ ?_
  · apply State.wait_keeps (List.Subset.trans (by decide) hL)
    apply State.awaitSummary_keeps (List.Subset.trans (by decide) hL)
    assumption
  · apply State.wait_keeps (List.Subset.trans (by decide) hL)
    assumption

theorem State.runUnit_keeps {L : List Piece} {σ : State} {s : State} (hL : ([.regs, .start, .flash, .ledger, .power, .period, .seals, .mem, .tiles, .coll, .mbx, .flt, .cast, .perf, .sent, .stalled, .stallReq, .free] : List Piece) ⊆ L) (hs : Keeps L σ s) (w : Waiting) : Keeps L σ (State.runUnit s w) := by
  unfold State.runUnit
  refine ite_keeps ?_ ?_
  · apply State.waitAtUnit_keeps (List.Subset.trans (by decide) hL)
    assumption
  · refine ite_keeps ?_ ?_
    · apply State.waitAtUnit_keeps (List.Subset.trans (by decide) hL)
      apply State.wakeFor_keeps (List.Subset.trans (by decide) hL)
      assumption
    · extract_lets t
      have ht : Keeps L σ t := by
        unfold t
        apply State.unitOp_keeps (List.Subset.trans (by decide) hL)
        assumption
      clear_value t
      refine ite_keeps ?_ ?_
      · apply State.waitAtUnit_keeps (List.Subset.trans (by decide) hL)
        apply State.stallEffects_keeps (List.Subset.trans (by decide) hL)
        · assumption
        · assumption
      · refine ite_keeps ?_ ?_
        · apply State.summaryDone_keeps (List.Subset.trans (by decide) hL)
          assumption
        · assumption

theorem State.tryUnit_keeps {L : List Piece} {σ : State} {s : State} (hL : ([.regs, .start, .flash, .ledger, .power, .period, .seals, .mem, .tiles, .coll, .mbx, .flt, .cast, .perf, .sent, .stalled, .stallReq, .free] : List Piece) ⊆ L) (hs : Keeps L σ s) (w : Waiting) : Keeps L σ (State.tryUnit s w) := by
  unfold State.tryUnit
  refine ite_keeps ?_ ?_
  · apply State.runUnit_keeps (List.Subset.trans (by decide) hL)
    assumption
  · apply State.atSequencer_keeps (List.Subset.trans (by decide) hL)
    · assumption
    · intro s1' hs1'
      beta_reduce
      apply State.runUnit_keeps (List.Subset.trans (by decide) hL)
      assumption

theorem State.readList_keeps {L : List Piece} {σ : State} {s : State} (hL : ([.regs, .mem, .tiles] : List Piece) ⊆ L) (n : TileIx) (k : Nat) (hs : Keeps L σ s) (a : Nat) : Keeps L σ (State.readList n k s a).1 := by
  induction k generalizing s a with
  | zero => exact hs
  | succ k ih =>
    unfold State.readList
    dsimp only
    split
    · exact ih (State.tmRead_keeps (List.Subset.trans (by decide) hL) (State.tmRead_keeps (List.Subset.trans (by decide) hL) hs _ _ _) _ _ _) _
    · exact ih (State.tmRead_keeps (List.Subset.trans (by decide) hL) (State.tmRead_keeps (List.Subset.trans (by decide) hL) hs _ _ _) _ _ _) _

theorem State.dwqRun_keeps {L : List Piece} {σ : State} {s : State} (hL : ([.regs, .start, .flash, .ledger, .power, .period, .seals, .mem, .tiles, .coll, .mbx, .flt, .cast, .perf, .sent, .stalled, .stallReq, .free] : List Piece) ⊆ L) (hs : Keeps L σ s) (n : TileIx) : Keeps L σ (State.dwqRun s n) := by
  unfold State.dwqRun
  split
  · assumption
  · extract_lets s1
    have hs1 : Keeps L σ s1 := by
      unfold s1
      apply State.perfEvent_keeps (List.Subset.trans (by decide) hL)
      apply State.dwqDepth_keeps (List.Subset.trans (by decide) hL)
      apply State.modTile_keeps (List.Subset.trans (by decide) hL)
      · assumption
      · exact fun t ht => TileSt.wf_upd (t := t) rfl rfl ht
    clear_value s1
    split
    rename_i s2 l heq
    have hs2 : Keeps L σ s2 := by
      rw [show s2 = _ from (congrArg Prod.fst heq).symm]
      apply State.readList_keeps (List.Subset.trans (by decide) hL)
      apply State.setLayer_keeps (List.Subset.trans (by decide) hL)
      assumption
    clear heq
    refine foldl_keeps _ ?_ _ ?_
    · intro s1' a hs1'
      apply State.tryUnit_keeps (List.Subset.trans (by decide) hL)
      assumption
    · assumption

theorem State.dwqPump_keeps {L : List Piece} {σ : State} {s : State} (hL : ([.regs, .start, .flash, .ledger, .power, .period, .seals, .mem, .tiles, .coll, .mbx, .flt, .cast, .perf, .sent, .stalled, .stallReq, .free] : List Piece) ⊆ L) (n : TileIx) (k : Nat) (hs : Keeps L σ s) : Keeps L σ (State.dwqPump n k s) := by
  induction k generalizing s with
  | zero => exact hs
  | succ k ih =>
    unfold State.dwqPump
    split
    · exact hs
    · split
      · exact State.flag_keeps (List.Subset.trans (by decide) hL) hs _
      · exact ih (State.dwqRun_keeps (List.Subset.trans (by decide) hL) hs _)

theorem State.pump_keeps {L : List Piece} {σ : State} {s : State} (hL : ([.regs, .start, .flash, .ledger, .power, .period, .seals, .mem, .tiles, .coll, .mbx, .flt, .cast, .perf, .sent, .stalled, .stallReq, .free] : List Piece) ⊆ L) (hs : Keeps L σ s) (n : TileIx) : Keeps L σ (State.pump s n) := by
  unfold State.pump
  apply State.dwqPump_keeps (List.Subset.trans (by decide) hL)
  assumption

theorem State.dwqDrainNow_keeps {L : List Piece} {σ : State} {s : State} (hL : ([.regs, .start, .flash, .ledger, .power, .period, .seals, .mem, .tiles, .coll, .mbx, .flt, .cast, .perf, .sent, .stalled, .stallReq, .free] : List Piece) ⊆ L) (hs : Keeps L σ s) (n : TileIx) : Keeps L σ (State.dwqDrainNow s n) := by
  unfold State.dwqDrainNow
  extract_lets s1
  have hs1 : Keeps L σ s1 := by
    unfold s1
    apply State.modTile_keeps (List.Subset.trans (by decide) hL)
    · apply State.flag_keeps (List.Subset.trans (by decide) hL)
      assumption
    · exact fun t ht => TileSt.wf_upd (t := t) rfl rfl ht
  clear_value s1
  refine ite_keeps ?_ ?_
  · apply State.flag_keeps (List.Subset.trans (by decide) hL)
    assumption
  · apply State.pump_keeps (List.Subset.trans (by decide) hL)
    assumption

theorem State.dwqPostEntry_keeps {L : List Piece} {σ : State} {s : State} (hL : ([.regs, .start, .flash, .ledger, .power, .period, .seals, .mem, .tiles, .coll, .mbx, .flt, .cast, .perf, .sent, .stalled, .stallReq, .free] : List Piece) ⊆ L) (hs : Keeps L σ s) (n : TileIx) (e : BitVec 128) : Keeps L σ (State.dwqPostEntry s n e) := by
  unfold State.dwqPostEntry
  extract_lets s1 s2
  have hs1 : Keeps L σ s1 := by
    unfold s1
    refine ite_keeps ?_ ?_
    · apply State.bump_keeps (List.Subset.trans (by decide) hL)
      apply State.dwqRun_keeps (List.Subset.trans (by decide) hL)
      assumption
    · assumption
  clear_value s1
  have hs2 : Keeps L σ s2 := by
    unfold s2
    apply State.dwqDepth_keeps (List.Subset.trans (by decide) hL)
    apply State.modTile_keeps (List.Subset.trans (by decide) hL)
    · assumption
    · exact fun t ht => TileSt.wf_upd (t := t) rfl rfl ht
  clear_value s2
  refine ite_keeps ?_ ?_
  · apply State.pump_keeps (List.Subset.trans (by decide) hL)
    apply State.set_keeps (List.Subset.trans (by decide) hL)
    assumption
  · assumption

theorem State.tryCmd_keeps {L : List Piece} {σ : State} {s : State} (hL : ([.regs, .start, .flash, .ledger, .power, .period, .seals, .mem, .tiles, .coll, .mbx, .flt, .cast, .perf, .sent, .stalled, .stallReq, .free] : List Piece) ⊆ L) (hs : Keeps L σ s) (w : Waiting) : Keeps L σ (State.tryCmd s w) := by
  unfold State.tryCmd
  split
  · apply State.atSequencer_keeps (List.Subset.trans (by decide) hL)
    · assumption
    · intro s1' hs1'
      beta_reduce
      apply State.dwqPostEntry_keeps (List.Subset.trans (by decide) hL)
      assumption
  · apply State.atSequencer_keeps (List.Subset.trans (by decide) hL)
    · assumption
    · intro s1' hs1'
      beta_reduce
      apply State.dwqDrainNow_keeps (List.Subset.trans (by decide) hL)
      assumption
  · apply State.tryUnit_keeps (List.Subset.trans (by decide) hL)
    assumption

theorem State.retryPass_keeps {L : List Piece} {σ : State} {s : State} (hL : ([.regs, .start, .flash, .ledger, .power, .period, .seals, .mem, .tiles, .coll, .mbx, .flt, .cast, .perf, .sent, .stalled, .stallReq, .free] : List Piece) ⊆ L) (hs : Keeps L σ s) : Keeps L σ (State.retryPass s) := by
  unfold State.retryPass
  refine foldl_keeps _ ?_ _ ?_
  · intro s1' a hs1'
    refine ite_keeps ?_ ?_
    · apply State.tryCmd_keeps (List.Subset.trans (by decide) hL)
      assumption
    · assumption
  · refine Keeps.upd (s := s) hL ?_
    assumption

theorem State.retryLoop_keeps {L : List Piece} {σ : State} {s : State} (hL : ([.regs, .start, .flash, .ledger, .power, .period, .seals, .mem, .tiles, .coll, .mbx, .flt, .cast, .perf, .sent, .stalled, .stallReq, .free] : List Piece) ⊆ L) (k : Nat) (hs : Keeps L σ s) : Keeps L σ (State.retryLoop k s) := by
  induction k generalizing s with
  | zero => exact hs
  | succ k ih =>
    unfold State.retryLoop
    dsimp only
    split
    · exact ih (State.retryPass_keeps (List.Subset.trans (by decide) hL) hs)
    · exact State.retryPass_keeps (List.Subset.trans (by decide) hL) hs

theorem State.retryStalled_keeps {L : List Piece} {σ : State} {s : State} (hL : ([.regs, .start, .flash, .ledger, .power, .period, .seals, .mem, .tiles, .coll, .mbx, .flt, .cast, .perf, .sent, .stalled, .stallReq, .free] : List Piece) ⊆ L) (hs : Keeps L σ s) : Keeps L σ (State.retryStalled s) := by
  unfold State.retryStalled
  refine ite_keeps ?_ ?_
  · assumption
  · extract_lets s1
    have hs1 : Keeps L σ s1 := by
      unfold s1
      apply State.retryLoop_keeps (List.Subset.trans (by decide) hL)
      assumption
    clear_value s1
    apply State.voteIfComplete_keeps (List.Subset.trans (by decide) hL)
    apply State.setDepths_keeps (List.Subset.trans (by decide) hL)
    refine State.forEach_keeps _ ?_ _ ?_
    · intro s1' a hs1'
      apply State.pump_keeps (List.Subset.trans (by decide) hL)
      assumption
    · assumption

theorem State.issue_keeps {L : List Piece} {σ : State} {s : State} (hL : ([.regs, .start, .flash, .ledger, .power, .period, .seals, .mem, .tiles, .coll, .mbx, .flt, .cast, .perf, .sent, .stalled, .stallReq, .free] : List Piece) ⊆ L) (hs : Keeps L σ s) (i : Instr) : Keeps L σ (State.issue s i) := by
  unfold State.issue
  refine ite_keeps ?_ ?_
  · assumption
  · extract_lets t
    have ht : Keeps L σ t := by
      unfold t
      apply State.tryCmd_keeps (List.Subset.trans (by decide) hL)
      assumption
    clear_value t
    refine ite_keeps ?_ ?_
    · apply State.retryStalled_keeps (List.Subset.trans (by decide) hL)
      assumption
    · apply State.setDepths_keeps (List.Subset.trans (by decide) hL)
      assumption

theorem State.settle_keeps {L : List Piece} {σ : State} {s : State} (hL : ([.regs, .start, .flash, .ledger, .power, .period, .seals, .mem, .tiles, .coll, .mbx, .flt, .cast, .perf, .sent, .stalled, .stallReq, .free] : List Piece) ⊆ L) (hs : Keeps L σ s) : Keeps L σ (State.settle s) := by
  unfold State.settle
  apply State.voteIfComplete_keeps (List.Subset.trans (by decide) hL)
  apply State.collPump_keeps (List.Subset.trans (by decide) hL)
  apply State.retryStalled_keeps (List.Subset.trans (by decide) hL)
  assumption

end Sys2Proof.Machine
end

