-- ==== Sys2Proof/Laws/KeepsCasts.lean ====
section
/-! SUPPORT. What the operations of Machine/Casts.lean keep: the queue of commands, what was sent, canonical memories, and the parts of the state
they do not write. -/

namespace Sys2Proof.Machine

set_option Elab.async false

theorem State.freeTaken_keeps {L : List Piece} {σ : State} {s : State} (hL : ([.cast] : List Piece) ⊆ L) (hs : Keeps L σ s) : Keeps L σ (State.freeTaken s) := by
  unfold State.freeTaken
  split
  · assumption
  · extract_lets taken idx free gone src
    apply State.freeStage_keeps (List.Subset.trans (by decide) hL)
    refine Keeps.upd (s := s) hL ?_
    assumption

theorem State.readFrame_keeps {L : List Piece} {σ : State} {s : State} (hL : ([.regs, .start, .flash, .ledger, .power, .period, .seals, .mem, .tiles, .coll, .mbx, .flt, .cast, .sent, .stalled] : List Piece) ⊆ L) (hs : Keeps L σ s) (frame : Nat) : Keeps L σ (State.readFrame s frame).1 := by
  unfold State.readFrame
  refine foldl1_keeps _ ?_ _ ?_
  · intro p a hp
    extract_lets s0
    have hs0 : Keeps L σ s0 := by
      unfold s0
      assumption
    clear_value s0
    split
    · split
      rename_i s1 d bad heq
      have hs1 : Keeps L σ s1 := by
        rw [show s1 = _ from (congrArg Prod.fst heq).symm]
        apply State.readDram_keeps (List.Subset.trans (by decide) hL)
        assumption
      clear heq
      extract_lets nz
      assumption
    · assumption
  · assumption

theorem State.pageTaken_keeps {L : List Piece} {σ : State} {s : State} (hL : ([.regs, .start, .flash, .ledger, .power, .period, .seals, .mem, .tiles, .coll, .mbx, .flt, .cast, .perf, .sent, .stalled, .stallReq, .free] : List Piece) ⊆ L) (hs : Keeps L σ s) (r : CastRun) (t : Tier) (i : Nat) (page : Nat) (frame : Nat) : Keeps L σ (State.pageTaken s r t i page frame) := by
  unfold State.pageTaken
  extract_lets s1 r1 src
  have hs1 : Keeps L σ s1 := by
    unfold s1
    split
    · apply State.flashAccess_keeps (List.Subset.trans (by decide) hL)
      apply State.fence_keeps (List.Subset.trans (by decide) hL)
      assumption
    · apply State.fence_keeps (List.Subset.trans (by decide) hL)
      assumption
  clear_value s1
  split
  rename_i s2 data bad heq
  have hs2 : Keeps L σ s2 := by
    rw [show s2 = _ from (congrArg Prod.fst heq).symm]
    apply State.readFrame_keeps (List.Subset.trans (by decide) hL)
    assumption
  clear heq
  extract_lets r2 src1' s3 s4
  have hs3 : Keeps L σ s3 := by
    unfold s3
    apply State.flagIf_keeps (List.Subset.trans (by decide) hL)
    refine Keeps.upd (s := s2) hL ?_
    assumption
  clear_value s3
  have hs4 : Keeps L σ s4 := by
    unfold s4
    split
    · apply State.send_keeps (List.Subset.trans (by decide) hL)
      assumption
    · assumption
  clear_value s4
  apply State.settle_keeps (List.Subset.trans (by decide) hL)
  apply State.perfEvent_keeps (List.Subset.trans (by decide) hL)
  apply State.freeTaken_keeps (List.Subset.trans (by decide) hL)
  assumption

theorem State.slotBytes_keeps {L : List Piece} {σ : State} {s : State} (hL : ([.regs, .start, .flash, .ledger, .power, .period, .seals, .mem, .tiles, .coll, .mbx, .flt, .cast, .sent, .stalled] : List Piece) ⊆ L) (hs : Keeps L σ s) (i : Nat) (off : Nat) (n : Nat) : Keeps L σ (State.slotBytes s i off n).1 := by
  unfold State.slotBytes
  refine ite1_keeps ?_ ?_
  · split
    · split
      · assumption
      · assumption
    · assumption
  · split
    rename_i s1 d snd heq
    have hs1 : Keeps L σ s1 := by
      rw [show s1 = _ from (congrArg Prod.fst heq).symm]
      apply State.moduleRead_keeps (List.Subset.trans (by decide) hL)
      assumption
    clear heq
    assumption

theorem State.fillWindow_keeps {L : List Piece} {σ : State} {s : State} (hL : ([.regs, .start, .flash, .ledger, .power, .period, .seals, .mem, .tiles, .coll, .mbx, .flt, .cast, .sent, .stalled] : List Piece) ⊆ L) (hs : Keeps L σ s) : Keeps L σ (State.fillWindow s) := by
  unfold State.fillWindow
  extract_lets i n
  split
  rename_i s1 d heq
  have hs1 : Keeps L σ s1 := by
    rw [show s1 = _ from (congrArg Prod.fst heq).symm]
    apply State.slotBytes_keeps (List.Subset.trans (by decide) hL)
    assumption
  clear heq
  extract_lets s2 off src s3
  have hs2 : Keeps L σ s2 := by
    unfold s2
    apply State.send_keeps (List.Subset.trans (by decide) hL)
    assumption
  clear_value s2
  have hs3 : Keeps L σ s3 := by
    unfold s3
    refine Keeps.upd (s := s2) hL ?_
    assumption
  clear_value s3
  apply State.set_keeps (List.Subset.trans (by decide) hL)
  apply State.set_keeps (List.Subset.trans (by decide) hL)
  assumption

theorem State.exportGo_keeps {L : List Piece} {σ : State} {s : State} (hL : ([.regs, .flash, .cast] : List Piece) ⊆ L) (hs : Keeps L σ s) : Keeps L σ (State.exportGo s) := by
  unfold State.exportGo
  extract_lets i
  split
  · refine ite_keeps ?_ ?_
    · extract_lets s1 s2 src
      have hs1 : Keeps L σ s1 := by
        unfold s1
        apply State.setCastSlot_keeps (List.Subset.trans (by decide) hL)
        assumption
      clear_value s1
      have hs2 : Keeps L σ s2 := by
        unfold s2
        apply State.set_keeps (List.Subset.trans (by decide) hL)
        apply State.set_keeps (List.Subset.trans (by decide) hL)
        assumption
      clear_value s2
      refine Keeps.upd (s := s2) hL ?_
      assumption
    · apply State.flag_keeps (List.Subset.trans (by decide) hL)
      assumption
  · apply State.flag_keeps (List.Subset.trans (by decide) hL)
    assumption

theorem State.guestTakes_keeps {L : List Piece} {σ : State} {s : State} (hL : ([.regs, .start, .flash, .ledger, .power, .period, .seals, .mem, .tiles, .coll, .mbx, .flt, .cast, .sent, .stalled] : List Piece) ⊆ L) (hs : Keeps L σ s) (first : Bool) (off : Nat) (bytes : List Byte) : Keeps L σ (State.guestTakes s first off bytes) := by
  unfold State.guestTakes
  extract_lets j cur src s1 src1' s2 s3 c src2'
  have hs1 : Keeps L σ s1 := by
    unfold s1
    refine ite_keeps ?_ ?_
    · apply State.setCastSlot_keeps (List.Subset.trans (by decide) hL)
      assumption
    · assumption
  clear_value s1
  have hs2 : Keeps L σ s2 := by
    unfold s2
    refine Keeps.upd (s := s1) hL ?_
    assumption
  clear_value s2
  have hs3 : Keeps L σ s3 := by
    unfold s3
    apply State.moduleWrite_keeps (List.Subset.trans (by decide) hL)
    assumption
  clear_value s3
  refine ite_keeps ?_ ?_
  · apply State.setCastSlot_keeps (List.Subset.trans (by decide) hL)
    refine Keeps.upd (s := s3) hL ?_
    assumption
  · assumption

theorem State.windowNext_keeps {L : List Piece} {σ : State} {s : State} (hL : ([.regs, .flash, .cast] : List Piece) ⊆ L) (hs : Keeps L σ s) : Keeps L σ (State.windowNext s) := by
  unfold State.windowNext
  refine ite_keeps ?_ ?_
  · assumption
  · extract_lets op s1 s2
    have hs1 : Keeps L σ s1 := by
      unfold s1
      apply State.set_keeps (List.Subset.trans (by decide) hL)
      assumption
    clear_value s1
    have hs2 : Keeps L σ s2 := by
      unfold s2
      split
      · apply State.setCastSlot_keeps (List.Subset.trans (by decide) hL)
        assumption
      · assumption
    clear_value s2
    refine ite_keeps ?_ ?_
    · refine ite_keeps ?_ ?_
      · apply State.flag_keeps (List.Subset.trans (by decide) hL)
        apply State.set_keeps (List.Subset.trans (by decide) hL)
        assumption
      · assumption
    · refine ite_keeps ?_ ?_
      · apply State.bump_keeps (List.Subset.trans (by decide) hL)
        assumption
      · assumption

theorem State.supersede_keeps {L : List Piece} {σ : State} {s : State} (hL : ([.flash, .cast] : List Piece) ⊆ L) (hs : Keeps L σ s) (g : Nat) : Keeps L σ (State.supersede s g) := by
  unfold State.supersede
  extract_lets mark held src s1 src1'
  have hs1 : Keeps L σ s1 := by
    unfold s1
    refine Keeps.upd (s := s) hL ?_
    assumption
  clear_value s1
  refine Keeps.upd (s := s1) hL ?_
  assumption

theorem State.restoreAccept_keeps {L : List Piece} {σ : State} {s : State} (hL : ([.regs, .flash, .ledger, .ladder, .mem, .cast] : List Piece) ⊆ L) (hs : Keeps L σ s) (g : CastImage) (src : Nat) : Keeps L σ (State.restoreAccept s g src) := by
  unfold State.restoreAccept
  extract_lets src1' s1 s2 known log src2' s3 s4 t src3' s5 st
  have hs1 : Keeps L σ s1 := by
    unfold s1
    refine Keeps.upd (s := s) hL ?_
    assumption
  clear_value s1
  have hs2 : Keeps L σ s2 := by
    unfold s2
    apply State.set_keeps (List.Subset.trans (by decide) hL)
    apply State.set_keeps (List.Subset.trans (by decide) hL)
    assumption
  clear_value s2
  have hs3 : Keeps L σ s3 := by
    unfold s3
    refine Keeps.upd (s := s2) hL ?_
    assumption
  clear_value s3
  have hs4 : Keeps L σ s4 := by
    unfold s4
    apply State.supersede_keeps (List.Subset.trans (by decide) hL)
    assumption
  clear_value s4
  have hs5 : Keeps L σ s5 := by
    unfold s5
    refine Keeps.upd (s := s4) hL ?_
    assumption
  clear_value s5
  apply State.writeLedger_keeps (List.Subset.trans (by decide) hL)
  apply State.set_keeps (List.Subset.trans (by decide) hL)
  assumption

theorem State.writePages_keeps {L : List Piece} {σ : State} {s : State} (hL : ([.regs, .start, .flash, .ledger, .power, .period, .seals, .mem, .tiles, .coll, .mbx, .flt, .cast, .sent, .stalled] : List Piece) ⊆ L) (hs : Keeps L σ s) (g : CastImage) : Keeps L σ (State.writePages s g) := by
  unfold State.writePages
  refine State.forEach_keeps _ ?_ _ ?_
  · intro s1' a hs1'
    extract_lets page frame s1
    have hs1 : Keeps L σ s1 := by
      unfold s1
      refine State.forEach_keeps _ ?_ _ ?_
      · intro s2' a1' hs2'
        split
        · extract_lets d k s0
          have hs0 : Keeps L σ s0 := by
            unfold s0
            apply State.memAwake_keeps (List.Subset.trans (by decide) hL)
            assumption
          clear_value s0
          apply State.writeLine_keeps (List.Subset.trans (by decide) hL)
          apply State.setWc_keeps (List.Subset.trans (by decide) hL)
          assumption
        · assumption
      · assumption
    clear_value s1
    apply State.bump_keeps (List.Subset.trans (by decide) hL)
    assumption
  · assumption

theorem State.restoreLost_keeps {L : List Piece} {σ : State} {s : State} (hL : ([.regs, .mem, .free] : List Piece) ⊆ L) (hs : Keeps L σ s) (reason : Nat) : Keeps L σ (State.restoreLost s reason) := by
  unfold State.restoreLost
  apply State.restoreFail_keeps (List.Subset.trans (by decide) hL)
  refine Keeps.upd (s := s) hL ?_
  assumption

theorem State.fetchEnds_keeps {L : List Piece} {σ : State} {s : State} (hL : ([.regs, .start, .flash, .ledger, .power, .period, .seals, .ladder, .mem, .tiles, .coll, .mbx, .flt, .cast, .sent, .stalled, .free] : List Piece) ⊆ L) (hs : Keeps L σ s) (img : Option CastImage) : Keeps L σ (State.fetchEnds s img) := by
  unfold State.fetchEnds
  extract_lets src s0 s1
  have hs0 : Keeps L σ s0 := by
    unfold s0
    refine ite_keeps ?_ ?_
    · apply State.flagIf_keeps (List.Subset.trans (by decide) hL)
      apply State.set_keeps (List.Subset.trans (by decide) hL)
      apply State.set_keeps (List.Subset.trans (by decide) hL)
      assumption
    · assumption
  clear_value s0
  have hs1 : Keeps L σ s1 := by
    unfold s1
    refine ite_keeps ?_ ?_
    · apply State.flag_keeps (List.Subset.trans (by decide) hL)
      assumption
    · refine ite_keeps ?_ ?_
      · apply State.flag_keeps (List.Subset.trans (by decide) hL)
        assumption
      · assumption
  clear_value s1
  split
  · apply State.restoreLost_keeps (List.Subset.trans (by decide) hL)
    assumption
  · extract_lets s11' why
    have hs11' : Keeps L σ s11' := by
      unfold s11'
      apply State.writePages_keeps (List.Subset.trans (by decide) hL)
      assumption
    clear_value s11'
    refine ite_keeps ?_ ?_
    · apply State.restoreAccept_keeps (List.Subset.trans (by decide) hL)
      assumption
    · apply State.restoreLost_keeps (List.Subset.trans (by decide) hL)
      assumption

theorem State.restoreCtl_keeps {L : List Piece} {σ : State} {s : State} (hL : ([.regs] : List Piece) ⊆ L) (hs : Keeps L σ s) (v : Nat) : Keeps L σ (State.restoreCtl s v) := by
  unfold State.restoreCtl
  apply State.setB_keeps (List.Subset.trans (by decide) hL)
  apply State.set_keeps (List.Subset.trans (by decide) hL)
  apply State.set_keeps (List.Subset.trans (by decide) hL)
  assumption

theorem State.restoreGo_keeps {L : List Piece} {σ : State} {s : State} (hL : ([.regs, .start] : List Piece) ⊆ L) (hs : Keeps L σ s) : Keeps L σ (State.restoreGo s) := by
  unfold State.restoreGo
  refine ite_keeps ?_ ?_
  · apply State.set_keeps (List.Subset.trans (by decide) hL)
    apply State.set_keeps (List.Subset.trans (by decide) hL)
    assumption
  · refine ite_keeps ?_ ?_
    · refine Keeps.upd (s := s) hL ?_
      assumption
    · apply State.set_keeps (List.Subset.trans (by decide) hL)
      apply State.set_keeps (List.Subset.trans (by decide) hL)
      assumption

theorem State.slotStored_keeps {L : List Piece} {σ : State} {s : State} (hL : ([.regs, .flash, .cast] : List Piece) ⊆ L) (hs : Keeps L σ s) : Keeps L σ (State.slotStored s) := by
  unfold State.slotStored
  extract_lets i
  split
  · refine ite_keeps ?_ ?_
    · apply State.markSecured_keeps (List.Subset.trans (by decide) hL)
      apply State.setCastSlot_keeps (List.Subset.trans (by decide) hL)
      assumption
    · apply State.flag_keeps (List.Subset.trans (by decide) hL)
      assumption
  · apply State.flag_keeps (List.Subset.trans (by decide) hL)
    assumption

end Sys2Proof.Machine
end

