-- ==== Sys2Proof/Laws/KeepsFaults.lean ====
section
/-! SUPPORT. What the operations of Machine/Faults.lean keep: the queue of commands, what was sent, canonical memories, and the parts of the state
they do not write. -/

namespace Sys2Proof.Machine

set_option Elab.async false

theorem State.sramMark_keeps {L : List Piece} {σ : State} {s : State} (hL : ([.tiles] : List Piece) ⊆ L) (hs : Keeps L σ s) (e : PostedError) : Keeps L σ (State.sramMark s e) := by
  unfold State.sramMark
  refine ite_keeps ?_ ?_
  · assumption
  · split
    · refine ite_keeps ?_ ?_
      · assumption
      · apply State.modTile_keeps (List.Subset.trans (by decide) hL)
        · assumption
        · intro t ht
          simp only [TileSt.wf, Bool.and_eq_true] at ht ⊢
          exact ⟨ht.1, NatSet.add_sorted ht.2⟩
    · assumption

theorem State.perfUnit_keeps {L : List Piece} {σ : State} {s : State} (hL : ([.regs, .perf] : List Piece) ⊆ L) (hs : Keeps L σ s) (cls : Nat) (index : Nat) (code : Nat) (n : Nat) : Keeps L σ (State.perfUnit s cls index code n) := by
  unfold State.perfUnit
  refine ite_keeps ?_ ?_
  · apply State.perfEvent_keeps (List.Subset.trans (by decide) hL)
    assumption
  · refine ite_keeps ?_ ?_
    · apply State.perfEvent_keeps (List.Subset.trans (by decide) hL)
      assumption
    · refine ite_keeps ?_ ?_
      · apply State.perfEvent_keeps (List.Subset.trans (by decide) hL)
        assumption
      · assumption

theorem State.postError_keeps {L : List Piece} {σ : State} {s : State} (hL : ([.regs, .start, .flash, .ledger, .power, .period, .seals, .ladder, .mem, .tiles, .coll, .mbx, .flt, .cast, .perf, .sent, .stalled, .stallReq, .free] : List Piece) ⊆ L) (hs : Keeps L σ s) (e : PostedError) : Keeps L σ (State.postError s e) := by
  unfold State.postError
  extract_lets flags s1 src s2
  have hs1 : Keeps L σ s1 := by
    unfold s1
    apply State.postFull_keeps (List.Subset.trans (by decide) hL)
    assumption
  clear_value s1
  have hs2 : Keeps L σ s2 := by
    unfold s2
    refine ite_keeps ?_ ?_
    · apply State.perfUnit_keeps (List.Subset.trans (by decide) hL)
      refine Keeps.upd (s := s1) hL ?_
      assumption
    · assumption
  clear_value s2
  apply State.coreFault_keeps (List.Subset.trans (by decide) hL)
  apply State.sramMark_keeps (List.Subset.trans (by decide) hL)
  assumption

end Sys2Proof.Machine
end

