-- ==== Sys2Proof/Laws/KeepsHostOps.lean ====
section
/-! SUPPORT. What the operations of Machine/HostOps.lean keep: the queue of commands, what was sent, canonical memories, and the parts of the state
they do not write. -/

namespace Sys2Proof.Machine

set_option Elab.async false

theorem State.returnBias_keeps {L : List Piece} {σ : State} {s : State} (hL : ([.regs, .start, .flash, .ledger, .power, .period, .seals, .mem, .tiles, .coll, .mbx, .flt, .cast, .perf, .sent, .stalled, .stallReq, .free] : List Piece) ⊆ L) (hs : Keeps L σ s) (gone : Nat → Bool) : Keeps L σ (State.returnBias s gone) := by
  unfold State.returnBias
  extract_lets l src s1
  have hs1 : Keeps L σ s1 := by
    unfold s1
    apply State.set_keeps (List.Subset.trans (by decide) hL)
    refine Keeps.upd (s := s) hL ?_
    assumption
  clear_value s1
  apply State.settle_keeps (List.Subset.trans (by decide) hL)
  apply State.outResume_keeps (List.Subset.trans (by decide) hL)
  apply State.heldWrites_keeps (List.Subset.trans (by decide) hL)
  assumption

theorem State.releaseBuf_keeps {L : List Piece} {σ : State} {s : State} (hL : ([.regs, .start, .flash, .ledger, .power, .period, .seals, .mem, .tiles, .coll, .mbx, .flt, .cast, .perf, .sent, .stalled, .stallReq, .free] : List Piece) ⊆ L) (hs : Keeps L σ s) (b : Nat) : Keeps L σ (State.releaseBuf s b) := by
  unfold State.releaseBuf
  extract_lets f r
  refine ite_keeps ?_ ?_
  · assumption
  · apply State.returnBias_keeps (List.Subset.trans (by decide) hL)
    apply State.set_keeps (List.Subset.trans (by decide) hL)
    assumption

theorem State.resetFn0_keeps {L : List Piece} {σ : State} {s : State} (hL : ([.regs, .period] : List Piece) ⊆ L) (hs : Keeps L σ s) : Keeps L σ (State.resetFn0 s) := by
  unfold State.resetFn0
  extract_lets s1
  have hs1 : Keeps L σ s1 := by
    unfold s1
    refine State.forEach_keeps _ ?_ _ ?_
    · intro s1' a hs1'
      extract_lets t src
      have ht : Keeps L σ t := by
        unfold t
        apply State.wr_keeps (List.Subset.trans (by decide) hL)
        apply State.wr_keeps (List.Subset.trans (by decide) hL)
        apply State.wr_keeps (List.Subset.trans (by decide) hL)
        apply State.wr_keeps (List.Subset.trans (by decide) hL)
        assumption
      clear_value t
      apply State.setRing_keeps (List.Subset.trans (by decide) hL)
      assumption
    · assumption
  clear_value s1
  apply State.set_keeps (List.Subset.trans (by decide) hL)
  assumption

end Sys2Proof.Machine
end

