-- ==== Sys2Proof/Laws/KeepsMemory.lean ====
section
/-! SUPPORT. What the operations of Machine/Memory.lean keep: the queue of commands, what was sent, canonical memories, and the parts of the state
they do not write. -/

namespace Sys2Proof.Machine

set_option Elab.async false

theorem State.migrationDone_keeps {L : List Piece} {σ : State} {s : State} (hL : ([.regs, .start, .ledger, .sent] : List Piece) ⊆ L) (hs : Keeps L σ s) : Keeps L σ (State.migrationDone s) := by
  unfold State.migrationDone
  extract_lets src dst slot s1 s2
  have hs1 : Keeps L σ s1 := by
    unfold s1
    refine Keeps.upd (s := s) hL ?_
    assumption
  clear_value s1
  have hs2 : Keeps L σ s2 := by
    unfold s2
    apply State.stopMigration_keeps (List.Subset.trans (by decide) hL)
    apply State.set_keeps (List.Subset.trans (by decide) hL)
    apply State.set_keeps (List.Subset.trans (by decide) hL)
    assumption
  clear_value s2
  apply State.cause_keeps (List.Subset.trans (by decide) hL)
  assumption

theorem State.lineErrors_keeps {L : List Piece} {σ : State} {s : State} (hL : ([.regs, .start, .flash, .ledger, .power, .period, .seals, .mem, .tiles, .coll, .mbx, .flt, .cast, .sent, .stalled] : List Piece) ⊆ L) (hs : Keeps L σ s) (ch : Nat) (line : Nat) (errs : Nat) (reread : Nat) (scrub : Bool) : Keeps L σ (State.lineErrors s ch line errs reread scrub) := by
  unfold State.lineErrors
  extract_lets pl src s1 a
  have hs1 : Keeps L σ s1 := by
    unfold s1
    refine Keeps.upd (s := s) hL ?_
    assumption
  clear_value s1
  apply State.meetErrors_keeps (List.Subset.trans (by decide) hL)
  assumption

theorem State.threshFails_keeps {L : List Piece} {σ : State} {s : State} (hL : ([.regs, .start, .flash, .ledger, .power, .period, .seals, .mem, .tiles, .coll, .mbx, .flt, .cast, .sent, .stalled] : List Piece) ⊆ L) (hs : Keeps L σ s) : Keeps L σ (State.threshFails s) := by
  unfold State.threshFails
  apply State.drainMigrations_keeps (List.Subset.trans (by decide) hL)
  refine State.forEach_keeps _ ?_ _ ?_
  · intro s1' a hs1'
    apply State.channelFails_keeps (List.Subset.trans (by decide) hL)
    assumption
  · assumption

theorem State.migCtl_keeps {L : List Piece} {σ : State} {s : State} (hL : ([.regs, .start, .flash, .ledger, .power, .period, .seals, .mem, .tiles, .coll, .mbx, .flt, .cast, .sent, .stalled] : List Piece) ⊆ L) (hs : Keeps L σ s) (v : Nat) : Keeps L σ (State.migCtl s v) := by
  unfold State.migCtl
  apply State.threshFails_keeps (List.Subset.trans (by decide) hL)
  apply State.set_keeps (List.Subset.trans (by decide) hL)
  apply State.set_keeps (List.Subset.trans (by decide) hL)
  apply State.set_keeps (List.Subset.trans (by decide) hL)
  apply State.set_keeps (List.Subset.trans (by decide) hL)
  assumption

theorem State.migRequest_keeps {L : List Piece} {σ : State} {s : State} (hL : ([.regs, .start, .flash, .ledger, .power, .period, .seals, .mem, .tiles, .coll, .mbx, .flt, .cast, .sent, .stalled] : List Piece) ⊆ L) (hs : Keeps L σ s) : Keeps L σ (State.migRequest s) := by
  unfold State.migRequest
  extract_lets c ch
  refine ite_keeps ?_ ?_
  · apply State.drainMigrations_keeps (List.Subset.trans (by decide) hL)
    apply State.channelFails_keeps (List.Subset.trans (by decide) hL)
    assumption
  · apply State.flag_keeps (List.Subset.trans (by decide) hL)
    assumption

end Sys2Proof.Machine
end

