-- ==== Sys2Proof/Laws/KeepsPerf.lean ====
section
/-! SUPPORT. What the operations of Machine/Perf.lean keep: the queue of commands, what was sent, canonical memories, and the parts of the state
they do not write. -/

namespace Sys2Proof.Machine

set_option Elab.async false

theorem State.clearBlock_keeps {L : List Piece} {σ : State} {s : State} (hL : ([.regs, .perf] : List Piece) ⊆ L) (hs : Keeps L σ s) (b : Nat) : Keeps L σ (State.clearBlock s b) := by
  unfold State.clearBlock
  refine State.forEach_keeps _ ?_ _ ?_
  · intro s1' a hs1'
    extract_lets t src
    have ht : Keeps L σ t := by
      unfold t
      apply State.set_keeps (List.Subset.trans (by decide) hL)
      assumption
    clear_value t
    refine Keeps.upd (s := t) hL ?_
    assumption
  · assumption

theorem State.dumpEvery_keeps {L : List Piece} {σ : State} {s : State} (hL : ([.regs, .perf] : List Piece) ⊆ L) (hs : Keeps L σ s) : Keeps L σ (State.dumpEvery s) := by
  unfold State.dumpEvery
  refine State.forEach_keeps _ ?_ _ ?_
  · intro s1' a hs1'
    apply State.dump_keeps (List.Subset.trans (by decide) hL)
    assumption
  · assumption

theorem State.dropRecord_keeps {L : List Piece} {σ : State} {s : State} (hL : ([.perf] : List Piece) ⊆ L) (hs : Keeps L σ s) (r : List Byte) : Keeps L σ (State.dropRecord s r) := by
  unfold State.dropRecord
  extract_lets b src
  split
  · refine Keeps.upd (s := s) hL ?_
    assumption
  · refine Keeps.upd (s := s) hL ?_
    assumption

theorem State.writeSel_keeps {L : List Piece} {σ : State} {s : State} (hL : ([.regs, .perf] : List Piece) ⊆ L) (hs : Keeps L σ s) (b : Nat) (i : Nat) (v : Nat) : Keeps L σ (State.writeSel s b i v) := by
  unfold State.writeSel
  extract_lets s1 s2 s3 src
  have hs1 : Keeps L σ s1 := by
    unfold s1
    apply State.set_keeps (List.Subset.trans (by decide) hL)
    apply State.set_keeps (List.Subset.trans (by decide) hL)
    assumption
  clear_value s1
  have hs2 : Keeps L σ s2 := by
    unfold s2
    apply State.set_keeps (List.Subset.trans (by decide) hL)
    apply State.set_keeps (List.Subset.trans (by decide) hL)
    apply State.set_keeps (List.Subset.trans (by decide) hL)
    assumption
  clear_value s2
  have hs3 : Keeps L σ s3 := by
    unfold s3
    apply State.setB_keeps (List.Subset.trans (by decide) hL)
    assumption
  clear_value s3
  refine Keeps.upd (s := s3) hL ?_
  assumption

end Sys2Proof.Machine
end

