-- ==== Sys2Proof/Laws/KeepsPower.lean ====
section
/-! SUPPORT. What the operations of Machine/Power.lean keep: the queue of commands, what was sent, canonical memories, and the parts of the state
they do not write. -/

namespace Sys2Proof.Machine

set_option Elab.async false

theorem State.requestDom_keeps {L : List Piece} {σ : State} {s : State} (hL : ([.regs, .power] : List Piece) ⊆ L) (hs : Keeps L σ s) (d : DomIx) (st : PState) : Keeps L σ (State.requestDom s d st) := by
  unfold State.requestDom
  refine ite_keeps ?_ ?_
  · assumption
  · extract_lets s1
    have hs1 : Keeps L σ s1 := by
      unfold s1
      apply State.setDomReq_keeps (List.Subset.trans (by decide) hL)
      assumption
    clear_value s1
    split
    · apply State.wake_keeps (List.Subset.trans (by decide) hL)
      assumption
    · apply State.set_keeps (List.Subset.trans (by decide) hL)
      apply State.setDom_keeps (List.Subset.trans (by decide) hL)
      apply State.stopWaking_keeps (List.Subset.trans (by decide) hL)
      assumption
    · apply State.setDom_keeps (List.Subset.trans (by decide) hL)
      apply State.stopWaking_keeps (List.Subset.trans (by decide) hL)
      assumption

theorem State.overBase_keeps {L : List Piece} {σ : State} {s : State} (hL : ([.regs, .start, .flash, .ledger, .power, .period, .seals, .mem, .tiles, .coll, .mbx, .flt, .cast, .sent, .stalled] : List Piece) ⊆ L) (hs : Keeps L σ s) : Keeps L σ (State.overBase s) := by
  unfold State.overBase
  extract_lets s1 src
  have hs1 : Keeps L σ s1 := by
    unfold s1
    apply State.flag_keeps (List.Subset.trans (by decide) hL)
    assumption
  clear_value s1
  refine ite_keeps ?_ ?_
  · assumption
  · apply State.post_keeps (List.Subset.trans (by decide) hL)
    refine Keeps.upd (s := s1) hL ?_
    assumption

theorem State.measure_keeps {L : List Piece} {σ : State} {s : State} (hL : ([.regs, .start, .ledger, .power, .flt, .sent] : List Piece) ⊆ L) (hs : Keeps L σ s) (inp : IntervalIn) : Keeps L σ (State.measure s inp) := by
  unfold State.measure
  extract_lets jt dt s1 s2 s3 s4 s5 src src1' s6 l tb vb src2'
  have hs1 : Keeps L σ s1 := by
    unfold s1
    apply State.set_keeps (List.Subset.trans (by decide) hL)
    apply State.set_keeps (List.Subset.trans (by decide) hL)
    apply State.set_keeps (List.Subset.trans (by decide) hL)
    assumption
  clear_value s1
  have hs2 : Keeps L σ s2 := by
    unfold s2
    apply State.set_keeps (List.Subset.trans (by decide) hL)
    apply State.set_keeps (List.Subset.trans (by decide) hL)
    assumption
  clear_value s2
  have hs3 : Keeps L σ s3 := by
    unfold s3
    apply State.set_keeps (List.Subset.trans (by decide) hL)
    apply State.set_keeps (List.Subset.trans (by decide) hL)
    assumption
  clear_value s3
  have hs4 : Keeps L σ s4 := by
    unfold s4
    apply State.set_keeps (List.Subset.trans (by decide) hL)
    assumption
  clear_value s4
  have hs5 : Keeps L σ s5 := by
    unfold s5
    refine ite_keeps ?_ ?_
    · apply State.cause_keeps (List.Subset.trans (by decide) hL)
      assumption
    · assumption
  clear_value s5
  have hsrc : Keeps L σ src := by
    unfold src
    apply State.cause_keeps (List.Subset.trans (by decide) hL)
    apply State.bump_keeps (List.Subset.trans (by decide) hL)
    assumption
  clear_value src
  have hs6 : Keeps L σ s6 := by
    unfold s6
    refine ite_keeps ?_ ?_
    · refine Keeps.upd (s := src) hL ?_
      assumption
    · assumption
  clear_value s6
  refine Keeps.upd (s := s6) hL ?_
  assumption

theorem State.refreshRates_keeps {L : List Piece} {σ : State} {s : State} (hL : ([.regs] : List Piece) ⊆ L) (hs : Keeps L σ s) (inp : IntervalIn) : Keeps L σ (State.refreshRates s inp) := by
  unfold State.refreshRates
  refine ite_keeps ?_ ?_
  · assumption
  · refine State.forEach_keeps _ ?_ _ ?_
    · intro s1' a hs1'
      apply State.setB_keeps (List.Subset.trans (by decide) hL)
      assumption
    · assumption

theorem State.publishGrants_keeps {L : List Piece} {σ : State} {s : State} (hL : ([.regs, .power] : List Piece) ⊆ L) (hs : Keeps L σ s) (inp : IntervalIn) (g : List Nat) : Keeps L σ (State.publishGrants s inp g) := by
  unfold State.publishGrants
  extract_lets jw dw s1 dry src
  have hs1 : Keeps L σ s1 := by
    unfold s1
    refine State.forEach_keeps _ ?_ _ ?_
    · intro s1' a hs1'
      apply State.set_keeps (List.Subset.trans (by decide) hL)
      apply State.set_keeps (List.Subset.trans (by decide) hL)
      apply State.set_keeps (List.Subset.trans (by decide) hL)
      assumption
    · assumption
  clear_value s1
  refine Keeps.upd (s := s1) hL ?_
  assumption

theorem State.accounts_keeps {L : List Piece} {σ : State} {s : State} (hL : ([.regs, .power] : List Piece) ⊆ L) (hs : Keeps L σ s) (g : Nat) : Keeps L σ (State.accounts s g) := by
  unfold State.accounts
  extract_lets l src s1
  have hs1 : Keeps L σ s1 := by
    unfold s1
    refine Keeps.upd (s := s) hL ?_
    assumption
  clear_value s1
  refine ite_keeps ?_ ?_
  · apply State.bump_keeps (List.Subset.trans (by decide) hL)
    apply State.setCredit_keeps (List.Subset.trans (by decide) hL)
    assumption
  · apply State.set_keeps (List.Subset.trans (by decide) hL)
    apply State.setCredit_keeps (List.Subset.trans (by decide) hL)
    assumption

theorem State.formGrants_keeps {L : List Piece} {σ : State} {s : State} (hL : ([.regs, .power] : List Piece) ⊆ L) (hs : Keeps L σ s) (inp : IntervalIn) : Keeps L σ (State.formGrants s inp) := by
  unfold State.formGrants
  extract_lets burst jw dw cap g dyn asked s1 s2 s3 s4 src
  have hs1 : Keeps L σ s1 := by
    unfold s1
    apply State.accounts_keeps (List.Subset.trans (by decide) hL)
    apply State.publishGrants_keeps (List.Subset.trans (by decide) hL)
    assumption
  clear_value s1
  have hs2 : Keeps L σ s2 := by
    unfold s2
    apply State.set_keeps (List.Subset.trans (by decide) hL)
    apply State.set_keeps (List.Subset.trans (by decide) hL)
    apply State.set_keeps (List.Subset.trans (by decide) hL)
    assumption
  clear_value s2
  have hs3 : Keeps L σ s3 := by
    unfold s3
    apply State.setB_keeps (List.Subset.trans (by decide) hL)
    apply State.set_keeps (List.Subset.trans (by decide) hL)
    assumption
  clear_value s3
  have hs4 : Keeps L σ s4 := by
    unfold s4
    apply State.flagIf_keeps (List.Subset.trans (by decide) hL)
    assumption
  clear_value s4
  refine Keeps.upd (s := s4) hL ?_
  assumption

theorem State.takeLimit_keeps {L : List Piece} {σ : State} {s : State} (hL : ([.regs, .power] : List Piece) ⊆ L) (hs : Keeps L σ s) : Keeps L σ (State.takeLimit s) := by
  unfold State.takeLimit
  extract_lets l src s1
  have hs1 : Keeps L σ s1 := by
    unfold s1
    refine Keeps.upd (s := s) hL ?_
    assumption
  clear_value s1
  refine ite_keeps ?_ ?_
  · assumption
  · refine ite_keeps ?_ ?_
    · apply State.setCredit_keeps (List.Subset.trans (by decide) hL)
      assumption
    · assumption

theorem State.brakeSeen_keeps {L : List Piece} {σ : State} {s : State} (hL : ([.regs, .start, .power, .sent] : List Piece) ⊆ L) (hs : Keeps L σ s) : Keeps L σ (State.brakeSeen s) := by
  unfold State.brakeSeen
  extract_lets low s1
  have hs1 : Keeps L σ s1 := by
    unfold s1
    refine ite_keeps ?_ ?_
    · apply State.brakeItems_keeps (List.Subset.trans (by decide) hL)
      apply State.cause_keeps (List.Subset.trans (by decide) hL)
      assumption
    · assumption
  clear_value s1
  apply State.setB_keeps (List.Subset.trans (by decide) hL)
  assumption

theorem State.writeLimit_keeps {L : List Piece} {σ : State} {s : State} (hL : ([.regs] : List Piece) ⊆ L) (hs : Keeps L σ s) (w : Nat) : Keeps L σ (State.writeLimit s w) := by
  unfold State.writeLimit
  extract_lets c
  apply State.flagIf_keeps (List.Subset.trans (by decide) hL)
  apply State.set_keeps (List.Subset.trans (by decide) hL)
  assumption

end Sys2Proof.Machine
end

