-- ==== Sys2Proof/Laws/KeepsHostRegs.lean ====
section
/-! SUPPORT. What the operations of Machine/HostRegs.lean keep: the queue of commands, what was sent, canonical memories, and the parts of the state
they do not write. -/

namespace Sys2Proof.Machine

set_option Elab.async false

theorem State.castHostBits_keeps {L : List Piece} {σ : State} {s : State} (hL : ([.regs, .flash, .cast] : List Piece) ⊆ L) (hs : Keeps L σ s) (v : Nat) (m : Nat) : Keeps L σ (State.castHostBits s v m) := by
  unfold State.castHostBits
  refine ite_keeps ?_ ?_
  · assumption
  · extract_lets s1 s2
    have hs1 : Keeps L σ s1 := by
      unfold s1
      refine ite_keeps ?_ ?_
      · apply State.exportGo_keeps (List.Subset.trans (by decide) hL)
        assumption
      · assumption
    clear_value s1
    have hs2 : Keeps L σ s2 := by
      unfold s2
      refine ite_keeps ?_ ?_
      · apply State.windowNext_keeps (List.Subset.trans (by decide) hL)
        assumption
      · assumption
    clear_value s2
    refine ite_keeps ?_ ?_
    · apply State.slotStored_keeps (List.Subset.trans (by decide) hL)
      assumption
    · assumption

theorem State.castArm_keeps {L : List Piece} {σ : State} {s : State} (hL : ([.regs, .cast] : List Piece) ⊆ L) (hs : Keeps L σ s) (req : Bool) : Keeps L σ (State.castArm s req) := by
  unfold State.castArm
  extract_lets s1
  have hs1 : Keeps L σ s1 := by
    unfold s1
    refine ite_keeps ?_ ?_
    · apply State.set_keeps (List.Subset.trans (by decide) hL)
      assumption
    · assumption
  clear_value s1
  refine ite_keeps ?_ ?_
  · apply State.castTrigger_keeps (List.Subset.trans (by decide) hL)
    assumption
  · assumption

theorem State.ringEnable_keeps {L : List Piece} {σ : State} {s : State} (hL : ([.regs, .period] : List Piece) ⊆ L) (hs : Keeps L σ s) (r : Nat) (was : Bool) : Keeps L σ (State.ringEnable s r was) := by
  unfold State.ringEnable
  refine ite_keeps ?_ ?_
  · assumption
  · extract_lets s1
    have hs1 : Keeps L σ s1 := by
      unfold s1
      apply State.set_keeps (List.Subset.trans (by decide) hL)
      assumption
    clear_value s1
    refine ite_keeps ?_ ?_
    · split
      · apply State.setRing_keeps (List.Subset.trans (by decide) hL)
        assumption
      · assumption
    · apply State.set_keeps (List.Subset.trans (by decide) hL)
      assumption

theorem State.returnBits_keeps {L : List Piece} {σ : State} {s : State} (hL : ([.regs, .start, .flash, .ledger, .power, .period, .seals, .mem, .tiles, .coll, .mbx, .flt, .cast, .perf, .sent, .stalled, .stallReq, .free] : List Piece) ⊆ L) (hs : Keeps L σ s) (v : Nat) (m : Nat) : Keeps L σ (State.returnBits s v m) := by
  unfold State.returnBits
  extract_lets g s1
  have hs1 : Keeps L σ s1 := by
    unfold s1
    refine ite_keeps ?_ ?_
    · apply State.returnBias_keeps (List.Subset.trans (by decide) hL)
      assumption
    · assumption
  clear_value s1
  refine ite_keeps ?_ ?_
  · apply State.returnBias_keeps (List.Subset.trans (by decide) hL)
    assumption
  · assumption

theorem State.releaseBits_keeps {L : List Piece} {σ : State} {s : State} (hL : ([.regs, .start, .flash, .ledger, .power, .period, .seals, .mem, .tiles, .coll, .mbx, .flt, .cast, .perf, .sent, .stalled, .stallReq, .free] : List Piece) ⊆ L) (hs : Keeps L σ s) (v : Nat) (m : Nat) : Keeps L σ (State.releaseBits s v m) := by
  unfold State.releaseBits
  extract_lets s1
  have hs1 : Keeps L σ s1 := by
    unfold s1
    refine ite_keeps ?_ ?_
    · apply State.releaseBuf_keeps (List.Subset.trans (by decide) hL)
      assumption
    · assumption
  clear_value s1
  refine ite_keeps ?_ ?_
  · apply State.releaseBuf_keeps (List.Subset.trans (by decide) hL)
    assumption
  · assumption

theorem State.regAction_keeps {L : List Piece} {σ : State} {s : State} (hL : ([.regs, .start, .flash, .ledger, .power, .period, .seals, .mem, .tiles, .coll, .mbx, .flt, .cast, .perf, .sent, .stalled, .stallReq, .free] : List Piece) ⊆ L) (hs : Keeps L σ s) (o : Nat) (v : Nat) (m : Nat) (old : U64) : Keeps L σ (State.regAction s o v m old) := by
  unfold State.regAction
  refine ite_keeps ?_ ?_
  · refine ite_keeps ?_ ?_
    · apply State.writeLimit_keeps (List.Subset.trans (by decide) hL)
      assumption
    · assumption
  · refine ite_keeps ?_ ?_
    · apply State.releaseBits_keeps (List.Subset.trans (by decide) hL)
      assumption
    · refine ite_keeps ?_ ?_
      · apply State.returnBits_keeps (List.Subset.trans (by decide) hL)
        assumption
      · refine ite_keeps ?_ ?_
        · apply State.ringEnable_keeps (List.Subset.trans (by decide) hL)
          assumption
        · refine ite_keeps ?_ ?_
          · refine ite_keeps ?_ ?_
            · assumption
            · refine ite_keeps ?_ ?_
              · apply State.migRequest_keeps (List.Subset.trans (by decide) hL)
                apply State.threshFails_keeps (List.Subset.trans (by decide) hL)
                assumption
              · apply State.threshFails_keeps (List.Subset.trans (by decide) hL)
                assumption
          · refine ite_keeps ?_ ?_
            · apply State.castArm_keeps (List.Subset.trans (by decide) hL)
              assumption
            · refine ite_keeps ?_ ?_
              · refine ite_keeps ?_ ?_
                · apply State.restoreGo_keeps (List.Subset.trans (by decide) hL)
                  assumption
                · assumption
              · refine ite_keeps ?_ ?_
                · apply State.castHostBits_keeps (List.Subset.trans (by decide) hL)
                  assumption
                · refine ite_keeps ?_ ?_
                  · refine ite_keeps ?_ ?_
                    · apply State.dumpEvery_keeps (List.Subset.trans (by decide) hL)
                      assumption
                    · assumption
                  · refine ite_keeps ?_ ?_
                    · extract_lets b
                      refine ite_keeps ?_ ?_
                      · refine ite_keeps ?_ ?_
                        · apply State.clearBlock_keeps (List.Subset.trans (by decide) hL)
                          assumption
                        · assumption
                      · refine ite_keeps ?_ ?_
                        · apply State.writeSel_keeps (List.Subset.trans (by decide) hL)
                          assumption
                        · assumption
                    · assumption

theorem State.writeReg_keeps {L : List Piece} {σ : State} {s : State} (hL : ([.regs, .start, .flash, .ledger, .power, .period, .seals, .mem, .tiles, .coll, .mbx, .flt, .cast, .perf, .sent, .stalled, .stallReq, .free] : List Piece) ⊆ L) (hs : Keeps L σ s) (o : Nat) (v : Nat) (m : Nat) : Keeps L σ (State.writeReg s o v m) := by
  unfold State.writeReg
  split
  · assumption
  · apply State.regAction_keeps (List.Subset.trans (by decide) hL)
    apply State.wr_keeps (List.Subset.trans (by decide) hL)
    assumption

theorem State.mbxWriteReg_keeps {L : List Piece} {σ : State} {s : State} (hL : ([.regs, .start, .power, .mbx, .flt, .sent] : List Piece) ⊆ L) (hs : Keeps L σ s) (c : Nat) (o : Nat) (v : Nat) (m : Nat) : Keeps L σ (State.mbxWriteReg s c o v m) := by
  unfold State.mbxWriteReg
  split
  · assumption
  · split
    · extract_lets old
      apply State.mailWrite_keeps (List.Subset.trans (by decide) hL)
      assumption
    · refine ite_keeps ?_ ?_
      · extract_lets s1 s2
        have hs1 : Keeps L σ s1 := by
          unfold s1
          refine ite_keeps ?_ ?_
          · apply State.empty_keeps (List.Subset.trans (by decide) hL)
            assumption
          · assumption
        clear_value s1
        have hs2 : Keeps L σ s2 := by
          unfold s2
          refine ite_keeps ?_ ?_
          · apply State.empty_keeps (List.Subset.trans (by decide) hL)
            assumption
          · assumption
        clear_value s2
        refine ite_keeps ?_ ?_
        · apply State.ringBell_keeps (List.Subset.trans (by decide) hL)
          assumption
        · assumption
      · refine ite_keeps ?_ ?_
        · extract_lets x w src
          apply State.setChan_keeps (List.Subset.trans (by decide) hL)
          assumption
        · assumption

theorem State.busWrite_keeps {L : List Piece} {σ : State} {s : State} (hL : ([.regs, .start, .flash, .ledger, .power, .period, .seals, .mem, .tiles, .coll, .mbx, .flt, .cast, .perf, .sent, .stalled, .stallReq, .free] : List Piece) ⊆ L) (hs : Keeps L σ s) (fn1 : Bool) (off : Nat) (half : Bool) (value : U64) : Keeps L σ (State.busWrite s fn1 off half value) := by
  unfold State.busWrite
  extract_lets v m o
  refine ite_keeps ?_ ?_
  · assumption
  · split
    · apply State.mbxWriteReg_keeps (List.Subset.trans (by decide) hL)
      assumption
    · apply State.msixWrite_keeps (List.Subset.trans (by decide) hL)
      assumption
    · refine ite_keeps ?_ ?_
      · apply State.writeReg_keeps (List.Subset.trans (by decide) hL)
        assumption
      · assumption

end Sys2Proof.Machine
end

