-- ==== Sys2Proof/Laws/KeepsIdentity.lean ====
section
/-! SUPPORT. What the operations of Machine/Identity.lean keep: the queue of commands, what was sent, canonical memories, and the parts of the state
they do not write. -/

namespace Sys2Proof.Machine

set_option Elab.async false

theorem State.doe1_keeps {L : List Piece} {σ : State} {s : State} (hL : ([.start, .sent] : List Piece) ⊆ L) (hs : Keeps L σ s) (object : String) (status : Nat) (payload : List Nat) : Keeps L σ (State.doe1 s object status payload) := by
  unfold State.doe1
  apply State.msi_keeps (List.Subset.trans (by decide) hL)
  apply State.send_keeps (List.Subset.trans (by decide) hL)
  assumption

theorem State.answer_keeps {L : List Piece} {σ : State} {s : State} (hL : ([.start, .sent] : List Piece) ⊆ L) (hs : Keeps L σ s) (object : Nat) (part : Nat) (status : Nat) (payload : List Byte) : Keeps L σ (State.answer s object part status payload) := by
  unfold State.answer
  apply State.msi_keeps (List.Subset.trans (by decide) hL)
  apply State.send_keeps (List.Subset.trans (by decide) hL)
  assumption

theorem State.answerFn0_keeps {L : List Piece} {σ : State} {s : State} (hL : ([.sent] : List Piece) ⊆ L) (hs : Keeps L σ s) (object : Nat) : Keeps L σ (State.answerFn0 s object) := by
  unfold State.answerFn0
  apply State.send_keeps (List.Subset.trans (by decide) hL)
  assumption

theorem State.stage_keeps {L : List Piece} {σ : State} {s : State} (hL : ([.regs, .start, .flash, .sent] : List Piece) ⊆ L) (hs : Keeps L σ s) (part : Nat) (img : WaybillImage) : Keeps L σ (State.stage s part img) := by
  unfold State.stage
  extract_lets r src s1 src1'
  have hs1 : Keeps L σ s1 := by
    unfold s1
    refine Keeps.upd (s := s) hL ?_
    assumption
  clear_value s1
  refine ite_keeps ?_ ?_
  · apply State.answer_keeps (List.Subset.trans (by decide) hL)
    apply State.set_keeps (List.Subset.trans (by decide) hL)
    apply State.putBoot_keeps (List.Subset.trans (by decide) hL)
    assumption
  · apply State.answer_keeps (List.Subset.trans (by decide) hL)
    apply State.flag_keeps (List.Subset.trans (by decide) hL)
    assumption

theorem State.clearStaging_keeps {L : List Piece} {σ : State} {s : State} (hL : ([.regs, .flash] : List Piece) ⊆ L) (hs : Keeps L σ s) : Keeps L σ (State.clearStaging s) := by
  unfold State.clearStaging
  extract_lets src s1 src1'
  have hs1 : Keeps L σ s1 := by
    unfold s1
    refine Keeps.upd (s := s) hL ?_
    assumption
  clear_value s1
  apply State.set_keeps (List.Subset.trans (by decide) hL)
  apply State.putBoot_keeps (List.Subset.trans (by decide) hL)
  assumption

end Sys2Proof.Machine
end

