-- ==== Sys2Proof/Laws/KeepsLinks.lean ====
section
/-! SUPPORT. What the operations of Machine/Links.lean keep: the queue of commands, what was sent, canonical memories, and the parts of the state
they do not write. -/

namespace Sys2Proof.Machine

set_option Elab.async false

theorem State.sendProbes_keeps {L : List Piece} {σ : State} {s : State} (hL : ([.coll, .sent] : List Piece) ⊆ L) (hs : Keeps L σ s) (p : PortIx) : Keeps L σ (State.sendProbes s p) := by
  unfold State.sendProbes
  refine State.forEach_keeps _ ?_ _ ?_
  · intro s1' a hs1'
    apply State.sendControl_keeps (List.Subset.trans (by decide) hL)
    assumption
  · apply State.setPort_keeps (List.Subset.trans (by decide) hL)
    assumption

theorem State.portEvent_keeps {L : List Piece} {σ : State} {s : State} (hL : ([.regs, .start, .flash, .ledger, .power, .period, .seals, .mem, .tiles, .coll, .mbx, .flt, .cast, .perf, .sent, .stalled, .stallReq, .free] : List Piece) ⊆ L) (hs : Keeps L σ s) : Keeps L σ (State.portEvent s) := by
  unfold State.portEvent
  apply State.settle_keeps (List.Subset.trans (by decide) hL)
  apply State.portsSettled_keeps (List.Subset.trans (by decide) hL)
  assumption

theorem State.setWidth_keeps {L : List Piece} {σ : State} {s : State} (hL : ([.regs] : List Piece) ⊆ L) (hs : Keeps L σ s) (p : Nat) (w : Nat) : Keeps L σ (State.setWidth s p w) := by
  unfold State.setWidth
  apply State.flagIf_keeps (List.Subset.trans (by decide) hL)
  apply State.set_keeps (List.Subset.trans (by decide) hL)
  assumption

theorem State.portLost_keeps {L : List Piece} {σ : State} {s : State} (hL : ([.regs, .start, .flash, .ledger, .power, .period, .seals, .mem, .tiles, .coll, .mbx, .flt, .cast, .sent, .stalled] : List Piece) ⊆ L) (hs : Keeps L σ s) (p : Nat) : Keeps L σ (State.portLost s p) := by
  unfold State.portLost
  apply State.fenceUnit_keeps (List.Subset.trans (by decide) hL)
  assumption

theorem State.takeMarker_keeps {L : List Piece} {σ : State} {s : State} (hL : ([.regs, .period] : List Piece) ⊆ L) (hs : Keeps L σ s) (period : Nat) (late : Int) (num : Nat) (key : Nat × Nat) : Keeps L σ (State.takeMarker s period late num key) := by
  unfold State.takeMarker
  extract_lets near far owed s1 s2 jump src s3
  have hs1 : Keeps L σ s1 := by
    unfold s1
    apply State.set_keeps (List.Subset.trans (by decide) hL)
    apply State.set_keeps (List.Subset.trans (by decide) hL)
    assumption
  clear_value s1
  have hs2 : Keeps L σ s2 := by
    unfold s2
    apply State.flagIf_keeps (List.Subset.trans (by decide) hL)
    apply State.flagIf_keeps (List.Subset.trans (by decide) hL)
    assumption
  clear_value s2
  have hs3 : Keeps L σ s3 := by
    unfold s3
    refine Keeps.upd (s := s2) hL ?_
    assumption
  clear_value s3
  apply State.setB_keeps (List.Subset.trans (by decide) hL)
  assumption

theorem State.sendMarker_keeps {L : List Piece} {σ : State} {s : State} (hL : ([.coll, .sent] : List Piece) ⊆ L) (hs : Keeps L σ s) (skip : Nat) (period : Nat) (phaseTick : Nat) (corr : Nat) : Keeps L σ (State.sendMarker s skip period phaseTick corr) := by
  unfold State.sendMarker
  refine State.forEach_keeps _ ?_ _ ?_
  · intro s1' a hs1'
    refine ite_keeps ?_ ?_
    · apply State.sendControl_keeps (List.Subset.trans (by decide) hL)
      assumption
    · assumption
  · assumption

theorem State.pairUp_keeps {L : List Piece} {σ : State} {s : State} (hL : ([.regs, .cast] : List Piece) ⊆ L) (hs : Keeps L σ s) (feed : Nat) : Keeps L σ (State.pairUp s feed) := by
  unfold State.pairUp
  apply State.castTrigger_keeps (List.Subset.trans (by decide) hL)
  apply State.setB_keeps (List.Subset.trans (by decide) hL)
  apply State.set_keeps (List.Subset.trans (by decide) hL)
  assumption

theorem State.portComesUp_keeps {L : List Piece} {σ : State} {s : State} (hL : ([.regs, .start, .flash, .ledger, .power, .period, .seals, .mem, .tiles, .coll, .mbx, .flt, .cast, .perf, .sent, .stalled, .stallReq] : List Piece) ⊆ L) (hs : Keeps L σ s) (p : PortIx) : Keeps L σ (State.portComesUp s p) := by
  unfold State.portComesUp
  extract_lets x un s1 s2
  have hs1 : Keeps L σ s1 := by
    unfold s1
    apply State.setPort_keeps (List.Subset.trans (by decide) hL)
    apply State.set_keeps (List.Subset.trans (by decide) hL)
    assumption
  clear_value s1
  have hs2 : Keeps L σ s2 := by
    unfold s2
    apply State.bump_keeps (List.Subset.trans (by decide) hL)
    refine State.forEach_keeps _ ?_ _ ?_
    · intro s1' a hs1'
      apply State.resendOne_keeps (List.Subset.trans (by decide) hL)
      assumption
    · assumption
  clear_value s2
  apply pumpPort_keeps (List.Subset.trans (by decide) hL)
  assumption

theorem State.probeDone_keeps {L : List Piece} {σ : State} {s : State} (hL : ([.regs, .start, .flash, .ledger, .power, .period, .seals, .mem, .tiles, .coll, .mbx, .flt, .cast, .perf, .sent, .stalled, .stallReq] : List Piece) ⊆ L) (hs : Keeps L σ s) (p : PortIx) : Keeps L σ (State.probeDone s p) := by
  unfold State.probeDone
  extract_lets ns src s1
  have hs1 : Keeps L σ s1 := by
    unfold s1
    apply State.portComesUp_keeps (List.Subset.trans (by decide) hL)
    apply State.set_keeps (List.Subset.trans (by decide) hL)
    apply State.setPort_keeps (List.Subset.trans (by decide) hL)
    assumption
  clear_value s1
  refine ite_keeps ?_ ?_
  · apply State.pairUp_keeps (List.Subset.trans (by decide) hL)
    assumption
  · assumption

theorem State.trainFail_keeps {L : List Piece} {σ : State} {s : State} (hL : ([.regs, .start, .flash, .ledger, .power, .period, .seals, .mem, .tiles, .coll, .mbx, .flt, .cast, .sent, .stalled] : List Piece) ⊆ L) (hs : Keeps L σ s) (p : PortIx) : Keeps L σ (State.trainFail s p) := by
  unfold State.trainFail
  refine ite_keeps ?_ ?_
  · apply State.portDown_keeps (List.Subset.trans (by decide) hL)
    assumption
  · extract_lets x s1
    have hs1 : Keeps L σ s1 := by
      unfold s1
      apply State.setPort_keeps (List.Subset.trans (by decide) hL)
      assumption
    clear_value s1
    refine ite_keeps ?_ ?_
    · apply State.portLost_keeps (List.Subset.trans (by decide) hL)
      assumption
    · apply State.retrain_keeps (List.Subset.trans (by decide) hL)
      assumption

theorem State.sendIdent_keeps {L : List Piece} {σ : State} {s : State} (hL : ([.coll, .sent] : List Piece) ⊆ L) (hs : Keeps L σ s) (p : PortIx) : Keeps L σ (State.sendIdent s p) := by
  unfold State.sendIdent
  apply State.sendControl_keeps (List.Subset.trans (by decide) hL)
  assumption

theorem State.electricalDone_keeps {L : List Piece} {σ : State} {s : State} (hL : ([.regs, .start, .flash, .ledger, .power, .period, .seals, .mem, .tiles, .coll, .mbx, .flt, .cast, .sent, .stalled] : List Piece) ⊆ L) (hs : Keeps L σ s) (p : PortIx) (lanes : Nat) : Keeps L σ (State.electricalDone s p lanes) := by
  unfold State.electricalDone
  refine ite_keeps ?_ ?_
  · refine ite_keeps ?_ ?_
    · apply State.portLost_keeps (List.Subset.trans (by decide) hL)
      assumption
    · apply State.portDown_keeps (List.Subset.trans (by decide) hL)
      assumption
  · apply State.set_keeps (List.Subset.trans (by decide) hL)
    apply State.setWidth_keeps (List.Subset.trans (by decide) hL)
    assumption

end Sys2Proof.Machine
end

