-- ==== Sys2Proof/Laws/KeepsTrainOps.lean ====
section
/-! SUPPORT. What the operations of Machine/TrainOps.lean keep: the queue of commands, what was sent, canonical memories, and the parts of the state
they do not write. -/

namespace Sys2Proof.Machine

set_option Elab.async false

theorem State.clearStashes_keeps {L : List Piece} {σ : State} {s : State} (hL : ([.mem] : List Piece) ⊆ L) (hs : Keeps L σ s) : Keeps L σ (State.clearStashes s) := by
  unfold State.clearStashes
  refine Keeps.upd (s := s) hL ?_
  assumption

theorem State.copyRanges_keeps {L : List Piece} {σ : State} {s : State} (hL : ([.regs, .start, .flash, .ledger, .power, .period, .seals, .mem, .tiles, .coll, .mbx, .flt, .cast, .sent, .stalled, .stallReq] : List Piece) ⊆ L) (hs : Keeps L σ s) : Keeps L σ (State.copyRanges s) := by
  unfold State.copyRanges
  extract_lets l
  refine State.forEach_keeps _ ?_ _ ?_
  · intro s1' a hs1'
    refine ite_keeps ?_ ?_
    · assumption
    · split
      rename_i s1 d bad heq
      have hs1 : Keeps L σ s1 := by
        rw [show s1 = _ from (congrArg Prod.fst heq).symm]
        apply State.unitRead_keeps (List.Subset.trans (by decide) hL)
        assumption
      clear heq
      apply State.tileWrite_keeps (List.Subset.trans (by decide) hL)
      assumption
  · assumption

theorem State.placeStashes_keeps {L : List Piece} {σ : State} {s : State} (hL : ([.regs, .mem] : List Piece) ⊆ L) (hs : Keeps L σ s) : Keeps L σ (State.placeStashes s) := by
  unfold State.placeStashes
  refine ite_keeps ?_ ?_
  · assumption
  · extract_lets layers placed entries missed cellars src s1
    have hs1 : Keeps L σ s1 := by
      unfold s1
      refine Keeps.upd (s := s) hL ?_
      assumption
    clear_value s1
    apply State.set_keeps (List.Subset.trans (by decide) hL)
    apply State.set_keeps (List.Subset.trans (by decide) hL)
    apply State.set_keeps (List.Subset.trans (by decide) hL)
    assumption

theorem State.stepTile_keeps {L : List Piece} {σ : State} {s : State} (hL : ([.regs, .tiles] : List Piece) ⊆ L) (hs : Keeps L σ s) (n : TileIx) : Keeps L σ (State.stepTile s n) := by
  unfold State.stepTile
  extract_lets s1
  have hs1 : Keeps L σ s1 := by
    unfold s1
    apply State.set_keeps (List.Subset.trans (by decide) hL)
    apply State.set_keeps (List.Subset.trans (by decide) hL)
    assumption
  clear_value s1
  apply State.modTile_keeps (List.Subset.trans (by decide) hL)
  · assumption
  · exact fun t ht => TileSt.wf_upd (t := t) rfl rfl ht

theorem State.stepStart_keeps {L : List Piece} {σ : State} {s : State} (hL : ([.regs, .start, .flash, .ledger, .power, .period, .seals, .ladder, .mem, .tiles, .coll, .mbx, .flt, .cast, .sent, .stalled, .stallReq] : List Piece) ⊆ L) (hs : Keeps L σ s) : Keeps L σ (State.stepStart s) := by
  unfold State.stepStart
  extract_lets s1 back src s2 s3 s4 s5 src1' s6 groups src2' src3' s7
  have hs1 : Keeps L σ s1 := by
    unfold s1
    apply State.applyRungs_keeps (List.Subset.trans (by decide) hL)
    assumption
  clear_value s1
  have hs2 : Keeps L σ s2 := by
    unfold s2
    refine State.forEach_keeps _ ?_ _ ?_
    · intro s1' a hs1'
      apply State.freeFrame_keeps (List.Subset.trans (by decide) hL)
      assumption
    · refine Keeps.upd (s := s1) hL ?_
      assumption
  clear_value s2
  have hs3 : Keeps L σ s3 := by
    unfold s3
    refine State.forEach_keeps _ ?_ _ ?_
    · intro s1' a hs1'
      apply State.stepTile_keeps (List.Subset.trans (by decide) hL)
      assumption
    · apply State.bindWork_keeps (List.Subset.trans (by decide) hL)
      assumption
  clear_value s3
  have hs4 : Keeps L σ s4 := by
    unfold s4
    apply State.set_keeps (List.Subset.trans (by decide) hL)
    apply State.set_keeps (List.Subset.trans (by decide) hL)
    apply State.stepCounts_keeps (List.Subset.trans (by decide) hL)
    assumption
  clear_value s4
  have hs5 : Keeps L σ s5 := by
    unfold s5
    apply State.set_keeps (List.Subset.trans (by decide) hL)
    apply State.set_keeps (List.Subset.trans (by decide) hL)
    assumption
  clear_value s5
  have hsrc1' : Keeps L σ src1' := by
    unfold src1'
    apply State.copyRanges_keeps (List.Subset.trans (by decide) hL)
    apply State.placeStashes_keeps (List.Subset.trans (by decide) hL)
    apply State.clearStashes_keeps (List.Subset.trans (by decide) hL)
    assumption
  clear_value src1'
  have hs6 : Keeps L σ s6 := by
    unfold s6
    refine Keeps.upd (s := src1') hL ?_
    assumption
  clear_value s6
  have hs7 : Keeps L σ s7 := by
    unfold s7
    refine Keeps.upd (s := s6) hL ?_
    assumption
  clear_value s7
  apply State.schedule_keeps (List.Subset.trans (by decide) hL)
  apply State.loadItems_keeps (List.Subset.trans (by decide) hL)
  assumption

end Sys2Proof.Machine
end

