-- ==== Sys2Proof/Laws/KeepsPeriod.lean ====
section
/-! SUPPORT. What the operations of Machine/Period.lean keep: the queue of commands, what was sent, canonical memories, and the parts of the state
they do not write. -/

namespace Sys2Proof.Machine

set_option Elab.async false

theorem State.readRecord_keeps {L : List Piece} {σ : State} {s : State} (hL : ([.sent] : List Piece) ⊆ L) (hs : Keeps L σ s) (r : RingIx) : Keeps L σ (State.readRecord s r) := by
  unfold State.readRecord
  apply State.send_keeps (List.Subset.trans (by decide) hL)
  assumption

theorem State.ringStep_keeps {L : List Piece} {σ : State} {s : State} (hL : ([.regs, .period] : List Piece) ⊆ L) (hs : Keeps L σ s) (r : RingIx) : Keeps L σ (State.ringStep s r) := by
  unfold State.ringStep
  extract_lets c s1
  have hs1 : Keeps L σ s1 := by
    unfold s1
    apply State.set_keeps (List.Subset.trans (by decide) hL)
    assumption
  clear_value s1
  refine ite_keeps ?_ ?_
  · apply State.stopRing_keeps (List.Subset.trans (by decide) hL)
    assumption
  · assumption

end Sys2Proof.Machine
end

