-- ==== Sys2Proof/Laws/KeepsStart.lean ====
section
/-! SUPPORT. What the operations of Machine/Start.lean keep: the queue of commands, what was sent, canonical memories, and the parts of the state
they do not write. -/

namespace Sys2Proof.Machine

set_option Elab.async false

theorem State.ringsCut_keeps {L : List Piece} {σ : State} {s : State} (hL : ([.regs, .start, .sent] : List Piece) ⊆ L) {before : State} (hs : Keeps L σ s) (hbefore : Keeps L σ before) : Keeps L σ (State.ringsCut s before) := by
  unfold State.ringsCut
  refine State.forEach_keeps _ ?_ _ ?_
  · intro s1' a hs1'
    apply State.ringFlag_keeps (List.Subset.trans (by decide) hL)
    apply State.set_keeps (List.Subset.trans (by decide) hL)
    assumption
  · assumption

theorem State.hostReset_keeps {L : List Piece} {σ : State} {s : State} (hL : ([.regs, .start, .flash, .ledger, .power, .period, .seals, .mem, .tiles, .coll, .mbx, .flt, .cast, .perf, .sent, .stalled, .stallReq, .free] : List Piece) ⊆ L) (hs : Keeps L σ s) : Keeps L σ (State.hostReset s) := by
  unfold State.hostReset
  extract_lets src s1
  have hs1 : Keeps L σ s1 := by
    unfold s1
    refine Keeps.upd (s := s) hL ?_
    assumption
  clear_value s1
  apply State.returnBias_keeps (List.Subset.trans (by decide) hL)
  apply State.ringsCut_keeps (List.Subset.trans (by decide) hL)
  · apply State.resetFn0_keeps (List.Subset.trans (by decide) hL)
    assumption
  · assumption

end Sys2Proof.Machine
end

