-- ==== Sys2Proof/Laws/PerInstr.lean ====
section
/-! SUPPORT. Statements about a command as syntax, one lemma per constructor. `Opcode`: a well-formed command that carries a descriptor carries
the OPCODE of its row. -/

namespace Sys2Proof.Laws

/-- A well-formed command whose row gives an OPCODE carries that OPCODE in its descriptor (R78, R112, R181, R193, R198, R201, R282). -/
def Opcode.Statement (i : Instr) : Prop := wellFormed i = true → ∀ p, opcodes i = some p → p.2 = p.1

theorem Opcode.ofWellFormed (i : Instr) : Opcode.Statement i := by
  intro h p hp
  simp only [wellFormed, opcodeOk, hp, Bool.and_eq_true, beq_iff_eq] at h
  exact h.1.1.1.1.1.symm

theorem Opcode.powerOn (straps : Straps) : Opcode.Statement (.powerOn straps) := Opcode.ofWellFormed _
theorem Opcode.xtalWaitExpire (toggling : Bool) (env : StartEnv) : Opcode.Statement (.xtalWaitExpire toggling env) := Opcode.ofWellFormed _
theorem Opcode.startStepTimeout : Opcode.Statement .startStepTimeout := Opcode.ofWellFormed _
theorem Opcode.startRetryTimer (env : StartEnv) : Opcode.Statement (.startRetryTimer env) := Opcode.ofWellFormed _
theorem Opcode.cxlLinkUp (link : CxlLink) (cxl : Bool) : Opcode.Statement (.cxlLinkUp link cxl) := Opcode.ofWellFormed _
theorem Opcode.underVoltageTurnOff : Opcode.Statement .underVoltageTurnOff := Opcode.ofWellFormed _
theorem Opcode.overVoltageTurnOff : Opcode.Statement .overVoltageTurnOff := Opcode.ofWellFormed _
theorem Opcode.overCurrentTurnOff : Opcode.Statement .overCurrentTurnOff := Opcode.ofWellFormed _
theorem Opcode.pwrbrkAssert : Opcode.Statement .pwrbrkAssert := Opcode.ofWellFormed _
theorem Opcode.pwrbrkRelease : Opcode.Statement .pwrbrkRelease := Opcode.ofWellFormed _
theorem Opcode.perstAssert (kind : HostReset) : Opcode.Statement (.perstAssert kind) := Opcode.ofWellFormed _
theorem Opcode.perstDeassert : Opcode.Statement .perstDeassert := Opcode.ofWellFormed _
theorem Opcode.flrFunction0 : Opcode.Statement .flrFunction0 := Opcode.ofWellFormed _
theorem Opcode.flrFunction1 : Opcode.Statement .flrFunction1 := Opcode.ofWellFormed _
theorem Opcode.xspiExtRelease (env : StartEnv) : Opcode.Statement (.xspiExtRelease env) := Opcode.ofWellFormed _
theorem Opcode.pllLockLoss (pll : Pll) : Opcode.Statement (.pllLockLoss pll) := Opcode.ofWellFormed _
theorem Opcode.deepSleepEnter : Opcode.Statement .deepSleepEnter := Opcode.ofWellFormed _
theorem Opcode.wakeLeadTimer : Opcode.Statement .wakeLeadTimer := Opcode.ofWellFormed _
theorem Opcode.domainStateRequest (reqs : List (DomIx × PState)) : Opcode.Statement (.domainStateRequest reqs) := Opcode.ofWellFormed _
theorem Opcode.domainWakeDone (d : DomIx) : Opcode.Statement (.domainWakeDone d) := Opcode.ofWellFormed _
theorem Opcode.grantInterval (inp : IntervalIn) : Opcode.Statement (.grantInterval inp) := Opcode.ofWellFormed _
theorem Opcode.meterLimitReached (d : DomIx) : Opcode.Statement (.meterLimitReached d) := Opcode.ofWellFormed _
theorem Opcode.thermalTrip : Opcode.Statement .thermalTrip := Opcode.ofWellFormed _
theorem Opcode.powerLimitWrite (value : BitVec 12) : Opcode.Statement (.powerLimitWrite value) := Opcode.ofWellFormed _
theorem Opcode.workItemComplete (id : Nat) : Opcode.Statement (.workItemComplete id) := Opcode.ofWellFormed _
theorem Opcode.periodBoundary : Opcode.Statement .periodBoundary := Opcode.ofWellFormed _
theorem Opcode.boundaryPhaseEnd (prods : Vector U64 8) : Opcode.Statement (.boundaryPhaseEnd prods) := Opcode.ofWellFormed _
theorem Opcode.ringRecordArrive (r : RingIx) (rec : RecordArrival) : Opcode.Statement (.ringRecordArrive r rec) := Opcode.ofWellFormed _
theorem Opcode.ingestComplete : Opcode.Statement .ingestComplete := Opcode.ofWellFormed _
theorem Opcode.ingestDeadline : Opcode.Statement .ingestDeadline := Opcode.ofWellFormed _
theorem Opcode.inferenceComplete : Opcode.Statement .inferenceComplete := Opcode.ofWellFormed _
theorem Opcode.inferDeadline : Opcode.Statement .inferDeadline := Opcode.ofWellFormed _
theorem Opcode.trainDeadline : Opcode.Statement .trainDeadline := Opcode.ofWellFormed _
theorem Opcode.trainingStepStart : Opcode.Statement .trainingStepStart := Opcode.ofWellFormed _
theorem Opcode.knownAnswerTest (cls : Byte) (index : Nat) (firstOk repeatOk : Bool) : Opcode.Statement (.knownAnswerTest cls index firstOk repeatOk) := Opcode.ofWellFormed _
theorem Opcode.operandIn (n : TileIx) (l : Fin 4) (d : BitVec 512) : Opcode.Statement (.operandIn n l d) := Opcode.ofWellFormed _
theorem Opcode.transposeIn (n : TileIx) (l : Fin 4) (d : BitVec 512) : Opcode.Statement (.transposeIn n l d) := Opcode.ofWellFormed _
theorem Opcode.convert (n : TileIx) (l : Fin 4) (d : BitVec 512) : Opcode.Statement (.convert n l d) := Opcode.ofWellFormed _
theorem Opcode.resultOut (n : TileIx) (l : Fin 4) (d : BitVec 512) : Opcode.Statement (.resultOut n l d) := Opcode.ofWellFormed _
theorem Opcode.matmul (n : TileIx) (d : BitVec 256) (stalls : Nat) (upsets : List Upset) : Opcode.Statement (.matmul n d stalls upsets) := Opcode.ofWellFormed _
theorem Opcode.cruCopy (n : TileIx) (d : BitVec 256) : Opcode.Statement (.cruCopy n d) := Opcode.ofWellFormed _
theorem Opcode.splitCombine (n : TileIx) (c : CombineCmd) : Opcode.Statement (.splitCombine n c) := Opcode.ofWellFormed _
theorem Opcode.dwqPost (n : TileIx) (e : BitVec 128) : Opcode.Statement (.dwqPost n e) := Opcode.ofWellFormed _
theorem Opcode.dwqEntryStart (n : TileIx) : Opcode.Statement (.dwqEntryStart n) := Opcode.ofWellFormed _
theorem Opcode.dwqDrain (n : TileIx) : Opcode.Statement (.dwqDrain n) := Opcode.ofWellFormed _
theorem Opcode.memFence (n : TileIx) : Opcode.Statement (.memFence n) := Opcode.ofWellFormed _
theorem Opcode.scalarFileWrite (n : TileIx) (i : Fin 32) (v : U32) : Opcode.Statement (.scalarFileWrite n i v) := Opcode.ofWellFormed _
theorem Opcode.sealVote (n : TileIx) (lossEntry : Fin 32) : Opcode.Statement (.sealVote n lossEntry) := Opcode.ofWellFormed _
theorem Opcode.gatherCsr (q : WayIx) (n : TileIx) (d : BitVec 512) : Opcode.Statement (.gatherCsr q n d) := Opcode.ofWellFormed _
theorem Opcode.gatherIdx (q : WayIx) (n : TileIx) (d : BitVec 512) : Opcode.Statement (.gatherIdx q n d) := Opcode.ofWellFormed _
theorem Opcode.scatterIdx (q : WayIx) (n : TileIx) (d : BitVec 512) : Opcode.Statement (.scatterIdx q n d) := Opcode.ofWellFormed _
theorem Opcode.copyIn (q : WayIx) (n : TileIx) (d : BitVec 512) : Opcode.Statement (.copyIn q n d) := Opcode.ofWellFormed _
theorem Opcode.copyOut (q : WayIx) (n : TileIx) (d : BitVec 512) : Opcode.Statement (.copyOut q n d) := Opcode.ofWellFormed _
theorem Opcode.segSum (t : EngIx) (n : TileIx) (d : BitVec 512) : Opcode.Statement (.segSum t n d) := Opcode.ofWellFormed _
theorem Opcode.segMax (t : EngIx) (n : TileIx) (d : BitVec 512) : Opcode.Statement (.segMax t n d) := Opcode.ofWellFormed _
theorem Opcode.segMean (t : EngIx) (n : TileIx) (d : BitVec 512) : Opcode.Statement (.segMean t n d) := Opcode.ofWellFormed _
theorem Opcode.segCount (t : EngIx) (n : TileIx) (d : BitVec 512) : Opcode.Statement (.segCount t n d) := Opcode.ofWellFormed _
theorem Opcode.segDot (t : EngIx) (n : TileIx) (d : BitVec 512) : Opcode.Statement (.segDot t n d) := Opcode.ofWellFormed _
theorem Opcode.segPair (t : EngIx) (n : TileIx) (d : BitVec 512) : Opcode.Statement (.segPair t n d) := Opcode.ofWellFormed _
theorem Opcode.exp (k : EngIx) (n : TileIx) (d : BitVec 256) : Opcode.Statement (.exp k n d) := Opcode.ofWellFormed _
theorem Opcode.log (k : EngIx) (n : TileIx) (d : BitVec 256) : Opcode.Statement (.log k n d) := Opcode.ofWellFormed _
theorem Opcode.recip (k : EngIx) (n : TileIx) (d : BitVec 256) : Opcode.Statement (.recip k n d) := Opcode.ofWellFormed _
theorem Opcode.rsqrt (k : EngIx) (n : TileIx) (d : BitVec 256) : Opcode.Statement (.rsqrt k n d) := Opcode.ofWellFormed _
theorem Opcode.tanh (k : EngIx) (n : TileIx) (d : BitVec 256) : Opcode.Statement (.tanh k n d) := Opcode.ofWellFormed _
theorem Opcode.sigmoid (k : EngIx) (n : TileIx) (d : BitVec 256) : Opcode.Statement (.sigmoid k n d) := Opcode.ofWellFormed _
theorem Opcode.add (n : TileIx) (d : BitVec 512) : Opcode.Statement (.add n d) := Opcode.ofWellFormed _
theorem Opcode.mul (n : TileIx) (d : BitVec 512) : Opcode.Statement (.mul n d) := Opcode.ofWellFormed _
theorem Opcode.fma (n : TileIx) (d : BitVec 512) : Opcode.Statement (.fma n d) := Opcode.ofWellFormed _
theorem Opcode.cmp (n : TileIx) (d : BitVec 512) : Opcode.Statement (.cmp n d) := Opcode.ofWellFormed _
theorem Opcode.sel (n : TileIx) (d : BitVec 512) : Opcode.Statement (.sel n d) := Opcode.ofWellFormed _
theorem Opcode.min (n : TileIx) (d : BitVec 512) : Opcode.Statement (.min n d) := Opcode.ofWellFormed _
theorem Opcode.max (n : TileIx) (d : BitVec 512) : Opcode.Statement (.max n d) := Opcode.ofWellFormed _
theorem Opcode.perm (n : TileIx) (d : BitVec 512) : Opcode.Statement (.perm n d) := Opcode.ofWellFormed _
theorem Opcode.cvt (n : TileIx) (d : BitVec 512) : Opcode.Statement (.cvt n d) := Opcode.ofWellFormed _
theorem Opcode.scrub (c : ChIx) (line : Nat) (symErrs rereadErrs : Nat) : Opcode.Statement (.scrub c line symErrs rereadErrs) := Opcode.ofWellFormed _
theorem Opcode.refresh (c : ChIx) (temp : Nat) : Opcode.Statement (.refresh c temp) := Opcode.ofWellFormed _
theorem Opcode.recalibration (c : ChIx) : Opcode.Statement (.recalibration c) := Opcode.ofWellFormed _
theorem Opcode.recalibrationEnd (c : ChIx) (ok : Bool) : Opcode.Statement (.recalibrationEnd c ok) := Opcode.ofWellFormed _
theorem Opcode.wcTimerExpire (k : StackIx) (pos : Fin 8) (line : Nat) : Opcode.Statement (.wcTimerExpire k pos line) := Opcode.ofWellFormed _
theorem Opcode.migrationReq (value : U64) : Opcode.Statement (.migrationReq value) := Opcode.ofWellFormed _
theorem Opcode.migrationLineCopy (symErrs : Nat) : Opcode.Statement (.migrationLineCopy symErrs) := Opcode.ofWellFormed _
theorem Opcode.channelDead (c : ChIx) : Opcode.Statement (.channelDead c) := Opcode.ofWellFormed _
theorem Opcode.vote (p : PortIx) (f : DataFrame) : Opcode.Statement (.vote p f) := Opcode.ofWellFormed _
theorem Opcode.voteDeadline : Opcode.Statement .voteDeadline := Opcode.ofWellFormed _
theorem Opcode.commit (dec : Decision) : Opcode.Statement (.commit dec) := Opcode.ofWellFormed _
theorem Opcode.discard (dec : Decision) : Opcode.Statement (.discard dec) := Opcode.ofWellFormed _
theorem Opcode.decisionQuery (p : PortIx) (src : BitVec 16) (step : U64) : Opcode.Statement (.decisionQuery p src step) := Opcode.ofWellFormed _
theorem Opcode.portTrainingDone (p : PortIx) (st : TrainStage) : Opcode.Statement (.portTrainingDone p st) := Opcode.ofWellFormed _
theorem Opcode.ident (p : PortIx) (body : Option IdentBody) : Opcode.Statement (.ident p body) := Opcode.ofWellFormed _
theorem Opcode.probe (p : PortIx) (body : ProbeBody) (arrival : U64) : Opcode.Statement (.probe p body arrival) := Opcode.ofWellFormed _
theorem Opcode.laneFail (p : PortIx) (usable : Nat) : Opcode.Statement (.laneFail p usable) := Opcode.ofWellFormed _
theorem Opcode.linkAck (p : PortIx) (hdr : LinkHeader) : Opcode.Statement (.linkAck p hdr) := Opcode.ofWellFormed _
theorem Opcode.resendTimeout (p : PortIx) : Opcode.Statement (.resendTimeout p) := Opcode.ofWellFormed _
theorem Opcode.bcast (n : TileIx) (d : BitVec 512) : Opcode.Statement (.bcast n d) := Opcode.ofWellFormed _
theorem Opcode.reduce (n : TileIx) (d : BitVec 512) : Opcode.Statement (.reduce n d) := Opcode.ofWellFormed _
theorem Opcode.send (n : TileIx) (d : BitVec 512) : Opcode.Statement (.send n d) := Opcode.ofWellFormed _
theorem Opcode.recv (n : TileIx) (d : BitVec 512) : Opcode.Statement (.recv n d) := Opcode.ofWellFormed _
theorem Opcode.ready (src : BitVec 16) (body : ReadyBody) : Opcode.Statement (.ready src body) := Opcode.ofWellFormed _
theorem Opcode.broadcastData (p : PortIx) (f : DataFrame) : Opcode.Statement (.broadcastData p f) := Opcode.ofWellFormed _
theorem Opcode.reduceContribution (p : PortIx) (f : DataFrame) : Opcode.Statement (.reduceContribution p f) := Opcode.ofWellFormed _
theorem Opcode.podPartial (p : PortIx) (f : DataFrame) : Opcode.Statement (.podPartial p f) := Opcode.ofWellFormed _
theorem Opcode.sendData (p : PortIx) (f : DataFrame) : Opcode.Statement (.sendData p f) := Opcode.ofWellFormed _
theorem Opcode.bridgeSlotResult (p : PortIx) (f : DataFrame) : Opcode.Statement (.bridgeSlotResult p f) := Opcode.ofWellFormed _
theorem Opcode.go (key : CollKey) (slot0 slot1 : Option Nat) : Opcode.Statement (.go key slot0 slot1) := Opcode.ofWellFormed _
theorem Opcode.slotGrant (plane : Fin 2) (key : CollKey) (slot : Nat) : Opcode.Statement (.slotGrant plane key slot) := Opcode.ofWellFormed _
theorem Opcode.slotBusy (plane : Fin 2) (key : CollKey) : Opcode.Statement (.slotBusy plane key) := Opcode.ofWellFormed _
theorem Opcode.slotReqTimeout (plane : Fin 2) (key : CollKey) : Opcode.Statement (.slotReqTimeout plane key) := Opcode.ofWellFormed _
theorem Opcode.markerSend : Opcode.Statement .markerSend := Opcode.ofWellFormed _
theorem Opcode.marker (p : PortIx) (period phaseTick : U32) (corrNs : Nat) (ownPhaseNs : Int) : Opcode.Statement (.marker p period phaseTick corrNs ownPhaseNs) := Opcode.ofWellFormed _
theorem Opcode.markerLossTimeout : Opcode.Statement .markerLossTimeout := Opcode.ofWellFormed _
theorem Opcode.releaseBuffer (value : U64) : Opcode.Statement (.releaseBuffer value) := Opcode.ofWellFormed _
theorem Opcode.returnGranule (value : U64) : Opcode.Statement (.returnGranule value) := Opcode.ofWellFormed _
theorem Opcode.returnAll (value : U64) : Opcode.Statement (.returnAll value) := Opcode.ofWellFormed _
theorem Opcode.hostMemRead (off len : Nat) : Opcode.Statement (.hostMemRead off len) := Opcode.ofWellFormed _
theorem Opcode.hostMemWrite (off : Nat) (bytes : List Byte) : Opcode.Statement (.hostMemWrite off bytes) := Opcode.ofWellFormed _
theorem Opcode.cxlSnoop (addr : U64) : Opcode.Statement (.cxlSnoop addr) := Opcode.ofWellFormed _
theorem Opcode.globalPersistentFlush : Opcode.Statement .globalPersistentFlush := Opcode.ofWellFormed _
theorem Opcode.mbxDataWrite (c : MbxIx) (sender : MbxEnd) (col : Fin 8) (w : Fin 8) (v : U64) : Opcode.Statement (.mbxDataWrite c sender col w v) := Opcode.ofWellFormed _
theorem Opcode.doorbell (c : MbxIx) (sender : MbxEnd) (col : Fin 8) : Opcode.Statement (.doorbell c sender col) := Opcode.ofWellFormed _
theorem Opcode.rxEmpty (c : MbxIx) (receiver : MbxEnd) (col : Fin 8) : Opcode.Statement (.rxEmpty c receiver col) := Opcode.ofWellFormed _
theorem Opcode.rxReset (c : MbxIx) (receiver : MbxEnd) (col : Fin 8) : Opcode.Statement (.rxReset c receiver col) := Opcode.ofWellFormed _
theorem Opcode.waybillWrite (part : BitVec 16) (last : Bool) (img : WaybillImage) : Opcode.Statement (.waybillWrite part last img) := Opcode.ofWellFormed _
theorem Opcode.enrol (key : BitVec 1064) (devIdDigest : Digest) (nonce : BitVec 256) (sig : Signed) : Opcode.Statement (.enrol key devIdDigest nonce sig) := Opcode.ofWellFormed _
theorem Opcode.setMinSeq (value : U32) (sig : Signed) : Opcode.Statement (.setMinSeq value sig) := Opcode.ofWellFormed _
theorem Opcode.restartAtBoundary (fromFn1 : Bool) (env : StartEnv) : Opcode.Statement (.restartAtBoundary fromFn1 env) := Opcode.ofWellFormed _
theorem Opcode.restartImmediate (fromFn1 : Bool) (env : StartEnv) : Opcode.Statement (.restartImmediate fromFn1 env) := Opcode.ofWellFormed _
theorem Opcode.startRetry (fromFn1 : Bool) (env : StartEnv) : Opcode.Statement (.startRetry fromFn1 env) := Opcode.ofWellFormed _
theorem Opcode.status : Opcode.Statement .status := Opcode.ofWellFormed _
theorem Opcode.doeDiscovery (fn1 : Bool) (index : Nat) : Opcode.Statement (.doeDiscovery fn1 index) := Opcode.ofWellFormed _
theorem Opcode.cxlTableAccess (entry : Nat) : Opcode.Statement (.cxlTableAccess entry) := Opcode.ofWellFormed _
theorem Opcode.getVersion : Opcode.Statement .getVersion := Opcode.ofWellFormed _
theorem Opcode.getCapabilities : Opcode.Statement .getCapabilities := Opcode.ofWellFormed _
theorem Opcode.negotiateAlgorithms : Opcode.Statement .negotiateAlgorithms := Opcode.ofWellFormed _
theorem Opcode.getDigests : Opcode.Statement .getDigests := Opcode.ofWellFormed _
theorem Opcode.getCertificate (slot : Nat) (off len : Nat) : Opcode.Statement (.getCertificate slot off len) := Opcode.ofWellFormed _
theorem Opcode.challenge (slot : Nat) (nonce : BitVec 256) : Opcode.Statement (.challenge slot nonce) := Opcode.ofWellFormed _
theorem Opcode.getMeasurements (index : Nat) (signed : Bool) (nonce : BitVec 256) : Opcode.Statement (.getMeasurements index signed nonce) := Opcode.ofWellFormed _
theorem Opcode.spdmUnsupportedRequest (code : Byte) : Opcode.Statement (.spdmUnsupportedRequest code) := Opcode.ofWellFormed _
theorem Opcode.errorRecordPost (errs : List PostedError) : Opcode.Statement (.errorRecordPost errs) := Opcode.ofWellFormed _
theorem Opcode.errorRecordHandle : Opcode.Statement .errorRecordHandle := Opcode.ofWellFormed _
theorem Opcode.watchdogExpire (u : CoreUnit) : Opcode.Statement (.watchdogExpire u) := Opcode.ofWellFormed _
theorem Opcode.innkeeperRestartDone : Opcode.Statement .innkeeperRestartDone := Opcode.ofWellFormed _
theorem Opcode.cperGet (c : MbxIx) : Opcode.Statement (.cperGet c) := Opcode.ofWellFormed _
theorem Opcode.cperAck (c : MbxIx) (record : U32) : Opcode.Statement (.cperAck c record) := Opcode.ofWellFormed _
theorem Opcode.ledgerWrite : Opcode.Statement .ledgerWrite := Opcode.ofWellFormed _
theorem Opcode.ledgerXspiCopy : Opcode.Statement .ledgerXspiCopy := Opcode.ofWellFormed _
theorem Opcode.assaySweepDone : Opcode.Statement .assaySweepDone := Opcode.ofWellFormed _
theorem Opcode.castReq : Opcode.Statement .castReq := Opcode.ofWellFormed _
theorem Opcode.castPageCopy (t : Tier) : Opcode.Statement (.castPageCopy t) := Opcode.ofWellFormed _
theorem Opcode.castTierComplete (t : Tier) : Opcode.Statement (.castTierComplete t) := Opcode.ofWellFormed _
theorem Opcode.exportSlot : Opcode.Statement .exportSlot := Opcode.ofWellFormed _
theorem Opcode.castWindowFill : Opcode.Statement .castWindowFill := Opcode.ofWellFormed _
theorem Opcode.nextWindow : Opcode.Statement .nextWindow := Opcode.ofWellFormed _
theorem Opcode.stored : Opcode.Statement .stored := Opcode.ofWellFormed _
theorem Opcode.restoreGo (value : U64) : Opcode.Statement (.restoreGo value) := Opcode.ofWellFormed _
theorem Opcode.restoreFetchDone (r : FetchOutcome) : Opcode.Statement (.restoreFetchDone r) := Opcode.ofWellFormed _
theorem Opcode.dumpAll : Opcode.Statement .dumpAll := Opcode.ofWellFormed _
theorem Opcode.clear (b : PerfIx) : Opcode.Statement (.clear b) := Opcode.ofWellFormed _
theorem Opcode.perfSelWrite (b : PerfIx) (i : Fin 8) (value : U64) : Opcode.Statement (.perfSelWrite b i value) := Opcode.ofWellFormed _
theorem Opcode.perfDump (b : PerfIx) : Opcode.Statement (.perfDump b) := Opcode.ofWellFormed _
theorem Opcode.perfRingRecordWrite : Opcode.Statement .perfRingRecordWrite := Opcode.ofWellFormed _
theorem Opcode.registerWrite (fn1 : Bool) (off : Nat) (half : Bool) (value : U64) : Opcode.Statement (.registerWrite fn1 off half value) := Opcode.ofWellFormed _
theorem Opcode.collectiveAck (key : CollKey) (src : BitVec 16) (chunkIdx : U32) : Opcode.Statement (.collectiveAck key src chunkIdx) := Opcode.ofWellFormed _
theorem Opcode.uncorrectableCodeword (p : PortIx) : Opcode.Statement (.uncorrectableCodeword p) := Opcode.ofWellFormed _
theorem Opcode.guestCastData (first : Bool) (off : Nat) (bytes : List Byte) : Opcode.Statement (.guestCastData first off bytes) := Opcode.ofWellFormed _
theorem Opcode.guestSlotFetch (step : U64) : Opcode.Statement (.guestSlotFetch step) := Opcode.ofWellFormed _
theorem Opcode.partnerCastReport (imageSize : Option Nat) (noUsableCast : Bool) : Opcode.Statement (.partnerCastReport imageSize noUsableCast) := Opcode.ofWellFormed _
theorem Opcode.dramCeHourlyRecord : Opcode.Statement .dramCeHourlyRecord := Opcode.ofWellFormed _
theorem Opcode.markerMissed : Opcode.Statement .markerMissed := Opcode.ofWellFormed _
theorem Opcode.presentSMade : Opcode.Statement .presentSMade := Opcode.ofWellFormed _

end Sys2Proof.Laws
end

