-- ==== Sys2Proof/Machine/UpdateOps.lean ====
section
/-! DEFINITION. The arithmetic of the update (R171, R172). No command of the table is the update: a tile's program carries it out by vector
and Kiln commands (95: R171 and R172 lie within FMA, MUL, ADD, RSQRT, CVT, MIN and MAX). These functions say what those commands compute
together. -/

namespace Sys2Proof.Machine

/-- What an optimiser group gives an element (R170): FP32 values as bits. -/
structure OptScalars where
  beta1 : U32
  beta2 : U32
  eps : U32
  lambda : U32
  gscale : U32
  eta : U32
  c1 : U32
  c2 : U32
  deriving DecidableEq, Repr

def one32 : U32 := 0x3F800000#32

def negate32 (x : U32) : U32 := x ^^^ 0x80000000#32

/-- The scaled gradient (R171). -/
def optGrad (o : OptScalars) (g : U32) : U32 := mul32 g o.gscale

/-- The new moments before they are stored (R171). -/
def optM (o : OptScalars) (m g : U32) : U32 := add32 (mul32 o.beta1 m) (mul32 (sub32 one32 o.beta1) (optGrad o g))
def optV (o : OptScalars) (v g : U32) : U32 :=
  add32 (mul32 o.beta2 v) (mul32 (sub32 one32 o.beta2) (mul32 (optGrad o g) (optGrad o g)))

/-- The step of an element from its new moments and its weight (R171). -/
def optDw (o : OptScalars) (w m v : U32) : U32 :=
  mul32 (negate32 o.eta)
    (add32 (mul32 (mul32 m o.c1) (kilnRsqrt (add32 (mul32 v o.c2) (mul32 o.eps o.eps)))) (mul32 o.lambda w))

/-- The new value of an element with residual r (R171). -/
def optX (w r dw : U32) : U32 := add32 (add32 w r) dw

/-- A residual's value (R172). -/
def residualValue (e : Nat) (sb st : Fv) : U32 :=
  let r : Int := toSigned 8 e
  mul32 (mul32 (code32 (.fin (decide (r < 0)) r.natAbs (-6))) (code32 sb)) (code32 st)

/-- A weight element quantised with its residual (R172 steps 2 to 4): code, residual code, whether it was clamped. -/
def weightElem (f rnd u : Nat) (sb st : Fv) (x : U32) : Nat × Nat × Bool :=
  let k := quantK sb st
  let c := quantise f rnd u false k (fv32 x)
  let d := sub32 x (dequant f c.code sb st)
  let q := rneInt (fv32 (mul32 (mul32 d 0x42800000#32) (code32 k)))
  if isFin32 x && isFin32 d then
    (c.code, ofSigned 8 (if 127 < q then 127 else if q < -128 then -128 else q), decide (127 < q ∨ q < -128))
  else (c.code, 0, false)

/-- A new weight block (R172): its scale code and its elements; a scale of zero leaves zero codes and zero residuals. -/
def weightBlock (f : Nat) (mean : Bool) (rnd : Nat) (draw : Nat → Nat) (st : Fv) (xs : List U32) : Nat × List (Nat × Nat × Bool) :=
  let sc := if mean then meanScale st (xs.map fv32) else deriveScale f st (xs.map (fun x => (fv32 x, Fv.inf false)))
  if sc == 0 then (0, xs.map (fun _ => (0, 0, false)))
  else (sc, xs.zipIdx.map (fun x => weightElem f rnd (draw x.2) (ue5m3Value sc) st x.1))

end Sys2Proof.Machine
end

