-- ==== Sys2Proof/Tests/Slice0.lean ====
section
/-! SUPPORT. Tests: the checks of WellFormed on ill-formed commands, worked values of the spec, and for each statement about the model concrete
states and operands that meet its hypotheses. -/

set_option maxRecDepth 20000
set_option exponentiation.threshold 1100

namespace Sys2Proof.Tests

open Sys2Proof Sys2Proof.Machine

/-! Small states. -/

/-- Fields set by hardware. -/
def tset (l : List (Field × Nat)) (s : State) : State := l.foldl (fun s e => s.set e.1 e.2) s

/-- Power is present and the clock runs. -/
def tOn : State := { State.reset with
  start := { StartSt.init with powered := true, perstAsserted := false, cxlUp := true, cxlMode := true, memReady := true, ledgerRead := true }
  time := { TimeSt.init with running := true } }

/-- A Waybill header of 256 bytes (R332). -/
def tHeader (magic seqNo sections total owner : Nat) : List Byte :=
  leBytes 8 magic ++ leBytes 4 1 ++ leBytes 4 total ++ leBytes 2 0x4064 ++ [1, 0x11] ++ leBytes 4 seqNo ++ leBytes 2 77 ++ leBytes 2 sections ++
    leBytes 68 0 ++ leBytes 16 owner ++ List.replicate 144 0

/-- The clocks of a Waybill: CORE, FAB and MEM at 1,000 MHz, MGMT at a quarter. -/
def tClocks : Nat × U64 := (F.CLK_CFG_CORE_MHZ.off, BitVec.ofNat 64 (
  1000 * 2 ^ F.CLK_CFG_CORE_MHZ.lo + 1000 * 2 ^ F.CLK_CFG_FAB_MHZ.lo + 1000 * 2 ^ F.CLK_CFG_MEM_MHZ.lo + 4 * 2 ^ F.CLK_CFG_MGMT_DIV.lo))

/-- A Waybill with a plan of one step, a split plan of two parts that tile 0 combines, and two groups of modules 0 and 1. -/
def tWb : WaybillImage where
  bytes := tHeader 0 5 0 0 0
  signedBy := []
  data := {
    regs := [tClocks], plan := ⟨[], [⟨[⟨some 0, 0, 1⟩, ⟨none, 1, 1⟩], 0, 0, 0, tileBytes - 32768⟩], 1000, 1, 64, [⟨154, by decide⟩]⟩
    groups := [⟨[⟨0, 30, 30⟩, ⟨1, 0, 0⟩], 0, 0, false, false⟩, ⟨[⟨0, 30, 30⟩, ⟨1, 0, 0⟩], 0, 0, false, true⟩]
    ladder := [], optim := [], freeze := [], layout := ⟨[], [], [], [], [], 0, [], [], 0⟩, thresholds := [] }

/-- The job runs, within a period, the Timetable awake. -/
def tJob : State := { tset [(F.MGT_BOOTSTAT_MODE, 1), (F.PWR_DOM_STAT_STATE domTimetable, 3), (F.CLK_STAT_FAB_LOCK, 1)] tOn with
  wb := some tWb
  period := { PeriodSt.init with inPeriod := true } }

/-- The same in a phase. -/
def tPhase (p : Nat) : State := tset [(F.MGT_PERIOD_STAT_PHASE, p)] tJob

theorem wfOf {s : State} (h : (Sparse.canonical regReset s.regs && s.mem.wf) = true) (ht : ∀ n : TileIx, (s.tile n).wf = true) : s.memWf = true := by
  simp only [State.memWf, Bool.and_eq_true] at h ⊢
  refine ⟨h, ?_⟩
  rw [Vector.all_eq_true]
  intro i hi
  exact ht ⟨i, hi⟩

/-- Nothing waits in a state with empty queues that has no step in flight. -/
theorem stillOf {s : State} (h1 : s.stalled = []) (h2 : s.coll.queue = []) (h3 : s.mem.held = []) (h4 : s.period.outWait = false)
    (h5 : s.period.stepActive = false) : s.still := ⟨h1, h2, h3, h4, .inl h5⟩
/-! The block, start and reset. -/

theorem wit_idle : tOn.memWf = true ∧ tOn.pending = [] := ⟨wfOf (by decide) (by decide), rfl⟩

theorem wit_step_keeps : ∃ t, State.reset.memWf = true ∧ step { State.reset with pending := [.presentSMade] } = .next t :=
  ⟨_, wfOf (by decide) (by decide), rfl⟩

theorem wit_power_on : State.reset.memWf = true ∧ State.reset.start.powered = false := ⟨wfOf (by decide) (by decide), rfl⟩

/-- A start at step 3 with power. -/
def tStep3 (s : StartSt) : State := { tset [(F.MGT_BOOTSTAT_STEP, 3)] tOn with start := s, time := TimeSt.init }

theorem wit_xtal_hold : let s := tStep3 { tOn.start with straps := ⟨0, 0, 0, false⟩ }
    s.memWf = true ∧ s.start.powered = true ∧ s.time.running = false ∧ s.get F.MGT_BOOTSTAT_STEP = 3 ∧ s.start.straps.xspiExtHigh = false ∧
      s.start.ledgerRead = true ∧ s.start.consec < 2 ∧ s.start.noRetry = false ∧ s.bootDir.trial = false :=
  ⟨wfOf (by decide) (by decide), by decide⟩

/-- A slot of the flash holds a Waybill. -/
def tSlot (s : State) : State := { s with flash := { Flash.init with slots := #v[some tWb, none] } }

theorem tSlot_ratios (s : State) : (tSlot s).ratiosHold := by
  have h : (State.reset.loadRegs (wbTrim tWb)).clocksOk = true := by decide
  intro i g hg
  match i, hg with
  | 0, hg => cases hg; exact h
  | 1, hg => cases hg

theorem wit_starts : let s := tSlot (tStep3 { tOn.start with xspiHold := true })
    s.memWf = true ∧ s.start.powered = true ∧ s.ratiosHold ∧ s.time.running = false ∧ s.get F.MGT_BOOTSTAT_STEP = 3 ∧
      s.start.straps.xspiExtHigh = true ∧ s.start.xspiHold = true ∧ ({ startEnvInit with hangStep := 4 }).hangStep = 4 ∧
      ({ startEnvInit with romKatOk := false }).hangStep ≠ 4 ∧ s.start.ledgerRead = true ∧ s.start.consec < 2 ∧ s.start.noRetry = false ∧
      s.bootDir.trial = false :=
  ⟨wfOf (by decide) (by decide), by decide, tSlot_ratios _, by decide⟩

theorem wit_restarts (mode trip : Nat) (h : mode = 1 ∨ mode = 2) (ht : trip = 0 ∨ trip = 1) :
    let s := tSlot { tset [(F.MGT_BOOTSTAT_MODE, mode), (F.PWR_STAT_THERM_TRIP, trip)] tOn with start := { tOn.start with retryArmed := true } }
    s.memWf = true ∧ s.start.powered = true ∧ s.start.retryArmed = true ∧ s.ratiosHold ∧ s.innkUp = true ∧ s.mode = mode ∧
      s.tripped = decide (trip = 1) := by
  rcases h with rfl | rfl <;> rcases ht with rfl | rfl <;>
    exact ⟨wfOf (by decide) (by decide), by decide, by decide, tSlot_ratios _, by decide⟩

theorem wit_step_timeouts (h : Nat) (hh : h = 4 ∨ h = 8 ∨ h = 9) : let s := { tOn with start := { tOn.start with hung := h } }
    s.memWf = true ∧ s.start.powered = true ∧ s.time.running = true ∧ (4 ≤ s.start.hung ∧ s.start.hung ≤ 8 ∨ s.start.hung = 9) ∧
      s.start.ledgerRead = true ∧ s.start.consec < 2 ∧ s.start.noRetry = false ∧ s.bootDir.trial = false := by
  rcases hh with rfl | rfl | rfl <;> exact ⟨wfOf (by decide) (by decide), by decide⟩

theorem wit_link_up : let s := { tset [(F.PWR_DOM_STAT_STATE domCxl, 3)] tOn with start := { tOn.start with cxlUp := false } }
    (⟨4, 320⟩ : CxlLink).lanes ∈ [4, 8, 16] ∧ (⟨4, 320⟩ : CxlLink).rate ∈ [25, 50, 80, 160, 320] ∧
      s.start.powered = true ∧ s.dom domCxl = 3 ∧ s.start.perstAsserted = false ∧ s.start.cxlUp = false ∧ s.start.hung ≠ 10 := by decide

/-! Host-side resets, clocks, power. -/

theorem tJob_still : tJob.still := stillOf rfl rfl rfl rfl rfl

theorem wit_host_resets : tJob.memWf = true ∧ tJob.start.powered = true ∧ tJob.still := ⟨wfOf (by decide) (by decide), by decide, tJob_still⟩

theorem wit_pll_loss (p : Pll) : let s := tset [(pllLock p, 1)] { tJob with period := { tJob.period with stepActive := true } }
    s.memWf = true ∧ s.start.powered = true ∧ s.mode = 1 ∧ s.on (pllLock p) = true ∧ s.roomFor clsPower 0 ∧ s.period.stepActive = true ∧
      s.tileFenced 0 = false ∧ s.mem.spoiled = [] := by
  cases p <;> exact ⟨wfOf (by decide) (by decide), by decide, by decide, by decide, ⟨by decide, by decide, by decide, by decide⟩, by decide, by decide, by decide⟩

theorem wit_domains : let s := tset [(F.PWR_DOM_STAT_STATE 0, 2)] tJob
    s.memWf = true ∧ s.timetableUp = true ∧ s.mayRequest 0 .retained = true ∧ s.mayRequest 0 .powerDown = false ∧ s.mayRequest 0 .on = true ∧
      s.sleeping 0 := ⟨wfOf (by decide) (by decide), by decide, by decide, by decide, by decide, by decide, by decide⟩

theorem wit_wake_done : let s := { tJob with power := { tJob.power with waking := [(154, 3)] } }
    s.memWf = true ∧ s.power.waking.any (fun w => w.1 == 154) = true ∧ s.power.waking.any (fun w => w.1 == 153) = false ∧ s.still :=
  ⟨wfOf (by decide) (by decide), by decide, by decide, stillOf rfl rfl rfl rfl rfl⟩

set_option maxRecDepth 8000 in
theorem wit_deep_sleep : let s := tset [(F.CLK_STAT_CORE_LOCK, 1), (F.MGT_PERIOD_STAT_PHASE, 5), (F.PWR_DOM_STAT_STATE domTimetable, 1),
      (F.MGT_PERIOD_CFG0_PERIOD_TICKS, 1000)] tJob
    s.memWf = true ∧ s.running = true ∧ s.period.inPeriod = true ∧ s.on F.CLK_STAT_CORE_LOCK = true ∧ s.phase = 5 ∧
      (∀ d < 155, coreDom d = true → s.dom d = 1 ∨ s.dom d = 0) ∧ s.aon + s.get F.CLK_SLEEP_CFG_PLL_STOP_MIN ≤ s.nextWake ∧
      s.time.running = true ∧ s.time.osc ≤ s.boundaryOsc ∧ s.sleeping domTimetable :=
  ⟨wfOf (by decide) (by decide), by decide, by decide, by decide, by decide, by decide, by decide, by decide, by decide, by decide, by decide⟩

set_option maxRecDepth 8000 in
theorem wit_awake_stays : let s := tset [(F.CLK_STAT_CORE_LOCK, 1), (F.MGT_PERIOD_STAT_PHASE, 5)] tJob
    s.on F.CLK_STAT_CORE_LOCK = true ∧ ¬ ((s.phase = 4 ∨ s.phase = 5) ∧ (∀ d < 155, coreDom d = true → s.dom d = 1 ∨ s.dom d = 0)) := by decide

theorem wit_work_item : let s := { tPhase 4 with power := { tJob.power with items := [⟨7, 0, true, false, false, 0, 0⟩] } }
    s.memWf = true ∧ s.running = true ∧ s.period.inPeriod = true ∧ s.itemSt 7 = some ⟨7, 0, true, false, false, 0, 0⟩ ∧ s.phase = 4 ∧
      (∀ y ∈ s.power.items, y.id = 7 ∨ y.done = true) := ⟨wfOf (by decide) (by decide), by decide⟩

theorem wit_power_limits : let s := tset [(F.PWR_LIMIT_LIMIT_MAX, 600)] tJob
    s.memWf = true ∧ s.regsLoaded = true ∧ 600 ≤ s.get F.PWR_LIMIT_LIMIT_MAX ∧ s.grants = true ∧ dynDom 0 = true ∧ s.reckonerOn = true ∧
      s.on F.PWR_STAT_BRAKE_ACTIVE = false ∧ s.on F.PWR_STAT_BRAKE = false ∧ s.start.cxlUp = true :=
  ⟨wfOf (by decide) (by decide), by decide⟩

/-- Measurements at rest. -/
def tInterval (base : Nat) : IntervalIn := ⟨base, 100, 48000, 500, Vector.replicate 64 0, Vector.replicate 32 0, []⟩

theorem wit_grant_interval : let s := tset [(F.PWR_LIMIT_POWER_LIMIT, 600), (F.PWR_LIMIT_PEAK_LIMIT, 600)] tJob
    s.still ∧ (∀ p, (s.port p).waiting = []) ∧ s.memWf = true ∧ s.grants = true ∧ s.burstRunning = false ∧ (tInterval 600).base ≤ s.get F.PWR_LIMIT_POWER_LIMIT ∧
      (tInterval 600).base ≤ s.get F.PWR_LIMIT_PEAK_LIMIT ∧ s.get F.PWR_LIMIT_PEAK_LIMIT < (tInterval 601).base :=
  ⟨stillOf rfl rfl rfl rfl rfl, by decide, wfOf (by decide) (by decide), by decide⟩

theorem wit_trips : let s := { tset [(F.PWR_LIMIT_POWER_LIMIT, 600), (F.PWR_LIMIT_PEAK_LIMIT, 600)] tJob with
      power := { PowerSt.init with hotRun := 100 } }
    s.memWf = true ∧ s.grants = true ∧ s.roomFor clsPower 0 ∧ s.flt.queue.length < 62 ∧ 100 ≤ s.power.hotRun ∧
      s.get F.PWR_LIMIT_PEAK_LIMIT < (tInterval 601).base :=
  ⟨wfOf (by decide) (by decide), by decide, ⟨by decide, by decide, by decide, by decide⟩, by decide⟩

/-! The period. -/

theorem wit_job_start : let s := { tset [(F.PWR_DOM_STAT_STATE domCxl, 3)] tOn with
      start := { tOn.start with hung := 10, cxlUp := false, restartHeld := some (.atBoundary, startEnvInit) } }
    (∀ e, s.start.restartHeld ≠ some (.immediate, e)) ∧ s.start.restartHeld = some (.atBoundary, startEnvInit) ∧ s.bootRoom ∧
      s.memWf = true ∧ s.start.powered = true ∧ s.start.hung = 10 ∧ s.start.restoreHeld = false ∧ s.tooManyFenced = false ∧ s.ladderEntries.all (fun e => e.initRung != 7) = true ∧ s.dom domCxl = 3 ∧ s.start.perstAsserted = false ∧
      s.start.cxlUp = false := by
  refine ⟨fun e h => ?_, rfl, ?_, wfOf (by decide) (by decide), by decide⟩
  · cases h
  · unfold State.bootRoom; decide

theorem wit_boundary (p : Nat) (hp : p = 4 ∨ p = 5) : let s := tPhase p
    s.memWf = true ∧ s.running = true ∧ s.on F.FLT_STAT_INNK_DOWN = false ∧ s.start.restartAtBoundary = none ∧ s.mem.latent = [] ∧
      s.period.inPeriod = true ∧ (s.phase = 4 ∨ s.phase = 5) ∧ s.period.stepActive = false ∧ s.get F.SEAL_STAT_SEAL_STATE ≠ 2 := by
  rcases hp with rfl | rfl <;> exact ⟨wfOf (by decide) (by decide), by decide⟩

theorem wit_ingest_begins (spare : Nat) (h : spare = 0 ∨ spare = 1) : let s := tset [(F.ENG_CAST_CFG_SPARE, spare)] tJob
    s.memWf = true ∧ s.running = true ∧ s.time.running = true ∧ s.period.inPeriod = true ∧ s.phase = 0 ∧ s.period.ttFault = false ∧
      (s.on F.ENG_CAST_CFG_SPARE = true ∨ s.on F.ENG_CAST_CFG_SPARE = false) := by
  rcases h with rfl | rfl <;> exact ⟨wfOf (by decide) (by decide), by decide⟩

theorem wit_ring_record : let s := { tPhase 1 with period := { tJob.period with
      rings := (tJob.period.rings).set 7 ⟨0, true, 64, 10, 1, true, false⟩ } }
    s.memWf = true ∧ s.running = true ∧ s.period.inPeriod = true ∧ s.phase = 1 ∧ allRings.find? (fun q => (s.ring q).reading) = some 7 ∧
      s.get (F.MGT_RING_CONS_CONS 7) + 1 < 2 ^ 64 := ⟨wfOf (by decide) (by decide), by decide⟩

theorem wit_ingest_ends : (tPhase 1).memWf = true ∧ (tPhase 1).running = true ∧ (tPhase 1).period.inPeriod = true ∧ (tPhase 1).phase = 1 ∧
    (tPhase 1).mem.latent = [] ∧ (tPhase 1).ingestOver = true ∧ (tPhase 1).time.running = true ∧ 1 < (tPhase 2).phase ∧ (tPhase 2).mem.spoiled = [] :=
  ⟨wfOf (by decide) (by decide), by decide⟩

theorem wit_inference_ends : (tPhase 2).memWf = true ∧ (tPhase 2).running = true ∧ (tPhase 2).period.inPeriod = true ∧ (tPhase 2).phase = 2 ∧
    (tPhase 2).mem.latent = [] ∧ (tPhase 2).get F.SEAL_STAT_SEAL_STATE ≠ 2 ∧ (tPhase 2).outStalled = false ∧ (tPhase 2).itemsDone = true ∧
    (tPhase 2).time.running = true ∧ 2 < (tPhase 3).phase ∧ (tPhase 3).mem.spoiled = [] := ⟨wfOf (by decide) (by decide), by decide⟩

theorem wit_training_ends (a v : Bool) : let s := { tPhase 3 with period := { tJob.period with stepActive := a }, seals := { SealSt.init with voted := v } }
    s.memWf = true ∧ s.running = true ∧ s.time.running = true ∧ s.period.inPeriod = true ∧ s.phase = 3 ∧ s.mem.spoiled = [] ∧ s.period.stepActive = a ∧ s.seals.voted = v := by
  cases a <;> cases v <;> exact ⟨wfOf (by decide) (by decide), by decide⟩

theorem wit_step_starts : let s := tset [(F.LINK_ALIGN_ALIGNED, 1), (F.MGT_PERIOD_CFG1_TRAIN_DL, 1000)] (tPhase 3)
    s.memWf = true ∧ s.mem.latent = [] ∧ s.mayTrain = true ∧ s.stepFits = true ∧ s.layout = some tWb.data.layout ∧ tWb.data.layout.rangeCopies = [] :=
  ⟨wfOf (by decide) (by decide), by decide⟩

theorem wit_no_step_fits : let s := tset [(F.MGT_PERIOD_CFG1_TRAIN_DL, 999)] (tPhase 3)
    s.memWf = true ∧ s.running = true ∧ s.period.inPeriod = true ∧ s.phase = 3 ∧ s.period.stepActive = false ∧ s.stepFits = false :=
  ⟨wfOf (by decide) (by decide), by decide⟩
/-! The units of a tile. -/

/-- A descriptor from its words. -/
def twords (ws : List Nat) : Nat := ws.foldr (fun w a => w + 2 ^ 64 * a) 0

/-- Tile 0 and the network-on-chip are ON. -/
def tTile : State := tset [(F.PWR_DOM_STAT_STATE 0, 3), (F.PWR_DOM_STAT_STATE domNoc, 3)] tJob

/-- Tile 0 with other contents. -/
def tTile0 (x : TileSt) : State := { tTile with tiles := tTile.tiles.set 0 x }

theorem tTile_free : tTile.memWf = true ∧ tTile.tileFree 0 := ⟨wfOf (by decide) (by decide), by decide, by decide, by decide, by decide, rfl, rfl⟩

/-- A vector command of one row of one lane, INT32, operands at bytes 0, 8, 16 and 24. -/
def tVec (op : Nat) (lanes : Nat) : BitVec 512 :=
  BitVec.ofNat 512 (twords [op * 2 ^ 56 + 12 * 2 ^ 52 + 12 * 2 ^ 48 + lanes * 2 ^ 37 + 1 * 2 ^ 4, 5 * 2 ^ 32, 0, 8, 16, 24])

theorem wit_vector : vectorOp (.add 0 (tVec 0x50 1)) = some (0, vAdd, tVec 0x50 1) ∧ vStatus vAdd (tVec 0x50 1) = stOk ∧
    vStatus vAdd (tVec 0x50 0) = stLayout ∧ vAdd ≠ vCvt ∧ vRows (tVec 0x50 1) = 1 ∧ vLanes (tVec 0x50 1) = 1 ∧ vScalarOp (tVec 0x50 1) = 0 ∧
    (∀ j ≤ 3, vBase (tVec 0x50 1) j + 8 ≤ tileBytes) ∧ (tTile.tile 0).pending.contains 0 = false := by decide

theorem wit_perm : vStatus vPerm (tVec 0x57 1) = stOk ∧ vOp (tVec 0x57 1) = vPerm ∧ vScalarOp (tVec 0x57 1) = 0 ∧
    vLanes (tVec 0x57 1) ≤ (laneOf fInt32 1).code ∧ (∀ j ≤ 3, ∀ r < vRows (tVec 0x57 1), ∀ l < vLanes (tVec 0x57 1),
      vBase (tVec 0x57 1) j + (r * vPitch (tVec 0x57 1) j + l * vStride (tVec 0x57 1) j) * 8 + 8 ≤ tileBytes) := by decide

/-- A MATMUL of slot 0 and CRU_COPY of slot 0 to byte `load`. -/
def tMx (op load : Nat) : BitVec 256 := BitVec.ofNat 256 (twords [op * 2 ^ 56, 64 * 2 ^ 32 + load, 7, 0])

/-- An operand that its Ladle refused or delivered. -/
def tOperand (status : Nat) : Operand := ⟨0, 0, status, 64, 64, [], [], [], [], 0, 0, 0, 0, 0, 0, 0, 0, false⟩

theorem wit_matmul (a b : Nat) (h : (a = stOk ∨ a = stLayout) ∧ (b = stOk ∨ b = stLayout)) :
    let s := tTile0 { TileSt.init with portA := [tOperand a], portB := [tOperand b] }
    s.memWf = true ∧ s.tileFree 0 ∧ s.roomFor clsTile 0 ∧ mOp (tMx 0x10 0) = opMatmulCode ∧ mSel (tMx 0x10 0) ≠ 3 ∧ mInit (tMx 0x10 0) = 0 ∧
      (s.tile 0).sideA (mSel (tMx 0x10 0)) = tOperand a :: ((s.tile 0).sideA (mSel (tMx 0x10 0))).tail ∧
      (s.tile 0).sideB (mSel (tMx 0x10 0)) = tOperand b :: ((s.tile 0).sideB (mSel (tMx 0x10 0))).tail ∧
      (tOperand a).status ≤ stLayout ∧ (tOperand b).status ≤ stLayout := by
  obtain ⟨rfl | rfl, rfl | rfl⟩ := h <;>
    exact ⟨wfOf (by decide) (by decide), ⟨by decide, by decide, by decide, by decide, by decide, by decide⟩,
      ⟨by decide, by decide, by decide, by decide⟩, by decide⟩

/-- An operand of 64 rows of 64 channels in FP4. -/
def tOperand64 (ladle : Nat) : Operand := { tOperand 0 with d := BitVec.ofNat 512 (twords [0, 0, 0, 64 * 2 ^ 16 + 64]), ladle := ladle }

theorem wit_matmul_runs : tTile.mxOwn 0 (tMx 0x10 0) (tOperand64 0) (tOperand64 1) = false ∧ opStatus (tMx 0x10 0) (tOperand64 0) = stOk ∧
    opStatus (tMx 0x10 0) (tOperand64 1) = stOk ∧ (tOperand64 0).basis = (tOperand64 1).basis := by decide

theorem wit_operand (op : Nat) (l : Fin 4) (h : op = opOperandIn ∨ op = opTransposeIn) (hl : l = 0 ∨ l = 3) :
    let s1 := if op = opTransposeIn then (tTile.setLayer 0 0).reachLayer 0 0 else tTile.setLayer 0 0
    s1.stallReq = false ∧ tTile.period.stepActive = false ∧ tTile.rungLadle 0 l.val 0 = 0 ∧ lLayer 0 = 0 := by
  rcases h with rfl | rfl <;> rcases hl with rfl | rfl <;> decide

theorem wit_matmul_quiet : tTile.noVoteDue := .inl rfl

theorem wit_cru_copy : mOp (tMx 0x11 (tileBytes - 16384)) = opCruCopyCode ∧ mLoad (tMx 0x11 (tileBytes - 16384)) % 512 = 0 ∧
    ((tTile.tile 0).cru[slotIx (mSlot (tMx 0x11 (tileBytes - 16384)))]).fmt ≠ 1 ∧ mLoad (tMx 0x11 (tileBytes - 16384)) + 16384 ≤ tileBytes ∧
    mLoad (tMx 0x11 511) % 512 ≠ 0 := by decide

/-- The partials of the split plan of `tWb`: part 0 of tile 0, part 1 of another module, refused there where `bad` is 1. -/
def tParts (bad : Nat) : List PartRef := [⟨0, some 0, 0, 0, false⟩, ⟨1, none, BitVec.ofNat 32 (bad * 256), 0, false⟩]

/-- A combine of split plan 0 with the partials that have arrived. -/
def tCombine (l : List PartRef) : CombineCmd := ⟨0, l, tileBytes - 16384, 9⟩

theorem wit_combine (bad : Nat) (h : bad = 0 ∨ bad = 1) : ∃ p, tTile.splitPlan 0 (tCombine (tParts bad)).plan = some p ∧
    (tTile.partsArrive 0 (tCombine (tParts bad))).partsReady 0 0 p = some (tParts bad) ∧
    (bad = 0 → ∀ r ∈ tParts bad, bits r.mstatus.toNat 11 8 = 0 ∧ p.buffer + 16384 * r.index + 16384 ≤ tileBytes) ∧ p.acc ≠ 1 ∧
    (bad = 1 → ∃ r ∈ tParts bad, bits r.mstatus.toNat 11 8 ≠ 0) ∧ (tCombine (tParts bad)).dst + 16384 ≤ tileBytes := by
  rcases h with rfl | rfl <;> exact ⟨_, rfl, by decide⟩

theorem wit_combine_waits : (∃ p, tTile.splitPlan 0 0 = some p ∧
    (tTile.partsArrive 0 (tCombine [(tParts 0).headD ⟨0, none, 0, 0, false⟩])).partsReady 0 0 p = none) ∧ tTile.splitPlan 0 1 = none ∧
    tTile.splitPlan 1 0 = none := ⟨⟨_, rfl, by decide⟩, by decide⟩

theorem wit_sequencer : let s := tTile0 { TileSt.init with dwq := [0] }
    s.memWf = true ∧ s.tileFree 0 ∧ (s.tile 0).dwq.length < 256 ∧ (s.tile 0).drain = false ∧ (s.tile 0).dwq = 0 :: [] ∧ dwqLen 0 = 0 ∧
      (s.tile 0).dwq ≠ [] ∧ s.start.memReady = true ∧ s.mem.latent = [] ∧ s.ledger.waiting = [] ∧
      (∀ k < 32, s.wcOf k = [] ∨ s.memCapped k = false) ∧ (tTile.tile 0).dwq = [] :=
  ⟨wfOf (by decide) (by decide), ⟨by decide, by decide, by decide, by decide, rfl, rfl⟩, by decide⟩

/-- Tile 0 may vote; every other tile is fenced where `m` is all ones but bit 0; its queue is drained where `dr` is 1. -/
def tVoting (m dr : Nat) : State := { tset [(F.MGT_PERIOD_STAT_PHASE, 3), (F.FLT_FENCE_TILE_TILES, m), (F.TILE_DWQ_STAT_DRAINED 0, dr)] tTile with
  period := { tJob.period with stepActive := true } }

theorem wit_seal_vote (m dr : Nat) (h : m = 0 ∨ m = 2 ^ 64 - 2) (hd : dr = 0 ∨ dr = 1) : (tVoting m dr).memWf = true ∧ (tVoting m dr).tileFree 0 ∧
    (tVoting m dr).domReady domTimetable = true ∧ (tVoting m dr).mayVote 0 = true ∧ ((tVoting m dr).tile 0).pending.contains 0 = false ∧
    (tVoting m dr).on (F.TILE_DWQ_STAT_DRAINED 0) = decide (dr = 1) ∧ (tVoting m dr).exchanging = false ∧ (tVoting m dr).mem.latent = [] ∧
    (∀ k < 32, (tVoting m dr).wcOf k = []) ∧ (tVoting m dr).seals.voted = false := by
  rcases h with rfl | rfl <;> rcases hd with rfl | rfl <;>
    exact ⟨wfOf (by decide) (by decide), ⟨by decide, by decide, by decide, by decide, rfl, rfl⟩, by decide⟩

theorem wit_seal_last : (∃ m : TileIx, m ≠ 0 ∧ (tVoting 0 1).tileFenced m.val = false ∧ ((tVoting 0 1).tile m).part = none) ∧
    ∀ m : TileIx, m ≠ 0 → (tVoting (2 ^ 64 - 2) 1).tileFenced m.val = true ∨ ((tVoting (2 ^ 64 - 2) 1).tile m).part.isSome = true :=
  ⟨⟨1, by decide⟩, by decide⟩

/-! The zoo engines. -/

/-- The first zoo engine of each kind is ON. -/
def tZoo : State := tset [(F.PWR_DOM_STAT_STATE 64, 3), (F.PWR_DOM_STAT_STATE 80, 3), (F.PWR_DOM_STAT_STATE 88, 3)] tTile

theorem tZoo_free (d : Nat) (h : d = domWay 0 ∨ d = domTally 0 ∨ d = domKiln 0) : tZoo.memWf = true ∧ tZoo.engineFree d 0 ∧ tZoo.memQuiet := by
  rcases h with rfl | rfl | rfl <;>
    exact ⟨wfOf (by decide) (by decide), ⟨⟨by decide, by decide, by decide, by decide, by decide, by decide⟩, by decide, by decide⟩,
      ⟨by decide, by decide, by decide, fun _ => rfl⟩⟩

/-- EXP of one FP32 element between tile memories, the last four bytes of tile 63 the source. -/
def tKiln (count : Nat) : BitVec 256 :=
  BitVec.ofNat 256 (twords [0x40 * 2 ^ 56 + 11 * 2 ^ 52 + 11 * 2 ^ 48 + 3, count, tileAddr 63 (tileBytes - 4), tileAddr 0 0])

theorem wit_kiln : kilnOf (.exp 0 0 (tKiln 1)) = some (0, 0, kExpOp, tKiln 1) ∧ tZoo.period.outBlocked = false ∧ kRefused kExpOp (tKiln 1) = false ∧ kCount (tKiln 1) = 1 ∧
    kSrcBase (tKiln 1) = tileAddr (63 : TileIx).val (tileBytes - 4) ∧ kDstBase (tKiln 1) = tileAddr (0 : TileIx).val 0 ∧
    kRefused kExpOp (tKiln 0) = true := by decide

/-- SEG_COUNT of one segment of one column. -/
def tCountOne : BitVec 512 := BitVec.ofNat 512 (twords [0x33 * 2 ^ 56 + 11 * 2 ^ 52 + 12 * 2 ^ 48, 1 * 2 ^ 32 + 1, 0, 0, 0, 0x8000000000])

theorem wit_tally : tallyOf (.segSum 0 0 0) = some (0, 0, tSum, 0) ∧ tRefused tSum 0 = true ∧
    tallyOf (.segCount 0 0 tCountOne) = some (0, 0, tCount, tCountOne) ∧ tRefused tCount tCountOne = false ∧ ([5, -7] : List Int) ≠ [] ∧
    (∀ k ≤ 1, (-2147483648 : Int) ≤ (([2147483647] : List Int).take k).sum ∧ (([2147483647] : List Int).take k).sum ≤ 2147483647) := by decide

/-- COPY_IN of one row of 512 bytes to byte 0. -/
def tCopy : BitVec 512 := BitVec.ofNat 512 (twords [0x23 * 2 ^ 56 + 5 * 2 ^ 48 + 512 * 2 ^ 32, 0, 0, 2 ^ 32 + 2 ^ 16 + 1, 0, 0, 1, 0])

theorem wit_wayfarer : wayOf (.copyIn 0 0 tCopy) = some (0, 0, wCopyIn, tCopy) ∧ wRefused wCopyIn tCopy = false ∧ wRefused wGatherCsr 0 = true := by decide

/-! Bonded memory. -/

/-- Stack 0 has channel 8 as its spare. -/
def tSpare (l : List (Field × Nat)) : State := tset ((F.MEM_CH_STAT_STATE 8, 1) :: l) tJob

theorem wit_scrub (thr : Nat) (h : thr = 0 ∨ thr = 1) : let s := tSpare [(F.MEM_MIG_CTL_CORR_THRESH, thr)]
    s.memWf = true ∧ s.dramUp = true ∧ s.ledger.waiting = [] ∧ s.inService 0 = true ∧ s.roomFor clsDram 0 ∧ s.migratesTo 0 8 := by
  rcases h with rfl | rfl <;> exact ⟨wfOf (by decide) (by decide), by decide, by decide, by decide, ⟨by decide, by decide, by decide, by decide⟩,
    by decide, by decide, by decide⟩

theorem wit_recalibration : let s := { tSpare [(F.MEM_CH_STAT_RECAL 0, 1)] with mem := { MemSt.init with recalRun := [(0, 1)] } }
    s.memWf = true ∧ s.dramUp = true ∧ s.recalibrates 0 = true ∧ s.on (F.MEM_CH_STAT_RECAL 0) = true ∧ Sparse.getD s.mem.recalRun 0 0 ≠ 0 ∧
      Sparse.getD (tSpare []).mem.recalRun 0 0 = 0 ∧ s.chState 0 = 0 ∧ s.spareOf (chStack 0) = some 8 ∧ s.migrating = false :=
  ⟨wfOf (by decide) (by decide), by decide⟩

theorem wit_scrub_fails : let s := { tSpare [] with mem := { MemSt.init with corrLog := [(0, 0)] } }
    s.memWf = true ∧ 0 < s.corrHour 0 ∧ s.get F.MEM_MIG_CTL_CORR_THRESH < 1 ∧ s.migratesTo 0 8 ∧
      ∀ x < 288, x ≠ 0 → s.chState x = 0 → s.corrHour x ≤ bits (0#64).toNat 47 32 :=
  ⟨wfOf (by decide) (by decide), by decide, by decide, ⟨by decide, by decide, by decide⟩, fun x _ hx _ => by
    simp [State.corrHour, tSpare, Ne.symm hx]⟩

theorem wit_wc_timer : let s := { tset [(F.PWR_DOM_STAT_STATE (domMem 31), 3)] tJob with mem := { MemSt.init with wc := (Vector.replicate 32 []).set 31 [⟨7, 0x3FFFFF, [(511, 9)]⟩] } }
    s.memWf = true ∧ s.dramUp = true ∧ s.ledger.waiting = [] ∧ s.mem.latent = [] ∧ s.domReady (domMem 31) = true ∧ s.stalled = [] ∧
      s.stallReq = false ∧ (s.wcOf 31).find? (fun x => x.pos == 7 && x.line == 0x3FFFFF) = some ⟨7, 0x3FFFFF, [(511, 9)]⟩ ∧
      s.physLine (8 * 31 + 7) 0x3FFFFF = some (286 * 0x400000 + 0x3FFFFF) ∧ Sparse.sorted [(511, (9 : Byte))] = true ∧
      (∀ x ∈ [(511, (9 : Byte))], x.1 < 512) := ⟨wfOf (by decide) (by decide), by decide⟩

theorem wit_migration_request : let s := tSpare []
    s.memWf = true ∧ s.dramUp = true ∧ s.ledger.waiting = [] ∧ s.mem.latent = [] ∧ (0x1#64).toNat % 2 = 1 ∧ bits (0x1#64).toNat 7 4 ≤ 8 ∧
      s.chState 0 = 0 ∧ s.spareOf (chStack 0) = some 8 ∧ s.migrating = false ∧ 8 < bits (0x91#64).toNat 7 4 ∧
      ∀ x < 288, s.chState x = 0 → s.corrHour x ≤ bits (0x1#64).toNat 47 32 :=
  ⟨wfOf (by decide) (by decide), by decide, by decide, by decide, by decide, by decide, by decide, by decide, by decide, by decide,
    fun _ _ _ => Nat.min_le_right _ _⟩

theorem wit_line_copy (p : Nat) (h : p = 0 ∨ p = 0x3FFFFF) :
    let s := tSpare [(F.MEM_MIG_STAT_STATE, 1), (F.MEM_MIG_STAT_DST_CH, 8), (F.MEM_MIG_STAT_PROGRESS, p)]
    s.memWf = true ∧ s.dramUp = true ∧ s.mem.latent = [] ∧ p = s.get F.MEM_MIG_STAT_PROGRESS ∧ p < 0x400000 ∧ s.get F.MEM_MIG_STAT_STATE = 1 ∧
      s.memCapped (chStack s.migSrc) = false ∧ s.ledger.waiting = [] ∧ s.migSrc ≠ s.migDst ∧ s.migSrc < 288 ∧ s.migDst < 288 ∧ s.posOf s.migSrc = some 0 := by
  rcases h with rfl | rfl <;> exact ⟨wfOf (by decide) (by decide), by decide⟩

theorem wit_channel_dead : tJob.memWf = true ∧ tJob.dramUp = true ∧ tJob.chState 0 = 0 ∧ tJob.migrating = false ∧ tJob.roomFor clsDram 0 ∧
    tJob.spareOf (chStack 0) = none ∧ tJob.posOf 0 = some 0 ∧ (tSpare []).spareOf (chStack 0) = some 8 ∧ (tSpare []).posOf 0 = some 0 ∧
    tJob.ledger.diedCopy = [] :=
  ⟨wfOf (by decide) (by decide), by decide, by decide, by decide, ⟨by decide, by decide, by decide, by decide⟩, by decide⟩
/-! The seal. -/

/-- A step is in flight, this module leads the seal group of modules 0 and 1, and port 0 is UP. -/
def tSeal : State := { tset [(F.SEAL_CFG_SEAL_GROUP, 1), (F.LINK_PORT_STAT_STATE 0, 3)] (tPhase 3) with
  period := { tJob.period with stepActive := true }
  seals := { SealSt.init with voted := true }
  mem := { MemSt.init with shadows := [(0x800000, 0x8000100000)] } }

/-- A decision of step 1. -/
def tDec (commit : Bool) (reason : Nat) : Decision := ⟨1, 0, commit, BitVec.ofNat 7 reason, 0, 3, []⟩

theorem wit_decision (c : Bool) (r : Nat) (h : r = 0 ∨ r = 4 ∨ r = 8 ∨ r = 16 ∨ r = 64) : tSeal.memWf = true ∧ tSeal.decisionDue (tDec c r) = true ∧
    tSeal.seals.decided = false ∧ tSeal.mem.latent = [] ∧ Sparse.sorted tSeal.mem.shadows = true ∧ Sparse.sorted tSeal.mem.frames = true ∧
    (∀ n : TileIx, (tSeal.tile n).cksFailed = false) ∧ tSeal.roomFor clsJob 0 ∧ tSeal.flt.queue.length < 60 ∧
    (counts (tDec c 4) = false) ∧ tSeal.get F.SEAL_STAT_SEAL_STATE ≠ 2 ∧
    (∃ page, Sparse.find tSeal.mem.shadows page = some 0x8000100000) := by
  refine ⟨wfOf (by decide) (by decide), ?_, by decide, by decide, by decide, by decide, by decide, ⟨by decide, by decide, by decide, by decide⟩,
    by decide, ?_, by decide, ⟨0x800000, by decide⟩⟩
  · rcases h with rfl | rfl | rfl | rfl | rfl <;> cases c <;> decide
  · cases c <;> decide

theorem wit_decision_forwarded (c : Bool) : tSeal.forwardDecision (tDec c 0) = tSeal ∧ ¬ tSeal.forwards := by
  refine ⟨by cases c <;> rfl, ?_⟩
  rintro ⟨g, hg, hp⟩
  obtain rfl : g = tWb.data.groups[1] := by
    have : tSeal.sealGroup = some tWb.data.groups[1] := rfl
    rw [this] at hg
    exact (Option.some.inj hg).symm
  exact absurd hp (by decide)

/-- A discard after TRAIN_DL. -/
theorem wit_decision_late : let s := { tSeal with period := { tSeal.period with stepActive := false }, seals := { SealSt.init with late := true } }
    s.memWf = true ∧ s.decisionDue (tDec false 8) = true ∧ s.seals.decided = false ∧ s.mem.latent = [] ∧ s.seals.late = true ∧
      Sparse.sorted s.mem.shadows = true ∧ Sparse.sorted s.mem.frames = true ∧ (∀ n : TileIx, (s.tile n).cksFailed = false) ∧
      s.roomFor clsJob 0 ∧ s.flt.queue.length < 60 :=
  ⟨wfOf (by decide) (by decide), by decide, by decide, by decide, by decide, by decide, by decide, by decide,
    ⟨by decide, by decide, by decide, by decide⟩, by decide⟩

/-- A chunk of 32 zero bytes from a module, with its CRC-32C. -/
def tFrame (src grp kind crc : Nat) : DataFrame where
  link := ⟨0, 0, 0, 0, false, 0⟩
  chunk := ⟨BitVec.ofNat 16 src, 0, BitVec.ofNat 8 grp, BitVec.ofNat 8 kind, 0, 0, 0, 0, 0, 32, 0, 0, 0, BitVec.ofNat 32 crc⟩
  payload := List.replicate 32 0
  fecOk := true
  corrected := 0

/-- R271: the check value of CRC-32C. -/
theorem test_crc32c_check_value : crc32c [0x31, 0x32, 0x33, 0x34, 0x35, 0x36, 0x37, 0x38, 0x39] = 0xE3069283 := by decide

/-- Frames in order on port 0. -/
theorem tFrame_inOrder (s : State) (hs : s.portUp 0 = true) (hg : s.get (F.LINK_PORT_STAT_GEN 0) = 0) (hr : (s.port 0).rxSeq = 0) :
    s.inOrder 0 (tFrame 1 1 4 21833979) ∧ s.inOrder 0 (tFrame 1 0 3 1649788079) := by
  refine ⟨⟨hs, ?_, by decide, by decide, ?_, by decide, by decide, by decide, by decide⟩,
    ⟨hs, ?_, by decide, by decide, ?_, by decide, by decide, by decide, by decide⟩⟩
  all_goals first | exact hg.symm | exact hr.symm

theorem wit_vote : tSeal.memWf = true ∧ tSeal.running = true ∧ tSeal.mem.latent = [] ∧ tSeal.sealGroup = tWb.data.groups[1]? ∧
    (∀ g ∈ tWb.data.groups[1]?, groupLeads g = true ∧ groupPos g 1 = some 1 ∧ g.members.length = 2) ∧ tSeal.period.stepActive = true ∧
    tSeal.seals.decided = false ∧ tSeal.staleChunk (tFrame 1 1 4 21833979).chunk = false ∧
    tSeal.hasColl (keyOfChunk (tFrame 1 1 4 21833979).chunk) = false ∧ (Sparse.insert tSeal.seals.votes 1 (voteOf (tFrame 1 1 4 0).payload)).length = 1 ∧
    (Sparse.insert [(0, (⟨1, 0, 0, 0, []⟩ : Vote))] 1 (voteOf (tFrame 1 1 4 0).payload)).length = 2 ∧
    tSeal.mayDecide = true ∧ tSeal.time.running = true ∧ tSeal.seals.votes.length < 2 :=
  ⟨wfOf (by decide) (by decide), by decide⟩

theorem wit_vote_frame : tSeal.inOrder 0 (tFrame 1 1 4 21833979) := (tFrame_inOrder tSeal (by decide) (by decide) (by decide)).1

theorem wit_vote_taken : (tSeal.takeFrame 0 (tFrame 1 1 4 21833979)).2 = true ∧ (tJob.takeFrame 0 (tFrame 1 1 4 21833979)).2 = false := by decide

theorem wit_vote_of_member : let g : Group := ⟨[⟨0, 0, 0⟩, ⟨1, 30, 30⟩], 0, 1, false, true⟩
    let s := { tSeal with wb := some { tWb with data := { tWb.data with groups := [g, g] } } }
    let f := tFrame 1 1 4 21833979
    let s1 := (s.takeFrame 0 f).1
    (s.takeFrame 0 f).2 = true ∧ s1.staleChunk f.chunk = false ∧ s1.hasColl (keyOfChunk f.chunk) = false ∧ s1.sealGroup = some g ∧
      groupLeads g = false ∧ ∃ l q, memberAt g g.leaderPos = some l ∧ s1.portTo l 0 = some q := by
  refine ⟨by decide, by decide, by decide, rfl, by decide, _, 0, rfl, by decide⟩

theorem wit_vote_stale : let s := tset [(F.MGT_PERIOD_STAT_PERIOD_NUM, 1)] tSeal
    (s.takeFrame 0 (tFrame 1 1 4 21833979)).2 = true ∧ (s.takeFrame 0 (tFrame 1 1 4 21833979)).1.staleChunk (tFrame 1 1 4 21833979).chunk = true := by
  decide

/-- A port's other state. -/
def tPort (p : PortIx) (st : Nat) (x : PortSt) (l : List (Field × Nat)) : State :=
  (tset ((F.LINK_PORT_STAT_STATE p.val, st) :: (F.MGT_BOOTSTAT_STEP, 11) :: l) tJob).setPort p x

theorem wit_query : let s := { tPort 0 3 { PortSt.init with credits := 1 } [] with seals := { SealSt.init with log := [tDec true 0] } }
    s.memWf = true ∧ s.running = true ∧ s.mem.latent = [] ∧ s.seals.log.find? (fun d => d.step == 1) = some (tDec true 0) ∧
      s.seals.log.any (fun d => d.step == 2) = false ∧ s.sendsNow 0 :=
  ⟨wfOf (by decide) (by decide), by decide, by decide, by decide, by decide, by decide, by decide, by decide, by decide, by decide⟩

/-! Links. -/

theorem tset_regs (l : List (Field × Nat)) (s : State) : tset l s = { s with regs := (tset l s).regs } := by
  induction l generalizing s with
  | nil => rfl
  | cons e l ih => exact ih (s.set e.1 e.2)

theorem tPort_quiet (p : PortIx) (st : Nat) (x : PortSt) (l : List (Field × Nat)) : (tPort p st x l).portQuiet := by
  unfold tPort
  rw [tset_regs]
  exact ⟨stillOf rfl rfl rfl rfl rfl, show (0 : Nat) ≠ 9 by decide⟩

theorem wit_electrical (st r : Nat) (h : st = 1 ∨ st = 4) (hr : r = 0 ∨ r = 1) : let s := tPort 0 st PortSt.init [(F.LINK_PORT_STAT_RETRAINS 0, r)]
    s.memWf = true ∧ s.blocksUp = true ∧ (s.portState 0 = 1 ∨ s.portState 0 = 4) ∧ s.portQuiet ∧ fullLanes 0 ≤ 2 * (fullLanes 0 / 2) ∧
      2 * (fullLanes 0 / 2 - 1) < fullLanes 0 ∧ fullLanes 0 / 2 - 1 < fullLanes 0 ∧ s.get (F.LINK_PORT_STAT_RETRAINS 0) = r ∧
      s.roomFor clsPort 0 := by
  rcases h with rfl | rfl <;> rcases hr with rfl | rfl <;>
    exact ⟨wfOf (by decide) (by decide), by decide, by decide, tPort_quiet _ _ _ _, by decide, by decide, by decide, by decide,
      ⟨by decide, by decide, by decide, by decide⟩⟩

theorem wit_fec_lock (r k : Nat) (h : (r = 0 ∨ r = 1) ∧ (k = 0 ∨ k = 2)) :
    let s := tPort 0 1 { PortSt.init with retrainFails := k } [(F.LINK_PORT_STAT_WIDTH 0, 4), (F.LINK_PORT_STAT_RETRAINS 0, r)]
    s.memWf = true ∧ s.blocksUp = true ∧ s.portState 0 = 1 ∧ s.get (F.LINK_PORT_STAT_WIDTH 0) ≠ 0 ∧ s.get (F.LINK_PORT_STAT_RETRAINS 0) = r ∧
      (s.port 0).retrainFails = k ∧ s.portQuiet ∧ s.roomFor clsPort 0 := by
  obtain ⟨rfl | rfl, rfl | rfl⟩ := h <;>
    exact ⟨wfOf (by decide) (by decide), by decide, by decide, by decide, by decide, by decide, tPort_quiet _ _ _ _,
      ⟨by decide, by decide, by decide, by decide⟩⟩

/-- What module 1 says on its port to module 0, for a job tag. -/
def tIdent (tag : Nat) : IdentBody := ⟨1, 1, 1, 14, BitVec.ofNat 16 tag, false, 0, 0, 0⟩

theorem wit_ident : let s := tPort 0 2 PortSt.init [(F.LINK_IDENT_GEN_MIN, 1), (F.LINK_IDENT_GEN_MAX, 1)]
    s.memWf = true ∧ s.blocksUp = true ∧ s.portState 0 = 2 ∧ s.portQuiet ∧ s.genOk (tIdent 0) = true ∧
      (tIdent 0).jobTag.toNat = s.get F.LINK_IDENT_JOB_TAG ∧ s.wiredOk 0 (tIdent 0) = true ∧
      (tIdent 1).jobTag.toNat ≠ s.get F.LINK_IDENT_JOB_TAG ∧ s.probed 0 = false :=
  ⟨wfOf (by decide) (by decide), by decide, by decide, tPort_quiet _ _ _ _, by decide⟩

theorem wit_ident_pair : let s := tPort 17 2 PortSt.init [(F.LINK_IDENT_GEN_MIN, 1), (F.LINK_IDENT_GEN_MAX, 1)]
    let b := { tIdent 0 with memberId := 0x400 }
    s.memWf = true ∧ s.blocksUp = true ∧ s.portState 17 = 2 ∧ s.genOk b = true ∧ b.jobTag.toNat = s.get F.LINK_IDENT_JOB_TAG ∧
      s.wiredOk 17 b = true ∧ s.takesCasts = true := ⟨wfOf (by decide) (by decide), by decide⟩

/-- A frame on its way whose payload the module holds. -/
def tKept : SentFrame := ⟨(tFrame 1 0 3 0).link, (tFrame 1 0 3 0).chunk, .held (List.replicate 32 0)⟩

theorem tKept_here : keptHere [tKept] := by
  intro f hf
  obtain rfl := List.mem_singleton.mp hf
  exact ⟨_, rfl⟩

theorem wit_probed (p : PortIx) (r : Nat) (hp : p = 0 ∨ p = 17) (hr : r = 0 ∨ r = 1) :
    let s := tPort p 2 { PortSt.init with trips := List.replicate 16 640, unacked := [tKept] }
      [(F.LINK_PORT_STAT_GEN p.val, 1), (F.LINK_PORT_STAT_RETRAINS p.val, r)]
    s.memWf = true ∧ s.blocksUp = true ∧ s.probed p = true ∧ s.portQuiet ∧ keptHere (s.port p).unacked ∧ (s.port p).waiting = [] ∧
      s.get (F.LINK_PORT_STAT_RETRAINS p.val) = r ∧ s.takesCasts = true := by
  rcases hp with rfl | rfl <;> rcases hr with rfl | rfl <;>
    exact ⟨wfOf (by decide) (by decide), by decide, by decide, tPort_quiet _ _ _ _, tKept_here, by decide⟩

theorem wit_lane_fail (st r : Nat) (h : st = 3 ∨ st = 4) (hr : r = 0 ∨ r = 1) : let s := tPort 0 st PortSt.init [(F.LINK_PORT_STAT_RETRAINS 0, r)]
    s.memWf = true ∧ s.blocksUp = true ∧ s.portState 0 ≠ 0 ∧ s.portState 0 ≠ 5 ∧ s.portQuiet ∧ s.portUp 0 = decide (st = 3) ∧
      s.get (F.LINK_PORT_STAT_RETRAINS 0) = r ∧ s.roomFor clsPort 0 := by
  rcases h with rfl | rfl <;> rcases hr with rfl | rfl <;>
    exact ⟨wfOf (by decide) (by decide), by decide, by decide, by decide, tPort_quiet _ _ _ _, by decide, by decide,
      ⟨by decide, by decide, by decide, by decide⟩⟩

/-- Port 0 is UP with one frame on its way. -/
def tSent (resends : Nat) : State := tPort 0 3 { PortSt.init with unacked := [tKept], txSeq := 1, resends := resends } []

theorem wit_port_up : (tSent 0).memWf = true ∧ (tSent 0).blocksUp = true ∧ (tSent 0).portUp 0 = true ∧ ((tSent 0).port 0).waiting = [] ∧
    (tSent 0).portState 0 = 3 ∧ ((tSent 0).port 0).unacked ≠ [] ∧ keptHere ((tSent 0).port 0).unacked ∧
    (⟨1, 0⟩ : ProbeBody).echoTime = 0 ∧ (⟨1, 2⟩ : ProbeBody).echoTime ≠ 0 :=
  ⟨wfOf (by decide) (by decide), by decide, by decide, by decide, by decide, by decide, tKept_here, by decide⟩

theorem wit_link_ack (k : Nat) (nak : Bool) (h : k = 0 ∨ k = 1) : let hd : LinkHeader := ⟨0, BitVec.ofNat 16 k, 1, 0, nak, 3⟩
    hd.gen.toNat = (tSent 0).get (F.LINK_PORT_STAT_GEN 0) ∧ hd.ftype.toNat ≤ 1 ∧ ((tSent 0).port 0).unacked = tKept :: [] ∧
      k ≤ ([] : List SentFrame).length + 1 ∧ k < 65536 ∧ hd.ackSeq.toNat = (tKept.link.seqNo.toNat + k) % 65536 ∧
      (k = 0 → [tKept].drop k ≠ [] ∧ keptHere ([tKept].drop k) ∧ ((tSent 0).port 0).resends < 7) ∧ (k = 1 → [tKept].drop k = []) ∧
      ({ hd with gen := 1 }).gen.toNat ≠ (tSent 0).get (F.LINK_PORT_STAT_GEN 0) ∧ ((tSent 7).port 0).resends = 7 ∧
      ((tJob.setPort 0 PortSt.init).port 0).unacked = [] := by
  rcases h with rfl | rfl <;> cases nak <;>
    exact ⟨by decide, by decide, by decide, by decide, by decide, by decide,
      fun h => by first | exact absurd h (by decide) | exact ⟨by decide, tKept_here, by decide⟩, by decide⟩

/-- The master of markers within a period of 100,000 ticks. -/
def tMarker (master at_ : Nat) : State := { tset [(F.LINK_ALIGN_MASTER, master), (F.MGT_PERIOD_CFG0_PERIOD_TICKS, 100000),
    (F.LINK_PORT_STAT_STATE 0, 3), (F.LINK_PORT_STAT_STATE 17, 3)] tJob with time := { tJob.time with osc := 8 * at_ } }

theorem wit_marker_send (at_ : Nat) (h : at_ = 0 ∨ at_ = 93750) : (tMarker 1 at_).memWf = true ∧ (tMarker 1 at_).running = true ∧
    (tMarker 1 at_).time.running = true ∧ (tMarker 1 at_).period.inPeriod = true ∧ (tMarker 1 at_).on F.LINK_ALIGN_MASTER = true ∧
    (tMarker 1 at_).markerDue < (tMarker 1 at_).get F.MGT_PERIOD_CFG0_PERIOD_TICKS := by
  rcases h with rfl | rfl <;> exact ⟨wfOf (by decide) (by decide), by decide⟩

theorem wit_marker : let s := tMarker 0 0
    s.memWf = true ∧ s.portUp 0 = true ∧ s.portUp 17 = true ∧ s.on F.LINK_ALIGN_MASTER = false ∧ s.period.lastMarker ≠ some (0, 0) ∧
      (s.lateness 0 2000 0).1.natAbs ≤ 2000 ∧ 2000 < (s.lateness 0 2001 0).1.natAbs ∧ (s.lateness 0 10000 0).1.natAbs ≤ 10000 ∧
      10000 < (s.lateness 0 10001 0).1.natAbs ∧ (s.lateness 0 31999999 0).2 ≠ s.get F.MGT_PERIOD_STAT_PERIOD_NUM :=
  ⟨wfOf (by decide) (by decide), by decide⟩

/-! Collectives. -/

/-- Descriptor of a collective: operation, group, peer, length; source and destination are the last 64 bytes of tile 0. -/
def tColl (op grp peer combine length : Nat) : BitVec 512 :=
  BitVec.ofNat 512 (twords [op * 2 ^ 56 + grp * 2 ^ 48 + combine * 2 ^ 44 + 5, peer, tileAddr 0 (tileBytes - 64), tileAddr 0 (tileBytes - 64), 0, length])

/-- Groups: 0 led by this module, 1 by module 1, 2 led by this module over a remote pod, 3 by a module of a remote pod. -/
def tGroups : List Group :=
  [⟨[⟨0, 30, 30⟩, ⟨1, 0, 0⟩], 0, 0, false, false⟩, ⟨[⟨0, 30, 30⟩, ⟨1, 0, 0⟩], 1, 0, false, false⟩,
   ⟨[⟨0, 30, 30⟩, ⟨16, 15, 15⟩], 0, 0, false, false⟩, ⟨[⟨0, 30, 30⟩, ⟨16, 15, 15⟩], 1, 0, false, false⟩]

/-- Tile 0 works in training, ports 0 and 15 are UP. -/
def tCollSt (queue : List Coll) (planes : List (Field × Nat)) : State :=
  let s := tset ([(F.MGT_PERIOD_STAT_PHASE, 3), (F.PWR_DOM_STAT_STATE 0, 3), (F.PWR_DOM_STAT_STATE domNoc, 3), (F.LINK_PORT_STAT_STATE 0, 3),
    (F.LINK_PORT_STAT_STATE 15, 3)] ++ planes) tJob
  { s with
    wb := some { tWb with data := { tWb.data with groups := tGroups } }
    coll := { CollSt.init with ports := Vector.replicate 18 { PortSt.init with credits := 1 }, queue := queue } }

theorem tCollSt_ok (q : List Coll) : (tCollSt q []).memWf = true ∧ (tCollSt q []).running = true ∧ (tCollSt q []).stalled = [] ∧
    (tCollSt q []).tileFree 0 ∧ (tCollSt q []).memQuiet := by
  have h : (tCollSt [] []).memWf = true ∧ (tCollSt [] []).running = true ∧ (tCollSt [] []).stalled = [] ∧ (tCollSt [] []).tileFree 0 ∧
      (tCollSt [] []).memQuiet :=
    ⟨wfOf (by decide) (by decide), by decide, by decide, ⟨by decide, by decide, by decide, by decide, by decide, by decide⟩,
      ⟨by decide, by decide, by decide, fun _ => rfl⟩⟩
  exact h

/-- A collective in flight. -/
def tInFlight (d : BitVec 512) (planes : Vector (Option PlaneMode) 2) : Coll :=
  ⟨0, d, 0, 3, true, [], [], [], [], [], [], [], (cSrc d, 32), (cDst d, 32), [], [], planes, false, [], [], false, 0, 0, 0, 0, 0, 0, 0⟩

theorem tInFlight_ok (d : BitVec 512) (pl : Vector (Option PlaneMode) 2) (g : Group) (hg : tGroups[cGroup d]? = some g) :
    (tCollSt [tInFlight d pl] []).inFlight g (tInFlight d pl) :=
  ⟨(tCollSt_ok _).2.1, rfl, rfl, rfl, hg, rfl, rfl, rfl, List.not_mem_nil, rfl, (tCollSt_ok _).2.2.2.2⟩

theorem wit_post : (tCollSt [] []).collStatus 0x60 (tColl 0x60 0 0 0 32) = stOk ∧ (tCollSt [] []).collStatus 0x61 (tColl 0x61 0 0 0 32) = stOk ∧
    (tCollSt [] []).collStatus 0x62 (tColl 0x62 0 1 0 32) = stOk ∧ (tCollSt [] []).collStatus 0x63 (tColl 0x63 0 1 0 32) = stOk ∧
    (tCollSt [] []).collStatus 0x60 0 ≠ stOk ∧ (tCollSt [] []).coll.readys = [] ∧ (tCollSt [] []).coll.gos = [] ∧
    (∀ g ∈ (tCollSt [] []).group 0, sendTargets g (tColl 0x60 0 0 0 32) ≠ [] ∧ dataSources g (tColl 0x61 0 0 0 32) ≠ [] ∧
      sendTargets g (tColl 0x62 0 1 0 32) ≠ [] ∧ dataSources g (tColl 0x63 0 1 0 32) ≠ []) ∧
    64 ≤ (((tCollSt (List.replicate 64 { tInFlight (tColl 0x62 0 1 0 32) (Vector.replicate 2 none) with active := false }) []).coll.queue).filter
      (fun c => !c.active)).length := by decide

/-- Chunks of modules 1 and 16 in order. -/
theorem tChunk_inOrder (q : List Coll) : (tCollSt q []).inOrder 0 (tFrame 1 0 3 1649788079) ∧ (tCollSt q []).inOrder 0 (tFrame 1 1 0 1433945819) ∧
    (tCollSt q []).inOrder 0 (tFrame 1 0 1 1213166527) ∧ (tCollSt q []).inOrder 15 (tFrame 16 2 2 3132050045) ∧
    (tCollSt q []).inOrder 15 (tFrame 16 2 5 3515730117) := by
  have h0 : (tCollSt [] []).portUp 0 = true ∧ (tCollSt [] []).get (F.LINK_PORT_STAT_GEN 0) = 0 := by decide
  have h15 : (tCollSt [] []).portUp 15 = true ∧ (tCollSt [] []).get (F.LINK_PORT_STAT_GEN 15) = 0 := by decide
  have r : (tCollSt [] []).port 0 = { PortSt.init with credits := 1 } ∧ (tCollSt [] []).port 15 = { PortSt.init with credits := 1 } := by decide
  exact ⟨⟨h0.1, h0.2.symm, by decide, by decide, (congrArg PortSt.rxSeq r.1).symm, by decide, by decide⟩, ⟨h0.1, h0.2.symm, by decide, by decide, (congrArg PortSt.rxSeq r.1).symm, by decide, by decide⟩,
    ⟨h0.1, h0.2.symm, by decide, by decide, (congrArg PortSt.rxSeq r.1).symm, by decide, by decide⟩, ⟨h15.1, h15.2.symm, by decide, by decide, (congrArg PortSt.rxSeq r.2).symm, by decide, by decide⟩,
    ⟨h15.1, h15.2.symm, by decide, by decide, (congrArg PortSt.rxSeq r.2).symm, by decide, by decide⟩⟩

theorem wit_chunk_written : let c := tInFlight (tColl 0x63 0 1 0 32) (Vector.replicate 2 none)
    let b := tInFlight (tColl 0x60 1 0 0 32) (Vector.replicate 2 none)
    landArrival (.sendData 0 (tFrame 1 0 3 1649788079)) = some (0, tFrame 1 0 3 1649788079, 0x63, 3) ∧
      landArrival (.broadcastData 0 (tFrame 1 1 0 1433945819)) = some (0, tFrame 1 1 0 1433945819, 0x60, 0) ∧
      (tCollSt [c] []).staleChunk (tFrame 1 0 3 0).chunk = false ∧ keyOfChunk (tFrame 1 0 3 0).chunk = collKeyOf c ∧
      keyOfChunk (tFrame 1 1 0 0).chunk = collKeyOf b ∧ cOp c.d = 0x63 ∧ cOp b.d = 0x60 ∧ 0 < cChunks c.d ∧ 0 < cChunks b.d ∧ c.got = [] ∧
      1 = cPeer c.d ∧ (∀ g ∈ tGroups[0]?, groupPos g 1 = some 1) ∧ (∀ g ∈ tGroups[1]?, partOf g = .localMember ∧ 1 = g.leaderPos) ∧
      chunkDst c.d 0 = tileAddr (0 : TileIx).val (tileBytes - 64) ∧ chunkDst b.d 0 = tileAddr (0 : TileIx).val (tileBytes - 64) := by decide

theorem wit_chunk_added : let c := tInFlight (tColl 0x61 0 0 0 32) (Vector.replicate 2 none)
    let r := tInFlight (tColl 0x61 2 0 0 32) (Vector.replicate 2 none)
    sumArrival (.reduceContribution 0 (tFrame 1 0 1 0)) = some (0, tFrame 1 0 1 0, 1) ∧ sumArrival (.podPartial 15 (tFrame 16 2 2 0)) = some (15, tFrame 16 2 2 0, 2) ∧
      sumArrival (.bridgeSlotResult 15 (tFrame 16 2 5 0)) = some (15, tFrame 16 2 5 0, 5) ∧ keyOfChunk (tFrame 1 0 1 0).chunk = collKeyOf c ∧
      keyOfChunk (tFrame 16 2 2 0).chunk = collKeyOf r ∧ keyOfChunk (tFrame 16 2 5 0).chunk = collKeyOf r ∧
      cOp c.d = 0x61 ∧ cCombine c.d = 0 ∧ cWire c.d = false ∧ cPartialChunks c.d = 1 ∧ cChunks c.d = 1 ∧ 32 = 4 * unitElems c.d 0 ∧
      cSrc c.d + 4096 * 0 = tileAddr (0 : TileIx).val (tileBytes - 64) ∧ cDst c.d + 4096 * 0 = tileAddr (0 : TileIx).val (tileBytes - 64) := by decide

theorem wit_one_contributor : (∀ g ∈ tGroups[0]?, partOf g = .leader ∧ oneContributor g 1 1 1) ∧
    (∀ g ∈ tGroups[2]?, partOf g = .leader ∧ oneContributor g 2 16 1 ∧ oneContributor g 5 16 1) := by
  refine ⟨?_, ?_⟩
  · intro g hg; obtain rfl := Option.some.inj hg
    exact ⟨by decide, .inl (by decide)⟩
  · intro g hg; obtain rfl := Option.some.inj hg
    exact ⟨by decide, .inr (.inl ⟨by decide, by decide, ⟨1, by decide, by decide⟩, by decide⟩), .inr (.inr ⟨by decide, by decide, 1, by decide, by decide⟩)⟩

theorem wit_ready : let c := tInFlight (tColl 0x62 0 1 0 32) (Vector.replicate 2 none)
    let s := tCollSt [c] []
    let b : ReadyBody := { readyBody c with opcode := 0x63 }
    cOp c.d = 0x62 ∧ cWire c.d = false ∧ 0 < cChunks c.d ∧ c.fwd = [] ∧ c.acked = [] ∧ (∀ g ∈ tGroups[0]?, 1 ∈ sendTargets g c.d ∧
      sendTargets g c.d = [1] ∧ groupPos g 1 = some 1 ∧ memberAt g 1 = some ⟨1, 0, 0⟩) ∧ readyMatches c b = true ∧
      readyMatches c { b with length := 64 } = false ∧ s.readyFor 1 { b with length := 64 } c = some 1 ∧ s.portTo ⟨1, 0, 0⟩ 0 = some 0 ∧
      s.portUp 0 = true ∧ s.power.metered.contains (domPort 0) = false ∧ (s.port 0).waiting = [] ∧ (s.port 0).unacked.length < 256 ∧
      0 < (s.port 0).credits ∧
      cSrc c.d = tileAddr (0 : TileIx).val (tileBytes - 64) ∧ tileBytes - 64 + rawLen c.d 0 ≤ tileBytes ∧ s.hasColl ⟨9, 0, 0⟩ = false := by decide

theorem wit_ready_mismatch : (tCollSt [tInFlight (tColl 0x62 0 1 0 32) (Vector.replicate 2 none)] []).roomFor clsJob 0 :=
  ⟨by decide, by decide, by decide, by decide⟩

theorem wit_planes : let c := tInFlight (tColl 0x61 3 0 0 32) (Vector.replicate 2 none)
    let l := tInFlight (tColl 0x61 2 0 0 32) #v[some .asked, some .asked]
    (∀ g ∈ tGroups[3]?, sumWithRemote g c.d = true ∧ partOf g = .subLeader) ∧ (∀ g ∈ tGroups[2]?, sumWithRemote g l.d = true ∧ partOf g = .leader) ∧
      0 < cPartialChunks c.d ∧ 0 < cPartialChunks l.d ∧ ∀ plane : Fin 2, l.planes[plane] = some .asked := by decide

theorem wit_control : (tCollSt [] []).coll.queue = [] ∧ (tCollSt [] []).noVoteDue ∧ (tCollSt [] []).hasColl ⟨9, 0, 0⟩ = false := ⟨rfl, .inl rfl, rfl⟩

theorem wit_vote_of_collective : let c := tInFlight (tColl 0x61 0 0 1 32) (Vector.replicate 2 none)
    let s := tCollSt [c] []
    let f := tFrame 1 0 4 0
    s.running = true ∧ s.staleChunk f.chunk = false ∧ s.hasColl (keyOfChunk f.chunk) = true := by decide

/-- A sweep of no page awaits its end. -/
def tSweep (grp : Nat) : State := { tCollSt [] [(F.FLT_ASSAY_CFG_ASSAY_GROUP, grp)] with flt := { FaultSt.init with assay := some (1, 0, []) } }

theorem wit_sweep_done (grp : Nat) (h : grp = 0 ∨ grp = 1) : (tSweep grp).memWf = true ∧ (tSweep grp).running = true ∧ (tSweep grp).mem.latent = [] ∧
    (tSweep grp).flt.assay = some (1, 0, []) ∧ (tSweep grp).assayGroup = tGroups[grp]? ∧ (tSweep grp).flt.assayHashed = false ∧
    (∀ g ∈ tGroups[0]?, groupLeads g = true ∧ (Sparse.insert (tSweep 0).flt.roots g.selfPos none).length < g.members.length) ∧
    (∀ g ∈ tGroups[1]?, groupLeads g = false ∧ memberAt g g.leaderPos = some ⟨1, 0, 0⟩) ∧ (tSweep grp).portTo ⟨1, 0, 0⟩ 0 = some 0 ∧
    (tSweep grp).assayHeld = false ∧
    (tSweep grp).portUp 0 = true ∧ (tSweep grp).power.metered.contains (domPort 0) = false ∧ ((tSweep grp).port 0).waiting = [] ∧ ((tSweep grp).port 0).unacked.length < 256 ∧ 0 < ((tSweep grp).port 0).credits := by
  rcases h with rfl | rfl <;> exact ⟨wfOf (by decide) (by decide), by decide⟩


theorem wit_assay_chunk : (∀ g ∈ tGroups[1]?, (tSweep 1).assayChunk (tFrame 1 1 0 1433945819).chunk = some g) ∧
    ((tSweep 1).takeFrame 0 (tFrame 1 1 0 1433945819)).2 = true ∧
    (∀ g ∈ tGroups[0]?, (tSweep 0).assayChunk (tFrame 1 0 3 1649788079).chunk = some g ∧ groupPos g 1 = some 1 ∧ groupLeads g = true) ∧
    ((tSweep 0).takeFrame 0 (tFrame 1 0 3 1649788079)).2 = true ∧
    (tSweep 1).assayChunk (tFrame 1 0 3 1649788079).chunk = none := by decide
/-! The host and the Pigeonholes. -/

/-- The module serves the host's window over position 0 alone, registers up. -/
def tHost (l : List (Field × Nat)) : State := { tset ([(F.MGT_BOOTSTAT_STEP, 11), (F.PWR_DOM_STAT_STATE (domMem 0), 3), (F.MEM_MAP_CFG_HOME_SIZE, 0)] ++ l) tJob with
  mem := { MemSt.init with slots := [0] } }

theorem memApart_of {s : State} (h0 : s.mem.slots = [0]) (hd : s.ledger.diedCopy = []) (hm : s.migrating = false)
    (hc : s.ledger.channelMap = Ledger.init.channelMap) (hw : s.mem.wc = Vector.replicate 32 []) : s.memApart := by
  have hc8 : ∀ q (h : q < 256), s.ledger.channelMap[q] = q % 8 := by intro q h; rw [hc]; simp [Ledger.init]
  refine ⟨by simp [h0], by simp [h0], ?_, ?_⟩
  · intro q l q' l' pl hl hl' h h'
    simp only [State.physLine, hd, hm, List.find?_nil, Bool.false_and, Bool.false_eq_true, if_false] at h h'
    split at h
    · rename_i hq
      split at h'
      · rename_i hq'
        rw [hc8 q hq] at h
        rw [hc8 q' hq'] at h'
        split at h
        · cases h
        · split at h'
          · cases h'
          · have a := Option.some.inj h
            have b := Option.some.inj h'
            omega
      · cases h'
    · cases h
  · intro k hk
    have : s.wcOf k = [] := by simp [State.wcOf, hk, hw]
    rw [this]; simp

theorem tHost_apart : (tHost []).memApart := memApart_of rfl rfl (by decide) rfl rfl

/-- Position 0 alone serves, with all of its 2 GiB global, in a channel that answers. -/
def onePos (s : State) : Prop :=
  s.mem.slots = [0] ∧ s.gch = 0x80000000 ∧ s.ledger.diedCopy = [] ∧ s.migrating = false ∧
    (s.chState (9 * (0 / 8) + s.ledger.channelMap[0]) == 7) = false

theorem tHost_one : onePos (tHost []) := ⟨rfl, by decide, rfl, by decide, by decide⟩

theorem decode_of {s : State} (h : onePos s) (a : Nat) (ha : a < 0x80000000) : s.decodeAddr a = .dram 0 a := by
  obtain ⟨hs, hg, -⟩ := h
  simp only [State.decodeAddr, hs, hg, List.length_singleton, Nat.div_one, Nat.mod_one, List.getElem?_cons_zero]
  rw [if_pos (by omega), if_pos (by omega)]
  congr 1
  omega

theorem line_of {s : State} (h : onePos s) (l : Nat) : s.physLine 0 l ≠ none := by
  obtain ⟨-, -, hd, hm, hc⟩ := h
  rw [State.physLine, dif_pos (by omega)]
  simp only [hd, hm, List.find?_nil, Bool.false_and, Bool.false_eq_true, if_false, hc]
  exact Option.some_ne_none _

/-- Every mapped byte below 2 GiB stands in a line. -/
theorem byte_of {s : State} (h : onePos s) (a : Nat) (ha : a < 0x80000000) :
    ∃ q b, s.decodeAddr a = .dram q b ∧ s.physLine q (b / 512) ≠ none := ⟨0, a, decode_of h a ha, line_of h _⟩

/-- Every mapped address has a line. -/
theorem mapped_of {s : State} (h : onePos s) (a q b : Nat) (hd : s.decodeAddr a = .dram q b) : s.physLine q (b / 512) ≠ none := by
  have hs := h.1
  have hq : q ∈ s.mem.slots := by
    simp only [State.decodeAddr] at hd
    split at hd
    · split at hd
      · split at hd
        · rename_i hx; cases hd; exact List.mem_of_getElem? hx
        · cases hd
      · cases hd
    · split at hd
      · split at hd
        · split at hd
          · rename_i hx; cases hd; exact List.mem_of_mem_filter (List.mem_of_getElem? hx)
          · cases hd
        · cases hd
      · split at hd
        · split at hd <;> cases hd
        · cases hd
  rw [hs, List.mem_singleton] at hq
  subst hq
  exact line_of h _

theorem frame_of {s : State} (h : onePos s) (hp : s.mem.poison = []) : s.frameSound 0 :=
  ⟨by decide, hp, fun i hi => byte_of h _ (by omega)⟩

theorem wit_release (v : U64) (h : v = 1 ∨ v = 3) : let s := tHost [(F.MGT_OUT_HELD0, 1), (F.MGT_OUT_OUT_SIZE, 1)]
    s.memWf = true ∧ s.blocksUp = true ∧ s.mode ≠ 2 ∧ s.still ∧ v.toNat.testBit 0 = true ∧
      s.on F.MGT_OUT_HELD0 = true ∧ s.on F.MGT_OUT_HELD1 = false ∧ (0x200000#64).toNat.testBit 21 = true ∧ (0x200000#64).toNat.testBit 22 = false ∧
      (0x400000#64).toNat.testBit 22 = true := by
  rcases h with rfl | rfl <;> exact ⟨wfOf (by decide) (by decide), by decide, by decide, stillOf rfl rfl rfl rfl rfl, by decide⟩

/-- The HDM decoder maps 2 GiB. -/
def tWindow : State := tset [(F.MGT_HDM_HDM_SIZE, 8)] (tHost [])

theorem tWindow_one : onePos tWindow := ⟨rfl, by decide, rfl, by decide, by decide⟩

theorem wit_host_served (off len : Nat) (h : (off = 0 ∧ len = 1) ∨ (off = 0x7FFFFFC0 ∧ len = 64)) :
    tWindow.memWf = true ∧ tWindow.hdmOpen = true ∧ tWindow.hostServed off len ∧ tWindow.memApart ∧
      (∀ j < len, ∀ q b, tWindow.decodeAddr (off + j) = .dram q b → tWindow.physLine q (b / 512) ≠ none) ∧
      tWindow.hdmMapped 0x80000000 1 = false := by
  have hl : off + len ≤ 0x80000000 := by omega
  refine ⟨wfOf (by decide) (by decide), by decide, ⟨by decide, ?_, fun j hj => ⟨0, _, decode_of tWindow_one _ (by omega)⟩, by decide, by decide,
    by decide, fun _ => rfl⟩, memApart_of rfl rfl (by decide) rfl rfl, fun j _ q b => mapped_of tWindow_one _ q b, by decide⟩
  rcases h with ⟨rfl, rfl⟩ | ⟨rfl, rfl⟩ <;> decide

/-- The same without CXL, the output buffers at offset 0 of the window. -/
theorem wit_bar2 (off len : Nat) (h : (off = 0 ∧ len = 1) ∨ (off = bar2Bytes - 64 ∧ len = 64)) :
    let s := { tWindow with start := { tWindow.start with cxlMode := false } }
    s.memWf = true ∧ s.bar2Open = true ∧ off + len ≤ bar2Bytes ∧ s.hostServed (s.bar2Offset off) len ∧ s.memApart := by
  intro s
  have h1 : onePos s := ⟨rfl, by decide, rfl, by decide, by decide⟩
  have h0 : s.bar2Offset off = off := by
    have : s.get F.MGT_OUT_OUT_BASE = 0 := by decide
    rw [State.bar2Offset, this, Nat.zero_mul, Nat.zero_add]
  have hb : off + len ≤ bar2Bytes := by rcases h with ⟨rfl, rfl⟩ | ⟨rfl, rfl⟩ <;> decide
  have hl : bar2Bytes = 0x10000000 := rfl
  rw [h0]
  refine ⟨wfOf (by decide) (by decide), by decide, hb, ⟨by decide, ?_, fun j hj => ⟨0, _, decode_of h1 _ (by omega)⟩, by decide, by decide,
    by decide, fun _ => rfl⟩, memApart_of rfl rfl (by decide) rfl rfl⟩
  rcases h with ⟨rfl, rfl⟩ | ⟨rfl, rfl⟩ <;> decide

theorem wit_no_host : (tJob.start.memReady = true) ∧ (let s := { tJob with start := { tJob.start with memReady := false } }
    s.hdmOpen = true ∧ s.stallReq = false ∧ s.hdmActive = false) := by decide

/-- Vector k of a function is masked and pending. -/
theorem wit_msix (fn1 : Bool) : let x : MsixSt := { MsixSt.init with mask := 1, pba := 1 }
    let s := { tHost [] with start := { (tHost []).start with msix0 := x, msix1 := x } }
    0 < msixVectors fn1 ∧ s.blocksUp = true ∧ s.start.cxlUp = true ∧ bit (s.msix fn1).mask 0 = true ∧ bit (s.msix fn1).pba 0 = true ∧
      (0#64).getLsbD 32 = false := by cases fn1 <;> decide

theorem wit_register_write : (tHost []).blocksUp = true ∧ 2 % 4 ≠ 0 ∧ mbxOf true 0x20000 = none ∧ mbxOf false 0x20000 = none ∧
    msixWordIx true 0x20000 = none ∧ msixWordIx false 0x20000 = none ∧ msixWordIx false 0x7FFFF8 = none ∧
    cardAt 0x7FFFF8 = none ∧ mbxOf false 0x7FFFF8 = none ∧ plainReg 0x210 = true ∧ (tHost []).answers 0x210 = true ∧ (cardAt 0x210).isSome = true ∧
    plainReg 0x10000 = false := by decide

theorem wit_no_register : registerAt false 0x7FFFF8 = false ∧ registerAt false 0x30090 = false ∧ registerAt false 0x30088 = true ∧
    registerAt true 0x18 = false ∧ registerAt true 0x10 = true ∧ registerAt true 0x50050 = false ∧ registerAt true 0x30090 = false := by decide

/-- A channel with its slots full or empty. -/
def tChan (c : MbxIx) (b a : Bool) (col : Option Nat) (l : List (Field × Nat)) : State :=
  (tset ([(F.MGT_BOOTSTAT_STEP, 11), (F.PWR_DOM_STAT_STATE 0, 3), (F.PWR_DOM_STAT_STATE 1, 1)] ++ l) tJob).setChan c
    { MbxChan.init with toB := { MbxSlot.init with full := b, column := col }, toA := { MbxSlot.init with full := a, column := col } }

set_option maxRecDepth 40000 in
theorem wit_mail (c : MbxIx) (b a : Bool) (h : c = 0 ∨ c = 15 ∨ c = 16) : let s := tChan c b a (if c.val = 16 then some 0 else none) []
    s.memWf = true ∧ s.mode = 1 ∧ c.val < 24 ∧ s.stalled = [] ∧ s.stallReq = false ∧ (s.chan c).parts = [] ∧ (s.chan c).reply = none ∧
      s.mailEnd c .a 0 = true ∧ s.claimed c .a 0 = false ∧ s.mailEnd c .b 0 = true ∧ (s.chan c).toB.full = b ∧ (s.chan c).toA.full = a ∧
      (16 ≤ c.val → (s.chan c).toA.column = some (0 : Fin 8).val) := by
  rcases h with rfl | rfl | rfl <;> cases b <;> cases a <;> exact ⟨wfOf (by decide) (by decide), by decide⟩

theorem wit_mail_tile : let s := tChan 16 false false none [(F.FLT_FENCE_TILE_TILES, 4)]
    mailTile 16 1 = some 1 ∧ mailTile 16 2 = some 2 ∧ s.tileFenced (1 : TileIx).val = false ∧ s.tileFenced (2 : TileIx).val = true ∧ s.sleeping (1 : TileIx).val ∧
      s.mailEnd 16 .b 1 = true ∧ (s.chan 16).toA.full = false := ⟨by decide, by decide, by decide, by decide, ⟨by decide, by decide⟩, by decide, by decide⟩

theorem wit_mail_wakes : let s := tset [(F.PWR_DOM_STAT_STATE domTimetable, 1)] (tChan 0 false false none [])
    s.mailEnd 0 .a 0 = true ∧ s.running = true ∧ s.sleeping domTimetable := ⟨by decide, by decide, ⟨by decide, by decide⟩⟩

/-! Identity. -/

/-- The owner whose key is 5. -/
def tOwner : Owner := ⟨5, 1, 1, 0⟩

/-- SHA-512 of no byte, the value that FIPS 180-4 gives, as a little-endian number; and the identifier of the owner's key. -/
def tEmptyDigest : Nat := 3291835376408573590478209986637364656599265025014012802863049622424083630783948306431999498413285667939592978357630573418285899181951386474024455144309711
def tKeyId : Nat := 280070249768482630028914752943839485417

theorem tEmptyDigest_ok : sha512 [] = BitVec.ofNat 512 tEmptyDigest := by decide +kernel

theorem tKeyId_ok : keyId 5 = BitVec.ofNat 128 tKeyId := by decide +kernel

/-- A section without data at offset 0x1000. -/
def tSection (typ : Nat) : List Byte := leBytes 2 typ ++ [0, 0] ++ leBytes 4 0x1000 ++ leBytes 4 0 ++ [0, 0, 0, 0] ++ leBytes 64 tEmptyDigest

/-- A sound image of its owner, of 4 KiB. -/
def tImage : WaybillImage where
  bytes := tHeader waybillMagic.toNat 5 6 0x1000 tKeyId ++ ([1, 2, 3, 4, 5, 6].flatMap tSection ++ List.replicate 3360 0)
  signedBy := [5]
  data := tWb.data

theorem tImage_length : tImage.bytes.length = 4096 := by decide +kernel

theorem tImage_hdr : tImage.hdr.magic = waybillMagic ∧ tImage.hdr.format = 1 ∧ tImage.hdr.totalSize = 0x1000 ∧ tImage.hdr.part = 0x4064 ∧
    tImage.hdr.generation = 1 ∧ tImage.hdr.stepping = 0x11 ∧ tImage.hdr.seqNo = 5 ∧ tImage.hdr.ownerKeyId = BitVec.ofNat 128 tKeyId := by decide +kernel

theorem tImage_table : tImage.table = [1, 2, 3, 4, 5, 6].map (fun t => ⟨BitVec.ofNat 16 t, 0x1000, 0, BitVec.ofNat 512 tEmptyDigest⟩) := by
  decide +kernel

theorem tImage_format : wbFormatOk tImage = true := by decide +kernel

theorem wit_upload_verified : verifyRead (some tOwner) tImage = 0 := by
  obtain ⟨-, -, -, h1, h2, h3, h4, h5⟩ := tImage_hdr
  have h6 : tImage.table.all (fun e => e.digest == sha512 (tImage.sectionBytes e)) = true := by
    rw [tImage_table, List.all_eq_true]
    intro e he
    obtain ⟨t, -, rfl⟩ := List.mem_map.mp he
    have : tImage.sectionBytes ⟨BitVec.ofNat 16 t, 0x1000, 0, BitVec.ofNat 512 tEmptyDigest⟩ = [] := rfl
    rw [this, tEmptyDigest_ok]
    exact beq_self_eq_true _
  have h7 : ¬ (5#32).toNat < tOwner.minSeq := by decide
  have h8 : keyId tOwner.key = BitVec.ofNat 128 tKeyId := tKeyId_ok
  have h9 : tImage.signedBy.contains tOwner.key = true := by decide
  simp only [verifyRead, tImage_format, h1, h2, h3, h4, h5, h6, h8, h9, Bool.not_true, bne_self_eq_false, Bool.or_false, Bool.false_eq_true,
    if_false]
  exact if_neg h7

/-- The module with its owner and an active slot. -/
def tOwned (upload : Option Nat) : State := { tJob with
  start := { tJob.start with ownerNow := some tOwner, upload := upload, nonceCount := 1, keysOk := true }
  flash := { Flash.init with owner := some tOwner, slots := #v[some tImage, none] } }

theorem wit_upload (part : Nat) (h : part = 0 ∨ part = 3) : let s := tOwned (if part = 0 then none else some part)
    s.memWf = true ∧ s.innkUp = true ∧ s.bootRoom ∧ part = s.start.upload.getD 0 ∧ part + 1 ≠ s.start.upload.getD 0 ∧ s.start.ownerNow = some tOwner ∧
      verifyRead (some tOwner) tWb ≠ 0 ∧ tWb.bytes.length ≤ 0x40000 := by
  rcases h with rfl | rfl <;>
    exact ⟨wfOf (by decide) (by decide), by decide, show (0 : BitVec 32) ≠ BitVec.allOnes 32 by decide, by decide, by decide, rfl, by decide, by decide⟩

theorem wit_upload_sizes : tImage.bytes.length ≤ 0x40000 ∧ 0x40000 < (List.replicate 0x40001 (0 : Byte)).length := by
  rw [tImage_length, List.length_replicate]
  decide

theorem wit_enrol : let sig : Signed := ⟨[5], true⟩
    sig.root = true ∧ (∀ o, (tOwned none).flash.owner = some o → o.key ∈ sig.keys) ∧ (tOwned none).start.nonceCount = 0 + 1 ∧
      (tOwned none).start.keysOk = true ∧ (∃ nonce dev, nonce = Config.nonce 0 ∧ dev = (tOwned none).start.deviceId) ∧
      (tOwned none).flash.owner = some tOwner ∧ tJob.flash.owner = none ∧ tJob.start.keysOk = false ∧
      ({ sig with root := false }).root = false ∧ tOwner.key ∉ ({ sig with keys := [] }).keys := by
  refine ⟨rfl, ?_, rfl, rfl, ⟨_, _, rfl, rfl⟩, rfl, rfl, rfl, rfl, by decide⟩
  intro o ho; obtain rfl := Option.some.inj ho; decide

theorem wit_min_seq : (tOwned none).start.ownerNow = some tOwner ∧ tOwner.key ∈ (⟨[5], true⟩ : Signed).keys ∧ tOwner.minSeq ≤ (1#32).toNat ∧
    (5#32).toNat ≤ (tOwned none).activeSeq ∧ (tOwned none).activeSeq < (6#32).toNat ∧ (0#32).toNat < tOwner.minSeq ∧ tJob.start.ownerNow = none := by
  have h : (tOwned none).activeSeq = 5 := by
    show tImage.hdr.seqNo.toNat = 5
    rw [tImage_hdr.2.2.2.2.2.2.1]
    rfl
  rw [h]
  decide

/-! Faults. -/

/-- An error of a unit. -/
def tError (cls : Byte) (index : BitVec 16) (severity : Nat) : PostedError := ⟨cls, index, severity, 7, 0, 0, 2, false, true⟩

theorem wit_still : tJob.still ∧ (tPhase 5).still := ⟨stillOf rfl rfl rfl rfl rfl, stillOf rfl rfl rfl rfl rfl⟩

theorem wit_errors : let errs := [tError 0x08 1 0, tError 0x01 63 3, tError 0x01 0 2]
    tJob.memWf = true ∧ tJob.islandOn = true ∧ tJob.ledger.waiting = [] ∧ tJob.dom domTimetable = 3 ∧ tJob.tooManyFenced = false ∧
      tJob.flt.queue.length + errs.length ≤ 64 ∧ errs.Pairwise (fun a b => unitOf a ≠ unitOf b) ∧
      (∀ e ∈ errs, e.severity ≤ 3 ∧ (e.severity < 2 ∨ (e.cls ≠ 0x09 ∧ e.cls ≠ 0x0A)) ∧
        ∀ r ∈ tJob.flt.queue, ¬ (r.cls = e.cls.toNat ∧ r.index = e.index.toNat)) := ⟨wfOf (by decide) (by decide), by decide⟩

theorem wit_known_answer (cls : Byte) (h : cls = 1 ∨ cls = 5) : (tPhase 5).memWf = true ∧ (tPhase 5).running = true ∧ (tPhase 5).phase = 5 ∧
    (tPhase 5).katUnit cls.toNat 3 = true ∧ (tPhase 5).roomFor cls.toNat 3 ∧ (tPhase 5).get F.FLT_STAT_FENCED_TILES < 8 ∧
    (∃ j, j ≠ 3 ∧ (tPhase 5).katUnit cls.toNat j = true) := by
  rcases h with rfl | rfl <;>
    exact ⟨wfOf (by decide) (by decide), by decide, by decide, by decide, ⟨by decide, by decide, by decide, by decide⟩, by decide, ⟨0, by decide⟩⟩

theorem wit_watchdogs : tJob.islandOn = true ∧ tJob.tileFenced (63 : TileIx).val = false ∧ tJob.roomFor clsTile 63 ∧ tJob.mode = 1 ∧ tJob.roomFor clsInnkeeper 0 ∧
    tJob.on F.FLT_STAT_INNK_DOWN = false ∧ tJob.flt.innkFaultAt = none ∧ tJob.aon < 0 + 3125000 :=
  ⟨by decide, by decide, ⟨by decide, by decide, by decide, by decide⟩, by decide, ⟨by decide, by decide, by decide, by decide⟩, by decide, rfl, by decide⟩

theorem wit_innkeeper_back : let s := { tJob with flt := { FaultSt.init with innkRestarting := true, innkFaultAt := some 0 } }
    s.memWf = true ∧ s.islandOn = true ∧ s.flt.innkRestarting = true ∧ s.on F.FLT_STAT_INNK_DOWN = false ∧ (∀ c : MbxIx, (s.chan c).toB.full = false) ∧
      s.flt.innkFaultAt = some 0 ∧ s.aon < 0 + 3125000 :=
  ⟨wfOf (by decide) (by decide), by decide⟩

/-- An error record. -/
def tRec (severity kind : Nat) : ErrRec := ⟨0, 0, 0, clsDram, 1, severity, kind, 0, 0, 0, 0, 0, 1⟩

theorem wit_records (sev kind : Nat) (h : (sev = 0 ∨ sev = 2) ∧ (kind = 0x13 ∨ kind = 0x0B)) :
    let s := { tJob with flt := { FaultSt.init with queue := [tRec sev kind] } }
    s.memWf = true ∧ s.innkUp = true ∧ s.flt.queue = tRec sev kind :: [] ∧ s.flt.store.length < 256 ∧
      ((tRec sev kind).severity ≠ 2 ∨ (tRec sev kind).cls = 0 ∨ 5 < (tRec sev kind).cls ∨ (tRec sev kind).rflags.testBit 0 = true) ∧ s.mode = 1 ∧
      s.start.ledgerRead = true := by
  obtain ⟨rfl | rfl, rfl | rfl⟩ := h <;> exact ⟨wfOf (by decide) (by decide), by decide⟩

theorem wit_secure_channel (c : MbxIx) (n : Nat) (h : (c = 24 ∨ c = 31) ∧ (n = 0 ∨ n = 1)) :
    let s := { tJob with flt := { FaultSt.init with store := List.replicate n ⟨1, tRec 0 3⟩ } }
    s.memWf = true ∧ 24 ≤ c.val ∧ s.islandOn = true ∧ s.innkUp = true ∧ s.mode = 1 ∧ (s.chan c).toB.full = false ∧ (s.chan c).toA.full = false ∧
      (s.chan c).parts = [] ∧ (s.chan c).reply = none ∧ s.flt.store.length ≤ 256 := by
  obtain ⟨rfl | rfl, rfl | rfl⟩ := h <;> exact ⟨wfOf (by decide) (by decide), by decide⟩

set_option maxRecDepth 40000 in
theorem wit_hourly : let s := { tJob with mem := { MemSt.init with corrLog := [(0, 0), (0, 287)] } }
    s.memWf = true ∧ s.running = true ∧ s.dom domTimetable = 3 ∧
      s.flt.queue.length + ((List.range 288).filter (fun ch => decide (s.corrHour ch ≠ 0))).length ≤ 64 :=
  ⟨wfOf (by decide) (by decide), by decide⟩

/-! Performance counters. -/

/-- Dumps are on, block `b` dumps. -/
def tPerf (b : Nat) (l : List (Field × Nat)) : State := tset ([(F.PERF_CTL_RING_EN, 1), (F.PERF_RING_BASE_LOG2_REC, 6), (F.PERF_B_CFG_DUMP_EN b, 1),
  (F.CLK_STAT_CORE_LOCK, 1)] ++ l) (tHost [])

theorem wit_perf (b : PerfIx) (h : b = 0 ∨ b = 118) : (tPerf b.val []).memWf = true ∧ (tPerf b.val []).regsUp = true ∧ (0 : Fin 8).val < perfCount b.val ∧
    (tPerf b.val []).dumpsOn = true ∧ tJob.dumpsOn = false ∧ (tPerf b.val []).perf.queue.length + 119 ≤ 256 ∧
    Sparse.sorted (tPerf b.val []).perf.ovf = true ∧ (tPerf b.val []).on (F.PERF_B_CFG_DUMP_EN b.val) = true ∧ (tPerf b.val []).perfClock b.val = true ∧
    (tPerf b.val []).perfFenced b.val = false := by
  rcases h with rfl | rfl <;> exact ⟨wfOf (by decide) (by decide), by decide⟩

/-- A record waits for the ring. -/
def tRing (prod : Nat) (bias : NatSet) : State := { tPerf 0 [(F.PERF_RING_PROD_PROD, prod)] with
  perf := { PerfSt.init with queue := [List.replicate 128 7] }
  mem := { (tHost []).mem with hostBias := bias } }

theorem wit_ring (prod : Nat) (bias : NatSet) (h : (prod = 0 ∨ prod = 63 ∨ prod = 64) ∧ (bias = [] ∨ bias = [0])) : let s := tRing prod bias
    s.memWf = true ∧ s.regsUp = true ∧ s.perf.queue = List.replicate 128 7 :: [] ∧ s.running = true ∧ s.start.memReady = true ∧
      6 ≤ s.get F.PERF_RING_BASE_LOG2_REC ∧ s.get F.PERF_RING_BASE_LOG2_REC ≤ 24 ∧ s.get F.PERF_RING_PROD_PROD - s.get F.PERF_RING_CONS_CONS = prod ∧
      s.get F.PERF_RING_BASE_BASE = 0 ∧ s.mem.hostBias = bias ∧ s.mem.latent = [] ∧ (List.replicate 128 (7 : Byte)).length = 128 := by
  obtain ⟨rfl | rfl | rfl, rfl | rfl⟩ := h <;> exact ⟨wfOf (by decide) (by decide), by decide⟩

theorem wit_ring_apart : (tRing 0 []).memApart ∧ (∀ x, (tRing 0 []).persistent x = false) ∧ (tRing 0 []).memOn ∧
    ∃ q b, (tRing 0 []).decodeAddr 0 = .dram q b ∧ (tRing 0 []).physLine q (b / 512) ≠ none :=
  ⟨memApart_of rfl rfl (by decide) rfl rfl, fun _ => rfl, show ∀ k < 32, _ = false by decide, byte_of ⟨rfl, by decide, rfl, by decide, by decide⟩ 0 (by decide)⟩

/-! Casts. -/

/-- An image of one page, without its ROOT. -/
def tCast0 : CastImage := ⟨castMagic, 0, 0, 1, 7, 0, 0, false, 0, 0, [], [(0, [(65535, 9)])], []⟩

/-- The image with its ROOT, the digest of its contents. -/
def tCast : CastImage := { tCast0 with root := imageRoot tCast0 }

theorem imageRoot_root (g : CastImage) (r : Digest) : imageRoot { g with root := r } = imageRoot g := rfl

/-- A cast under way in both tiers, its page next or done. -/
def tRun (done : Bool) : CastRun where
  group := true
  hdr := { tCast with pages := [], root := 0 }
  pages := [(0, 0)]
  protect := [0]
  staged := []
  partner := .copying (b2n done)
  nand := .copying (b2n done)
  partnerSlot := 0
  nandSlot := 7
  data := if done then [(0, [])] else []
  poison := []

theorem wit_cast (done : Bool) : let s := { tHost [] with cast := { CastSt.init with run := some (tRun done) } }
    s.memWf = true ∧ s.running = true ∧ s.takesCasts = true ∧ s.cast.run = some (tRun done) ∧ s.still ∧ s.memOn ∧ s.mem.latent = [] ∧
      s.castHeld 0 = false ∧ s.frameSound ((Sparse.find (tRun false).staged 0).getD 0) ∧
      (tRun done).nandSlot < 8 ∧ s.cast.agree[15]? = none ∧ (tRun false).tier .nand = .copying 0 ∧ (tRun false).tier .partner = .copying 0 ∧
      (tRun false).pages[0]? = some (0, 0) ∧ (tRun false).data.length = 0 ∧ (tRun true).nand = .copying (tRun true).pages.length ∧
      (tRun true).partner = .copying (tRun true).pages.length := by
  have h := wfOf (s := { tHost [] with cast := { CastSt.init with run := none } }) (by decide) (by decide)
  have h0 : (Sparse.find (tRun false).staged 0).getD 0 = 0 := rfl
  rw [h0]
  cases done <;>
    exact ⟨h, by decide, by decide, rfl, stillOf rfl rfl rfl rfl rfl, show ∀ k < 32, _ = false by decide, by decide, by decide,
      frame_of ⟨rfl, by decide, rfl, by decide, by decide⟩ rfl, by decide⟩

theorem wit_cast_held : ({ tHost [] with power := { (tHost []).power with metered := [domCaster] } }).castHeld 0 = true := by decide

theorem wit_no_cast : ({ tHost [] with cast := { CastSt.init with evalOnly := true } }).takesCasts = false := by decide

/-- NAND slot 0 holds a complete cast; the window is the module's or the host's. -/
def tExport (op host : Nat) : State := { tset [(F.ENG_CAST_HOST_OP, op), (F.ENG_CAST_HOST_WIN_HOST, host)] (tHost []) with
  flash := { Flash.init with nand := (Vector.replicate 8 CastSlot.init).set 0 { CastSlot.init with img := some tCast, complete := true } } }

theorem wit_export (op host : Nat) (h : op = 0 ∨ op = 1 ∨ op = 2) (hh : host = 0 ∨ host = 1) : (tExport op host).memWf = true ∧
    (tExport op host).running = true ∧ (tExport op host).get F.ENG_CAST_HOST_SLOT = 0 ∧ (tExport op host).get F.ENG_CAST_HOST_OP = op ∧
    (tExport op host).on F.ENG_CAST_HOST_WIN_HOST = (host == 1) ∧ (tExport op host).cast.exportSlot < 8 ∧
    (tExport op host).slotSize 0 = 0x20000 := by
  rcases h with rfl | rfl | rfl <;> rcases hh with rfl | rfl <;> exact ⟨wfOf (by decide) (by decide), by decide⟩

theorem wit_export_slot (op host : Nat) : (tExport op host).flash.nand[0] = { CastSlot.init with img := some tCast, complete := true } ∧
    ({ CastSlot.init with img := some tCast, complete := true }).usable = true ∧ CastSlot.init.usable = false ∧ CastSlot.init.complete = false ∧
    (tExport op host).flash.nand[1] = CastSlot.init := ⟨rfl, by decide, by decide, by decide, rfl⟩

theorem wit_restore_go (mode : Nat) (v : U64) (h : mode = 0 ∨ mode = 1) (hv : v = 0x30 ∨ v = 0x20) : let s := tset [(F.MGT_BOOTSTAT_MODE, mode)] tJob
    s.memWf = true ∧ s.start.powered = true ∧ s.mode = mode ∧ s.mode ≠ 2 ∧ (v.toNat / 16 % 4 = 3 ∨ v.toNat / 16 % 4 ≠ 3) := by
  rcases h with rfl | rfl <;> rcases hv with rfl | rfl <;> exact ⟨wfOf (by decide) (by decide), by decide⟩

/-- A restore fetches from its source. -/
def tRestore (src : Nat) : State := tset [(F.ENG_RESTORE_STAT_STATE, 2), (F.ENG_RESTORE_CTL_SRC, src)] (tHost [])

set_option maxRecDepth 60000 in
theorem wit_restore (src : Nat) (h : src = 0 ∨ src = 1) : (tRestore src).memWf = true ∧ (tRestore src).running = true ∧ (tRestore src).restoreBusy = true ∧
    (tRestore src).get F.ENG_RESTORE_CTL_SRC = src ∧ (tRestore src).mem.latent = [] := by
  rcases h with rfl | rfl <;> exact ⟨wfOf (by decide) (by decide), by decide⟩

theorem tCast_sound (s : State) (hid : (!s.on F.ENG_RESTORE_CTL_EVAL && (tCast.jobTag.toNat != s.get F.LINK_IDENT_JOB_TAG ||
    tCast.memberId.toNat != s.get F.LINK_IDENT_MEMBER_ID)) = false) (hw : s.wb = some tWb) (src : Nat) (hs : (src == 2) = false) :
    s.imageReason tCast src = 0 := by
  have h1 : (tCast.magic != castMagic) = false := by decide
  have h3 : (tCast.root != imageRoot tCast) = false := by
    have h : imageRoot tCast = imageRoot tCast0 := imageRoot_root tCast0 _
    have h' : tCast.root = imageRoot tCast0 := by rw [tCast]
    rw [h, h', bne_self_eq_false]
  have h4 : (tCast.persistDigest != tWb.hdr.persistDigest) = false := by decide
  have h5 : tCast.damaged = false := rfl
  simp only [State.imageReason, hw, hid, hs, h1, h3, h4, h5, Bool.false_and, Bool.false_eq_true, if_false]

/-- NAND slot 0 holds the cast of the step that a restore fetches. -/
theorem wit_restore_own : let c : CastSlot := { CastSlot.init with img := some tCast, complete := true }
    let s := { tRestore 0 with
      flash := { Flash.init with nand := (Vector.replicate 8 CastSlot.init).set 0 c }
      cast := { CastSt.init with fetchStep := 7 } }
    s.memWf = true ∧ s.running = true ∧ s.restoreBusy = true ∧ s.get F.ENG_RESTORE_CTL_SRC = 0 ∧ s.castSlot 0 = some c ∧
      s.fetched .ownSlotRead = c.img ∧ c.img ≠ none ∧ ∀ g, c.img = some g → s.imageReason g 0 = 0 := by
  refine ⟨wfOf (by decide) (by decide), by decide, by decide, by decide, rfl, rfl, by decide, ?_⟩
  intro g hg
  obtain rfl := Option.some.inj hg
  exact tCast_sound _ (by decide) rfl 0 rfl

theorem wit_restore_refused : (tRestore 1).imageReason { tCast with magic := 0 } 1 = 3 := by
  have h : (({ tCast with magic := 0 } : CastImage).magic != castMagic) = true := by decide
  simp only [State.imageReason, h, if_true]

theorem wit_restore_image : (tRestore 1).imageReason tCast 1 = 0 ∧ tCast.pages = [(0, [(65535, 9)])] ∧ (tRestore 1).memApart ∧
    Sparse.sorted [(65535, (9 : Byte))] = true ∧ (tRestore 1).committedFrame (0 / 0x10000) = 0 ∧ (tRestore 1).frameSound 0 :=
  ⟨tCast_sound _ (by decide) rfl 1 rfl, rfl, memApart_of rfl rfl (by decide) rfl rfl, by decide, by decide,
    frame_of ⟨rfl, by decide, rfl, by decide, by decide⟩ rfl⟩

/-- Port P is UP, the partner's image is two pages long, the guest region 256 MiB; guest slot 0 holds a cast of step 7. -/
def tGuest : State := { tset [(F.LINK_PORT_STAT_STATE 17, 3), (F.ENG_CAST_CFG_GUEST_SIZE, 1)] (tHost []) with
  cast := { CastSt.init with partnerImage := some 0x20000, guest := #v[{ CastSlot.init with img := some tCast, complete := true }, CastSlot.init] } }

theorem tGuest_one : onePos tGuest := ⟨rfl, by decide, rfl, by decide, by decide⟩

theorem tGuest_quiet : tGuest.memQuiet := ⟨by decide, rfl, rfl, fun _ => rfl⟩

theorem wit_guest : tGuest.memWf = true ∧ tGuest.running = true ∧ tGuest.portUp 17 = true ∧ tGuest.cast.partnerImage = some 0x20000 ∧ 0 < 0x20000 ∧
    0x20000 ≤ tGuest.get F.ENG_CAST_CFG_GUEST_SIZE * 0x10000000 ∧ tGuest.guestVictim = 1 ∧ 0x20000 - 168 + 168 ≤ 0x20000 ∧
    ∀ j < 0x20000, ∃ q b, tGuest.decodeAddr (tGuest.guestAddr 1 + j) = .dram q b ∧ tGuest.physLine q (b / 512) ≠ none := by
  have h : tGuest.guestAddr 1 < 0x70000000 := by decide
  exact ⟨wfOf (by decide) (by decide), by decide, by decide, by decide, by decide, by decide, by decide, by decide,
    fun j hj => byte_of tGuest_one _ (by omega)⟩

theorem wit_guest_slot : tGuest.memApart ∧ tGuest.memQuiet ∧ tGuest.cast.guest[(0 : Fin 2)].img = some tCast ∧
    tGuest.cast.guest[(0 : Fin 2)].usable = true ∧ tCast.step = 7 ∧ tGuest.cast.guest[(1 : Fin 2)].img = none ∧
    ∀ i < tGuest.cast.partnerImage.getD 0, ∃ q b, tGuest.decodeAddr (tGuest.guestAddr 0 + i) = .dram q b := by
  have h : tGuest.guestAddr 0 < 0x70000000 := by decide
  refine ⟨memApart_of rfl rfl (by decide) rfl rfl, tGuest_quiet, rfl, by decide, rfl, rfl, fun i hi => ⟨0, _, decode_of tGuest_one _ ?_⟩⟩
  have hi' : i < 0x20000 := hi
  omega
/-! Ill-formed commands: each check refuses one. -/

theorem test_wrong_opcode_refused : wellFormed (.exp 0 0 0) = false ∧ opcodeOk (.exp 0 0 0) = false ∧ wellFormed (.exp 0 0 (tKiln 1)) = true := by decide

theorem test_wrong_ladle_refused : ladleOk (.operandIn 0 2 (BitVec.ofNat 512 (2 ^ 56))) = false ∧
    wellFormed (.operandIn 0 2 (BitVec.ofNat 512 (2 ^ 56))) = false ∧ wellFormed (.operandIn 0 1 (BitVec.ofNat 512 (2 ^ 56))) = true := by decide

theorem test_wrong_kind_refused : chunkOk (.vote 0 (tFrame 1 1 3 0)) = false ∧ wellFormed (.vote 0 (tFrame 1 1 3 0)) = false ∧
    wellFormed (.vote 0 (tFrame 1 1 4 0)) = true := by decide

theorem test_misaligned_access_refused : accessOk (.registerWrite false 4 false 0) = false ∧ wellFormed (.registerWrite false 4 false 0) = false ∧
    wellFormed (.registerWrite false 4 true 0) = true ∧ wellFormed (.hostMemWrite 0 []) = false := by decide

theorem test_line_out_of_channel_refused : lineOk (.scrub 0 0x400000 0 0) = false ∧ wellFormed (.scrub 0 0x400000 0 0) = false ∧
    wellFormed (.scrub 0 0x3FFFFF 0 0) = true := by decide

theorem test_range_refused : rangeOk (.cperGet 23) = false ∧ wellFormed (.cperGet 23) = false ∧ wellFormed (.cperGet 24) = true ∧
    wellFormed (.knownAnswerTest 1 64 true true) = false := by decide

/-- The table gives no row bits: no word spells a command, and placing one leaves the state. -/
theorem test_no_word_spells_a_command (n w : Nat) (s : State) : decodeTableWord n w = none ∧ s.withFetchWord n w = s := ⟨rfl, rfl⟩

/-! Worked examples of the spec. -/

/-- 02_number_formats.md, "quantising one block row to FP4": k = 4. -/
theorem test_fp4_row : [0x3F300000#32, 0x3F100000#32, 0x3F200000#32, 0xBFF00000#32, 0x3D400000#32, 0x3D800000#32].map
    (fun x => quantise fFp4 0 0 false (quantK (ue5m3Value 0x68) (fv32 0x3F800000#32)) (fv32 x)) =
    [⟨0b0101, false, false, false⟩, ⟨0b0100, false, false, false⟩, ⟨0b0100, false, false, false⟩, ⟨0b1111, true, false, false⟩,
     ⟨0b0000, false, true, false⟩, ⟨0b0000, false, true, false⟩] := by decide

/-- The same example, read back by R48: 0.75, 0.5, −1.5. -/
theorem test_fp4_read_back : [0b0101, 0b0100, 0b1111].map (fun c => dequant fFp4 c (ue5m3Value 0x68) (fv32 0x3F800000#32)) =
    [0x3F400000#32, 0x3F000000#32, 0xBFC00000#32] := by decide

/-- "The two-stage path": 2.5078125 becomes 3.0, and 2.5 becomes 2.0. -/
theorem test_two_stage : (roundElem fFp4 0 0 false true (fv32 0x40208000#32)).code = 0b0101 ∧
    (roundElem fFp4 0 0 false true (fv32 0x40200000#32)).code = 0b0100 := by decide

/-- "A G4 gradient row" by RNE: 0.3125, 0.375, −0.75, −12, 0.05. -/
theorem test_g4_row : [0x3EA00000#32, 0x3EC00000#32, 0xBF400000#32, 0xC1400000#32, 0x3D4CCCCD#32].map (fun x => roundElem fG4 0 0 false true (fv32 x)) =
    [⟨0b0010, false, false, false⟩, ⟨0b0010, false, false, false⟩, ⟨0b1100, false, false, false⟩, ⟨0b1111, true, false, false⟩,
     ⟨0b0000, false, true, false⟩] := by decide

/-- 05_split_reductions.md: two partials combine to 0x4B800008; 2²⁴ + 1 ties back to 2²⁴. -/
theorem test_split_sum : (combineEntry 0 [0x4B800000#32, 0x41800000#32]).1 = 0x4B800008#32 ∧ add32 0x4B800000#32 0x3F800000#32 = 0x4B800000#32 := by decide

/-- 17_address_map.md: four registers. -/
theorem test_register_offsets : (F.TILE_VE_STATUS_REFUSED 37).off = 0x350600 ∧ (F.PERF_B_SEL_EVENT 101 2).off = 0x47590 ∧
    (F.MEM_CH_STAT_STATE 98).off = 0xC1310 ∧ mbxOf true 0x30388 = some 27 := by decide

/-- Address decode with HOME_SIZE 4 GiB and the positions whose channel serves. -/
def tMap (ok : Nat → Bool) : State := { tset [(F.MEM_MAP_CFG_HOME_SIZE, 16)] tJob with mem := { MemSt.init with slots := slotTable (fun q => q % 8) ok } }

/-- 08_memory_and_larder.md: global address 0x12345678 lies in stack 10, position 4; with channel 2 of stack 3 fenced, in stack 19, position 6. -/
theorem test_global_address : (tMap (fun _ => true)).decodeAddr 0x12345678 = .dram (8 * 10 + 4) 0x123678 ∧
    (tMap (fun c => c != 29)).decodeAddr 0x12345678 = .dram (8 * 19 + 6) 0x124678 := by decide

/-- 02_number_formats.md, R62 as R63 states its use: 64 draws of one step lie below 2¹⁶ and are not all equal. -/
theorem test_draws_differ : srDraw 1204772 0 0 < 65536 ∧ srDraw 1204772 0 0 ≠ srDraw 1204772 0 1 := by decide

/-! One step. -/

/-- The queue's front runs first. -/
theorem test_first_in_first_out : ∃ t, step { State.reset with pending := [.presentSMade, .powerOn ⟨0, 0, 0, true⟩] } = .next t ∧
    t.pending = [.powerOn ⟨0, 0, 0, true⟩] := ⟨_, rfl, rfl⟩

/-- R317: the first word of a module's life: POWER_ON reaches start-up step 3 and MODE 0. -/
theorem test_power_on_step : ∃ t, exec (.powerOn ⟨0x259, 4, 0x2C, true⟩) State.reset = .next t ∧ t.get F.MGT_BOOTSTAT_STEP = 3 ∧ t.mode = 0 :=
  ⟨_, rfl, by decide, by decide⟩

end Sys2Proof.Tests
end

section
/-! SUPPORT. What every command keeps, one lemma per meaning: the queue of commands is untouched, what was sent stays sent, canonical memories stay
canonical. The shared operations are cited from Laws/Keeps*.lean; a lemma here follows the branches of one meaning. -/

namespace Sys2Proof.Machine

set_option Elab.async false

/-- Every part of the state but the queue of commands. -/
def Piece.all : List Piece :=
  [.regs, .time, .start, .flash, .wb, .ledger, .power, .period, .seals, .ladder, .mem, .tiles, .coll, .mbx, .flt, .cast, .perf, .sent, .stalled,
    .stallReq, .free]

theorem Piece.sub_all {L : List Piece} : L ⊆ Piece.all := by
  intro p _
  cases p <;> decide

/-- The next state that an answer gives, if it gives one, keeps the queue, the outputs and the canonical form of `σ`. -/
def Kept (σ : State) (r : Res) : Prop := ∀ t, r = .next t → Keeps Piece.all σ t

theorem Kept.next {σ t : State} (h : Keeps Piece.all σ t) : Kept σ (.next t) := by
  rintro _ ⟨⟩
  exact h

theorem Kept.fault {σ : State} {f : Fault} : Kept σ (.fault f) := fun _ h => nomatch h

theorem Kept.ite {σ : State} {c : Prop} [Decidable c] {a b : Res} (ha : Kept σ a) (hb : Kept σ b) : Kept σ (if c then a else b) := by
  split
  · exact ha
  · exact hb

open Piece (sub_all)

section Meanings

variable {σ s : State} (hs : Keeps Piece.all σ s)
include hs

/-- A command that may have to wait in its queue (R28, R160, R284). -/
theorem issue_kept (i : Instr) : Kept σ (.next (s.issue i)) := .next (State.issue_keeps sub_all hs i)

/-! Starts and resets. -/

theorem startFrom4_kept : Kept σ s.startFrom4 := by
  unfold State.startFrom4
  have h := State.startTo7_keeps sub_all hs
  generalize s.startTo7 = p at h ⊢
  obtain ⟨s1, ok⟩ := p
  exact .ite (.next h) (.ite (.next (State.startFrom7_keeps sub_all h)) .fault)

theorem startAgain_kept (env : StartEnv) (powerOn : Bool) : Kept σ (s.startAgain env powerOn) :=
  startFrom4_kept (State.startReset_keeps sub_all hs env powerOn)

theorem enter11_kept : Kept σ s.enter11 := by
  unfold State.enter11
  have h := State.jobStart_keeps sub_all hs
  extract_lets s1 start s2
  have h2 : Keeps Piece.all σ s2 := h.upd (M := [.start]) sub_all
  split
  · exact .next h
  · exact .next (h2.upd (M := [.start]) sub_all)
  · exact startAgain_kept h2 _ _

theorem execPowerOn_kept (straps : Straps) : Kept σ (execPowerOn straps s) := by
  unfold execPowerOn
  exact .ite (.next hs) (.next (State.set_keeps sub_all (hs.upd (M := [.start]) sub_all) _ _))

theorem execXtalWaitExpire_kept (toggling : Bool) (env : StartEnv) : Kept σ (execXtalWaitExpire toggling env s) := by
  unfold execXtalWaitExpire
  extract_lets time start s1 s2
  have h1 : Keeps Piece.all σ s1 := hs.upd (M := [.time, .start]) sub_all
  have h2 : Keeps Piece.all σ s2 := State.set_keeps sub_all h1 _ _
  exact .ite (.next hs) (.ite (.next (State.failStart_keeps sub_all h1 _ _))
    (.ite (startAgain_kept h2 _ _) (.next (h2.upd (M := [.start]) sub_all))))

theorem execXspiExtRelease_kept (env : StartEnv) : Kept σ (execXspiExtRelease env s) :=
  .ite (startAgain_kept hs _ _) (.next hs)

theorem execStartStepTimeout_kept : Kept σ (execStartStepTimeout s) := by
  unfold execStartStepTimeout
  extract_lets k s1 start s2
  have h2 : Keeps Piece.all σ s2 := (State.passTime_keeps sub_all hs _).upd (M := [.start]) sub_all
  refine .ite (.next hs) (.ite (enter11_kept (State.flag_keeps sub_all h2 _)) (.ite (.next ?_) (.next (State.failStart_keeps sub_all h2 _ _))))
  exact State.step10_keeps sub_all (State.forEach_keeps _ (fun _ _ h => ite_keeps (State.portDown_keeps sub_all h _) h) _ h2)

theorem execStartRetryTimer_kept (env : StartEnv) : Kept σ (execStartRetryTimer env s) :=
  .ite (startAgain_kept (State.passTime_keeps sub_all hs _) _ _) (.next hs)

theorem execCxlLinkUp_kept (link : CxlLink) (cxl : Bool) : Kept σ (execCxlLinkUp link cxl s) := by
  unfold execCxlLinkUp
  extract_lets start s1
  have h1 : Keeps Piece.all σ s1 := hs.upd (M := [.start]) sub_all
  exact .ite (.next hs) (.ite (enter11_kept h1) (.next h1))

theorem powerLost_kept : Kept σ (.next s.powerLost) := .next (State.powerLost_keeps sub_all hs)

theorem execPresentSMade_kept : Kept σ (execPresentSMade s) := .next (hs.upd (M := [.start]) sub_all)

theorem execPerstAssert_kept (kind : HostReset) : Kept σ (execPerstAssert kind s) := by
  unfold execPerstAssert
  extract_lets start s1
  have h1 : Keeps Piece.all σ s1 := by
    unfold s1
    split
    · exact hs.upd (M := [.start]) sub_all
    · exact hs
  exact .ite (.next (State.hostReset_keeps sub_all h1)) (.next h1)

theorem execPerstDeassert_kept : Kept σ (execPerstDeassert s) := .next (hs.upd (M := [.start]) sub_all)

theorem execFlrFunction0_kept : Kept σ (execFlrFunction0 s) :=
  .ite (.next (State.setMsix_keeps sub_all (State.resetFn0_keeps sub_all hs) _ _)) (.next hs)

theorem execPllLockLoss_kept (pll : Pll) : Kept σ (execPllLockLoss pll s) := by
  unfold execPllLockLoss
  extract_lets f s1 mem s2 s3
  have h1 : Keeps Piece.all σ s1 := State.flag_keeps sub_all hs _
  have h2 : Keeps Piece.all σ s2 := by
    unfold s2
    split
    · exact State.flushQueues_keeps sub_all h1
    · exact State.abandonColls_keeps sub_all h1 _
    · exact h1.upd (M := [.mem]) sub_all
  have h3 : Keeps Piece.all σ s3 :=
    ite_keeps (State.forEach_keeps _ (fun _ _ h => ite_keeps h (State.failTile_keeps sub_all h _)) _ h2) h2
  exact .ite (.next hs) (.next (State.post_keeps sub_all h3 _ _ _ _ _ _))

/-! Power and clocks. -/

theorem execDomainStateRequest_kept (reqs : List (DomIx × PState)) : Kept σ (execDomainStateRequest reqs s) :=
  .ite (.next (State.forEach_keeps _ (fun _ _ h => State.requestDom_keeps sub_all h _ _) _ hs)) (.next hs)

theorem execDomainWakeDone_kept (d : DomIx) : Kept σ (execDomainWakeDone d s) :=
  .ite (.next hs) (.next (State.settle_keeps sub_all (State.domOn_keeps sub_all hs _)))

theorem execDeepSleepEnter_kept : Kept σ (execDeepSleepEnter s) :=
  .ite (.next (State.bump_keeps sub_all (State.set_keeps sub_all (State.set_keeps sub_all hs _ _) _ _) _ _)) (.next hs)

theorem execWakeLeadTimer_kept : Kept σ (execWakeLeadTimer s) := by
  unfold execWakeLeadTimer
  extract_lets s1 doms
  have h1 : Keeps Piece.all σ s1 := State.coreRestart_keeps sub_all (State.toTick_keeps sub_all hs _)
  exact .ite (.next hs) (.next (State.forEach_keeps _ (fun _ _ h => State.wake_keeps sub_all h _ _) _ h1))

theorem execPowerLimitWrite_kept (value : BitVec 12) : Kept σ (execPowerLimitWrite value s) :=
  .ite (.next (State.writeLimit_keeps sub_all hs _)) (.next hs)

theorem brake_kept : Kept σ (if s.reckonerOn then .next s.brakeSeen else .next s) :=
  .ite (.next (State.brakeSeen_keeps sub_all hs)) (.next hs)

theorem execPwrbrkAssert_kept : Kept σ (execPwrbrkAssert s) := by
  unfold execPwrbrkAssert
  extract_lets power s1
  exact brake_kept (s := s1) (hs.upd (M := [.power]) sub_all)

theorem execPwrbrkRelease_kept : Kept σ (execPwrbrkRelease s) := by
  unfold execPwrbrkRelease
  extract_lets power s1
  exact brake_kept (s := s1) (hs.upd (M := [.power]) sub_all)

theorem execGrantInterval_kept (given : IntervalIn) : Kept σ (execGrantInterval given s) := by
  unfold execGrantInterval
  extract_lets inp s1 above broke s2 s3
  have h1 : Keeps Piece.all σ s1 :=
    State.brakeSeen_keeps sub_all (State.takeLimit_keeps sub_all (State.passTime_keeps sub_all hs _))
  have h2 : Keeps Piece.all σ s2 :=
    State.formGrants_keeps sub_all (State.refreshRates_keeps sub_all (State.measure_keeps sub_all h1 _) _) _
  have h3 : Keeps Piece.all σ s3 := ite_keeps (State.overBase_keeps sub_all h2) h2
  refine .ite (.next hs) (.ite (.next (State.trip_keeps sub_all h3 _ _)) (.next ?_))
  exact State.settle_keeps sub_all (ite_keeps (State.pumpPorts_keeps sub_all (State.schedule_keeps sub_all h3)) h3)

theorem execMeterLimitReached_kept (d : DomIx) : Kept σ (execMeterLimitReached d s) :=
  .ite (.next (hs.upd (M := [.power]) sub_all)) (.next hs)

theorem execThermalTrip_kept : Kept σ (execThermalTrip s) := .ite (.next (State.trip_keeps sub_all hs _ _)) (.next hs)

/-! The period. -/

theorem execWorkItemComplete_kept (id : Nat) : Kept σ (execWorkItemComplete id s) := by
  unfold execWorkItemComplete
  split
  · exact .next hs
  · extract_lets s1
    have h1 : Keeps Piece.all σ s1 := State.endItem_keeps sub_all hs _
    exact .ite (.next hs) (.ite (.next (State.setPhase_keeps sub_all h1 _)) (.next (State.schedule_keeps sub_all h1)))

theorem execPeriodBoundary_kept : Kept σ (execPeriodBoundary s) := by
  unfold execPeriodBoundary
  extract_lets t s1
  have ht : Keeps Piece.all σ t := State.closePhases_keeps sub_all hs
  have h1 : Keeps Piece.all σ s1 := ite_keeps (ite_keeps (State.passTime_keeps sub_all ht _) ht) hs
  have hb : Kept σ (.next s1.boundary) := .next (State.boundary_keeps sub_all h1)
  refine .ite (.next hs) (.ite (.next h1) (.ite (.next (State.enterMinimal_keeps sub_all h1 _)) ?_))
  split
  · exact .ite hb (startAgain_kept h1 _ _)
  · exact hb

theorem execBoundaryPhaseEnd_kept (prods : Vector U64 8) : Kept σ (execBoundaryPhaseEnd prods s) := by
  unfold execBoundaryPhaseEnd
  extract_lets s1 s2 s3
  have h1 : Keeps Piece.all σ s1 := State.msi_keeps sub_all (State.toTick_keeps sub_all hs _) _ _
  have h2 : Keeps Piece.all σ s2 := State.loadItems_keeps sub_all (State.setPhase_keeps sub_all h1 _) _
  have h3 : Keeps Piece.all σ s3 := State.forEach_keeps _ (fun _ _ h => State.ringStart_keeps sub_all h _ _) _ h2
  exact .ite (.next hs) (.ite (.next (State.setPhase_keeps sub_all h1 _))
    (.ite (.next (State.closePhases_keeps sub_all h3)) (.next (State.schedule_keeps sub_all h3))))

theorem execRingRecordArrive_kept (r : RingIx) (rec : RecordArrival) : Kept σ (execRingRecordArrive r rec s) := by
  have hr : Keeps Piece.all σ (s.readRecord r) := State.readRecord_keeps sub_all hs r
  refine .ite (.next hs) ?_
  cases rec with
  | good bytes => exact .next (State.ringStep_keeps sub_all (hr.upd (M := [.period]) sub_all) r)
  | poisoned => exact .next (State.ringStep_keeps sub_all (State.bump_keeps sub_all (State.ringFlag_keeps sub_all hr _) _ _) r)
  | completionError => exact .next (State.stopRing_keeps sub_all (State.ringFlag_keeps sub_all hr _) r)

theorem execIngestComplete_kept : Kept σ (execIngestComplete s) := .ite (.next hs) (.next (State.enterInference_keeps sub_all hs))

theorem execIngestDeadline_kept : Kept σ (execIngestDeadline s) :=
  .ite (.next hs) (.next (State.abandonColls_keeps sub_all (State.ingestLate_keeps sub_all (State.toTick_keeps sub_all hs _)) _))

theorem execInferenceComplete_kept : Kept σ (execInferenceComplete s) :=
  .ite (.next hs) (.next (State.enterTraining_keeps sub_all (State.outPublish_keeps sub_all hs _)))

theorem execInferDeadline_kept : Kept σ (execInferDeadline s) :=
  .ite (.next hs) (.next (State.abandonColls_keeps sub_all
    (State.inferLate_keeps sub_all (State.ingestLate_keeps sub_all (State.toTick_keeps sub_all hs _))) _))

theorem execTrainDeadline_kept : Kept σ (execTrainDeadline s) :=
  .ite (.next hs) (.next (State.abandonColls_keeps sub_all (State.closePhases_keeps sub_all (State.toTick_keeps sub_all hs _)) _))

theorem execTrainingStepStart_kept : Kept σ (execTrainingStepStart s) :=
  .ite (.next (State.stepStart_keeps sub_all hs)) (.ite (.next (State.trainCheck_keeps sub_all hs)) (.next hs))

/-! Memory. -/

theorem execScrub_kept (c : ChIx) (line symErrs rereadErrs : Nat) : Kept σ (execScrub c line symErrs rereadErrs s) :=
  .ite (.next hs) (.next (State.drainMigrations_keeps sub_all (State.lineErrors_keeps sub_all hs _ _ _ _ _)))

theorem execRefresh_kept (c : ChIx) (temp : Nat) : Kept σ (execRefresh c temp s) := .ite (.next hs) (.next (State.setB_keeps sub_all hs _ _))

theorem execRecalibration_kept (c : ChIx) : Kept σ (execRecalibration c s) :=
  .ite (.next hs) (.next (State.copyPause_keeps sub_all (State.set_keeps sub_all hs _ _)))

theorem execRecalibrationEnd_kept (c : ChIx) (ok : Bool) : Kept σ (execRecalibrationEnd c ok s) := by
  unfold execRecalibrationEnd
  extract_lets run mem s1 s2
  have h1 : Keeps Piece.all σ s1 := hs.upd (M := [.mem]) sub_all
  have h2 : Keeps Piece.all σ s2 := State.bump_keeps sub_all (State.set_keeps sub_all (hs.upd (M := [.mem]) sub_all) _ _) _ _
  refine .ite (.next hs) (.ite (.next (State.copyPause_keeps sub_all (State.set_keeps sub_all h1 _ _)))
    (.ite (.next (hs.upd (M := [.mem]) sub_all)) (.next ?_)))
  exact State.drainMigrations_keeps sub_all (State.channelFails_keeps sub_all (State.copyPause_keeps sub_all h2) _ _)

theorem execMigrationReq_kept (value : U64) : Kept σ (execMigrationReq value s) :=
  have h : Keeps Piece.all σ (s.migCtl value.toNat) := State.migCtl_keeps sub_all hs _
  .ite (.next hs) (.ite (.next (State.migRequest_keeps sub_all h)) (.next h))

theorem execMigrationLineCopy_kept (symErrs : Nat) : Kept σ (execMigrationLineCopy symErrs s) := by
  unfold execMigrationLineCopy
  extract_lets p src s1 from_ to_ s2 s3
  have h1 : Keeps Piece.all σ s1 := ite_keeps hs (State.lineErrors_keeps sub_all hs _ _ _ _ _)
  have h2 : Keeps Piece.all σ s2 := State.setPoison_keeps sub_all (State.putLine_keeps sub_all h1 _ _) _ _
  have h3 : Keeps Piece.all σ s3 := State.set_keeps sub_all h2 _ _
  exact .ite (.next hs) (.ite (.next (State.drainMigrations_keeps sub_all (State.migrationDone_keeps sub_all h3)))
    (.next (State.drainMigrations_keeps sub_all h3)))

theorem execChannelDead_kept (c : ChIx) : Kept σ (execChannelDead c s) :=
  .ite (.next hs) (.ite (.next (State.postFull_keeps sub_all (State.chOut_keeps sub_all hs _ _) _ _ _ _ _ _ _ _ _))
    (.next (State.drainMigrations_keeps sub_all (State.channelFails_keeps sub_all hs _ _))))

/-! Seals. -/

theorem execSealVote_kept (n : TileIx) (lossEntry : Fin 32) : Kept σ (execSealVote n lossEntry s) :=
  .next (State.voteIfComplete_keeps sub_all (State.issue_keeps sub_all hs _))

theorem execVote_kept (p : PortIx) (f : DataFrame) : Kept σ (execVote p f s) := by
  unfold execVote
  have h := State.takeFrame_keeps sub_all hs p f
  generalize s.takeFrame p f = r at h ⊢
  obtain ⟨s1, ok⟩ := r
  refine .ite (.next hs) (.ite (.next h) (.ite (.next (State.countStale_keeps sub_all h _)) (.ite (.next ?_) ?_)))
  · exact State.settle_keeps sub_all (State.onColl_keeps sub_all h _ _ fun _ _ _ k => State.onVote_keeps sub_all _ k _ _)
  · split
    · exact .next h
    · refine .ite ?_ ?_
      · split
        · exact .next (State.takeVote_keeps sub_all h _ _ _)
        · exact .next h
      · split
        · split
          · exact .next (State.sendChunk_keeps sub_all h _ _ _)
          · exact .next h
        · exact .next h

theorem execVoteDeadline_kept : Kept σ (execVoteDeadline s) := by
  unfold execVoteDeadline
  extract_lets s1
  have h1 : Keeps Piece.all σ s1 := State.toTick_keeps sub_all hs _
  refine .ite ?_ (.next hs)
  split
  · exact .next (State.leaderDecides_keeps sub_all h1 _)
  · exact .next h1

theorem execCommit_kept (dec : Decision) : Kept σ (execCommit dec s) :=
  have h : Keeps Piece.all σ (s.forwardDecision dec) := State.forwardDecision_keeps sub_all hs _
  .ite (.next (State.trainCheck_keeps sub_all (State.applyCommit_keeps sub_all h _))) (.next h)

theorem execDiscard_kept (dec : Decision) : Kept σ (execDiscard dec s) :=
  have h : Keeps Piece.all σ (s.forwardDecision dec) := State.forwardDecision_keeps sub_all hs _
  .ite (.next (State.trainCheck_keeps sub_all (State.applyDiscard_keeps sub_all h _))) (.next h)

theorem execDecisionQuery_kept (p : PortIx) (src : BitVec 16) (step : U64) : Kept σ (execDecisionQuery p src step s) := by
  refine .ite (.next hs) ?_
  split
  · exact .next (State.sendChunk_keeps sub_all hs _ _ _)
  · exact .next hs

/-! Links. -/

theorem execPortTrainingDone_kept (p : PortIx) (st : TrainStage) : Kept σ (execPortTrainingDone p st s) := by
  have hfail : Kept σ (.next (s.trainFail p).portEvent) := .next (State.portEvent_keeps sub_all (State.trainFail_keeps sub_all hs _))
  refine .ite (.next hs) ?_
  cases st with
  | electrical lanes => exact .ite (.next hs) (.next (State.portEvent_keeps sub_all (State.electricalDone_keeps sub_all hs _ _)))
  | fecLock ok => exact .ite (.next hs) (.ite (.next (State.sendIdent_keeps sub_all (State.set_keeps sub_all hs _ _) _)) hfail)
  | identification => exact .next hs
  | latency ok =>
    exact .ite (.next hs) (.ite hfail
      (.ite (.next (State.portEvent_keeps sub_all (State.probeDone_keeps sub_all hs _))) (.next hs)))

theorem execIdent_kept (p : PortIx) (body : Option IdentBody) : Kept σ (execIdent p body s) := by
  unfold execIdent
  refine .ite (.next hs) ?_
  split
  · exact .next (State.portEvent_keeps sub_all (State.portDown_keeps sub_all hs _))
  · extract_lets gen job wired s1 peer s2 s2' s3
    have h1 : Keeps Piece.all σ s1 := ite_keeps (State.set_keeps sub_all hs _ _) hs
    have h2 : Keeps Piece.all σ s2 := State.set_keeps sub_all (State.set_keeps sub_all h1 _ _) _ _
    have h2' : Keeps Piece.all σ s2' :=
      State.flagIf_keeps sub_all (State.flagIf_keeps sub_all (State.flagIf_keeps sub_all h1 _ _) _ _) _ _
    have h3 : Keeps Piece.all σ s3 := ite_keeps (State.setB_keeps sub_all h2' _ _) h2'
    exact .ite (.next (State.sendProbes_keeps sub_all h2 _)) (.next (State.portEvent_keeps sub_all (State.portDown_keeps sub_all h3 _)))

theorem execProbe_kept (p : PortIx) (body : ProbeBody) (arrival : U64) : Kept σ (execProbe p body arrival s) :=
  .ite (.next hs) (.ite (.next (State.sendControl_keeps sub_all (State.setPort_keeps sub_all hs _ _) _ _ _))
    (.ite (.next (State.setPort_keeps sub_all hs _ _)) (.next hs)))

theorem execLaneFail_kept (p : PortIx) (usable : Nat) : Kept σ (execLaneFail p usable s) :=
  have hdown : Keeps Piece.all σ (if s.portState p.val == 3 || s.retraining p.val then s.portLost p.val else s.portDown p.val) :=
    ite_keeps (State.portLost_keeps sub_all hs _) (State.portDown_keeps sub_all hs _)
  .ite (.next hs) (.ite (.next (State.portEvent_keeps sub_all hdown))
    (.ite (.next (State.flagIf_keeps sub_all hs _ _)) (.next (State.setWidth_keeps sub_all hs _ _))))

theorem execLinkAck_kept (p : PortIx) (hdr : LinkHeader) : Kept σ (execLinkAck p hdr s) :=
  .ite (.next hs) (.ite (.next (State.bump_keeps sub_all hs _ _)) (.ite (.next hs) (.next (State.takeAck_keeps sub_all hs _ _))))

theorem execResendTimeout_kept (p : PortIx) : Kept σ (execResendTimeout p s) :=
  .ite (.next (State.resendAll_keeps sub_all hs _)) (.next hs)

theorem execUncorrectableCodeword_kept (p : PortIx) : Kept σ (execUncorrectableCodeword p s) := by
  unfold execUncorrectableCodeword
  extract_lets x fresh n s1 s2
  have h2 : Keeps Piece.all σ s2 := State.sendAck_keeps sub_all (State.bump_keeps sub_all (State.setPort_keeps sub_all hs _ _) _ _) _ _
  exact .ite (.next hs) (.ite (.next (State.retrain_keeps sub_all h2 _)) (.next h2))

theorem execMarkerSend_kept : Kept σ (execMarkerSend s) := by
  unfold execMarkerSend
  extract_lets s1 num period s2
  have h2 : Keeps Piece.all σ s2 := (State.toTick_keeps sub_all hs _).upd (M := [.period]) sub_all
  exact .ite (.next hs) (.next (State.sendMarker_keeps sub_all (State.set_keeps sub_all h2 _ _) _ _ _ _))

theorem execMarker_kept (p : PortIx) (period phaseTick : U32) (corrNs : Nat) (ownPhaseNs : Int) :
    Kept σ (execMarker p period phaseTick corrNs ownPhaseNs s) := by
  unfold execMarker
  extract_lets lat key s1
  have h1 : Keeps Piece.all σ s1 := ite_keeps (State.sendMarker_keeps sub_all hs _ _ _ _) hs
  exact .ite (.next hs) (.ite (.next h1) (.next (State.takeMarker_keeps sub_all h1 _ _ _ _)))

theorem execMarkerMissed_kept : Kept σ (execMarkerMissed s) :=
  .ite (.next hs) (.next (State.bump_keeps sub_all (State.toTick_keeps sub_all hs _) _ _))

theorem execMarkerLossTimeout_kept : Kept σ (execMarkerLossTimeout s) := by
  unfold execMarkerLossTimeout
  extract_lets s1 owed period s2
  have h2 : Keeps Piece.all σ s2 := (State.toTick_keeps sub_all hs _).upd (M := [.period]) sub_all
  exact .ite (.next hs) (.next (State.set_keeps sub_all (State.flag_keeps sub_all h2 _) _ _))

/-! Collectives. -/

theorem execReady_kept (src : BitVec 16) (body : ReadyBody) : Kept σ (execReady src body s) :=
  .ite (.next hs) (.next (State.settle_keeps sub_all (State.onReady_keeps sub_all hs _ _)))

/-- A chunk of a collective arrives and is taken by what `act` does with it. -/
theorem takeColl_kept (p : PortIx) (f : DataFrame) (kind : Nat) (act : State → Group → Coll → State × Coll)
    (hact : ∀ s g c, Keeps Piece.all σ s → Keeps Piece.all σ (act s g c).1) : Kept σ (.next (s.takeColl p f kind act).settle) :=
  .next (State.settle_keeps sub_all (State.takeColl_keeps sub_all hs _ _ _ _ hact))

/-- A collective is touched by `act`, and what waited for it is tried again. -/
theorem onColl_kept (key : CollKey) (act : State → Group → Coll → State × Coll)
    (hact : ∀ s g c, Keeps Piece.all σ s → Keeps Piece.all σ (act s g c).1) : Kept σ (.next (s.onColl key act).settle) :=
  .next (State.settle_keeps sub_all (State.onColl_keeps sub_all hs _ _ hact))

theorem execBroadcastData_kept (p : PortIx) (f : DataFrame) : Kept σ (execBroadcastData p f s) := by
  unfold execBroadcastData
  have h := State.takeFrame_keeps sub_all hs p f
  generalize s.takeFrame p f = r at h ⊢
  obtain ⟨s1, ok⟩ := r
  split
  · exact .ite (.next hs) (.next (ite_keeps (State.hearVerdict_keeps sub_all h _ _) h))
  · exact takeColl_kept hs _ _ _ _ fun _ _ _ k => State.onBroadcast_keeps sub_all _ k _ _

theorem execReduceContribution_kept (p : PortIx) (f : DataFrame) : Kept σ (execReduceContribution p f s) :=
  takeColl_kept hs _ _ _ _ fun _ _ _ k => State.onContribution_keeps sub_all _ _ k _ _

theorem execPodPartial_kept (p : PortIx) (f : DataFrame) : Kept σ (execPodPartial p f s) :=
  takeColl_kept hs _ _ _ _ fun _ _ _ k => State.onPartial_keeps sub_all _ _ k _ _

theorem execSendData_kept (p : PortIx) (f : DataFrame) : Kept σ (execSendData p f s) := by
  unfold execSendData
  have h := State.takeFrame_keeps sub_all hs p f
  generalize s.takeFrame p f = r at h ⊢
  obtain ⟨s1, ok⟩ := r
  split
  · refine .ite (.next hs) ?_
    dsimp only
    split
    · exact .next (ite_keeps (State.takeDigest_keeps sub_all h _ _ _) h)
    · exact .next h
  · exact takeColl_kept hs _ _ _ _ fun _ _ _ k => State.onSend_keeps sub_all _ k _ _

theorem execBridgeSlotResult_kept (p : PortIx) (f : DataFrame) : Kept σ (execBridgeSlotResult p f s) :=
  takeColl_kept hs _ _ _ _ fun _ _ _ k => State.onSlotResult_keeps sub_all _ k _ _

theorem execGo_kept (key : CollKey) (slot0 slot1 : Option Nat) : Kept σ (execGo key slot0 slot1 s) := by
  unfold execGo
  refine .ite (.next hs) (.ite (onColl_kept hs _ _ ?_) (.next (hs.upd (M := [.coll]) sub_all)))
  exact fun _ _ _ k => ite1_keeps (State.takeGo_keeps sub_all k _ _ _ _) k

/-- A bridge plane's answer to a slot request, or the lack of one (R291). -/
theorem onAnswer_kept (plane : Fin 2) (key : CollKey) (slot : Option Nat) (timeout : Bool) :
    Kept σ (if !s.running then .next s else .next (s.onColl key (State.onAnswer plane slot timeout)).settle) :=
  .ite (.next hs) (onColl_kept hs _ _ fun _ _ _ k => State.onAnswer_keeps sub_all _ _ _ k _ _)

theorem execCollectiveAck_kept (key : CollKey) (src : BitVec 16) (chunkIdx : U32) : Kept σ (execCollectiveAck key src chunkIdx s) :=
  .ite (.next hs) (onColl_kept hs _ _ fun _ _ _ k => State.onCollAck_keeps sub_all _ _ k _ _)

theorem execAssaySweepDone_kept : Kept σ (execAssaySweepDone s) := .ite (.next hs) (.next (State.sweepDone_keeps sub_all hs))

theorem execSplitCombine_kept (n : TileIx) (c : CombineCmd) : Kept σ (execSplitCombine n c s) :=
  have h : Keeps Piece.all σ (s.partsArrive n c) := State.partsArrive_keeps sub_all hs _ _
  .ite (.next hs) (.next (ite_keeps (State.settle_keeps sub_all h) (State.issue_keeps sub_all h _)))

theorem execDwqEntryStart_kept (n : TileIx) : Kept σ (execDwqEntryStart n s) := .ite (.next (State.dwqRun_keeps sub_all hs _)) (.next hs)

/-! The host and the Pigeonholes. -/

theorem execRegisterWrite_kept (fn1 : Bool) (off : Nat) (half : Bool) (value : U64) : Kept σ (execRegisterWrite fn1 off half value s) :=
  .next (State.busWrite_keeps sub_all hs _ _ _ _)

theorem execReleaseBuffer_kept (value : U64) : Kept σ (execReleaseBuffer value s) :=
  .ite (.next (State.releaseBits_keeps sub_all hs _ _)) (.next hs)

/-- RETURN and RETURN_ALL: a write of MGT_HDM. -/
theorem writeHdm_kept (value : U64) : Kept σ (if s.blocksUp && s.mode != 2 then .next (s.writeHdm value) else .next s) :=
  .ite (.next (State.writeHdm_keeps sub_all hs _)) (.next hs)

theorem execHostMemRead_kept (off len : Nat) : Kept σ (execHostMemRead off len s) :=
  .next (State.orStall_keeps sub_all hs (State.hostRead_keeps sub_all hs _ _) _)

theorem execHostMemWrite_kept (off : Nat) (bytes : List Byte) : Kept σ (execHostMemWrite off bytes s) :=
  .next (State.orStall_keeps sub_all hs (State.hostWrite_keeps sub_all hs _ _) _)

/-- CXL_SNOOP and GLOBAL_PERSISTENT_FLUSH: one answer. -/
theorem cxlAnswer_kept (o : Out) : Kept σ (if s.hdmOpen then .next (s.send o) else .next s) :=
  .ite (.next (State.send_keeps sub_all hs _)) (.next hs)

/-- MBX_DATA_WRITE and DOORBELL: an access of a unit that may use that end of the channel. -/
theorem mailIssue_kept (c : MbxIx) (e : MbxEnd) (col : Fin 8) (i : Instr) : Kept σ (if !s.mailEnd c e col then .next s else .next (s.issue i)) :=
  .ite (.next hs) (issue_kept hs _)

/-- RX_EMPTY and RX_RESET: the slot is EMPTY again. -/
theorem mailEmpty_kept (c : MbxIx) (e : MbxEnd) (col : Fin 8) (reset : Bool) :
    Kept σ (if s.mailEnd c e col then .next (s.empty c e col reset).retryStalled else .next s) :=
  .ite (.next (State.retryStalled_keeps sub_all (State.empty_keeps sub_all hs _ _ _ _))) (.next hs)

/-! Identity. -/

theorem execWaybillWrite_kept (part : BitVec 16) (last : Bool) (img : WaybillImage) : Kept σ (execWaybillWrite part last img s) := by
  unfold execWaybillWrite
  extract_lets p s1 all start
  have h1 : Keeps Piece.all σ s1 := State.flashAccess_keeps sub_all (ite_keeps (State.clearStaging_keeps sub_all hs) hs)
  exact .ite (.next hs) (.ite (.next (State.answer_keeps sub_all (State.dropUpload_keeps sub_all hs) _ _ _ _))
    (.ite (.next (State.answer_keeps sub_all hs _ _ _ _)) (.ite (.next (State.stage_keeps sub_all (State.dropUpload_keeps sub_all h1) _ _))
      (.next (State.answer_keeps sub_all (h1.upd (M := [.start]) sub_all) _ _ _ _)))))

theorem execEnrol_kept (key : BitVec 1064) (devIdDigest : Digest) (nonce : BitVec 256) (sig : Signed) :
    Kept σ (execEnrol key devIdDigest nonce sig s) := by
  unfold execEnrol
  extract_lets o s1 flash start
  have h1 : Keeps Piece.all σ s1 := State.flashAccess_keeps sub_all hs
  exact .ite (.next hs) (.ite (.next (State.answer_keeps sub_all hs _ _ _ _)) (.ite (.next (State.answer_keeps sub_all hs _ _ _ _))
    (.next (State.answer_keeps sub_all (h1.upd (M := [.flash, .start]) sub_all) _ _ _ _))))

theorem execSetMinSeq_kept (value : U32) (sig : Signed) : Kept σ (execSetMinSeq value sig s) := by
  unfold execSetMinSeq
  have hno (st : Nat) : Kept σ (.next (s.answer objSetMinSeq 0 st [])) := .next (State.answer_keeps sub_all hs _ _ _ _)
  refine .ite (.next hs) ?_
  split
  · exact hno 2
  · extract_lets up s1 flash start s2
    have h2 : Keeps Piece.all σ s2 := (State.flashAccess_keeps sub_all hs).upd (M := [.flash, .start]) sub_all
    exact .ite (hno 2) (.ite (.next (State.answer_keeps sub_all (State.set_keeps sub_all h2 _ _) _ _ _ _)) (hno 1))

theorem execRestartAtBoundary_kept (fromFn1 : Bool) (env : StartEnv) : Kept σ (execRestartAtBoundary fromFn1 env s) :=
  have h0 : Keeps Piece.all σ (s.answer objRestart 0 0 []) := State.answer_keeps sub_all hs _ _ _ _
  .ite (.next hs) (.ite (.next (State.answerFn0_keeps sub_all hs _))
    (.ite (.next (State.answer_keeps sub_all (hs.upd (M := [.start]) sub_all) _ _ _ _))
      (.ite (.next (State.answer_keeps sub_all hs _ _ _ _)) (.ite (startAgain_kept h0 _ _)
        (.next (State.answer_keeps sub_all (hs.upd (M := [.start]) sub_all) _ _ _ _))))))

theorem execRestartImmediate_kept (fromFn1 : Bool) (env : StartEnv) : Kept σ (execRestartImmediate fromFn1 env s) :=
  have h0 : Keeps Piece.all σ (s.answer objRestart 0 0 []) := State.answer_keeps sub_all hs _ _ _ _
  .ite (.next hs) (.ite (.next (State.answerFn0_keeps sub_all hs _))
    (.ite (.next (State.answer_keeps sub_all (hs.upd (M := [.start]) sub_all) _ _ _ _))
      (.ite (.next (State.answer_keeps sub_all hs _ _ _ _)) (startAgain_kept h0 _ _))))

theorem execStartRetry_kept (fromFn1 : Bool) (env : StartEnv) : Kept σ (execStartRetry fromFn1 env s) := by
  unfold execStartRetry
  extract_lets start ledger s1
  have h1 : Keeps Piece.all σ s1 := hs.upd (M := [.start, .ledger]) sub_all
  exact .ite (.next hs) (.ite (.next (State.answerFn0_keeps sub_all hs _)) (.ite (.next (State.answer_keeps sub_all hs _ _ _ _))
    (startAgain_kept (State.answer_keeps sub_all h1 _ _ _ _) _ _)))

theorem execStatus_kept : Kept σ (execStatus s) := by
  unfold execStatus
  extract_lets n s1 start
  have h1 : Keeps Piece.all σ s1 := State.answer_keeps sub_all hs _ _ _ _
  exact .ite (.next hs) (.next (h1.upd (M := [.start]) sub_all))

theorem execDoeDiscovery_kept (fn1 : Bool) (index : Nat) : Kept σ (execDoeDiscovery fn1 index s) :=
  .ite (.next hs) (.ite (.next (State.doe1_keeps sub_all hs _ _ _)) (.next (State.send_keeps sub_all hs _)))

theorem execCxlTableAccess_kept (entry : Nat) : Kept σ (execCxlTableAccess entry s) := .ite (.next hs) (.next (State.send_keeps sub_all hs _))

/-- One response of function 1's DOE mailbox. -/
theorem doe1_kept (object : String) (status : Nat) (payload : List Nat) : Kept σ (.next (s.doe1 object status payload)) :=
  .next (State.doe1_keeps sub_all hs _ _ _)

/-- A request whose one response is always given. -/
theorem spdm_kept (object : String) (status : Nat) (payload : List Nat) :
    Kept σ (if s.innkUp then .next (s.doe1 object status payload) else .next s) := .ite (doe1_kept hs _ _ _) (.next hs)

theorem execGetCertificate_kept (slot off len : Nat) : Kept σ (execGetCertificate slot off len s) :=
  .ite (.next hs) (.ite (doe1_kept hs _ _ _) (doe1_kept hs _ _ _))

theorem execChallenge_kept (slot : Nat) (nonce : BitVec 256) : Kept σ (execChallenge slot nonce s) :=
  .ite (.next hs) (.ite (doe1_kept hs _ _ _) (.ite (doe1_kept hs _ _ _) (doe1_kept hs _ _ _)))

theorem execGetMeasurements_kept (index : Nat) (signed : Bool) (nonce : BitVec 256) : Kept σ (execGetMeasurements index signed nonce s) :=
  .ite (.next hs) (.ite (doe1_kept hs _ _ _) (.ite (doe1_kept hs _ _ _) (.ite (doe1_kept hs _ _ _)
    (.ite (doe1_kept hs _ _ _) (doe1_kept hs _ _ _)))))

/-! Faults. -/

theorem execErrorRecordPost_kept (errs : List PostedError) : Kept σ (execErrorRecordPost errs s) :=
  .ite (.next hs) (.next (State.settle_keeps sub_all (State.drainMigrations_keeps sub_all
    (State.forEach_keeps _ (fun _ _ h => State.postError_keeps sub_all h _) _ hs))))

theorem execErrorRecordHandle_kept : Kept σ (execErrorRecordHandle s) := by
  refine .ite (.next hs) ?_
  split
  · exact .next hs
  · exact .next (State.handle_keeps sub_all hs _)

theorem execWatchdogExpire_kept (u : CoreUnit) : Kept σ (execWatchdogExpire u s) := by
  refine .ite (.next hs) ?_
  cases u with
  | sequencer n => exact .ite (.next hs) (.next (State.settle_keeps sub_all (State.fenceUnit_keeps sub_all hs _ _ _)))
  | timetable c => exact .ite (.next hs) (.next (State.coreFault_keeps sub_all (State.post_keeps sub_all hs _ _ _ _ _ _) _ _ _))
  | innkeeper => exact .next (State.coreFault_keeps sub_all (State.post_keeps sub_all hs _ _ _ _ _ _) _ _ _)

theorem execInnkeeperRestartDone_kept : Kept σ (execInnkeeperRestartDone s) := by
  unfold execInnkeeperRestartDone
  extract_lets flt s1
  have h1 : Keeps Piece.all σ s1 := hs.upd (M := [.flt]) sub_all
  exact .ite (.next hs) (.next (State.forEach_keeps _ (fun _ _ h => State.minimalAnswer_keeps sub_all h _) _
    (State.forEach_keeps _ (fun _ _ h => State.secureTake_keeps sub_all h _) _ h1)))

theorem execKnownAnswerTest_kept (cls : Byte) (index : Nat) (firstOk repeatOk : Bool) : Kept σ (execKnownAnswerTest cls index firstOk repeatOk s) := by
  unfold execKnownAnswerTest
  extract_lets c s1
  have h1 : Keeps Piece.all σ s1 := State.set_keeps sub_all (State.set_keeps sub_all (State.bump_keeps sub_all hs _ _) _ _) _ _
  have hf (n : Nat) (f : Field) : Keeps Piece.all σ ((s1.bump F.FLT_KAT_STAT_FAILS n).flag f) :=
    State.flag_keeps sub_all (State.bump_keeps sub_all h1 _ _) _
  exact .ite (.next hs) (.ite (.next h1) (.ite (.next (State.post_keeps sub_all (hf _ _) _ _ _ _ _ _))
    (.next (State.settle_keeps sub_all (State.fenceUnit_keeps sub_all (hf _ _) _ _ _)))))

/-- CPER_GET and CPER_ACK: the agent's message arrives on a secure channel. -/
theorem secureMessage_kept (c : MbxIx) (bytes : List Byte) :
    Kept σ (if !s.islandOn || c.val < 24 then .next s else .next ((s.sendFromA c bytes).secureTake c)) :=
  .ite (.next hs) (.next (State.secureTake_keeps sub_all (State.sendFromA_keeps sub_all hs _ _) _))

theorem execLedgerWrite_kept : Kept σ (execLedgerWrite s) := .ite (.next (State.writeLedger_keeps sub_all hs)) (.next hs)

theorem execLedgerXspiCopy_kept : Kept σ (execLedgerXspiCopy s) :=
  .ite (.next hs) (.next ((State.flashAccess_keeps sub_all hs).upd (M := [.flash, .flt]) sub_all))

theorem execDramCeHourlyRecord_kept : Kept σ (execDramCeHourlyRecord s) :=
  .ite (.next hs) (.next (State.forEach_keeps _ (fun _ _ h => ite_keeps h (State.postFull_keeps sub_all h _ _ _ _ _ _ _ _ _)) _ hs))

/-! Casts. -/

theorem execCastReq_kept : Kept σ (execCastReq s) := .ite (.next (State.castTrigger_keeps sub_all hs)) (.next hs)

theorem execCastPageCopy_kept (t : Tier) : Kept σ (execCastPageCopy t s) := by
  unfold execCastPageCopy
  split
  · exact .next hs
  · split
    · exact .next hs
    · split
      · exact .next hs
      · exact .ite (.next hs) (.next (State.pageTaken_keeps sub_all hs _ _ _ _ _))

theorem execCastTierComplete_kept (t : Tier) : Kept σ (execCastTierComplete t s) := by
  unfold execCastTierComplete
  split
  · exact .next hs
  · rename_i r _
    refine .ite (.next hs) ?_
    extract_lets g bump cast s1
    have h1 : Keeps Piece.all σ s1 := hs.upd (M := [.cast]) sub_all
    cases t with
    | nand =>
      have h2 := State.flag_keeps sub_all (State.verifyCasts_keeps sub_all
        (State.setCastSlot_keeps sub_all (State.flashAccess_keeps sub_all h1) r.nandSlot
          { CastSlot.init with img := some g, complete := true, secured := !g.damaged })) F.ENG_CAST_STAT_N_DONE
      exact .next (State.castSettle_keeps sub_all (h2.upd (M := [.ledger]) sub_all))
    | partner =>
      have h2 := State.flag_keeps (s := { s1 with cast := { s1.cast with partnerHeld :=
          ((g.gen.toNat, g.step.toNat, false) :: s1.cast.partnerHeld).take (s1.get F.LINK_PAIR_STATUS_GUEST_SLOTS) } }) sub_all
        (h1.upd (M := [.cast]) sub_all) F.ENG_CAST_STAT_P_DONE
      have h3 := State.send_keeps sub_all h2 (.toPartner "header" g.gen.toNat (imageHeader g))
      exact .next (State.castSettle_keeps sub_all (h3.upd (M := [.ledger]) sub_all))

theorem execExportSlot_kept : Kept σ (execExportSlot s) := .ite (.next (State.exportGo_keeps sub_all hs)) (.next hs)

theorem execCastWindowFill_kept : Kept σ (execCastWindowFill s) := .ite (.next hs) (.next (State.fillWindow_keeps sub_all hs))

theorem execNextWindow_kept : Kept σ (execNextWindow s) := .ite (.next (State.windowNext_keeps sub_all hs)) (.next hs)

theorem execStored_kept : Kept σ (execStored s) := .ite (.next (State.slotStored_keeps sub_all hs)) (.next hs)

theorem execRestoreGo_kept (value : U64) : Kept σ (execRestoreGo value s) :=
  .ite (.next hs) (.next (State.restoreGo_keeps sub_all (State.restoreCtl_keeps sub_all hs _)))

theorem execRestoreFetchDone_kept (r : FetchOutcome) : Kept σ (execRestoreFetchDone r s) :=
  .ite (.next hs) (.next (State.fetchEnds_keeps sub_all hs _))

theorem execGuestCastData_kept (first : Bool) (off : Nat) (bytes : List Byte) : Kept σ (execGuestCastData first off bytes s) :=
  .ite (.next hs) (.next (State.guestTakes_keeps sub_all hs _ _ _))

theorem execGuestSlotFetch_kept (step : U64) : Kept σ (execGuestSlotFetch step s) := by
  unfold execGuestSlotFetch
  extract_lets l
  refine .ite (.next hs) ?_
  split
  · rename_i j _
    exact .next (State.send_keeps sub_all (State.slotBytes_keeps sub_all hs (8 + j) 0 (s.slotSize (8 + j))) _)
  · exact .next (State.send_keeps sub_all hs _)

theorem execPartnerCastReport_kept (imageSize : Option Nat) (noUsableCast : Bool) : Kept σ (execPartnerCastReport imageSize noUsableCast s) := by
  unfold execPartnerCastReport
  extract_lets cast s1 n s2 cast' s3
  have h1 : Keeps Piece.all σ s1 := by
    unfold s1
    split
    · exact hs.upd (M := [.cast]) sub_all
    · exact hs
  have h2 : Keeps Piece.all σ s2 := State.setB_keeps sub_all (State.setB_keeps sub_all (State.set_keeps sub_all h1 _ _) _ _) _ _
  have h3 : Keeps Piece.all σ s3 :=
    ite_keeps (State.castTrigger_keeps sub_all (State.flag_keeps sub_all (h2.upd (M := [.cast]) sub_all) _)) h2
  exact .ite (.next hs) (.next h3)

/-! Performance counters. -/

theorem execDumpAll_kept : Kept σ (execDumpAll s) := .ite (.next (State.dumpEvery_keeps sub_all hs)) (.next hs)

theorem execClear_kept (b : PerfIx) : Kept σ (execClear b s) := .ite (.next (State.clearBlock_keeps sub_all hs _)) (.next hs)

theorem execPerfSelWrite_kept (b : PerfIx) (i : Fin 8) (value : U64) : Kept σ (execPerfSelWrite b i value s) :=
  .ite (.next (State.writeSel_keeps sub_all hs _ _ _)) (.next hs)

theorem execPerfDump_kept (b : PerfIx) : Kept σ (execPerfDump b s) := .ite (.next (State.dump_keeps sub_all hs _ _ _)) (.next hs)

theorem execPerfRingRecordWrite_kept : Kept σ (execPerfRingRecordWrite s) := by
  unfold execPerfRingRecordWrite
  extract_lets m
  split
  · exact .next hs
  · extract_lets s1 prod a
    have h1 : Keeps Piece.all σ s1 := State.set_keeps sub_all (hs.upd (M := [.perf]) sub_all) _ _
    have hdrop (r : List Byte) (f : Field) : Keeps Piece.all σ ((s1.dropRecord r).bump f 1) :=
      State.bump_keeps sub_all (State.dropRecord_keeps sub_all h1 _) _ _
    exact .ite (.next hs) (.ite (.next (hdrop _ _)) (.ite (.next (hdrop _ _))
      (.next (State.set_keeps sub_all (State.fence_keeps sub_all (State.moduleWrite_keeps sub_all h1 _ _ _)) _ _))))

/-! Every command. -/

theorem exec_kept (c : Instr) : Kept σ (exec c s) := by
  cases c with
  | powerOn _ => exact execPowerOn_kept hs _
  | xtalWaitExpire _ _ => exact execXtalWaitExpire_kept hs _ _
  | startStepTimeout => exact execStartStepTimeout_kept hs
  | startRetryTimer _ => exact execStartRetryTimer_kept hs _
  | cxlLinkUp _ _ => exact execCxlLinkUp_kept hs _ _
  | underVoltageTurnOff => exact powerLost_kept hs
  | overVoltageTurnOff => exact powerLost_kept hs
  | overCurrentTurnOff => exact powerLost_kept hs
  | pwrbrkAssert => exact execPwrbrkAssert_kept hs
  | pwrbrkRelease => exact execPwrbrkRelease_kept hs
  | perstAssert _ => exact execPerstAssert_kept hs _
  | perstDeassert => exact execPerstDeassert_kept hs
  | flrFunction0 => exact execFlrFunction0_kept hs
  | flrFunction1 => exact .next hs
  | xspiExtRelease _ => exact execXspiExtRelease_kept hs _
  | pllLockLoss _ => exact execPllLockLoss_kept hs _
  | deepSleepEnter => exact execDeepSleepEnter_kept hs
  | wakeLeadTimer => exact execWakeLeadTimer_kept hs
  | domainStateRequest _ => exact execDomainStateRequest_kept hs _
  | domainWakeDone _ => exact execDomainWakeDone_kept hs _
  | grantInterval _ => exact execGrantInterval_kept hs _
  | meterLimitReached _ => exact execMeterLimitReached_kept hs _
  | thermalTrip => exact execThermalTrip_kept hs
  | powerLimitWrite _ => exact execPowerLimitWrite_kept hs _
  | workItemComplete _ => exact execWorkItemComplete_kept hs _
  | periodBoundary => exact execPeriodBoundary_kept hs
  | boundaryPhaseEnd _ => exact execBoundaryPhaseEnd_kept hs _
  | ringRecordArrive _ _ => exact execRingRecordArrive_kept hs _ _
  | ingestComplete => exact execIngestComplete_kept hs
  | ingestDeadline => exact execIngestDeadline_kept hs
  | inferenceComplete => exact execInferenceComplete_kept hs
  | inferDeadline => exact execInferDeadline_kept hs
  | trainDeadline => exact execTrainDeadline_kept hs
  | trainingStepStart => exact execTrainingStepStart_kept hs
  | knownAnswerTest _ _ _ _ => exact execKnownAnswerTest_kept hs _ _ _ _
  | operandIn _ _ _ => exact issue_kept hs _
  | transposeIn _ _ _ => exact issue_kept hs _
  | convert _ _ _ => exact issue_kept hs _
  | resultOut _ _ _ => exact issue_kept hs _
  | matmul _ _ _ _ => exact issue_kept hs _
  | cruCopy _ _ => exact issue_kept hs _
  | splitCombine _ _ => exact execSplitCombine_kept hs _ _
  | dwqPost _ _ => exact issue_kept hs _
  | dwqEntryStart _ => exact execDwqEntryStart_kept hs _
  | dwqDrain _ => exact issue_kept hs _
  | memFence _ => exact issue_kept hs _
  | scalarFileWrite _ _ _ => exact issue_kept hs _
  | sealVote _ _ => exact execSealVote_kept hs _ _
  | gatherCsr _ _ _ => exact issue_kept hs _
  | gatherIdx _ _ _ => exact issue_kept hs _
  | scatterIdx _ _ _ => exact issue_kept hs _
  | copyIn _ _ _ => exact issue_kept hs _
  | copyOut _ _ _ => exact issue_kept hs _
  | segSum _ _ _ => exact issue_kept hs _
  | segMax _ _ _ => exact issue_kept hs _
  | segMean _ _ _ => exact issue_kept hs _
  | segCount _ _ _ => exact issue_kept hs _
  | segDot _ _ _ => exact issue_kept hs _
  | segPair _ _ _ => exact issue_kept hs _
  | exp _ _ _ => exact issue_kept hs _
  | log _ _ _ => exact issue_kept hs _
  | recip _ _ _ => exact issue_kept hs _
  | rsqrt _ _ _ => exact issue_kept hs _
  | tanh _ _ _ => exact issue_kept hs _
  | sigmoid _ _ _ => exact issue_kept hs _
  | add _ _ => exact issue_kept hs _
  | mul _ _ => exact issue_kept hs _
  | fma _ _ => exact issue_kept hs _
  | cmp _ _ => exact issue_kept hs _
  | sel _ _ => exact issue_kept hs _
  | min _ _ => exact issue_kept hs _
  | max _ _ => exact issue_kept hs _
  | perm _ _ => exact issue_kept hs _
  | cvt _ _ => exact issue_kept hs _
  | scrub _ _ _ _ => exact execScrub_kept hs _ _ _ _
  | refresh _ _ => exact execRefresh_kept hs _ _
  | recalibration _ => exact execRecalibration_kept hs _
  | recalibrationEnd _ _ => exact execRecalibrationEnd_kept hs _ _
  | wcTimerExpire _ _ _ => exact issue_kept hs _
  | migrationReq _ => exact execMigrationReq_kept hs _
  | migrationLineCopy _ => exact execMigrationLineCopy_kept hs _
  | channelDead _ => exact execChannelDead_kept hs _
  | vote _ _ => exact execVote_kept hs _ _
  | voteDeadline => exact execVoteDeadline_kept hs
  | commit _ => exact execCommit_kept hs _
  | discard _ => exact execDiscard_kept hs _
  | decisionQuery _ _ _ => exact execDecisionQuery_kept hs _ _ _
  | portTrainingDone _ _ => exact execPortTrainingDone_kept hs _ _
  | ident _ _ => exact execIdent_kept hs _ _
  | probe _ _ _ => exact execProbe_kept hs _ _ _
  | laneFail _ _ => exact execLaneFail_kept hs _ _
  | linkAck _ _ => exact execLinkAck_kept hs _ _
  | resendTimeout _ => exact execResendTimeout_kept hs _
  | bcast _ _ => exact issue_kept hs _
  | reduce _ _ => exact issue_kept hs _
  | send _ _ => exact issue_kept hs _
  | recv _ _ => exact issue_kept hs _
  | ready _ _ => exact execReady_kept hs _ _
  | broadcastData _ _ => exact execBroadcastData_kept hs _ _
  | reduceContribution _ _ => exact execReduceContribution_kept hs _ _
  | podPartial _ _ => exact execPodPartial_kept hs _ _
  | sendData _ _ => exact execSendData_kept hs _ _
  | bridgeSlotResult _ _ => exact execBridgeSlotResult_kept hs _ _
  | go _ _ _ => exact execGo_kept hs _ _ _
  | slotGrant _ _ _ => exact onAnswer_kept hs _ _ _ _
  | slotBusy _ _ => exact onAnswer_kept hs _ _ _ _
  | slotReqTimeout _ _ => exact onAnswer_kept hs _ _ _ _
  | markerSend => exact execMarkerSend_kept hs
  | marker _ _ _ _ _ => exact execMarker_kept hs _ _ _ _ _
  | markerLossTimeout => exact execMarkerLossTimeout_kept hs
  | releaseBuffer _ => exact execReleaseBuffer_kept hs _
  | returnGranule _ => exact writeHdm_kept hs _
  | returnAll _ => exact writeHdm_kept hs _
  | hostMemRead _ _ => exact execHostMemRead_kept hs _ _
  | hostMemWrite _ _ => exact execHostMemWrite_kept hs _ _
  | cxlSnoop _ => exact cxlAnswer_kept hs _
  | globalPersistentFlush => exact cxlAnswer_kept hs _
  | mbxDataWrite _ _ _ _ _ => exact mailIssue_kept hs _ _ _ _
  | doorbell _ _ _ => exact mailIssue_kept hs _ _ _ _
  | rxEmpty _ _ _ => exact mailEmpty_kept hs _ _ _ _
  | rxReset _ _ _ => exact mailEmpty_kept hs _ _ _ _
  | waybillWrite _ _ _ => exact execWaybillWrite_kept hs _ _ _
  | enrol _ _ _ _ => exact execEnrol_kept hs _ _ _ _
  | setMinSeq _ _ => exact execSetMinSeq_kept hs _ _
  | restartAtBoundary _ _ => exact execRestartAtBoundary_kept hs _ _
  | restartImmediate _ _ => exact execRestartImmediate_kept hs _ _
  | startRetry _ _ => exact execStartRetry_kept hs _ _
  | status => exact execStatus_kept hs
  | doeDiscovery _ _ => exact execDoeDiscovery_kept hs _ _
  | cxlTableAccess _ => exact execCxlTableAccess_kept hs _
  | getVersion => exact spdm_kept hs _ _ _
  | getCapabilities => exact spdm_kept hs _ _ _
  | negotiateAlgorithms => exact spdm_kept hs _ _ _
  | getDigests => exact spdm_kept hs _ _ _
  | getCertificate _ _ _ => exact execGetCertificate_kept hs _ _ _
  | challenge _ _ => exact execChallenge_kept hs _ _
  | getMeasurements _ _ _ => exact execGetMeasurements_kept hs _ _ _
  | spdmUnsupportedRequest _ => exact spdm_kept hs _ _ _
  | errorRecordPost _ => exact execErrorRecordPost_kept hs _
  | errorRecordHandle => exact execErrorRecordHandle_kept hs
  | watchdogExpire _ => exact execWatchdogExpire_kept hs _
  | innkeeperRestartDone => exact execInnkeeperRestartDone_kept hs
  | cperGet _ => exact secureMessage_kept hs _ _
  | cperAck _ _ => exact secureMessage_kept hs _ _
  | ledgerWrite => exact execLedgerWrite_kept hs
  | ledgerXspiCopy => exact execLedgerXspiCopy_kept hs
  | assaySweepDone => exact execAssaySweepDone_kept hs
  | castReq => exact execCastReq_kept hs
  | castPageCopy _ => exact execCastPageCopy_kept hs _
  | castTierComplete _ => exact execCastTierComplete_kept hs _
  | exportSlot => exact execExportSlot_kept hs
  | castWindowFill => exact execCastWindowFill_kept hs
  | nextWindow => exact execNextWindow_kept hs
  | stored => exact execStored_kept hs
  | restoreGo _ => exact execRestoreGo_kept hs _
  | restoreFetchDone _ => exact execRestoreFetchDone_kept hs _
  | dumpAll => exact execDumpAll_kept hs
  | clear _ => exact execClear_kept hs _
  | perfSelWrite _ _ _ => exact execPerfSelWrite_kept hs _ _ _
  | perfDump _ => exact execPerfDump_kept hs _
  | perfRingRecordWrite => exact execPerfRingRecordWrite_kept hs
  | registerWrite _ _ _ _ => exact execRegisterWrite_kept hs _ _ _ _
  | collectiveAck _ _ _ => exact execCollectiveAck_kept hs _ _ _
  | uncorrectableCodeword _ => exact execUncorrectableCodeword_kept hs _
  | guestCastData _ _ _ => exact execGuestCastData_kept hs _ _ _
  | guestSlotFetch _ => exact execGuestSlotFetch_kept hs _
  | partnerCastReport _ _ => exact execPartnerCastReport_kept hs _ _
  | dramCeHourlyRecord => exact execDramCeHourlyRecord_kept hs
  | markerMissed => exact execMarkerMissed_kept hs
  | presentSMade => exact execPresentSMade_kept hs

end Meanings

/-- The queue of commands is no memory. -/
theorem memWf_pending (s : State) (l : List Instr) : ({ s with pending := l } : State).memWf = s.memWf := rfl

/-- Settles O3: the command at the front runs on a state with the same memories and keeps them canonical, as an idle tick does. -/
theorem stepKeepsMemoriesCanonical : Obligations.StepKeepsMemoriesCanonical := by
  intro s t hwf h
  unfold step at h
  split at h
  · obtain rfl := Host.Outcome.next.inj h
    exact (State.idle_keeps sub_all (Keeps.refl s)).memWf hwf
  · rename_i c rest _
    exact (exec_kept (Keeps.refl { s with pending := rest }) c t h).memWf ((memWf_pending s rest).trans hwf)

end Sys2Proof.Machine
end

section
/-! SUPPORT. The state after reset, and the loss of power (R12, R432, R433). -/

namespace Sys2Proof.Machine

/-- A register file without an entry holds the Reset column. -/
theorem State.rd_of_regs_nil {s : State} (h : s.regs = []) (o : Nat) : s.rd o = regReset o := by
  simp only [State.rd, h, Sparse.getD, Sparse.find, Option.getD_none]

/-- The registers of the power domains hold 0 after reset. -/
theorem regReset_domStat : ∀ d < 155, regReset (0x10100 + d * 8) = 0 := by decide +kernel

theorem State.dom_of_regs_nil {s : State} (h : s.regs = []) {d : Nat} (hd : d < 155) : s.dom d = 0 := by
  have : s.rd (F.PWR_DOM_STAT_STATE d).off = 0 := (State.rd_of_regs_nil h _).trans (regReset_domStat d hd)
  simp [State.dom, State.get, this, fieldOf]

theorem TileSt.init_wf : TileSt.init.wf = true := rfl

theorem State.reset_tile (n : TileIx) : State.reset.tile n = TileSt.init := Vector.getElem_replicate _

theorem State.reset_memWf : State.reset.memWf = true := by
  have ht : State.reset.tiles.all TileSt.wf = true := (TileSt.all_wf _).2 fun n => by
    rw [show State.reset.tiles[n] = TileSt.init from State.reset_tile n, TileSt.init_wf]
  rw [State.memWf, ht]
  rfl

/-- Settles O6: the fields of `State.reset`; a register file without entries reads as the Reset column. -/
theorem resetState : Obligations.ResetState := by
  refine ⟨State.reset_memWf, rfl, rfl, rfl, rfl, State.rd_of_regs_nil rfl, fun _ => State.dom_of_regs_nil rfl, rfl, rfl, fun i => ?_, fun n => ?_⟩
  · exact Vector.getElem_replicate _
  · rw [State.reset_tile]
    exact ⟨rfl, rfl⟩

/-- Settles O10: each of the three is `State.powerLost`, which starts from the state after reset. -/
theorem turnOffsLosePower : Obligations.TurnOffsLosePower := by
  intro c s hc hp
  have hexec : exec c s = .next s.powerLost := by rcases hc with rfl | rfl | rfl <;> rfl
  refine ⟨s.powerLost, hexec, ?_⟩
  unfold State.powerLost
  rw [if_neg (by simp [hp])]
  exact ⟨rfl, rfl, State.rd_of_regs_nil rfl, rfl, rfl, rfl, rfl, rfl, rfl, rfl, rfl, rfl, rfl, rfl, rfl, rfl, rfl, rfl⟩

end Sys2Proof.Machine
end

section
/-! SUPPORT. The registers as software reads and writes them (R10, R13, R15) and the MSI-X tables (R359). -/

namespace Sys2Proof.Machine

/-! Bits of a number. -/

theorem bit_eq_testBit (x b : Nat) : bit x b = x.testBit b := by
  rw [bit, Nat.testBit_eq_decide_div_mod_eq]
  rfl

/-- Taking away a bit that is set clears it. -/
theorem bit_sub_two_pow {x k : Nat} (h : bit x k = true) : bit (x - 2 ^ k) k = false := by
  rw [bit_eq_testBit] at *
  have hx : x = 2 ^ k + (x - 2 ^ k) := by have := Nat.ge_two_pow_of_testBit h; omega
  rw [hx, Nat.testBit_two_pow_add_eq] at h
  simpa using h

/-! The bits that a write addresses, and what it brings. -/

theorem writeMask_testBit (off : Nat) (half : Bool) {j : Nat} (hj : j < 64) : (writeMask off half).testBit j = bitWritten off half j := by
  have hhigh : ∀ j < 64, Nat.testBit 0xFFFFFFFF00000000 j = decide (32 ≤ j) := by decide
  have hlow : ∀ j < 64, Nat.testBit 0xFFFFFFFF j = decide (j < 32) := by decide
  have hall : ∀ j < 64, Nat.testBit 0xFFFFFFFFFFFFFFFF j = true := by decide
  cases half with
  | false => exact hall j hj
  | true =>
    by_cases h4 : off % 8 = 4
    · simp [writeMask, bitWritten, h4, hhigh j hj]
    · simp [writeMask, bitWritten, h4, hlow j hj]

theorem writeData_testBit (off : Nat) (half : Bool) (v : U64) {j : Nat} (hj : j < 64) (hw : bitWritten off half j = true) :
    (writeData off half v).testBit j = v.getLsbD (if half ∧ 32 ≤ j then j - 32 else j) := by
  cases half with
  | false => simp [writeData, BitVec.testBit_toNat]
  | true =>
    by_cases h4 : off % 8 = 4
    · have h32 : 32 ≤ j := by simpa [bitWritten, h4] using hw
      have hd : writeData off true v = v.toNat % 2 ^ 32 * 2 ^ 32 := by simp [writeData, h4]
      rw [hd, Nat.testBit_mul_two_pow, Nat.testBit_mod_two_pow, BitVec.testBit_toNat]
      have : j - 32 < 32 := by omega
      simp [h32, this]
    · have h32 : ¬ 32 ≤ j := by simpa [bitWritten, h4] using hw
      have hd : writeData off true v = v.toNat % 2 ^ 32 := by simp [writeData, h4]
      rw [hd, Nat.testBit_mod_two_pow, BitVec.testBit_toNat]
      have : j < 32 := by omega
      simp [h32, this]

/-- No bit of a card is both RW and RW1C (R10). -/
theorem cards_rw_rw1c_disjoint : ∀ c ∈ cards, c.rw &&& c.rw1c = 0 := by decide +kernel

theorem mem_cards_of_cardAt {o : Nat} {c : Card} (h : cardAt o = some c) : c ∈ cards := List.mem_of_find?_eq_some h

/-- R10 bit by bit: bits outside the write stay, RW bits take what is written, RW1C bits written 1 are cleared. -/
theorem writeFields_getLsbD {c : Card} (hc : c.rw &&& c.rw1c = 0) (old : U64) (v m : Nat) {j : Nat} (hj : j < 64) :
    (writeFields c old v m).getLsbD j =
      if m.testBit j = false then old.getLsbD j
      else if c.rw.testBit j then v.testBit j
      else if c.rw1c.testBit j then old.getLsbD j && !v.testBit j
      else old.getLsbD j := by
  have hd : (c.rw.testBit j && c.rw1c.testBit j) = false := by
    rw [← Nat.testBit_and, hc, Nat.zero_testBit]
  simp only [writeFields, BitVec.getLsbD_and, BitVec.getLsbD_or, BitVec.getLsbD_not, BitVec.getLsbD_ofNat, hj, decide_true, Bool.true_and]
  cases hm : m.testBit j <;> cases hrw : c.rw.testBit j <;> cases hrc : c.rw1c.testBit j <;> simp_all

/-- A plain register's write does nothing beyond its fields. -/
theorem State.regAction_of_plain {o : Nat} (h : plainReg o = true) (s : State) (v m : Nat) (old : U64) : s.regAction o v m old = s := by
  simp only [plainReg, Bool.and_eq_true, Bool.not_eq_true', Bool.or_eq_false_iff, beq_eq_false_iff_ne, decide_eq_false_iff_not,
    Bool.and_eq_false_iff] at h
  obtain ⟨⟨h, -⟩, -⟩ := h
  have hring : 0x200 ≤ o → o < 0x300 → ¬ o % 32 = 0 := by omega
  simp +contextual [State.regAction, h, hring]

/-! Accesses that find no register. -/

theorem State.busWrite_of_unaligned (s : State) (fn1 : Bool) {off : Nat} {half : Bool} (v : U64) (h : off % (if half then 4 else 8) ≠ 0) :
    s.busWrite fn1 off half v = s := by
  simp [State.busWrite, h]

/-- A write that meets neither a Pigeonhole nor a table word changes nothing on function 1, and on function 0 only a register that answers. -/
theorem State.busWrite_of_discarded {s : State} {fn1 : Bool} {off : Nat} (half : Bool) (v : U64) (hm : mbxOf fn1 (off / 8 * 8) = none)
    (hx : msixWordIx fn1 (off / 8 * 8) = none) (h : fn1 = true ∨ s.answers (off / 8 * 8) = false ∨ cardAt (off / 8 * 8) = none) :
    s.busWrite fn1 off half v = s := by
  have hw (u m : Nat) : (if !fn1 && s.answers (off / 8 * 8) then s.writeReg (off / 8 * 8) u m else s) = s := by
    rcases h with rfl | h | h
    · rfl
    · simp [h]
    · simp [State.writeReg, h]
  simp only [State.busWrite, hm, hx, hw, ite_self]

theorem State.mbxRead_of_gap (s : State) (c : Nat) {o : Nat} (h8 : o % 8 = 0) (h : 0x90 ≤ o) : s.mbxRead c o = 0 := by
  unfold State.mbxRead
  split
  · rfl
  · have h1 : ¬ o / 8 < 8 := by omega
    have h2 : ¬ o / 8 - 8 < 8 := by omega
    have h3 : o ≠ 0x88 := by omega
    simp [h1, h2, h3]

theorem State.mbxWriteReg_of_gap (s : State) (c v m : Nat) {o : Nat} (h : 0x90 ≤ o) : s.mbxWriteReg c o v m = s := by
  unfold State.mbxWriteReg
  split
  · rfl
  · have h1 : ¬ o / 8 < 8 := by omega
    have h2 : o ≠ 0x80 := by omega
    have h3 : o ≠ 0x88 := by omega
    simp [h1, h2, h3]

/-- An offset of the Pigeonholes' blocks without a register lies past the channel's STAT. -/
theorem registerAt_mbx {fn1 : Bool} {o c : Nat} (hm : mbxOf fn1 o = some c) : registerAt fn1 o = decide (o % 0x100 < 0x90) := by
  unfold registerAt
  rw [hm]

theorem registerAt_other {fn1 : Bool} {o : Nat} (hm : mbxOf fn1 o = none) (hx : msixWordIx fn1 o = none) :
    registerAt fn1 o = (o == msixPba fn1 || (if fn1 then decide (o < 0x18 ∨ 0x50000 ≤ o ∧ o < 0x50050) else (cardAt o).isSome)) := by
  unfold registerAt
  rw [hm, hx]

theorem registerAt_table {fn1 : Bool} {o i : Nat} (hm : mbxOf fn1 o = none) (hx : msixWordIx fn1 o = some i) : registerAt fn1 o = true := by
  unfold registerAt
  rw [hm, hx]

/-- R15: an offset that holds no register reads zero. -/
theorem State.readReg_of_no_register (s : State) {fn1 : Bool} {o : Nat} (h8 : o % 8 = 0) (h : registerAt fn1 o = false) : s.readReg fn1 o = 0 := by
  unfold State.readReg
  rw [if_neg (by simp [h8])]
  cases hm : mbxOf fn1 o with
  | some c =>
    have hgap : 0x90 ≤ o % 0x100 := by simpa [registerAt_mbx hm] using h
    simp [State.mbxRead_of_gap s c (by omega) hgap]
  | none =>
    cases hx : msixWordIx fn1 o with
    | some i => simp [registerAt_table hm hx] at h
    | none =>
      rw [registerAt_other hm hx] at h
      cases fn1 <;> simp_all

/-- R15: a write to an offset that holds no register is discarded. -/
theorem State.busWrite_of_no_register (s : State) {fn1 : Bool} {off : Nat} (half : Bool) (v : U64) (h : registerAt fn1 (off / 8 * 8) = false) :
    s.busWrite fn1 off half v = s := by
  cases hm : mbxOf fn1 (off / 8 * 8) with
  | some c =>
    have hgap : 0x90 ≤ off / 8 * 8 % 0x100 := by simpa [registerAt_mbx hm] using h
    simp [State.busWrite, hm, State.mbxWriteReg_of_gap s c _ _ hgap]
  | none =>
    cases hx : msixWordIx fn1 (off / 8 * 8) with
    | some i => simp [registerAt_table hm hx] at h
    | none =>
      rw [registerAt_other hm hx] at h
      refine State.busWrite_of_discarded half v hm hx ?_
      cases fn1 <;> simp_all

/-! The MSI-X tables. -/

@[simp] theorem State.msix_setMsix_self (s : State) (fn1 : Bool) (x : MsixSt) : (s.setMsix fn1 x).msix fn1 = x := by cases fn1 <;> rfl

@[simp] theorem State.msix_setMsix_other (s : State) (fn1 : Bool) (x : MsixSt) : (s.setMsix fn1 x).msix (!fn1) = s.msix (!fn1) := by
  cases fn1 <;> rfl

@[simp] theorem State.setMsix_setMsix (s : State) (fn1 : Bool) (x y : MsixSt) : (s.setMsix fn1 x).setMsix fn1 y = s.setMsix fn1 y := by
  cases fn1 <;> rfl

@[simp] theorem State.setMsix_cxlUp (s : State) (fn1 : Bool) (x : MsixSt) : (s.setMsix fn1 x).start.cxlUp = s.start.cxlUp := by cases fn1 <;> rfl

@[simp] theorem State.msix_send (s : State) (o : Out) (fn1 : Bool) : (s.send o).msix fn1 = s.msix fn1 := rfl

theorem State.setMsix_same (s : State) (fn1 : Bool) (x : MsixSt) : Same [.start] s (s.setMsix fn1 x) := by
  constructor <;> first | exact fun h => (h (by decide)).elim | exact fun _ => rfl

/-- R359: a vector that is not masked sends its message while the link is up. -/
theorem State.msi_of_unmasked {s : State} {fn1 : Bool} {k : Nat} (hup : s.start.cxlUp = true) (hm : bit (s.msix fn1).mask k = false) :
    s.msi fn1 k = s.send (.msi fn1 k) := by
  simp [State.msi, hup, hm]

/-- R359: unmasking a pending vector sends its message and takes its pending bit. -/
theorem State.msixUnmasked_pending {s : State} {fn1 : Bool} {k : Nat} (hup : s.start.cxlUp = true) (hm : bit (s.msix fn1).mask k = false)
    (hp : bit (s.msix fn1).pba k = true) :
    s.msixUnmasked fn1 k = (s.setMsix fn1 { s.msix fn1 with pba := (s.msix fn1).pba - 2 ^ k }).send (.msi fn1 k) := by
  simp only [State.msixUnmasked, hm, hp, Bool.not_false, Bool.and_self, if_true]
  exact State.msi_of_unmasked (by simpa using hup) (by simpa using hm)

/-- A write of the whole of a vector's data word with its mask bit 0. -/
theorem State.msixWrite_unmask (s : State) (fn1 : Bool) {k : Nat} {v : U64} (hm : bit (s.msix fn1).mask k = true) (hv : v.getLsbD 32 = false) :
    s.msixWrite fn1 (2 * k + 1) v.toNat 0xFFFFFFFFFFFFFFFF =
      (s.setMsix fn1 { s.msix fn1 with
        table := Sparse.put (s.msix fn1).table (2 * k + 1) (v &&& 0xFFFFFFFF#64) 0
        mask := (s.msix fn1).mask - 2 ^ k }).msixUnmasked fn1 k := by
  have hw (r : Nat) : BitVec.ofNat 64 ((r &&& (0xFFFFFFFFFFFFFFFF - 0xFFFFFFFFFFFFFFFF)) ||| (v.toNat &&& 0xFFFFFFFFFFFFFFFF)) = v := by
    rw [Nat.sub_self, Nat.and_zero, Nat.zero_or, show 0xFFFFFFFFFFFFFFFF = 2 ^ 64 - 1 from rfl, Nat.and_two_pow_sub_one_eq_mod,
      Nat.mod_eq_of_lt v.isLt, BitVec.ofNat_toNat, BitVec.setWidth_eq]
  have hv' : bit v.toNat 32 = false := by rw [bit_eq_testBit, BitVec.testBit_toNat, hv]
  have hodd : ((2 * k + 1) % 2 == 0) = false := by rw [beq_eq_false_iff_ne]; omega
  have hk : (2 * k + 1) / 2 = k := by omega
  simp only [State.msixWrite, hw, hodd, hk, hv', hm, Bool.false_eq_true, if_false, if_true]

/-- The data word of vector k, with its mask bit, at its offset of the table. -/
theorem State.busWrite_msixData {s : State} {fn1 : Bool} {k : Nat} (v : U64) (hk : k < msixVectors fn1) (hup : s.blocksUp = true) :
    s.busWrite fn1 (msixTable fn1 + 16 * k + 8) false v = s.msixWrite fn1 (2 * k + 1) v.toNat 0xFFFFFFFFFFFFFFFF := by
  have h8 : (msixTable fn1 + 16 * k + 8) % 8 = 0 := by cases fn1 <;> simp only [msixTable, if_true, if_false, Bool.false_eq_true] <;> omega
  have ho : (msixTable fn1 + 16 * k + 8) / 8 * 8 = msixTable fn1 + 16 * k + 8 := by omega
  have hm : mbxOf fn1 (msixTable fn1 + 16 * k + 8) = none := by
    rw [mbxOf, if_neg]
    cases fn1 <;> simp only [msixTable, if_true, if_false, Bool.false_eq_true] <;> omega
  have hx : msixWordIx fn1 (msixTable fn1 + 16 * k + 8) = some (2 * k + 1) := by
    rw [msixWordIx, if_pos (by omega)]
    congr 1
    omega
  simp only [State.busWrite, Bool.false_eq_true, if_false, h8, ho, hm, hx, hup, bne_self_eq_false, Bool.not_true, Bool.or_self]
  rfl

/-! A plain register. -/

theorem mbxOf_of_plain {o : Nat} (h : plainReg o = true) : mbxOf false o = none := by
  simp only [plainReg, Bool.and_eq_true, Option.isNone_iff_eq_none] at h
  exact h.1.2

theorem msixWordIx_of_plain {o : Nat} (h : plainReg o = true) : msixWordIx false o = none := by
  simp only [plainReg, Bool.and_eq_true, Option.isNone_iff_eq_none] at h
  exact h.2

theorem State.busWrite_of_plain {s : State} {off : Nat} {half : Bool} {c : Card} (v : U64) (hup : s.blocksUp = true)
    (hal : off % (if half then 4 else 8) = 0) (hp : plainReg (off / 8 * 8) = true) (ha : s.answers (off / 8 * 8) = true)
    (hc : cardAt (off / 8 * 8) = some c) :
    s.busWrite false off half v =
      s.wr (off / 8 * 8) (writeFields c (s.rd (off / 8 * 8)) (writeData off half v) (writeMask off half)) := by
  simp [State.busWrite, hal, hup, mbxOf_of_plain hp, msixWordIx_of_plain hp, ha, State.writeReg, hc, State.regAction_of_plain hp]

/-- Settles O49: an offset without a register by `readReg_of_no_register` and `busWrite_of_no_register`; a mask write by `msixUnmasked_pending`; a
plain register by `busWrite_of_plain`, bit by bit with `writeFields_getLsbD`; the discarded writes by `busWrite_of_unaligned` and
`busWrite_of_discarded`. -/
theorem registerWrites : Obligations.RegisterWrites := by
  refine ⟨fun _ _ _ _ _ => rfl,
    fun fn1 off half v s h => ⟨s.readReg_of_no_register (by omega) h, congrArg _ (s.busWrite_of_no_register half v h)⟩,
    fun fn1 k v s hk hup hcxl hm hp hv => ?_, fun off half v s hwf hup => ⟨fun h fn1 => ?_, fun hb hx => ?_, fun hb hx h => ?_, ?_⟩⟩
  · refine ⟨_, rfl, ?_⟩
    have hclear : bit ((s.msix fn1).mask - 2 ^ k) k = false := bit_sub_two_pow hm
    rw [State.busWrite_msixData v hk hup, State.msixWrite_unmask s fn1 hm hv,
      State.msixUnmasked_pending (by simpa using hcxl) (by simpa using hclear) (by simpa using hp)]
    refine ⟨by simp [State.send], by simpa using hclear, by simpa using bit_sub_two_pow hp, by simp, ?_⟩
    simp only [State.msix_setMsix_self, State.setMsix_setMsix]
    exact ((State.setMsix_same s fn1 _).mono (by simp)).upd (M := [.sent]) (by simp)
  · exact congrArg _ (s.busWrite_of_unaligned fn1 v h)
  · exact congrArg _ (State.busWrite_of_discarded half v hb hx (.inl rfl))
  · exact congrArg _ (State.busWrite_of_discarded half v hb hx (.inr h))
  · intro c hal hp ha hc
    refine ⟨_, rfl, ?_⟩
    rw [State.busWrite_of_plain v hup hal hp ha hc]
    have hok := State.regsOk_of_memWf hwf
    refine ⟨fun j hj => ?_, regsBut.wr hok _ _ rfl, (Same.refl s).upd (M := [.regs]) (by simp)⟩
    rw [State.rd_wr _ _ _ _ hok, if_pos rfl, writeFields_getLsbD (cards_rw_rw1c_disjoint c (mem_cards_of_cardAt hc)) _ _ _ hj,
      writeMask_testBit off half hj]
    by_cases hw : bitWritten off half j = true
    · rw [writeData_testBit off half v hj hw]
    · simp [hw]

end Sys2Proof.Machine
end

section
/-! SUPPORT. The registers after several fields are set in a row, and after every domain is turned off (R298, R328, R340). -/

namespace Sys2Proof.Machine

/-! Fields set one after another. -/

def State.setAll (s : State) : List (Field × Nat) → State
  | [] => s
  | p :: l => (s.set p.1 p.2).setAll l

theorem State.setAll_keeps {L : List Piece} {σ : State} (hL : [Piece.regs] ⊆ L) (l : List (Field × Nat)) {s : State} (hs : Keeps L σ s) :
    Keeps L σ (s.setAll l) := by
  induction l generalizing s with
  | nil => exact hs
  | cons p l ih => exact ih (State.set_keeps hL hs _ _)

/-- A set leaves the other registers as they are. -/
theorem State.rd_set_ne {s : State} (f : Field) (x : Nat) {o : Nat} (h : s.regsOk) (ho : f.off ≠ o) : (s.set f x).rd o = s.rd o := by
  rw [State.set, State.rd_wr _ _ _ _ h, if_neg ho]

theorem State.rd_setAll_ne {l : List (Field × Nat)} {s : State} {o : Nat} (h : s.regsOk) (ho : ∀ f ∈ l.map Prod.fst, f.off ≠ o) :
    (s.setAll l).rd o = s.rd o := by
  induction l generalizing s with
  | nil => rfl
  | cons p l ih =>
    rw [List.map_cons, List.forall_mem_cons] at ho
    exact (ih (State.set_regsOk _ _ _ h) ho.2).trans (State.rd_set_ne _ _ h ho.1)

theorem State.get_setAll_ne {l : List (Field × Nat)} {s : State} {g : Field} (h : s.regsOk) (ho : ∀ f ∈ l.map Prod.fst, g.apart f)
    (hg : g.lo + g.w ≤ 64) : (s.setAll l).get g = s.get g := by
  induction l generalizing s with
  | nil => rfl
  | cons p l ih =>
    rw [List.map_cons, List.forall_mem_cons] at ho
    exact (ih (State.set_regsOk _ _ _ h) ho.2).trans (State.get_set_ne _ _ _ h ho.1 hg)

/-- Of fields that share no bit, each holds what it was set to. -/
theorem State.get_setAll {l : List (Field × Nat)} {s : State} {f : Field} {x : Nat} (h : s.regsOk)
    (hl : (l.map Prod.fst).Pairwise Field.apart) (hm : (f, x) ∈ l) (hf : f.lo + f.w ≤ 64) : (s.setAll l).get f = x % 2 ^ f.w := by
  induction l generalizing s with
  | nil => exact absurd hm List.not_mem_nil
  | cons p l ih =>
    rw [List.map_cons, List.pairwise_cons] at hl
    rcases List.mem_cons.1 hm with rfl | hm
    · exact (State.get_setAll_ne (State.set_regsOk _ _ _ h) hl.1 hf).trans (State.get_set_self _ _ _ h hf)
    · exact ih (State.set_regsOk _ _ _ h) hl.2 hm

theorem State.get_setAll_of_lt {l : List (Field × Nat)} {s : State} {f : Field} {x : Nat} (h : s.regsOk)
    (hl : (l.map Prod.fst).Pairwise Field.apart) (hm : (f, x) ∈ l) (hf : f.lo + f.w ≤ 64) (hx : x < 2 ^ f.w) : (s.setAll l).get f = x := by
  rw [State.get_setAll h hl hm hf, Nat.mod_eq_of_lt hx]

/-- What every step of a fold keeps, the fold keeps. -/
theorem State.forEach_induction {α : Type} {P : State → Prop} {f : State → α → State} {l : List α} {s : State} (h0 : P s)
    (h : ∀ s, ∀ a ∈ l, P s → P (f s a)) : P (s.forEach l f) := by
  unfold State.forEach
  induction l generalizing s with
  | nil => exact h0
  | cons a l ih => exact ih (h s a (by simp) h0) fun t b hb => h t b (by simp [hb])

/-- From `s` to `t` registers outside a window are as they were, and those of `t` are in canonical form. -/
def regsIn (w : Nat → Prop) (s t : State) : Prop := t.regsOk ∧ regsBut w s t

theorem regsIn.refl {w : Nat → Prop} {s : State} (h : s.regsOk) : regsIn w s s := ⟨h, regsBut.refl w s⟩

theorem regsIn.set {w : Nat → Prop} {s t : State} (h : regsIn w s t) (f : Field) (x : Nat) (hf : w f.off) : regsIn w s (t.set f x) :=
  ⟨State.set_regsOk _ _ _ h.1, h.2.trans (regsBut.set h.1 f x hf)⟩

/-- An update of other parts than the registers. -/
theorem regsIn.of_regs {w : Nat → Prop} {s t u : State} (h : regsIn w s t) (hu : u.regs = t.regs) : regsIn w s u :=
  ⟨(congrArg Sparse.sorted hu).trans h.1, fun o ho => (show u.rd o = t.rd o by simp only [State.rd, hu]).trans (h.2 o ho)⟩

/-! Every domain off. -/

/-- The registers that turning domains off writes: PWR_DOMd_STAT and CLK_STAT. -/
def offWin (o : Nat) : Prop := (0x10100 ≤ o ∧ o < 0x105D8) ∨ o = 0x20010

theorem offWin_domStat {d : Nat} (hd : d < 155) : offWin (0x10100 + d * 0x8) := .inl (by omega)

/-- Domain d is OFF, and to stay so. -/
def State.domOff (s : State) (d : Nat) : State := (s.setDom d 0).setDomReq d 0

theorem State.domOff_regsOk {s : State} (h : s.regsOk) (d : Nat) : (s.domOff d).regsOk :=
  State.set_regsOk _ _ _ (State.set_regsOk _ _ _ h)

theorem regsIn.domOff {s t : State} (h : regsIn offWin s t) {d : Nat} (hd : d < 155) : regsIn offWin s (t.domOff d) :=
  (h.set (F.PWR_DOM_STAT_STATE d) 0 (offWin_domStat hd)).set (F.PWR_DOM_STAT_REQ_STATE d) 0 (offWin_domStat hd)

theorem State.dom_domOff {s : State} (h : s.regsOk) (d e : Nat) : (s.domOff d).dom e = if d = e then 0 else s.dom e := by
  have hreq : (s.domOff d).dom e = (s.setDom d 0).dom e :=
    State.get_set_other _ _ _ _ (State.set_regsOk _ _ _ h) (.inr ⟨.inl (by simp [F.PWR_DOM_STAT_STATE, F.PWR_DOM_STAT_REQ_STATE]),
      by simp [F.PWR_DOM_STAT_STATE]⟩)
  rw [hreq]
  split
  · next hde =>
    subst hde
    exact State.get_set_self _ _ _ h (by simp [F.PWR_DOM_STAT_STATE])
  · next hde =>
    refine State.get_set_other _ _ _ _ h (.inl ?_)
    simp only [F.PWR_DOM_STAT_STATE]
    omega

/-- The domains but those kept are OFF. -/
def State.domsOff (s : State) (keep : List Nat) : State :=
  s.forEach (List.range 155) (fun s d => if keep.contains d then s else s.domOff d)

/-- The clocks that stop when the domains go off. -/
def clocksDown : List (Field × Nat) :=
  [(F.CLK_STAT_CORE_LOCK, 0), (F.CLK_STAT_FAB_LOCK, 0), (F.CLK_STAT_MEM_LOCK, 0), (F.CLK_STAT_BOOT_LOCK, 0), (F.CLK_STAT_CORE_STOPPED, 0)]

theorem clocksDown_off : ∀ f ∈ clocksDown.map Prod.fst, f.off = 0x20010 := by decide

theorem State.domsOff_keeps (s : State) (keep : List Nat) : Keeps [.regs] s (s.domsOff keep) :=
  State.forEach_keeps _ (fun _ _ h => ite_keeps h (State.setDomReq_keeps (by simp) (State.setDom_keeps (by simp) h _ _) _ _)) _ (Keeps.refl s)

theorem State.domsOff_regsOk {s : State} (h : s.memWf = true) (keep : List Nat) : (s.domsOff keep).regsOk :=
  State.regsOk_of_memWf ((s.domsOff_keeps keep).memWf h)

/-- A turn-off: the domains go off, then the clocks stop, and what they held is lost. -/
theorem State.allOff_regs (s : State) (keep : List Nat) : (s.allOff keep).regs = ((s.domsOff keep).setAll clocksDown).regs := by
  unfold State.allOff State.domsOff State.domOff clocksDown
  simp only [State.setAll]

theorem State.allOff_start (s : State) (keep : List Nat) :
    (s.allOff keep).start = { s.start with memReady := false, hung := 0, cxlUp := s.start.cxlUp && keep.contains domCxl } := by
  rw [← (s.domsOff_keeps keep).same.start (by decide)]
  rfl

theorem State.allOff_flash (s : State) (keep : List Nat) : ∃ nand, (s.allOff keep).flash = { s.flash with nand := nand } := by
  rw [← (s.domsOff_keeps keep).same.flash (by decide)]
  exact ⟨_, rfl⟩

theorem State.allOff_flt (s : State) (keep : List Nat) :
    (s.allOff keep).flt = { s.flt with assay := none, assayHashed := false, roots := [] } := by
  rw [← (s.domsOff_keeps keep).same.flt (by decide)]
  rfl

theorem State.allOff_memWf {s : State} (h : s.memWf = true) (keep : List Nat) : (s.allOff keep).memWf = true :=
  (State.allOff_keeps Piece.sub_all (Keeps.refl s) keep).memWf h

theorem State.domsOff_regsIn {s : State} (h : s.regsOk) (keep : List Nat) : regsIn offWin s (s.domsOff keep) := by
  refine State.forEach_induction (regsIn.refl h) fun t d hd ht => ?_
  split
  · exact ht
  · exact ht.domOff (List.mem_range.1 hd)

/-- A turn-off writes no register outside its window. -/
theorem State.allOff_regsBut {s : State} (h : s.memWf = true) (keep : List Nat) : regsBut offWin s (s.allOff keep) := by
  intro o ho
  have hne : ∀ f ∈ clocksDown.map Prod.fst, f.off ≠ o := fun f hf he => ho (.inr (he ▸ clocksDown_off f hf))
  calc (s.allOff keep).rd o = ((s.domsOff keep).setAll clocksDown).rd o := by simp only [State.rd, State.allOff_regs]
    _ = (s.domsOff keep).rd o := State.rd_setAll_ne (State.domsOff_regsOk h keep) hne
    _ = s.rd o := (State.domsOff_regsIn (State.regsOk_of_memWf h) keep).2 o ho

theorem dom_foldl_domOff {l : List Nat} {t : State} {d : Nat} (ht : t.regsOk) (h : d ∈ l ∨ t.dom d = 0) :
    (l.foldl (fun s d => if ([] : List Nat).contains d then s else s.domOff d) t).dom d = 0 := by
  induction l generalizing t with
  | nil => exact h.resolve_left List.not_mem_nil
  | cons e l ih =>
    rw [List.foldl_cons, if_neg (by simp)]
    refine ih (State.domOff_regsOk ht e) ?_
    rw [State.dom_domOff ht]
    rcases h with h | h
    · rcases List.mem_cons.1 h with rfl | h
      · exact .inr (if_pos rfl)
      · exact .inl h
    · exact .inr (by rw [h, ite_self])

/-- With none kept, every domain is OFF. -/
theorem State.dom_allOff {s : State} (h : s.memWf = true) {d : Nat} (hd : d < 155) : (s.allOff []).dom d = 0 := by
  have hne : ∀ f ∈ clocksDown.map Prod.fst, f.off ≠ (F.PWR_DOM_STAT_STATE d).off := fun f hf => by
    rw [clocksDown_off f hf]
    simp only [F.PWR_DOM_STAT_STATE]
    omega
  calc (s.allOff []).dom d = ((s.domsOff []).setAll clocksDown).dom d := State.get_congr (State.allOff_regs s []) _
    _ = (s.domsOff []).dom d := by simp only [State.dom, State.get, State.rd_setAll_ne (State.domsOff_regsOk h []) hne]
    _ = 0 := dom_foldl_domOff (State.regsOk_of_memWf h) (.inl (List.mem_range.2 hd))

end Sys2Proof.Machine
end

section
/-! SUPPORT. The state in which a start stands before step 4 (R12, R339), and failed starts (R328). -/

namespace Sys2Proof.Machine

/-! A start begins. -/

/-- A start begins: what does not outlast a reset is gone, and no register holds a value of its own yet. -/
def State.startBase (s : State) (env : StartEnv) : State :=
  let s1 := s.allOff []
  { s1 with
    regs := [], wb := none, ladder := [], mbx := Vector.replicate 32 MbxChan.init, perf := PerfSt.init
    start := { s1.start with
      env := env, hung := 0, xspiHold := false, retryArmed := false, restartAtBoundary := none, restoreHeld := false
      memReady := false, upload := none, uploadBytes := [], ttImage := [], seqImage := [], msix0 := MsixSt.init, msix1 := MsixSt.init
      keysOk := false, ownerNow := none }
    time := { s1.time with coreCyc := 0, fabCyc := 0 }
    power := { PowerSt.init with brakeAge := Nat.min 1 s1.power.brakeAge }
    flt := { s1.flt with innkFaultAt := none, innkRestarting := false }
    free := s1.free + 1 }

/-- What the always-on island brings to the registers of a new start. -/
def State.islandFields (s : State) (b : State) (powerOn : Bool) : List (Field × Nat) :=
  [(F.MGT_BOOTSTAT_REASON, (s.allOff []).get F.MGT_BOOTSTAT_REASON), (F.MGT_BOOTSTAT_FAIL_STEP, (s.allOff []).get F.MGT_BOOTSTAT_FAIL_STEP),
    (F.MGT_BOOTSTAT_CONSEC_FAIL, b.start.consec), (F.MGT_BOOTSTAT_POWER_ON, b2n powerOn),
    (F.CLK_STAT_XTAL_OK, (s.allOff []).get F.CLK_STAT_XTAL_OK), (F.LINK_IDENT_MEMBER_ID, b.start.straps.moduleSlot.toNat),
    (F.LINK_PAIR_STATUS_OWN_FEED, b.start.straps.feedId.toNat), (F.CLK_STAT_XTAL_WAIT, b.start.straps.xtalWait.toNat),
    (F.FLT_QUEUE_DEPTH, b.flt.queue.length), (F.FLT_QUEUE_PEAK, b.flt.queue.length), (F.FLT_CPER_STAT_HELD, b.flt.store.length)]

theorem State.startReset_eq (s : State) (env : StartEnv) (powerOn : Bool) :
    s.startReset env powerOn = (s.startBase env).setAll (s.islandFields (s.startBase env) powerOn) := rfl

/-- The fields of the island share no bit. -/
theorem State.islandFields_apart (s b : State) (powerOn : Bool) : ((s.islandFields b powerOn).map Prod.fst).Pairwise Field.apart := by
  simp only [State.islandFields, List.map_cons, List.map_nil]
  unfold Field.apart
  decide

/-- A field that the island brings. -/
theorem State.startReset_get (s : State) (env : StartEnv) (powerOn : Bool) {f : Field} {x : Nat}
    (hm : (f, x) ∈ s.islandFields (s.startBase env) powerOn) (hf : f.lo + f.w ≤ 64 := by decide) :
    (s.startReset env powerOn).get f = x % 2 ^ f.w := by
  rw [State.startReset_eq]
  exact State.get_setAll rfl (s.islandFields_apart _ _) hm hf

/-- Every other register holds its reset value. -/
theorem State.startReset_rd (s : State) (env : StartEnv) (powerOn : Bool) {o : Nat}
    (ho : o ∉ [0x8, 0x20010, 0x80000, 0x80010, 0x50008, 0x50040]) : (s.startReset env powerOn).rd o = regReset o := by
  have hoffs : ∀ f ∈ (s.islandFields (s.startBase env) powerOn).map Prod.fst, f.off ∈ [0x8, 0x20010, 0x80000, 0x80010, 0x50008, 0x50040] := by
    simp only [State.islandFields, List.map_cons, List.map_nil]
    decide
  have hne : ∀ f ∈ (s.islandFields (s.startBase env) powerOn).map Prod.fst, f.off ≠ o := fun f hf he => ho (he ▸ hoffs f hf)
  rw [State.startReset_eq, State.rd_setAll_ne rfl hne]
  exact State.rd_of_regs_nil rfl o

theorem State.startReset_same (s : State) (env : StartEnv) (powerOn : Bool) : Same [.regs] (s.startBase env) (s.startReset env powerOn) := by
  rw [State.startReset_eq]
  exact (State.setAll_keeps (by simp) _ (Keeps.refl _)).same

theorem State.startReset_memWf {s : State} (h : s.memWf = true) (env : StartEnv) (powerOn : Bool) : (s.startReset env powerOn).memWf = true :=
  (State.startReset_keeps Piece.sub_all (Keeps.refl s) env powerOn).memWf h

theorem State.startReset_mode (s : State) (env : StartEnv) (powerOn : Bool) : (s.startReset env powerOn).mode = 0 := by
  have hne : ∀ f ∈ (s.islandFields (s.startBase env) powerOn).map Prod.fst, F.MGT_BOOTSTAT_MODE.apart f := by
    simp only [State.islandFields, List.map_cons, List.map_nil]
    unfold Field.apart
    decide
  have h0 : fieldOf F.MGT_BOOTSTAT_MODE (regReset 0x8) = 0 := by decide +kernel
  rw [State.mode, State.startReset_eq, State.get_setAll_ne rfl hne (by decide), State.get, State.rd_of_regs_nil rfl]
  exact h0

theorem State.startReset_dom (s : State) (env : StartEnv) (powerOn : Bool) {d : Nat} (hd : d < 155) : (s.startReset env powerOn).dom d = 0 := by
  have ho : (F.PWR_DOM_STAT_STATE d).off ∉ [0x8, 0x20010, 0x80000, 0x80010, 0x50008, 0x50040] := by
    simp only [F.PWR_DOM_STAT_STATE, List.mem_cons, List.not_mem_nil]
    rintro (h | h | h | h | h | h | h) <;> omega
  rw [State.dom, State.get, State.startReset_rd s env powerOn ho, show (F.PWR_DOM_STAT_STATE d).off = 0x10100 + d * 8 from rfl,
    regReset_domStat d hd]
  simp [fieldOf]

theorem State.startBase_start (s : State) (env : StartEnv) :
    (s.startBase env).start = { s.start with
      memReady := false, hung := 0, cxlUp := s.start.cxlUp && false, env := env, xspiHold := false, retryArmed := false
      restartAtBoundary := none, restoreHeld := false, upload := none, uploadBytes := [], ttImage := [], seqImage := []
      msix0 := MsixSt.init, msix1 := MsixSt.init, keysOk := false, ownerNow := none } := by
  simp only [State.startBase, State.allOff_start]
  rfl

theorem State.startReset_start (s : State) (env : StartEnv) (powerOn : Bool) :
    (s.startReset env powerOn).start = (s.startBase env).start := (s.startReset_same env powerOn).start (by decide)

theorem State.startReset_flash (s : State) (env : StartEnv) (powerOn : Bool) :
    ∃ nand, (s.startReset env powerOn).flash = { s.flash with nand := nand } := by
  rw [(s.startReset_same env powerOn).flash (by decide)]
  exact State.allOff_flash s []

/-- REASON and FAIL_STEP outlast the reset. -/
theorem State.startReset_failure {s : State} (h : s.memWf = true) (env : StartEnv) (powerOn : Bool) :
    (s.startReset env powerOn).get F.MGT_BOOTSTAT_REASON = s.get F.MGT_BOOTSTAT_REASON ∧
      (s.startReset env powerOn).get F.MGT_BOOTSTAT_FAIL_STEP = s.get F.MGT_BOOTSTAT_FAIL_STEP := by
  have hw : ¬ offWin 0x8 := by unfold offWin; omega
  have hlt : ∀ f : Field, s.get f < 2 ^ f.w := fun f => BitVec.isLt _
  constructor
  · rw [s.startReset_get env powerOn (x := (s.allOff []).get F.MGT_BOOTSTAT_REASON) (by simp [State.islandFields]),
      (State.allOff_regsBut h []).get _ hw, Nat.mod_eq_of_lt (hlt _)]
  · rw [s.startReset_get env powerOn (x := (s.allOff []).get F.MGT_BOOTSTAT_FAIL_STEP) (by simp [State.islandFields]),
      (State.allOff_regsBut h []).get _ hw, Nat.mod_eq_of_lt (hlt _)]

/-! Failed starts. -/

/-- A start that goes no further at once: it waits at a step from 4 to 10, or has failed, with a new one due or in minimal mode. -/
def State.startSettled (t : State) : Prop :=
  (4 ≤ t.start.hung ∧ t.start.hung ≤ 10 ∧ t.get F.MGT_BOOTSTAT_STEP = t.start.hung) ∨ t.start.retryArmed = true ∨ t.mode = 2

/-- The registers in minimal mode: the CXL domain is ON, the rest OFF. -/
def State.minimalRegs (s : State) (reason : Nat) : State :=
  (((s.setDom domCxl 3).setDomReq domCxl 3).set F.MGT_BOOTSTAT_MODE 2).set F.MGT_BOOTSTAT_REASON reason

theorem State.minimalRegs_mode {s : State} (h : s.regsOk) (reason : Nat) : (s.minimalRegs reason).mode = 2 := by
  have hoff : ((s.setDom domCxl 3).setDomReq domCxl 3).regsOk := State.set_regsOk _ _ _ (State.set_regsOk _ _ _ h)
  have hmode : (((s.setDom domCxl 3).setDomReq domCxl 3).set F.MGT_BOOTSTAT_MODE 2).mode = 2 := State.get_set F.MGT_BOOTSTAT_MODE 2 hoff
  exact (State.get_set_ne F.MGT_BOOTSTAT_REASON F.MGT_BOOTSTAT_MODE reason (State.set_regsOk _ _ _ hoff) (.inr (.inl (by decide)))).trans hmode

/-- The mail that the Innkeeper answers touches no register. -/
theorem State.enterMinimal_regs (s : State) (reason : Nat) : (s.enterMinimal reason).regs = ((s.allOff [domCxl]).minimalRegs reason).regs := by
  unfold State.enterMinimal
  extract_lets s1 s2 st s3
  have hmail : Keeps [.start, .mbx, .sent] s3 (s3.forEach allMbx fun s c => s.minimalAnswer c) :=
    State.forEach_keeps _ (fun _ c hs => State.minimalAnswer_keeps (by simp) hs c) _ (Keeps.refl s3)
  exact hmail.same.regs (by decide)

theorem State.enterMinimal_mode {s : State} (h : s.memWf = true) (reason : Nat) : (s.enterMinimal reason).mode = 2 :=
  (State.get_congr (s.enterMinimal_regs reason) _).trans (State.minimalRegs_mode (State.regsOk_of_memWf (State.allOff_memWf h _)) reason)

theorem State.enterMinimal_settled {s : State} (h : s.memWf = true) (reason : Nat) : (s.enterMinimal reason).startSettled :=
  .inr (.inr (State.enterMinimal_mode h reason))

theorem State.readLedger_memWf {s : State} (h : s.memWf = true) : s.readLedger.memWf = true :=
  (State.readLedger_keeps Piece.sub_all (Keeps.refl s)).memWf h

/-- How many starts in a row have failed once this one has, up to what its field holds. -/
def State.failCount (s : State) : Nat := Nat.min 255 (s.start.consec + 1)

/-- What a failed start shows in the registers. -/
def State.failFields (s : State) (step reason : Nat) : List (Field × Nat) :=
  [(F.MGT_BOOTSTAT_REASON, reason), (F.MGT_BOOTSTAT_FAIL_STEP, step), (F.MGT_BOOTSTAT_CONSEC_FAIL, s.failCount)]

/-- What a failed start leaves in the registers and the Ledger, before the Ledger is written and the module goes off. -/
def State.failNoted (s : State) (step reason : Nat) : State :=
  let s1 := s.setAll (s.failFields step reason)
  { s1 with
    start := { s1.start with consec := s.failCount }
    ledger := { s1.ledger with failedStarts := s1.ledger.failedStarts + 1, failReason := reason, failStep := step, consecFail := s.failCount } }

theorem State.failNoted_regs (s : State) (step reason : Nat) :
    (s.failNoted step reason).regs = (s.setAll (s.failFields step reason)).regs := by
  unfold State.failNoted
  rfl

/-- A failed trial is over, and the next retry takes the active slot (R338). -/
def State.trialOver (s : State) : State :=
  if s.bootDir.trial then
    let t := (s.flag F.MGT_BOOTSTAT_STAGED_ABANDONED).putBoot { s.bootDir with trial := false, stagedPending := false }
    { t with start := { t.start with skipStaged := true } }
  else s

/-- A start that has failed goes on in minimal mode or waits for its retry. -/
def State.failOutcome (s : State) (n reason : Nat) : State :=
  if 3 ≤ n then s.enterMinimal 0x90
  else if s.start.noRetry then s.enterMinimal reason
  else { s.allOff [] with start := { (s.allOff []).start with retryArmed := true } }

theorem State.failStart_eq (s : State) (step reason : Nat) :
    s.failStart step reason =
      (s.readLedger.failNoted step reason).trialOver.writeLedger.failOutcome s.readLedger.failCount reason := rfl

theorem State.failNoted_memWf {s : State} (h : s.memWf = true) (step reason : Nat) : (s.failNoted step reason).memWf = true := by
  unfold State.failNoted
  extract_lets s1 st l
  have h1 : Keeps Piece.all s s1 := State.setAll_keeps Piece.sub_all _ (Keeps.refl s)
  clear_value s1
  exact (h1.upd (M := [.start, .ledger]) Piece.sub_all).memWf h

theorem State.trialOver_memWf {s : State} (h : s.memWf = true) : s.trialOver.memWf = true := by
  unfold State.trialOver
  split
  · exact ((State.putBoot_keeps Piece.sub_all (State.flag_keeps Piece.sub_all (Keeps.refl s) _) _).upd (M := [.start]) Piece.sub_all).memWf h
  · exact h

theorem State.writeLedger_memWf {s : State} (h : s.memWf = true) : s.writeLedger.memWf = true :=
  (State.writeLedger_keeps Piece.sub_all (Keeps.refl s)).memWf h

theorem State.failOutcome_settled {s : State} (h : s.memWf = true) (n reason : Nat) : (s.failOutcome n reason).startSettled := by
  unfold State.failOutcome
  split
  · exact State.enterMinimal_settled h _
  · split
    · exact State.enterMinimal_settled h _
    · exact .inr (.inl rfl)

theorem State.failStart_settled {s : State} (h : s.memWf = true) (step reason : Nat) : (s.failStart step reason).startSettled := by
  rw [State.failStart_eq]
  exact State.failOutcome_settled (State.writeLedger_memWf (State.trialOver_memWf (State.failNoted_memWf (State.readLedger_memWf h) _ _))) _ _

/-! The first two failed starts in a row. -/

theorem State.readLedger_of_read {s : State} (h : s.start.ledgerRead = true) : s.readLedger = s := if_pos h

theorem State.trialOver_of_no_trial {s : State} (h : s.bootDir.trial = false) : s.trialOver = s := by
  simp only [State.trialOver, h, Bool.false_eq_true, if_false]

/-- An access to flash may wake its domain, and writes no register outside the window of the domains and the clocks. -/
theorem State.flashAccess_regsBut {s : State} (h : s.regsOk) : regsBut offWin s s.flashAccess := by
  have hdom : offWin (0x10100 + domFlash * 0x8) := offWin_domStat (by decide)
  have hwake : ∀ x y, regsIn offWin s ((s.set (F.PWR_DOM_STAT_LAST_WAKE domFlash) x).set (F.PWR_DOM_STAT_WAKES domFlash) y) := fun x y =>
    ((regsIn.refl h).set _ x hdom).set _ y hdom
  unfold State.flashAccess
  split
  · unfold State.wakeEvent State.bump State.coreRestart State.flag
    split
    · exact (((hwake _ _).set _ _ (.inr rfl)).set _ _ (.inr rfl)).2
    · exact (hwake _ _).2
  · exact regsBut.refl _ _

end Sys2Proof.Machine
end

section
/-! SUPPORT. What a failed start shows (R328), and the steps that a start passes (R324 to R326). -/

namespace Sys2Proof.Machine

/-! The first two failed starts in a row. -/

theorem State.failCount_eq_min (s : State) : s.failCount = min 255 (s.start.consec + 1) := rfl

theorem State.failCount_eq {s : State} (hc : s.start.consec < 2) : s.failCount = s.start.consec + 1 := by
  rw [State.failCount_eq_min]
  omega

theorem State.failFields_apart (s : State) (step reason : Nat) : ((s.failFields step reason).map Prod.fst).Pairwise Field.apart := by
  simp only [State.failFields, List.map_cons, List.map_nil]
  unfold Field.apart
  decide

theorem State.failNoted_get {s : State} (h : s.regsOk) (step reason : Nat) {f : Field} {x : Nat} (hm : (f, x) ∈ s.failFields step reason)
    (hf : f.lo + f.w ≤ 64) (hx : x < 2 ^ f.w) : (s.failNoted step reason).get f = x :=
  (State.get_congr (s.failNoted_regs step reason) f).trans (State.get_setAll_of_lt h (s.failFields_apart step reason) hm hf hx)

theorem State.failCount_lt (s : State) : s.failCount < 2 ^ F.MGT_BOOTSTAT_CONSEC_FAIL.w := by
  rw [State.failCount_eq_min, show F.MGT_BOOTSTAT_CONSEC_FAIL.w = 8 from rfl]
  omega

/-- The Ledger's write reaches flash, and no register but those of the domains and the clocks. -/
theorem State.writeLedger_flash (s : State) :
    s.writeLedger.flash = { s.flash with ledgerNand := some s.ledger, ledgerNandIx := (s.flash.ledgerNandIx + 1) % 262144 } := by
  have hs := (State.flashAccess_keeps (L := [.regs]) (by simp) (Keeps.refl s)).same
  rw [State.writeLedger, hs.flash (by decide), hs.ledger (by decide)]

theorem State.writeLedger_same (s : State) : Same [.regs, .flash] s s.writeLedger :=
  (State.writeLedger_keeps (by simp) (Keeps.refl s)).same

theorem State.writeLedger_regsBut {s : State} (h : s.regsOk) : regsBut offWin s s.writeLedger := fun o ho => State.flashAccess_regsBut h o ho

/-- The module as a failed start leaves it: every domain OFF, a retry due. -/
def State.retryDue (s : State) : State := { s.allOff [] with start := { (s.allOff []).start with retryArmed := true } }

theorem State.retryDue_get {s : State} (h : s.memWf = true) {f : Field} (hf : ¬ offWin f.off) : s.retryDue.get f = s.get f := by
  have hregs : s.retryDue.regs = (s.allOff []).regs := rfl
  rw [State.get_congr hregs, (State.allOff_regsBut h []).get f hf]

theorem State.retryDue_dom {s : State} (h : s.memWf = true) {d : Nat} (hd : d < 155) : s.retryDue.dom d = 0 := by
  have hregs : s.retryDue.regs = (s.allOff []).regs := rfl
  rw [State.dom, State.get_congr hregs]
  exact State.dom_allOff h hd

theorem State.retryDue_memory (s : State) : s.retryDue.mem = MemSt.init ∧ s.retryDue.tiles = Vector.replicate 64 TileSt.init := ⟨rfl, rfl⟩

theorem State.retryDue_flash (s : State) : ∃ nand, s.retryDue.flash = { s.flash with nand := nand } := s.allOff_flash []

theorem State.retryDue_consec (s : State) : s.retryDue.start.consec = s.start.consec := by
  simp only [State.retryDue, State.allOff_start]

theorem State.allOff_ledger (s : State) (keep : List Nat) : (s.allOff keep).ledger = s.ledger := by
  rw [← (s.domsOff_keeps keep).same.ledger (by decide)]
  rfl

theorem State.retryDue_ledger (s : State) : s.retryDue.ledger = s.ledger := by
  simp only [State.retryDue, State.allOff_ledger]

/-- A failed start without a trial, before the third in a row, waits for its retry. -/
theorem State.failStart_retryDue {s : State} (hl : s.start.ledgerRead = true) (hc : s.start.consec < 2) (hn : s.start.noRetry = false)
    (ht : s.bootDir.trial = false) (step reason : Nat) :
    s.failStart step reason = (s.failNoted step reason).writeLedger.retryDue := by
  have htrial : (s.failNoted step reason).trialOver = s.failNoted step reason := State.trialOver_of_no_trial ht
  have hnot : (s.failNoted step reason).writeLedger.start.noRetry = false := by
    rw [(State.writeLedger_same _).start (by decide)]
    exact hn
  have hlt : ¬ 3 ≤ s.failCount := by
    rw [State.failCount_eq hc]
    omega
  rw [State.failStart_eq, State.readLedger_of_read hl, htrial, State.failOutcome, if_neg hlt, hnot]
  rfl

theorem State.failStart_failed {s : State} (h : s.memWf = true) (hl : s.start.ledgerRead = true) (hc : s.start.consec < 2)
    (hn : s.start.noRetry = false) (ht : s.bootDir.trial = false) {step reason : Nat} (hstep : step < 16) (hreason : reason < 256) :
    s.failedStart step reason (s.failStart step reason) := by
  rw [State.failStart_retryDue hl hc hn ht]
  have hok := State.regsOk_of_memWf h
  have hfail := State.failNoted_get hok step reason (f := F.MGT_BOOTSTAT_FAIL_STEP) (by simp [State.failFields]) (by decide) hstep
  have hwhy := State.failNoted_get hok step reason (f := F.MGT_BOOTSTAT_REASON) (by simp [State.failFields]) (by decide) hreason
  have hcount := State.failNoted_get hok step reason (by simp [State.failFields]) (by decide) s.failCount_lt
  have hconsec := State.failCount_eq hc
  have hu := State.failNoted_memWf h step reason
  have huflash : (s.failNoted step reason).flash = s.flash := rfl
  have hustart : (s.failNoted step reason).start.consec = s.start.consec + 1 := hconsec
  have huledger : (s.failNoted step reason).ledger.failedStarts = s.ledger.failedStarts + 1 := rfl
  generalize s.failNoted step reason = u at hfail hwhy hcount hu huflash hustart huledger ⊢
  have hw := State.writeLedger_memWf hu
  have hget : ∀ f : Field, f.off = 0x8 → u.writeLedger.retryDue.get f = u.get f := fun f hf => by
    have hout : ¬ offWin f.off := by unfold offWin; omega
    rw [State.retryDue_get hw hout, (State.writeLedger_regsBut (State.regsOk_of_memWf hu)).get f hout]
  have hstart : u.writeLedger.retryDue.start.consec = u.start.consec := by
    rw [State.retryDue_consec, (State.writeLedger_same u).start (by decide)]
  have hledger : u.writeLedger.retryDue.ledger = u.ledger := by
    rw [State.retryDue_ledger, (State.writeLedger_same u).ledger (by decide)]
  obtain ⟨nand, hflash⟩ := u.writeLedger.retryDue_flash
  obtain ⟨hmem, htiles⟩ := u.writeLedger.retryDue_memory
  refine ⟨(hget _ rfl).trans hfail, (hget _ rfl).trans hwhy, (hget _ rfl).trans (hcount.trans hconsec), hstart.trans hustart, rfl,
    (congrArg Ledger.failedStarts hledger).trans huledger, ?_, fun d hd => State.retryDue_dom hw hd, hmem, htiles, ?_, ?_⟩
  · rw [hflash, hledger, State.writeLedger_flash]
  · rw [hflash, State.writeLedger_flash, huflash]
  · rw [hflash, State.writeLedger_flash, huflash]

/-! The end of a step. -/

/-- A step ends its start, or goes on with a property. -/
def endsStep (p : State × Bool) (Q : State → Prop) : Prop := (p.2 = false → p.1.startSettled) ∧ (p.2 = true → Q p.1)

theorem endsStep.stop {t : State} {Q : State → Prop} (h : t.startSettled) : endsStep (t, false) Q := ⟨fun _ => h, fun h => Bool.noConfusion h⟩

theorem endsStep.go {t : State} {Q : State → Prop} (h : Q t) : endsStep (t, true) Q := ⟨fun h => Bool.noConfusion h, fun _ => h⟩

theorem endsStep.ite {c : Prop} [Decidable c] {p q : State × Bool} {Q : State → Prop} (hp : endsStep p Q) (hq : endsStep q Q) :
    endsStep (if c then p else q) Q := by
  split
  · exact hp
  · exact hq

/-- A step after a step that went on. -/
theorem endsStep.andThen {t : State} {ok : Bool} {p : State × Bool} {Q R : State → Prop} (h : endsStep (t, ok) Q)
    (k : Q t → endsStep p R) : endsStep (if !ok then (t, false) else p) R := by
  cases ok with
  | false => exact .stop (h.1 rfl)
  | true => exact k (h.2 rfl)

/-- The last steps of a start, after a step that went on. -/
theorem endsStep.andSettles {t u : State} {ok : Bool} {Q : State → Prop} (h : endsStep (t, ok) Q) (k : Q t → u.startSettled) :
    (if !ok then t else u).startSettled := by
  cases ok with
  | false => exact h.1 rfl
  | true => exact k (h.2 rfl)

/-- A step that begins waits for its limit, or shows in STEP and goes on. -/
theorem State.beginStep_ends {s : State} (h : s.regsOk) {k : Nat} (h4 : 4 ≤ k) (h10 : k ≤ 10) :
    endsStep (s.beginStep k) (fun t => t = s.set F.MGT_BOOTSTAT_STEP k) := by
  unfold State.beginStep
  extract_lets s1 st
  split
  · refine .stop (.inl ⟨h4, h10, ?_⟩)
    exact State.get_set _ _ h (by decide) (by have : F.MGT_BOOTSTAT_STEP.w = 4 := rfl; rw [this]; omega)
  · exact .go rfl

/-! Steps 7 to 10. -/

theorem State.step7_ends {s : State} (h : s.memWf = true) : endsStep s.step7 (fun t => t.memWf = true) := by
  have hend : s.step7.1.memWf = true := (State.step7_keeps Piece.sub_all (Keeps.refl s)).memWf h
  refine ⟨?_, fun _ => hend⟩
  suffices hs : endsStep s.step7 (fun _ => True) from hs.1
  unfold State.step7
  extract_lets s1 t s2
  have h1 : Keeps Piece.all s s1 :=
    State.startFences_keeps Piece.sub_all (State.set_keeps Piece.sub_all (State.set_keeps Piece.sub_all (Keeps.refl s) _ _) _ _)
  have h2 : Keeps Piece.all s s2 := State.forEach_keeps _ (fun _ _ hs => State.startDom_keeps Piece.sub_all hs _ _) _ h1
  exact .ite (.stop (State.failStart_settled h _ _)) (.ite (.stop (State.failStart_settled (h2.memWf h) _ _)) (.go trivial))

theorem State.step8_ends {s : State} (h : s.memWf = true) : endsStep s.step8 (fun t => t.memWf = true) := by
  have hend : s.step8.1.memWf = true := (State.step8_keeps Piece.sub_all (Keeps.refl s)).memWf h
  refine ⟨?_, fun _ => hend⟩
  suffices hs : endsStep s.step8 (fun _ => True) from hs.1
  unfold State.step8
  extract_lets e src s1 l chan st slots mem s2 s3 s4 s5 lay need want size small
  have h1 : Keeps Piece.all s s1 := (State.set_keeps Piece.sub_all (Keeps.refl s) _ _).upd (M := [.ledger]) Piece.sub_all
  clear_value s1
  have h2 : Keeps Piece.all s s2 := h1.clearMem (M := [.mem]) Piece.sub_all
  clear_value s2
  have h3 : Keeps Piece.all s s3 :=
    State.forEach_keeps _ (fun _ _ hs => State.set_keeps Piece.sub_all (State.setChState_keeps Piece.sub_all hs _ _) _ _) _ h2
  have h4 : Keeps Piece.all s s4 := State.forEach_keeps _ (fun _ _ hs => State.set_keeps Piece.sub_all hs _ _) _ h3
  have h5 : Keeps Piece.all s s5 := State.forEach_keeps _ (fun _ _ hs => State.startDom_keeps Piece.sub_all hs _ _) _ h4
  have hm : s5.memWf = true := h5.memWf h
  exact .ite (.stop (State.failStart_settled h _ _))
    (.ite (.stop (State.failStart_settled hm _ _)) (.ite (.stop (State.failStart_settled hm _ _)) (.go trivial)))

/-- A domain's state at the start of a step is its own register's. -/
theorem State.startDom_get_ne {s : State} (h : s.regsOk) {d : Nat} (b : Bool) {f : Field} (hf : f.off ≠ 0x10100 + d * 0x8) :
    (s.startDom d b).get f = s.get f :=
  (State.get_set_other _ _ _ _ (State.set_regsOk _ _ _ h) (.inl hf.symm)).trans (State.get_set_other _ _ _ _ h (.inl hf.symm))

theorem State.startDom_memWf {s : State} (h : s.memWf = true) (d : Nat) (b : Bool) : (s.startDom d b).memWf = true :=
  (State.startDom_keeps Piece.sub_all (Keeps.refl s) d b).memWf h

theorem State.set_memWf {s : State} (h : s.memWf = true) (f : Field) (x : Nat) : (s.set f x).memWf = true :=
  (State.set_keeps Piece.sub_all (Keeps.refl s) f x).memWf h

theorem State.step10_settled {s : State} (h : s.memWf = true) : s.step10.startSettled := by
  refine .inl ⟨by simp [State.step10], by simp [State.step10], ?_⟩
  have h1 := State.regsOk_of_memWf h
  exact (State.startDom_get_ne (State.set_regsOk _ _ _ h1) true (f := F.MGT_BOOTSTAT_STEP) (by decide)).trans
    (State.get_set F.MGT_BOOTSTAT_STEP 10 h1)

/-- The ports in use train (R267). -/
def State.portsTrain (s : State) : State :=
  s.forEach (List.range 18) (fun s p => (s.startDom (domPort p) (s.portUsed p)).set (F.LINK_PORT_STAT_STATE p) (b2n (s.portUsed p)))

theorem State.portsTrain_step {s : State} (h : s.memWf = true) :
    s.portsTrain.memWf = true ∧ s.portsTrain.get F.MGT_BOOTSTAT_STEP = s.get F.MGT_BOOTSTAT_STEP := by
  refine State.forEach_induction (P := fun t => t.memWf = true ∧ t.get F.MGT_BOOTSTAT_STEP = s.get F.MGT_BOOTSTAT_STEP) ⟨h, rfl⟩
    fun t p _ ⟨hm, hg⟩ => ?_
  have hd := State.startDom_memWf hm (domPort p) (t.portUsed p)
  refine ⟨State.set_memWf hd _ _, ?_⟩
  rw [State.get_set_other _ _ _ _ (State.regsOk_of_memWf hd) (.inl (by simp only [F.LINK_PORT_STAT_STATE, F.MGT_BOOTSTAT_STEP]; omega)),
    State.startDom_get_ne (State.regsOk_of_memWf hm) _ (by simp only [F.MGT_BOOTSTAT_STEP]; omega), hg]

/-- Step 9 waits for the ports. -/
theorem State.step9_eq (s : State) :
    s.step9 = { (s.set F.MGT_BOOTSTAT_STEP 9).portsTrain with start := { (s.set F.MGT_BOOTSTAT_STEP 9).portsTrain.start with hung := 9 } } := by
  unfold State.step9 State.portsTrain
  rfl

theorem State.portsSettled_settled {s : State} (h : s.memWf = true) (hstep : s.get F.MGT_BOOTSTAT_STEP = 9) (hhung : s.start.hung = 9) :
    s.portsSettled.startSettled := by
  unfold State.portsSettled
  split
  · exact State.step10_settled h
  · exact .inl ⟨by omega, by omega, hstep.trans hhung.symm⟩

theorem State.step9_portsSettled_settled {s : State} (h : s.memWf = true) : s.step9.portsSettled.startSettled := by
  obtain ⟨hm, hg⟩ := State.portsTrain_step (State.set_memWf h F.MGT_BOOTSTAT_STEP 9)
  have h9 : (s.set F.MGT_BOOTSTAT_STEP 9).get F.MGT_BOOTSTAT_STEP = 9 := State.get_set _ _ (State.regsOk_of_memWf h)
  rw [State.step9_eq]
  generalize (s.set F.MGT_BOOTSTAT_STEP 9).portsTrain = t at hm hg
  exact State.portsSettled_settled (((Keeps.refl t).upd (M := [.start]) Piece.sub_all).memWf hm) ((State.get_congr rfl _).trans (hg.trans h9)) rfl

theorem State.startFrom7_settled {s : State} (h : s.memWf = true) : s.startFrom7.startSettled := by
  unfold State.startFrom7
  have h7 := State.beginStep_ends (State.regsOk_of_memWf h) (k := 7) (by omega) (by omega)
  generalize s.beginStep 7 = p at h7 ⊢
  refine h7.andSettles fun e => ?_
  have hm1 : p.1.memWf = true := e ▸ State.set_memWf h _ _
  have hs7 := State.step7_ends hm1
  generalize p.1.step7 = p at hs7 ⊢
  refine hs7.andSettles fun hm2 => ?_
  have h8 := State.beginStep_ends (State.regsOk_of_memWf hm2) (k := 8) (by omega) (by omega)
  generalize p.1.beginStep 8 = q at h8 ⊢
  refine h8.andSettles fun e => ?_
  have hm3 : q.1.memWf = true := e ▸ State.set_memWf hm2 _ _
  have hs8 := State.step8_ends hm3
  generalize q.1.step8 = q at hs8 ⊢
  exact hs8.andSettles State.step9_portsSettled_settled

end Sys2Proof.Machine
end

section
/-! SUPPORT. Steps 4 to 6 of a start, and the clocks that the Waybill sets (R12, R305, R333). -/

namespace Sys2Proof.Machine

/-! The registers of the clocks. -/

/-- Memories are canonical in `t`, and the clocks' registers, the Waybills in the slots and the owner record are those of `s`. -/
structure ClocksKept (s t : State) : Prop where
  memWf : t.memWf = true
  cfg : t.rd 0x20000 = s.rd 0x20000
  ssc : t.rd 0x20008 = s.rd 0x20008
  slots : t.flash.slots = s.flash.slots
  owner : t.flash.owner = s.flash.owner

theorem ClocksKept.refl {s : State} (h : s.memWf = true) : ClocksKept s s := ⟨h, rfl, rfl, rfl, rfl⟩

theorem ClocksKept.set {s t : State} (h : ClocksKept s t) (f : Field) (x : Nat) (hf : f.off ≠ 0x20000 ∧ f.off ≠ 0x20008 := by decide) :
    ClocksKept s (t.set f x) where
  memWf := State.set_memWf h.memWf f x
  cfg := (State.rd_set_ne f x (State.regsOk_of_memWf h.memWf) hf.1).trans h.cfg
  ssc := (State.rd_set_ne f x (State.regsOk_of_memWf h.memWf) hf.2).trans h.ssc
  slots := h.slots
  owner := h.owner

/-- An update of other parts than registers, memories, slots and the owner record. -/
theorem ClocksKept.upd {s t u : State} (h : ClocksKept s t) (hm : Keeps Piece.all t u) (hr : u.regs = t.regs)
    (hs : u.flash.slots = t.flash.slots) (ho : u.flash.owner = t.flash.owner) : ClocksKept s u where
  memWf := hm.memWf h.memWf
  cfg := (show u.rd 0x20000 = t.rd 0x20000 by simp only [State.rd, hr]).trans h.cfg
  ssc := (show u.rd 0x20008 = t.rd 0x20008 by simp only [State.rd, hr]).trans h.ssc
  slots := hs.trans h.slots
  owner := ho.trans h.owner

theorem ClocksKept.ite {s t u : State} {c : Prop} [Decidable c] (ht : ClocksKept s t) (hu : ClocksKept s u) :
    ClocksKept s (if c then t else u) := by
  split
  · exact ht
  · exact hu

theorem ClocksKept.flagIf {s t : State} (h : ClocksKept s t) (b : Bool) (f : Field) (hf : f.off ≠ 0x20000 ∧ f.off ≠ 0x20008 := by decide) :
    ClocksKept s (t.flagIf b f) := ClocksKept.ite (h.set f 1 hf) h

theorem ClocksKept.putBoot {s t : State} (h : ClocksKept s t) (d : BootDir) : ClocksKept s (t.putBoot d) := by
  have hk : Keeps [.flash] t (t.putBoot d) := State.putBoot_keeps (by simp) (Keeps.refl t) d
  have hflash : (t.putBoot d).flash.slots = t.flash.slots ∧ (t.putBoot d).flash.owner = t.flash.owner := by
    unfold State.putBoot
    split <;> exact ⟨rfl, rfl⟩
  exact h.upd (State.putBoot_keeps Piece.sub_all (Keeps.refl t) d) (hk.same.regs (by decide)) hflash.1 hflash.2

/-- The ratios of the clocks are a matter of their registers. -/
theorem State.clocksOk_congr {s t : State} (h0 : t.rd 0x20000 = s.rd 0x20000) (h8 : t.rd 0x20008 = s.rd 0x20008) :
    t.clocksOk = s.clocksOk := by
  simp only [State.clocksOk, State.on, State.get, F.CLK_CFG_CORE_MHZ, F.CLK_CFG_FAB_MHZ, F.CLK_CFG_MEM_MHZ, F.CLK_CFG_MGMT_DIV,
    F.CLK_SSC_FAB_SSC, F.CLK_SSC_CORE_SSC, F.CLK_SSC_SSC_DEPTH, h0, h8]
  exact decide_eq_decide.2 Iff.rfl

/-! The Waybill's registers. -/

/-- A register as one entry of a Waybill leaves it. -/
def State.loadReg (s : State) (r : Nat × U64) : State :=
  match cardAt r.1 with
  | some c => s.wr r.1 ((s.rd r.1 &&& ~~~(BitVec.ofNat 64 c.waybill)) ||| (r.2 &&& BitVec.ofNat 64 c.waybill))
  | none => s

theorem State.loadRegs_eq (s : State) (g : WaybillImage) : s.loadRegs g = (wbRegs g).foldl State.loadReg s := rfl

theorem State.loadReg_regsOk {s : State} (h : s.regsOk) (r : Nat × U64) : (s.loadReg r).regsOk := by
  unfold State.loadReg
  split
  · exact State.wr_regsOk _ _ _ h
  · exact h

/-- What an entry leaves in a register is a matter of what the register held. -/
theorem State.loadReg_rd_congr {s t : State} (hs : s.regsOk) (ht : t.regsOk) {o : Nat} (h : s.rd o = t.rd o) (r : Nat × U64) :
    (s.loadReg r).rd o = (t.loadReg r).rd o := by
  unfold State.loadReg
  split
  · rw [State.rd_wr _ _ _ _ hs, State.rd_wr _ _ _ _ ht]
    split
    · next he => rw [he, h]
    · exact h
  · exact h

theorem State.loadRegs_rd_congr {s t : State} (hs : s.regsOk) (ht : t.regsOk) {o : Nat} (h : s.rd o = t.rd o) (g : WaybillImage) :
    (s.loadRegs g).rd o = (t.loadRegs g).rd o := by
  rw [State.loadRegs_eq, State.loadRegs_eq]
  generalize wbRegs g = l
  induction l generalizing s t with
  | nil => exact h
  | cons r l ih => exact ih (State.loadReg_regsOk hs r) (State.loadReg_regsOk ht r) (State.loadReg_rd_congr hs ht h r)

/-- The registers of the clocks hold their reset values. -/
def State.clocksReset (s : State) : Prop := s.rd 0x20000 = regReset 0x20000 ∧ s.rd 0x20008 = regReset 0x20008

theorem ClocksKept.clocksReset {s t : State} (h : ClocksKept s t) (hs : s.clocksReset) : t.clocksReset :=
  ⟨h.cfg.trans hs.1, h.ssc.trans hs.2⟩

theorem ClocksKept.ratiosHold {s t : State} (h : ClocksKept s t) (hs : s.ratiosHold) : t.ratiosHold := by
  intro i g hg
  rw [h.slots] at hg
  exact hs i g hg

/-- A Waybill in force has set the clocks that it sets after reset. -/
theorem State.useWaybill_clocksOk {s : State} (h : s.memWf = true) (hr : s.clocksReset) {g : WaybillImage}
    (hg : (State.reset.loadRegs (wbTrim g)).clocksOk = true) (slot : Fin 2) (trial : Bool) : (s.useWaybill g slot trial).clocksOk = true := by
  unfold State.useWaybill
  extract_lets g' s0 s1 s2 s3 s4 p s5
  have h0 : Keeps Piece.all s { s with wb := some g' } := (Keeps.refl s).upd (M := [.wb]) Piece.sub_all
  have hput : ClocksKept s ({ s with wb := some g' }.putBoot { s.bootDir with trial := trial }) :=
    ((ClocksKept.refl h).upd h0 rfl rfl rfl).putBoot _
  have hok := State.regsOk_of_memWf hput.memWf
  have hload : ∀ o, o = 0x20000 ∨ o = 0x20008 → s1.rd o = (State.reset.loadRegs g').rd o := fun o ho => by
    refine State.loadRegs_rd_congr hok rfl ?_ g'
    rw [State.rd_of_regs_nil (s := State.reset) rfl]
    rcases ho with rfl | rfl
    · exact (hput.clocksReset hr).1
    · exact (hput.clocksReset hr).2
  have h1 : s1.memWf = true := (State.loadRegs_keeps Piece.sub_all (Keeps.refl _) g').memWf hput.memWf
  have h3 : ClocksKept s1 s3 := ClocksKept.ite ((((ClocksKept.refl h1).set _ _).set _ _).set _ _) (((ClocksKept.refl h1).set _ _).set _ _)
  have h4 : ClocksKept s1 s4 := ((h3.set _ _).set _ _).set _ _
  have h5 : ClocksKept s1 s5 := h4.upd ((Keeps.refl s4).upd (M := [.power]) Piece.sub_all) rfl rfl rfl
  have hend : ClocksKept s1 (s5.setCredit (s5.creditMax s5.power.limit)) := h5.set _ _
  rw [State.clocksOk_congr (s := State.reset.loadRegs g') (hend.cfg.trans (hload _ (.inl rfl))) (hend.ssc.trans (hload _ (.inr rfl)))]
  exact hg

/-! Steps 4 to 6. -/

theorem ClocksKept.beginStep {s : State} (h : s.memWf = true) {k : Nat} (h4 : 4 ≤ k) (h10 : k ≤ 10) :
    endsStep (s.beginStep k) (ClocksKept s) := by
  obtain ⟨hstop, hgo⟩ := State.beginStep_ends (State.regsOk_of_memWf h) h4 h10
  exact ⟨hstop, fun hb => hgo hb ▸ (ClocksKept.refl h).set F.MGT_BOOTSTAT_STEP k⟩

theorem ClocksKept.readLedger {s : State} (h : s.memWf = true) : ClocksKept s s.readLedger := by
  unfold State.readLedger
  split
  · exact ClocksKept.refl h
  · extract_lets nand l fromXspi n st s1
    have h1 : ClocksKept s s1 := (ClocksKept.refl h).upd ((Keeps.refl s).upd (M := [.start, .ledger]) Piece.sub_all) rfl rfl rfl
    exact (h1.set _ _).flagIf _ _

/-- Without an owner a start ends in minimal mode. -/
theorem State.noOwner_settled {s : State} (h : s.memWf = true) : ((s.enterMinimal 0x40).flag F.MGT_BOOTSTAT_NO_OWNER).startSettled := by
  have hmin : (s.enterMinimal 0x40).memWf = true := (State.enterMinimal_keeps Piece.sub_all (Keeps.refl s) _).memWf h
  have hmode := State.enterMinimal_mode h 0x40
  generalize s.enterMinimal 0x40 = t at hmin hmode ⊢
  refine .inr (.inr (Eq.trans ?_ hmode))
  exact State.get_set_ne F.MGT_BOOTSTAT_NO_OWNER F.MGT_BOOTSTAT_MODE 1 (State.regsOk_of_memWf hmin) (.inr (.inr (by decide)))

/-- Step 5 goes on with an enrolled owner. -/
theorem State.step5_ends {s : State} (h : s.memWf = true) : endsStep s.step5 (fun t => ClocksKept s t ∧ t.flash.owner ≠ none) := by
  unfold State.step5
  extract_lets e s1 st s2
  have h1 : ClocksKept s s1 := ClocksKept.readLedger h
  have h2 : ClocksKept s s2 := (h1.upd (u := { s1 with start := { s1.start with deviceId := keyDigest deviceKey, keysOk := true } })
    ((Keeps.refl s1).upd (M := [.start]) Piece.sub_all) rfl rfl rfl).set _ _
  refine .ite (.stop (State.failStart_settled h1.memWf _ _)) (.ite (.stop (State.failStart_settled h1.memWf _ _)) ?_)
  split
  · exact .stop (State.noOwner_settled h2.memWf)
  · next o ho =>
    have h3 : ClocksKept s { s2 with start := { s2.start with ownerNow := some o } } :=
      h2.upd ((Keeps.refl s2).upd (M := [.start]) Piece.sub_all) rfl rfl rfl
    exact .ite (.stop (State.failStart_settled h2.memWf _ _))
      (.go ⟨h3.set F.MGT_WAYBILL_MIN_SEQ o.minSeq, fun hnone => nomatch ho.symm.trans hnone⟩)

/-- Step 6 goes on with a Waybill of a slot in force. -/
theorem State.step6_ends {s : State} (h : s.memWf = true) (hr : s.clocksReset) (hw : s.ratiosHold) (ho : s.flash.owner ≠ none) :
    endsStep s.step6 (fun t => t.memWf = true ∧ t.clocksOk = true) := by
  have huse : ∀ {u : State} {g : WaybillImage} {slot : Fin 2} (x : Fin 2) (trial : Bool), ClocksKept s u → u.flash.slots[x] = some g →
      (u.useWaybill g slot trial).memWf = true ∧ (u.useWaybill g slot trial).clocksOk = true := fun x trial hu hg =>
    ⟨(State.useWaybill_keeps Piece.sub_all (Keeps.refl _) _ _ _).memWf hu.memWf,
      State.useWaybill_clocksOk hu.memWf (hu.clocksReset hr) (hu.ratiosHold hw x _ hg) _ _⟩
  unfold State.step6
  refine .ite (.stop (State.failStart_settled h _ _)) ?_
  split
  · next hnone => exact absurd hnone ho
  · extract_lets self act stg s1 st s2 staged dir s3 img
    have h1 : ClocksKept s s1 := (ClocksKept.refl h).flagIf _ _
    have h2 : ClocksKept s s2 := (h1.upd (u := { s1 with start := { s1.start with skipStaged := false } })
      ((Keeps.refl s1).upd (M := [.start]) Piece.sub_all) rfl rfl rfl).set _ _
    split
    · next g hg _ =>
      refine .go (huse stg true h2 ?_)
      have hstaged : (if s2.bootDir.stagedPending then s2.flash.slots[stg] else none) = some g := hg
      split at hstaged
      · exact hstaged
      · exact nomatch hstaged
    · have h3 : ClocksKept s s3 := ClocksKept.ite (((h2.putBoot _).set _ _).set _ _) h2
      split
      · next g hg _ => exact .go (huse act false h3 hg)
      · exact .stop (State.failStart_settled h3.memWf _ _)

theorem State.startTo7_ends {s : State} (h : s.memWf = true) (hr : s.clocksReset) (hw : s.ratiosHold) :
    endsStep s.startTo7 (fun t => t.memWf = true ∧ t.clocksOk = true) := by
  unfold State.startTo7
  have hlock : ClocksKept s (s.set F.CLK_STAT_BOOT_LOCK 1) := (ClocksKept.refl h).set _ _
  have h4 := ClocksKept.beginStep hlock.memWf (k := 4) (by omega) (by omega)
  generalize (s.set F.CLK_STAT_BOOT_LOCK 1).beginStep 4 = p4 at h4 ⊢
  refine h4.andThen fun k4 => .ite (.stop (State.failStart_settled k4.memWf _ _)) ?_
  have h5 := ClocksKept.beginStep k4.memWf (k := 5) (by omega) (by omega)
  generalize p4.1.beginStep 5 = p5 at h5 ⊢
  refine h5.andThen fun k5 => ?_
  have h6 := State.step5_ends k5.memWf
  generalize p5.1.step5 = p6 at h6 ⊢
  refine h6.andThen fun ⟨k6, howner⟩ => ?_
  have h7 := ClocksKept.beginStep k6.memWf (k := 6) (by omega) (by omega)
  generalize p6.1.beginStep 6 = p7 at h7 ⊢
  refine h7.andThen fun k7 => State.step6_ends k7.memWf ?_ ?_ (k7.owner ▸ howner)
  · exact k7.clocksReset (k6.clocksReset (k5.clocksReset (k4.clocksReset (hlock.clocksReset hr))))
  · exact k7.ratiosHold (k6.ratiosHold (k5.ratiosHold (k4.ratiosHold (hlock.ratiosHold hw))))

/-- The parts that a start may write: always-on time is not among them. -/
def notTime : List Piece :=
  [.regs, .start, .flash, .wb, .ledger, .power, .period, .seals, .mem, .tiles, .coll, .mbx, .flt, .cast, .sent, .stalled]

/-- A start from step 4 comes to an answer, and always-on time stands still meanwhile. -/
theorem State.startFrom4_ends {s : State} (h : s.memWf = true) (hr : s.clocksReset) (hw : s.ratiosHold) :
    endsIn s.startFrom4 (fun t => t.startSettled ∧ t.time = s.time) := by
  have h7 := State.startTo7_ends h hr hw
  have htime : s.startTo7.1.time = s.time :=
    (State.startTo7_keeps (L := notTime) (by decide) (Keeps.refl s)).same.time (by decide)
  unfold State.startFrom4
  generalize s.startTo7 = p at h7 htime ⊢
  obtain ⟨t, ok⟩ := p
  cases ok with
  | false => exact ⟨t, rfl, h7.1 rfl, htime⟩
  | true =>
    obtain ⟨hm, hclk⟩ := h7.2 rfl
    have hrest : t.startFrom7.time = t.time :=
      (State.startFrom7_keeps (L := notTime) (by decide) (Keeps.refl t)).same.time (by decide)
    exact ⟨t.startFrom7, by simp [hclk], State.startFrom7_settled hm, hrest.trans htime⟩

end Sys2Proof.Machine
end

section
/-! SUPPORT. A start from step 4 on (R12, R324, R328, R339), and the passing of time as the registers see it (R414). -/

namespace Sys2Proof.Machine

/-! What step 4 can meet at once. -/

/-- The start has set out for step 4. -/
def State.atStep4 (s : State) : State := (s.set F.CLK_STAT_BOOT_LOCK 1).set F.MGT_BOOTSTAT_STEP 4

/-- The start waits at step 4. -/
def State.waitsAt4 (s : State) : State := { s.atStep4 with start := { s.start with hung := 4 } }

theorem State.startFrom4_hangs {s : State} (h : s.start.env.hangStep = 4) : s.startFrom4 = .next s.waitsAt4 := by
  have hb : (s.set F.CLK_STAT_BOOT_LOCK 1).beginStep 4 = (s.waitsAt4, false) := by
    unfold State.beginStep
    exact if_pos (by simpa using h)
  have h7 : s.startTo7 = (s.waitsAt4, false) := by simp [State.startTo7, hb]
  simp [State.startFrom4, h7]

theorem State.startFrom4_romFails {s : State} (h : s.start.env.hangStep ≠ 4) (hrom : s.start.env.romKatOk = false) :
    s.startFrom4 = .next (s.atStep4.failStart 4 0x20) := by
  have hb : (s.set F.CLK_STAT_BOOT_LOCK 1).beginStep 4 = (s.atStep4, true) := by
    unfold State.beginStep
    exact if_neg (by simpa using h)
  have hr : s.atStep4.start.env.romKatOk = false := hrom
  have h7 : s.startTo7 = (s.atStep4.failStart 4 0x20, false) := by simp [State.startTo7, hb, hr]
  simp [State.startFrom4, h7]

theorem State.atStep4_same (s : State) : Same [.regs] s s.atStep4 :=
  (State.set_keeps (by simp) (State.set_keeps (by simp) (Keeps.refl s) _ _) _ _).same

theorem State.waitsAt4_start (s : State) : s.waitsAt4.start = { s.start with hung := 4 } := by
  unfold State.waitsAt4
  rfl

theorem State.waitsAt4_same (s : State) : Same [.regs, .start] s s.waitsAt4 := by
  unfold State.waitsAt4
  exact Same.upd (M := [.start]) (by simp) (s.atStep4_same.mono (by simp))

theorem State.bootDir_congr {s t : State} (h : t.flash.boot = s.flash.boot) : t.bootDir = s.bootDir := by
  simp only [State.bootDir, bootIx, h]

theorem State.waitsAt4_get (s : State) (f : Field) : s.waitsAt4.get f = s.atStep4.get f := by
  unfold State.waitsAt4
  exact State.get_congr rfl f

/-- Setting out for step 4 shows in two fields. -/
theorem State.waitsAt4_get_ne {s : State} (h : s.regsOk) {f : Field} (hlock : f.apart F.CLK_STAT_BOOT_LOCK) (hstep : f.apart F.MGT_BOOTSTAT_STEP)
    (hf : f.lo + f.w ≤ 64) : s.waitsAt4.get f = s.get f := by
  rw [State.waitsAt4_get, State.atStep4, State.get_set_ne _ _ _ (State.set_regsOk _ _ _ h) hstep hf, State.get_set_ne _ _ _ h hlock hf]

theorem State.waitsAt4_step {s : State} (h : s.regsOk) : s.waitsAt4.get F.MGT_BOOTSTAT_STEP = 4 := by
  rw [State.waitsAt4_get, State.atStep4, State.get_set _ _ (State.set_regsOk _ _ _ h)]

theorem State.waitsAt4_bootLock {s : State} (h : s.regsOk) : s.waitsAt4.get F.CLK_STAT_BOOT_LOCK = 1 := by
  rw [State.waitsAt4_get, State.atStep4, State.get_set_ne _ _ _ (State.set_regsOk _ _ _ h) (.inl (by decide)), State.get_set _ _ h]

theorem State.waitsAt4_dom {s : State} (h : s.regsOk) (d : Nat) : s.waitsAt4.dom d = s.dom d :=
  State.waitsAt4_get_ne h (.inr (.inl (by simp [F.PWR_DOM_STAT_STATE, F.CLK_STAT_BOOT_LOCK])))
    (.inr (.inl (by simp [F.PWR_DOM_STAT_STATE, F.MGT_BOOTSTAT_STEP]))) (by simp [F.PWR_DOM_STAT_STATE])

theorem State.atStep4_memWf {s : State} (h : s.memWf = true) : s.atStep4.memWf = true := State.set_memWf (State.set_memWf h _ _) _ _

theorem State.startBase_time (s : State) (env : StartEnv) : (s.startBase env).time = { s.time with coreCyc := 0, fabCyc := 0 } := by
  have hoff : (s.allOff []).time = s.time :=
    (State.allOff_keeps (L := [.regs, .start, .flash, .power, .period, .seals, .mem, .tiles, .coll, .flt, .cast, .stalled]) (by simp)
      (Keeps.refl s) []).same.time (by decide)
  rw [← hoff]
  rfl

theorem State.startBase_ledger (s : State) (env : StartEnv) : (s.startBase env).ledger = s.ledger := by
  simp only [State.startBase, State.allOff_ledger]

theorem State.startBase_lost (s : State) (env : StartEnv) : (s.startBase env).wb = none ∧ (s.startBase env).mem = MemSt.init ∧
    (s.startBase env).tiles = Vector.replicate 64 TileSt.init ∧ (s.startBase env).stalled = [] := by
  unfold State.startBase
  exact ⟨rfl, rfl, rfl, rfl⟩

theorem State.startBase_flt (s : State) (env : StartEnv) :
    (s.startBase env).flt.queue = s.flt.queue ∧ (s.startBase env).flt.store = s.flt.store := by
  simp only [State.startBase, State.allOff_flt]
  exact ⟨trivial, trivial⟩

theorem State.startReset_clocksReset (s : State) (env : StartEnv) (powerOn : Bool) : (s.startReset env powerOn).clocksReset :=
  ⟨s.startReset_rd env powerOn (by decide), s.startReset_rd env powerOn (by decide)⟩

/-! The state in which a start is asked for. -/

/-- The state `u` that a way into a start makes of `s`: what outlasts the reset is that of `s`; the count of failed starts is too, but where the start
leads out of minimal mode. -/
structure StartsLike (s u : State) : Prop where
  memWf : u.memWf = true
  reason : u.get F.MGT_BOOTSTAT_REASON = s.get F.MGT_BOOTSTAT_REASON
  failStep : u.get F.MGT_BOOTSTAT_FAIL_STEP = s.get F.MGT_BOOTSTAT_FAIL_STEP
  straps : u.start.straps = s.start.straps
  flash : u.flash = s.flash
  flt : u.flt = s.flt
  failures : s.mode ≠ 2 → u.start.consec = s.start.consec ∧ u.start.ledgerRead = s.start.ledgerRead ∧ u.start.noRetry = s.start.noRetry ∧
    u.ledger.failedStarts = s.ledger.failedStarts

theorem StartsLike.refl {s : State} (h : s.memWf = true) : StartsLike s s := ⟨h, rfl, rfl, rfl, rfl, rfl, fun _ => ⟨rfl, rfl, rfl, rfl⟩⟩

variable {s u : State}

theorem StartsLike.reset_flash (h : StartsLike s u) (env : StartEnv) (powerOn : Bool) :
    ∃ nand, (u.startReset env powerOn).flash = { s.flash with nand := nand } := by
  rw [← h.flash]
  exact u.startReset_flash env powerOn

theorem State.startReset_powerOn (u : State) (env : StartEnv) (powerOn : Bool) :
    (u.startReset env powerOn).get F.MGT_BOOTSTAT_POWER_ON = b2n powerOn := by
  rw [u.startReset_get env powerOn (x := b2n powerOn) (by simp [State.islandFields])]
  cases powerOn <;> rfl

theorem State.startReset_memberId (u : State) (env : StartEnv) (powerOn : Bool) :
    (u.startReset env powerOn).get F.LINK_IDENT_MEMBER_ID = u.start.straps.moduleSlot.toNat := by
  rw [u.startReset_get env powerOn (x := (u.startBase env).start.straps.moduleSlot.toNat) (by simp [State.islandFields]), u.startBase_start env]
  exact Nat.mod_eq_of_lt (Nat.lt_trans (BitVec.isLt _) (by decide))

theorem State.startReset_consecFail (u : State) (env : StartEnv) (powerOn : Bool) :
    (u.startReset env powerOn).get F.MGT_BOOTSTAT_CONSEC_FAIL = u.start.consec % 2 ^ F.MGT_BOOTSTAT_CONSEC_FAIL.w := by
  rw [u.startReset_get env powerOn (x := (u.startBase env).start.consec) (by simp [State.islandFields]), u.startBase_start env]

/-- A start that waits at step 4 shows its first state. -/
theorem StartsLike.began (h : StartsLike s u) (env : StartEnv) (powerOn : Bool) :
    s.startBegan env powerOn (u.startReset env powerOn).waitsAt4 := by
  have hm := State.startReset_memWf h.memWf env powerOn
  have hok := State.regsOk_of_memWf hm
  obtain ⟨hreason, hfail⟩ := State.startReset_failure h.memWf env powerOn
  have hstart := (u.startReset_start env powerOn).trans (u.startBase_start env)
  have henv : (u.startReset env powerOn).start.env = env := by rw [hstart]
  have hstraps : (u.startReset env powerOn).start.straps = s.start.straps := by rw [hstart, ← h.straps]
  have hsame := u.startReset_same env powerOn
  obtain ⟨nand, hflash⟩ := h.reset_flash env powerOn
  have hpower := u.startReset_powerOn env powerOn
  have hmember := u.startReset_memberId env powerOn
  have hmode := u.startReset_mode env powerOn
  have hdom : ∀ d < 155, (u.startReset env powerOn).dom d = 0 := fun d hd => u.startReset_dom env powerOn hd
  obtain ⟨hwb, hmem, htiles, hstalled⟩ := u.startBase_lost env
  rw [← hsame.wb (by decide)] at hwb
  rw [← hsame.mem (by decide)] at hmem
  rw [← hsame.tiles (by decide)] at htiles
  rw [← hsame.stalled (by decide)] at hstalled
  obtain ⟨hqueue, hstore⟩ := u.startBase_flt env
  rw [← hsame.flt (by decide), h.flt] at hqueue hstore
  rw [h.reason] at hreason
  rw [h.failStep] at hfail
  rw [h.straps] at hmember
  clear hsame hstart
  generalize u.startReset env powerOn = r at *
  have hr := r.waitsAt4_same
  refine ⟨State.waitsAt4_step hok, ?_, ?_, State.waitsAt4_bootLock hok, ?_, ?_, ?_, fun d hd => ?_, ?_, ?_, ?_, ?_, ?_, ?_, ?_, ?_, ?_, ?_, ?_⟩
  · rw [State.waitsAt4_get_ne hok (.inl (by decide)) (.inr (.inl (by decide))) (by decide)]
    exact hmode
  · rw [State.waitsAt4_get_ne hok (.inl (by decide)) (.inr (.inl (by decide))) (by decide), hpower]
  · rw [State.waitsAt4_get_ne hok (.inl (by decide)) (.inl (by decide)) (by decide), hmember]
  · rw [State.waitsAt4_get_ne hok (.inl (by decide)) (.inr (.inr (by decide))) (by decide), hreason]
  · rw [State.waitsAt4_get_ne hok (.inl (by decide)) (.inr (.inr (by decide))) (by decide), hfail]
  · rw [State.waitsAt4_dom hok, hdom d hd]
  · rw [State.waitsAt4_start]
  · rw [State.waitsAt4_start]
    exact henv
  · rw [State.waitsAt4_start]
    exact hstraps
  · rw [hr.wb (by decide), hwb]
  · rw [hr.mem (by decide), hmem]
  · rw [hr.tiles (by decide), htiles]
  · rw [hr.stalled (by decide), hstalled]
  · rw [hr.flash (by decide), hflash]
  · rw [hr.flash (by decide), hflash]
  · rw [hr.flt (by decide), hqueue]
  · rw [hr.flt (by decide), hstore]

/-- A start whose ROM fails its known answers fails at step 4. -/
theorem StartsLike.romFailed (h : StartsLike s u) (env : StartEnv) (powerOn : Bool) (hl : s.start.ledgerRead = true) (hm : s.mode ≠ 2)
    (hc : s.start.consec < 2) (hn : s.start.noRetry = false) (ht : s.bootDir.trial = false) :
    s.failedStart 4 0x20 ((u.startReset env powerOn).atStep4.failStart 4 0x20) := by
  obtain ⟨hconsec, hread, hretry, hfailed⟩ := h.failures hm
  have hstart := (u.startReset_start env powerOn).trans (u.startBase_start env)
  obtain ⟨nand, hflash⟩ := h.reset_flash env powerOn
  have hledger := ((u.startReset_same env powerOn).ledger (by decide)).trans (u.startBase_ledger env)
  have hwf := State.startReset_memWf h.memWf env powerOn
  generalize u.startReset env powerOn = r at *
  have hsame := r.atStep4_same
  have hm4 := State.atStep4_memWf hwf
  rw [← hsame.start (by decide)] at hstart
  rw [← hsame.flash (by decide)] at hflash
  rw [← hsame.ledger (by decide)] at hledger
  generalize r.atStep4 = r4 at *
  have h1 : r4.start.consec = s.start.consec := by rw [hstart, ← hconsec]
  have h2 : r4.start.ledgerRead = true := by rw [hstart, ← hl, ← hread]
  have h3 : r4.start.noRetry = false := by rw [hstart, ← hn, ← hretry]
  have h6 : r4.bootDir.trial = false := by rw [State.bootDir_congr (s := s) (by rw [hflash]), ht]
  have hfail := State.failStart_failed hm4 h2 (h1 ▸ hc) h3 h6 (step := 4) (reason := 0x20) (by decide) (by decide)
  unfold State.failedStart at hfail ⊢
  rw [h1, hflash, hledger, hfailed] at hfail
  exact hfail

/-- A start from step 4 runs as R324, R328 and R339 have it. -/
theorem StartsLike.ran (h : StartsLike s u) (hr : s.ratiosHold) (env : StartEnv) (powerOn : Bool) :
    endsIn (u.startAgain env powerOn) (fun t => s.startRan env powerOn t ∧ t.time.osc = u.time.osc) := by
  obtain ⟨nand, hflash⟩ := h.reset_flash env powerOn
  have hratios : (u.startReset env powerOn).ratiosHold := by
    intro i g hg
    rw [hflash] at hg
    exact hr i g hg
  have henv : (u.startReset env powerOn).start.env = env := congrArg StartSt.env ((u.startReset_start env powerOn).trans (u.startBase_start env))
  have hosc : (u.startReset env powerOn).time.osc = u.time.osc := by
    rw [(u.startReset_same env powerOn).time (by decide), u.startBase_time env]
  obtain ⟨t, ht, hset, htime⟩ :=
    State.startFrom4_ends (State.startReset_memWf h.memWf env powerOn) (u.startReset_clocksReset env powerOn) hratios
  refine ⟨t, ht, ⟨fun h4 => ?_, fun h4 hrom hl hm hc hn htr => ?_, hset⟩, (congrArg TimeSt.osc htime).trans hosc⟩
  · rw [State.startFrom4_hangs (henv.symm ▸ h4)] at ht
    cases ht
    exact h.began env powerOn
  · rw [State.startFrom4_romFails (henv.symm ▸ h4) (henv.symm ▸ hrom)] at ht
    cases ht
    exact h.romFailed env powerOn hl hm hc hn htr

end Sys2Proof.Machine
end

section
/-! SUPPORT. The ways into a start from step 4 (R324, R328, R339, R341, R443), and what passing time leaves of the registers (R414). -/

namespace Sys2Proof.Machine

/-! The passing of time. -/

theorem perfWin_count {b i : Nat} (hb : b < 119) (hi : i < 8) : perfWin (0x41040 + b * 0x100 + i * 0x8) := by
  constructor <;> omega

theorem perfWin_stat {b : Nat} (hb : b < 119) : perfWin (0x41010 + b * 0x100) := by
  constructor <;> omega

theorem perfCount_le (b : Nat) : perfCount b ≤ 8 := by
  unfold perfCount
  split <;> omega

theorem regsIn.perfAdd {s t : State} (h : regsIn perfWin s t) {b i : Nat} (hb : b < 119) (hi : i < 8) (n : Nat) :
    regsIn perfWin s (t.perfAdd b i n) := by
  unfold State.perfAdd
  extract_lets c s1 o s2 p
  have h1 : regsIn perfWin s s1 := h.set (F.PERF_B_CNT_COUNT b i) _ (perfWin_count hb hi)
  have h2 : regsIn perfWin s s2 := h1.set (F.PERF_B_STAT_OVF b) _ (perfWin_stat hb)
  clear_value s1 s2
  split
  · exact h
  · split
    · exact h1
    · exact h2.of_regs rfl

/-- Level events count in the counters' registers alone. -/
theorem regsIn.perfLevels {s t : State} (h : regsIn perfWin s t) (core fab : Nat) : regsIn perfWin s (t.perfLevels core fab) := by
  refine State.forEach_induction h fun t b hb ht => ?_
  extract_lets n
  split
  · exact ht
  · refine State.forEach_induction ht fun t i hi ht => ?_
    extract_lets code v th mode prev add
    split
    · exact ht
    · exact (ht.of_regs (u := { t with perf := { t.perf with prev := Sparse.put t.perf.prev (8 * b + i) v 0 } }) rfl).perfAdd
        (List.mem_range.1 hb) (Nat.lt_of_lt_of_le (List.mem_range.1 hi) (perfCount_le b)) add

theorem State.passTime_regsIn {s : State} (h : s.regsOk) (n : Nat) : regsIn perfWin s (s.passTime n) :=
  ((regsIn.refl h).of_regs (u := s.advanceOsc n) rfl).perfLevels _ _

theorem State.passTime_time (s : State) (n : Nat) :
    (s.passTime n).time.osc = s.time.osc + n ∧ (s.passTime n).ledger.failedStarts = s.ledger.failedStarts := by
  have hp : Same [.regs, .perf] (s.advanceOsc n) (s.passTime n) := (State.perfLevels_keeps (by simp) (Keeps.refl _) _ _).same
  rw [hp.time (by decide), hp.ledger (by decide)]
  exact ⟨rfl, rfl⟩

/-! The ways into a start. -/

theorem State.answer_same (s : State) (object part status : Nat) (payload : List Byte) :
    Same [.start, .sent] s (s.answer object part status payload) := (State.answer_keeps (by simp) (Keeps.refl s) _ _ _ _).same

/-- An answer may raise a vector; of the start state it can touch MSI-X alone. -/
theorem State.answer_start (s : State) (object part status : Nat) (payload : List Byte) :
    ∃ x, (s.answer object part status payload).start = { s.start with msix1 := x } := by
  unfold State.answer State.msi
  extract_lets x
  split
  · exact ⟨_, rfl⟩
  · split <;> exact ⟨_, rfl⟩

theorem StartsLike.answer {s u : State} (h : StartsLike s u) (object part status : Nat) (payload : List Byte) :
    StartsLike s (u.answer object part status payload) := by
  have hs := u.answer_same object part status payload
  obtain ⟨x, hx⟩ := u.answer_start object part status payload
  have hm := (State.answer_keeps Piece.sub_all (Keeps.refl u) object part status payload).memWf h.memWf
  generalize u.answer object part status payload = t at *
  have hget := State.get_congr (hs.regs (by decide))
  refine ⟨hm, (hget _).trans h.reason, (hget _).trans h.failStep, ?_, (hs.flash (by decide)).trans h.flash, (hs.flt (by decide)).trans h.flt,
    fun hmode => ?_⟩
  · rw [hx]
    exact h.straps
  · rw [hx, hs.ledger (by decide)]
    exact h.failures hmode

/-- The retry timer: time has passed (R328). -/
theorem StartsLike.passTime {s : State} (h : s.memWf = true) (n : Nat) : StartsLike s (s.passTime n) := by
  have hs : Same [.regs, .time, .ledger, .perf] s (s.passTime n) := (State.passTime_keeps (by simp) (Keeps.refl s) n).same
  have hb := (State.passTime_regsIn (State.regsOk_of_memWf h) n).2
  have hw : ¬ perfWin 0x8 := by unfold perfWin; omega
  have hf := (s.passTime_time n).2
  have hm := (State.passTime_keeps Piece.sub_all (Keeps.refl s) n).memWf h
  generalize s.passTime n = t at *
  refine ⟨hm, hb.get _ hw, hb.get _ hw, ?_, hs.flash (by decide), hs.flt (by decide), fun _ => ?_⟩
  · rw [hs.start (by decide)]
  · rw [hs.start (by decide)]
    exact ⟨rfl, rfl, rfl, hf⟩

/-- The state in which a toggling oscillator leads to step 4 (R307). -/
def State.xtalSeen (s : State) (env : StartEnv) : State :=
  { s with time := { s.time with osc := 0, running := true }, start := { s.start with env := env } }.set F.CLK_STAT_XTAL_OK 1

theorem StartsLike.xtalSeen {s : State} (h : s.memWf = true) (env : StartEnv) : StartsLike s (s.xtalSeen env) := by
  unfold State.xtalSeen
  have hk : Keeps Piece.all s { s with time := { s.time with osc := 0, running := true }, start := { s.start with env := env } } :=
    (Keeps.refl s).upd (M := [.time, .start]) Piece.sub_all
  have hm := hk.memWf h
  have hok := State.regsOk_of_memWf hm
  refine ⟨State.set_memWf hm _ _, ?_, ?_, rfl, rfl, rfl, fun _ => ⟨rfl, rfl, rfl, rfl⟩⟩
  · exact (State.get_set_ne _ _ _ hok (.inl (by decide))).trans (State.get_congr rfl _)
  · exact (State.get_set_ne _ _ _ hok (.inl (by decide))).trans (State.get_congr rfl _)

/-- START_RETRY clears the count of failed starts (R341). -/
def State.retryAsked (s : State) : State :=
  { s with start := { s.start with consec := 0, noRetry := false }, ledger := { s.ledger with consecFail := 0 } }

theorem StartsLike.retryAsked {s : State} (h : s.memWf = true) (hm : s.mode = 2) : StartsLike s s.retryAsked := by
  unfold State.retryAsked
  have hk : Keeps Piece.all s { s with start := { s.start with consec := 0, noRetry := false }, ledger := { s.ledger with consecFail := 0 } } :=
    (Keeps.refl s).upd (M := [.start, .ledger]) Piece.sub_all
  exact ⟨hk.memWf h, State.get_congr rfl _, State.get_congr rfl _, rfl, rfl, rfl, fun hne => absurd hm hne⟩

/-- A start that waits at step 4 has the count of failed starts that it was asked for with. -/
theorem State.startReset_waitsAt4_count {u : State} (h : u.memWf = true) (env : StartEnv) (powerOn : Bool) (hc : u.start.consec = 0)
    (hl : u.ledger.consecFail = 0) :
    (u.startReset env powerOn).waitsAt4.start.consec = 0 ∧ (u.startReset env powerOn).waitsAt4.get F.MGT_BOOTSTAT_CONSEC_FAIL = 0 ∧
      (u.startReset env powerOn).waitsAt4.ledger.consecFail = 0 := by
  have hok := State.regsOk_of_memWf (State.startReset_memWf h env powerOn)
  have hstart := (u.startReset_start env powerOn).trans (u.startBase_start env)
  have hledger := ((u.startReset_same env powerOn).ledger (by decide)).trans (u.startBase_ledger env)
  have hcount := u.startReset_consecFail env powerOn
  generalize u.startReset env powerOn = r at *
  refine ⟨?_, ?_, ?_⟩
  · rw [State.waitsAt4_start, hstart]
    exact hc
  · rw [State.waitsAt4_get_ne hok (.inl (by decide)) (.inr (.inl (by decide))) (by decide), hcount, hc, Nat.zero_mod]
  · rw [r.waitsAt4_same.ledger (by decide), hledger, hl]

/-- Settles O8: every way into a start makes of `s` a state that is `StartsLike` it, from which the start runs as `StartsLike.ran` says. -/
theorem startsBeginAtStepFour : Obligations.StartsBeginAtStepFour := by
  intro env s h hp hr
  refine ⟨fun hrun hstep hext => ?_, fun hhold => ?_, fun harm => ?_, fun hup h0 h2 => ?_, fun hup h0 h2 htrip => ?_, fun hup h2 => ?_⟩
  · have hexec : exec (.xtalWaitExpire true env) s = (s.xtalSeen env).startAgain env true := by
      have hx : (s.xtalSeen env).start.straps.xspiExtHigh = true := hext
      show execXtalWaitExpire true env s = _
      exact (if_neg (by simp [hp, hrun, hstep])).trans ((if_neg Bool.noConfusion).trans (if_pos hx))
    obtain ⟨t, ht, hran, _⟩ := (StartsLike.xtalSeen h env).ran hr env true
    exact ⟨t, hexec.trans ht, hran⟩
  · have hexec : exec (.xspiExtRelease env) s = s.startAgain env true := if_pos (by simp [hp, hhold])
    obtain ⟨t, ht, hran, _⟩ := (StartsLike.refl h).ran hr env true
    exact ⟨t, hexec.trans ht, hran⟩
  · have hexec : exec (.startRetryTimer env) s = (s.passTime 25000000).startAgain env (s.on F.MGT_BOOTSTAT_POWER_ON) :=
      if_pos (by simp [hp, harm])
    obtain ⟨t, ht, hran, hosc⟩ := (StartsLike.passTime h 25000000).ran hr env (s.on F.MGT_BOOTSTAT_POWER_ON)
    exact ⟨t, hexec.trans ht, hran, hosc.trans (s.passTime_time _).1⟩
  · have hexec : exec (.restartImmediate true env) s = (s.answer objRestart 0 0 []).startAgain env false := by
      show execRestartImmediate true env s = _
      simp [execRestartImmediate, hup, State.starting, h0, h2]
    obtain ⟨t, ht, hran, _⟩ := ((StartsLike.refl h).answer objRestart 0 0 []).ran hr env false
    exact ⟨t, hexec.trans ht, hran⟩
  · have hexec : exec (.restartAtBoundary true env) s = (s.answer objRestart 0 0 []).startAgain env false := by
      show execRestartAtBoundary true env s = _
      simp [execRestartAtBoundary, hup, State.starting, h0, h2, htrip]
    obtain ⟨t, ht, hran, _⟩ := ((StartsLike.refl h).answer objRestart 0 0 []).ran hr env false
    exact ⟨t, hexec.trans ht, hran⟩
  · have hexec : exec (.startRetry true env) s = (s.retryAsked.answer objStartRetry 0 0 []).startAgain env false := by
      show execStartRetry true env s = _
      simp [execStartRetry, hup, h2, State.retryAsked]
    have hlike := (StartsLike.retryAsked h h2).answer objStartRetry 0 0 []
    obtain ⟨x, hx⟩ := s.retryAsked.answer_start objStartRetry 0 0 []
    have hsame := s.retryAsked.answer_same objStartRetry 0 0 []
    generalize s.retryAsked.answer objStartRetry 0 0 [] = u at *
    obtain ⟨t, ht, hran, _⟩ := hlike.ran hr env false
    refine ⟨t, hexec.trans ht, hran, fun h4 => ?_⟩
    have henv : (u.startReset env false).start.env = env := by rw [u.startReset_start, u.startBase_start]
    rw [State.startAgain, State.startFrom4_hangs (by rw [henv, h4])] at ht
    cases ht
    exact State.startReset_waitsAt4_count hlike.memWf env false (by rw [hx]; rfl) (by rw [hsame.ledger (by decide)]; rfl)

end Sys2Proof.Machine
end

section
/-! SUPPORT. O53 fails: an error record may name a unit that does not exist, and the counters of its block lie outside those of R413. -/

namespace Sys2Proof.Machine

/-- The island runs and the Timetable is awake. The register at 0x50080 would be the event select of counter 0 of a performance block 240:
read as one, it selects event 0x07 in the boundary phase. -/
def strayBlock : State := { State.reset with
  start := { StartSt.init with powered := true }
  time := { TimeSt.init with running := true }
  regs := [((F.PWR_DOM_STAT_STATE domTimetable).off, 3), ((F.PERF_B_SEL_EVENT 240 0).off, 0x100000007)] }

/-- One corrected SRAM error of port 139; the module has ports 0 to 17 (R262). -/
def strayError : PostedError := ⟨0x07, 139, 0, 0x01, 0, 0, 1, false, true⟩

theorem strayBlock_memWf : strayBlock.memWf = true := by
  have ht : strayBlock.tiles.all TileSt.wf = true := (TileSt.all_wf _).2 fun n => by
    rw [show strayBlock.tiles[n] = TileSt.init from State.reset_tile n, TileSt.init_wf]
  rw [State.memWf, ht]
  rfl

/-- The error counts in the register at 0x50040, which is FLT_CPER_STAT. -/
theorem strayError_counts :
    endsIn (exec (.errorRecordPost [strayError]) strayBlock) fun t => t.get (F.PERF_B_CNT_COUNT 240 0) = 1 := ⟨_, rfl, by decide⟩

/-- Refutes O53: the record of a port 139 counts in a block 240, whose counter is no performance counter's register (R413), so that the frame of
ERROR_RECORD_POST does not hold. -/
theorem not_errorsAreRecorded : ¬ Obligations.ErrorsAreRecorded := by
  intro h
  obtain ⟨hpost, -⟩ := h strayBlock strayBlock_memWf
  obtain ⟨t, ht, -, -, -, hframe, -⟩ := hpost [strayError] rfl rfl (by decide) (by decide) ⟨rfl, rfl, rfl, rfl, .inl rfl⟩ (by decide)
    (by simp) (by decide)
  obtain ⟨u, hu, hcount⟩ := strayError_counts
  obtain rfl := Host.Outcome.next.inj (ht.symm.trans hu)
  have hkept := hframe (F.PERF_B_CNT_COUNT 240 0) (by decide) (by unfold perfWin; decide)
    (fun g hg => .inl ((by decide : ∀ g ∈ queueFields, (F.PERF_B_CNT_COUNT 240 0).off ≠ g.off) g hg))
  rw [hcount] at hkept
  exact absurd hkept (by decide)

end Sys2Proof.Machine
end

section
/-! SUPPORT. O20 fails: memory of a slot that does not exist wakes a domain whose registers are those of the fences. -/

namespace Sys2Proof.Machine

/-- A collective whose destination, the byte at module address 0, was touched (R285). -/
def touchedColl : Coll := { newColl none 0 0 0 0 with dest := (0, 1) }

/-- A job before its first period. Tile 0 is fenced, and the one slot of memory has the number 8 * 32635, so that its domain would be 32738. -/
def straySlot : State := { State.reset with
  start := { StartSt.init with powered := true }
  regs := [(F.MGT_BOOTSTAT_MODE.off, 0x4000000000), (F.FLT_FENCE_TILE_TILES.off, 1)]
  mem := { MemSt.init with slots := [8 * 32635], spoiled := [(0, 1)] }
  coll := { CollSt.init with queue := [touchedColl] } }

theorem straySlot_memWf : straySlot.memWf = true := by
  have ht : straySlot.tiles.all TileSt.wf = true := (TileSt.all_wf _).2 fun n => by
    rw [show straySlot.tiles[n] = TileSt.init from State.reset_tile n, TileSt.init_wf]
  rw [State.memWf, ht]
  rfl

/-- The boundary makes the touched destination undefined (R285); that write wakes the slot's domain, whose state register is FLT_FENCE_TILE. -/
theorem straySlot_wakes : (straySlot.abandonColls fun _ => true).get F.FLT_FENCE_TILE_TILES = 69635 := by decide

/-- The tiles to which the period that begins in `straySlot` binds no work, from a run of the model. -/
def straySlotBound : Nat := match exec .periodBoundary straySlot with
  | .next t => t.period.boundFence
  | _ => 0

set_option maxRecDepth 20000 in
theorem straySlotBound_eq : straySlotBound = 69635 := by decide +kernel

/-- Refutes O20: the fences that work is bound to are those after the collectives have ended, which are not those that the state held. -/
theorem not_boundaryBeginsThePeriod : ¬ Obligations.BoundaryBeginsThePeriod := by
  intro h
  obtain ⟨t, ht, -, -, -, -, -, -, -, -, -, -, -, hbound, -⟩ := h straySlot straySlot_memWf rfl rfl rfl rfl nofun
  have hrun : straySlotBound = t.period.boundFence := by rw [straySlotBound, ht]
  rw [straySlotBound_eq, hbound] at hrun
  exact absurd hrun (by decide)

end Sys2Proof.Machine
end

section
/-! SUPPORT. Which register fields an operation may write: the frame that the operations of the period are followed by, one rule per primitive
update. -/

namespace Sys2Proof.Machine

/-- From `s` to `t` no field is written but those of `W`, and the registers of `t` are in canonical form. -/
structure Writes (W : Field → Prop) (s t : State) : Prop where
  regsOk : t.regsOk
  get : ∀ f : Field, f.lo + f.w ≤ 64 → (∀ g, W g → f.apart g) → t.get f = s.get f

theorem Writes.refl {W : Field → Prop} {s : State} (h : s.regsOk) : Writes W s s := ⟨h, fun _ _ _ => rfl⟩

theorem Writes.trans {W : Field → Prop} {s t u : State} (h : Writes W s t) (k : Writes W t u) : Writes W s u :=
  ⟨k.regsOk, fun f hf ha => (k.get f hf ha).trans (h.get f hf ha)⟩

theorem Writes.mono {W V : Field → Prop} {s t : State} (h : Writes W s t) (hWV : ∀ g, W g → V g) : Writes V s t :=
  ⟨h.regsOk, fun f hf ha => h.get f hf fun g hg => ha g (hWV g hg)⟩

theorem Writes.set {W : Field → Prop} {s t : State} (h : Writes W s t) (f : Field) (x : Nat) (hf : W f) : Writes W s (t.set f x) :=
  ⟨State.set_regsOk _ _ _ h.regsOk, fun g hg ha => (State.get_set_ne _ _ _ h.regsOk (ha f hf) hg).trans (h.get g hg ha)⟩

theorem Writes.flagIf {W : Field → Prop} {s t : State} (h : Writes W s t) (b : Bool) (f : Field) (hf : W f) : Writes W s (t.flagIf b f) := by
  unfold State.flagIf
  split
  · exact h.set f 1 hf
  · exact h

/-- An update of other parts than the registers. -/
theorem Writes.of_regs {W : Field → Prop} {s t u : State} (h : Writes W s t) (hu : u.regs = t.regs := by rfl) : Writes W s u :=
  ⟨(congrArg Sparse.sorted hu).trans h.regsOk, fun f hf ha => (State.get_congr hu f).trans (h.get f hf ha)⟩

theorem Writes.ite {W : Field → Prop} {s a b : State} {c : Prop} [Decidable c] (ha : Writes W s a) (hb : Writes W s b) :
    Writes W s (if c then a else b) := by
  split
  · exact ha
  · exact hb

/-- A field that shares no bit with its whole register has none. -/
theorem State.get_of_apart_register {f : Field} (hf : f.lo + f.w ≤ 64) (ha : f.apart ⟨f.off, 0, 64⟩) (s : State) : s.get f = 0 := by
  have hw : f.w = 0 := by
    rcases ha with h | h | h
    · exact absurd rfl h
    · exact Nat.eq_zero_of_add_eq_zero_left (Nat.le_zero.1 h)
    · exact Nat.eq_zero_of_not_pos fun hpos => by simp only at h; omega
  refine Nat.eq_of_testBit_eq fun i => ?_
  rw [State.get, fieldOf_testBit, hw]
  simp

theorem regsIn.writes {w : Nat → Prop} {s t : State} (h : regsIn w s t) : Writes (fun g => w g.off) s t := by
  refine ⟨h.1, fun f hf ha => ?_⟩
  by_cases hw : w f.off
  · rw [State.get_of_apart_register hf (ha ⟨f.off, 0, 64⟩ hw), State.get_of_apart_register hf (ha ⟨f.off, 0, 64⟩ hw)]
  · exact h.2.get f hw

/-- A field in a register that is not written at all. -/
theorem Writes.get_off {W : Field → Prop} {s t : State} (h : Writes W s t) (f : Field) (hW : ∀ g, W g → g.off ≠ f.off)
    (hf : f.lo + f.w ≤ 64 := by decide) : t.get f = s.get f :=
  h.get f hf fun g hg => .inl (hW g hg).symm

theorem Writes.frame {W : Field → Prop} {s t : State} {win : Nat → Prop} {l : List Field} (h : Writes W s t)
    (hW : ∀ g, W g → win g.off ∨ g ∈ l) : frame win l s t := by
  refine fun f hf hwin hl => h.get f hf fun g hg => ?_
  rcases hW g hg with hw | hm
  · exact .inl fun ho => hwin (ho ▸ hw)
  · exact hl g hm

/-- A write of a whole register. -/
theorem Writes.wr {W : Field → Prop} {s t : State} (h : Writes W s t) (o : Nat) (v : U64) (ho : W ⟨o, 0, 64⟩) : Writes W s (t.wr o v) := by
  refine ⟨State.wr_regsOk _ _ _ h.regsOk, fun f hf ha => ?_⟩
  by_cases hfo : o = f.off
  · subst hfo
    rw [State.get_of_apart_register hf (ha _ ho), State.get_of_apart_register hf (ha _ ho)]
  · rw [State.get, State.rd_wr _ _ _ _ h.regsOk, if_neg hfo]
    exact h.get f hf ha

theorem Writes.forEach {α : Type} {W : Field → Prop} {σ s : State} {f : State → α → State} {l : List α} (h : Writes W σ s)
    (hf : ∀ s, ∀ a ∈ l, Writes W σ s → Writes W σ (f s a)) : Writes W σ (s.forEach l f) :=
  State.forEach_induction h hf

/-! Primitive updates. -/

theorem Writes.of_same {W : Field → Prop} {L : List Piece} {s t u : State} (h : Writes W s t) (k : Same L t u)
    (hL : Piece.regs ∉ L := by decide) : Writes W s u := h.of_regs (k.regs hL)

theorem State.send_same (s : State) (o : Out) : Same [.sent] s (s.send o) := (State.send_keeps (List.Subset.refl _) (Keeps.refl s) o).same

theorem State.inPeriod_of {s : State} (hrun : s.running = true) (hper : s.period.inPeriod = true) : s.inPeriod = true := by
  rw [State.inPeriod, hrun, hper]
  rfl

theorem State.set_same (s : State) (f : Field) (x : Nat) : Same [.regs] s (s.set f x) :=
  (State.set_keeps (List.Subset.refl _) (Keeps.refl s) f x).same

theorem State.phase_congr {s t : State} (h : t.regs = s.regs) : t.phase = s.phase := State.get_congr h _

/-- The phase after it is set; the field holds numbers to 7. -/
theorem State.phase_setPhase {s : State} (h : s.regsOk) {p : Nat} (hp : p < 2 ^ 3) : (s.setPhase p).phase = p :=
  State.get_set _ _ h (by decide) hp

/-! The vectors. -/

theorem State.msi_regs (s : State) (fn1 : Bool) (v : Nat) : (s.msi fn1 v).regs = s.regs :=
  (State.msi_keeps (L := [.start, .sent]) (List.Subset.refl _) (Keeps.refl s) fn1 v).same.regs (by decide)

theorem Writes.msi {W : Field → Prop} {s t : State} (h : Writes W s t) (fn1 : Bool) (v : Nat) : Writes W s (t.msi fn1 v) :=
  h.of_regs (t.msi_regs fn1 v)

theorem Writes.cause {W : Field → Prop} {s t : State} (h : Writes W s t) (f : Field) (fn1 : Bool) (v : Nat) (hf : W f) :
    Writes W s (t.cause f fn1 v) :=
  .ite h ((h.set f 1 hf).msi fn1 v)

/-- A one-bit cause stands after it was raised. -/
theorem State.get_cause {s : State} (h : s.regsOk) (f : Field) (fn1 : Bool) (v : Nat) (hw : f.w = 1) (hf : f.lo + f.w ≤ 64 := by decide) :
    (s.cause f fn1 v).get f = 1 := by
  have hlt : s.get f < 2 ^ f.w := BitVec.isLt _
  rw [hw] at hlt
  unfold State.cause State.on
  split
  · next hon =>
    have hne : s.get f ≠ 0 := by simpa using hon
    omega
  · rw [State.get_congr (State.msi_regs _ _ _)]
    exact State.get_set f 1 h hf (by rw [hw]; decide)

/-- From `s` to `t` nothing of what was sent, of the start state or of what is pending is lost: vectors may have been raised (R359). -/
structure Raises (s t : State) : Prop where
  sent : s.sent <:+ t.sent
  start : s.sameStart t
  pba : ∀ fn1 v, bit (s.msix fn1).pba v = true → bit (t.msix fn1).pba v = true

theorem Raises.refl (s : State) : Raises s s := ⟨List.suffix_refl _, rfl, fun _ _ h => h⟩

theorem Raises.trans {s t u : State} (h : Raises s t) (k : Raises t u) : Raises s u := by
  refine ⟨h.sent.trans k.sent, ?_, fun fn1 v hv => k.pba fn1 v (h.pba fn1 v hv)⟩
  have hk := k.start
  rw [State.sameStart, h.start] at hk
  rw [State.sameStart, hk]

theorem Raises.of_start {s t : State} (hsent : s.sent <:+ t.sent) (hstart : t.start = s.start) : Raises s t := by
  refine ⟨hsent, by rw [State.sameStart, hstart], fun fn1 v hv => ?_⟩
  rw [State.msix, hstart]
  exact hv

/-- An operation that leaves start state and outputs alone raises nothing. -/
theorem Raises.of_same {L : List Piece} {s t : State} (h : Same L s t) (hsent : Piece.sent ∉ L := by decide)
    (hstart : Piece.start ∉ L := by decide) : Raises s t :=
  .of_start (h.sent hsent ▸ List.suffix_refl _) (h.start hstart)

theorem State.msi_raises (s : State) (fn1 : Bool) (v : Nat) : Raises s (s.msi fn1 v) := by
  unfold State.msi
  extract_lets x
  split
  · exact .refl s
  · split
    · refine ⟨List.suffix_refl _, by cases fn1 <;> rfl, fun fn w hw => ?_⟩
      by_cases hfn : fn = fn1
      · subst hfn
        rw [State.msix_setMsix_self, bit_eq_testBit, Nat.testBit_or, ← bit_eq_testBit, hw, Bool.true_or]
      · rw [show fn = !fn1 by cases fn <;> cases fn1 <;> simp_all, State.msix_setMsix_other]
        rwa [show fn = !fn1 by cases fn <;> cases fn1 <;> simp_all] at hw
    · exact .of_start (List.suffix_cons _ _) rfl

theorem State.msi_raised (s : State) (fn1 : Bool) (v : Nat) : s.raised fn1 v (s.msi fn1 v) := by
  intro hup
  unfold State.msi
  extract_lets x
  rw [hup]
  refine ⟨fun hm => ?_, fun hm => ?_⟩
  · rw [if_neg Bool.noConfusion, if_neg (by simp [x, hm])]
    exact List.mem_cons_self
  · rw [if_neg Bool.noConfusion, if_pos hm, State.msix_setMsix_self, bit_eq_testBit, Nat.testBit_or, Nat.testBit_two_pow_self, Bool.or_true]

theorem State.cause_raises (s : State) (f : Field) (fn1 : Bool) (v : Nat) : Raises s (s.cause f fn1 v) := by
  unfold State.cause
  split
  · exact .refl s
  · exact (Raises.of_start (s := s) (t := s.flag f) (List.suffix_refl _) rfl).trans (State.msi_raises _ _ _)

theorem State.raised.mono {s t u : State} {fn1 : Bool} {v : Nat} (h : s.raised fn1 v t) (k : Raises t u) : s.raised fn1 v u :=
  fun hup => ⟨fun hm => k.sent.subset ((h hup).1 hm), fun hm => k.pba _ _ ((h hup).2 hm)⟩

theorem State.raised.of_start {r s t : State} {fn1 : Bool} {v : Nat} (h : s.raised fn1 v t) (hs : s.start = r.start) : r.raised fn1 v t := by
  unfold State.raised State.msix at *
  rw [← hs]
  exact h

theorem Raises.sameAndSent {L : List Piece} {s t : State} (h : Raises s t) (k : Same (.sent :: .start :: L) s t) : SameAndSent L s t :=
  ⟨k, h.start⟩

theorem Raises.set {s t : State} (h : Raises s t) (f : Field) (x : Nat) : Raises s (t.set f x) := h.trans (.of_same (t.set_same f x))

theorem Raises.cause {s t : State} (h : Raises s t) (f : Field) (fn1 : Bool) (v : Nat) : Raises s (t.cause f fn1 v) :=
  h.trans (t.cause_raises f fn1 v)

theorem Raises.ite {s a b : State} {c : Prop} [Decidable c] (ha : Raises s a) (hb : Raises s b) : Raises s (if c then a else b) := by
  split
  · exact ha
  · exact hb

theorem State.send_raises (s : State) (o : Out) : Raises s (s.send o) := .of_start (List.suffix_cons _ _) (State.send_start s o)

end Sys2Proof.Machine
end

section
/-! SUPPORT. What the operations of a phase write: the passing of time (R302), the choice of work items (R320, R321). -/

namespace Sys2Proof.Machine

/-! Time comes to a tick. -/

theorem State.toTick_same (s : State) (n : Nat) : Same [.regs, .time, .ledger, .perf] s (s.toTick n) :=
  (State.toTick_keeps (List.Subset.refl _) (Keeps.refl s) n).same

theorem State.toTick_regsIn {s : State} (h : s.regsOk) (n : Nat) : regsIn perfWin s (s.toTick n) := by
  unfold State.toTick
  split
  · exact State.passTime_regsIn h _
  · exact .refl h

theorem State.toTick_osc {s : State} (h : s.time.running = true) (n : Nat) : (s.toTick n).time.osc = max s.time.osc (n * 8) := by
  unfold State.toTick
  split
  · next hlt =>
    have hlt : s.time.osc < n * 8 := by simpa [h] using hlt
    rw [(s.passTime_time _).1]
    omega
  · next hge =>
    have hge : n * 8 ≤ s.time.osc := by simpa [h] using hge
    omega

/-! The schedule. -/

/-- The registers in which the schedule counts: PWR_STAT and PWR_SCHED. -/
def schedFields (g : Field) : Prop := g.off = 0x10008 ∨ g.off = 0x10028

/-- What starting an item, skipping it, and the schedule's flags and counts keep, the schedule keeps. -/
theorem scheduleLoop_induction {P : State → Prop} {base : Nat} {l : List WorkItem} {first : Bool} {headroom : Int} {s : State} (h0 : P s)
    (hmod : ∀ s, ∀ i ∈ l, ∀ f : ItemSt → ItemSt, (∀ x, (f x).id = x.id) → P s → P (s.modItem i.id f))
    (hset : ∀ s f x, schedFields f → P s → P (s.set f x)) : P (scheduleLoop base l first headroom s) := by
  induction l generalizing s first headroom with
  | nil => exact h0
  | cons i rest ih =>
    have ih' {first : Bool} {headroom : Int} {s : State} (h : P s) : P (scheduleLoop base rest first headroom s) :=
      ih h fun s j hj => hmod s j (List.mem_cons_of_mem _ hj)
    have hi (f : ItemSt → ItemSt) (hf : ∀ x, (f x).id = x.id) : P (s.modItem i.id f) := hmod s i List.mem_cons_self f hf h0
    unfold scheduleLoop
    extract_lets run limit dur hot burstNow need idle s1 s2 n s3
    have h2 : P s2 := by
      refine hset _ _ _ ?_ (hi _ fun _ => rfl)
      split <;> exact .inl rfl
    have h3 : P s3 := hset _ _ _ (.inr rfl) (hi _ fun _ => rfl)
    clear_value s2 n s3
    split
    · exact ih' (hi _ fun _ => rfl)
    · split
      · exact ih' (hi _ fun _ => rfl)
      · split
        · exact ih' (hset _ _ _ (.inr rfl) h2)
        · split
          · exact hset _ _ _ (.inl rfl) h3
          · exact ih' h3

theorem State.schedule_writes {s : State} (h : s.regsOk) : Writes schedFields s s.schedule :=
  scheduleLoop_induction (P := Writes schedFields s) (.refl h) (fun _ _ _ _ _ h => h.of_regs) fun _ f x hf h => h.set f x hf

theorem State.schedule_same (s : State) : Same [.regs, .power] s s.schedule :=
  (State.schedule_keeps (List.Subset.refl _) (Keeps.refl s)).same

/-- The schedule leaves the items of a phase and their order. -/
theorem State.schedule_ids (s : State) : s.schedule.power.items.map (fun x => x.id) = s.power.items.map (fun x => x.id) := by
  refine scheduleLoop_induction (P := fun t => t.power.items.map (fun x => x.id) = s.power.items.map (fun x => x.id)) rfl
    (fun t i _ f hf ht => ?_) fun _ _ _ _ ht => ht
  rw [← ht]
  simp only [State.modItem, List.map_map]
  exact List.map_congr_left fun x _ => by simp only [Function.comp]; split <;> simp [hf]

/-- The item named `id` after items named `i` are changed. -/
theorem State.itemSt_modItem (s : State) (i id : Nat) {f : ItemSt → ItemSt} (hf : ∀ x, (f x).id = x.id) :
    (s.modItem i f).itemSt id = if id = i then (s.itemSt id).map f else s.itemSt id := by
  have hid (x : ItemSt) : (if x.id == i then f x else x).id = x.id := by split <;> simp [hf]
  have hmap : (s.modItem i f).itemSt id = (s.itemSt id).map fun x => if x.id == i then f x else x := by
    unfold State.itemSt State.modItem
    simp only [List.find?_map, Function.comp_def, hid]
  rw [hmap]
  cases hx : s.itemSt id with
  | none => simp
  | some x =>
    have hx : x.id = id := by simpa using List.find?_some hx
    by_cases hi : id = i <;> simp [hx, hi]

/-- The schedule does not touch an item that is not ready. -/
theorem State.itemSt_schedule {s : State} {id : Nat} (h : ∀ i, i.id = id → s.itemReady i = false) : s.schedule.itemSt id = s.itemSt id := by
  refine scheduleLoop_induction (P := fun t => t.itemSt id = s.itemSt id) rfl (fun t i hi f hf ht => ?_) fun _ _ _ _ ht => ht
  have hready : s.itemReady i = true := (List.mem_filter.1 (List.mem_of_mem_take hi)).2
  have hne : id ≠ i.id := fun hid => by rw [h i hid.symm] at hready; exact Bool.noConfusion hready
  rw [State.itemSt_modItem _ _ _ hf, if_neg hne, ht]

/-- An item that is done stays as it is. -/
theorem State.itemSt_schedule_of_done {s : State} {id : Nat} {x : ItemSt} (hx : s.itemSt id = some x) (hdone : x.done = true) :
    s.schedule.itemSt id = some x := by
  rw [State.itemSt_schedule fun i hi => ?_, hx]
  unfold State.itemReady
  rw [hi, hx]
  simp [hdone]

theorem State.schedule_phase {s : State} (h : s.regsOk) : s.schedule.phase = s.phase :=
  (State.schedule_writes h).get_off _ (by unfold schedFields; simp [F.MGT_PERIOD_STAT_PHASE]; omega)

theorem State.loadItems_same (s : State) (phase : Nat) : Same [.power] s (s.loadItems phase) :=
  (State.loadItems_keeps (List.Subset.refl _) (Keeps.refl s) phase).same

theorem State.loadItems_ids (s : State) (phase : Nat) :
    (s.loadItems phase).power.items.map (fun x => x.id) = (s.planItems phase).map (fun i => i.id) := by
  simp only [State.loadItems, List.map_map]
  rfl

theorem State.planItems_congr {s t : State} (h : t.wb = s.wb) (phase : Nat) : t.planItems phase = s.planItems phase := by
  rw [State.planItems, h, State.planItems]

theorem State.msi_same (s : State) (fn1 : Bool) (v : Nat) : Same [.start, .sent] s (s.msi fn1 v) :=
  (State.msi_keeps (List.Subset.refl _) (Keeps.refl s) fn1 v).same

theorem State.on_congr {s t : State} {f : Field} (h : t.get f = s.get f) : t.on f = s.on f := by rw [State.on, h, State.on]

end Sys2Proof.Machine
end

section
/-! SUPPORT. O15: a work item ends. -/

namespace Sys2Proof.Machine

theorem State.itemSt_endItem {s : State} {id : Nat} {x : ItemSt} (hx : s.itemSt id = some x) :
    (s.endItem id).itemSt id = some { x with running := false, done := true, reserve := 0 } := by
  have h := s.itemSt_modItem id id (f := fun x => { x with running := false, done := true, reserve := 0 }) fun _ => rfl
  rw [if_pos rfl, hx] at h
  exact h

/-- With an item that ends every item is done where the others were. -/
theorem State.itemsDone_endItem {s : State} {id : Nat} (h : ∀ y ∈ s.power.items, y.id = id ∨ y.done = true) : (s.endItem id).itemsDone = true := by
  simp only [State.itemsDone, State.endItem, State.modItem, List.all_map, List.all_eq_true, Function.comp_apply]
  intro y hy
  split
  · rfl
  · next hne => exact (h y hy).resolve_left (by simpa using hne)

/-- What the end of an item and the schedule write, and the phase. -/
def itemEndFields (g : Field) : Prop := schedFields g ∨ g = F.MGT_PERIOD_STAT_PHASE

theorem itemEndFields_frame : ∀ g, itemEndFields g → (g.off = 0x10008 ∨ g.off = 0x10028) ∨ g ∈ [F.MGT_PERIOD_STAT_PHASE] := by
  rintro g (h | h)
  · exact .inl h
  · exact .inr (by simp [h])

/-- Settles O15: the item that ends is done before the Timetable chooses again, and what is done is not chosen. -/
theorem completedItemIsDone : Obligations.CompletedItemIsDone := by
  intro id x s hwf hrun hper hx hxr
  have hok := State.regsOk_of_memWf hwf
  have hitem := State.itemSt_endItem hx
  have hend : (s.endItem id).regs = s.regs := rfl
  have hsame : Same [.regs, .power] s (s.endItem id) := (State.endItem_keeps (by decide) (Keeps.refl s) id).same
  have hexec : exec (.workItemComplete id) s =
      if (s.endItem id).phase == 4 && (s.endItem id).itemsDone then .next ((s.endItem id).setPhase 5) else .next (s.endItem id).schedule := by
    show execWorkItemComplete id s = _
    simp [execWorkItemComplete, hx, hxr, State.inPeriod_of hrun hper]
  have hdone := State.itemsDone_endItem (s := s) (id := id)
  have hphase : (s.endItem id).phase = s.phase := State.phase_congr hend
  have hok1 : (s.endItem id).regsOk := hok
  rw [hexec]
  generalize s.endItem id = u at *
  by_cases hlast : (u.phase == 4 && u.itemsDone) = true
  · rw [if_pos hlast]
    rw [Bool.and_eq_true, beq_iff_eq] at hlast
    refine ⟨_, rfl, hitem, fun _ _ => State.phase_setPhase hok1 (by decide), fun hne => absurd (hphase ▸ hlast.1) hne, ?_,
      hsame.trans ((State.set_same _ _ _).mono (by decide))⟩
    exact (((Writes.refl hok).of_regs hend).set _ _ (.inr rfl)).frame itemEndFields_frame
  · rw [if_neg hlast]
    refine ⟨_, rfl, State.itemSt_schedule_of_done hitem rfl, fun h4 hall => ?_, fun _ => (State.schedule_phase hok1).trans hphase, ?_,
      hsame.trans u.schedule_same⟩
    · exact absurd (by simp [hphase, h4, hdone hall]) hlast
    · exact (((Writes.refl hok).of_regs hend).trans ((State.schedule_writes hok1).mono fun _ => .inl)).frame itemEndFields_frame

end Sys2Proof.Machine
end

section
/-! SUPPORT. The rings at the start of ingest (R354, R355, R357). -/

namespace Sys2Proof.Machine

/-- The fields of ring r's registers. -/
def ringFields (r : RingIx) (g : Field) : Prop := 0x200 + r.val * 0x20 ≤ g.off ∧ g.off < 0x220 + r.val * 0x20

theorem ringFields_apart {r q : RingIx} (h : r ≠ q) {f g : Field} (hf : ringFields r f) (hg : ringFields q g) : f.apart g := by
  refine .inl fun ho => h (Fin.ext ?_)
  unfold ringFields at hf hg
  omega

theorem State.ring_setRing_self (s : State) (r : RingIx) (x : RingSt) : (s.setRing r x).ring r = x := by
  simp [State.ring, State.setRing]

theorem State.ring_setRing_ne (s : State) {r q : RingIx} (x : RingSt) (h : r ≠ q) : (s.setRing r x).ring q = s.ring q := by
  have hv : r.val ≠ q.val := fun e => h (Fin.ext e)
  simp [State.ring, State.setRing, hv]

theorem State.ring_congr {s t : State} (h : t.period = s.period) (r : RingIx) : t.ring r = s.ring r := by
  rw [State.ring, h, State.ring]

/-- Between `s` and `t` ring r and its registers are as they were. -/
structure RingKept (r : RingIx) (s t : State) : Prop where
  get : ∀ f : Field, f.lo + f.w ≤ 64 → ringFields r f → t.get f = s.get f
  ring : t.ring r = s.ring r
  cxlUp : t.start.cxlUp = s.start.cxlUp
  sent : s.sent <:+ t.sent

theorem RingKept.refl (r : RingIx) (s : State) : RingKept r s s := ⟨fun _ _ _ => rfl, rfl, rfl, List.suffix_refl _⟩

theorem RingKept.trans {r : RingIx} {s t u : State} (h : RingKept r s t) (k : RingKept r t u) : RingKept r s u :=
  ⟨fun f hf hr => (k.get f hf hr).trans (h.get f hf hr), k.ring.trans h.ring, k.cxlUp.trans h.cxlUp, h.sent.trans k.sent⟩

theorem RingKept.of_writes {r : RingIx} {W : Field → Prop} {s t : State} (h : Writes W s t) (hW : ∀ g, W g → ¬ (0x200 ≤ g.off ∧ g.off < 0x300))
    (hring : t.ring r = s.ring r) (k : Raises s t) : RingKept r s t := by
  refine ⟨fun f hf hr => h.get f hf fun g hg => .inl fun ho => hW g hg ?_, hring, ?_, k.sent⟩
  · unfold ringFields at hr
    omega
  · rw [k.start]

/-- The fields of ring r, all of them read by name. -/
theorem RingKept.fields {r : RingIx} {s t : State} (k : RingKept r s t) :
    t.get (F.MGT_RING_BASE_BASE r.val) = s.get (F.MGT_RING_BASE_BASE r.val) ∧
      t.get (F.MGT_RING_CTL_LOG2_REC r.val) = s.get (F.MGT_RING_CTL_LOG2_REC r.val) ∧
      t.get (F.MGT_RING_CONS_CONS r.val) = s.get (F.MGT_RING_CONS_CONS r.val) ∧
      t.get (F.MGT_RING_STAT_LOST r.val) = s.get (F.MGT_RING_STAT_LOST r.val) ∧
      t.get (F.MGT_RING_STAT_RING_BAD r.val) = s.get (F.MGT_RING_STAT_RING_BAD r.val) ∧
      t.get (F.MGT_RING_STAT_OVERRUN r.val) = s.get (F.MGT_RING_STAT_OVERRUN r.val) ∧
      t.get (F.MGT_RING_STAT_ACTIVE r.val) = s.get (F.MGT_RING_STAT_ACTIVE r.val) := by
  refine ⟨k.get _ ?_ ?_, k.get _ ?_ ?_, k.get _ ?_ ?_, k.get _ ?_ ?_, k.get _ ?_ ?_, k.get _ ?_ ?_, k.get _ ?_ ?_⟩ <;>
    simp [ringFields, F.MGT_RING_BASE_BASE, F.MGT_RING_CTL_LOG2_REC, F.MGT_RING_CONS_CONS, F.MGT_RING_STAT_LOST, F.MGT_RING_STAT_RING_BAD,
      F.MGT_RING_STAT_OVERRUN, F.MGT_RING_STAT_ACTIVE]

theorem RingKept.enabled {r : RingIx} {s t : State} (k : RingKept r s t) : t.ringEnabled r = s.ringEnabled r := by
  have hen : t.get (F.MGT_RING_BASE_ENABLE r.val) = s.get (F.MGT_RING_BASE_ENABLE r.val) := by
    refine k.get _ ?_ ?_ <;> simp [ringFields, F.MGT_RING_BASE_ENABLE]
  have hrec : t.get (F.MGT_RING_CTL_REC_SIZE r.val) = s.get (F.MGT_RING_CTL_REC_SIZE r.val) := by
    refine k.get _ ?_ ?_ <;> simp [ringFields, F.MGT_RING_CTL_REC_SIZE]
  unfold State.ringEnabled State.on
  rw [hen, hrec, k.cxlUp, k.fields.2.1]

/-- The taking of ring r reads of the state before it what this ring and its registers hold. -/
theorem RingKept.taken_of {r : RingIx} {s u t : State} (k : RingKept r s u) {prod : Nat} (h : u.ringTaken r prod t) : s.ringTaken r prod t := by
  obtain ⟨hbase, hlog, hcons, hlost, -, -, -⟩ := k.fields
  unfold State.ringTaken at h
  rw [k.ring, k.enabled, hbase, hlog, hcons, hlost] at h
  exact h

/-- The taking of ring r stays visible while the ring is kept. -/
theorem State.ringTaken.mono {r : RingIx} {s t u : State} {prod : Nat} (h : s.ringTaken r prod t) (k : RingKept r t u) : s.ringTaken r prod u := by
  obtain ⟨-, -, hcons, hlost, hbad, hover, hact⟩ := k.fields
  obtain ⟨h1, h2, h3, h4, h5, h6, h7, h8⟩ := h
  unfold State.ringTaken
  rw [k.ring, hcons, hlost, hbad, hover, hact]
  exact ⟨h1, h2, fun he => k.sent.subset (h3 he), h4, h5, h6, h7, h8⟩

theorem State.setRing_same (s : State) (r : RingIx) (x : RingSt) : Same [.period] s (s.setRing r x) :=
  (State.setRing_keeps (List.Subset.refl _) (Keeps.refl s) r x).same

theorem Raises.setRing {s t : State} (h : Raises s t) (r : RingIx) (x : RingSt) : Raises s (t.setRing r x) :=
  h.trans (.of_same (State.setRing_same t r x))

theorem State.ringStart_raises (s : State) (r : RingIx) (prod : Nat) : Raises s (s.ringStart r prod) := by
  unfold State.ringStart
  extract_lets l cons x s0 s1 s2
  have h0 : Raises s s0 := .ite (s.send_raises _) (.refl s)
  have h1 : Raises s s1 := (h0.setRing r x).set _ _
  have h2 : Raises s s2 := .ite (((h1.cause _ _ _).set _ _).set _ _) h1
  exact .ite (h1.set _ _) (.ite (h1.cause _ _ _) (.ite h2 ((h2.setRing r _).set _ _)))

theorem Writes.setRing {W : Field → Prop} {s t : State} (h : Writes W s t) (r : RingIx) (x : RingSt) : Writes W s (t.setRing r x) :=
  h.of_same (State.setRing_same t r x)

theorem State.ringStart_writes {s : State} (h : s.regsOk) (r : RingIx) (prod : Nat) : Writes (ringFields r) s (s.ringStart r prod) := by
  have hcons : ringFields r (F.MGT_RING_CONS_CONS r.val) := by simp [ringFields, F.MGT_RING_CONS_CONS]
  have hstat (f : Field) (hf : f.off = 0x218 + r.val * 0x20) : ringFields r f := by unfold ringFields; omega
  unfold State.ringStart
  extract_lets l cons x s0 s1 s2
  have h0 : Writes (ringFields r) s s0 := .ite ((Writes.refl h).of_same (s.send_same _)) (.refl h)
  have h1 : Writes (ringFields r) s s1 := (h0.setRing r x).set _ _ hcons
  have h2 : Writes (ringFields r) s s2 := .ite (((h1.cause _ _ _ (hstat _ rfl)).set _ _ (hstat _ rfl)).set _ _ hcons) h1
  exact .ite (h1.set _ _ (hstat _ rfl)) (.ite (h1.cause _ _ _ (hstat _ rfl)) (.ite h2 ((h2.setRing r _).set _ _ (hstat _ rfl))))

@[simp] theorem State.ring_set (s : State) (f : Field) (x : Nat) (q : RingIx) : (s.set f x).ring q = s.ring q := State.ring_congr (State.set_period s f x) q

@[simp] theorem State.ring_bump (s : State) (f : Field) (n : Nat) (q : RingIx) : (s.bump f n).ring q = s.ring q :=
  State.ring_congr (State.bump_period s f n) q

@[simp] theorem State.ring_ringFlag (s : State) (f : Field) (q : RingIx) : (s.ringFlag f).ring q = s.ring q :=
  State.ring_congr ((State.ringFlag_keeps (L := [.regs, .start, .sent]) (List.Subset.refl _) (Keeps.refl s) f).same.period (by decide)) q

@[simp] theorem State.ring_send (s : State) (o : Out) (q : RingIx) : (s.send o).ring q = s.ring q := State.ring_congr (State.send_period s o) q

theorem State.ringStart_ring_ne (s : State) {r q : RingIx} (h : r ≠ q) (prod : Nat) : (s.ringStart r prod).ring q = s.ring q := by
  unfold State.ringStart
  extract_lets l cons x s0 s1 s2
  have h0 : s0.ring q = s.ring q := by unfold s0; split <;> simp
  have h1 : s1.ring q = s.ring q := by unfold s1; rw [State.ring_set, State.ring_setRing_ne _ _ h, h0]
  have h2 : s2.ring q = s.ring q := by unfold s2; split <;> simp [h1]
  clear_value s0 s1 s2
  split
  · simp [h1]
  · split
    · simp [h1]
    · split
      · exact h2
      · rw [State.ring_set, State.ring_setRing_ne _ _ h, h2]

/-- The taking of one ring leaves the others. -/
theorem State.ringStart_kept {s : State} (h : s.regsOk) {r q : RingIx} (hne : q ≠ r) (prod : Nat) : RingKept r s (s.ringStart q prod) :=
  have k := s.ringStart_raises q prod
  ⟨fun f hf hr => (State.ringStart_writes h q prod).get f hf fun _ hg => ringFields_apart hne.symm hr hg, s.ringStart_ring_ne hne prod,
    by rw [k.start], k.sent⟩

/-! One ring is taken. -/

/-- CONS of ring r at the start of ingest: 0 where it was enabled anew. -/
def State.ringCons (s : State) (r : RingIx) : Nat := if (s.ring r).zeroCons then 0 else s.get (F.MGT_RING_CONS_CONS r.val)

/-- Ring r as it is set up at the start of ingest, not yet read. -/
def State.ringSetUp (s : State) (r : RingIx) (prod : Nat) : RingSt :=
  { base := s.get (F.MGT_RING_BASE_BASE r.val) * 4096, enable := s.ringEnabled r
    recBytes := 64 * 2 ^ s.get (F.MGT_RING_CTL_REC_SIZE r.val), log2 := s.get (F.MGT_RING_CTL_LOG2_REC r.val), target := prod
    reading := false, zeroCons := false }

/-- PROD of an enabled ring was read, the ring is set up. -/
def State.ringOpened (s : State) (r : RingIx) (prod : Nat) : State :=
  ((if s.ringEnabled r then s.send (.hostRead (s.get (F.MGT_RING_BASE_BASE r.val) * 4096) 8) else s).setRing r (s.ringSetUp r prod)).set
    (F.MGT_RING_CONS_CONS r.val) (s.ringCons r)

/-- Ring r has lost what was written over. -/
def State.ringOverrun (s : State) (r : RingIx) (lost cons : Nat) : State :=
  ((s.ringFlag (F.MGT_RING_STAT_OVERRUN r.val)).bump (F.MGT_RING_STAT_LOST r.val) lost).set (F.MGT_RING_CONS_CONS r.val) cons

/-- What an enabled ring has to read, without what it lost. -/
def State.ringPending (s : State) (r : RingIx) (prod : Nat) : State :=
  if 2 ^ s.get (F.MGT_RING_CTL_LOG2_REC r.val) < prod - s.ringCons r then
    (s.ringOpened r prod).ringOverrun r (prod - s.ringCons r - 2 ^ s.get (F.MGT_RING_CTL_LOG2_REC r.val))
      (prod - 2 ^ s.get (F.MGT_RING_CTL_LOG2_REC r.val))
  else s.ringOpened r prod

theorem State.ringStart_eq (s : State) (r : RingIx) (prod : Nat) :
    s.ringStart r prod =
      if !s.ringEnabled r then (s.ringOpened r prod).set (F.MGT_RING_STAT_ACTIVE r.val) 0
      else if prod < s.ringCons r then (s.ringOpened r prod).ringFlag (F.MGT_RING_STAT_RING_BAD r.val)
      else if s.ringCons r == prod then s.ringPending r prod
      else ((s.ringPending r prod).setRing r { s.ringSetUp r prod with reading := true }).set (F.MGT_RING_STAT_ACTIVE r.val) 1 := rfl

theorem State.ringCons_lt (s : State) (r : RingIx) : s.ringCons r < 2 ^ 64 := by
  unfold State.ringCons
  split
  · decide
  · exact BitVec.isLt _

section
variable {s : State} (h : s.regsOk) (r : RingIx) (prod : Nat)

theorem State.ringOpened_ring : (s.ringOpened r prod).ring r = s.ringSetUp r prod := by
  rw [State.ringOpened, State.ring_set, State.ring_setRing_self]

theorem State.ringOpened_raises : Raises s (s.ringOpened r prod) :=
  ((Raises.ite (s.send_raises _) (.refl s)).setRing r _).set _ _

/-- PROD of an enabled ring is read at the ring's base. -/
theorem State.ringOpened_sent (hen : s.ringEnabled r = true) :
    .hostRead (s.get (F.MGT_RING_BASE_BASE r.val) * 4096) 8 ∈ (s.ringOpened r prod).sent := by
  rw [State.ringOpened, if_pos hen]
  exact List.mem_cons_self

include h

theorem State.ringOpened_writes : Writes (fun g => g = F.MGT_RING_CONS_CONS r.val) s (s.ringOpened r prod) :=
  ((Writes.ite ((Writes.refl h).of_same (s.send_same _)) (.refl h)).setRing r _).set _ _ rfl

theorem State.ringOpened_stat {f : Field} (hf : f.lo + f.w ≤ 64) (ho : f.off = 0x218 + r.val * 0x20) :
    (s.ringOpened r prod).get f = s.get f :=
  (State.ringOpened_writes h r prod).get f hf fun g hg => .inl (by rw [ho, hg]; simp [F.MGT_RING_CONS_CONS])

theorem State.ringOpened_cons : (s.ringOpened r prod).get (F.MGT_RING_CONS_CONS r.val) = s.ringCons r :=
  State.get_set _ _ (((Writes.ite ((Writes.refl h).of_same (s.send_same _)) (.refl h)).setRing r _ : Writes (fun _ => False) s _)).regsOk
    (by simp [F.MGT_RING_CONS_CONS]) (s.ringCons_lt r)

/-- CONS, the flag and the count of an overrun ring. -/
theorem State.ringOverrun_fields (lost : Nat) {cons : Nat} (hc : cons < 2 ^ 64) :
    (s.ringOverrun r lost cons).regsOk ∧ (s.ringOverrun r lost cons).get (F.MGT_RING_CONS_CONS r.val) = cons ∧
      (s.ringOverrun r lost cons).get (F.MGT_RING_STAT_OVERRUN r.val) = 1 ∧
      (s.ringOverrun r lost cons).get (F.MGT_RING_STAT_LOST r.val) = min (2 ^ 32 - 1) (s.get (F.MGT_RING_STAT_LOST r.val) + lost) := by
  have hcons (f : Field) (ho : f.off = 0x218 + r.val * 0x20) : f.apart (F.MGT_RING_CONS_CONS r.val) :=
    .inl (by rw [ho]; simp [F.MGT_RING_CONS_CONS])
  have hlost : (F.MGT_RING_STAT_LOST r.val).apart (F.MGT_RING_STAT_OVERRUN r.val) :=
    .inr (.inr (by simp [F.MGT_RING_STAT_LOST, F.MGT_RING_STAT_OVERRUN]))
  have hover : (F.MGT_RING_STAT_OVERRUN r.val).apart (F.MGT_RING_STAT_LOST r.val) :=
    .inr (.inl (by simp [F.MGT_RING_STAT_LOST, F.MGT_RING_STAT_OVERRUN]))
  have h1 := (Writes.refl h).cause (F.MGT_RING_STAT_OVERRUN r.val) false 2 (W := fun g => g = F.MGT_RING_STAT_OVERRUN r.val) rfl
  have hflag := State.get_cause h (F.MGT_RING_STAT_OVERRUN r.val) false 2 rfl (by simp [F.MGT_RING_STAT_OVERRUN])
  have hsame := h1.get (F.MGT_RING_STAT_LOST r.val) (by simp [F.MGT_RING_STAT_LOST]) fun g hg => hg ▸ hlost
  unfold State.ringOverrun State.ringFlag
  generalize s.cause (F.MGT_RING_STAT_OVERRUN r.val) false 2 = u at *
  have h2 : (u.bump (F.MGT_RING_STAT_LOST r.val) lost).regsOk := State.set_regsOk _ _ _ h1.regsOk
  refine ⟨State.set_regsOk _ _ _ h2, State.get_set _ _ h2 (by simp [F.MGT_RING_CONS_CONS]) hc, ?_, ?_⟩
  · rw [State.get_set_ne _ _ _ h2 (hcons _ rfl) (by simp [F.MGT_RING_STAT_OVERRUN]), State.bump,
      State.get_set_ne _ _ _ h1.regsOk hover (by simp [F.MGT_RING_STAT_OVERRUN]), hflag]
  · rw [State.get_set_ne _ _ _ h2 (hcons _ rfl) (by simp [F.MGT_RING_STAT_LOST]), State.bump,
      State.get_set _ _ h1.regsOk (by simp [F.MGT_RING_STAT_LOST]) (by simp only [F.MGT_RING_STAT_LOST, Nat.min_def]; split <;> omega), hsame]
    rfl

/-- CONS, the flag and the count of a ring that has something to read. -/
theorem State.ringPending_fields (hp : prod < 2 ^ 64) :
    (s.ringPending r prod).regsOk ∧
      (2 ^ s.get (F.MGT_RING_CTL_LOG2_REC r.val) < prod - s.ringCons r →
        (s.ringPending r prod).get (F.MGT_RING_STAT_OVERRUN r.val) = 1 ∧
          (s.ringPending r prod).get (F.MGT_RING_CONS_CONS r.val) = prod - 2 ^ s.get (F.MGT_RING_CTL_LOG2_REC r.val) ∧
          (s.ringPending r prod).get (F.MGT_RING_STAT_LOST r.val) =
            min (2 ^ 32 - 1) (s.get (F.MGT_RING_STAT_LOST r.val) + (prod - s.ringCons r - 2 ^ s.get (F.MGT_RING_CTL_LOG2_REC r.val)))) ∧
      (prod - s.ringCons r ≤ 2 ^ s.get (F.MGT_RING_CTL_LOG2_REC r.val) →
        (s.ringPending r prod).get (F.MGT_RING_CONS_CONS r.val) = s.ringCons r ∧
          (s.ringPending r prod).get (F.MGT_RING_STAT_LOST r.val) = s.get (F.MGT_RING_STAT_LOST r.val)) := by
  have ho := (State.ringOpened_writes h r prod).regsOk
  have hlost := State.ringOpened_stat h r prod (f := F.MGT_RING_STAT_LOST r.val) (by simp [F.MGT_RING_STAT_LOST]) rfl
  unfold State.ringPending
  split
  · next hover =>
    obtain ⟨h1, h2, h3, h4⟩ := State.ringOverrun_fields ho r (prod - s.ringCons r - 2 ^ s.get (F.MGT_RING_CTL_LOG2_REC r.val))
      (cons := prod - 2 ^ s.get (F.MGT_RING_CTL_LOG2_REC r.val)) (Nat.lt_of_le_of_lt (Nat.sub_le _ _) hp)
    rw [hlost] at h4
    exact ⟨h1, fun _ => ⟨h3, h2, h4⟩, fun hle => absurd hle (Nat.not_le.2 hover)⟩
  · next hover => exact ⟨ho, fun hlt => absurd hlt hover, fun _ => ⟨State.ringOpened_cons h r prod, hlost⟩⟩

omit h

theorem State.ringPending_ring : (s.ringPending r prod).ring r = s.ringSetUp r prod := by
  unfold State.ringPending State.ringOverrun
  split
  · rw [State.ring_set, State.ring_bump, State.ring_ringFlag, State.ringOpened_ring]
  · exact State.ringOpened_ring r prod

theorem State.ringPending_raises : Raises (s.ringOpened r prod) (s.ringPending r prod) :=
  .ite ((((Raises.refl _).cause _ _ _).set _ _).set _ _) (.refl _)

end

/-- ACTIVE is the last that the taking of a ring writes, its other fields are as before. -/
theorem State.get_setActive {u : State} (hu : u.regsOk) (r : RingIx) (x : Nat) (hx : x < 2) :
    (u.set (F.MGT_RING_STAT_ACTIVE r.val) x).get (F.MGT_RING_STAT_ACTIVE r.val) = x ∧
      (u.set (F.MGT_RING_STAT_ACTIVE r.val) x).get (F.MGT_RING_STAT_OVERRUN r.val) = u.get (F.MGT_RING_STAT_OVERRUN r.val) ∧
      (u.set (F.MGT_RING_STAT_ACTIVE r.val) x).get (F.MGT_RING_STAT_LOST r.val) = u.get (F.MGT_RING_STAT_LOST r.val) ∧
      (u.set (F.MGT_RING_STAT_ACTIVE r.val) x).get (F.MGT_RING_CONS_CONS r.val) = u.get (F.MGT_RING_CONS_CONS r.val) := by
  refine ⟨State.get_set _ _ hu (by simp [F.MGT_RING_STAT_ACTIVE]) hx, State.get_set_ne _ _ _ hu (.inr (.inr ?_)) ?_,
    State.get_set_ne _ _ _ hu (.inr (.inr ?_)) ?_, State.get_set_ne _ _ _ hu (.inl ?_) ?_⟩ <;>
    simp [F.MGT_RING_STAT_ACTIVE, F.MGT_RING_STAT_OVERRUN, F.MGT_RING_STAT_LOST, F.MGT_RING_CONS_CONS]

/-- PROD of one ring is read at the start of ingest (R355, R357). -/
theorem State.ringStart_taken {s : State} (h : s.regsOk) (r : RingIx) {prod : Nat} (hp : prod < 2 ^ 64) :
    s.ringTaken r prod (s.ringStart r prod) := by
  have hok := (State.ringOpened_writes h r prod).regsOk
  have hring := s.ringOpened_ring r prod
  have hring' := State.ringPending_ring (s := s) r prod
  have hcons := State.ringOpened_cons h r prod
  have hlost := State.ringOpened_stat h r prod (f := F.MGT_RING_STAT_LOST r.val) (by simp [F.MGT_RING_STAT_LOST]) rfl
  have hsent := State.ringOpened_sent (s := s) r prod
  have hsent' := (State.ringPending_raises (s := s) r prod).sent
  obtain ⟨hok', hover, hroom⟩ := State.ringPending_fields h r prod hp
  rw [State.ringStart_eq]
  unfold State.ringTaken
  rw [← State.ringCons]
  generalize s.ringOpened r prod = u at *
  generalize s.ringPending r prod = v at *
  intro cons room
  cases hen : s.ringEnabled r with
  | false =>
    obtain ⟨hact, -, hl, hc⟩ := State.get_setActive hok r 0 (by decide)
    rw [Bool.not_false, if_pos rfl, State.ring_set, hring, hl, hc]
    exact ⟨rfl, rfl, nofun, nofun, fun _ => hact, nofun, nofun, fun _ => ⟨hcons, hlost⟩⟩
  | true =>
    rw [Bool.not_true, if_neg Bool.noConfusion]
    have hsentv := hsent'.subset (hsent hen)
    rcases Nat.lt_trichotomy prod cons with hlt | heq | hgt
    · have hw := (Writes.refl hok).cause (F.MGT_RING_STAT_RING_BAD r.val) false 2 (W := fun g => g = F.MGT_RING_STAT_RING_BAD r.val) rfl
      have hbad := State.get_cause hok (F.MGT_RING_STAT_RING_BAD r.val) false 2 rfl (by simp [F.MGT_RING_STAT_RING_BAD])
      have hc : (u.ringFlag (F.MGT_RING_STAT_RING_BAD r.val)).get (F.MGT_RING_CONS_CONS r.val) = cons :=
        (hw.get _ (by simp [F.MGT_RING_CONS_CONS]) fun g hg =>
          .inl (by simp [hg, F.MGT_RING_CONS_CONS, F.MGT_RING_STAT_RING_BAD])).trans hcons
      have hl : (u.ringFlag (F.MGT_RING_STAT_RING_BAD r.val)).get (F.MGT_RING_STAT_LOST r.val) = s.get (F.MGT_RING_STAT_LOST r.val) :=
        (hw.get _ (by simp [F.MGT_RING_STAT_LOST]) fun g hg =>
          .inr (.inr (by simp [hg, F.MGT_RING_STAT_LOST, F.MGT_RING_STAT_RING_BAD]))).trans hlost
      rw [if_pos hlt, State.ring_ringFlag, hring]
      refine ⟨rfl, by simp [State.ringSetUp, Nat.le_of_lt hlt], fun _ => (u.cause_raises _ _ _).sent.subset (hsent hen),
        fun _ hgt => absurd hgt (Nat.lt_asymm hlt), nofun, fun _ _ => hbad, fun _ hroom => ?_, fun _ => ⟨hc, hl⟩⟩
      rw [Nat.sub_eq_zero_of_le (Nat.le_of_lt hlt)] at hroom
      exact absurd hroom (Nat.not_lt_zero _)
    · rw [if_neg (Nat.not_lt.2 (Nat.le_of_eq heq.symm)), if_pos (beq_iff_eq.2 heq.symm), hring']
      exact ⟨rfl, by simp [State.ringSetUp, Nat.le_of_eq heq], fun _ => hsentv, fun _ hgt => absurd heq (Nat.ne_of_gt hgt), nofun,
        fun _ hlt => absurd heq (Nat.ne_of_lt hlt), fun _ hlt => hover hlt, fun hle => hroom (hle.resolve_left nofun)⟩
    · obtain ⟨hact, ho, hl, hc⟩ := State.get_setActive (u := v.setRing r { s.ringSetUp r prod with reading := true })
        ((Writes.refl hok').setRing r _ : Writes (fun _ => False) v _).regsOk r 1 (by decide)
      rw [if_neg (Nat.lt_asymm hgt), if_neg (by simpa using Nat.ne_of_lt hgt), State.ring_set, State.ring_setRing_self, hl, hc, ho]
      exact ⟨rfl, by simp [hgt], fun _ => hsentv, fun _ _ => hact, nofun, fun _ hlt => absurd hlt (Nat.lt_asymm hgt),
        fun _ hlt => hover hlt, fun hle => hroom (hle.resolve_left nofun)⟩

/-! All rings are taken. -/

/-- PROD of each ring of a list is read. -/
def State.ringsStart (s : State) (l : List RingIx) (prods : Vector U64 8) : State := s.forEach l fun s r => s.ringStart r (prods[r]).toNat

theorem State.ringsStart_cons (s : State) (q : RingIx) (l : List RingIx) (prods : Vector U64 8) :
    s.ringsStart (q :: l) prods = (s.ringStart q (prods[q]).toNat).ringsStart l prods := rfl

theorem State.ringsStart_regsOk {s : State} (h : s.regsOk) (l : List RingIx) (prods : Vector U64 8) : (s.ringsStart l prods).regsOk :=
  State.forEach_induction (P := State.regsOk) h fun _ q _ hok => (State.ringStart_writes hok q _).regsOk

theorem State.ringsStart_kept {s : State} (h : s.regsOk) {r : RingIx} {l : List RingIx} (hr : r ∉ l) (prods : Vector U64 8) :
    RingKept r s (s.ringsStart l prods) := by
  induction l generalizing s with
  | nil => exact .refl r s
  | cons q l ih =>
    obtain ⟨hne, hl⟩ := not_or.1 (mt List.mem_cons.2 hr)
    exact (State.ringStart_kept h (Ne.symm hne) _).trans (ih (State.ringStart_writes h q _).regsOk hl)

/-- Each ring of a list is taken as if it were the only one. -/
theorem State.ringsStart_taken {s : State} (h : s.regsOk) {l : List RingIx} (hl : l.Nodup) (prods : Vector U64 8) {r : RingIx} (hr : r ∈ l) :
    s.ringTaken r (prods[r]).toNat (s.ringsStart l prods) := by
  induction l generalizing s with
  | nil => exact absurd hr List.not_mem_nil
  | cons q l ih =>
    obtain ⟨hq, hl⟩ := List.nodup_cons.1 hl
    have hok := (State.ringStart_writes h q (prods[q]).toNat).regsOk
    rw [State.ringsStart_cons]
    by_cases hrq : r = q
    · subst hrq
      exact (State.ringStart_taken h r (BitVec.isLt _)).mono (State.ringsStart_kept hok hq prods)
    · exact (State.ringStart_kept h (Ne.symm hrq) _).taken_of (ih hok hl ((List.mem_cons.1 hr).resolve_left hrq))

theorem State.ringsStart_raises (s : State) (l : List RingIx) (prods : Vector U64 8) : Raises s (s.ringsStart l prods) :=
  State.forEach_induction (P := Raises s) (.refl s) fun t q _ ht => ht.trans (t.ringStart_raises q _)

theorem State.ringsStart_writes {s : State} (h : s.regsOk) (l : List RingIx) (prods : Vector U64 8) :
    Writes (fun g => ringWin g.off) s (s.ringsStart l prods) := by
  refine State.forEach_induction (P := Writes _ s) (.refl h) fun t q _ ht => ht.trans ((State.ringStart_writes ht.regsOk q _).mono ?_)
  intro g hg
  unfold ringFields at hg
  unfold ringWin
  omega

theorem State.ringsStart_same (s : State) (l : List RingIx) (prods : Vector U64 8) :
    Same [.regs, .start, .period, .sent] s (s.ringsStart l prods) :=
  (State.forEach_keeps _ (fun _ q h => State.ringStart_keeps (List.Subset.refl _) h q _) l (Keeps.refl s)).same

theorem State.ringFlag_same (s : State) (f : Field) : Same [.regs, .start, .sent] s (s.ringFlag f) :=
  (State.ringFlag_keeps (List.Subset.refl _) (Keeps.refl s) f).same

theorem State.ringOpened_ttFault (s : State) (r : RingIx) (prod : Nat) : (s.ringOpened r prod).period.ttFault = s.period.ttFault := by
  unfold State.ringOpened
  rw [State.set_period]
  split <;> rfl

theorem State.ringPending_ttFault (s : State) (r : RingIx) (prod : Nat) : (s.ringPending r prod).period.ttFault = s.period.ttFault := by
  unfold State.ringPending State.ringOverrun
  split
  · rw [State.set_period, State.bump_period, (State.ringFlag_same _ _).period (by decide), State.ringOpened_ttFault]
  · exact s.ringOpened_ttFault r prod

theorem State.ringStart_ttFault (s : State) (r : RingIx) (prod : Nat) : (s.ringStart r prod).period.ttFault = s.period.ttFault := by
  rw [State.ringStart_eq]
  split
  · rw [State.set_period, State.ringOpened_ttFault]
  · split
    · rw [(State.ringFlag_same _ _).period (by decide), State.ringOpened_ttFault]
    · split
      · exact s.ringPending_ttFault r prod
      · rw [State.set_period]
        exact s.ringPending_ttFault r prod

theorem State.ringsStart_ttFault (s : State) (l : List RingIx) (prods : Vector U64 8) :
    (s.ringsStart l prods).period.ttFault = s.period.ttFault :=
  State.forEach_induction (P := fun t => t.period.ttFault = s.period.ttFault) rfl fun t q _ ht => (t.ringStart_ttFault q _).trans ht

/-! O21. -/

/-- Tick 160 has come, vector 1 is raised (R355). -/
def State.tick160 (s : State) : State := (s.toTick (s.periodStart + 160)).msi false 1

/-- Ingest begins: its items and its rings (R19, R355). -/
def State.ingestBegun (s : State) (prods : Vector U64 8) : State := ((s.setPhase 1).loadItems 1).ringsStart allRings prods

theorem execBoundaryPhaseEnd_eq {s : State} (prods : Vector U64 8) (hper : s.inPeriod = true) (hphase : s.phase = 0) :
    execBoundaryPhaseEnd prods s =
      if s.tick160.on F.ENG_CAST_CFG_SPARE then .next (s.tick160.setPhase 5)
      else if (s.tick160.ingestBegun prods).period.ttFault then .next (s.tick160.ingestBegun prods).closePhases
      else .next (s.tick160.ingestBegun prods).schedule := by
  have h : ¬ (!s.inPeriod || s.phase != 0) = true := by simp [hper, hphase]
  unfold execBoundaryPhaseEnd
  rw [if_neg h]
  extract_lets s1 s2 s3
  have h1 : s.tick160 = s1 := rfl
  have h3 : s1.ingestBegun prods = s3 := rfl
  rw [h1, h3]

theorem State.tick160_same (s : State) : Same [.regs, .time, .ledger, .perf, .start, .sent] s s.tick160 :=
  ((s.toTick_same _).mono (by decide)).trans ((State.msi_same _ _ _).mono (by decide))

theorem State.tick160_raises (s : State) : Raises s s.tick160 := (Raises.of_same (s.toTick_same _)).trans (State.msi_raises _ _ _)

theorem State.tick160_writes {s : State} (h : s.regsOk) : Writes (fun g => perfWin g.off) s s.tick160 :=
  (State.toTick_regsIn h _).writes.msi false 1

theorem State.tick160_raised (s : State) : s.raised false 1 s.tick160 :=
  (State.msi_raised _ _ _).of_start ((s.toTick_same _).start (by decide))

/-- What the start of ingest keeps, and what it begins with. -/
theorem State.ingestBegun_facts {s : State} (h : s.regsOk) (prods : Vector U64 8) :
    Same [.regs, .start, .period, .power, .sent] s (s.ingestBegun prods) ∧ Raises s (s.ingestBegun prods) ∧ (s.ingestBegun prods).regsOk ∧
      (s.ingestBegun prods).phase = 1 ∧ (s.ingestBegun prods).period.ttFault = s.period.ttFault ∧
      (s.ingestBegun prods).power.items.map (fun x => x.id) = (s.planItems 1).map (fun i => i.id) ∧
      ∀ r : RingIx, s.ringTaken r (prods[r]).toNat (s.ingestBegun prods) := by
  have hw : Writes (fun g => g = F.MGT_PERIOD_STAT_PHASE) s ((s.setPhase 1).loadItems 1) :=
    ((Writes.refl (W := fun g => g = F.MGT_PERIOD_STAT_PHASE) h).set F.MGT_PERIOD_STAT_PHASE 1 rfl).of_same (State.loadItems_same _ 1)
  have hsame : Same [.regs, .power] s ((s.setPhase 1).loadItems 1) :=
    ((s.set_same _ _).mono (by decide)).trans ((State.loadItems_same _ _).mono (by decide))
  have hphase : ((s.setPhase 1).loadItems 1).phase = 1 :=
    (State.get_congr ((State.loadItems_same _ 1).regs (by decide)) _).trans (State.get_set _ _ h)
  have hids := (s.setPhase 1).loadItems_ids 1
  rw [State.planItems_congr (s := s) (t := s.setPhase 1) (State.set_wb _ _ _)] at hids
  unfold State.ingestBegun
  generalize (s.setPhase 1).loadItems 1 = u at *
  have hu := hw.regsOk
  have hrings := u.ringsStart_same allRings prods
  refine ⟨(hsame.mono (by decide)).trans (hrings.mono (by decide)), (Raises.of_same hsame).trans (u.ringsStart_raises _ _),
    State.ringsStart_regsOk hu _ _, ?_, ?_, ?_, fun r => ?_⟩
  · exact ((State.ringsStart_writes hu _ _).get_off _ fun g hg ho => by rw [ho] at hg; exact absurd hg.1 (by decide)).trans hphase
  · rw [u.ringsStart_ttFault, hsame.period (by decide)]
  · rw [hrings.power (by decide), hids]
  · refine RingKept.taken_of (RingKept.of_writes hw ?_ (State.ring_congr (hsame.period (by decide)) r) (.of_same hsame))
      (State.ringsStart_taken hu (List.nodup_finRange 8) prods (List.mem_finRange r))
    rintro g rfl
    decide

/-- Settles O21: each ring is taken alone, and the schedule touches no ring. -/
theorem ingestBeginsAtTickOneSixty : Obligations.IngestBeginsAtTickOneSixty := by
  intro prods s hwf hrun htime hper hphase hfault
  have hok := State.regsOk_of_memWf hwf
  have hexec : exec (.boundaryPhaseEnd prods) s = _ := execBoundaryPhaseEnd_eq prods (State.inPeriod_of hrun hper) hphase
  have hsame := s.tick160_same
  have hraises := s.tick160_raises
  have hraised := s.tick160_raised
  have hw := State.tick160_writes hok
  have hosc : s.tick160.time.osc = max s.time.osc ((s.periodStart + 160) * 8) := by
    rw [State.tick160, (State.msi_same _ _ _).time (by decide), State.toTick_osc htime]
  have hspare : s.tick160.on F.ENG_CAST_CFG_SPARE = s.on F.ENG_CAST_CFG_SPARE :=
    State.on_congr (hw.get_off _ fun g hg ho => by rw [ho] at hg; exact absurd hg.2 (by decide))
  rw [hspare] at hexec
  generalize s.tick160 = u at *
  cases hs : s.on F.ENG_CAST_CFG_SPARE with
  | true =>
    rw [hs, if_pos rfl] at hexec
    have hset := (u.set_same F.MGT_PERIOD_STAT_PHASE 5)
    refine ⟨_, hexec, hosc, hraised.mono (.of_same hset), fun _ => ⟨State.get_set _ _ hw.regsOk, ?_⟩, nofun,
      (hraises.trans (.of_same hset)).sameAndSent ((hsame.mono (by decide)).trans (hset.mono (by decide)))⟩
    exact ((hw.mono fun _ => .inl).set F.MGT_PERIOD_STAT_PHASE 5 (.inr rfl) : Writes (fun g => _ ∨ g = F.MGT_PERIOD_STAT_PHASE) s _).frame
      fun g hg => hg.imp_right fun he => by simp [he]
  | false =>
    obtain ⟨hbsame, hbraises, hbok, hbphase, hbfault, hbids, hbrings⟩ := State.ingestBegun_facts hw.regsOk prods
    rw [hs, if_neg Bool.noConfusion, hbfault, hsame.period (by decide), hfault, if_neg Bool.noConfusion] at hexec
    have hsched := (u.ingestBegun prods).schedule_same
    have hall : Same [.sent, .start, .regs, .time, .ledger, .power, .period, .perf] s (u.ingestBegun prods).schedule :=
      (hsame.mono (by decide)).trans ((hbsame.mono (by decide)).trans (hsched.mono (by decide)))
    refine ⟨_, hexec, ?_, hraised.mono (hbraises.trans (.of_same hsched)), nofun, fun _ => ⟨?_, ?_, fun r => ?_⟩,
      (hraises.trans (hbraises.trans (.of_same hsched))).sameAndSent hall⟩
    · rw [hsched.time (by decide), hbsame.time (by decide), hosc]
    · exact ((State.schedule_writes hbok).get_off _ (by unfold schedFields; simp [F.MGT_PERIOD_STAT_PHASE]; omega)).trans hbphase
    · rw [State.schedule_ids, hbids, State.planItems_congr (hsame.wb (by decide))]
    · refine ((RingKept.of_writes hw ?_ (State.ring_congr (hsame.period (by decide)) r) hraises).taken_of (hbrings r)).mono
        (RingKept.of_writes (State.schedule_writes hbok) ?_ (State.ring_congr (hsched.period (by decide)) r) (.of_same hsched))
      · unfold perfWin
        omega
      · unfold schedFields
        omega

end Sys2Proof.Machine
end

section
/-! SUPPORT. The end of a phase's work: queues, collectives whose rule about the destination was kept, a sweep without a verdict (R19, R27, R294,
R380). -/

namespace Sys2Proof.Machine

/-- What holds after the step of one element of a list, and is kept by the steps of all, holds after the fold. -/
theorem State.forEach_of_mem {α : Type} {P : State → Prop} {f : State → α → State} {l : List α} {a : α} (ha : a ∈ l) {s : State}
    (hset : ∀ s, P (f s a)) (hkeep : ∀ s b, P s → P (f s b)) : P (s.forEach l f) := by
  induction l generalizing s with
  | nil => exact absurd ha List.not_mem_nil
  | cons b l ih =>
    rcases List.mem_cons.1 ha with hab | hal
    · subst hab
      exact State.forEach_induction (P := P) (l := l) (hset s) fun t b _ => hkeep t b
    · exact ih hal

/-! The queues of the units. -/

/-- The fields that show the queues of the tiles and of the zoo engines. -/
def unitFields (g : Field) : Prop := 0x100000 ≤ g.off ∧ (16 ≤ g.lo ∨ g.off < 0x600000)

theorem depthField_unit {q : Nat × Nat} {f : Field} (h : depthField q = some f) : unitFields f := by
  unfold depthField at h
  split_ifs at h <;> cases h <;> refine ⟨?_, .inl ?_⟩ <;>
    simp only [F.TILE_MX_STAT_QUEUE_DEPTH, F.TILE_VE_STATUS_QUEUE_DEPTH, F.ENG_WAY_STAT_QUEUE_DEPTH, F.ENG_TAL_STAT_QUEUE_DEPTH,
      F.ENG_KIL_STAT_QUEUE_DEPTH] <;> omega

theorem Writes.setDepths {W : Field → Prop} {s t : State} (h : Writes W s t) (hW : ∀ g, unitFields g → W g) (l : List Waiting) :
    Writes W s (t.setDepths l) := by
  refine h.forEach fun u w _ hu => ?_
  split
  · split
    · next hf => exact hu.set _ _ (hW _ (depthField_unit hf))
    · exact hu
  · exact hu

theorem State.dropWaiting_writes {s : State} (h : s.regsOk) (p : Waiting → Bool) : Writes unitFields s (s.dropWaiting p) := by
  unfold State.dropWaiting
  split
  · exact .refl h
  · exact ((Writes.refl h).of_regs (u := { s with stalled := s.stalled.filter fun w => !p w }) rfl).setDepths (fun _ => id) _

theorem State.flushTile_writes {s : State} (h : s.regsOk) (n : TileIx) : Writes unitFields s (s.flushTile n) := by
  have hoff : 0x100500 + n.val * 0x10000 < 0x600000 := by omega
  unfold State.flushTile
  extract_lets t s1 s2 sf
  have h1 : Writes unitFields s s1 := (Writes.refl h).flagIf _ _ ⟨Nat.le_trans (by decide) (Nat.le_add_right _ _), .inr hoff⟩
  have h2 : Writes unitFields s s2 := h1.set _ _ ⟨Nat.le_trans (by decide) (Nat.le_add_right _ _), .inr hoff⟩
  exact h2.of_regs (State.setTile_regs _ _ _)

theorem State.flushQueues_same (s : State) : Same [.regs, .tiles, .stalled, .free] s s.flushQueues :=
  (State.flushQueues_keeps (List.Subset.refl _) (Keeps.refl s)).same

theorem State.flushQueues_writes {s : State} (h : s.regsOk) : Writes unitFields s s.flushQueues := by
  unfold State.flushQueues
  extract_lets s1
  have h1 : Writes unitFields s s1 := (Writes.refl h).forEach fun t n _ ht => ht.trans (State.flushTile_writes ht.regsOk n)
  clear_value s1
  have h2 : Writes unitFields s { s1 with free := s1.free + 1 } := h1.of_regs rfl
  exact h2.trans (State.dropWaiting_writes h2.regsOk _)

/-- Tile n has nothing queued, and no operand waits at its array. -/
def State.queuesEmpty (s : State) (n : TileIx) : Prop :=
  (s.tile n).dwq = [] ∧ (s.tile n).portA = [] ∧ (s.tile n).portB = [] ∧ (s.tile n).portT = []

theorem State.tile_congr {s t : State} (h : t.tiles = s.tiles) (n : TileIx) : t.tile n = s.tile n := by rw [State.tile, h, State.tile]

theorem State.queuesEmpty.congr {s t : State} {n : TileIx} (h : s.queuesEmpty n) (ht : t.tile n = s.tile n) : t.queuesEmpty n := by
  unfold State.queuesEmpty
  rw [ht]
  exact h

theorem State.flushTile_empty (s : State) (n : TileIx) : (s.flushTile n).queuesEmpty n := by
  unfold State.flushTile State.queuesEmpty
  extract_lets t s1 s2 sf
  rw [State.tile_setTile_self]
  exact ⟨rfl, rfl, rfl, rfl⟩

theorem State.tile_set (s : State) (f : Field) (x : Nat) (n : TileIx) : (s.set f x).tile n = s.tile n := State.tile_congr (State.set_tiles s f x) n

theorem State.tile_flagIf (s : State) (b : Bool) (f : Field) (n : TileIx) : (s.flagIf b f).tile n = s.tile n :=
  State.tile_congr ((State.flagIf_keeps (L := [.regs]) (List.Subset.refl _) (Keeps.refl s) b f).same.tiles (by decide)) n

theorem State.flushTile_tile_ne (s : State) {n m : TileIx} (h : n ≠ m) : (s.flushTile n).tile m = s.tile m := by
  unfold State.flushTile
  extract_lets t s1 s2 sf
  rw [State.tile_setTile_ne _ _ _ _ h, State.tile_set, State.tile_flagIf]

theorem State.flushQueues_empty (s : State) (n : TileIx) : s.flushQueues.queuesEmpty n := by
  unfold State.flushQueues
  extract_lets s1
  have h1 : s1.queuesEmpty n := by
    refine State.forEach_of_mem (P := fun t => t.queuesEmpty n) (List.mem_finRange n) (fun t => t.flushTile_empty n) fun t m ht => ?_
    by_cases hm : m = n
    · subst hm
      exact t.flushTile_empty m
    · exact ht.congr (t.flushTile_tile_ne hm)
  clear_value s1
  exact h1.congr (State.tile_congr
    ((State.dropWaiting_keeps (L := [.regs, .stalled, .free]) (by decide) ((Keeps.refl s1).upd (M := [.free]) (by decide)) _).same.tiles
      (by decide)) n)

/-! Collectives end. -/

/-- The collectives of a test leave the queue; their records and their staging follow. -/
def State.collsEnded (s : State) (which : Coll → Bool) : State :=
  (s.setCollQueue (s.coll.queue.filter fun c => !which c)).flagIf (!(s.coll.queue.filter which).isEmpty) F.COLL_STAT_ABANDONED

/-- A collective's destination is undefined where its rule was broken; nothing stalls for that (R285). -/
def State.destLost (s : State) (c : Coll) : State := { s.undefDest c with stallReq := s.stallReq }

/-- What freed staging, completion records and destinations made undefined keep, the end of collectives keeps. -/
theorem State.abandonColls_induction {P : State → Prop} {s : State} {which : Coll → Bool} (h0 : P (s.collsEnded which))
    (hfree : ∀ t port n, P t → P (t.freeStaging port n)) (hrec : ∀ t c a m k, P t → P (t.collRecord c a m k))
    (hlost : ∀ t c, P t → P (t.destLost c)) : P (s.abandonColls which) := by
  unfold State.abandonColls
  extract_lets gone s1 s2
  have h2 : P s2 := h0
  clear_value s2
  refine State.forEach_induction h2 fun t c _ ht => ?_
  extract_lets t1 m t2
  have h1 : P t1 := State.forEach_induction ht fun u x _ hu => hfree u _ _ hu
  clear_value t1
  split
  · exact h1
  · exact hrec _ _ _ _ _ (hlost _ _ h1)

theorem State.collsEnded_same (s : State) (which : Coll → Bool) : Same [.regs, .coll] s (s.collsEnded which) :=
  (State.flagIf_keeps (by decide) (State.setCollQueue_keeps (List.Subset.refl _) (Keeps.refl s) _) _ _).same

theorem State.collsEnded_queue (s : State) (which : Coll → Bool) : (s.collsEnded which).coll.queue = s.coll.queue.filter fun c => !which c := by
  rw [State.collsEnded, (State.flagIf_keeps (L := [.regs]) (List.Subset.refl _) (Keeps.refl _) _ _).same.coll (by decide)]
  rfl

theorem State.collsEnded_writes {s : State} (h : s.regsOk) (which : Coll → Bool) : Writes (fun g => g.off = 0xA0000) s (s.collsEnded which) := by
  unfold State.collsEnded State.setCollQueue State.collDepth
  extract_lets a
  exact ((((Writes.refl (W := fun g => g.off = 0xA0000) h).of_regs (u := { s with coll := { s.coll with queue := s.coll.queue.filter fun c => !which c } }) rfl).set
    F.COLL_STAT_ACTIVE _ rfl).set F.COLL_STAT_QUEUE_DEPTH _ rfl).flagIf _ _ rfl

theorem State.freeStaging_queue (s : State) (port n : Nat) : (s.freeStaging port n).coll.queue = s.coll.queue := by
  unfold State.freeStaging State.sendAck State.reported
  split
  · extract_lets s1
    split <;> rfl
  · rfl

theorem State.freeStaging_same (s : State) (port n : Nat) : Same [.coll, .sent] s (s.freeStaging port n) :=
  (State.freeStaging_keeps (List.Subset.refl _) (Keeps.refl s) port n).same

theorem State.collRecord_same (s : State) (c : Coll) (a m k : Nat) : Same [.tiles] s (s.collRecord c a m k) :=
  (State.collRecord_keeps (List.Subset.refl _) (Keeps.refl s) c a m k).same

theorem State.undefDest_of_sound {s : State} (h : s.mem.spoiled = []) (c : Coll) : s.undefDest c = s := by
  unfold State.undefDest
  rw [h]
  exact if_pos rfl

/-- Where no rule about a destination was broken, the end of collectives writes their records and their staging (R285, R294). -/
theorem State.abandonColls_of_sound {s : State} (h : s.mem.spoiled = []) (which : Coll → Bool) :
    Same [.coll, .tiles, .sent] (s.collsEnded which) (s.abandonColls which) ∧
      (s.abandonColls which).coll.queue = s.coll.queue.filter fun c => !which c := by
  have hsp : (s.collsEnded which).mem.spoiled = [] := by rw [(s.collsEnded_same which).mem (by decide), h]
  have hq := s.collsEnded_queue which
  rw [← hq]
  refine State.abandonColls_induction
    (P := fun t => Same [.coll, .tiles, .sent] (s.collsEnded which) t ∧ t.coll.queue = (s.collsEnded which).coll.queue)
    ⟨Same.refl _, rfl⟩ (fun t port n ht => ?_) (fun t c a m k ht => ?_) fun t c ht => ?_
  · exact ⟨ht.1.trans ((t.freeStaging_same port n).mono (by decide)), (t.freeStaging_queue port n).trans ht.2⟩
  · have hr := t.collRecord_same c a m k
    exact ⟨ht.1.trans (hr.mono (by decide)), by rw [hr.coll (by decide), ht.2]⟩
  · have he : t.destLost c = t := by
      rw [State.destLost, State.undefDest_of_sound (by rw [ht.1.mem (by decide), hsp])]
    rwa [he]

theorem State.abandonColls_same_of_sound {s : State} (h : s.mem.spoiled = []) (which : Coll → Bool) :
    Same [.regs, .coll, .tiles, .sent] s (s.abandonColls which) :=
  ((s.collsEnded_same which).mono (by decide)).trans ((State.abandonColls_of_sound h which).1.mono (by decide))

theorem State.abandonColls_writes_of_sound {s : State} (hok : s.regsOk) (h : s.mem.spoiled = []) (which : Coll → Bool) :
    Writes (fun g => g.off = 0xA0000) s (s.abandonColls which) :=
  (State.collsEnded_writes hok which).of_same (State.abandonColls_of_sound h which).1

/-! A phase's work is over. -/

theorem State.phaseOver_same (s : State) : Same [.regs, .power, .mem, .tiles, .stalled, .free] s s.phaseOver :=
  (State.phaseOver_keeps (List.Subset.refl _) (Keeps.refl s)).same

theorem State.phaseOver_mem (s : State) : s.phaseOver.mem = { s.mem with held := [] } :=
  congrArg (fun m : MemSt => { m with held := [] }) (s.dropItems.flushQueues_same.mem (by decide))

theorem State.phaseOver_writes {s : State} (h : s.regsOk) : Writes unitFields s s.phaseOver := by
  unfold State.phaseOver
  extract_lets s1
  have h0 : Writes unitFields s s.dropItems := (Writes.refl h).of_regs rfl
  have h1 : Writes unitFields s s1 := h0.trans (State.flushQueues_writes h0.regsOk)
  clear_value s1
  exact h1.of_regs rfl

/-- What of bonded memory the end of a phase leaves: bytes, frames, shadows, destinations, errors. -/
structure PagesKept (s t : State) : Prop where
  dram : t.mem.dram = s.mem.dram
  frames : t.mem.frames = s.mem.frames
  shadows : t.mem.shadows = s.mem.shadows
  spoiled : t.mem.spoiled = s.mem.spoiled
  latent : t.mem.latent = s.mem.latent

theorem PagesKept.refl (s : State) : PagesKept s s := ⟨rfl, rfl, rfl, rfl, rfl⟩

theorem PagesKept.trans {s t u : State} (h : PagesKept s t) (k : PagesKept t u) : PagesKept s u :=
  ⟨k.dram.trans h.dram, k.frames.trans h.frames, k.shadows.trans h.shadows, k.spoiled.trans h.spoiled, k.latent.trans h.latent⟩

theorem PagesKept.of_same {L : List Piece} {s t : State} (h : Same L s t) (hL : Piece.mem ∉ L := by decide) : PagesKept s t := by
  constructor <;> rw [h.mem hL]

theorem State.phaseOver_pages (s : State) : PagesKept s s.phaseOver := by
  constructor <;> rw [s.phaseOver_mem]

/-! A sweep without a verdict. -/

theorem State.assayLate_same (s : State) : Same [.regs, .mem, .flt, .cast] s s.assayLate :=
  (State.assayLate_keeps (List.Subset.refl _) (Keeps.refl s)).same

theorem State.assayLate_pages (s : State) : PagesKept s s.assayLate := by
  unfold State.assayLate
  split
  · exact .refl s
  · extract_lets s1
    have h1 : PagesKept s s1 := .of_same ((((s.set_same _ _).trans (State.set_same _ _ _)).trans (State.set_same _ _ _)))
    clear_value s1
    exact h1.trans ⟨rfl, rfl, rfl, rfl, rfl⟩

/-- FLT_STAT and FLT_ASSAY_STAT. -/
def assayFields (g : Field) : Prop := g.off = 0x50000 ∨ g.off = 0x50038

theorem State.assayLate_writes {s : State} (h : s.regsOk) : Writes assayFields s s.assayLate := by
  unfold State.assayLate
  split
  · exact .refl h
  · extract_lets s1
    have h1 : Writes assayFields s s1 :=
      (((Writes.refl h).set F.FLT_STAT_ASSAY_LATE _ (.inl rfl)).set F.FLT_ASSAY_STAT_LATE_COUNT _ (.inr rfl)).set F.FLT_ASSAY_STAT_RUN _ (.inr rfl)
    clear_value s1
    exact h1.of_regs rfl

/-! The self-test phase begins. -/

theorem State.setPhase_same (s : State) (p : Nat) : Same [.regs] s (s.setPhase p) := s.set_same _ p

theorem State.enterSelfTest_same (s : State) : Same [.regs, .power, .mem, .tiles, .flt, .cast, .stalled, .free] s s.enterSelfTest :=
  (State.enterSelfTest_keeps (List.Subset.refl _) (Keeps.refl s)).same

theorem State.enterSelfTest_pages (s : State) : PagesKept s s.enterSelfTest := by
  have h := (s.assayLate_pages.trans s.assayLate.phaseOver_pages).trans
    (PagesKept.of_same (((State.setPhase_same _ 4).mono (by decide)).trans ((State.loadItems_same _ 4).mono (by decide)) : Same [.regs, .power] _ _))
  unfold State.enterSelfTest
  extract_lets s1
  split
  · exact h.trans (.of_same (s1.setPhase_same 5))
  · exact h.trans (.of_same s1.schedule_same)

/-- What the beginning of the self-test phase writes: FLT_STAT, the queues, the phase, the schedule's counts. -/
def selfTestFields (g : Field) : Prop := g = F.MGT_PERIOD_STAT_PHASE ∨ assayFields g ∨ unitFields g ∨ schedFields g

theorem State.enterSelfTest_writes {s : State} (h : s.regsOk) :
    Writes selfTestFields s s.enterSelfTest ∧ (s.enterSelfTest.phase = 4 ∨ s.enterSelfTest.phase = 5) := by
  have h1 : Writes selfTestFields s s.assayLate := (State.assayLate_writes h).mono fun _ hg => .inr (.inl hg)
  have h2 : Writes selfTestFields s s.assayLate.phaseOver :=
    h1.trans ((State.phaseOver_writes h1.regsOk).mono fun _ hg => .inr (.inr (.inl hg)))
  unfold State.enterSelfTest
  extract_lets s1
  have h3 : Writes selfTestFields s s1 := (h2.set F.MGT_PERIOD_STAT_PHASE 4 (.inl rfl)).of_same (State.loadItems_same _ 4)
  have hp : s1.phase = 4 := (State.phase_congr ((State.loadItems_same _ 4).regs (by decide))).trans (State.phase_setPhase h2.regsOk (by decide))
  clear_value s1
  split
  · exact ⟨h3.set _ _ (.inl rfl), .inr (State.phase_setPhase h3.regsOk (by decide))⟩
  · exact ⟨h3.trans ((State.schedule_writes h3.regsOk).mono fun _ hg => .inr (.inr (.inr hg))),
      .inl ((State.schedule_phase h3.regsOk).trans hp)⟩

/-- A field that the beginning of the self-test phase leaves: not one of its registers, and not the phase. -/
theorem selfTestFields_apart {f : Field} (h : f.off < 0x100000) (hne : f.off ≠ 0x50000 ∧ f.off ≠ 0x50038 ∧ f.off ≠ 0x10008 ∧ f.off ≠ 0x10028)
    (hp : f.apart F.MGT_PERIOD_STAT_PHASE) : ∀ g, selfTestFields g → f.apart g := by
  rintro g (hg | hg | hg | hg)
  · exact hg ▸ hp
  · unfold assayFields at hg
    exact .inl (by omega)
  · exact .inl (by have := hg.1; omega)
  · unfold schedFields at hg
    exact .inl (by omega)

/-! Shadows return. -/

theorem State.freeFrame_mem (s : State) (f : Nat) : ∃ p, (s.freeFrame f).mem = { s.mem with pool := p } := by
  unfold State.freeFrame
  extract_lets k
  split
  · exact ⟨_, rfl⟩
  · exact ⟨s.mem.pool, rfl⟩

theorem State.freeFrame_same (s : State) (f : Nat) : Same [.mem] s (s.freeFrame f) :=
  (State.freeFrame_keeps (List.Subset.refl _) (Keeps.refl s) f).same

/-- Frames that return change the pools alone. -/
theorem State.freeFrames_mem {α : Type} (s : State) (l : List α) (f : α → Nat) :
    Same [.mem] s (s.forEach l fun s a => s.freeFrame (f a)) ∧ ∃ p, (s.forEach l fun s a => s.freeFrame (f a)).mem = { s.mem with pool := p } := by
  refine State.forEach_induction (P := fun t => Same [.mem] s t ∧ ∃ p, t.mem = { s.mem with pool := p }) ⟨Same.refl s, s.mem.pool, rfl⟩
    fun t a _ ht => ?_
  obtain ⟨hsame, p, hp⟩ := ht
  obtain ⟨q, hq⟩ := t.freeFrame_mem (f a)
  exact ⟨hsame.trans (t.freeFrame_same _), q, by rw [hq, hp]⟩

theorem State.dropShadows_same (s : State) : Same [.mem] s s.dropShadows :=
  (State.dropShadows_keeps (List.Subset.refl _) (Keeps.refl s)).same

theorem State.dropShadows_mem (s : State) : ∃ p, s.dropShadows.mem = { s.mem with shadows := [], pool := p } := by
  unfold State.dropShadows
  extract_lets l
  obtain ⟨-, p, hp⟩ := State.freeFrames_mem { s with mem := { s.mem with shadows := [] } } l fun e => e.2
  exact ⟨p, hp⟩

end Sys2Proof.Machine
end

section
/-! SUPPORT. O25: TRAIN_DL passes in the training phase. -/

namespace Sys2Proof.Machine

/-- The step in flight at TRAIN_DL: nothing of its pages is written, the phase and the step counter stand. -/
structure StepClosed (s t : State) : Prop where
  regsOk : t.regsOk
  time : t.time = s.time
  stepOver : t.period.stepActive = false
  phase : t.phase = s.phase
  counter : t.get F.SEAL_STEP_STEP_COUNTER = s.get F.SEAL_STEP_STEP_COUNTER
  spoiled : t.mem.spoiled = []
  dram : t.mem.dram = s.mem.dram
  frames : t.mem.frames = s.mem.frames
  colls : t.coll.queue.filter (fun c => decide (3 < c.phase)) = s.coll.queue.filter fun c => decide (3 < c.phase)

/-- What a drop at TRAIN_DL leaves (R26, R248). -/
def State.stepDropped (s t : State) : Prop :=
  t.get F.MGT_PERIOD_STAT_STEP_DROPPED = 1 ∧ t.period.droppedNow = s.period.droppedNow + 1 ∧ t.mem.shadows = [] ∧ t.seals.votes = [] ∧
    t.seals.late = true ∧ t.get F.SEAL_STAT_SEAL_STATE = s.get F.SEAL_STAT_SEAL_STATE

/-- What an unresolved step leaves (R249). -/
def State.stepUnresolved (s t : State) : Prop :=
  t.get F.SEAL_STAT_SEAL_STATE = 2 ∧ t.get F.SEAL_STAT_UNRESOLVED = 1 ∧ t.mem.shadows = s.mem.shadows ∧ t.period.droppedNow = s.period.droppedNow

theorem filter_above_of_filter_not {l : List Coll} : (l.filter fun c => !(c.phase == 3)).filter (fun c => decide (3 < c.phase)) =
    l.filter fun c => decide (3 < c.phase) := by
  rw [List.filter_filter]
  refine List.filter_congr fun c _ => ?_
  by_cases h : 3 < c.phase
  · simp [h, Nat.ne_of_gt h]
  · simp [h]

/-- The fields that the drop of a step writes. -/
def stepDropFields (g : Field) : Prop := g.off = 0xA0000 ∨ unitFields g

theorem State.dropStep_facts {s : State} (hok : s.regsOk) (hsp : s.mem.spoiled = []) :
    Writes stepDropFields s s.dropStep ∧ s.dropStep.time = s.time ∧ s.dropStep.period = { s.period with stepActive := false } ∧
      s.dropStep.seals = { s.seals with voted := false, decided := false, votes := [], queried := false } ∧
      s.dropStep.coll.queue = s.coll.queue.filter (fun c => !(c.phase == 3)) ∧ ∃ p, s.dropStep.mem = { s.mem with shadows := [], pool := p } := by
  have h0 : s.dropItems.mem.spoiled = [] := hsp
  have hq := (State.abandonColls_of_sound h0 fun c => c.phase == 3).2
  have hs := State.abandonColls_same_of_sound h0 fun c => c.phase == 3
  have hw : Writes stepDropFields s (s.dropItems.abandonColls fun c => c.phase == 3) :=
    ((Writes.refl hok).of_regs (u := s.dropItems) rfl).trans ((State.abandonColls_writes_of_sound (s := s.dropItems) hok h0 _).mono fun _ => .inl)
  have hmem : (s.dropItems.abandonColls fun c => c.phase == 3).mem = s.mem := hs.mem (by decide)
  have htime : (s.dropItems.abandonColls fun c => c.phase == 3).time = s.time := hs.time (by decide)
  have hperiod : (s.dropItems.abandonColls fun c => c.phase == 3).period = s.period := hs.period (by decide)
  have hseals : (s.dropItems.abandonColls fun c => c.phase == 3).seals = s.seals := hs.seals (by decide)
  unfold State.dropStep
  generalize (s.dropItems.abandonColls fun c => c.phase == 3) = u at *
  obtain ⟨p, hp⟩ := u.dropShadows_mem
  have hd := u.dropShadows_same
  have hf := u.dropShadows.flushQueues_same
  have hw2 : Writes stepDropFields s u.dropShadows.flushQueues :=
    (hw.of_same hd).trans ((State.flushQueues_writes (hw.of_same hd).regsOk).mono fun _ => .inr)
  have hmem2 : u.dropShadows.flushQueues.mem = { s.mem with shadows := [], pool := p } := by rw [hf.mem (by decide), hp, hmem]
  have hcoll : u.dropShadows.flushQueues.coll = u.coll := (hf.coll (by decide)).trans (hd.coll (by decide))
  have htime2 : u.dropShadows.flushQueues.time = s.time := (hf.time (by decide)).trans ((hd.time (by decide)).trans htime)
  have hperiod2 : u.dropShadows.flushQueues.period = s.period := (hf.period (by decide)).trans ((hd.period (by decide)).trans hperiod)
  have hseals2 : u.dropShadows.flushQueues.seals = s.seals := (hf.seals (by decide)).trans ((hd.seals (by decide)).trans hseals)
  generalize u.dropShadows.flushQueues = v at *
  refine ⟨hw2.of_regs rfl, htime2, ?_, ?_, (congrArg CollSt.queue hcoll).trans hq, p, hmem2⟩
  · rw [State.stepOver, hperiod2]
  · rw [State.stepOver, hseals2]

theorem stepDropFields_off {g : Field} (h : stepDropFields g) : 0xA0000 ≤ g.off := by
  rcases h with h | h
  · exact Nat.le_of_eq h.symm
  · exact Nat.le_trans (by decide) h.1

/-- A flag of late work and its vector. -/
theorem State.cause_same (s : State) (f : Field) (fn1 : Bool) (v : Nat) : Same [.regs, .start, .sent] s (s.cause f fn1 v) :=
  (State.cause_keeps (List.Subset.refl _) (Keeps.refl s) f fn1 v).same

theorem State.cause_writes {s : State} (h : s.regsOk) (f : Field) (fn1 : Bool) (v : Nat) : Writes (fun g => g = f) s (s.cause f fn1 v) :=
  (Writes.refl h).cause f fn1 v rfl

/-- TRAIN_DL passes with no vote cast: the step is dropped (R26, R248). -/
theorem State.stepAtDeadline_dropped {s : State} (hok : s.regsOk) (hsp : s.mem.spoiled = []) (hact : s.period.stepActive = true)
    (hvote : s.seals.voted = false) : StepClosed s s.stepAtDeadline ∧ s.stepDropped s.stepAtDeadline := by
  obtain ⟨hw, htime, hperiod, hseals, hq, p, hmem⟩ := State.dropStep_facts hok hsp
  unfold State.stepAtDeadline
  rw [hact, hvote, Bool.not_true, if_neg Bool.noConfusion, if_neg Bool.noConfusion]
  generalize s.dropStep = u at *
  have hc := u.cause_same F.MGT_PERIOD_STAT_STEP_DROPPED false 2
  have hcw := State.cause_writes hw.regsOk F.MGT_PERIOD_STAT_STEP_DROPPED false 2
  have hflag := State.get_cause hw.regsOk F.MGT_PERIOD_STAT_STEP_DROPPED false 2 rfl
  rw [← State.late] at hc hcw hflag
  generalize u.late F.MGT_PERIOD_STAT_STEP_DROPPED = v at *
  have hold (f : Field) (hoff : f.off < 0xA0000) (hf : f.lo + f.w ≤ 64) (ha : f.apart F.MGT_PERIOD_STAT_STEP_DROPPED) : v.get f = s.get f :=
    (hcw.get f hf fun g hg => hg ▸ ha).trans (hw.get_off f (fun g hg ho => by have := stepDropFields_off hg; omega) hf)
  have hvm : v.mem = { s.mem with shadows := [], pool := p } := (hc.mem (by decide)).trans hmem
  have hvp : v.period = { s.period with stepActive := false } := (hc.period (by decide)).trans hperiod
  have hvs : v.seals = { s.seals with voted := false, decided := false, votes := [], queried := false } := (hc.seals (by decide)).trans hseals
  have hspoiled : v.mem.spoiled = [] := (congrArg MemSt.spoiled hvm).trans hsp
  have hdram : v.mem.dram = s.mem.dram := by rw [hvm]
  have hframes : v.mem.frames = s.mem.frames := by rw [hvm]
  have hdropped : v.period.droppedNow = s.period.droppedNow := by rw [hvp]
  refine ⟨⟨hcw.regsOk, (hc.time (by decide)).trans htime, congrArg PeriodSt.stepActive hvp, ?_, ?_,
      hspoiled, hdram, hframes, ?_⟩,
    hflag, congrArg (fun k => k + 1) hdropped, congrArg MemSt.shadows hvm, congrArg SealSt.votes hvs, rfl, ?_⟩
  · exact hold F.MGT_PERIOD_STAT_PHASE (by decide) (by decide) (.inr (by decide))
  · exact hold F.SEAL_STEP_STEP_COUNTER (by decide) (by decide) (.inl (by decide))
  · show v.coll.queue.filter _ = _
    rw [hc.coll (by decide), hq, filter_above_of_filter_not]
  · exact hold F.SEAL_STAT_SEAL_STATE (by decide) (by decide) (.inl (by decide))

/-- TRAIN_DL passes after the module has voted: the step is unresolved (R249). -/
theorem State.stepAtDeadline_unresolved {s : State} (hok : s.regsOk) (hsp : s.mem.spoiled = []) (hact : s.period.stepActive = true)
    (hvote : s.seals.voted = true) : StepClosed s s.stepAtDeadline ∧ s.stepUnresolved s.stepAtDeadline := by
  unfold State.stepAtDeadline
  rw [hact, hvote, Bool.not_true, if_neg Bool.noConfusion, if_pos rfl]
  have h1 := (Writes.refl (W := fun g => g = F.SEAL_STAT_SEAL_STATE) hok).set F.SEAL_STAT_SEAL_STATE 2 rfl
  have hstate := State.get_set F.SEAL_STAT_SEAL_STATE 2 hok
  have hs1 := s.set_same F.SEAL_STAT_SEAL_STATE 2
  generalize s.set F.SEAL_STAT_SEAL_STATE 2 = u at *
  have h2 := State.cause_writes h1.regsOk F.SEAL_STAT_UNRESOLVED false 3
  have hflag := State.get_cause h1.regsOk F.SEAL_STAT_UNRESOLVED false 3 rfl
  have hs2 : Same [.regs, .start, .sent] s (u.cause F.SEAL_STAT_UNRESOLVED false 3) :=
    (hs1.mono (by decide)).trans (u.cause_same F.SEAL_STAT_UNRESOLVED false 3)
  generalize u.cause F.SEAL_STAT_UNRESOLVED false 3 = v at *
  have hold (f : Field) (hf : f.lo + f.w ≤ 64) (ha : f.off ≠ 0x60010) : v.get f = s.get f :=
    (h2.get f hf fun g hg => .inl (by rw [hg]; exact ha)).trans (h1.get f hf fun g hg => .inl (by rw [hg]; exact ha))
  have hvm : v.mem = s.mem := hs2.mem (by decide)
  have hvp : v.period = s.period := hs2.period (by decide)
  have hspoiled : v.mem.spoiled = [] := (congrArg MemSt.spoiled hvm).trans hsp
  have hdram : v.mem.dram = s.mem.dram := by rw [hvm]
  have hframes : v.mem.frames = s.mem.frames := by rw [hvm]
  have hdropped : v.period.droppedNow = s.period.droppedNow := by rw [hvp]
  refine ⟨⟨h2.regsOk, hs2.time (by decide), rfl, ?_, ?_, hspoiled, hdram, hframes, ?_⟩,
    ?_, hflag, congrArg MemSt.shadows hvm, hdropped⟩
  · exact hold F.MGT_PERIOD_STAT_PHASE (by decide) (by decide)
  · exact hold F.SEAL_STEP_STEP_COUNTER (by decide) (by decide)
  · show v.coll.queue.filter _ = _
    rw [hs2.coll (by decide)]
  · exact (h2.get F.SEAL_STAT_SEAL_STATE (by decide) fun g hg => .inr (by rw [hg]; decide)).trans hstate

/-- TRAIN_DL passes with no step in flight. -/
theorem State.stepAtDeadline_idle {s : State} (hact : s.period.stepActive = false) : s.stepAtDeadline = s := by
  unfold State.stepAtDeadline
  rw [hact]
  rfl

theorem StepClosed.refl {s : State} (hok : s.regsOk) (hsp : s.mem.spoiled = []) (hact : s.period.stepActive = false) : StepClosed s s :=
  ⟨hok, rfl, hact, rfl, rfl, hsp, rfl, rfl, rfl⟩

/-- With its step closed the phase ends, and with it every collective that was posted until then (R19, R294). -/
def State.trainClosed (s : State) : State :=
  ((s.dropItems.abandonColls fun c => c.phase == 3).enterSelfTest).abandonColls fun c => decide (c.phase ≤ 3)

theorem State.trainEnd_eq {s : State} (hok : s.stepAtDeadline.regsOk) (hsp : s.stepAtDeadline.mem.spoiled = [])
    (hphase : s.stepAtDeadline.phase = 3) :
    s.trainEnd = (s.stepAtDeadline.dropItems.abandonColls fun c => c.phase == 3).enterSelfTest := by
  unfold State.trainEnd
  extract_lets s1
  have hw := State.abandonColls_writes_of_sound (s := s.stepAtDeadline.dropItems) hok hsp fun c => c.phase == 3
  have h3 : s1.phase = 3 := (hw.get_off F.MGT_PERIOD_STAT_PHASE fun g hg => by rw [hg]; decide).trans hphase
  rw [if_pos (beq_iff_eq.2 h3)]

/-- What the end of the training phase leaves of the closed step. -/
structure TrainOver (s t : State) : Prop where
  phase : t.phase = 4 ∨ t.phase = 5
  same : Same [.regs, .power, .mem, .tiles, .flt, .cast, .stalled, .free, .coll, .sent] s t
  pages : PagesKept s t
  queue : t.coll.queue = s.coll.queue.filter fun c => decide (3 < c.phase)
  get : ∀ f : Field, f.lo + f.w ≤ 64 → f.apart F.MGT_PERIOD_STAT_PHASE → f.off < 0xA0000 →
    (f.off ≠ 0x50000 ∧ f.off ≠ 0x50038 ∧ f.off ≠ 0x10008 ∧ f.off ≠ 0x10028) → t.get f = s.get f

theorem filter_upTo_of_filter_above {l : List Coll} : (l.filter fun c => !(c.phase == 3)).filter (fun c => !decide (c.phase ≤ 3)) =
    l.filter fun c => decide (3 < c.phase) := by
  rw [← filter_above_of_filter_not]
  refine List.filter_congr fun c _ => ?_
  rw [← decide_not]
  exact decide_eq_decide.2 Nat.not_le

theorem State.trainClosed_over {s : State} (hok : s.regsOk) (hsp : s.mem.spoiled = []) : TrainOver s s.trainClosed := by
  have hq := (State.abandonColls_of_sound (s := s.dropItems) hsp fun c => c.phase == 3).2
  have hsame : Same [.regs, .power, .coll, .tiles, .sent] s (s.dropItems.abandonColls fun c => c.phase == 3) :=
    ((State.dropItems_keeps (L := [.power]) (by decide) (Keeps.refl s)).same.mono (by decide)).trans
      ((State.abandonColls_same_of_sound (s := s.dropItems) hsp _).mono (by decide))
  have hw : Writes (fun g => g.off = 0xA0000) s (s.dropItems.abandonColls fun c => c.phase == 3) :=
    ((Writes.refl hok).of_regs (u := s.dropItems) rfl).trans (State.abandonColls_writes_of_sound (s := s.dropItems) hok hsp _)
  unfold State.trainClosed
  generalize (s.dropItems.abandonColls fun c => c.phase == 3) = u at *
  have hpu : PagesKept s u := .of_same hsame
  obtain ⟨hvw, hphase⟩ := State.enterSelfTest_writes hw.regsOk
  have hvs := u.enterSelfTest_same
  have hpv := hpu.trans u.enterSelfTest_pages
  generalize u.enterSelfTest = v at *
  have hspv : v.mem.spoiled = [] := hpv.spoiled.trans hsp
  have hts := State.abandonColls_same_of_sound hspv fun c => decide (c.phase ≤ 3)
  have htw := State.abandonColls_writes_of_sound hvw.regsOk hspv fun c => decide (c.phase ≤ 3)
  have htq := (State.abandonColls_of_sound hspv fun c => decide (c.phase ≤ 3)).2
  generalize (v.abandonColls fun c => decide (c.phase ≤ 3)) = t at *
  have hcoll (f : Field) (h : f.off < 0xA0000) (hf : f.lo + f.w ≤ 64) : t.get f = v.get f ∧ u.get f = s.get f :=
    ⟨htw.get_off f (fun g hg ho => by omega) hf, hw.get_off f (fun g hg ho => by omega) hf⟩
  have hp : t.phase = v.phase := (hcoll F.MGT_PERIOD_STAT_PHASE (by decide) (by decide)).1
  refine ⟨hp ▸ hphase, (hsame.mono (by decide)).trans ((hvs.mono (by decide)).trans (hts.mono (by decide))),
    hpv.trans (.of_same hts), ?_, fun f hf ha hoff hne => ?_⟩
  · rw [htq, hvs.coll (by decide), hq]
    exact filter_upTo_of_filter_above
  · obtain ⟨h1, h2⟩ := hcoll f hoff hf
    rw [h1, ← h2]
    exact hvw.get f hf (selfTestFields_apart (Nat.lt_of_lt_of_le hoff (by decide)) hne ha)

theorem State.closePhases_of_training {s : State} (h : s.phase = 3) : s.closePhases = s.trainEnd := by
  have hi : s.ingestLate = s := if_pos (by rw [h]; rfl)
  have hf : s.inferLate = s := if_pos (by rw [h]; rfl)
  unfold State.closePhases
  rw [hi, hf]
  exact if_pos (by rw [h]; rfl)

theorem execTrainDeadline_eq {s : State} (hper : s.inPeriod = true) (hphase : s.phase ≠ 0) :
    execTrainDeadline s =
      .next ((s.toTick (s.periodStart + s.get F.MGT_PERIOD_CFG1_TRAIN_DL)).closePhases.abandonColls fun c => decide (c.phase ≤ 3)) :=
  if_neg (by simp [hper, hphase])

/-- What the closed step and the end of the phase leave together. -/
theorem StepClosed.over {s u t : State} (h : StepClosed s u) (k : TrainOver u t) :
    (t.phase = 4 ∨ t.phase = 5) ∧ t.period.stepActive = false ∧ t.time = s.time ∧
      t.coll.queue = s.coll.queue.filter (fun c => decide (3 < c.phase)) ∧
      t.get F.SEAL_STEP_STEP_COUNTER = s.get F.SEAL_STEP_STEP_COUNTER ∧ t.mem.dram = s.mem.dram ∧ t.mem.frames = s.mem.frames := by
  refine ⟨k.phase, ?_, (k.same.time (by decide)).trans h.time, k.queue.trans h.colls, ?_, k.pages.dram.trans h.dram, k.pages.frames.trans h.frames⟩
  · rw [k.same.period (by decide), h.stepOver]
  · exact (k.get _ (by decide) (.inl (by decide)) (by decide) (by decide)).trans h.counter

theorem State.stepDropped.over {s u t : State} (h : s.stepDropped u) (k : TrainOver u t) : s.stepDropped t := by
  obtain ⟨h1, h2, h3, h4, h5, h6⟩ := h
  have hp := k.same.period (by decide)
  have hs := k.same.seals (by decide)
  refine ⟨?_, by rw [hp, h2], k.pages.shadows.trans h3, by rw [hs, h4], by rw [hs, h5], ?_⟩
  · exact (k.get _ (by decide) (.inr (by decide)) (by decide) (by decide)).trans h1
  · exact (k.get _ (by decide) (.inl (by decide)) (by decide) (by decide)).trans h6

theorem State.stepUnresolved.over {s u t : State} (h : s.stepUnresolved u) (k : TrainOver u t) : s.stepUnresolved t := by
  obtain ⟨h1, h2, h3, h4⟩ := h
  refine ⟨?_, ?_, k.pages.shadows.trans h3, by rw [k.same.period (by decide), h4]⟩
  · exact (k.get _ (by decide) (.inl (by decide)) (by decide) (by decide)).trans h1
  · exact (k.get _ (by decide) (.inl (by decide)) (by decide) (by decide)).trans h2

/-- Settles O25: the step is closed as R26, R248 and R249 have it, and what ends the phase touches neither the step nor its pages. -/
theorem trainingEndsAtItsDeadline : Obligations.TrainingEndsAtItsDeadline := by
  intro s hwf hrun htime hper hphase hsp
  have hok := State.regsOk_of_memWf hwf
  have hexec : exec .trainDeadline s = _ := execTrainDeadline_eq (State.inPeriod_of hrun hper) (by rw [hphase]; decide)
  have hsame := s.toTick_same (s.periodStart + s.get F.MGT_PERIOD_CFG1_TRAIN_DL)
  have hw := State.toTick_regsIn hok (s.periodStart + s.get F.MGT_PERIOD_CFG1_TRAIN_DL)
  have hosc := State.toTick_osc htime (s.periodStart + s.get F.MGT_PERIOD_CFG1_TRAIN_DL)
  generalize s.toTick (s.periodStart + s.get F.MGT_PERIOD_CFG1_TRAIN_DL) = u at *
  have hkept (f : Field) (hf : ¬ perfWin f.off) : u.get f = s.get f := hw.2.get f hf
  have huphase : u.phase = 3 := (hkept _ (by unfold perfWin; decide)).trans hphase
  have husp : u.mem.spoiled = [] := by rw [hsame.mem (by decide), hsp]
  have hmem := hsame.mem (by decide)
  have hseals := hsame.seals (by decide)
  have hperiod := hsame.period (by decide)
  have hcoll := hsame.coll (by decide)
  have hstate := hkept F.SEAL_STAT_SEAL_STATE (by unfold perfWin; decide)
  have hstep := hkept F.SEAL_STEP_STEP_COUNTER (by unfold perfWin; decide)
  have hend (hc : StepClosed u u.stepAtDeadline) :
      u.closePhases.abandonColls (fun c => decide (c.phase ≤ 3)) = u.stepAtDeadline.trainClosed ∧ TrainOver u.stepAtDeadline u.stepAtDeadline.trainClosed := by
    refine ⟨?_, State.trainClosed_over hc.regsOk hc.spoiled⟩
    rw [State.closePhases_of_training huphase, State.trainEnd_eq hc.regsOk hc.spoiled (hc.phase.trans huphase)]
    rfl
  rw [← hperiod, ← hseals, ← hmem, ← hcoll, ← hstate, ← hstep, ← hosc]
  cases hact : u.period.stepActive with
  | false =>
    have hidle := State.stepAtDeadline_idle hact
    have hc : StepClosed u u.stepAtDeadline := by rw [hidle]; exact .refl hw.1 husp hact
    obtain ⟨heq, hover⟩ := hend hc
    obtain ⟨h1, h2, h3, h4, h5, h6, h7⟩ := hc.over hover
    refine ⟨_, hexec.trans (congrArg _ heq), h1, h2, by rw [h3], h4, nofun, nofun, fun _ => ⟨?_, ?_⟩, h5, h6, h7⟩
    · rw [hover.same.period (by decide), hidle]
    · rw [hover.pages.shadows, hidle]
  | true =>
    cases hvote : u.seals.voted with
    | false =>
      obtain ⟨hc, hd⟩ := State.stepAtDeadline_dropped hw.1 husp hact hvote
      obtain ⟨heq, hover⟩ := hend hc
      obtain ⟨h1, h2, h3, h4, h5, h6, h7⟩ := hc.over hover
      exact ⟨_, hexec.trans (congrArg _ heq), h1, h2, by rw [h3], h4, fun _ _ => hd.over hover, nofun, nofun, h5, h6, h7⟩
    | true =>
      obtain ⟨hc, hd⟩ := State.stepAtDeadline_unresolved hw.1 husp hact hvote
      obtain ⟨heq, hover⟩ := hend hc
      obtain ⟨h1, h2, h3, h4, h5, h6, h7⟩ := hc.over hover
      exact ⟨_, hexec.trans (congrArg _ heq), h1, h2, by rw [h3], h4, nofun, fun _ _ => hd.over hover, nofun, h5, h6, h7⟩

end Sys2Proof.Machine
end

section
/-! SUPPORT. A record of a unit for which the queue has room (R370, R371). -/

namespace Sys2Proof.Machine

theorem State.enqueue_writes {s : State} (h : s.regsOk) (r : ErrRec) : Writes (fun g => g ∈ queueFields) s (s.enqueue r) := by
  unfold State.enqueue
  extract_lets x s1 n
  have h1 : Writes (fun g => g ∈ queueFields) s s1 := (Writes.refl h).of_regs rfl
  exact (h1.set F.FLT_QUEUE_DEPTH _ (by decide)).set F.FLT_QUEUE_PEAK _ (by decide)

theorem State.enqueue_same (s : State) (r : ErrRec) : Same [.regs, .flt] s (s.enqueue r) :=
  (State.enqueue_keeps (List.Subset.refl _) (Keeps.refl s) r).same

theorem State.enqueue_queued {s : State} (h : s.regsOk) (hroom : s.flt.queue.length < 64) (r : ErrRec) : s.queued r (s.enqueue r) := by
  have hpeak : s.get F.FLT_QUEUE_PEAK < 2 ^ 8 := BitVec.isLt _
  unfold State.enqueue State.queued
  extract_lets x s1 n
  have hn : n = s.flt.queue.length + 1 := List.length_append
  have h1 : s1.regsOk := h
  have hlt : n < 2 ^ 7 := by omega
  have hmax : Nat.max n (s.get F.FLT_QUEUE_PEAK) < 2 ^ 8 := Nat.max_lt.2 ⟨by omega, hpeak⟩
  refine ⟨rfl, ?_, ?_⟩
  · rw [State.get_set_ne _ _ _ (State.set_regsOk _ _ _ h1) (.inr (.inl (by decide))), State.get_set _ _ h1 (by decide) hlt, hn]
  · rw [State.get_set _ _ (State.set_regsOk _ _ _ h1) (by decide) hmax, hn]

/-- Two states in which the fences, the Timetable and the queue are the same have the same room. -/
theorem State.roomFor.congr {s t : State} {cls index : Nat} (h : s.roomFor cls index) (hflt : t.flt = s.flt)
    (hget : ∀ f ∈ [F.FLT_STAT_FENCED_TILES, F.FLT_FENCE_ENG_WAYFARERS, F.FLT_FENCE_ENG_TALLIES, F.FLT_FENCE_ENG_KILNS, F.FLT_FENCE_ENG_ASSAYERS,
      F.PWR_DOM_STAT_STATE domTimetable], t.get f = s.get f) : t.roomFor cls index := by
  have htoo : t.tooManyFenced = s.tooManyFenced := by
    unfold State.tooManyFenced
    rw [hget F.FLT_STAT_FENCED_TILES (by simp), hget F.FLT_FENCE_ENG_WAYFARERS (by simp), hget F.FLT_FENCE_ENG_TALLIES (by simp),
      hget F.FLT_FENCE_ENG_KILNS (by simp), hget F.FLT_FENCE_ENG_ASSAYERS (by simp)]
  unfold State.roomFor
  rw [htoo, hflt, State.dom, hget (F.PWR_DOM_STAT_STATE domTimetable) (by simp)]
  exact h

/-- A record reads time, step, period and power as they are. -/
theorem State.mkRec_congr {s t : State} (htime : t.time = s.time)
    (hget : ∀ f ∈ [F.SEAL_STEP_STEP_COUNTER, F.MGT_PERIOD_STAT_PERIOD_NUM, F.PWR_THERM_JT_MAX, F.PWR_INPUT_VIN], t.get f = s.get f)
    (cls index severity kind syndrome address count rflags : Nat) :
    t.mkRec cls index severity kind syndrome address count rflags = s.mkRec cls index severity kind syndrome address count rflags := by
  unfold State.mkRec State.aon State.stepNo
  rw [htime, hget F.SEAL_STEP_STEP_COUNTER (by simp), hget F.MGT_PERIOD_STAT_PERIOD_NUM (by simp), hget F.PWR_THERM_JT_MAX (by simp),
    hget F.PWR_INPUT_VIN (by simp)]

theorem State.enqueue_tooManyFenced {s : State} (h : s.regsOk) (r : ErrRec) : (s.enqueue r).tooManyFenced = s.tooManyFenced := by
  have hq (f : Field) (ho : f.off ≠ 0x50008) (hf : f.lo + f.w ≤ 64) : (s.enqueue r).get f = s.get f := by
    refine (State.enqueue_writes h r).get_off f (fun g hg => ?_) hf
    rw [(by decide : ∀ g ∈ queueFields, g.off = 0x50008) g hg]
    exact ho.symm
  unfold State.tooManyFenced
  rw [hq F.FLT_STAT_FENCED_TILES (by decide) (by decide), hq F.FLT_FENCE_ENG_WAYFARERS (by decide) (by decide),
    hq F.FLT_FENCE_ENG_TALLIES (by decide) (by decide), hq F.FLT_FENCE_ENG_KILNS (by decide) (by decide),
    hq F.FLT_FENCE_ENG_ASSAYERS (by decide) (by decide)]

/-- Where the queue has room for a record of the unit, posting it queues it and does no more. -/
theorem State.postFull_of_room {s : State} (h : s.regsOk) {cls index : Nat} (hroom : s.roomFor cls index) {severity : Nat} (hsev : severity ≠ 0)
    (kind syndrome address count rflags : Nat) (answers : Bool) :
    s.postFull cls index severity kind syndrome address count rflags answers =
      s.enqueue (s.mkRec cls index severity kind syndrome address count rflags) := by
  obtain ⟨hlen, hunit, hfenced, htt⟩ := hroom
  have hwake : s.wake domTimetable 5 = s := by
    unfold State.wake State.asleep
    rw [htt]
    rfl
  have hbusy : (s.flt.queue.any fun q => q.cls == cls && q.index == index) = false := by
    rw [List.any_eq_false]
    intro q hq hc
    exact hunit q hq (by simpa using hc)
  have hlost : decide (64 ≤ s.flt.queue.length) = false := by simpa using hlen
  have hput (r : ErrRec) : s.enqueueOrMerge r = s.enqueue r := if_pos hlen
  unfold State.postFull
  simp only [hwake, hbusy, hlost, hput, beq_eq_false_iff_ne.2 hsev, State.flagIf, Bool.false_and, Bool.or_false,
    Bool.false_eq_true, if_false, State.enqueue_tooManyFenced h, hfenced, Nat.or_zero]
  rfl

end Sys2Proof.Machine
end

section
/-! SUPPORT. O12: a PLL loses its lock. -/

namespace Sys2Proof.Machine

/-- The work on a PLL's domains is lost (R323). -/
def State.pllWorkLost (s : State) : Pll → State
  | .core => s.flushQueues
  | .fab => s.abandonColls fun _ => true
  | .mem => { s with mem := { s.mem with wc := Vector.replicate 32 [] } }

/-- Every unfenced tile of a step in progress fails (R323). -/
def State.stepTilesFail (s : State) : State :=
  if s.period.stepActive then s.forEach allTiles fun s n => if s.tileFenced n.val then s else s.failTile n else s

theorem execPllLockLoss_eq {pll : Pll} {s : State} (hpow : s.start.powered = true) (hlock : s.on (pllLock pll) = true) :
    execPllLockLoss pll s = .next (((s.flag F.CLK_STAT_LOCK_LOSS).pllWorkLost pll).stepTilesFail.post clsPower 0 1 0x0E 0 0) := by
  have h : ¬ (!s.start.powered || !s.on (pllLock pll)) = true := by simp [hpow, hlock]
  unfold execPllLockLoss State.stepTilesFail
  extract_lets f s1 m s2 s3
  have hf : f = pllLock pll := by cases pll <;> rfl
  have h2 : (s.flag F.CLK_STAT_LOCK_LOSS).pllWorkLost pll = s2 := by cases pll <;> rfl
  rw [hf, if_neg h, h2]

theorem State.failTile_tile (s : State) (n m : TileIx) :
    (s.failTile n).tile m = if m = n then { s.tile m with failed := true } else s.tile m := by
  split
  · next h => rw [h, State.failTile, State.tile_modTile_self]
  · next h => exact State.tile_modTile_ne _ _ _ _ (Ne.symm h)

/-- The step of a fold that fails the unfenced tiles. -/
theorem State.failUnfenced_same (s : State) (n : TileIx) : Same [.tiles] s (if s.tileFenced n.val then s else s.failTile n) :=
  (ite_keeps (Keeps.refl s) (State.failTile_keeps (List.Subset.refl _) (Keeps.refl s) n)).same

theorem State.stepTilesFail_same (s : State) : Same [.tiles] s s.stepTilesFail := by
  unfold State.stepTilesFail
  split
  · exact State.forEach_induction (P := Same [.tiles] s) (Same.refl s) fun t n _ ht => ht.trans (t.failUnfenced_same n)
  · exact Same.refl s

theorem State.stepTilesFail_queues {s : State} {n : TileIx} (h : s.queuesEmpty n) : s.stepTilesFail.queuesEmpty n := by
  unfold State.stepTilesFail
  split
  · refine State.forEach_induction (P := fun t => t.queuesEmpty n) h fun t m _ ht => ?_
    split
    · exact ht
    · unfold State.queuesEmpty
      rw [State.failTile_tile]
      split <;> exact ht
  · exact h

theorem State.tileFenced_congr {s t : State} (h : t.regs = s.regs) (n : Nat) : t.tileFenced n = s.tileFenced n := by
  rw [State.tileFenced, State.get_congr h, State.tileFenced]

theorem State.stepTilesFail_failed {s : State} (hact : s.period.stepActive = true) {n : TileIx} (hf : s.tileFenced n.val = false) :
    (s.stepTilesFail.tile n).failed = true := by
  unfold State.stepTilesFail
  have hregs (t : State) (m : TileIx) (h : (if t.tileFenced m.val then t else t.failTile m).regs = s.regs) : t.regs = s.regs :=
    ((t.failUnfenced_same m).regs (by decide)).symm.trans h
  rw [if_pos hact]
  refine State.forEach_of_mem (P := fun t => t.regs = s.regs → (t.tile n).failed = true) (List.mem_finRange n) (fun t ht => ?_)
    (fun t m ht hr => ?_) ((State.forEach_induction (P := Same [.tiles] s) (Same.refl s) fun t m _ ht =>
      ht.trans (t.failUnfenced_same m)).regs (by decide))
  · rw [State.tileFenced_congr (hregs t n ht), hf, if_neg Bool.noConfusion, State.failTile_tile, if_pos rfl]
  · have ht := ht (hregs t m hr)
    split
    · exact ht
    · rw [State.failTile_tile]
      split
      · rfl
      · exact ht

/-- The parts that the loss of a PLL's work changes. -/
def pllPieces : Pll → List Piece
  | .core => [.regs, .tiles, .stalled, .free]
  | .fab => [.regs, .coll, .tiles, .sent]
  | .mem => [.mem]

theorem pllPieces_sub (pll : Pll) : pllPieces pll ⊆ [.regs, .tiles, .stalled, .free, .coll, .sent, .mem] := by cases pll <;> decide

theorem stalled_not_mem_pllPieces {pll : Pll} (h : pll ≠ .core) : Piece.stalled ∉ pllPieces pll := by
  cases pll with
  | core => exact absurd rfl h
  | fab => decide
  | mem => decide

theorem coll_not_mem_pllPieces {pll : Pll} (h : pll ≠ .fab) : Piece.coll ∉ pllPieces pll := by
  cases pll with
  | core => decide
  | fab => exact absurd rfl h
  | mem => decide

theorem State.pllWorkLost_same {s : State} {pll : Pll} (hsp : pll = .fab → s.mem.spoiled = []) :
    Same (pllPieces pll) s (s.pllWorkLost pll) := by
  cases pll with
  | core => exact s.flushQueues_same
  | fab => exact State.abandonColls_same_of_sound (hsp rfl) _
  | mem => exact (Same.refl s).upd (M := [.mem]) (List.Subset.refl _)

theorem State.pllWorkLost_writes {s : State} (h : s.regsOk) {pll : Pll} (hsp : pll = .fab → s.mem.spoiled = []) :
    Writes (fun g => pll ≠ .mem ∧ 0xA0000 ≤ g.off) s (s.pllWorkLost pll) := by
  cases pll with
  | core => exact (State.flushQueues_writes h).mono fun g hg => ⟨nofun, Nat.le_trans (by decide) hg.1⟩
  | fab => exact (State.abandonColls_writes_of_sound h (hsp rfl) _).mono fun g hg => ⟨nofun, Nat.le_of_eq hg.symm⟩
  | mem => exact (Writes.refl h).of_regs rfl

/-- ABANDONED is set where a collective was posted (R294). -/
theorem State.abandonColls_abandoned {s : State} (h : s.regsOk) (hsp : s.mem.spoiled = []) (hq : s.coll.queue ≠ []) :
    (s.abandonColls fun _ => true).get F.COLL_STAT_ABANDONED = 1 := by
  rw [State.get_congr ((State.abandonColls_of_sound hsp _).1.regs (by decide)), State.collsEnded, State.flagIf, if_pos]
  · have hw : Writes (fun _ => True) s (s.setCollQueue (s.coll.queue.filter fun _ => !true)) :=
      (((Writes.refl h).of_regs (u := { s with coll := { s.coll with queue := s.coll.queue.filter fun _ => !true } }) rfl).set _ _ trivial).set _ _
        trivial
    exact State.get_set _ _ hw.regsOk
  · simpa using hq

/-- The state in which a PLL's loss is recorded: its registers are those of `s` but for LOCK_LOSS and the queues of what was lost. -/
structure PllLost (pll : Pll) (s w : State) : Prop where
  writes : Writes (fun g => g = F.CLK_STAT_LOCK_LOSS ∨ (pll ≠ .mem ∧ 0xA0000 ≤ g.off)) s w
  loss : w.get F.CLK_STAT_LOCK_LOSS = 1
  same : Same [.regs, .tiles, .stalled, .free, .coll, .sent, .mem] s w
  failed : s.period.stepActive = true → ∀ n : TileIx, s.tileFenced n.val = false → (w.tile n).failed = true
  core : pll = .core → w.mem = s.mem ∧ ∀ n, w.queuesEmpty n
  fab : pll = .fab → w.coll.queue = [] ∧ (s.coll.queue ≠ [] → w.get F.COLL_STAT_ABANDONED = 1)
  mem : pll = .mem → w.mem = { s.mem with wc := Vector.replicate 32 [] }
  stalled : pll ≠ .core → w.stalled = s.stalled
  coll : pll ≠ .fab → w.coll = s.coll

theorem State.pllLost {s : State} (hok : s.regsOk) {pll : Pll} (hsp : pll = .fab → s.mem.spoiled = []) :
    PllLost pll s ((s.flag F.CLK_STAT_LOCK_LOSS).pllWorkLost pll).stepTilesFail := by
  have h1 := (Writes.refl (W := fun g => g = F.CLK_STAT_LOCK_LOSS) hok).set F.CLK_STAT_LOCK_LOSS 1 rfl
  have hs1 := s.set_same F.CLK_STAT_LOCK_LOSS 1
  have hloss := State.get_set F.CLK_STAT_LOCK_LOSS 1 hok
  have hfence : ∀ n : TileIx, (s.set F.CLK_STAT_LOCK_LOSS 1).tileFenced n.val = s.tileFenced n.val := fun n =>
    congrArg (fun x => bit x n.val) (h1.get_off F.FLT_FENCE_TILE_TILES fun g hg => by rw [hg]; decide)
  rw [State.flag]
  generalize s.set F.CLK_STAT_LOCK_LOSS 1 = u at *
  have hspu : pll = .fab → u.mem.spoiled = [] := fun h => by rw [hs1.mem (by decide), hsp h]
  have h2 := State.pllWorkLost_writes h1.regsOk hspu
  have hs2 := State.pllWorkLost_same hspu
  have hcore : pll = .core → ∀ n, (u.pllWorkLost pll).queuesEmpty n := by
    rintro rfl n
    exact u.flushQueues_empty n
  have hfab : pll = .fab → (u.pllWorkLost pll).coll.queue = [] ∧ (u.coll.queue ≠ [] → (u.pllWorkLost pll).get F.COLL_STAT_ABANDONED = 1) := by
    rintro rfl
    exact ⟨(State.abandonColls_of_sound (hspu rfl) _).2.trans (by simp), State.abandonColls_abandoned h1.regsOk (hspu rfl)⟩
  have hmem : pll = .mem → (u.pllWorkLost pll).mem = { u.mem with wc := Vector.replicate 32 [] } := by
    rintro rfl
    rfl
  have hfenced : ∀ n : TileIx, (u.pllWorkLost pll).tileFenced n.val = u.tileFenced n.val := fun n =>
    congrArg (fun x => bit x n.val) (h2.get_off F.FLT_FENCE_TILE_TILES fun g hg ho => absurd (ho ▸ hg.2) (by decide))
  generalize u.pllWorkLost pll = v at *
  have hall : Same [.regs, .tiles, .stalled, .free, .coll, .sent, .mem] u v := hs2.mono (pllPieces_sub pll)
  have hs3 := v.stepTilesFail_same
  have hfail (hact : v.period.stepActive = true) (n : TileIx) (hn : v.tileFenced n.val = false) := State.stepTilesFail_failed hact hn
  have hqueues (n : TileIx) (hn : v.queuesEmpty n) := State.stepTilesFail_queues hn
  generalize v.stepTilesFail = w at *
  have hsw : Same [.regs, .tiles, .stalled, .free, .coll, .sent, .mem] s w :=
    (hs1.mono (by decide)).trans (hall.trans (hs3.mono (by decide)))
  have hget (f : Field) : w.get f = v.get f := State.get_congr (hs3.regs (by decide)) f
  refine ⟨((h1.mono fun _ => .inl).trans (h2.mono fun _ => .inr)).of_same hs3, ?_, hsw, fun hact n hn => ?_, fun h => ⟨?_, fun n => ?_⟩,
    fun h => ⟨?_, fun hq => ?_⟩, fun h => ?_, fun h => ?_, fun h => ?_⟩
  · rw [hget, h2.get_off F.CLK_STAT_LOCK_LOSS fun g hg ho => absurd (ho ▸ hg.2) (by decide)]
    exact hloss
  · refine hfail ?_ n ?_
    · rw [hall.period (by decide), hs1.period (by decide), hact]
    · rw [hfenced, hfence, hn]
  · subst h
    rw [hs3.mem (by decide), hs2.mem (by decide), hs1.mem (by decide)]
  · exact hqueues n (hcore h n)
  · rw [hs3.coll (by decide), (hfab h).1]
  · rw [hget, (hfab h).2]
    rwa [hs1.coll (by decide)]
  · rw [hs3.mem (by decide), hmem h, hs1.mem (by decide)]
  · rw [hs3.stalled (by decide), hs2.stalled (stalled_not_mem_pllPieces h), hs1.stalled (by decide)]
  · rw [hs3.coll (by decide), hs2.coll (coll_not_mem_pllPieces h), hs1.coll (by decide)]

/-- Settles O12: the record is queued last, and neither the work lost nor the tiles that fail touch what it reads. -/
theorem pllLossFailsTheStep : Obligations.PllLossFailsTheStep := by
  intro pll s hwf hpow hmode hlock hroom hsp
  have hexec : exec (.pllLockLoss pll) s = _ := execPllLockLoss_eq hpow hlock
  have hlost := State.pllLost (State.regsOk_of_memWf hwf) hsp
  generalize ((s.flag F.CLK_STAT_LOCK_LOSS).pllWorkLost pll).stepTilesFail = w at *
  have hwok := hlost.writes.regsOk
  have hold (f : Field) (hoff : f.off < 0xA0000) (hne : f.off ≠ 0x20010) (hf : f.lo + f.w ≤ 64) : w.get f = s.get f := by
    refine hlost.writes.get_off f (fun g hg ho => ?_) hf
    rcases hg with hg | hg
    · exact hne (ho ▸ hg ▸ rfl)
    · omega
  have hflt : w.flt = s.flt := hlost.same.flt (by decide)
  have hpost : w.post clsPower 0 1 0x0E 0 0 = w.enqueue (s.mkRec clsPower 0 1 0x0E 0 0 1 0) := by
    rw [State.post, State.postFull_of_room hwok (hroom.congr hflt ?_) (by decide), State.mkRec_congr (hlost.same.time (by decide)) ?_]
    all_goals
      intro f hf
      simp only [List.mem_cons, List.not_mem_nil, or_false] at hf
      rcases hf with rfl | rfl | rfl | rfl | rfl | rfl <;> exact hold _ (by decide) (by decide) (by decide)
  have hq := State.enqueue_queued hwok (by rw [hflt]; exact hroom.1) (s.mkRec clsPower 0 1 0x0E 0 0 1 0)
  have hw := State.enqueue_writes hwok (s.mkRec clsPower 0 1 0x0E 0 0 1 0)
  have hsame := w.enqueue_same (s.mkRec clsPower 0 1 0x0E 0 0 1 0)
  rw [hpost] at hexec
  generalize w.enqueue (s.mkRec clsPower 0 1 0x0E 0 0 1 0) = t at *
  have hkeep (f : Field) (hne : f.off ≠ 0x50008) (hf : f.lo + f.w ≤ 64) : t.get f = w.get f := by
    refine hw.get_off f (fun g hg => ?_) hf
    rw [(by decide : ∀ g ∈ queueFields, g.off = 0x50008) g hg]
    exact hne.symm
  have htile (n : TileIx) : t.tile n = w.tile n := State.tile_congr (hsame.tiles (by decide)) n
  refine ⟨t, hexec, ?_, ?_, fun hact n hn => ?_, fun h n => ?_, fun h => ⟨?_, fun hne => ?_⟩, fun h => ⟨?_, ?_⟩, fun h => ?_, fun h => ?_,
    fun h => ?_, ?_, ?_⟩
  · rw [hkeep F.CLK_STAT_LOCK_LOSS (by decide) (by decide), hlost.loss]
  · unfold State.queued at hq ⊢
    rw [hflt, hold F.FLT_QUEUE_PEAK (by decide) (by decide) (by decide)] at hq
    exact hq
  · rw [htile, hlost.failed hact n hn]
  · exact ((hlost.core h).2 n).congr (htile n)
  · rw [hsame.coll (by decide), (hlost.fab h).1]
  · rw [hkeep F.COLL_STAT_ABANDONED (by decide) (by decide), (hlost.fab h).2 hne]
  · intro f hf ha
    rw [hw.get f hf fun g hg => ha g (List.mem_cons_of_mem _ hg)]
    exact hlost.writes.get f hf fun g hg => by
      rcases hg with hg | hg
      · exact ha g (hg ▸ List.mem_cons_self)
      · exact absurd h hg.1
  · rw [hsame.mem (by decide), hlost.mem h]
  · rw [hsame.stalled (by decide), hlost.stalled h]
  · rw [hsame.coll (by decide), hlost.coll h]
  · rw [hsame.mem (by decide), (hlost.core h).1]
  · rw [State.mode, hkeep F.MGT_BOOTSTAT_MODE (by decide) (by decide), hold F.MGT_BOOTSTAT_MODE (by decide) (by decide) (by decide)]
    exact hmode
  · rw [hsame.period (by decide), hlost.same.period (by decide)]

end Sys2Proof.Machine
end

section
/-! SUPPORT. O26: S0 of a training step (R147, R149). -/

namespace Sys2Proof.Machine

/-- The registers that S0 writes: PWR_STAT, PWR_SCHED, SEAL_STAT, and the counts of collectives, stashes, tiles and engines. -/
def stepFields (g : Field) : Prop := schedFields g ∨ 0x60010 ≤ g.off

theorem Writes.get_step {s t : State} (h : Writes stepFields s t) (f : Field) (hf : f.lo + f.w ≤ 64)
    (hoff : f.off < 0x10008 ∨ 0x10028 < f.off ∧ f.off < 0x60010) : t.get f = s.get f := by
  refine h.get_off f (fun g hg ho => ?_) hf
  unfold stepFields schedFields at hg
  omega

/-! Rungs and frames. -/

theorem State.applyRungs_same (s : State) : Same [.regs, .ladder] s s.applyRungs :=
  (State.applyRungs_keeps (List.Subset.refl _) (Keeps.refl s)).same

theorem State.applyRungs_writes {s : State} (h : s.regsOk) : Writes stepFields s s.applyRungs := by
  unfold State.applyRungs
  extract_lets up down move s1 s2
  have h1 : Writes stepFields s s1 := (Writes.refl h).of_regs rfl
  have h2 : Writes stepFields s s2 := (h1.flagIf _ _ (.inr (by decide))).flagIf _ _ (.inr (by decide))
  exact .ite (h2.set _ _ (.inr (by decide))) h2

/-- Pending rungs are applied and the frames of the last commit return (R147, R261). -/
def State.framesBack (s : State) : State :=
  ({ s.applyRungs with mem := { s.applyRungs.mem with returning := [] } }).forEach s.applyRungs.mem.returning.reverse fun s e => s.freeFrame e.2

theorem State.framesBack_facts {s : State} (h : s.regsOk) :
    Writes stepFields s s.framesBack ∧ Same [.regs, .ladder, .mem] s s.framesBack ∧ s.framesBack.ladder = s.applyRungs.ladder ∧
      ∃ p, s.framesBack.mem = { s.mem with returning := [], pool := p } := by
  have hs := s.applyRungs_same
  have hw := State.applyRungs_writes h
  unfold State.framesBack
  generalize s.applyRungs = u at *
  have hu : Same [.mem] u { u with mem := { u.mem with returning := [] } } := (Same.refl u).upd (M := [.mem]) (List.Subset.refl _)
  obtain ⟨hf, p, hp⟩ := State.freeFrames_mem { u with mem := { u.mem with returning := [] } } u.mem.returning.reverse fun e => e.2
  refine ⟨(hw.of_same hu).of_same hf, (hs.mono (by decide)).trans ((hu.trans hf).mono (by decide)), ?_, p, ?_⟩
  · rw [hf.ladder (by decide)]
  · rw [hp, ← hs.mem (by decide)]

/-! Tiles. -/

/-- The flags of the step are clear on tile n (R149, R240). -/
def State.stepClear (s : State) (n : TileIx) : Prop :=
  (s.tile n).failed = false ∧ (s.tile n).nonfin = false ∧ (s.tile n).poisonUsed = false ∧ (s.tile n).part = none ∧ (s.tile n).drain = false

theorem State.stepTile_tile_self (s : State) (n : TileIx) : (s.stepTile n).stepClear n ∧ ((s.stepTile n).tile n).mem = (s.tile n).mem := by
  unfold State.stepTile State.stepClear
  extract_lets s1
  have h1 : s1.tile n = s.tile n := by rw [State.tile_set, State.tile_set]
  rw [State.tile_modTile_self, ← h1]
  exact ⟨⟨rfl, rfl, rfl, rfl, rfl⟩, rfl⟩

theorem State.stepTile_tile_ne (s : State) {n m : TileIx} (h : n ≠ m) : (s.stepTile n).tile m = s.tile m := by
  unfold State.stepTile
  extract_lets s1
  rw [State.tile_modTile_ne _ _ _ _ h, State.tile_set, State.tile_set]

theorem State.stepTile_writes {s : State} (h : s.regsOk) (n : TileIx) : Writes stepFields s (s.stepTile n) := by
  have hoff : 0x60010 ≤ 0x100500 + n.val * 0x10000 := Nat.le_trans (by decide) (Nat.le_add_right _ _)
  unfold State.stepTile
  extract_lets s1
  have h1 : Writes stepFields s s1 := ((Writes.refl h).set _ _ (.inr hoff)).set _ _ (.inr hoff)
  exact h1.of_regs (State.modTile_regs _ _ _)

/-- Every tile is clear for the step, its memory as it was. -/
theorem State.stepTiles_facts {s : State} (h : s.regsOk) :
    Writes stepFields s (s.forEach allTiles fun s n => s.stepTile n) ∧ Same [.regs, .tiles] s (s.forEach allTiles fun s n => s.stepTile n) ∧
      ∀ n, (s.forEach allTiles fun s n => s.stepTile n).stepClear n ∧ ((s.forEach allTiles fun s n => s.stepTile n).tile n).mem = (s.tile n).mem := by
  refine ⟨(Writes.refl h).forEach fun t n _ ht => ht.trans (State.stepTile_writes ht.regsOk n),
    State.forEach_induction (P := Same [.regs, .tiles] s) (Same.refl s) fun t n _ ht =>
      ht.trans (State.stepTile_keeps (List.Subset.refl _) (Keeps.refl t) n).same, fun n => ⟨?_, ?_⟩⟩
  · refine State.forEach_of_mem (P := fun t => t.stepClear n) (List.mem_finRange n) (fun t => (t.stepTile_tile_self n).1) fun t m ht => ?_
    by_cases hm : m = n
    · exact hm ▸ (t.stepTile_tile_self m).1
    · unfold State.stepClear
      rw [t.stepTile_tile_ne hm]
      exact ht
  · refine State.forEach_induction (P := fun t => (t.tile n).mem = (s.tile n).mem) rfl fun t m _ ht => ?_
    by_cases hm : m = n
    · subst hm
      exact (t.stepTile_tile_self m).2.trans ht
    · rw [t.stepTile_tile_ne hm, ht]

theorem State.tileCounts_facts {s : State} (h : s.regsOk) (n m : TileIx) :
    Writes stepFields s (s.tileCounts n) ∧ ∃ c x, (s.tileCounts n).tile m = { s.tile m with cru := c, mxCfg := x } := by
  unfold State.tileCounts
  extract_lets k s0 s1 s2 s3 s4
  have hk (a : Nat) (ha : 0x60010 ≤ a) : 0x60010 ≤ a + k * 0x10000 := Nat.le_trans ha (Nat.le_add_right _ _)
  have h0 : Writes stepFields s s0 := ((Writes.refl h).set _ _ (.inr (hk _ (by decide)))).set _ _ (.inr (hk _ (by decide)))
  have h1 : Writes stepFields s s1 := (h0.set _ _ (.inr (hk _ (by decide)))).set _ _ (.inr (hk _ (by decide)))
  have h2 : Writes stepFields s s2 := ((h1.set _ _ (.inr (hk _ (by decide)))).set _ _ (.inr (hk _ (by decide)))).set _ _ (.inr (hk _ (by decide)))
  have h3 : Writes stepFields s s3 := (h2.set _ _ (.inr (hk _ (by decide)))).set _ _ (.inr (hk _ (by decide)))
  have h4 : Writes stepFields s s4 := ((h3.set _ _ (.inr (hk _ (by decide)))).set _ _ (.inr (hk _ (by decide)))).set _ _ (.inr (hk _ (by decide)))
  have ht : s4.tile m = s.tile m := by simp only [s4, s3, s2, s1, s0, State.tile_set]
  clear_value s4
  refine ⟨h4.of_regs (State.modTile_regs _ _ _), ?_⟩
  by_cases hm : n = m
  · subst hm
    rw [State.tile_modTile_self, ht]
    exact ⟨_, _, rfl⟩
  · rw [State.tile_modTile_ne _ _ _ _ hm, ht]
    exact ⟨(s.tile m).cru, (s.tile m).mxCfg, rfl⟩

theorem State.engineCounts_writes {s : State} (h : s.regsOk) : Writes stepFields s s.engineCounts := by
  unfold State.engineCounts
  extract_lets s1 s2
  have hk (a b : Nat) (ha : 0x60010 ≤ a) : 0x60010 ≤ a + b := Nat.le_trans ha (Nat.le_add_right _ _)
  have h1 : Writes stepFields s s1 := (Writes.refl h).forEach fun t q _ ht => ht.set _ _ (.inr (hk _ _ (by decide)))
  have h2 : Writes stepFields s s2 :=
    h1.forEach fun t q _ ht => (ht.set _ _ (.inr (hk _ _ (by decide)))).set _ _ (.inr (hk _ _ (by decide)))
  exact h2.wr _ _ (.inr (by decide))

theorem State.engineCounts_same (s : State) : Same [.regs] s s.engineCounts :=
  (State.engineCounts_keeps (List.Subset.refl _) (Keeps.refl s)).same

/-- The counts of the step begin at 0; no flag and no byte of a tile changes. -/
theorem State.stepCounts_facts {s : State} (h : s.regsOk) :
    Writes stepFields s s.stepCounts ∧ Same [.regs, .tiles] s s.stepCounts ∧
      ∀ n, (s.stepClear n → s.stepCounts.stepClear n) ∧ (s.stepCounts.tile n).mem = (s.tile n).mem := by
  have hs : Same [.regs, .tiles] s s.stepCounts := (State.stepCounts_keeps (List.Subset.refl _) (Keeps.refl s)).same
  have htiles : Writes stepFields s (s.forEach (allTiles.filter fun n => !s.tileFenced n.val) fun s n => s.tileCounts n) :=
    (Writes.refl h).forEach fun t n _ ht => ht.trans (State.tileCounts_facts ht.regsOk n n).1
  have hn (n : TileIx) : ∃ c x, (s.forEach (allTiles.filter fun n => !s.tileFenced n.val) fun s n => s.tileCounts n).tile n =
      { s.tile n with cru := c, mxCfg := x } := by
    refine (State.forEach_induction (P := fun t => t.regsOk ∧ ∃ c x, t.tile n = { s.tile n with cru := c, mxCfg := x })
      ⟨h, (s.tile n).cru, (s.tile n).mxCfg, rfl⟩ fun t m _ ht => ?_).2
    obtain ⟨hok, c, x, hc⟩ := ht
    obtain ⟨hw, c', x', hc'⟩ := State.tileCounts_facts hok m n
    exact ⟨hw.regsOk, c', x', by rw [hc', hc]⟩
  have he (n : TileIx) : ∃ c x, s.stepCounts.tile n = { s.tile n with cru := c, mxCfg := x } := by
    obtain ⟨c, x, hc⟩ := hn n
    exact ⟨c, x, (State.tile_congr ((State.engineCounts_same _).tiles (by decide)) n).trans hc⟩
  refine ⟨htiles.trans (State.engineCounts_writes htiles.regsOk), hs, fun n => ?_⟩
  obtain ⟨c, x, hc⟩ := he n
  unfold State.stepClear
  rw [hc]
  exact ⟨id, rfl⟩

/-! Stashes. -/

theorem State.placeStashes_facts {s : State} (h : s.regsOk) :
    Writes stepFields s s.placeStashes ∧ Same [.regs, .mem] s s.placeStashes ∧
      ∃ a b, s.placeStashes.mem = { s.mem with stash := a, notStashed := b } := by
  refine ⟨?_, (State.placeStashes_keeps (List.Subset.refl _) (Keeps.refl s)).same, ?_⟩
  · unfold State.placeStashes
    split
    · exact .refl h
    · extract_lets layers placed entries missed cellars m s1
      have h1 : Writes stepFields s s1 := (Writes.refl h).of_regs rfl
      exact ((h1.set _ _ (.inr (by decide))).set _ _ (.inr (by decide))).set _ _ (.inr (by decide))
  · unfold State.placeStashes
    split
    · exact ⟨s.mem.stash, s.mem.notStashed, rfl⟩
    · exact ⟨_, _, rfl⟩

/-- Where no range is copied S0 reads and writes no memory (R91). -/
theorem State.copyRanges_of_none {s : State} (h : s.layout = none ∨ ∃ l, s.layout = some l ∧ l.rangeCopies = []) : s.copyRanges = s := by
  unfold State.copyRanges
  extract_lets l
  have hl : l = [] := by
    rcases h with h | ⟨x, hx, hnil⟩
    · simp only [l, h]
    · simp only [l, hx, hnil]
  rw [hl]
  rfl

/-! The step begins. -/

/-- The counts of the step outside tiles and engines begin at 0 (R147). -/
def State.zeroCounts (s : State) : State :=
  (((s.set F.PWR_SCHED_SKIPS 0).set F.PWR_SCHED_OVERSIZE_STARTS 0).set F.MEM_STASH_STAT_STASH_POISON 0).set F.MEM_STASH_STAT_RECOMPUTES 0

theorem State.zeroCounts_same (s : State) : Same [.regs] s s.zeroCounts :=
  (((s.set_same _ _).trans (State.set_same _ _ _)).trans (State.set_same _ _ _)).trans (State.set_same _ _ _)

theorem State.zeroCounts_writes {s : State} (h : s.regsOk) : Writes stepFields s s.zeroCounts := by
  have h1 : Writes stepFields s (s.set F.PWR_SCHED_SKIPS 0) := (Writes.refl h).set _ _ (.inl (.inr rfl))
  have h2 := h1.set F.PWR_SCHED_OVERSIZE_STARTS 0 (.inl (.inr rfl))
  have h3 := h2.set F.MEM_STASH_STAT_STASH_POISON 0 (.inr (by decide))
  exact h3.set F.MEM_STASH_STAT_RECOMPUTES 0 (.inr (by decide))

theorem State.clearStashes_same (s : State) : Same [.mem] s s.clearStashes := (Same.refl s).upd (M := [.mem]) (List.Subset.refl _)

/-- All of S0 but the copies of ranges, the step itself and its items. -/
def State.stepReady (s : State) : State :=
  (s.framesBack.bindWork.forEach allTiles fun s n => s.stepTile n).stepCounts.zeroCounts.clearStashes.placeStashes

/-- The step is in progress, no vote is held, the scalars of the optimiser stand (R147, R170). -/
def State.stepOpen (s : State) : State :=
  { s with
    stallReq := false
    period := { s.period with
      stepActive := true, used := []
      optStep := optScalars (match s.wb with | some w => w.data.optim | none => []) ({ s with stallReq := false } : State).stepNo }
    seals := { s.seals with votes := [], decided := false, voted := false, late := false } }

theorem State.stepStart_eq {s : State} (h : s.stepReady.copyRanges = s.stepReady) : s.stepStart = (s.stepReady.stepOpen.loadItems 3).schedule := by
  have hs : s.stepStart = (s.stepReady.copyRanges.stepOpen.loadItems 3).schedule := rfl
  rw [hs, h]

/-- What S0 leaves: memory but stashes and frames, the step's number, the items. -/
structure StepReady (s t : State) : Prop where
  writes : Writes stepFields s t
  same : Same [.regs, .period, .ladder, .mem, .tiles] s t
  ladder : t.ladder = s.applyRungs.ladder
  dram : t.mem.dram = s.mem.dram
  shadows : t.mem.shadows = s.mem.shadows
  returning : t.mem.returning = []
  tiles : ∀ n, t.stepClear n ∧ (t.tile n).mem = (s.tile n).mem

theorem State.stepClear_congr {s t : State} {n : TileIx} (h : t.tile n = s.tile n) (hs : s.stepClear n) : t.stepClear n := by
  unfold State.stepClear
  rw [h]
  exact hs

theorem State.stepReady_facts {s : State} (h : s.regsOk) : StepReady s s.stepReady := by
  obtain ⟨hw1, hs1, hl1, p, hp⟩ := State.framesBack_facts h
  unfold State.stepReady
  have hd1 : s.framesBack.mem.dram = s.mem.dram := by rw [hp]
  have hh1 : s.framesBack.mem.shadows = s.mem.shadows := by rw [hp]
  have hr1 : s.framesBack.mem.returning = [] := by rw [hp]
  clear hp
  generalize s.framesBack = u1 at *
  have hs2 : Same [.period] u1 u1.bindWork := (State.bindWork_keeps (List.Subset.refl _) (Keeps.refl u1)).same
  have hw2 := hw1.of_same hs2
  generalize u1.bindWork = u2 at *
  obtain ⟨hw3, hs3, ht3⟩ := State.stepTiles_facts hw2.regsOk
  generalize (u2.forEach allTiles fun s n => s.stepTile n) = u3 at *
  obtain ⟨hw4, hs4, ht4⟩ := State.stepCounts_facts hw3.regsOk
  generalize u3.stepCounts = u4 at *
  have hw5 := State.zeroCounts_writes hw4.regsOk
  have hs5 := u4.zeroCounts_same
  generalize u4.zeroCounts = u5 at *
  have hs6 := u5.clearStashes_same
  have hc6 : u5.clearStashes.mem.dram = u5.mem.dram ∧ u5.clearStashes.mem.shadows = u5.mem.shadows ∧
    u5.clearStashes.mem.returning = u5.mem.returning := ⟨rfl, rfl, rfl⟩
  generalize u5.clearStashes = u6 at *
  obtain ⟨hw7, hs7, a, b, hab⟩ := State.placeStashes_facts (hw5.of_same hs6).regsOk
  generalize u6.placeStashes = u7 at *
  have hall : Same [.regs, .period, .tiles] u1 u5 :=
    (hs2.mono (by decide)).trans ((hs3.mono (by decide)).trans ((hs4.mono (by decide)).trans (hs5.mono (by decide))))
  have hm5 : u5.mem = u1.mem := hall.mem (by decide)
  have hsame : Same [.regs, .period, .tiles, .mem] u1 u7 :=
    (hall.mono (by decide)).trans ((hs6.mono (by decide)).trans (hs7.mono (by decide)))
  have htile (n : TileIx) : u7.tile n = u4.tile n :=
    State.tile_congr ((hs7.tiles (by decide)).trans ((hs6.tiles (by decide)).trans (hs5.tiles (by decide)))) n
  have htile1 (n : TileIx) : u2.tile n = s.tile n :=
    State.tile_congr ((hs2.tiles (by decide)).trans (hs1.tiles (by decide))) n
  refine ⟨(((hw2.trans hw3).trans hw4).trans (hw5.of_same hs6)).trans hw7, (hs1.mono (by decide)).trans (hsame.mono (by decide)),
    (hsame.ladder (by decide)).trans hl1, ?_, ?_, ?_, fun n => ⟨?_, ?_⟩⟩
  · rw [hab, hc6.1, hm5, hd1]
  · rw [hab, hc6.2.1, hm5, hh1]
  · rw [hab, hc6.2.2, hm5, hr1]
  · exact State.stepClear_congr (htile n) ((ht4 n).1 (ht3 n).1)
  · rw [htile, (ht4 n).2, (ht3 n).2, htile1]

theorem State.stepOpen_same (s : State) : Same [.stallReq, .period, .seals] s s.stepOpen :=
  (Same.refl s).upd (M := [.stallReq, .period, .seals]) (List.Subset.refl _)

theorem State.mayTrain_phase {s : State} (h : s.mayTrain = true) : s.phase = 3 := by
  simp only [State.mayTrain, Bool.and_eq_true, beq_iff_eq] at h
  omega

theorem State.layout_congr {s t : State} (h : t.wb = s.wb) : t.layout = s.layout := by rw [State.layout, h, State.layout]

/-- What the begun step shows. -/
theorem State.stepStart_facts {s : State} (hok : s.regsOk) (hranges : s.layout = none ∨ ∃ l, s.layout = some l ∧ l.rangeCopies = []) :
    Writes stepFields s s.stepStart ∧ Same [.regs, .power, .period, .seals, .ladder, .mem, .tiles, .stallReq] s s.stepStart ∧
      s.stepStart.period.stepActive = true ∧ s.stepStart.seals.votes = [] ∧ s.stepStart.seals.voted = false ∧
      s.stepStart.power.items.map (fun x => x.id) = (s.planItems 3).map (fun i => i.id) ∧
      s.stepStart.ladder = s.applyRungs.ladder ∧ s.stepStart.mem = s.stepReady.mem ∧ s.stepStart.tiles = s.stepReady.tiles := by
  have h := State.stepReady_facts hok
  have hsr : s.stepReady.wb = s.wb := h.same.wb (by decide)
  rw [State.stepStart_eq (State.copyRanges_of_none (by rwa [State.layout_congr hsr]))]
  generalize s.stepReady = u at *
  have hopen := u.stepOpen_same
  have hact : u.stepOpen.period.stepActive = true := rfl
  have hvotes : u.stepOpen.seals.votes = [] := rfl
  have hvoted : u.stepOpen.seals.voted = false := rfl
  generalize u.stepOpen = v at *
  have hload := v.loadItems_same 3
  have hids := v.loadItems_ids 3
  have hw : Writes stepFields s (v.loadItems 3) := (h.writes.of_same hopen).of_same hload
  generalize v.loadItems 3 = w at *
  have hsched := w.schedule_same
  have hrest : Same [.regs, .power] v w.schedule := (hload.mono (by decide)).trans hsched
  refine ⟨hw.trans ((State.schedule_writes hw.regsOk).mono fun _ => .inl),
    (h.same.mono (by decide)).trans ((hopen.mono (by decide)).trans (hrest.mono (by decide))), ?_, ?_, ?_, ?_, ?_, ?_, ?_⟩
  · rw [hrest.period (by decide), hact]
  · rw [hrest.seals (by decide), hvotes]
  · rw [hrest.seals (by decide), hvoted]
  · rw [State.schedule_ids, hids, State.planItems_congr ((hopen.wb (by decide)).trans hsr)]
  · rw [hrest.ladder (by decide), hopen.ladder (by decide), h.ladder]
  · rw [hrest.mem (by decide), hopen.mem (by decide)]
  · rw [hrest.tiles (by decide), hopen.tiles (by decide)]

/-- Settles O26: with no range to copy S0 reads no memory, so nothing but the step's own state changes. -/
theorem trainingStepStarts : Obligations.TrainingStepStarts := by
  intro s hwf _
  have hok := State.regsOk_of_memWf hwf
  refine ⟨fun hmay hfits hranges => ?_, fun hrun hper hphase hact hfits => ?_⟩
  · have hexec : exec .trainingStepStart s = .next s.stepStart := if_pos (by rw [hmay, hfits]; rfl)
    have hready := State.stepReady_facts hok
    obtain ⟨hw, hsame, hact, hvotes, hvoted, hids, hladder, hmem, htiles⟩ := State.stepStart_facts hok hranges
    have htile := State.tile_congr htiles
    refine ⟨_, hexec, hact, ?_, ?_, hladder, ?_, hvotes, hvoted, hids, fun n _ => ?_, ?_, ?_, hsame⟩
    · exact (hw.get_step F.MGT_PERIOD_STAT_PHASE (by decide) (.inl (by decide))).trans (State.mayTrain_phase hmay)
    · exact congrArg (fun k => k + 1) (hw.get_step F.SEAL_STEP_STEP_COUNTER (by decide) (.inr (by decide)))
    · rw [hmem, hready.returning]
    · obtain ⟨⟨h1, h2, h3, h4, h5⟩, h6⟩ := hready.tiles n
      rw [htile]
      exact ⟨h1, h2, h3, h4, h5, h6⟩
    · rw [hmem, hready.dram]
    · rw [hmem, hready.shadows]
  · have htrain : s.trainCheck = s.enterSelfTest := if_pos (by rw [hphase, hact, hfits]; rfl)
    have hexec : exec .trainingStepStart s = .next s.enterSelfTest := by
      rw [← htrain]
      exact (if_neg (by rw [hfits, Bool.and_false]; exact Bool.noConfusion)).trans (if_pos (State.inPeriod_of hrun hper))
    exact ⟨_, hexec, (State.enterSelfTest_writes hok).2, s.enterSelfTest_same.period (by decide)⟩

end Sys2Proof.Machine
end

section
/-! SUPPORT. Accesses to memory where no line holds an error (R210 to R222, R299, R393): what they may write outside memory. -/

namespace Sys2Proof.Machine

/-- The fields that an access writes, the state of a woken interface apart: the counts of a wake event, flags of memory, tiles, collectives and
staging. -/
def accessFields (g : Field) : Prop :=
  g = F.MGT_HDM_BIAS_STALL ∨ (∃ d, 103 ≤ d ∧ (g = F.PWR_DOM_STAT_LAST_WAKE d ∨ g = F.PWR_DOM_STAT_WAKES d)) ∨
    g.off ∈ [0x20010, 0xA0000, 0xC0018, 0x630010] ∨ unitFields g

/-- The state of a memory interface, which an access may wake. -/
def wokenFields (g : Field) : Prop := ∃ d, 103 ≤ d ∧ g = F.PWR_DOM_STAT_STATE d

/-- From `s` to `t` memory was accessed, without an error met: parts of `L` are written, no item of work among them, no granule changes its bias,
and no restore begins. -/
structure Accessed (L : List Piece) (s t : State) : Prop where
  writes : Writes (fun g => accessFields g ∨ wokenFields g) s t
  same : Same L s t
  latent : t.mem.latent = []
  hostBias : t.mem.hostBias = s.mem.hostBias
  items : t.power.items = s.power.items
  noRestore : s.restoreBusy = false → t.restoreBusy = false

theorem Accessed.refl {L : List Piece} {s : State} (hok : s.regsOk) (hl : s.mem.latent = []) : Accessed L s s :=
  ⟨.refl hok, .refl s, hl, rfl, rfl, id⟩

theorem Accessed.trans {L : List Piece} {s t u : State} (h : Accessed L s t) (k : Accessed L t u) : Accessed L s u :=
  ⟨h.writes.trans k.writes, h.same.trans k.same, k.latent, k.hostBias.trans h.hostBias, k.items.trans h.items, fun hs => k.noRestore (h.noRestore hs)⟩

theorem Accessed.mono {L M : List Piece} {s t : State} (hL : M ⊆ L) (h : Accessed M s t) : Accessed L s t :=
  { h with same := h.same.mono hL }

/-- An update that leaves registers, errors, biases and items alone. -/
theorem Accessed.upd {L M : List Piece} {σ s t : State} (hL : M ⊆ L) (h : Accessed L σ s) (k : Same M s t) (hregs : t.regs = s.regs)
    (hl : t.mem.latent = s.mem.latent) (hb : t.mem.hostBias = s.mem.hostBias) (hi : t.power.items = s.power.items) : Accessed L σ t where
  writes := h.writes.of_regs hregs
  same := h.same.upd hL k
  latent := hl.trans h.latent
  hostBias := hb.trans h.hostBias
  items := hi.trans h.items
  noRestore hs := by rw [State.restoreBusy, State.get_congr hregs]; exact h.noRestore hs

theorem accessFields_apart_restore {g : Field} (h : accessFields g) : F.ENG_RESTORE_STAT_STATE.apart g := by
  rcases h with rfl | ⟨d, -, rfl | rfl⟩ | h | ⟨-, h | h⟩
  · exact .inl (by decide)
  · exact .inr (.inl (Nat.le_of_ble_eq_true rfl))
  · exact .inr (.inl (Nat.le_of_ble_eq_true rfl))
  · refine .inl fun ho => ?_
    rw [← ho] at h
    exact absurd h (by decide)
  · exact .inr (.inl (Nat.le_trans (by decide) h))
  · exact .inl (Nat.ne_of_gt (Nat.lt_trans h (by decide)))

/-- Parts that an access to DRAM writes. -/
def dramPieces : List Piece := [.regs, .power, .mem]

/-- Parts that an access of a unit writes. -/
def unitPieces : List Piece := [.regs, .power, .mem, .tiles, .cast, .stallReq]

section dram
variable {L : List Piece} {σ s : State}

theorem Accessed.set (hL : [.regs] ⊆ L) (h : Accessed L σ s) {f : Field} (x : Nat) (hf : accessFields f) : Accessed L σ (s.set f x) where
  writes := h.writes.set f x (.inl hf)
  same := h.same.upd hL (s.set_same f x)
  latent := h.latent
  hostBias := h.hostBias
  items := h.items
  noRestore hs := by
    rw [State.restoreBusy, State.get_set_ne _ _ _ h.writes.regsOk (accessFields_apart_restore hf)]
    exact h.noRestore hs

theorem Accessed.flagIf (hL : [.regs] ⊆ L) (h : Accessed L σ s) (b : Bool) {f : Field} (hf : accessFields f) : Accessed L σ (s.flagIf b f) := by
  unfold State.flagIf
  split
  · exact h.set hL 1 hf
  · exact h

/-- A domain comes ON: where its register is that of a restore, the restore's state is none that reads. -/
theorem Accessed.setDomOn (hL : [.regs] ⊆ L) (h : Accessed L σ s) {d : Nat} (hd : 103 ≤ d) : Accessed L σ (s.setDom d 3) where
  writes := h.writes.set _ 3 (.inr ⟨d, hd, rfl⟩)
  same := h.same.upd hL (s.set_same _ 3)
  latent := h.latent
  hostBias := h.hostBias
  items := h.items
  noRestore hs := by
    have hr := h.noRestore hs
    unfold State.restoreBusy at hr ⊢
    rw [State.setDom]
    by_cases ho : (F.PWR_DOM_STAT_STATE d).off = F.ENG_RESTORE_STAT_STATE.off
    · have h3 : (s.set (F.PWR_DOM_STAT_STATE d) 3).get (F.PWR_DOM_STAT_STATE d) = 3 :=
        State.get_set _ 3 h.writes.regsOk (hf := Nat.le_of_ble_eq_true rfl) (hx := by show 3 < 2 ^ 3; decide)
      have hbit : ((s.set (F.PWR_DOM_STAT_STATE d) 3).get F.ENG_RESTORE_STAT_STATE).testBit 0 = true := by
        have h0 := congrArg (fun n => n.testBit 0) h3
        simp only [State.get, fieldOf_testBit, ho] at h0 ⊢
        exact h0
      rw [beq_eq_false_iff_ne]
      intro h2
      rw [h2] at hbit
      exact absurd hbit (by decide)
    · rwa [State.get_set_ne _ _ _ h.writes.regsOk (.inl (Ne.symm ho))]

theorem accessFields_wake {d : Nat} (hd : 103 ≤ d) : accessFields (F.PWR_DOM_STAT_LAST_WAKE d) ∧ accessFields (F.PWR_DOM_STAT_WAKES d) :=
  ⟨.inr (.inl ⟨d, hd, .inl rfl⟩), .inr (.inl ⟨d, hd, .inr rfl⟩)⟩

theorem accessFields_of_off {f : Field} (h : f.off ∈ [0x20010, 0xA0000, 0xC0018, 0x630010]) : accessFields f := .inr (.inr (.inl h))

theorem Accessed.wakeEvent (hL : [.regs] ⊆ L) (h : Accessed L σ s) {d : Nat} (hd : 103 ≤ d) (code : Nat) : Accessed L σ (s.wakeEvent d code) := by
  obtain ⟨hlast, hwakes⟩ := accessFields_wake hd
  unfold State.wakeEvent
  have h1 := (h.set hL code hlast).set hL (Nat.min (2 ^ 16 - 1) ((s.set (F.PWR_DOM_STAT_LAST_WAKE d) code).get (F.PWR_DOM_STAT_WAKES d) + 1)) hwakes
  unfold State.coreRestart
  split
  · exact (h1.set hL 0 (accessFields_of_off (by decide))).set hL 1 (accessFields_of_off (by decide))
  · exact h1

/-- Domains that begin or end to wake are no items of work. -/
theorem Accessed.waking (hL : [.power] ⊆ L) (h : Accessed L σ s) (w : List (Nat × Nat)) :
    Accessed L σ { s with power := { s.power with waking := w } } :=
  h.upd hL ((Same.refl s).upd (M := [.power]) (List.Subset.refl _)) rfl rfl rfl rfl

theorem Accessed.wake (hL : [.regs, .power] ⊆ L) (h : Accessed L σ s) {d : Nat} (hd : 103 ≤ d) (code : Nat) : Accessed L σ (s.wake d code) := by
  unfold State.wake
  split
  · extract_lets s1
    exact (h.wakeEvent (List.Subset.trans (by decide) hL) hd code).waking (List.Subset.trans (by decide) hL) _
  · exact h

/-- A memory interface that sleeps wakes for the module's own access. -/
theorem Accessed.memAwake (hL : dramPieces ⊆ L) (h : Accessed L σ s) (k : Nat) : Accessed L σ (s.memAwake k) := by
  have hr : [Piece.regs] ⊆ L := List.Subset.trans (by decide) hL
  have hd : 103 ≤ domMem k := Nat.le_add_right _ _
  unfold State.memAwake
  split
  · exact (((h.wake (List.Subset.trans (by decide) hL) hd 1).waking (List.Subset.trans (by decide) hL) _).setDomOn hr hd).flagIf hr _
      (accessFields_of_off (by decide))
  · exact h

/-- An update of bonded memory that brings no error and no bias. -/
theorem Accessed.memTo (hL : [.mem] ⊆ L) (h : Accessed L σ s) (m : MemSt) (hl : m.latent = s.mem.latent) (hb : m.hostBias = s.mem.hostBias) :
    Accessed L σ { s with mem := m } :=
  h.upd hL ((Same.refl s).upd (M := [.mem]) (List.Subset.refl _)) rfl hl hb rfl

theorem State.meetErrors_of_none (h : s.mem.latent = []) (pl address : Nat) (persist scrub : Bool) : s.meetErrors pl address persist scrub = s := by
  unfold State.meetErrors
  rw [h]
  rfl

theorem Accessed.setWc (hL : dramPieces ⊆ L) (h : Accessed L σ s) (k : Nat) (l : List WcEntry) : Accessed L σ (s.setWc k l) := by
  unfold State.setWc
  split
  · exact h.memTo (List.Subset.trans (by decide) hL) _ rfl rfl
  · exact h

theorem Accessed.setPoison (hL : dramPieces ⊆ L) (h : Accessed L σ s) (pl : Nat) (p : Bool) : Accessed L σ (s.setPoison pl p) :=
  h.memTo (List.Subset.trans (by decide) hL) _ rfl rfl

theorem Accessed.putLine (hL : dramPieces ⊆ L) (h : Accessed L σ s) (pl : Nat) (d : Sparse Byte) : Accessed L σ (s.putLine pl d) :=
  h.memTo (List.Subset.trans (by decide) hL) _ rfl rfl

theorem Accessed.writeLine (hL : dramPieces ⊆ L) (h : Accessed L σ s) (q line : Nat) (d : Sparse Byte) (whole poison : Bool) :
    Accessed L σ (s.writeLine q line d whole poison) := by
  unfold State.writeLine
  split
  · exact h
  · next pl _ =>
    split
    · have herase : Sparse.erase s.mem.latent pl = s.mem.latent := by rw [h.latent]; rfl
      have hm := h.memTo (List.Subset.trans (by decide) hL) { s.mem with latent := Sparse.erase s.mem.latent pl } herase rfl
      exact (hm.putLine hL _ _).setPoison hL _ _
    · rw [State.meetErrors_of_none h.latent]
      split
      · exact (h.putLine hL _ _).setPoison hL _ _
      · exact h.putLine hL _ _

theorem Accessed.flushEntry (hL : dramPieces ⊆ L) (h : Accessed L σ s) (k : Nat) (e : WcEntry) : Accessed L σ (s.flushEntry k e) :=
  (h.memAwake hL k).writeLine hL _ _ _ _ _

theorem Accessed.wcMerge (hL : dramPieces ⊆ L) (h : Accessed L σ s) (q line : Nat) (d : Sparse Byte) : Accessed L σ (s.wcMerge q line d) := by
  unfold State.wcMerge
  extract_lets k p u l oldest
  have hu : Accessed L σ u := h.memAwake hL k
  clear_value u l
  have ho : Accessed L σ oldest := by
    unfold oldest
    split
    · split
      · exact (hu.setWc hL _ _).flushEntry hL _ _
      · exact hu
    · exact hu
  clear_value oldest
  split
  · exact (hu.setWc hL _ _).writeLine hL _ _ _ _ _
  · split
    · extract_lets b
      split
      · exact (hu.setWc hL _ _).flushEntry hL _ _
      · exact hu.setWc hL _ _
    · exact ho.setWc hL _ _

theorem Accessed.writeDram (hL : dramPieces ⊆ L) (h : Accessed L σ s) (q byte : Nat) (data : List Byte) (poison : Bool) :
    Accessed L σ (s.writeDram q byte data poison) := by
  unfold State.writeDram
  split
  · exact ((h.memAwake hL _).setWc hL _ _).writeLine hL _ _ _ _ _
  · have hm := h.wcMerge hL q (byte / 512) (data.zipIdx.map fun x => (byte % 512 + x.2, x.1))
    extract_lets line d u
    have hu : Accessed L σ u := hm
    clear_value u
    split
    · split
      · exact hu.setPoison hL _ _
      · exact hu
    · exact hu

theorem Accessed.forEach {α : Type} (h : Accessed L σ s) {l : List α} {f : State → α → State} (hf : ∀ t a, Accessed L σ t → Accessed L σ (f t a)) :
    Accessed L σ (s.forEach l f) :=
  State.forEach_induction h fun t a _ => hf t a

/-- The write-combining buffers are written to memory (R221). -/
theorem Accessed.fence (hL : dramPieces ⊆ L) (h : Accessed L σ s) : Accessed L σ s.fence :=
  h.forEach fun _ _ ht => (ht.setWc hL _ _).forEach fun _ _ hu => hu.flushEntry hL _ _

theorem accessFields_biasStall : accessFields F.MGT_HDM_BIAS_STALL := .inl rfl

/-- A write of the module itself, or its wait for a granule (R352). -/
theorem Accessed.moduleWrite (hL : dramPieces ⊆ L) (h : Accessed L σ s) (a : Nat) (data : List Byte) (poison : Bool) :
    Accessed L σ (s.moduleWrite a data poison) := by
  have hr : [Piece.regs] ⊆ L := List.Subset.trans (by decide) hL
  refine h.forEach fun t p ht => ?_
  split
  · split
    · exact (ht.set hr 1 accessFields_biasStall).memTo (List.Subset.trans (by decide) hL) _ rfl rfl
    · exact ht.writeDram hL _ _ _ _
  · exact ht.set hr 1 (accessFields_of_off (by decide))

end dram

section unit
variable {L : List Piece} {σ s : State}

theorem unitPieces_dram (hL : unitPieces ⊆ L) : dramPieces ⊆ L := List.Subset.trans (by decide) hL

theorem Accessed.modTile (hL : unitPieces ⊆ L) (h : Accessed L σ s) (n : TileIx) (f : TileSt → TileSt) : Accessed L σ (s.modTile n f) :=
  h.upd (List.Subset.trans (by decide) hL) ((Same.refl s).upd (M := [.tiles]) (List.Subset.refl _)) (State.modTile_regs _ _ _) rfl rfl rfl

theorem Accessed.tileWrite (hL : unitPieces ⊆ L) (h : Accessed L σ s) (n : TileIx) (a : Nat) (data : List Byte) (poison : Bool) :
    Accessed L σ (s.tileWrite n a data poison) := by
  unfold State.tileWrite
  exact h.modTile hL n _

theorem accessFields_tile {n o lo w : Nat} (hn : n < 64) (ho : o < 0x110000 := by decide) (hlo : 0x100000 ≤ o := by decide) :
    accessFields ⟨o + n * 0x10000, lo, w⟩ :=
  .inr (.inr (.inr ⟨Nat.le_trans hlo (Nat.le_add_right _ _), .inr (by show o + n * 0x10000 < 0x600000; omega)⟩))

/-- An access waits, and asks for the stall of its command. -/
theorem Accessed.stall (hL : unitPieces ⊆ L) (h : Accessed L σ s) (b : Bool) : Accessed L σ { s with stallReq := b } :=
  h.upd (List.Subset.trans (by decide) hL) ((Same.refl s).upd (M := [.stallReq]) (List.Subset.refl _)) rfl rfl rfl rfl

theorem Accessed.castTo (hL : unitPieces ⊆ L) (h : Accessed L σ s) (c : CastSt) : Accessed L σ { s with cast := c } :=
  h.upd (List.Subset.trans (by decide) hL) ((Same.refl s).upd (M := [.cast]) (List.Subset.refl _)) rfl rfl rfl rfl

theorem Accessed.unitMemTo (hL : unitPieces ⊆ L) (h : Accessed L σ s) (m : MemSt) (hl : m.latent = s.mem.latent) (hb : m.hostBias = s.mem.hostBias) :
    Accessed L σ { s with mem := m } :=
  h.memTo (List.Subset.trans (by decide) hL) m hl hb

/-- A frame is copied line by line, and a line that holds no error meets none. -/
theorem Accessed.copyFrame (hL : dramPieces ⊆ L) (h : Accessed L σ s) (src dst : Nat) : Accessed L σ (s.copyFrame src dst) := by
  refine h.forEach fun t i ht => ?_
  split
  · next q b q' b' _ _ =>
    extract_lets u k
    have hu : Accessed L σ u := (ht.memAwake hL _).memAwake hL _
    clear_value u
    split
    · exact hu.writeLine hL _ _ _ _ _
    · rw [State.meetErrors_of_none hu.latent]
      exact (hu.setWc hL _ _).writeLine hL _ _ _ _ _
  · exact ht

theorem Accessed.stageEntry (hL : unitPieces ⊆ L) (h : Accessed L σ s) (page : Nat) : Accessed L σ (s.stageEntry page) := by
  unfold State.stageEntry
  split
  · exact h
  · split
    · exact h
    · extract_lets k
      split
      · split
        · exact (h.set (List.Subset.trans (by decide) hL) 1 (accessFields_of_off (by decide))).stall hL true
        · extract_lets u r
          have hu : Accessed L σ u := h.copyFrame (unitPieces_dram hL) _ _
          exact hu.castTo hL _
      · exact h

theorem Accessed.exhausted (hL : unitPieces ⊆ L) (h : Accessed L σ s) (n : TileIx) :
    Accessed L σ ((s.flag (F.TILE_UPD_STAT_SHADOW_EXHAUST n.val)).failTile n) :=
  (h.set (List.Subset.trans (by decide) hL) 1 (accessFields_tile n.isLt)).modTile hL n _

theorem Accessed.shadow (hL : unitPieces ⊆ L) (h : Accessed L σ s) (n : TileIx) (page : Nat) (whole : Bool) :
    Accessed L σ (s.shadow n page whole).1 := by
  unfold State.shadow
  split
  · exact h
  · extract_lets k u1
    have h1 : Accessed L σ u1 := h.stageEntry hL page
    clear_value u1
    split
    · split
      · exact h.exhausted hL n
      · split
        · exact h1
        · extract_lets u2 src u3 m3 u4
          have h2 : Accessed L σ u2 := h1.unitMemTo hL _ rfl rfl
          clear_value u2
          have h3 : Accessed L σ u3 := by
            unfold u3
            split
            · exact h2
            · split
              · exact (h2.copyFrame (unitPieces_dram hL) _ _).modTile hL n _
              · exact h2.copyFrame (unitPieces_dram hL) _ _
          clear_value u3
          have h4 : Accessed L σ u4 := h3.unitMemTo hL _ rfl rfl
          exact h4.set (List.Subset.trans (by decide) hL) _ (accessFields_tile (o := 0x100508) n.isLt)
    · exact h.exhausted hL n

theorem Accessed.accessGate (hL : unitPieces ⊆ L) (h : Accessed L σ s) (a : Nat) : Accessed L σ (s.accessGate a) := by
  have hr : [Piece.regs] ⊆ L := List.Subset.trans (by decide) hL
  unfold State.accessGate
  split
  · split
    · exact (h.set hr 1 accessFields_biasStall).stall hL true
    · extract_lets d
      split
      · exact h
      · exact (h.wake (List.Subset.trans (by decide) hL) (Nat.le_add_right _ _) 1).stall hL true
  · exact h

theorem Accessed.noteStash (hL : unitPieces ⊆ L) (h : Accessed L σ s) (a : Nat) (data : List Byte) : Accessed L σ (s.noteStash a data) := by
  unfold State.noteStash
  split
  · exact h.unitMemTo hL _ rfl rfl
  · exact h

theorem Accessed.touch (hL : unitPieces ⊆ L) (h : Accessed L σ s) (a len : Nat) (write : Bool) : Accessed L σ (s.touch a len write) := by
  unfold State.touch
  extract_lets hit
  split
  · exact h
  · exact h.unitMemTo hL _ rfl rfl

theorem Accessed.unitWrite1 (hL : unitPieces ⊆ L) (h : Accessed L σ s) (n : TileIx) (lo hi a : Nat) (data : List Byte) (poison : Bool) :
    Accessed L σ (s.unitWrite1 n lo hi a data poison) := by
  have hr : [Piece.regs] ⊆ L := List.Subset.trans (by decide) hL
  unfold State.unitWrite1
  split
  · exact h
  · extract_lets page
    have hs : Accessed L σ (if s.persistent a then s.shadow n page (decide (lo ≤ page * 0x10000 ∧ page * 0x10000 + 0x10000 ≤ hi)) else (s, true)).1 := by
      split
      · exact h.shadow hL n page _
      · exact h
    generalize (if s.persistent a then s.shadow n page (decide (lo ≤ page * 0x10000 ∧ page * 0x10000 + 0x10000 ≤ hi)) else (s, true)) = x at hs ⊢
    obtain ⟨u, go⟩ := x
    simp only at hs ⊢
    split
    · exact hs
    · split
      · have hg := hs.accessGate hL (u.view false a)
        generalize u.accessGate (u.view false a) = v at hg ⊢
        refine Accessed.writeDram (unitPieces_dram hL) ?_ _ _ _ _
        split
        · exact hg.modTile hL n _
        · exact hg
      · split
        · exact hs.tileWrite hL _ _ _ _
        · exact hs
      · exact (hs.set hr 1 (accessFields_of_off (by decide))).modTile hL n _

/-- A store of a unit that is not poisoned. -/
theorem Accessed.unitStore (hL : unitPieces ⊆ L) (h : Accessed L σ s) (n : TileIx) (a : Nat) (data : List Byte) :
    Accessed L σ (s.unitStore n a data false) := by
  unfold State.unitStore
  extract_lets u p v
  have hv : Accessed L σ v := h.touch hL a data.length true
  clear_value v
  exact hv.forEach fun _ _ ht => (ht.unitWrite1 hL _ _ _ _ _ _).noteStash hL _ _

/-- Parts that the end of collectives writes (R285, R294). -/
def collPieces : List Piece := [.regs, .power, .mem, .tiles, .cast, .stallReq, .free, .coll, .sent]

theorem Accessed.destLost (hL : .free :: unitPieces ⊆ L) (h : Accessed L σ s) (c : Coll) : Accessed L σ (s.destLost c) := by
  have hu : unitPieces ⊆ L := List.Subset.trans (by decide) hL
  have hf : Accessed L σ { s with free := s.free + 1 } :=
    h.upd (List.Subset.trans (by decide) hL) ((Same.refl s).upd (M := [.free]) (List.Subset.refl _)) rfl rfl rfl rfl
  refine Accessed.stall hu ?_ _
  unfold State.undefDest
  split
  · exact h
  · exact (hf.unitMemTo hu { s.mem with spoiled := s.mem.spoiled.filter (fun r => r != c.dest) } rfl rfl).unitStore hu _ _ _

end unit

/-- The end of collectives: their records, their staging, and destinations that become undefined (R285, R294). -/
theorem State.abandonColls_accessed {s : State} (hok : s.regsOk) (hl : s.mem.latent = []) (which : Coll → Bool) :
    Accessed collPieces s (s.abandonColls which) ∧
      (s.abandonColls which).coll.queue = s.coll.queue.filter fun c => !which c := by
  have hs := s.collsEnded_same which
  have hw := State.collsEnded_writes hok which
  have h0 : Accessed collPieces s (s.collsEnded which) := by
    refine ⟨hw.mono fun g hg => .inl (accessFields_of_off (by rw [hg]; decide)), hs.mono (by decide), ?_, ?_, ?_, fun hr => ?_⟩
    · rw [hs.mem (by decide), hl]
    · rw [hs.mem (by decide)]
    · rw [hs.power (by decide)]
    · rw [State.restoreBusy, hw.get_off F.ENG_RESTORE_STAT_STATE fun g hg => by rw [hg]; decide]
      exact hr
  refine State.abandonColls_induction (P := fun t => Accessed collPieces s t ∧ t.coll.queue = s.coll.queue.filter fun c => !which c)
    ⟨h0, s.collsEnded_queue which⟩ (fun t port n ht => ?_) (fun t c a m k ht => ?_) fun t c ht => ?_
  · have hf := t.freeStaging_same port n
    exact ⟨ht.1.upd (by decide) hf (hf.regs (by decide)) (by rw [hf.mem (by decide)]) (by rw [hf.mem (by decide)]) (by rw [hf.power (by decide)]),
      (t.freeStaging_queue port n).trans ht.2⟩
  · have hr := t.collRecord_same c a m k
    exact ⟨ht.1.upd (by decide) hr (hr.regs (by decide)) (by rw [hr.mem (by decide)]) (by rw [hr.mem (by decide)]) (by rw [hr.power (by decide)]),
      by rw [hr.coll (by decide), ht.2]⟩
  · have hd := (Accessed.refl (L := .free :: unitPieces) ht.1.writes.regsOk ht.1.latent).destLost (List.Subset.refl _) c
    exact ⟨ht.1.trans (hd.mono (by decide)), by rw [hd.same.coll (by decide), ht.2]⟩

/-! What an access leaves. -/

/-- A field that no access writes: below the registers of the memory interfaces, or between the state of an interface and its last wake. -/
def Field.spared (f : Field) : Bool :=
  (f.off ≠ 0x128 || 21 ≤ f.lo || f.lo + f.w ≤ 20) && f.lo + f.w ≤ 64 &&
    (f.off < 0x10438 || (3 ≤ f.lo && f.lo + f.w ≤ 12 && f.off < 0x100000 && !([0x20010, 0xA0000, 0xC0018, 0x630010].contains f.off)))

theorem Field.spared_apart {f g : Field} (hf : f.spared = true) (hg : accessFields g ∨ wokenFields g) : f.apart g := by
  simp only [Field.spared, Bool.and_eq_true, Bool.or_eq_true, decide_eq_true_eq, Bool.not_eq_true', List.contains_eq_mem, decide_eq_false_iff_not] at hf
  obtain ⟨⟨hb, -⟩, hoff⟩ := hf
  rcases hg with (rfl | ⟨d, hd, rfl | rfl⟩ | hg | hg) | ⟨d, hd, rfl⟩
  · unfold Field.apart F.MGT_HDM_BIAS_STALL
    simp only
    omega
  · unfold Field.apart F.PWR_DOM_STAT_LAST_WAKE
    simp only
    omega
  · unfold Field.apart F.PWR_DOM_STAT_WAKES
    simp only
    omega
  · refine .inl fun ho => ?_
    rcases hoff with h | ⟨⟨⟨-, -⟩, h⟩, hn⟩
    · simp only [List.mem_cons, List.not_mem_nil, or_false] at hg
      omega
    · exact hn (ho ▸ hg)
  · have := hg.1
    exact .inl (by omega)
  · unfold Field.apart F.PWR_DOM_STAT_STATE
    simp only
    omega

theorem Accessed.get {L : List Piece} {s t : State} (h : Accessed L s t) (f : Field) (hf : f.spared = true := by decide) : t.get f = s.get f := by
  refine h.writes.get f ?_ fun g hg => Field.spared_apart hf hg
  simp only [Field.spared, Bool.and_eq_true, decide_eq_true_eq] at hf
  exact hf.1.2

end Sys2Proof.Machine
end

section
/-! SUPPORT. O23: ingest ends and inference begins. -/

namespace Sys2Proof.Machine

/-! The period's output buffer (R28, R352). -/

/-- The fields that the output of a period is decided by. -/
def outputFields : List Field :=
  [F.FLT_STAT_EXPELLED, F.MGT_OUT_HELD0, F.MGT_OUT_HELD1, F.MGT_OUT_OUT_SIZE, F.MGT_OUT_OUT_BASE, F.MGT_PERIOD_STAT_PERIOD_NUM]

/-- From `s` to `t` what the output of a period is decided by is kept: the module in its group, the period's buffer, its holder, its bias; and no
restore begins. -/
structure OutputKept (s t : State) : Prop where
  get : ∀ f ∈ outputFields, t.get f = s.get f
  hostBias : t.mem.hostBias = s.mem.hostBias
  noRestore : s.restoreBusy = false → t.restoreBusy = false

theorem OutputKept.trans {s t u : State} (h : OutputKept s t) (k : OutputKept t u) : OutputKept s u :=
  ⟨fun f hf => (k.get f hf).trans (h.get f hf), k.hostBias.trans h.hostBias, fun hs => k.noRestore (h.noRestore hs)⟩

theorem OutputKept.expelled {s t : State} (h : OutputKept s t) : t.on F.FLT_STAT_EXPELLED = s.on F.FLT_STAT_EXPELLED :=
  State.on_congr (h.get _ (by decide))

theorem OutputKept.heldField {s t : State} (h : OutputKept s t) : t.outHeldField = s.outHeldField := by
  rw [State.outHeldField, h.get F.MGT_PERIOD_STAT_PERIOD_NUM (by decide), State.outHeldField]

theorem State.outHeldField_mem (s : State) : s.outHeldField ∈ [F.MGT_OUT_HELD0, F.MGT_OUT_HELD1] := by
  unfold State.outHeldField
  split <;> decide

theorem OutputKept.held {s t : State} (h : OutputKept s t) : t.on t.outHeldField = s.on s.outHeldField := by
  rw [h.heldField]
  exact State.on_congr (h.get _ ((by decide : [F.MGT_OUT_HELD0, F.MGT_OUT_HELD1] ⊆ outputFields) s.outHeldField_mem))

theorem OutputKept.biased {s t : State} (h : OutputKept s t) : t.outBiased = s.outBiased := by
  unfold State.outBiased State.outBuffer
  rw [h.hostBias, h.get F.MGT_OUT_OUT_SIZE (by decide), h.get F.MGT_OUT_OUT_BASE (by decide), h.get F.MGT_PERIOD_STAT_PERIOD_NUM (by decide)]

theorem outputFields_spared : ∀ f ∈ outputFields, f.spared = true := by decide

theorem Accessed.outputKept {L : List Piece} {s t : State} (h : Accessed L s t) : OutputKept s t :=
  ⟨fun f hf => h.get f (outputFields_spared f hf), h.hostBias, h.noRestore⟩

/-- Registers elsewhere leave the output as it is. -/
theorem Writes.outputKept {W : Field → Prop} {s t : State} (h : Writes W s t) (hW : ∀ g, W g → ∀ f ∈ F.ENG_RESTORE_STAT_STATE :: outputFields, f.apart g)
    (hb : t.mem.hostBias = s.mem.hostBias) : OutputKept s t := by
  refine ⟨fun f hf => h.get f ((by decide : ∀ f ∈ outputFields, f.lo + f.w ≤ 64) f hf) fun g hg => hW g hg f (List.mem_cons_of_mem _ hf), hb,
    fun hs => ?_⟩
  rw [State.restoreBusy, h.get F.ENG_RESTORE_STAT_STATE (by decide) fun g hg => hW g hg _ List.mem_cons_self]
  exact hs

/-- The output of a period has not begun (R28). -/
def State.outFresh (s : State) : State :=
  { s with period := { s.period with outBlocked := false, outStarted := false, outWait := false, outPoison := false } }

/-- The host holds the period's buffer (R28). -/
def State.outRefused (s : State) : State :=
  { s.late F.MGT_PERIOD_STAT_OUT_BLOCKED with period := { (s.late F.MGT_PERIOD_STAT_OUT_BLOCKED).period with outBlocked := true } }

theorem State.outBegin_eq (s : State) :
    s.outBegin = if s.restoreBusy || s.on F.FLT_STAT_EXPELLED then s.outFresh
      else if s.on s.outHeldField then s.outFresh.outRefused else s.outFresh.outOpen := rfl

/-- What the beginning of a period's output leaves. -/
structure OutBegun (s t : State) : Prop where
  writes : Writes (fun g => g = F.MGT_PERIOD_STAT_OUT_BLOCKED ∨ accessFields g ∨ wokenFields g) s t
  same : Same [.regs, .power, .mem, .period, .start, .sent] s t
  raises : Raises s t
  latent : t.mem.latent = []
  items : t.power.items = s.power.items
  rings : t.period.rings = s.period.rings

/-- The output does not begin, and what was begun for the last period is forgotten. -/
theorem State.outFresh_begun {s : State} (hok : s.regsOk) (hl : s.mem.latent = []) : OutBegun s s.outFresh :=
  have hs : Same [.period] s s.outFresh := (Same.refl s).upd (M := [.period]) (List.Subset.refl _)
  ⟨(Writes.refl hok).of_same hs, hs.mono (by decide), .of_same hs, hl, rfl, rfl⟩

theorem OutBegun.trans {s t u : State} (h : OutBegun s t) (k : OutBegun t u) : OutBegun s u :=
  ⟨h.writes.trans k.writes, h.same.trans k.same, h.raises.trans k.raises, k.latent, k.items.trans h.items, k.rings.trans h.rings⟩

theorem State.outRefused_begun {s : State} (hok : s.regsOk) (hl : s.mem.latent = []) :
    OutBegun s s.outRefused ∧ s.outRefused.period.outBlocked = true ∧ s.outRefused.get F.MGT_PERIOD_STAT_OUT_BLOCKED = 1 ∧
      s.outRefused.period.outStarted = s.period.outStarted := by
  have hw := State.cause_writes hok F.MGT_PERIOD_STAT_OUT_BLOCKED false 2
  have hs := s.cause_same F.MGT_PERIOD_STAT_OUT_BLOCKED false 2
  have hr := s.cause_raises F.MGT_PERIOD_STAT_OUT_BLOCKED false 2
  have hget := State.get_cause hok F.MGT_PERIOD_STAT_OUT_BLOCKED false 2 rfl
  unfold State.outRefused State.late
  generalize s.cause F.MGT_PERIOD_STAT_OUT_BLOCKED false 2 = u at *
  have hu : Same [.period] u { u with period := { u.period with outBlocked := true } } := (Same.refl u).upd (M := [.period]) (List.Subset.refl _)
  have hrings : u.period.rings = s.period.rings := congrArg PeriodSt.rings (hs.period (by decide))
  have hstart : u.period.outStarted = s.period.outStarted := congrArg PeriodSt.outStarted (hs.period (by decide))
  refine ⟨⟨(hw.mono fun _ => .inl).of_same hu, (hs.mono (by decide)).trans (hu.mono (by decide)), hr.trans (.of_same hu),
    (congrArg MemSt.latent (hs.mem (by decide))).trans hl, congrArg PowerSt.items (hs.power (by decide)), hrings⟩, rfl, hget, hstart⟩

theorem State.outMark_same (s : State) (started wait : Bool) : Same [.period] s (s.outMark started wait) :=
  (Same.refl s).upd (M := [.period]) (List.Subset.refl _)

/-- An access of the module for the output, and the note of how far the output is. -/
theorem Accessed.outMark {s t : State} (h : Accessed dramPieces s t) (started wait : Bool) : OutBegun s (t.outMark started wait) := by
  have hm := t.outMark_same started wait
  have hs : Same dramPieces s t := h.same
  have hp : t.period.rings = s.period.rings := congrArg PeriodSt.rings (hs.period (by decide))
  exact ⟨(h.writes.mono fun _ => .inr).of_same hm, (hs.mono (by decide)).trans (hm.mono (by decide)), (Raises.of_same hs).trans (.of_same hm),
    h.latent, h.items, hp⟩

theorem State.outMark_outStarted (s : State) (started wait : Bool) : (s.outMark started wait).period.outStarted = started := rfl

theorem State.outMark_outBlocked (s : State) (started wait : Bool) : (s.outMark started wait).period.outBlocked = s.period.outBlocked := rfl

/-- The output opens unless one of its granules is in host bias, and then waits (R352, R358). -/
theorem State.outOpen_begun {s : State} (hok : s.regsOk) (hl : s.mem.latent = []) (hstart : s.period.outStarted = false) :
    OutBegun s s.outOpen ∧ s.outOpen.period.outBlocked = s.period.outBlocked ∧ s.outOpen.period.outStarted = !s.outBiased := by
  have h0 : Accessed dramPieces s s := .refl hok hl
  have hf := h0.set (by decide) 1 accessFields_biasStall
  have hm := h0.moduleWrite (List.Subset.refl _) (s.outBuffer.1 + 14) [0] false
  have he : s.outOpen = if s.outBiased then (s.set F.MGT_HDM_BIAS_STALL 1).outMark s.period.outStarted true
    else (s.moduleWrite (s.outBuffer.1 + 14) [0] false).outMark true false := rfl
  rw [he]
  clear he
  generalize s.set F.MGT_HDM_BIAS_STALL 1 = u at *
  generalize s.moduleWrite (s.outBuffer.1 + 14) [0] false = v at *
  have hu := hf.same.period (by decide)
  have hv := hm.same.period (by decide)
  cases s.outBiased with
  | true => exact ⟨hf.outMark _ _, by rw [if_pos rfl, State.outMark_outBlocked, hu], by rw [if_pos rfl, State.outMark_outStarted, hstart, Bool.not_true]⟩
  | false =>
    rw [if_neg Bool.noConfusion]
    exact ⟨hm.outMark _ _, by rw [State.outMark_outBlocked, hv], by rw [State.outMark_outStarted, Bool.not_false]⟩

/-- How the output of a period begins (R28, R381, R403). -/
structure OutChosen (s t : State) : Prop where
  expelled : s.on F.FLT_STAT_EXPELLED = true → t.period.outStarted = false
  refused : s.on F.FLT_STAT_EXPELLED = false → s.restoreBusy = false → s.on s.outHeldField = true →
    t.period.outBlocked = true ∧ t.get F.MGT_PERIOD_STAT_OUT_BLOCKED = 1 ∧ t.period.outStarted = false
  opened : s.on F.FLT_STAT_EXPELLED = false → s.restoreBusy = false → s.on s.outHeldField = false →
    t.period.outBlocked = false ∧ t.period.outStarted = !s.outBiased

theorem State.outBegin_begun {s : State} (hok : s.regsOk) (hl : s.mem.latent = []) : OutBegun s s.outBegin ∧ OutChosen s s.outBegin := by
  have hf := State.outFresh_begun hok hl
  have hstart : s.outFresh.period.outStarted = false := rfl
  have hblock : s.outFresh.period.outBlocked = false := rfl
  have hbias : s.outFresh.outBiased = s.outBiased := rfl
  rw [State.outBegin_eq]
  generalize s.outFresh = u at *
  split
  · next h =>
    refine ⟨hf, fun _ => hstart, fun he hr => ?_, fun he hr => ?_⟩ <;>
    · rw [hr, he] at h
      exact absurd h Bool.noConfusion
  · next h =>
    rw [Bool.or_eq_true, not_or, Bool.not_eq_true, Bool.not_eq_true] at h
    split
    · next hh =>
      obtain ⟨h1, h2, h3, h4⟩ := State.outRefused_begun hf.writes.regsOk hf.latent
      exact ⟨hf.trans h1, fun he => absurd (h.2.symm.trans he) Bool.noConfusion, fun _ _ _ => ⟨h2, h3, h4.trans hstart⟩,
        fun _ _ hn => absurd (hn.symm.trans hh) Bool.noConfusion⟩
    · next hh =>
      obtain ⟨h1, h2, h3⟩ := State.outOpen_begun hf.writes.regsOk hf.latent hstart
      exact ⟨hf.trans h1, fun he => absurd (h.2.symm.trans he) Bool.noConfusion, fun _ _ hn => absurd hn hh,
        fun _ _ _ => ⟨h2.trans hblock, by rw [h3, hbias]⟩⟩

/-! The inference phase begins. -/

theorem State.phaseOver_items (s : State) : s.phaseOver.power.items = [] := by
  have h0 : s.dropItems.power.items = [] := rfl
  have hs := s.dropItems.flushQueues_same
  unfold State.phaseOver
  generalize s.dropItems.flushQueues = u at *
  have h1 : u.power.items = [] := by rw [hs.power (by decide), h0]
  exact h1

/-- Inference with its work and before its output (R19, R381). -/
def State.inferReady (s : State) : State :=
  if (s.phaseOver.setPhase 2).on F.FLT_STAT_EXPELLED then s.phaseOver.setPhase 2 else (s.phaseOver.setPhase 2).loadItems 2

theorem State.enterInference_eq (s : State) : s.enterInference = s.inferReady.outBegin.schedule := rfl

/-- What the beginning of the inference phase writes. -/
def inferFields (g : Field) : Prop :=
  g = F.MGT_PERIOD_STAT_PHASE ∨ (g = F.MGT_PERIOD_STAT_OUT_BLOCKED ∨ accessFields g ∨ wokenFields g) ∨ schedFields g

/-- What the work of inference leaves before its output begins. -/
structure InferReady (s t : State) : Prop where
  writes : Writes (fun g => g = F.MGT_PERIOD_STAT_PHASE ∨ unitFields g) s t
  same : Same [.regs, .power, .mem, .tiles, .stalled, .free] s t
  mem : t.mem = { s.mem with held := [] }
  phase : t.phase = 2
  expelled : s.on F.FLT_STAT_EXPELLED = true → t.power.items = []
  work : s.on F.FLT_STAT_EXPELLED = false → t.power.items.map (fun x => x.id) = (s.planItems 2).map fun i => i.id

theorem State.inferReady_facts {s : State} (hok : s.regsOk) : InferReady s s.inferReady := by
  have hw := State.phaseOver_writes hok
  have hs := s.phaseOver_same
  have hm := s.phaseOver_mem
  have hi := s.phaseOver_items
  unfold State.inferReady
  generalize s.phaseOver = u at *
  have hw1 : Writes (fun g => g = F.MGT_PERIOD_STAT_PHASE ∨ unitFields g) s (u.setPhase 2) := (hw.mono fun _ => .inr).set _ _ (.inl rfl)
  have hs1 := u.setPhase_same 2
  have hp1 : (u.setPhase 2).phase = 2 := State.phase_setPhase hw.regsOk (by decide)
  generalize u.setPhase 2 = v at *
  have hex : v.on F.FLT_STAT_EXPELLED = s.on F.FLT_STAT_EXPELLED := by
    refine State.on_congr (hw1.get_off _ fun g hg => ?_)
    rcases hg with hg | hg
    · rw [hg]; decide
    · exact Nat.ne_of_gt (Nat.lt_of_lt_of_le (by decide) hg.1)
  have hsv : Same [.regs, .power, .mem, .tiles, .stalled, .free] s v := hs.trans (hs1.mono (by decide))
  have hmv : v.mem = { s.mem with held := [] } := (hs1.mem (by decide)).trans hm
  have hiv : v.power.items = [] := (congrArg PowerSt.items (hs1.power (by decide))).trans hi
  have hl := v.loadItems_same 2
  have hids := (v.loadItems_ids 2).trans (congrArg (List.map fun i => i.id) (State.planItems_congr (hsv.wb (by decide)) 2))
  generalize v.loadItems 2 = w at *
  rw [hex]
  cases he : s.on F.FLT_STAT_EXPELLED with
  | true => exact ⟨hw1, hsv, hmv, hp1, fun _ => hiv, fun h => absurd (he.symm.trans h) Bool.noConfusion⟩
  | false =>
    exact ⟨hw1.of_same hl, hsv.trans (hl.mono (by decide)), (hl.mem (by decide)).trans hmv, (State.phase_congr (hl.regs (by decide))).trans hp1,
      fun h => absurd (he.symm.trans h) Bool.noConfusion, fun _ => hids⟩

/-- What the beginning of the inference phase leaves. -/
structure InferBegun (s t : State) : Prop where
  began : s.inferenceBegan t
  writes : Writes inferFields s t
  same : SameAndSent [.regs, .power, .period, .mem, .tiles, .stalled, .free] s t
  latent : t.mem.latent = []
  rings : t.period.rings = s.period.rings

theorem inferFields_apart {f : Field} (hf : f.spared = true) (hs : f.off ≠ 0x10008 ∧ f.off ≠ 0x10028) (hp : f.apart F.MGT_PERIOD_STAT_PHASE)
    (ho : f.apart F.MGT_PERIOD_STAT_OUT_BLOCKED) : ∀ g, inferFields g → f.apart g := by
  rintro g (rfl | (rfl | hg) | hg)
  · exact hp
  · exact ho
  · exact Field.spared_apart hf hg
  · unfold schedFields at hg
    exact .inl (by omega)

theorem Field.spared_width {f : Field} (hf : f.spared = true) : f.lo + f.w ≤ 64 := by
  simp only [Field.spared, Bool.and_eq_true, decide_eq_true_eq] at hf
  exact hf.1.2

theorem InferReady.outputKept {s t : State} (h : InferReady s t) : OutputKept s t := by
  refine h.writes.outputKept (fun g hg f hf => ?_) (by rw [h.mem])
  rcases hg with rfl | hg
  · exact (by decide : ∀ f ∈ F.ENG_RESTORE_STAT_STATE :: outputFields, f.off ≠ 0x110 ∨ f.lo + f.w ≤ 32 ∨ 35 ≤ f.lo) f hf
  · rcases List.mem_cons.1 hf with rfl | hf
    · exact accessFields_apart_restore (.inr (.inr (.inr hg)))
    · exact Field.spared_apart (outputFields_spared f hf) (.inl (.inr (.inr (.inr hg))))

theorem State.enterInference_begun {s : State} (hok : s.regsOk) (hl : s.mem.latent = []) : InferBegun s s.enterInference := by
  have h1 := State.inferReady_facts hok
  rw [State.enterInference_eq]
  generalize s.inferReady = u at *
  have hl1 : u.mem.latent = [] := by rw [h1.mem]; exact hl
  obtain ⟨h2, h3⟩ := State.outBegin_begun h1.writes.regsOk hl1
  generalize u.outBegin = v at *
  have hw4 := State.schedule_writes h2.writes.regsOk
  have hs4 := v.schedule_same
  have hi4 := v.schedule_ids
  have hp4 := State.schedule_phase h2.writes.regsOk
  generalize v.schedule = t at *
  have hper : t.period = v.period := hs4.period (by decide)
  have hphase : v.phase = u.phase := h2.writes.get F.MGT_PERIOD_STAT_PHASE (by decide) fun g hg => by
    rcases hg with rfl | hg
    · exact .inr (.inl (by decide))
    · exact Field.spared_apart (by decide) hg
  have hids : t.power.items.map (fun x => x.id) = u.power.items.map fun x => x.id := by rw [hi4, h2.items]
  have hk := h1.outputKept
  have hex := hk.expelled
  refine ⟨⟨?_, fun he => ⟨?_, ?_⟩, fun he => ⟨?_, fun hr hh => ?_, fun hr hh => ?_⟩⟩, ?_, ⟨?_, ?_⟩, ?_, ?_⟩
  · exact hp4.trans (hphase.trans h1.phase)
  · have h0 := hids
    rw [h1.expelled he] at h0
    exact List.map_eq_nil_iff.1 h0
  · rw [hper, h3.expelled (hex.trans he)]
  · rw [hids, h1.work he]
  · obtain ⟨ha, hb, hc⟩ := h3.refused (hex.trans he) (hk.noRestore hr) (hk.held.trans hh)
    refine ⟨by rw [hper, ha], ?_, by rw [hper, hc]⟩
    rw [hw4.get_off _ fun g hg => ?_, hb]
    unfold schedFields at hg
    rcases hg with hg | hg <;> rw [hg] <;> decide
  · obtain ⟨ha, hb⟩ := h3.opened (hex.trans he) (hk.noRestore hr) (hk.held.trans hh)
    exact ⟨by rw [hper, ha], by rw [hper, hb, hk.biased]⟩
  · refine ((h1.writes.mono fun g hg => ?_).trans (h2.writes.mono fun g hg => .inr (.inl hg))).trans (hw4.mono fun g hg => .inr (.inr hg))
    exact hg.imp id fun hg => .inl (.inr (.inl (.inr (.inr (.inr hg)))))
  · exact (h1.same.mono (by decide)).trans ((h2.same.mono (by decide)).trans (hs4.mono (by decide)))
  · exact (((Raises.of_same h1.same).trans h2.raises).trans (.of_same hs4)).start
  · rw [hs4.mem (by decide), h2.latent]
  · rw [hper, h2.rings, h1.same.period (by decide)]

/-! INGEST_DL (R26, R355). -/

/-- The reading of every ring stops. -/
def State.ringsStopped (s : State) : State := s.forEach allRings fun s r => if (s.ring r).reading then s.stopRing r else s

/-- Ingest is not over at its deadline: a ring is read, the Timetable failed, or a collective of the phase is in flight (R26, R294, R372). -/
def State.ingestOpen (s : State) : Bool := !s.ingestOver || s.period.ttFault || s.coll.queue.any fun c => c.phase == 1

/-- Ingest ends at its deadline, with what of it is late. -/
def State.ingestClosed (s : State) : State :=
  (if s.ingestOpen then s.ringsStopped.late F.MGT_PERIOD_STAT_INGEST_LATE else s.ringsStopped).abandonColls fun c => c.phase == 1

theorem State.ingestLate_of_ingest {s : State} (h : s.phase = 1) : s.ingestLate = s.ingestClosed.enterInference := by
  unfold State.ingestLate
  rw [if_neg (by simp [h])]
  rfl

theorem State.stopRing_same (s : State) (r : RingIx) : Same [.regs, .period] s (s.stopRing r) :=
  (State.stopRing_keeps (List.Subset.refl _) (Keeps.refl s) r).same

theorem State.stopRing_ring_self (s : State) (r : RingIx) : ((s.stopRing r).ring r).reading = false := by
  rw [State.stopRing, State.ring_set, State.ring_setRing_self]

theorem State.stopRing_ring_ne (s : State) {r q : RingIx} (h : r ≠ q) : (s.stopRing r).ring q = s.ring q := by
  rw [State.stopRing, State.ring_set, State.ring_setRing_ne _ _ h]

/-- The fields that show whether a ring is read. -/
def activeFields (g : Field) : Prop := ∃ r : RingIx, g = F.MGT_RING_STAT_ACTIVE r.val

theorem State.ringsStopped_facts {s : State} (hok : s.regsOk) :
    Writes activeFields s s.ringsStopped ∧ Same [.regs, .period] s s.ringsStopped ∧ s.ringsStopped.ingestOver = true := by
  refine ⟨(Writes.refl hok).forEach fun t r _ ht => .ite ((ht.setRing r _).set _ 0 ⟨r, rfl⟩) ht,
    State.forEach_induction (P := Same [.regs, .period] s) (Same.refl s) fun t r _ ht => ?_, ?_⟩
  · split
    · exact ht.trans (t.stopRing_same r)
    · exact ht
  · refine List.all_eq_true.2 fun q hq => ?_
    rw [Bool.not_eq_true']
    refine State.forEach_of_mem (P := fun t => (t.ring q).reading = false) hq (fun t => ?_) fun t r ht => ?_
    · split
      · exact t.stopRing_ring_self q
      · next h => exact Bool.eq_false_iff.2 h
    · split
      · by_cases h : r = q
        · exact h ▸ t.stopRing_ring_self r
        · rw [t.stopRing_ring_ne h, ht]
      · exact ht

theorem State.ingestOver_congr {s t : State} (h : t.period.rings = s.period.rings) : t.ingestOver = s.ingestOver := by
  unfold State.ingestOver State.ring
  rw [h]

/-- What the end of ingest at its deadline writes. -/
def closeFields (g : Field) : Prop := (activeFields g ∨ g = F.MGT_PERIOD_STAT_INGEST_LATE) ∨ accessFields g ∨ wokenFields g

/-- What the end of ingest at its deadline leaves. -/
structure IngestClosed (s t : State) : Prop where
  writes : Writes closeFields s t
  wb : t.wb = s.wb
  time : t.time = s.time
  latent : t.mem.latent = []
  kept : OutputKept s t
  late : t.get F.MGT_PERIOD_STAT_INGEST_LATE = if s.ingestOpen then 1 else s.get F.MGT_PERIOD_STAT_INGEST_LATE
  rings : t.ingestOver = true
  queue : t.coll.queue = s.coll.queue.filter fun c => c.phase != 1

theorem State.ingestClosed_facts {s : State} (hok : s.regsOk) (hl : s.mem.latent = []) : IngestClosed s s.ingestClosed := by
  obtain ⟨hw1, hs1, hover⟩ := State.ringsStopped_facts hok
  unfold State.ingestClosed
  generalize s.ringsStopped = u at *
  have hc : Writes (fun g => activeFields g ∨ g = F.MGT_PERIOD_STAT_INGEST_LATE) s (if s.ingestOpen then u.late F.MGT_PERIOD_STAT_INGEST_LATE else u) ∧
      Same [.regs, .period, .start, .sent] s (if s.ingestOpen then u.late F.MGT_PERIOD_STAT_INGEST_LATE else u) ∧
      (if s.ingestOpen then u.late F.MGT_PERIOD_STAT_INGEST_LATE else u).period.rings = u.period.rings ∧
      (if s.ingestOpen then u.late F.MGT_PERIOD_STAT_INGEST_LATE else u).get F.MGT_PERIOD_STAT_INGEST_LATE =
        if s.ingestOpen then 1 else s.get F.MGT_PERIOD_STAT_INGEST_LATE := by
    have hw2 := State.cause_writes hw1.regsOk F.MGT_PERIOD_STAT_INGEST_LATE false 2
    have hs2 := u.cause_same F.MGT_PERIOD_STAT_INGEST_LATE false 2
    have hg2 := State.get_cause hw1.regsOk F.MGT_PERIOD_STAT_INGEST_LATE false 2 rfl
    unfold State.late
    generalize u.cause F.MGT_PERIOD_STAT_INGEST_LATE false 2 = v at *
    cases s.ingestOpen with
    | true => exact ⟨(hw1.mono fun _ => .inl).trans (hw2.mono fun _ => .inr), (hs1.mono (by decide)).trans (hs2.mono (by decide)),
        congrArg PeriodSt.rings (hs2.period (by decide)), hg2⟩
    | false =>
      refine ⟨hw1.mono fun _ => .inl, hs1.mono (by decide), rfl, hw1.get_off _ fun g ⟨r, hr⟩ => ?_⟩
      rw [hr]
      exact (by decide : ∀ r : RingIx, (F.MGT_RING_STAT_ACTIVE r.val).off ≠ F.MGT_PERIOD_STAT_INGEST_LATE.off) r
  generalize (if s.ingestOpen then u.late F.MGT_PERIOD_STAT_INGEST_LATE else u) = v at *
  obtain ⟨hwv, hsv, hrv, hgv⟩ := hc
  have hlv : v.mem.latent = [] := (congrArg MemSt.latent (hsv.mem (by decide))).trans hl
  obtain ⟨ha, hq⟩ := State.abandonColls_accessed hwv.regsOk hlv fun c => c.phase == 1
  generalize (v.abandonColls fun c => c.phase == 1) = t at *
  have hkv : OutputKept s v := by
    refine hwv.outputKept (fun g hg f hf => ?_) (congrArg MemSt.hostBias (hsv.mem (by decide)))
    rcases hg with ⟨r, rfl⟩ | rfl
    · exact .inl ((by decide : ∀ r : RingIx, ∀ f ∈ F.ENG_RESTORE_STAT_STATE :: outputFields, f.off ≠ (F.MGT_RING_STAT_ACTIVE r.val).off) r f hf)
    · exact (by decide : ∀ f ∈ F.ENG_RESTORE_STAT_STATE :: outputFields, f.off ≠ 0x110 ∨ f.lo + f.w ≤ 40 ∨ 41 ≤ f.lo) f hf
  refine ⟨(hwv.mono fun _ => .inl).trans (ha.writes.mono fun _ => .inr), ?_, ?_, ha.latent, hkv.trans ha.outputKept, ?_, ?_, ?_⟩
  · rw [ha.same.wb (by decide), hsv.wb (by decide)]
  · rw [ha.same.time (by decide), hsv.time (by decide)]
  · rw [ha.get F.MGT_PERIOD_STAT_INGEST_LATE, hgv]
  · rw [State.ingestOver_congr (congrArg PeriodSt.rings (ha.same.period (by decide))), State.ingestOver_congr hrv, hover]
  · rw [hq, hsv.coll (by decide)]
    rfl

/-! The statement. -/

theorem State.toTick_get {s : State} (hok : s.regsOk) (n : Nat) (f : Field) (hoff : f.off < 0x40000 ∨ 0x50000 ≤ f.off)
    (hf : f.lo + f.w ≤ 64 := by decide) : (s.toTick n).get f = s.get f := by
  refine (regsIn.writes (State.toTick_regsIn hok n)).get_off f (fun g hg => ?_) hf
  unfold perfWin at hg
  omega

theorem State.toTick_outputKept {s : State} (hok : s.regsOk) (n : Nat) : OutputKept s (s.toTick n) := by
  refine (regsIn.writes (State.toTick_regsIn hok n)).outputKept (fun g hg f hf => .inl fun ho => ?_)
    (congrArg MemSt.hostBias ((s.toTick_same n).mem (by decide)))
  have h := (by decide : ∀ f ∈ F.ENG_RESTORE_STAT_STATE :: outputFields, f.off < 0x40000 ∨ 0x50000 ≤ f.off) f hf
  unfold perfWin at hg
  omega

/-- Inference began after what leaves the plan and the output as they were. -/
theorem State.inferenceBegan.of_kept {r s t : State} (h : s.inferenceBegan t) (k : OutputKept r s) (hwb : s.wb = r.wb) : r.inferenceBegan t := by
  obtain ⟨hphase, hex, hwork⟩ := h
  rw [k.expelled] at hex hwork
  rw [State.planItems_congr hwb, k.held, k.biased] at hwork
  exact ⟨hphase, hex, fun he => ⟨(hwork he).1, fun hr => (hwork he).2.1 (k.noRestore hr), fun hr => (hwork he).2.2 (k.noRestore hr)⟩⟩

/-- Accesses, and collectives that end, leave the beginning of inference as it is. -/
theorem State.inferenceBegan.accessed {s t u : State} (h : s.inferenceBegan t) (k : Accessed collPieces t u) : s.inferenceBegan u := by
  have hp : u.phase = t.phase := k.get F.MGT_PERIOD_STAT_PHASE
  unfold State.inferenceBegan at h ⊢
  rw [hp, k.items, k.same.period (by decide), k.get F.MGT_PERIOD_STAT_OUT_BLOCKED]
  exact h

theorem State.ingestOpen_iff (s : State) :
    s.ingestOpen = false ↔ s.ingestOver = true ∧ s.period.ttFault = false ∧ ∀ c ∈ s.coll.queue, c.phase ≠ 1 := by
  simp [State.ingestOpen, Bool.or_eq_false_iff, List.any_eq_false, and_assoc]

theorem State.ingestLate_of_later {s : State} (h : s.phase ≠ 1) : s.ingestLate = s := if_pos (by simp [h])

/-- A deadline past its phase ends collectives alone (R294). -/
theorem State.toTick_abandonColls {s : State} (hok : s.regsOk) (hsp : s.mem.spoiled = []) (n : Nat) (which : Coll → Bool) :
    (s.toTick n).phase = s.phase ∧ ((s.toTick n).abandonColls which).phase = s.phase ∧
      ((s.toTick n).abandonColls which).coll.queue = s.coll.queue.filter (fun c => !which c) ∧ ((s.toTick n).abandonColls which).period = s.period := by
  have hs0 := s.toTick_same n
  have hphase : (s.toTick n).phase = s.phase := State.toTick_get hok n F.MGT_PERIOD_STAT_PHASE (.inl (by decide))
  have hok0 := (State.toTick_regsIn hok n).1
  generalize s.toTick n = u at *
  have hsp0 : u.mem.spoiled = [] := (congrArg MemSt.spoiled (hs0.mem (by decide))).trans hsp
  have hs := State.abandonColls_same_of_sound hsp0 which
  have hw := State.abandonColls_writes_of_sound hok0 hsp0 which
  refine ⟨hphase, ?_, ?_, ?_⟩
  · exact (hw.get_off F.MGT_PERIOD_STAT_PHASE fun g hg => by rw [hg]; decide).trans hphase
  · rw [(State.abandonColls_of_sound hsp0 which).2, hs0.coll (by decide)]
  · rw [hs.period (by decide), hs0.period (by decide)]

theorem execIngestDeadline_eq {s : State} (hper : s.inPeriod = true) (hphase : s.phase ≠ 0) :
    execIngestDeadline s =
      .next ((s.toTick (s.periodStart + s.get F.MGT_PERIOD_CFG0_INGEST_DL)).ingestLate.abandonColls fun c => c.phase == 1) :=
  if_neg (by simp [hper, hphase])

theorem InferBegun.get {s t : State} (h : InferBegun s t) (f : Field) (hf : f.spared = true) (hs : f.off ≠ 0x10008 ∧ f.off ≠ 0x10028)
    (hp : f.apart F.MGT_PERIOD_STAT_PHASE) (ho : f.apart F.MGT_PERIOD_STAT_OUT_BLOCKED) : t.get f = s.get f :=
  h.writes.get f (Field.spared_width hf) (inferFields_apart hf hs hp ho)

theorem InferBegun.ingestLate {s t : State} (h : InferBegun s t) : t.get F.MGT_PERIOD_STAT_INGEST_LATE = s.get F.MGT_PERIOD_STAT_INGEST_LATE :=
  h.get _ (by decide) (by decide) (.inr (.inr (by decide))) (.inr (.inl (by decide)))

theorem InferBegun.cons {s t : State} (h : InferBegun s t) (r : RingIx) :
    t.get (F.MGT_RING_CONS_CONS r.val) = s.get (F.MGT_RING_CONS_CONS r.val) :=
  h.get _ ((by decide : ∀ r : RingIx, (F.MGT_RING_CONS_CONS r.val).spared = true) r)
    ((by decide : ∀ r : RingIx, (F.MGT_RING_CONS_CONS r.val).off ≠ 0x10008 ∧ (F.MGT_RING_CONS_CONS r.val).off ≠ 0x10028) r)
    (.inl ((by decide : ∀ r : RingIx, (F.MGT_RING_CONS_CONS r.val).off ≠ 0x110) r))
    (.inl ((by decide : ∀ r : RingIx, (F.MGT_RING_CONS_CONS r.val).off ≠ 0x110) r))

theorem IngestClosed.cons {s t : State} (h : IngestClosed s t) (r : RingIx) :
    t.get (F.MGT_RING_CONS_CONS r.val) = s.get (F.MGT_RING_CONS_CONS r.val) := by
  refine h.writes.get _ (Nat.le_of_ble_eq_true rfl) fun g hg => ?_
  rcases hg with (⟨q, rfl⟩ | rfl) | hg
  · refine .inl fun ho => ?_
    simp only [F.MGT_RING_CONS_CONS, F.MGT_RING_STAT_ACTIVE] at ho
    omega
  · exact .inl ((by decide : ∀ r : RingIx, (F.MGT_RING_CONS_CONS r.val).off ≠ 0x110) r)
  · exact Field.spared_apart ((by decide : ∀ r : RingIx, (F.MGT_RING_CONS_CONS r.val).spared = true) r) hg

/-- Settles O23: the rings stop, the collectives of the phase end, and what they write to memory touches neither the plan's items nor the output. -/
theorem ingestEndsAndInferenceBegins : Obligations.IngestEndsAndInferenceBegins := by
  intro s hwf hrun hper
  have hok := State.regsOk_of_memWf hwf
  have hin := State.inPeriod_of hrun hper
  refine ⟨fun hphase hover => ⟨?_, fun hl => ?_⟩, fun hphase htime hl => ?_, fun hphase hsp => ?_⟩
  · exact if_neg (by simp [hin, hphase, hover])
  · have h := State.enterInference_begun hok hl
    exact ⟨h.began, h.ingestLate, h.same⟩
  · have hexec : exec .ingestDeadline s = _ := execIngestDeadline_eq hin (by rw [hphase]; decide)
    have hosc := State.toTick_osc htime (s.periodStart + s.get F.MGT_PERIOD_CFG0_INGEST_DL)
    have hs0 := s.toTick_same (s.periodStart + s.get F.MGT_PERIOD_CFG0_INGEST_DL)
    have hk0 := State.toTick_outputKept hok (s.periodStart + s.get F.MGT_PERIOD_CFG0_INGEST_DL)
    have hg0 (f : Field) (hf : f.off < 0x40000) (hw : f.lo + f.w ≤ 64) :=
      State.toTick_get hok (s.periodStart + s.get F.MGT_PERIOD_CFG0_INGEST_DL) f (.inl hf) hw
    have hok0 := (State.toTick_regsIn hok (s.periodStart + s.get F.MGT_PERIOD_CFG0_INGEST_DL)).1
    generalize s.toTick (s.periodStart + s.get F.MGT_PERIOD_CFG0_INGEST_DL) = u at *
    have hphase0 : u.phase = 1 := (hg0 F.MGT_PERIOD_STAT_PHASE (by decide) (by decide)).trans hphase
    have hopen : u.ingestOpen = s.ingestOpen := by
      unfold State.ingestOpen
      rw [hs0.coll (by decide), hs0.period (by decide), State.ingestOver_congr (congrArg PeriodSt.rings (hs0.period (by decide)))]
    rw [State.ingestLate_of_ingest hphase0] at hexec
    have h1 := State.ingestClosed_facts hok0 ((congrArg MemSt.latent (hs0.mem (by decide))).trans hl)
    generalize u.ingestClosed = v at *
    have h2 := State.enterInference_begun h1.writes.regsOk h1.latent
    generalize v.enterInference = w at *
    obtain ⟨h3, hq⟩ := State.abandonColls_accessed h2.writes.regsOk h2.latent fun c => c.phase == 1
    generalize (w.abandonColls fun c => c.phase == 1) = t at *
    refine ⟨t, hexec, ?_, ?_, ?_, ?_, fun r => ?_, ?_⟩
    · exact (h2.began.accessed h3).of_kept (hk0.trans h1.kept) (h1.wb.trans (hs0.wb (by decide)))
    · rw [h3.get F.MGT_PERIOD_STAT_INGEST_LATE, h2.ingestLate, h1.late, hopen, hg0 F.MGT_PERIOD_STAT_INGEST_LATE (by decide) (by decide)]
      by_cases ho : s.ingestOpen = true
      · rw [if_pos ho, if_neg fun hc => by rw [s.ingestOpen_iff.2 hc] at ho; exact Bool.noConfusion ho]
      · rw [if_neg ho, if_pos (s.ingestOpen_iff.1 (Bool.eq_false_iff.2 ho))]
    · rw [h3.same.time (by decide), h2.same.1.time (by decide), h1.time, hosc]
    · rw [State.ingestOver_congr (congrArg PeriodSt.rings (h3.same.period (by decide))), State.ingestOver_congr h2.rings, h1.rings]
    · rw [h3.get _ ((by decide : ∀ r : RingIx, (F.MGT_RING_CONS_CONS r.val).spared = true) r), h2.cons, h1.cons]
      exact hg0 _ ((by decide : ∀ r : RingIx, (F.MGT_RING_CONS_CONS r.val).off < 0x40000) r) (Nat.le_of_ble_eq_true rfl)
    · rw [hq, h2.same.1.coll (by decide), h1.queue, hs0.coll (by decide), List.filter_filter]
      exact List.filter_congr fun c _ => Bool.and_self _
  · have hexec : exec .ingestDeadline s = _ := execIngestDeadline_eq hin (Nat.ne_of_gt (Nat.lt_trans Nat.zero_lt_one hphase))
    obtain ⟨h0, hrest⟩ := State.toTick_abandonColls hok hsp (s.periodStart + s.get F.MGT_PERIOD_CFG0_INGEST_DL) fun c => c.phase == 1
    rw [State.ingestLate_of_later (by rw [h0]; exact Nat.ne_of_gt hphase)] at hexec
    exact ⟨_, hexec, hrest⟩

end Sys2Proof.Machine
end

section
/-! SUPPORT. O24: inference ends, its output is published, and training begins. -/

namespace Sys2Proof.Machine

/-! The output is published (R28, R358). -/

theorem State.cause_raised {s : State} {f : Field} (h : s.on f = false) (fn1 : Bool) (v : Nat) : s.raised fn1 v (s.cause f fn1 v) := by
  unfold State.cause
  rw [h, if_neg Bool.noConfusion]
  exact ((s.flag f).msi_raised fn1 v).of_start (s.set_same f 1 |>.start (by decide))

/-- What was raised after others were raised was raised since then. -/
theorem State.raised.of_raises {r s t : State} {fn1 : Bool} {v : Nat} (h : s.raised fn1 v t) (k : Raises r s) : r.raised fn1 v t := by
  have hs := k.start
  unfold State.sameStart at hs
  unfold State.raised at *
  have hup : s.start.cxlUp = r.start.cxlUp := by rw [hs]
  have hmask : (s.msix fn1).mask = (r.msix fn1).mask := by
    unfold State.msix
    rw [hs]
    cases fn1 <;> rfl
  rwa [hup, hmask] at h

/-- Header and VALID of the output are written (R358). -/
def State.outWritten (s : State) (late : Bool) : State :=
  ((s.moduleWrite s.outBuffer.1 (s.outHeader late) false).fence).moduleWrite (s.outBuffer.1 + 14)
    [BitVec.ofNat 8 (1 + 2 * b2n late + 4 * b2n s.period.outPoison)] false

/-- The period's buffer is the host's, and LAST_PERIOD names the period. -/
def State.outSigned (s : State) : State := s.set F.MGT_OUT_LAST_PERIOD (s.get F.MGT_PERIOD_STAT_PERIOD_NUM)

/-- HELD is set with vector 0, and the output is no longer open. -/
def State.outHanded (s : State) : State :=
  (s.cause s.outHeldField false 0).outMark false (s.cause s.outHeldField false 0).period.outWait

theorem State.outPublish_eq (s : State) (late : Bool) :
    s.outPublish late = if !s.period.outStarted || s.outStalled || s.restoreBusy then s.flagIf s.outStalled F.MGT_HDM_BIAS_STALL
      else (s.outWritten late).outSigned.outHanded := rfl

/-- What the publication of the output writes. -/
def publishFields (g : Field) : Prop :=
  g ∈ [F.MGT_OUT_LAST_PERIOD, F.MGT_OUT_HELD0, F.MGT_OUT_HELD1] ∨ accessFields g ∨ wokenFields g

/-- What the publication of the output leaves. -/
structure OutPublished (s t : State) : Prop where
  writes : Writes publishFields s t
  same : Same [.regs, .power, .mem, .period, .start, .sent] s t
  latent : t.mem.latent = []
  published : s.outputPublished t

theorem State.outWritten_accessed {s : State} (hok : s.regsOk) (hl : s.mem.latent = []) (late : Bool) :
    Accessed dramPieces s (s.outWritten late) :=
  have hL : dramPieces ⊆ dramPieces := List.Subset.refl _
  (((Accessed.refl hok hl).moduleWrite hL _ _ _).fence hL).moduleWrite hL _ _ _

/-- What the hand-over of the buffer leaves. -/
structure OutHanded (s t : State) : Prop where
  writes : Writes (fun g => g ∈ [F.MGT_OUT_LAST_PERIOD, F.MGT_OUT_HELD0, F.MGT_OUT_HELD1]) s t
  same : Same [.regs, .period, .start, .sent] s t
  held : t.on s.outHeldField = true
  last : t.get F.MGT_OUT_LAST_PERIOD = s.get F.MGT_PERIOD_STAT_PERIOD_NUM
  closed : t.period.outStarted = false
  raised : s.on s.outHeldField = false → s.raised false 0 t

theorem heldFields_apart_last : ∀ f ∈ [F.MGT_OUT_HELD0, F.MGT_OUT_HELD1], f.apart F.MGT_OUT_LAST_PERIOD := by
  intro f hf
  exact .inr (.inl ((by decide : ∀ f ∈ [F.MGT_OUT_HELD0, F.MGT_OUT_HELD1], f.lo + f.w ≤ 32) f hf))

theorem State.outHeldField_width (s : State) : s.outHeldField.w = 1 ∧ s.outHeldField.lo + s.outHeldField.w ≤ 64 :=
  (by decide : ∀ f ∈ [F.MGT_OUT_HELD0, F.MGT_OUT_HELD1], f.w = 1 ∧ f.lo + f.w ≤ 64) _ s.outHeldField_mem

theorem State.outHanded_facts {s : State} (hok : s.regsOk) : OutHanded s s.outSigned.outHanded := by
  have hw1 : Writes (fun g => g = F.MGT_OUT_LAST_PERIOD) s s.outSigned := (Writes.refl hok).set _ _ rfl
  have hs1 : Same [.regs] s s.outSigned := s.set_same _ _
  have hlast : s.outSigned.get F.MGT_OUT_LAST_PERIOD = s.get F.MGT_PERIOD_STAT_PERIOD_NUM :=
    State.get_set F.MGT_OUT_LAST_PERIOD _ hok (hx := (BitVec.isLt _ : s.get F.MGT_PERIOD_STAT_PERIOD_NUM < 2 ^ 32))
  generalize s.outSigned = u at *
  obtain ⟨hw, hf⟩ := s.outHeldField_width
  have hfield : u.outHeldField = s.outHeldField := by
    rw [State.outHeldField, hw1.get_off F.MGT_PERIOD_STAT_PERIOD_NUM fun g hg => by rw [hg]; decide, State.outHeldField]
  have hon : u.on s.outHeldField = s.on s.outHeldField :=
    State.on_congr (hw1.get _ hf fun g hg => hg ▸ heldFields_apart_last _ s.outHeldField_mem)
  have hw2 := State.cause_writes hw1.regsOk s.outHeldField false 0
  have hs2 := u.cause_same s.outHeldField false 0
  have hget := State.get_cause hw1.regsOk s.outHeldField false 0 hw hf
  have hraised (h : u.on s.outHeldField = false) := State.cause_raised h false 0
  unfold State.outHanded
  rw [hfield]
  generalize u.cause s.outHeldField false 0 = v at *
  have hm := v.outMark_same false v.period.outWait
  refine ⟨?_, (hs1.mono (by decide)).trans ((hs2.mono (by decide)).trans (hm.mono (by decide))), ?_, ?_, rfl, fun h => ?_⟩
  · refine ((hw1.mono fun g hg => ?_).trans (hw2.mono fun g hg => ?_)).of_same hm
    · exact hg ▸ List.mem_cons_self
    · exact hg ▸ List.mem_cons_of_mem _ s.outHeldField_mem
  · rw [State.on, State.get_congr (hm.regs (by decide)), hget]
    rfl
  · rw [State.get_congr (hm.regs (by decide)), hw2.get F.MGT_OUT_LAST_PERIOD (by decide) fun g hg => ?_, hlast]
    rcases heldFields_apart_last _ s.outHeldField_mem with h | h | h
    · exact .inl fun ho => h (hg ▸ ho.symm)
    · exact .inr (.inr (hg ▸ h))
    · exact .inr (.inl (hg ▸ h))
  · exact ((hraised (hon.trans h)).mono (.of_same hm)).of_start (hs1.start (by decide))

/-- The output is published at the end of inference, and stands where none was open. -/
theorem State.outPublish_published {s : State} (hok : s.regsOk) (hl : s.mem.latent = []) (hstall : s.outStalled = false) (late : Bool) :
    OutPublished s (s.outPublish late) := by
  have hidle : s.flagIf false F.MGT_HDM_BIAS_STALL = s := rfl
  rw [State.outPublish_eq, hstall, Bool.or_false, hidle]
  split
  · next h =>
    refine ⟨.refl hok, .refl s, hl, fun hst hr => ?_, fun _ => ⟨rfl, rfl⟩⟩
    rw [hst, hr] at h
    exact absurd h Bool.noConfusion
  · next h =>
    rw [Bool.or_eq_true, not_or, Bool.not_eq_true', Bool.not_eq_false] at h
    have ha := State.outWritten_accessed hok hl late
    generalize s.outWritten late = u at *
    have hh := State.outHanded_facts ha.writes.regsOk
    generalize u.outSigned.outHanded = t at *
    have hk := ha.outputKept
    have hs : Same dramPieces s u := ha.same
    refine ⟨(ha.writes.mono fun _ => .inr).trans (hh.writes.mono fun _ => .inl), (hs.mono (by decide)).trans (hh.same.mono (by decide)),
      (congrArg MemSt.latent (hh.same.mem (by decide))).trans ha.latent, fun _ _ => ⟨?_, ?_, hh.closed, fun hn => ?_⟩, fun hn => ?_⟩
    · rw [← hk.heldField, hh.held]
    · rw [hh.last, hk.get F.MGT_PERIOD_STAT_PERIOD_NUM (by decide)]
    · exact (hh.raised (hk.held.trans hn)).of_start (hs.start (by decide))
    · exact absurd (h.1.symm.trans hn) Bool.noConfusion

/-! The training phase begins. -/

/-- What the beginning of the training phase leaves. -/
structure TrainBegun (s t : State) : Prop where
  writes : Writes selfTestFields s t
  same : Same [.regs, .power, .mem, .tiles, .flt, .cast, .stalled, .free] s t
  latent : t.mem.latent = s.mem.latent
  began : t.trainingBegan

theorem State.queryDiscard_of_settled {s : State} (h : s.get F.SEAL_STAT_SEAL_STATE ≠ 2) : s.queryDiscard = s := if_pos (by simpa using h)

theorem State.enterTraining_begun {s : State} (hok : s.regsOk) (hseal : s.get F.SEAL_STAT_SEAL_STATE ≠ 2) : TrainBegun s s.enterTraining := by
  have hw1 := State.phaseOver_writes hok
  have hs1 := s.phaseOver_same
  have hl1 := s.phaseOver_pages.latent
  have hi1 := s.phaseOver_items
  unfold State.enterTraining
  generalize s.phaseOver = u at *
  have hw2 : Writes selfTestFields s (u.setPhase 3) := (hw1.mono fun _ hg => .inr (.inr (.inl hg))).set _ _ (.inl rfl)
  have hs2 := u.setPhase_same 3
  have hp2 : (u.setPhase 3).phase = 3 := State.phase_setPhase hw1.regsOk (by decide)
  generalize u.setPhase 3 = v at *
  have hs : Same [.regs, .power, .mem, .tiles, .flt, .cast, .stalled, .free] s v := (hs1.mono (by decide)).trans (hs2.mono (by decide))
  have hl : v.mem.latent = s.mem.latent := (congrArg MemSt.latent (hs2.mem (by decide))).trans hl1
  have hq : v.get F.SEAL_STAT_SEAL_STATE = s.get F.SEAL_STAT_SEAL_STATE :=
    hw2.get _ (by decide) (selfTestFields_apart (by decide) (by decide) (.inl (by decide)))
  rw [State.queryDiscard_of_settled (hq ▸ hseal)]
  unfold State.trainCheck
  split
  · obtain ⟨hw3, hp3⟩ := State.enterSelfTest_writes hw2.regsOk
    exact ⟨hw2.trans hw3, hs.trans v.enterSelfTest_same, v.enterSelfTest_pages.latent.trans hl, .inr hp3⟩
  · next h =>
    refine ⟨hw2, hs, hl, .inl ⟨hp2, (congrArg PowerSt.items (hs2.power (by decide))).trans hi1, ?_⟩⟩
    simp only [hp2, beq_self_eq_true, Bool.true_and, Bool.and_eq_true, Bool.not_eq_true', not_and_or, Bool.not_eq_false] at h
    exact h

/-- A field that neither the phase nor the queues, the schedule or the sweep is shown in is left. -/
theorem TrainBegun.get {s t : State} (h : TrainBegun s t) (f : Field) (hoff : f.off < 0x100000)
    (hne : f.off ≠ 0x50000 ∧ f.off ≠ 0x50038 ∧ f.off ≠ 0x10008 ∧ f.off ≠ 0x10028) (hp : f.apart F.MGT_PERIOD_STAT_PHASE) (hf : f.lo + f.w ≤ 64) :
    t.get f = s.get f :=
  h.writes.get f hf (selfTestFields_apart hoff hne hp)

/-- Accesses, and collectives that end, leave the beginning of training as it is. -/
theorem State.trainingBegan.accessed {t u : State} (h : t.trainingBegan) (k : Accessed collPieces t u) : u.trainingBegan := by
  have hp : u.phase = t.phase := k.get F.MGT_PERIOD_STAT_PHASE
  have hfits : u.stepFits = t.stepFits := by
    unfold State.stepFits State.plan State.phaseTick State.aon State.periodStart
    rw [k.same.wb (by decide), k.same.time (by decide), k.same.period (by decide), k.get F.MGT_PERIOD_T0_T0, k.get F.MGT_PERIOD_CFG1_TRAIN_DL]
  unfold State.trainingBegan at h ⊢
  rw [hp, hfits, k.items, k.same.period (by decide)]
  exact h

/-! What was published stays so. -/

/-- The fields that show what was published. -/
def handedFields : List Field := [F.MGT_OUT_HELD0, F.MGT_OUT_HELD1, F.MGT_OUT_LAST_PERIOD]

theorem State.on_heldField_congr {s t u : State} (h : ∀ f ∈ handedFields, t.get f = u.get f) : t.on s.outHeldField = u.on s.outHeldField :=
  State.on_congr (h _ ((by decide : [F.MGT_OUT_HELD0, F.MGT_OUT_HELD1] ⊆ handedFields) s.outHeldField_mem))

theorem State.outputPublished.trans {s t u : State} (h : s.outputPublished t) (hget : ∀ f ∈ handedFields, u.get f = t.get f)
    (hper : u.period = t.period) (hr : Raises t u) : s.outputPublished u := by
  obtain ⟨h1, h2⟩ := h
  unfold State.outputPublished
  rw [State.on_heldField_congr hget, hget F.MGT_OUT_LAST_PERIOD (by decide), hper]
  exact ⟨fun hst hb => ⟨(h1 hst hb).1, (h1 hst hb).2.1, (h1 hst hb).2.2.1, fun hn => ((h1 hst hb).2.2.2 hn).mono hr⟩, h2⟩

/-- The output published after what leaves it as it was. -/
theorem State.outputPublished.of_kept {r s t : State} (h : s.outputPublished t) (k : OutputKept r s)
    (hlast : s.get F.MGT_OUT_LAST_PERIOD = r.get F.MGT_OUT_LAST_PERIOD) (hper : s.period = r.period) (hr : Raises r s) : r.outputPublished t := by
  obtain ⟨h1, h2⟩ := h
  rw [hper, k.held, k.heldField, k.get F.MGT_PERIOD_STAT_PERIOD_NUM (by decide)] at h1
  rw [hper, k.held, k.heldField, hlast] at h2
  refine ⟨fun hst hb => ?_, h2⟩
  obtain ⟨ha, hl, hc, hn⟩ := h1 hst (k.noRestore hb)
  exact ⟨ha, hl, hc, fun h => (hn h).of_raises hr⟩

theorem TrainBegun.published {s t u : State} (h : TrainBegun t u) (k : s.outputPublished t) : s.outputPublished u := by
  refine k.trans (fun f hf => h.get f ?_ ?_ ?_ ?_) (h.same.period (by decide)) (.of_same h.same)
  · exact (by decide : ∀ f ∈ handedFields, f.off < 0x100000) f hf
  · exact (by decide : ∀ f ∈ handedFields, f.off ≠ 0x50000 ∧ f.off ≠ 0x50038 ∧ f.off ≠ 0x10008 ∧ f.off ≠ 0x10028) f hf
  · exact .inl ((by decide : ∀ f ∈ handedFields, f.off ≠ 0x110) f hf)
  · exact (by decide : ∀ f ∈ handedFields, f.lo + f.w ≤ 64) f hf

theorem publishFields_apart {f : Field} (hf : f.spared = true) (hoff : f.off ≠ 0x120) : ∀ g, publishFields g → f.apart g := by
  rintro g (hg | hg)
  · exact .inl fun ho => hoff (ho.trans ((by decide : ∀ g ∈ [F.MGT_OUT_LAST_PERIOD, F.MGT_OUT_HELD0, F.MGT_OUT_HELD1], g.off = 0x120) g hg))
  · exact Field.spared_apart hf hg

theorem OutPublished.get {s t : State} (h : OutPublished s t) (f : Field) (hf : f.spared = true := by decide) (hoff : f.off ≠ 0x120 := by decide) :
    t.get f = s.get f :=
  h.writes.get f (Field.spared_width hf) (publishFields_apart hf hoff)

/-! INFER_DL (R26). -/

/-- Inference is not over at its deadline: work is left, or a collective of the phase is in flight (R26, R294). -/
def State.inferOpen (s : State) : Bool := !(s.inferOver && !s.coll.queue.any fun c => c.phase == 2)

/-- What of inference is late is flagged, and its collectives end. -/
def State.inferCancelled (s : State) : State := (s.late F.MGT_PERIOD_STAT_INFER_LATE).abandonColls fun c => c.phase == 2

theorem State.inferLate_of_inference {s : State} (h : s.phase = 2) :
    s.inferLate = if s.inferOpen then (s.inferCancelled.outPublish true).enterTraining else (s.outPublish false).enterTraining := by
  unfold State.inferLate State.inferOpen State.inferCancelled
  rw [if_neg (by simp [h])]
  cases s.inferOver && !s.coll.queue.any fun c => c.phase == 2 with
  | true => rw [if_pos rfl, Bool.not_true, if_neg Bool.noConfusion]
  | false => rw [if_neg Bool.noConfusion, Bool.not_false, if_pos rfl]

theorem State.inferLate_of_later {s : State} (h : s.phase ≠ 2) : s.inferLate = s := if_pos (by simpa using h)

/-- What is left of inference once its collectives have ended. -/
structure InferCancelled (s t : State) : Prop where
  regsOk : t.regsOk
  latent : t.mem.latent = []
  kept : OutputKept s t
  last : t.get F.MGT_OUT_LAST_PERIOD = s.get F.MGT_OUT_LAST_PERIOD
  sealState : t.get F.SEAL_STAT_SEAL_STATE = s.get F.SEAL_STAT_SEAL_STATE
  late : t.get F.MGT_PERIOD_STAT_INFER_LATE = 1
  time : t.time = s.time
  period : t.period = s.period
  raises : Raises s t
  queue : t.coll.queue = s.coll.queue.filter fun c => !(c.phase == 2)

theorem State.abandonColls_raises {s : State} (hok : s.regsOk) (hl : s.mem.latent = []) (which : Coll → Bool) : Raises s (s.abandonColls which) :=
  .of_start (State.abandonColls_keeps (List.Subset.refl _) (Keeps.refl s) which).sent
    ((State.abandonColls_accessed hok hl which).1.same.start (by decide))

theorem State.inferCancelled_facts {s : State} (hok : s.regsOk) (hl : s.mem.latent = []) : InferCancelled s s.inferCancelled := by
  have hw := State.cause_writes hok F.MGT_PERIOD_STAT_INFER_LATE false 2
  have hs := s.cause_same F.MGT_PERIOD_STAT_INFER_LATE false 2
  have hr := s.cause_raises F.MGT_PERIOD_STAT_INFER_LATE false 2
  have hget := State.get_cause hok F.MGT_PERIOD_STAT_INFER_LATE false 2 rfl
  unfold State.inferCancelled State.late
  generalize s.cause F.MGT_PERIOD_STAT_INFER_LATE false 2 = u at *
  have hlu : u.mem.latent = [] := (congrArg MemSt.latent (hs.mem (by decide))).trans hl
  obtain ⟨ha, hq⟩ := State.abandonColls_accessed hw.regsOk hlu fun c => c.phase == 2
  have hra := State.abandonColls_raises hw.regsOk hlu fun c => c.phase == 2
  generalize (u.abandonColls fun c => c.phase == 2) = t at *
  have hk : OutputKept s u := by
    refine hw.outputKept (fun g hg f hf => ?_) (congrArg MemSt.hostBias (hs.mem (by decide)))
    rw [hg]
    exact (by decide : ∀ f ∈ F.ENG_RESTORE_STAT_STATE :: outputFields, f.off ≠ 0x110 ∨ f.lo + f.w ≤ 41 ∨ 42 ≤ f.lo) f hf
  have hold (f : Field) (hf : f.spared = true) (ho : f.off ≠ 0x110) : t.get f = s.get f :=
    (ha.get f hf).trans (hw.get f (Field.spared_width hf) fun g hg => .inl (hg ▸ ho))
  refine ⟨ha.writes.regsOk, ha.latent, hk.trans ha.outputKept, hold _ (by decide) (by decide), hold _ (by decide) (by decide), ?_, ?_, ?_,
    hr.trans hra, ?_⟩
  · rw [ha.get F.MGT_PERIOD_STAT_INFER_LATE, hget]
  · rw [ha.same.time (by decide), hs.time (by decide)]
  · rw [ha.same.period (by decide), hs.period (by decide)]
  · rw [hq, hs.coll (by decide)]

/-- What publication and the beginning of training leave together. -/
structure InferOver (s t : State) : Prop where
  regsOk : t.regsOk
  latent : t.mem.latent = []
  published : s.outputPublished t
  began : t.trainingBegan
  late : t.get F.MGT_PERIOD_STAT_INFER_LATE = s.get F.MGT_PERIOD_STAT_INFER_LATE
  time : t.time = s.time
  coll : t.coll = s.coll

theorem State.outPublish_training {s : State} (hok : s.regsOk) (hl : s.mem.latent = []) (hstall : s.outStalled = false)
    (hseal : s.get F.SEAL_STAT_SEAL_STATE ≠ 2) (late : Bool) : InferOver s (s.outPublish late).enterTraining := by
  have h1 := State.outPublish_published hok hl hstall late
  generalize s.outPublish late = u at *
  have hsu : u.get F.SEAL_STAT_SEAL_STATE = s.get F.SEAL_STAT_SEAL_STATE := h1.get _
  have h2 := State.enterTraining_begun h1.writes.regsOk (hsu ▸ hseal)
  refine ⟨h2.writes.regsOk, h2.latent.trans h1.latent, h2.published h1.published, h2.began, ?_, ?_, ?_⟩
  · rw [h2.get _ (by decide) (by decide) (.inr (.inr (by decide))) (by decide), h1.get F.MGT_PERIOD_STAT_INFER_LATE]
  · rw [h2.same.time (by decide), h1.same.time (by decide)]
  · rw [h2.same.coll (by decide), h1.same.coll (by decide)]

/-- What the end of inference at its deadline leaves. -/
structure InferClosed (s t : State) : Prop where
  regsOk : t.regsOk
  latent : t.mem.latent = []
  published : s.outputPublished t
  began : t.trainingBegan
  late : t.get F.MGT_PERIOD_STAT_INFER_LATE = if s.inferOpen then 1 else s.get F.MGT_PERIOD_STAT_INFER_LATE
  time : t.time = s.time
  queue : t.coll.queue.filter (fun c => !decide (c.phase ≤ 2)) = s.coll.queue.filter fun c => decide (2 < c.phase)

theorem not_upTo_two (c : Coll) : (!decide (c.phase ≤ 2)) = decide (2 < c.phase) := by
  rw [← decide_not]
  exact decide_eq_decide.2 Nat.not_le

theorem State.outStalled_congr {s t : State} (k : OutputKept s t) (h : t.period = s.period) : t.outStalled = s.outStalled := by
  rw [State.outStalled, h, k.biased, State.outStalled]

theorem State.inferLate_closed {s : State} (hok : s.regsOk) (hl : s.mem.latent = []) (hstall : s.outStalled = false)
    (hseal : s.get F.SEAL_STAT_SEAL_STATE ≠ 2) (hphase : s.phase = 2) : InferClosed s s.inferLate := by
  rw [State.inferLate_of_inference hphase]
  cases ho : s.inferOpen with
  | false =>
    have h := State.outPublish_training hok hl hstall hseal false
    generalize (s.outPublish false).enterTraining = t at *
    rw [if_neg Bool.noConfusion]
    refine ⟨h.regsOk, h.latent, h.published, h.began, by rw [ho, h.late]; rfl, h.time, ?_⟩
    rw [h.coll]
    exact List.filter_congr fun c _ => not_upTo_two c
  | true =>
    have hc := State.inferCancelled_facts hok hl
    rw [if_pos rfl]
    generalize s.inferCancelled = u at *
    have h := State.outPublish_training hc.regsOk hc.latent ((State.outStalled_congr hc.kept hc.period).trans hstall) (hc.sealState ▸ hseal) true
    generalize (u.outPublish true).enterTraining = t at *
    refine ⟨h.regsOk, h.latent, h.published.of_kept hc.kept hc.last hc.period hc.raises, h.began, by rw [ho, h.late, hc.late]; rfl,
      h.time.trans hc.time, ?_⟩
    rw [h.coll, hc.queue, List.filter_filter]
    refine List.filter_congr fun c _ => ?_
    rw [not_upTo_two]
    by_cases h2 : 2 < c.phase
    · simp [h2, Nat.ne_of_gt h2]
    · simp [h2]

theorem State.inferOpen_iff {s : State} (hstall : s.outStalled = false) :
    s.inferOpen = false ↔ s.itemsDone = true ∧ s.period.ttFault = false ∧ ∀ c ∈ s.coll.queue, c.phase ≠ 2 := by
  simp [State.inferOpen, State.inferOver, hstall, and_assoc]

theorem execInferDeadline_eq {s : State} (hper : s.inPeriod = true) (hphase : s.phase ≠ 0) :
    execInferDeadline s =
      .next ((s.toTick (s.periodStart + s.get F.MGT_PERIOD_CFG1_INFER_DL)).ingestLate.inferLate.abandonColls fun c => decide (c.phase ≤ 2)) :=
  if_neg (by simp [hper, hphase])

/-- Settles O24: what the output's writes touch in memory leaves its own fields, and training begins with no item left. -/
theorem inferenceEndsAndTrainingBegins : Obligations.InferenceEndsAndTrainingBegins := by
  intro s hwf hrun hper
  have hok := State.regsOk_of_memWf hwf
  have hin := State.inPeriod_of hrun hper
  refine ⟨fun hphase hstall hdone => ⟨?_, fun hl hseal => ?_⟩, fun hphase htime hstall hl hseal => ?_, fun hphase hsp => ?_⟩
  · exact if_neg (by simp [hin, hphase, hstall, hdone])
  · have h := State.outPublish_training hok hl hstall hseal false
    exact ⟨h.published, h.began, h.late⟩
  · have hexec : exec .inferDeadline s = _ := execInferDeadline_eq hin (by rw [hphase]; decide)
    have hosc := State.toTick_osc htime (s.periodStart + s.get F.MGT_PERIOD_CFG1_INFER_DL)
    have hs0 := s.toTick_same (s.periodStart + s.get F.MGT_PERIOD_CFG1_INFER_DL)
    have hk0 := State.toTick_outputKept hok (s.periodStart + s.get F.MGT_PERIOD_CFG1_INFER_DL)
    have hg0 (f : Field) (hf : f.off < 0x40000 ∨ 0x50000 ≤ f.off) (hw : f.lo + f.w ≤ 64) :=
      State.toTick_get hok (s.periodStart + s.get F.MGT_PERIOD_CFG1_INFER_DL) f hf hw
    have hok0 := (State.toTick_regsIn hok (s.periodStart + s.get F.MGT_PERIOD_CFG1_INFER_DL)).1
    generalize s.toTick (s.periodStart + s.get F.MGT_PERIOD_CFG1_INFER_DL) = u at *
    have hphase0 : u.phase = 2 := (hg0 F.MGT_PERIOD_STAT_PHASE (by decide) (by decide)).trans hphase
    have hp0 : u.period = s.period := hs0.period (by decide)
    have hstall0 : u.outStalled = false := (State.outStalled_congr hk0 hp0).trans hstall
    have hopen : u.inferOpen = s.inferOpen := by
      unfold State.inferOpen State.inferOver State.itemsDone
      rw [hs0.coll (by decide), hs0.power (by decide), hp0, hstall0, hstall]
    rw [State.ingestLate_of_later (by rw [hphase0]; decide)] at hexec
    have h1 := State.inferLate_closed hok0 ((congrArg MemSt.latent (hs0.mem (by decide))).trans hl) hstall0
      (by rw [hg0 F.SEAL_STAT_SEAL_STATE (by decide) (by decide)]; exact hseal) hphase0
    generalize u.inferLate = v at *
    obtain ⟨h2, hq⟩ := State.abandonColls_accessed h1.regsOk h1.latent fun c => decide (c.phase ≤ 2)
    have hr := State.abandonColls_raises h1.regsOk h1.latent fun c => decide (c.phase ≤ 2)
    generalize (v.abandonColls fun c => decide (c.phase ≤ 2)) = t at *
    refine ⟨t, hexec, ?_, h1.began.accessed h2, ?_, ?_, ?_⟩
    · have hpub := h1.published.trans (u := t) (fun f hf => h2.get f ((by decide : ∀ f ∈ handedFields, f.spared = true) f hf))
        (h2.same.period (by decide)) hr
      exact hpub.of_kept hk0 (hg0 F.MGT_OUT_LAST_PERIOD (by decide) (by decide)) hp0 (.of_same hs0)
    · rw [h2.get F.MGT_PERIOD_STAT_INFER_LATE, h1.late, hopen, hg0 F.MGT_PERIOD_STAT_INFER_LATE (by decide) (by decide)]
      by_cases ho : s.inferOpen = true
      · rw [if_pos ho, if_neg fun hc => by rw [(State.inferOpen_iff hstall).2 hc] at ho; exact Bool.noConfusion ho]
      · rw [if_neg ho, if_pos ((State.inferOpen_iff hstall).1 (Bool.eq_false_iff.2 ho))]
    · rw [h2.same.time (by decide), h1.time, hosc]
    · rw [hq, h1.queue, hs0.coll (by decide)]
  · have hexec : exec .inferDeadline s = _ := execInferDeadline_eq hin (Nat.ne_of_gt (Nat.lt_trans Nat.zero_lt_two hphase))
    obtain ⟨h0, h1, h2, h3⟩ := State.toTick_abandonColls hok hsp (s.periodStart + s.get F.MGT_PERIOD_CFG1_INFER_DL) fun c => decide (c.phase ≤ 2)
    rw [State.ingestLate_of_later (by rw [h0]; omega), State.inferLate_of_later (by rw [h0]; exact Nat.ne_of_gt hphase)] at hexec
    exact ⟨_, hexec, h1, by rw [h2]; exact List.filter_congr fun c _ => not_upTo_two c, h3⟩

end Sys2Proof.Machine
end

section
/-! SUPPORT. O56: the values of the narrow formats (R40, R41, R45). -/

namespace Sys2Proof.Machine

/-- The value of an exact integer. -/
theorem rat_intFv (v : Int) : (intFv v).rat = some (v : ℚ) := by
  obtain ⟨m, rfl | rfl⟩ := v.eq_nat_or_neg
  · simp [intFv, Fv.rat]
  · rcases m.eq_zero_or_pos with rfl | h
    · simp [intFv, Fv.rat]
    · simp [intFv, Fv.rat, h]

theorem toSigned_four {c : Nat} (h : c < 16) : toSigned 4 c = if c < 8 then (c : Int) else (c : Int) - 16 := by
  simp [toSigned, Nat.mod_eq_of_lt h]

/-- R40: INT4 codes are two's complement. -/
theorem rat_int4 {c : Nat} (h : c < 16) : (elemValue fInt4 c).rat = some (if c < 8 then (c : ℚ) else (c : ℚ) - 16) := by
  have hv : elemValue fInt4 c = intFv (toSigned 4 c) := rfl
  rw [hv, rat_intFv, toSigned_four h]
  split <;> push_cast <;> rfl

/-- The sign, exponent and mantissa of a UE5M3 code. -/
theorem ue5m3Value_eq {c : Nat} (h : c < 256) :
    elemValue fUe5m3 c = if c < 8 then .fin false c (-17) else .fin false (8 + c % 8) (((c / 8 : Nat) : Int) - 18) := by
  have hneg : bit c 8 = false := by simp [bit]; omega
  have hexp : bits c 7 3 = c / 8 := by simp [bits]; omega
  have hv : elemValue fUe5m3 c = miniValue 5 3 15 (c % 256) := rfl
  rw [hv, Nat.mod_eq_of_lt h, miniValue, hneg, hexp]
  by_cases h8 : c < 8
  · simp [h8, Nat.div_eq_of_lt h8, Nat.mod_eq_of_lt h8]
  · have hdiv : ¬ c / 8 = 0 := by omega
    simp [h8, hdiv]
    omega

/-- R45: eight steps in each power of 2, below 2⁻¹⁴ down to 0. -/
theorem rat_ue5m3 {c : Nat} (h : c < 256) : (elemValue fUe5m3 c).rat = some (if c < 8 then (c : ℚ) / 8 * 2 ^ (-14 : Int) else
    (1 + ((c % 8 : Nat) : ℚ) / 8) * 2 ^ (((c / 8 : Nat) : Int) - 15)) := by
  rw [ue5m3Value_eq h]
  split
  · simp only [Fv.rat]
    norm_num
    ring
  · have hpow : (2 : ℚ) ^ (((c / 8 : Nat) : Int) - 15) = 2 ^ (((c / 8 : Nat) : Int) - 18) * 8 := by
      rw [show ((c / 8 : Nat) : Int) - 15 = (((c / 8 : Nat) : Int) - 18) + 3 by ring, zpow_add₀ two_ne_zero]
      norm_num
    simp only [Fv.rat, hpow]
    push_cast
    congr 1
    ring

/-- Settles O56: INT4 and UE5M3 by sign, exponent and mantissa, W2 and W1 code by code. -/
theorem narrowCodesHaveTheirValues : Obligations.NarrowCodesHaveTheirValues := by
  refine ⟨fun c h => rat_int4 h, ?_, ?_, ?_, ?_, ?_, ?_, fun c h => rat_ue5m3 h⟩ <;>
    norm_num [elemValue, fW2, fW1, bit, Fv.rat]

end Sys2Proof.Machine
end

section
/-! SUPPORT. A command posted while nothing waits runs at its unit at once (R178, R299, R312), and the unit that runs it. -/

namespace Sys2Proof.Machine

/-- The unit of a command takes it at once: nothing waits, the sequencer works, the unit lives, no scalar entry is awaited, every domain that the
command needs is ON and issues. -/
structure State.Takes (s : State) (c : Instr) : Prop where
  idle : s.stalled = []
  posts : s.mayPost c = true
  lives : s.unitLives c = true
  scalar : s.scalarPends c = none
  awake : s.asleepFor c = []
  uncapped : s.cappedFor c = []
  unitKind : ∀ w : Waiting, w.cmd = c → ∀ t : State, t.tryCmd w = t.tryUnit w

theorem State.retryStalled_of_nil {s : State} (h : s.stalled = []) : s.retryStalled = s := by
  rw [State.retryStalled, h]
  rfl

/-- A command that its unit takes does what the unit does with it, unless an access holds it back. -/
theorem State.issue_eq_atUnit {s : State} {c : Instr} (h : s.Takes c) (hidle : (s.atUnit c).stalled = []) (hstall : (s.atUnit c).stallReq = false) :
    s.issue c = s.atUnit c := by
  have hheld : s.seqHeld c = false := by
    unfold State.seqHeld
    split
    · rw [h.idle]; rfl
    · rfl
  have hfull : s.queueFull c = false := by
    unfold State.queueFull
    split
    · rw [State.waitingIn, h.idle]
      simp
    · rfl
  have hblocked : s.blocked c = false := by rw [State.blocked, h.idle]; rfl
  have htry : s.tryCmd ⟨c, 0, false, false⟩ = s.atUnit c := by
    rw [h.unitKind _ rfl]
    simp only [State.tryUnit, State.atSequencer, State.runUnit, hheld, hfull, h.scalar, h.awake, hblocked, h.uncapped]
    exact if_neg fun h => Bool.noConfusion (hstall.symm.trans h)
  simp only [State.issue, h.posts, h.lives, htry, hidle, h.idle, State.retryStalled_of_nil]
  rfl

/-- Every access of a command that its unit took went on. -/
theorem State.tileFree.idle {s : State} {n : TileIx} (h : s.tileFree n) : s.stalled = [] ∧ s.stallReq = false :=
  ⟨h.2.2.2.2.1, h.2.2.2.2.2⟩

theorem State.dom_of_domReady {s : State} {d : Nat} (h : s.domReady d = true) : s.dom d = 3 := by
  simp only [State.domReady, Bool.and_eq_true, beq_iff_eq] at h
  exact h.1

theorem State.asleepFor_eq_nil {s : State} {c : Instr} (h : ∀ d ∈ s.domainsOf c, s.domReady d = true) : s.asleepFor c = [] := by
  refine List.filter_eq_nil_iff.2 fun d hd => ?_
  simp [State.dom_of_domReady (h d hd)]

theorem State.cappedFor_eq_nil {s : State} {c : Instr} (h : ∀ d ∈ s.domainsOf c, s.domReady d = true) : s.cappedFor c = [] := by
  refine List.filter_eq_nil_iff.2 fun d hd => ?_
  simp [h d hd]

/-- A free tile's sequencer posts. -/
theorem State.tileFree.mayPost {s : State} {n : TileIx} (h : s.tileFree n) {c : Instr} (hseq : seqOf c = some n) : s.mayPost c = true := by
  obtain ⟨hrun, hfence, hready, -⟩ := h
  simp [State.mayPost, hseq, hrun, hfence, State.dom_of_domReady hready]

end Sys2Proof.Machine
end

section
/-! SUPPORT. Accesses of a tile's own units to its memory (R211, R213, R217, R236): what they read and write, and what they leave alone. -/

namespace Sys2Proof.Machine

/-- What every step of a fold keeps of the state that its accumulator begins with, the fold keeps. -/
theorem foldl_fst_induction {α β : Type} {P : State → Prop} {f : State × β → α → State × β} {l : List α} {p : State × β} (h0 : P p.1)
    (h : ∀ p, ∀ a ∈ l, P p.1 → P (f p a).1) : P (l.foldl f p).1 := by
  induction l generalizing p with
  | nil => exact h0
  | cons a l ih => exact ih (h p a List.mem_cons_self h0) fun q b hb => h q b (List.mem_cons_of_mem _ hb)

/-- A fold that reads: one result for each item, in order. -/
theorem foldl_collect {α β γ : Type} {P : State → Prop} {f : State × List β × γ → α → State × List β × γ} {g : α → β} {l : List α}
    {p : State × List β × γ} (h0 : P p.1) (h : ∀ p, ∀ a ∈ l, P p.1 → P (f p a).1 ∧ (f p a).2.1 = p.2.1 ++ [g a]) :
    P (l.foldl f p).1 ∧ (l.foldl f p).2.1 = p.2.1 ++ l.map g := by
  induction l generalizing p with
  | nil => exact ⟨h0, (List.append_nil _).symm⟩
  | cons a l ih =>
    obtain ⟨ha, hv⟩ := h p a List.mem_cons_self h0
    obtain ⟨hl, hr⟩ := ih ha fun q b hb => h q b (List.mem_cons_of_mem _ hb)
    refine ⟨hl, hr.trans ?_⟩
    rw [hv, List.append_assoc]
    rfl

/-! Bytes and marks after a write. -/

/-- Bytes written one after another from an address on. -/
theorem Sparse.find_insertBytes (a j k : Nat) (data : List Byte) {m : Sparse Byte} (h : Sparse.sorted m = true) :
    Sparse.find ((data.zipIdx k).foldl (fun m x => Sparse.insert m (a + x.2) x.1) m) j =
      if a + k ≤ j ∧ j < a + k + data.length then data[j - (a + k)]? else Sparse.find m j := by
  induction data generalizing m k with
  | nil => rw [if_neg (by simp only [List.length_nil]; omega)]; rfl
  | cons b l ih =>
    rw [List.zipIdx_cons, List.foldl_cons, ih _ (Sparse.insert_sorted h), Sparse.find_insert _ _ _ h, List.length_cons]
    by_cases hj : j = a + k
    · subst hj
      rw [if_neg (by omega), if_pos rfl, if_pos (by omega), Nat.sub_self]
      rfl
    · rw [if_neg (Ne.symm hj)]
      by_cases hin : a + (k + 1) ≤ j ∧ j < a + (k + 1) + l.length
      · rw [if_pos hin, if_pos (by omega), show j - (a + k) = j - (a + (k + 1)) + 1 by omega, List.getElem?_cons_succ]
      · rw [if_neg hin, if_neg (by omega)]

theorem NatSet.mem_addAll {l : List Nat} {m : NatSet} {j : Nat} : j ∈ l.foldl NatSet.add m ↔ j ∈ l ∨ j ∈ m := by
  induction l generalizing m with
  | nil => simp
  | cons a l ih =>
    rw [List.foldl_cons, ih, NatSet.mem_add, List.mem_cons]
    tauto

/-! What an access to a tile's memory may write. -/

/-- The register fields that an access to tile memory may write: an unmapped address (R217), a poisoned stash and its recomputation (R236). -/
def tmFields : List Field := [F.MEM_STAT_UNMAPPED, F.MEM_STASH_STAT_STASH_POISON, F.MEM_STASH_STAT_RECOMPUTES]

/-- A tile without its memory and its flags of the step: what no access to memory writes. -/
def TileSt.unitPart (t : TileSt) : TileSt := { t with mem := [], poison := [], failed := false, poisonUsed := false }

/-- From `s` to `t` units of tile n accessed its memory and wrote bytes of `st` alone. -/
structure TileAccess (n : TileIx) (st : Nat → Prop) (s t : State) : Prop where
  memWf : t.memWf = true
  same : Same [.regs, .mem, .tiles] s t
  writes : Writes (fun g => g ∈ tmFields) s t
  others : ∀ m, m ≠ n → t.tile m = s.tile m
  unitPart : (t.tile n).unitPart = (s.tile n).unitPart
  noted : s.memNoted t
  bytes : s.tileBytesBut n st t

theorem State.memNoted.refl (s : State) : s.memNoted s := rfl

theorem State.memNoted.trans {s t u : State} (h : s.memNoted t) (k : t.memNoted u) : s.memNoted u := by
  unfold State.memNoted at *
  rw [k, h]

theorem State.memNoted.stash {s t : State} (h : s.memNoted t) : t.mem.stash = s.mem.stash := by rw [h]

theorem State.tileBytesBut.refl (s : State) (n : TileIx) (st : Nat → Prop) : s.tileBytesBut n st s :=
  ⟨fun _ _ => rfl, fun _ _ => ⟨id, fun h _ => h⟩⟩

theorem State.tileBytesBut.trans {s t u : State} {n : TileIx} {st : Nat → Prop} (h : s.tileBytesBut n st t) (k : t.tileBytesBut n st u)
    (hstash : t.mem.stash = s.mem.stash) : s.tileBytesBut n st u := by
  refine ⟨fun a ha => (k.1 a ha).trans (h.1 a ha), fun g hg => ?_⟩
  obtain ⟨h1, h2⟩ := h.2 g hg
  obtain ⟨k1, k2⟩ := k.2 g hg
  refine ⟨h1 ∘ k1, fun hs hl => k2 (h2 hs hl) ?_⟩
  rwa [State.inLarder, hstash]

theorem State.tileBytesBut.mono {s t : State} {n : TileIx} {S T : Nat → Prop} (h : s.tileBytesBut n S t) (hST : ∀ a, S a → T a) :
    s.tileBytesBut n T t :=
  ⟨fun a ha => h.1 a fun hs => ha (hST a hs), fun g hg => h.2 g fun a h1 h2 hs => hg a h1 h2 (hST a hs)⟩

theorem State.tileBytesBut.of_tile {s t : State} {n : TileIx} (hm : (t.tile n).mem = (s.tile n).mem) (hp : (t.tile n).poison = (s.tile n).poison)
    (st : Nat → Prop) : s.tileBytesBut n st t :=
  ⟨fun _ _ => by rw [hm], fun _ _ => by rw [hp]; exact ⟨id, fun h _ => h⟩⟩

section access
variable {n : TileIx} {st : Nat → Prop} {s t u : State}

theorem TileAccess.refl (h : s.memWf = true) : TileAccess n st s s :=
  ⟨h, .refl s, .refl (State.regsOk_of_memWf h), fun _ _ => rfl, rfl, .refl s, .refl s n st⟩

theorem TileAccess.trans (h : TileAccess n st s t) (k : TileAccess n st t u) : TileAccess n st s u where
  memWf := k.memWf
  same := h.same.trans k.same
  writes := h.writes.trans k.writes
  others m hm := (k.others m hm).trans (h.others m hm)
  unitPart := k.unitPart.trans h.unitPart
  noted := h.noted.trans k.noted
  bytes := h.bytes.trans k.bytes h.noted.stash

theorem TileAccess.mono {st' : Nat → Prop} (h : TileAccess n st s t) (hst : ∀ a, st a → st' a) : TileAccess n st' s t :=
  { h with bytes := h.bytes.mono hst }

theorem TileAccess.ite {c : Prop} [Decidable c] {a b : State} (ha : TileAccess n st s a) (hb : TileAccess n st s b) :
    TileAccess n st s (if c then a else b) := by
  split
  · exact ha
  · exact hb

theorem TileAccess.forEach {α : Type} {l : List α} {f : State → α → State} (h : s.memWf = true)
    (hf : ∀ t, ∀ a ∈ l, TileAccess n st s t → TileAccess n st t (f t a)) : TileAccess n st s (s.forEach l f) :=
  State.forEach_induction (.refl h) fun t a ha ht => ht.trans (hf t a ha ht)

theorem TileAccess.free (h : TileAccess n st s t) : t.free = s.free := h.same.free (by decide)

/-- A field that shares no bit with those of an access. -/
theorem TileAccess.get (h : TileAccess n st s t) (f : Field) (hf : f.lo + f.w ≤ 64) (ha : ∀ g ∈ tmFields, f.apart g) : t.get f = s.get f :=
  h.writes.get f hf ha

theorem tmFields_off {g : Field} (h : g ∈ tmFields) : g.off = 0xC0018 ∨ g.off = 0xC0030 := by
  simp only [tmFields, List.mem_cons, List.not_mem_nil, or_false] at h
  rcases h with rfl | rfl | rfl <;> decide

theorem TileAccess.get_off (h : TileAccess n st s t) (f : Field) (h1 : f.off ≠ 0xC0018 ∧ f.off ≠ 0xC0030) (hf : f.lo + f.w ≤ 64 := by decide) :
    t.get f = s.get f :=
  h.writes.get_off f (fun _ hg ho => (tmFields_off hg).elim (fun h => h1.1 (ho.symm.trans h)) fun h => h1.2 (ho.symm.trans h)) hf

/-- A byte outside what was written reads as before. -/
theorem TileAccess.tileByte (h : TileAccess n st s t) {a : Nat} (ha : ¬ st a) : t.tileByte n a = s.tileByte n a := by
  rw [State.tileByte, h.bytes.1 a ha, h.free, State.tileByte]

theorem TileAccess.tileRead (h : TileAccess n st s t) {a len : Nat} (ha : ∀ i < len, ¬ st (a + i)) :
    (t.tileRead n a len).1 = (s.tileRead n a len).1 :=
  List.map_congr_left fun i hi => h.tileByte (ha i (List.mem_range.1 hi))

/-! One rule for each update. -/

/-- An update of the tile's flags of the step. -/
theorem TileAccess.modTile (h : s.memWf = true) (f : TileSt → TileSt) (hm : (f (s.tile n)).mem = (s.tile n).mem)
    (hp : (f (s.tile n)).poison = (s.tile n).poison) (hu : (f (s.tile n)).unitPart = (s.tile n).unitPart) : TileAccess n st s (s.modTile n f) where
  memWf := (State.setTile_keeps (L := [.tiles]) (List.Subset.refl _) (Keeps.refl s) n _
    fun hw => TileSt.wf_upd hm hp (State.memWf_tile hw n)).memWf h
  same := (Same.refl s).upd (M := [.tiles]) (by decide)
  writes := (Writes.refl (State.regsOk_of_memWf h)).of_regs
  others m hne := State.tile_modTile_ne _ _ _ _ (Ne.symm hne)
  unitPart := by rw [State.tile_modTile_self, hu]
  noted := .refl s
  bytes := .of_tile (by rw [State.tile_modTile_self, hm]) (by rw [State.tile_modTile_self, hp]) st

theorem TileAccess.taintTile (h : s.memWf = true) : TileAccess n st s (s.taintTile n) := .modTile h _ rfl rfl rfl
theorem TileAccess.failTile (h : s.memWf = true) : TileAccess n st s (s.failTile n) := .modTile h _ rfl rfl rfl

/-- An update that leaves the tiles alone. -/
theorem TileAccess.of_tiles (h : s.memWf = true) (hk : Keeps [.regs, .mem] s t) (hw : Writes (fun g => g ∈ tmFields) s t)
    (hn : s.memNoted t) : TileAccess n st s t := by
  have ht : ∀ m, t.tile m = s.tile m := State.tile_congr (hk.same.tiles (by decide))
  exact ⟨hk.memWf h, hk.same.mono (by decide), hw, fun m _ => ht m, by rw [ht], hn, .of_tile (by rw [ht]) (by rw [ht]) st⟩

theorem TileAccess.flag (h : s.memWf = true) {f : Field} (hf : f ∈ tmFields) : TileAccess n st s (s.flag f) :=
  .of_tiles h (State.flag_keeps (by decide) (Keeps.refl s) f) ((Writes.refl (State.regsOk_of_memWf h)).set f 1 hf) rfl

theorem TileAccess.touch (h : s.memWf = true) (a len : Nat) (write : Bool) : TileAccess n st s (s.touch a len write) := by
  refine .of_tiles h (State.touch_keeps (by decide) (Keeps.refl s) a len write) ?_ ?_ <;> unfold State.touch <;> extract_lets hit
  · exact .ite (.refl (State.regsOk_of_memWf h)) ((Writes.refl (State.regsOk_of_memWf h)).of_regs)
  · split <;> rfl

theorem TileAccess.stashPoison (h : s.memWf = true) (m l : Nat) : TileAccess n st s (s.stashPoison m l) := by
  have hok := State.regsOk_of_memWf h
  refine .of_tiles h (State.stashPoison_keeps (by decide) (Keeps.refl s) m l) ?_ ?_ <;> unfold State.stashPoison State.recompute
  · extract_lets base first between kept others
    refine Writes.set (Writes.of_regs (t := s.bump F.MEM_STASH_STAT_STASH_POISON 1) ?_) _ _ (by decide)
    exact (Writes.refl hok).set _ _ (by decide)
  · rfl

/-- A recomputation clears marks of its stash in the Larder alone (R236). -/
theorem TileAccess.larderHeal (h : s.memWf = true) (a len : Nat) : TileAccess n st s (s.larderHeal n a len) := by
  refine .ite (.refl h) (.forEach h fun t e he ht => ?_)
  have hp : TileAccess n st t (t.stashPoison n.val e.1) := .stashPoison ht.memWf _ _
  refine hp.trans ?_
  have hmem : e ∈ s.mem.stash ∧ e.2.2.1 = false ∧ e.2.1 = n.val := by
    simp only [List.mem_filter, Bool.and_eq_true, Bool.not_eq_true', beq_iff_eq] at he
    exact ⟨he.1, he.2.1.1.1, he.2.1.1.2⟩
  generalize t.stashPoison n.val e.1 = v at hp ⊢
  have hstash : e ∈ v.mem.stash := by rw [hp.noted.stash, ht.noted.stash]; exact hmem.1
  have hself := State.tile_modTile_self v n fun x =>
    { x with poison := x.poison.filter fun g => !decide (g * 64 < e.2.2.2.1 + e.2.2.2.2 ∧ e.2.2.2.1 < g * 64 + 64) }
  refine ⟨?_, (Same.refl v).upd (M := [.tiles]) (by decide), (Writes.refl hp.writes.regsOk).of_regs,
    fun m hne => State.tile_modTile_ne _ _ _ _ (Ne.symm hne), by rw [hself]; rfl, .refl v, fun x _ => by rw [hself], fun g hg => ?_⟩
  · refine (State.modTile_keeps (L := [.tiles]) (List.Subset.refl _) (Keeps.refl v) n _ fun x hx => ?_).memWf hp.memWf
    simp only [TileSt.wf, Bool.and_eq_true] at hx ⊢
    exact ⟨hx.1, NatSet.filter_sorted _ hx.2⟩
  · rw [hself]
    refine ⟨List.mem_of_mem_filter, fun hin hl => List.mem_filter.2 ⟨hin, ?_⟩⟩
    have hno : ¬ (g * 64 < e.2.2.2.1 + e.2.2.2.2 ∧ e.2.2.2.1 < g * 64 + 64) := fun ho =>
      hl ⟨e, hstash, hmem.2.1, hmem.2.2, ho.1, ho.2⟩
    simp [hno]

/-- The bytes of a write, and the marks of the granules that it touches or covers (R211). -/
theorem TileAccess.tileWrite (h : s.memWf = true) (a : Nat) (data : List Byte) (poison : Bool) :
    TileAccess n (fun x => a ≤ x ∧ x < a + data.length) s (s.tileWrite n a data poison) := by
  have hwf := State.memWf_tile h n
  simp only [TileSt.wf, Bool.and_eq_true] at hwf
  have hself : (s.tileWrite n a data poison).tile n = _ := State.tile_modTile_self _ _ _
  refine ⟨(State.tileWrite_keeps (L := [.tiles]) (List.Subset.refl _) (Keeps.refl s) n a data poison).memWf h,
    (Same.refl s).upd (M := [.tiles]) (by decide), (Writes.refl (State.regsOk_of_memWf h)).of_regs,
    fun m hne => State.tile_modTile_ne _ _ _ _ (Ne.symm hne), by rw [hself]; rfl, .refl s, fun x hx => ?_, fun g hg => ?_⟩
  · rw [hself]
    have hf := Sparse.find_insertBytes a x 0 data hwf.1
    rwa [Nat.add_zero, if_neg hx] at hf
  · have hout : ∀ x, g * 64 ≤ x → x < g * 64 + 64 → ¬ (a ≤ x ∧ x < a + data.length) := hg
    rw [hself]
    simp only
    split
    · next hp =>
      simp only [Bool.and_eq_true, bne_iff_ne] at hp
      rw [NatSet.mem_addAll]
      refine ⟨fun hin => hin.resolve_left fun hin => ?_, fun hin _ => .inr hin⟩
      simp only [List.mem_map, List.mem_range] at hin
      obtain ⟨i, hi, rfl⟩ := hin
      have h1 := hout (max a ((a / 64 + i) * 64))
      omega
    · refine ⟨List.mem_of_mem_filter, fun hin _ => List.mem_filter.2 ⟨hin, ?_⟩⟩
      have h1 := hout (g * 64) le_rfl (by omega)
      have h2 : ¬ (a ≤ g * 64 ∧ g * 64 + 64 ≤ a + data.length) := by omega
      simp [h2]

theorem State.tileByte_tileWrite (h : s.memWf = true) (a : Nat) (data : List Byte) (poison : Bool) {i : Nat} (hi : i < data.length) :
    (s.tileWrite n a data poison).tileByte n (a + i) = data.getD i 0 := by
  have hwf := State.memWf_tile h n
  simp only [TileSt.wf, Bool.and_eq_true] at hwf
  have hf := Sparse.find_insertBytes a (a + i) 0 data hwf.1
  rw [Nat.add_zero, if_pos (by omega), Nat.add_sub_cancel_left, List.getElem?_eq_getElem hi] at hf
  rw [State.tileByte, State.tileWrite, State.tile_modTile_self, hf, List.getD_eq_getElem?_getD, List.getElem?_eq_getElem hi]
  rfl

end access

/-! Reads and writes of a unit. -/

section unit
variable {n : TileIx} {st : Nat → Prop} {s : State}

theorem TileAccess.tmRead (h : s.memWf = true) (a len : Nat) : TileAccess n st s (s.tmRead n a len).1 := by
  unfold State.tmRead
  extract_lets k u
  have hu : TileAccess n st s u := by
    have h1 : TileAccess n st s (s.touch (tileAddr n.val a) k false) := .touch h _ _ _
    exact h1.trans (.larderHeal h1.memWf a k)
  clear_value u
  have hbad : TileAccess n st s (((u.flag F.MEM_STAT_UNMAPPED).failTile n).taintTile n) := by
    have h1 : TileAccess n st u (u.flag F.MEM_STAT_UNMAPPED) := .flag hu.memWf (by decide)
    have h2 : TileAccess n st u ((u.flag F.MEM_STAT_UNMAPPED).failTile n) := h1.trans (.failTile h1.memWf)
    exact hu.trans (h2.trans (.taintTile h2.memWf))
  have hgood : ∀ b : Bool, TileAccess n st s (if b = true then u.taintTile n else u) := fun b => .ite (hu.trans (.taintTile hu.memWf)) hu
  simp only
  split
  · exact hgood _
  · exact hbad

/-- What a read within tile memory gives. -/
theorem State.tmRead_data (h : s.memWf = true) {a len : Nat} (hlen : a + len ≤ tileBytes) : (s.tmRead n a len).2.1 = (s.tileRead n a len).1 := by
  unfold State.tmRead
  extract_lets k u
  have hk : k = len := Nat.min_eq_left (by omega)
  have hu : TileAccess n (fun _ => False) s u := by
    have h1 : TileAccess n (fun _ => False) s (s.touch (tileAddr n.val a) k false) := .touch h _ _ _
    exact h1.trans (.larderHeal h1.memWf a k)
  clear_value u k
  subst hk
  simp only [beq_self_eq_true, if_true]
  exact hu.tileRead fun _ _ => id

theorem TileAccess.tmWrite (h : s.memWf = true) (a : Nat) (data : List Byte) (poison : Bool) :
    TileAccess n (fun x => a ≤ x ∧ x < a + data.length) s (s.tmWrite n a data poison) := by
  unfold State.tmWrite
  extract_lets k u
  have hu : TileAccess n (fun x => a ≤ x ∧ x < a + data.length) s u := by
    have h1 : TileAccess n (fun x => a ≤ x ∧ x < a + data.length) s (s.touch (tileAddr n.val a) k true) := .touch h _ _ _
    refine h1.trans ((TileAccess.tileWrite h1.memWf a (data.take k) poison).mono fun x hx => ⟨hx.1, Nat.lt_of_lt_of_le hx.2 ?_⟩)
    rw [List.length_take]
    omega
  clear_value u
  have h2 : TileAccess n (fun x => a ≤ x ∧ x < a + data.length) u (u.flag F.MEM_STAT_UNMAPPED) := .flag hu.memWf (by decide)
  exact .ite hu (hu.trans (h2.trans (.failTile h2.memWf)))

theorem State.tileByte_tmWrite (h : s.memWf = true) {a : Nat} {data : List Byte} (hlen : a + data.length ≤ tileBytes) (poison : Bool) {i : Nat}
    (hi : i < data.length) : (s.tmWrite n a data poison).tileByte n (a + i) = data.getD i 0 := by
  unfold State.tmWrite
  extract_lets k u
  have hk : k = data.length := Nat.min_eq_left (by omega)
  have h1 : TileAccess n (fun _ => False) s (s.touch (tileAddr n.val a) k true) := .touch h _ _ _
  have hu : u = (s.touch (tileAddr n.val a) k true).tileWrite n a data poison := by unfold u; rw [hk, List.take_length]
  rw [if_pos (by simp [hk]), hu]
  exact State.tileByte_tileWrite h1.memWf a data poison hi

end unit

/-- The frame of an access to tile memory. -/
theorem TileAccess.onTile {n : TileIx} {st : Nat → Prop} {s t : State} (h : TileAccess n st s t) : s.onTile n t :=
  ⟨h.others, h.writes.frame fun _ hg => .inr hg, h.same.mono (by decide), h.noted⟩

end Sys2Proof.Machine
end

section
/-! SUPPORT. How the commands of tiles and zoo engines end: sticky flags (R74, R242), scalar summaries (R206), completion records (R72, R205),
and the counters (R415, R417). -/

namespace Sys2Proof.Machine

/-! Counters. -/

theorem regsIn.perfSample {s t : State} (h : regsIn perfWin s t) {b i : Nat} (hb : b < 119) (hi : i < 8) (v : Nat) :
    regsIn perfWin s (t.perfSample b i v) := by
  unfold State.perfSample
  extract_lets th mode prev add p u
  exact (h.of_regs (u := u) rfl).perfAdd hb hi add

theorem regsIn.perfEvent {s t : State} (h : regsIn perfWin s t) {b : Nat} (hb : b < 119) (code k : Nat) : regsIn perfWin s (t.perfEvent b code k) := by
  unfold State.perfEvent
  split
  · exact h
  · refine State.forEach_induction h fun t i hi ht => ?_
    split
    · exact ht.perfSample hb (Nat.lt_of_lt_of_le (List.mem_range.1 hi) (perfCount_le b)) k
    · exact ht

theorem regsIn.perfLadle {s t : State} (h : regsIn perfWin s t) {b : Nat} (hb : b < 119) (l code k : Nat) :
    regsIn perfWin s (t.perfLadle b l code k) := by
  unfold State.perfLadle
  split
  · exact h
  · refine State.forEach_induction h fun t i hi ht => ?_
    extract_lets m
    split
    · exact ht.perfSample hb (Nat.lt_of_lt_of_le (List.mem_range.1 hi) (perfCount_le b)) k
    · exact ht

/-! Tiles after updates of registers. -/

@[simp] theorem State.tile_flag (s : State) (f : Field) (m : TileIx) : (s.flag f).tile m = s.tile m := rfl
@[simp] theorem State.tile_bump (s : State) (f : Field) (k : Nat) (m : TileIx) : (s.bump f k).tile m = s.tile m := rfl

@[simp] theorem State.tile_perfEvent (s : State) (b code k : Nat) (m : TileIx) : (s.perfEvent b code k).tile m = s.tile m :=
  State.tile_congr ((State.perfEvent_keeps (List.Subset.refl _) (Keeps.refl s) b code k).same.tiles (by decide)) m

@[simp] theorem State.tile_perfLadle (s : State) (b l code k : Nat) (m : TileIx) : (s.perfLadle b l code k).tile m = s.tile m :=
  State.tile_congr ((State.perfLadle_keeps (List.Subset.refl _) (Keeps.refl s) b l code k).same.tiles (by decide)) m

@[simp] theorem State.recs_sticky (s : State) (n : TileIx) (k : Nat) (b : Bool) : ((s.sticky n k b).tile n).recs = (s.tile n).recs := by
  unfold State.sticky
  split
  · rfl
  · rw [State.tile_modTile_self]

@[simp] theorem State.sf_sticky (s : State) (n : TileIx) (k : Nat) (b : Bool) : ((s.sticky n k b).tile n).sf = (s.tile n).sf := by
  unfold State.sticky
  split
  · rfl
  · rw [State.tile_modTile_self]

@[simp] theorem State.recs_putSummary (s : State) (n : TileIx) (k : Nat) (l : List U32) : ((s.putSummary n k l).tile n).recs = (s.tile n).recs := by
  unfold State.putSummary
  split
  · rfl
  · rw [State.tile_modTile_self]

/-- A summary writes four entries of the scalar file (R206). -/
theorem State.sf_putSummary (s : State) (n : TileIx) (k : Nat) (l : List U32) (i : Fin 32) (hi : ¬ (k ≤ i.val ∧ i.val < k + 4)) :
    ((s.putSummary n k l).tile n).sf[i] = (s.tile n).sf[i] := by
  unfold State.putSummary
  split
  · rfl
  · simp [hi]

@[simp] theorem State.sf_complete (s : State) (n : TileIx) (b : Nat) (r : BitVec 256) : ((s.complete n b r).tile n).sf = (s.tile n).sf := by
  rw [State.complete, State.tile_perfEvent]
  split
  · rfl
  · rw [State.record, State.tile_modTile_self]

/-- A completion record reaches a tile that is not fenced (R208). -/
theorem State.recs_complete {s : State} {n : TileIx} (h : s.tileFenced n.val = false) (b : Nat) (r : BitVec 256) :
    ((s.complete n b r).tile n).recs = r :: (s.tile n).recs := by
  rw [State.complete, State.tile_perfEvent, h, State.record]
  simp

/-! The end of a command. -/

/-- A tile without what its commands report: records, scalar file, sticky flags, the notes of its layers. -/
def TileSt.held (t : TileSt) : TileSt :=
  { t with recs := [], sf := Vector.replicate 32 0, nonfin := false, origin := none, layer := 0, spill := [], sat := [] }

theorem TileSt.mem_of_held {t u : TileSt} (h : t.held = u.held) : t.mem = u.mem := by
  have hm := congrArg TileSt.mem h
  exact hm

theorem TileSt.poison_of_held {t u : TileSt} (h : t.held = u.held) : t.poison = u.poison := by
  have hm := congrArg TileSt.poison h
  exact hm

/-- From `s` to `t` a command reports to tile n and writes register fields of `W` alone. -/
structure Ending (W : Field → Prop) (n : TileIx) (s t : State) : Prop where
  keeps : Keeps [.regs, .tiles, .perf] s t
  writes : Writes W s t
  others : ∀ m, m ≠ n → t.tile m = s.tile m
  held : (t.tile n).held = (s.tile n).held

section ending
variable {W : Field → Prop} {n : TileIx} {σ s t u : State}

theorem Ending.refl (h : s.memWf = true) : Ending W n s s :=
  ⟨.refl s, .refl (State.regsOk_of_memWf h), fun _ _ => rfl, rfl⟩

theorem Ending.trans (h : Ending W n s t) (k : Ending W n t u) : Ending W n s u :=
  ⟨h.keeps.trans k.keeps, h.writes.trans k.writes, fun m hm => (k.others m hm).trans (h.others m hm), k.held.trans h.held⟩

theorem Ending.mono {V : Field → Prop} (h : Ending W n s t) (hWV : ∀ g, W g → V g) : Ending V n s t :=
  { h with writes := h.writes.mono hWV }

theorem Ending.set (h : Ending W n σ s) (f : Field) (x : Nat) (hf : W f) : Ending W n σ (s.set f x) :=
  ⟨State.set_keeps (by decide) h.keeps f x, h.writes.set f x hf, h.others, h.held⟩

theorem Ending.flagIf (h : Ending W n σ s) (b : Bool) (f : Field) (hf : W f) : Ending W n σ (s.flagIf b f) := by
  unfold State.flagIf
  split
  · exact h.set f 1 hf
  · exact h

theorem Ending.ite {c : Prop} [Decidable c] (ha : Ending W n σ s) (hb : Ending W n σ t) : Ending W n σ (if c then s else t) := by
  split
  · exact ha
  · exact hb

/-- An update of the part of the tile that commands report to. -/
theorem Ending.modTile (h : Ending W n σ s) (f : TileSt → TileSt) (hf : ∀ t, (f t).held = t.held) : Ending W n σ (s.modTile n f) where
  keeps := State.modTile_keeps (by decide) h.keeps n f fun t ht =>
    TileSt.wf_upd (TileSt.mem_of_held (hf t)) (TileSt.poison_of_held (hf t)) ht
  writes := h.writes.of_regs
  others m hm := (State.tile_modTile_ne _ _ _ _ (Ne.symm hm)).trans (h.others m hm)
  held := by rw [State.tile_modTile_self, hf, h.held]

theorem Ending.setLayer (h : Ending W n σ s) (l : Nat) : Ending W n σ (s.setLayer n l) := h.modTile _ fun _ => rfl

theorem Ending.sticky (h : Ending W n σ s) (k : Nat) (b : Bool) : Ending W n σ (s.sticky n k b) := by
  unfold State.sticky
  split
  · exact h
  · exact h.modTile _ fun _ => rfl

theorem Ending.putSummary (h : Ending W n σ s) (k : Nat) (l : List U32) : Ending W n σ (s.putSummary n k l) := by
  unfold State.putSummary
  split
  · exact h
  · refine h.modTile _ fun t => ?_
    simp only [TileSt.held]

theorem Ending.refusedSummary (h : Ending W n σ s) (b : Bool) (k : Nat) : Ending W n σ (s.refusedSummary n b k) := by
  unfold State.refusedSummary
  split
  · exact h.putSummary _ _
  · exact h

theorem Ending.perfEvent (h : Ending W n σ s) (hW : ∀ g : Field, perfWin g.off → W g) {b : Nat} (hb : b < 119) (code k : Nat) :
    Ending W n σ (s.perfEvent b code k) where
  keeps := State.perfEvent_keeps (by decide) h.keeps b code k
  writes := h.writes.trans (((regsIn.refl h.writes.regsOk).perfEvent hb code k).writes.mono hW)
  others m hm := (State.tile_perfEvent s b code k m).trans (h.others m hm)
  held := by rw [State.tile_perfEvent, h.held]

theorem Ending.perfLadle (h : Ending W n σ s) (hW : ∀ g : Field, perfWin g.off → W g) {b : Nat} (hb : b < 119) (l code k : Nat) :
    Ending W n σ (s.perfLadle b l code k) where
  keeps := State.perfLadle_keeps (by decide) h.keeps b l code k
  writes := h.writes.trans (((regsIn.refl h.writes.regsOk).perfLadle hb l code k).writes.mono hW)
  others m hm := (State.tile_perfLadle s b l code k m).trans (h.others m hm)
  held := by rw [State.tile_perfLadle, h.held]

theorem Ending.complete (h : Ending W n σ s) (hW : ∀ g : Field, perfWin g.off → W g) {b : Nat} (hb : b < 119) (r : BitVec 256) :
    Ending W n σ (s.complete n b r) := by
  unfold State.complete
  refine Ending.perfEvent ?_ hW hb 4 1
  split
  · exact h
  · exact h.modTile _ fun _ => rfl

/-- The end of a command of a tile's unit, or of a zoo engine, fences no tile. -/
theorem Ending.tileFenced (h : Ending W n s t) (hW : ∀ g, W g → g.off ≠ 0x50010) (k : Nat) : t.tileFenced k = s.tileFenced k := by
  rw [State.tileFenced, h.writes.get_off F.FLT_FENCE_TILE_TILES hW, State.tileFenced]

end ending

/-- The fields that the end of a command of a tile's own unit writes: those of the tile, and the counters. -/
def tileFields (n : Nat) (g : Field) : Prop := perfWin g.off ∨ tileWin n g.off

theorem tileFields_perf {n : Nat} (g : Field) (h : perfWin g.off) : tileFields n g := .inl h

theorem tileFields_off {n : Nat} {g : Field} (h : tileFields n g) : g.off ≠ 0x50010 := by
  rcases h with h | h
  · exact Nat.ne_of_lt (Nat.lt_trans h.2 (by decide))
  · exact Nat.ne_of_gt (Nat.lt_of_lt_of_le (by omega) h.1)

/-- A register of the tile's window. -/
theorem tileFields_tile (n o lo w : Nat) (hlo : 0x100000 ≤ o := by decide) (hhi : o < 0x110000 := by decide) :
    tileFields n ⟨o + n * 0x10000, lo, w⟩ :=
  .inr ⟨by show _ ≤ o + n * 0x10000; omega, by show o + n * 0x10000 < _; omega⟩

/-! Frames. -/

theorem frame.trans {win : Nat → Prop} {l : List Field} {s t u : State} (h : frame win l s t) (k : frame win l t u) : frame win l s u :=
  fun f hf hw ha => (k f hf hw ha).trans (h f hf hw ha)

theorem State.onTile.trans {n : TileIx} {s t u : State} (h : s.onTile n t) (k : t.onTile n u) : s.onTile n u :=
  ⟨fun m hm => (k.1 m hm).trans (h.1 m hm), h.2.1.trans k.2.1, h.2.2.1.trans k.2.2.1, h.2.2.2.trans k.2.2.2⟩

theorem Ending.onTile {n : TileIx} {s t : State} (h : Ending (tileFields n.val) n s t) : s.onTile n t :=
  ⟨h.others, h.writes.frame fun _ hg => .inl hg, h.keeps.same.mono (by decide), by
    rw [State.memNoted, h.keeps.same.mem (by decide)]⟩

theorem Ending.tileBytes {W : Field → Prop} {n : TileIx} {s t : State} (h : Ending W n s t) (st : Nat → Prop) : s.tileBytesBut n st t :=
  .of_tile (TileSt.mem_of_held h.held) (TileSt.poison_of_held h.held) st

theorem Ending.tileByte {W : Field → Prop} {n : TileIx} {s t : State} (h : Ending W n s t) (m : TileIx) (a : Nat) : t.tileByte m a = s.tileByte m a := by
  have hm : (t.tile m).mem = (s.tile m).mem := by
    by_cases hmn : m = n
    · rw [hmn]; exact TileSt.mem_of_held h.held
    · rw [h.others m hmn]
  rw [State.tileByte, hm, h.keeps.same.free (by decide), State.tileByte]

/-! Records. -/

/-- A flag that was set or not. -/
theorem State.get_flagIf {s : State} (h : s.regsOk) (b : Bool) (f : Field) (hw : f.w = 1) (hf : f.lo + f.w ≤ 64) :
    (s.flagIf b f).get f = if b then 1 else s.get f := by
  cases b
  · rfl
  · exact State.get_set f 1 h hf (by rw [hw]; decide)

theorem recField_recordBits_low (low num : Nat) {hi : Nat} (lo : Nat) (hhi : hi < 128) :
    recField (recordBits low num) hi lo = low / 2 ^ lo % 2 ^ (hi + 1 - lo) := by
  apply Nat.eq_of_testBit_eq
  intro i
  simp only [recField, recordBits, BitVec.toNat_ofNat, Nat.testBit_mod_two_pow, Nat.testBit_div_two_pow, Nat.mul_comm num,
    Nat.testBit_two_pow_mul_add num (Nat.mod_lt low (Nat.two_pow_pos 128)), Nat.add_comm (low % 2 ^ 128)]
  by_cases hin : i < hi + 1 - lo
  · simp [hin, show i + lo < 128 by omega, show i + lo < 256 by omega]
  · simp [hin]

end Sys2Proof.Machine
end

section
/-! SUPPORT. Fields of completion records (R72, R105, R205) and of descriptors that the Timetable rewrites for a rung (R154, R254). -/

namespace Sys2Proof.Machine

/-! Records. -/

theorem recField_recordBits_high (low num : Nat) {hi lo : Nat} (hlo : 128 ≤ lo) (hhi : hi < 256) :
    recField (recordBits low num) hi lo = num / 2 ^ (lo - 128) % 2 ^ (hi + 1 - lo) := by
  apply Nat.eq_of_testBit_eq
  intro i
  simp only [recField, recordBits, BitVec.toNat_ofNat, Nat.testBit_mod_two_pow, Nat.testBit_div_two_pow, Nat.mul_comm num,
    Nat.testBit_two_pow_mul_add num (Nat.mod_lt low (Nat.two_pow_pos 128)), Nat.add_comm (low % 2 ^ 128)]
  by_cases hin : i < hi + 1 - lo
  · simp [hin, show i + lo < 256 by omega, show ¬ i + lo < 128 by omega, show i + lo - 128 = i + (lo - 128) by omega]
  · simp [hin]

/-- TAG stands in bits 31:0. -/
theorem recTag_recordBits {tag : Nat} (h : tag < 2 ^ 32) (x num : Nat) : recTag (recordBits (tag + x * 2 ^ 32) num) = tag := by
  rw [recTag, recField_recordBits_low _ _ 0 (by decide)]
  omega

theorem sat32_lt (k : Nat) : sat32 k < 2 ^ 32 := Nat.lt_of_le_of_lt (Nat.min_le_left _ _) (by decide)

theorem b2n_le (b : Bool) : b2n b ≤ 1 := by cases b <;> decide

/-- STATUS stands in bits 239:232, above the counts and their flags. -/
theorem recStatus_recordBits (low : Nat) (c : Cnt) {st : Nat} (h : st < 256) : recStatus (recordBits low (numStatus c st)) = st := by
  rw [recStatus, recField_recordBits_high _ _ (by decide) (by decide), numStatus]
  by_cases h0 : st = 0
  · extract_lets ovf
    have h1 := sat32_lt c.sat
    have h2 := sat32_lt c.flush
    have h3 := sat32_lt c.nonfin
    have h4 := b2n_le (c.sat != 0)
    have h5 := b2n_le (c.flush != 0)
    have h6 := b2n_le (c.nonfin != 0)
    have h7 := b2n_le ovf
    subst h0
    rw [if_neg (by decide), Nat.div_eq_of_lt (by omega)]
    rfl
  · rw [if_pos (by simp [h0]), Nat.mul_div_cancel _ (Nat.two_pow_pos _)]
    exact Nat.mod_eq_of_lt h

/-! Descriptors. -/

theorem bits_congr {x y hi lo : Nat} (h : ∀ j, lo ≤ j → j ≤ hi → x.testBit j = y.testBit j) : bits x hi lo = bits y hi lo := by
  apply Nat.eq_of_testBit_eq
  intro i
  simp only [bits, Nat.testBit_mod_two_pow, Nat.testBit_div_two_pow]
  by_cases hi' : i < hi + 1 - lo
  · rw [h (i + lo) (by omega) (by omega)]
  · simp [hi']

/-- Two descriptors agree in their bits outside `w` bits from bit `b`. -/
def agreeBut {k : Nat} (b w : Nat) (d e : BitVec k) : Prop := ∀ j < k, j < b ∨ b + w ≤ j → e.toNat.testBit j = d.toNat.testBit j

theorem agreeBut.dfld {k b w : Nat} {d e : BitVec k} (h : agreeBut b w d e) {x hi lo : Nat} (hk : 64 * x + hi < k := by decide)
    (hout : 64 * x + hi < b ∨ b + w ≤ 64 * x + lo := by decide) : dfld e x hi lo = dfld d x hi lo :=
  bits_congr fun j h1 h2 => h j (Nat.lt_of_le_of_lt h2 hk)
    (hout.imp (fun ho => Nat.lt_of_le_of_lt h2 ho) fun ho => Nat.le_trans ho h1)

theorem agreeBut.dbit {k b w : Nat} {d e : BitVec k} (h : agreeBut b w d e) {x j : Nat} (hk : 64 * x + j < k := by decide)
    (hout : 64 * x + j < b ∨ b + w ≤ 64 * x + j := by decide) : dbit e x j = dbit d x j := by
  rw [Machine.dbit, Machine.dbit, bit_eq_testBit, bit_eq_testBit, h _ hk hout]

theorem agreeBut.refl {k : Nat} (b w : Nat) (d : BitVec k) : agreeBut b w d d := fun _ _ _ => rfl

theorem agreeBut.trans {k b w : Nat} {d e f : BitVec k} (h : agreeBut b w d e) (g : agreeBut b w e f) : agreeBut b w d f :=
  fun j hk ho => (g j hk ho).trans (h j hk ho)

theorem agreeBut.mono {k b w b' w' : Nat} {d e : BitVec k} (h : agreeBut b w d e) (hb : b' ≤ b := by decide) (hw : b + w ≤ b' + w' := by decide) :
    agreeBut b' w' d e :=
  fun j hk ho => h j hk (ho.imp (fun h => Nat.lt_of_lt_of_le h hb) fun h => Nat.le_trans hw h)

theorem agreeBut.ite {k b w : Nat} {d e f : BitVec k} {c : Prop} [Decidable c] (h : agreeBut b w d e) (g : agreeBut b w d f) :
    agreeBut b w d (if c then e else f) := by
  split
  · exact h
  · exact g

/-- The bits of a number with `w` of them from bit `b` replaced. -/
theorem testBit_replaced (x b w v : Nat) {j : Nat} (h : j < b ∨ b + w ≤ j) :
    (x - x / 2 ^ b % 2 ^ w * 2 ^ b + v % 2 ^ w * 2 ^ b).testBit j = x.testBit j := by
  have hx : x = 2 ^ b * (2 ^ w * (x / 2 ^ b / 2 ^ w) + x / 2 ^ b % 2 ^ w) + x % 2 ^ b := by rw [Nat.div_add_mod, Nat.div_add_mod]
  have hlow := Nat.mod_lt x (Nat.two_pow_pos b)
  have hv := Nat.mod_lt v (Nat.two_pow_pos w)
  have hf := Nat.mod_lt (x / 2 ^ b) (Nat.two_pow_pos w)
  generalize x / 2 ^ b / 2 ^ w = t at hx
  generalize x / 2 ^ b % 2 ^ w = f at hx hf ⊢
  generalize x % 2 ^ b = l at hx hlow
  generalize v % 2 ^ w = u at hv ⊢
  subst hx
  have hr : 2 ^ b * (2 ^ w * t + f) + l - f * 2 ^ b + u * 2 ^ b = 2 ^ b * (2 ^ w * t + u) + l := by
    rw [Nat.mul_add, Nat.mul_add, Nat.mul_comm f, Nat.mul_comm u]
    omega
  rw [hr, Nat.testBit_two_pow_mul_add _ hlow, Nat.testBit_two_pow_mul_add _ hlow]
  rcases h with h | h
  · rw [if_pos h, if_pos h]
  · rw [if_neg (by omega), if_neg (by omega), Nat.testBit_two_pow_mul_add _ hv, Nat.testBit_two_pow_mul_add _ hf, if_neg (by omega),
      if_neg (by omega)]

theorem setDesc_agree {k : Nat} (d : BitVec k) (x lo w v : Nat) : agreeBut (64 * x + lo) w d (setDesc d x lo w v) := by
  intro j hj h
  rw [setDesc, BitVec.toNat_ofNat, Nat.testBit_mod_two_pow, testBit_replaced _ _ _ _ h]
  simp [hj]

theorem g4Field_agree {k : Nat} (d : BitVec k) (lo : Nat) : agreeBut lo 4 d (g4Field d lo) := by
  have h := setDesc_agree d 0 lo 4 fFp4
  rw [Nat.mul_zero, Nat.zero_add] at h
  exact .ite h (.refl _ _ d)

/-- A vector command that its layer's rung rewrites keeps all but its formats. -/
theorem State.rungVector_agree (s : State) (n : TileIx) (op : Nat) (d : BitVec 512) : agreeBut 48 8 d (s.rungVector n op d) :=
  .ite ((g4Field_agree d 52).mono.trans (g4Field_agree _ 48).mono) (.refl _ _ d)

/-- A Ladle command that its layer's rung rewrites keeps its TAG. -/
theorem State.lTag_rungLadle (s : State) (n : TileIx) (l : Nat) (d : BitVec 512) : lTag (s.rungLadle n l d) = lTag d := by
  unfold State.rungLadle
  extract_lets k rot d1 d2 d3 d4
  have h1 : agreeBut 0 384 d d1 := .ite (setDesc_agree d 0 30 2 rot.2).mono (.refl _ _ d)
  have h2 : agreeBut 0 384 d d2 := .ite (h1.trans (setDesc_agree d1 0 22 2 2).mono) h1
  have h3 : agreeBut 0 384 d d3 := .ite (h2.trans ((g4Field_agree d2 40).mono.trans (g4Field_agree _ 36).mono)) h2
  have h4 : agreeBut 0 384 d d4 := .ite
    (h3.trans ((setDesc_agree d3 0 22 2 2).mono.trans ((setDesc_agree _ 5 32 32 0).mono.trans (setDesc_agree _ 0 21 1 _).mono))) h3
  have h5 : agreeBut 0 384 d (if d4 != d && lScaleSrc d4 == 1 && (lOutlier d4 != 0 || ladlePath l d4 != .deliver) then setDesc d4 0 26 2 0 else d4) :=
    .ite (h4.trans (setDesc_agree d4 0 26 2 0).mono) h4
  exact h5.dfld

theorem dfld_lt {k : Nat} (d : BitVec k) (w hi lo : Nat) : dfld d w hi lo < 2 ^ (64 * w + hi + 1 - (64 * w + lo)) :=
  Nat.mod_lt _ (Nat.two_pow_pos _)

end Sys2Proof.Machine
end

section
/-! SUPPORT. Tensors in tile memory (R50 to R57): what reading and writing one may change, and the shapes of what is read and converted. -/

namespace Sys2Proof.Machine

@[simp] theorem leBytes_length (k x : Nat) : (leBytes k x).length = k := by
  induction k generalizing x with
  | zero => rfl
  | succ k ih => rw [leBytes, List.length_cons, ih]

@[simp] theorem blockRowBytes_length (fmt cols i : Nat) (rows : List (List Nat)) :
    (blockRowBytes fmt cols i rows).length = blockBytes fmt * blocks8 cols := leBytes_length _ _

/-! Shapes. -/

/-- At most `rows` rows of at most `cols` elements. -/
def Within {α : Type} (rows cols : Nat) (l : List (List α)) : Prop := l.length ≤ rows ∧ ∀ r ∈ l, r.length ≤ cols

section shapes
variable {α β : Type} {rows cols : Nat}

theorem Within.nil : Within rows cols ([] : List (List α)) := ⟨Nat.zero_le _, fun _ h => absurd h List.not_mem_nil⟩

theorem Within.map_rows {l : List (List α)} (h : Within rows cols l) (f : List α → List β) (hf : ∀ r, (f r).length = r.length) :
    Within rows cols (l.map f) := by
  refine ⟨by rw [List.length_map]; exact h.1, fun r hr => ?_⟩
  obtain ⟨x, hx, rfl⟩ := List.mem_map.1 hr
  rw [hf]
  exact h.2 x hx

theorem Within.map {l : List (List α)} (h : Within rows cols l) (f : α → β) : Within rows cols (l.map fun r => r.map f) :=
  h.map_rows _ fun _ => List.length_map _

theorem Within.table (f : Nat → Nat → β) : Within rows cols ((List.range rows).map fun r => (List.range cols).map (f r)) := by
  refine ⟨by simp, fun r hr => ?_⟩
  obtain ⟨i, -, rfl⟩ := List.mem_map.1 hr
  simp

theorem Within.zipIdx {l : List (List α)} (h : Within rows cols l) {x : List α × Nat} (hx : x ∈ l.zipIdx) : x.2 < rows ∧ x.1.length ≤ cols := by
  obtain ⟨hlt, hget⟩ := List.mem_zipIdx' (x := x.1) (i := x.2) hx
  exact ⟨Nat.lt_of_lt_of_le hlt h.1, h.2 _ (hget ▸ List.getElem_mem hlt)⟩

end shapes

theorem quantRows_within {rows cols : Nat} {x : Values} (h : Within rows cols x) (m : Rnd) (scaled : Bool) (st : Fv) (b : Blocking)
    (scales : List (List Nat)) (off : Nat → Bool) : Within rows cols (quantRows m scaled st b scales off x) := by
  refine ⟨by simp only [quantRows, List.length_map, List.length_zipIdx]; exact h.1, fun r hr => ?_⟩
  obtain ⟨y, hy, rfl⟩ := List.mem_map.1 hr
  rw [List.length_map, List.length_zipIdx]
  exact (h.zipIdx hy).2

/-- Every row of block scales has one for each block of the row. -/
theorem scalesOf_row_length (f : Nat) (mean : Bool) (st : Fv) (b : Blocking) (clip : Nat → Fv) (off : Nat → Bool) (cols : Nat) (x : Values) (i : Nat) :
    ((scalesOf f mean st b clip off cols x).getD i []).length ≤ (cols + b.bw - 1) / b.bw := by
  rw [scalesOf, List.getD_eq_getElem?_getD, List.getElem?_map]
  cases (List.range ((x.length + b.bh - 1) / b.bh))[i]? with
  | none => exact Nat.zero_le _
  | some k => simp

/-! Reading a tensor. -/

/-- What every access keeps, the reading of a tensor keeps. -/
theorem State.readTensor_induction {P : State → Prop} {get : State → Nat → Nat → State × List Byte × Bool} (hget : ∀ s a k, P s → P (get s a k).1)
    {s : State} (h : P s) (p : Plane) (rows cols : Nat) : P (State.readTensor get s p rows cols).1 := by
  unfold State.readTensor
  extract_lets w nb len nb'
  split
  · refine foldl_fst_induction h fun q r _ hq => ?_
    simp only
    split
    · exact hget _ _ _ (hget _ _ _ hq)
    · exact hget _ _ _ hq
  · refine foldl_fst_induction h fun q r _ hq => ?_
    simp only
    split
    · exact hget _ _ _ (hget _ _ _ hq)
    · exact hget _ _ _ hq

/-- A fold that appends `k` items at each step. -/
theorem foldl_append_length {α β γ δ : Type} {k : Nat} {f : γ × List β × δ → α → γ × List β × δ} {l : List α} {p : γ × List β × δ}
    (h : ∀ p a, ∃ r, (f p a).2.1 = p.2.1 ++ r ∧ r.length = k) : (l.foldl f p).2.1.length = p.2.1.length + k * l.length := by
  induction l generalizing p with
  | nil => rfl
  | cons a l ih =>
    obtain ⟨r, hr, hk⟩ := h p a
    rw [List.foldl_cons, ih, hr, List.length_append, hk, List.length_cons, Nat.mul_succ]
    omega

/-- A fold that appends items of a kind. -/
theorem foldl_append_all {α β γ δ : Type} {Q : β → Prop} {f : γ × List β × δ → α → γ × List β × δ} {l : List α} {p : γ × List β × δ}
    (h0 : ∀ y ∈ p.2.1, Q y) (h : ∀ p a, ∃ r, (f p a).2.1 = p.2.1 ++ r ∧ ∀ y ∈ r, Q y) : ∀ y ∈ (l.foldl f p).2.1, Q y := by
  induction l generalizing p with
  | nil => exact h0
  | cons a l ih =>
    obtain ⟨r, hr, hQ⟩ := h p a
    refine ih fun y hy => ?_
    rw [hr] at hy
    exact (List.mem_append.1 hy).elim (h0 y) (hQ y)

/-- A tensor has the rows and columns that were asked for. -/
theorem State.readTensor_within (get : State → Nat → Nat → State × List Byte × Bool) (s : State) (p : Plane) (rows cols : Nat) :
    Within rows cols (State.readTensor get s p rows cols).2.1 := by
  unfold State.readTensor
  extract_lets w nb len nb'
  split
  · refine ⟨Nat.le_of_eq (Eq.trans (foldl_append_length (k := 1) fun q r => ⟨_, rfl, ?_⟩) (by simp)), ?_⟩
    · rfl
    · refine foldl_append_all (fun y hy => absurd hy List.not_mem_nil) fun q r => ⟨_, rfl, fun y hy => ?_⟩
      rw [List.mem_singleton.1 hy, List.length_map, List.length_range]
  · refine ⟨List.length_take_le _ _, fun y hy => ?_⟩
    refine foldl_append_all (Q := fun r : List (Nat × Nat) => r.length ≤ cols) (fun y hy => absurd hy List.not_mem_nil)
      (fun q i => ⟨_, rfl, fun z hz => ?_⟩) y (List.mem_of_mem_take hy)
    obtain ⟨k, -, rfl⟩ := List.mem_map.1 hz
    rw [List.length_map, List.length_range]

theorem valuesOf_within {rows cols : Nat} {l : Coded} (h : Within rows cols l) (fmt : Nat) (scaled : Bool) (st : Fv) :
    Within rows cols (valuesOf fmt scaled st l) := h.map _

section tile
variable {n : TileIx} {st : Nat → Prop} {s : State}

theorem TileAccess.readPlane (h : s.memWf = true) (p : Plane) (rows cols : Nat) : TileAccess n st s (s.readPlane n p rows cols).1 :=
  State.readTensor_induction (P := TileAccess n st s) (fun _ a k ht => ht.trans (.tmRead ht.memWf a k)) (.refl h) p rows cols

/-- A tensor is written to its data blocks and its scale codes. -/
theorem TileAccess.writePlane (h : s.memWf = true) (p : Plane) {rows : Nat} (cols : Nat) {codes scales : List (List Nat)} (poison : Bool)
    (hrows : codes.length ≤ rows) (hscales : ∀ i, (scales.getD i []).length ≤ blocks8 cols) :
    TileAccess n (planeStored p rows cols) s (s.writePlane n p cols codes scales poison) := by
  refine .forEach h fun t i hi ht => ?_
  have hin : i < blocks8 rows := Nat.lt_of_lt_of_le (List.mem_range.1 hi) (by unfold blocks8; omega)
  have hdata : TileAccess n (planeStored p rows cols) t
      (t.tmWrite n (p.base + blockBytes p.fmt * (i * p.pitch)) (blockRowBytes p.fmt cols i codes) poison) :=
    (TileAccess.tmWrite ht.memWf _ _ poison).mono fun x hx => ⟨i, hin, .inl (by rwa [blockRowBytes_length] at hx)⟩
  extract_lets u
  split
  · next hs =>
    refine hdata.trans ((TileAccess.tmWrite hdata.memWf _ _ poison).mono fun x hx => ⟨i, hin, .inr ⟨hs, hx.1, Nat.lt_of_lt_of_le hx.2 ?_⟩⟩)
    rw [List.length_map]
    exact Nat.add_le_add_left (hscales i) _
  · exact hdata

end tile

end Sys2Proof.Machine
end

section
/-! SUPPORT. O27: the vector commands (R199 to R208). -/

namespace Sys2Proof.Machine

/-! The commands of the vector engine. -/

theorem vectorOp_cases {c : Instr} {n : TileIx} {op : Nat} {d : BitVec 512} (h : vectorOp c = some (n, op, d)) :
    (c = .add n d ∧ op = vAdd) ∨ (c = .mul n d ∧ op = vMul) ∨ (c = .fma n d ∧ op = vFma) ∨ (c = .cmp n d ∧ op = vCmp) ∨
      (c = .sel n d ∧ op = vSel) ∨ (c = .min n d ∧ op = vMin) ∨ (c = .max n d ∧ op = vMax) ∨ (c = .perm n d ∧ op = vPerm) ∨
      (c = .cvt n d ∧ op = vCvt) := by
  unfold vectorOp at h
  split at h <;> cases h <;> simp

/-- A vector command goes through the vector queue of its tile. -/
structure VectorPost (c : Instr) (n : TileIx) (op : Nat) (d : BitVec 512) : Prop where
  exec : ∀ s, exec c s = .next (s.issue c)
  unit : ∀ s x, State.unitOp s ⟨c, x, false, false⟩ = s.opVector n op d x
  tries : ∀ w : Waiting, w.cmd = c → ∀ t : State, t.tryCmd w = t.tryUnit w
  seq : seqOf c = some n
  queue : queueOf c = some (5, n.val)
  domains : ∀ s : State, s.domainsOf c = [n.val, domNoc]
  scalar : ∀ m k, scalarAsked c = some (m, k) → m = n

theorem vectorPost {c : Instr} {n : TileIx} {op : Nat} {d : BitVec 512} (h : vectorOp c = some (n, op, d)) : VectorPost c n op d := by
  have hscalar : ∀ m k, scalarAsked c = some (m, k) → m = n := by
    intro m k hk
    have hs : scalarAsked c = if vScalarOp d != 0 then some (n, vScalarIdx d) else none := by
      rcases vectorOp_cases h with ⟨rfl, -⟩ | ⟨rfl, -⟩ | ⟨rfl, -⟩ | ⟨rfl, -⟩ | ⟨rfl, -⟩ | ⟨rfl, -⟩ | ⟨rfl, -⟩ | ⟨rfl, -⟩ | ⟨rfl, -⟩ <;> rfl
    rw [hs] at hk
    split at hk
    · cases hk; rfl
    · cases hk
  rcases vectorOp_cases h with ⟨rfl, rfl⟩ | ⟨rfl, rfl⟩ | ⟨rfl, rfl⟩ | ⟨rfl, rfl⟩ | ⟨rfl, rfl⟩ | ⟨rfl, rfl⟩ | ⟨rfl, rfl⟩ | ⟨rfl, rfl⟩ | ⟨rfl, rfl⟩ <;>
    refine ⟨fun _ => rfl, fun _ _ => rfl, fun w hw t => ?_, rfl, rfl, fun _ => rfl, hscalar⟩ <;>
    rw [State.tryCmd, hw]

/-- A command of a tile's own unit that needs its tile and the network-on-chip alone is taken at once on a free tile. -/
theorem State.tileFree.takes {s : State} {n : TileIx} {c : Instr} {q : Nat} (h : s.tileFree n) (hseq : seqOf c = some n)
    (hq : queueOf c = some (q, n.val)) (hq6 : q ≠ 6) (hdom : s.domainsOf c = [n.val, domNoc]) (hscalar : s.scalarPends c = none)
    (htry : ∀ w : Waiting, w.cmd = c → ∀ t : State, t.tryCmd w = t.tryUnit w) : s.Takes c := by
  have hready : ∀ d ∈ s.domainsOf c, s.domReady d = true := by
    obtain ⟨-, -, hown, hnoc, -, -⟩ := h
    rw [hdom]
    simp [hown, hnoc]
  have heng : s.engineAt c = none := by simp [State.engineAt, hq, hq6]
  have hposts := h.mayPost hseq
  exact ⟨h.idle.1, hposts, by rw [State.unitLives, heng]; exact hposts, hscalar, State.asleepFor_eq_nil hready, State.cappedFor_eq_nil hready, htry⟩

/-- A vector command whose scalar entry is not awaited runs at once. -/
theorem State.exec_vector {s : State} {c : Instr} {n : TileIx} {op : Nat} {d : BitVec 512} (hc : vectorOp c = some (n, op, d)) (h : s.tileFree n)
    (hsc : ∀ k, scalarAsked c = some (n, k) → (s.tile n).pending.contains k = false) :
    exec c s = .next (s.opVector n op d (s.scalarNow c)) := by
  have hp := vectorPost hc
  have hpend : s.scalarPends c = none := by
    unfold State.scalarPends
    split
    · next m k heq =>
      have hm := hp.scalar m k heq
      subst hm
      rw [hsc k heq]
      rfl
    · rfl
  have hsame : Same [.regs, .mem, .tiles, .perf] s (s.opVector n op d (s.scalarNow c)) :=
    (State.opVector_keeps (List.Subset.refl _) (Keeps.refl s) n op d _).same
  have hunit : s.atUnit c = s.opVector n op d (s.scalarNow c) := hp.unit s _
  rw [hp.exec, State.issue_eq_atUnit (h.takes hp.seq hp.queue (by decide) (hp.domains s) hpend hp.tries), hunit]
  · rw [hunit, hsame.stalled (by decide)]
    exact h.idle.1
  · rw [hunit, hsame.stallReq (by decide)]
    exact h.idle.2

/-! Operands and results in tile memory. -/

section
variable {n : TileIx} {st : Nat → Prop} {s : State}

theorem TileAccess.vRead (h : s.memWf = true) (d : BitVec 512) (sf : U32) (j : Nat) : TileAccess n st s (s.vRead n d sf j).1 := by
  unfold State.vRead
  extract_lets f w
  split
  · exact .refl h
  · split
    · exact .refl h
    · exact foldl_fst_induction (TileAccess.refl h) fun p r _ hp =>
        foldl_fst_induction (P := TileAccess n st s) hp fun q l _ hq => hq.trans (.tmRead hq.memWf _ _)

theorem State.vRead_within (s : State) (n : TileIx) (d : BitVec 512) (sf : U32) (j : Nat) :
    Within (vRows d) (vLanes d) (s.vRead n d sf j).2.1 := by
  unfold State.vRead
  extract_lets f w
  split
  · exact .nil
  · split
    · refine ⟨by simp, fun r hr => ?_⟩
      rw [(List.mem_replicate.1 hr).2]
      simp
    · refine ⟨Nat.le_of_eq (Eq.trans (foldl_append_length (k := 1) fun q r => ⟨_, rfl, ?_⟩) (by simp)), ?_⟩
      · rfl
      · refine foldl_append_all (fun y hy => absurd hy List.not_mem_nil) fun q r => ⟨_, rfl, fun y hy => ?_⟩
        rw [List.mem_singleton.1 hy]
        refine Nat.le_of_eq (Eq.trans (foldl_append_length (k := 1) fun q l => ⟨_, rfl, ?_⟩) (by simp))
        rfl

theorem TileAccess.cvtValues (h : s.memWf = true) (d : BitVec 512) (sf : U32) : TileAccess n st s (s.cvtValues n d sf).1 := by
  unfold State.cvtValues
  split
  · exact .readPlane h _ _ _
  · exact .vRead h d sf 1

theorem State.cvtValues_within (s : State) (n : TileIx) (d : BitVec 512) (sf : U32) : Within (vRows d) (vLanes d) (s.cvtValues n d sf).2.1 := by
  unfold State.cvtValues
  split
  · exact valuesOf_within (State.readTensor_within (fun s a len => s.tmRead n a len) s (vPlane d 1) (vRows d) (vLanes d)) _ _ _
  · exact (s.vRead_within n d sf 1).map _

theorem State.cvtElems_within (s : State) {d : BitVec 512} {x : Values} (h : Within (vRows d) (vLanes d) x) :
    Within (vRows d) (vLanes d) (s.cvtElems d x).1 ∧ ∀ i, ((s.cvtElems d x).2.getD i []).length ≤ blocks8 (vLanes d) := by
  unfold State.cvtElems
  extract_lets noClip main m st sc
  split
  · exact ⟨quantRows_within h _ _ _ _ _ _, fun i => scalesOf_row_length _ _ _ _ _ _ _ _ i⟩
  · exact ⟨quantRows_within h _ _ _ _ _ _, fun i => Nat.zero_le _⟩

/-- Results of rows are written to the destination alone. -/
theorem TileAccess.vWrite (h : s.memWf = true) {d : BitVec 512} (hd : vDstScaled d = false) {rows : List (List Nat)}
    (hrows : Within (vRows d) (vLanes d) rows) (bad : Bool) : TileAccess n (vStored d) s (s.vWrite n d rows bad) := by
  refine .forEach h fun t row hrow ht => .forEach ht.memWf fun u e he hu => ?_
  obtain ⟨hr, hl⟩ := hrows.zipIdx hrow
  refine (TileAccess.tmWrite hu.memWf _ _ bad).mono fun x hx => ?_
  rw [leBytes_length] at hx
  rw [vStored, hd]
  exact ⟨row.2, hr, e.2, Nat.lt_of_lt_of_le (List.snd_lt_of_mem_zipIdx he) hl, hx⟩

/-- The results of a CVT are written to its destination alone. -/
theorem TileAccess.cvtStore (h : s.memWf = true) {d : BitVec 512} {rows : List (List Nat)} (sc : List (List Nat)) (bad : Bool)
    (hrows : Within (vRows d) (vLanes d) rows) (hsc : ∀ i, (sc.getD i []).length ≤ blocks8 (vLanes d)) :
    TileAccess n (vStored d) s (if vDstScaled d then s.writePlane n (vPlane d 0) (vLanes d) rows sc bad else s.vWrite n d rows bad) := by
  by_cases hd : vDstScaled d = true
  · rw [if_pos hd]
    refine (TileAccess.writePlane h (vPlane d 0) (vLanes d) bad hrows.1 hsc).mono fun x hx => ?_
    rwa [vStored, if_pos hd]
  · rw [if_neg hd]
    exact .vWrite h (Bool.eq_false_iff.2 hd) hrows bad

end

/-! What a vector command does. -/

theorem statusOf_eq_stOk {layout scale : Bool} : statusOf layout scale = stOk ↔ layout = false ∧ scale = false := by
  cases layout <;> cases scale <;> decide

/-- Only CVT takes a block-scaled format (R203). -/
theorem vDstScaled_eq_false {op : Nat} {d : BitVec 512} (h : vStatus op d = stOk) (hop : op ≠ vCvt) : vDstScaled d = false := by
  obtain ⟨hbad, -⟩ := statusOf_eq_stOk.1 h
  simp only [vBadLayout, Bool.or_eq_false_iff, Bool.and_eq_false_iff, bne_eq_false_iff_eq] at hbad
  have hvop : vOp d = op := by tauto
  have hnarrow : (narrow (vSrc d) = false ∧ narrow (vDst d) = false) ∨ op = vCvt := by tauto
  obtain ⟨-, hn⟩ := hnarrow.resolve_right hop
  simp [vDstScaled, hn, hvop, hop]

/-- A vector command is refused, or its units access tile memory and it ends. -/
theorem State.opVector_cases {s : State} (h : s.memWf = true) (n : TileIx) (op : Nat) (d : BitVec 512) (sf : U32) :
    let e := s.rungVector n op d
    (vStatus op e ≠ stOk ∧ s.opVector n op d sf = s.vRefuse n e (vStatus op e)) ∨
      (vStatus op e = stOk ∧ ∃ u elems pre isat oor, TileAccess n (vStored e) s u ∧ s.opVector n op d sf = u.vEnd n e elems pre isat oor) := by
  intro e
  unfold State.opVector
  extract_lets status int
  by_cases hst : status = stOk
  · refine .inr ⟨hst, ?_⟩
    rw [if_neg (by simp [hst])]
    split
    · have hv : TileAccess n (vStored e) s (s.cvtValues n e sf).1 := .cvtValues h e sf
      obtain ⟨hin, hsc⟩ := State.cvtElems_within (s.cvtValues n e sf).1 (s.cvtValues_within n e sf)
      exact ⟨_, _, _, _, _, hv.trans (.cvtStore hv.memWf _ (s.cvtValues n e sf).2.2 (hin.map fun e : Elem => e.code) hsc), rfl⟩
    · next hop =>
      have h1 : TileAccess n (vStored e) s (s.vRead n e sf 1).1 := .vRead h e sf 1
      have h2 := h1.trans (.vRead h1.memWf e sf 2)
      have h3 := h2.trans (.vRead h2.memWf e sf 3)
      refine ⟨_, _, _, _, _, h3.trans (.vWrite h3.memWf ?_ (((Within.table _).map _).map _) _), rfl⟩
      exact vDstScaled_eq_false hst (by simpa using hop)
  · exact .inl ⟨hst, by rw [if_pos (by simpa using hst)]⟩

end Sys2Proof.Machine
end

section
/-! SUPPORT. O27: how a vector command ends (R205, R206), and what it leaves alone. -/

namespace Sys2Proof.Machine

theorem Ending.bump {W : Field → Prop} {n : TileIx} {σ s : State} (h : Ending W n σ s) (f : Field) (k : Nat) (hf : W f) : Ending W n σ (s.bump f k) :=
  h.set f _ hf

/-- A command that reports no record yet writes one. -/
theorem Ending.recs_complete {W : Field → Prop} {n : TileIx} {s t : State} (h : Ending W n s t) (hW : ∀ g, W g → g.off ≠ 0x50010)
    (hfree : s.tileFenced n.val = false) (hrecs : (t.tile n).recs = (s.tile n).recs) (b : Nat) (r : BitVec 256) :
    ((t.complete n b r).tile n).recs = r :: (s.tile n).recs := by
  rw [State.recs_complete (by rw [h.tileFenced hW]; exact hfree), hrecs]

/-- What an access and the report after it leave of a tile. -/
theorem TileSt.held_of_unitPart {t u : TileSt} (h : t.unitPart = u.unitPart) :
    t.recs = u.recs ∧ t.sf = u.sf ∧ t.cru = u.cru ∧ t.portA = u.portA ∧ t.portB = u.portB ∧ t.portT = u.portT ∧ t.dwq = u.dwq ∧ t.layer = u.layer :=
  ⟨by simpa [TileSt.unitPart] using congrArg TileSt.recs h, by simpa [TileSt.unitPart] using congrArg TileSt.sf h, by simpa [TileSt.unitPart] using congrArg TileSt.cru h,
    by simpa [TileSt.unitPart] using congrArg TileSt.portA h, by simpa [TileSt.unitPart] using congrArg TileSt.portB h, by simpa [TileSt.unitPart] using congrArg TileSt.portT h,
    by simpa [TileSt.unitPart] using congrArg TileSt.dwq h, by simpa [TileSt.unitPart] using congrArg TileSt.layer h⟩

theorem TileSt.units_of_held {t u : TileSt} (h : t.held = u.held) :
    t.cru = u.cru ∧ t.portA = u.portA ∧ t.portB = u.portB ∧ t.portT = u.portT ∧ t.dwq = u.dwq :=
  ⟨by simpa [TileSt.held] using congrArg TileSt.cru h, by simpa [TileSt.held] using congrArg TileSt.portA h, by simpa [TileSt.held] using congrArg TileSt.portB h,
    by simpa [TileSt.held] using congrArg TileSt.portT h, by simpa [TileSt.held] using congrArg TileSt.dwq h⟩

section
variable {s : State} {n : TileIx}

theorem tileIx_lt_blocks (n : TileIx) : n.val < 119 := Nat.lt_trans n.isLt (by decide)

/-- What a vector command reports: its record, and the scalar file but for a summary. -/
structure VecReport (n : TileIx) (d : BitVec 512) (s t : State) (r : BitVec 256) : Prop where
  ending : Ending (tileFields n.val) n s t
  recs : (t.tile n).recs = r :: (s.tile n).recs
  sf : ∀ i : Fin 32, ¬ (vSummary d = true ∧ vSumSlot d ≤ i.val ∧ i.val < vSumSlot d + 4) → (t.tile n).sf[i] = (s.tile n).sf[i]

/-- A record's lower half begins with TAG. -/
theorem recTag_low {tag x low : Nat} (h : tag < 2 ^ 32) (hlow : low = tag + x * 2 ^ 32) (num : Nat) : recTag (recordBits low num) = tag := by
  rw [hlow]
  exact recTag_recordBits h x num

theorem statusOf_lt (layout scale : Bool) : statusOf layout scale < 256 := by cases layout <;> cases scale <;> decide

theorem vTag_lt (d : BitVec 512) : vTag d < 2 ^ 32 := dfld_lt d 1 63 32

theorem State.vRefuse_report (h : s.memWf = true) (hfree : s.tileFenced n.val = false) (d : BitVec 512) (status : Nat) :
    VecReport n d s (s.vRefuse n d status) (recordBits (vTag d) (numStatus Cnt.zero status)) := by
  have hflag : Ending (tileFields n.val) n s (s.flag (F.TILE_VE_STATUS_REFUSED n.val)) := (Ending.refl h).set _ 1 (tileFields_tile _ _ _ _)
  have hsum := hflag.refusedSummary (vSummary d) (vSumSlot d)
  refine ⟨hsum.complete tileFields_perf (tileIx_lt_blocks n) _, hsum.recs_complete (fun _ => tileFields_off) hfree ?_ _ _, fun i hi => ?_⟩
  · unfold State.refusedSummary
    split
    · rw [State.recs_putSummary, State.tile_flag]
    · rw [State.tile_flag]
  · rw [State.vRefuse, State.sf_complete, State.refusedSummary]
    split
    · next hs =>
      have hv : vSummary d = true := (Bool.and_eq_true _ _ ▸ hs).1
      exact State.sf_putSummary _ _ _ _ _ fun hk => hi ⟨hv, hk⟩
    · rfl

theorem State.get_vRefuse (h : s.memWf = true) (d : BitVec 512) (status : Nat) :
    (s.vRefuse n d status).get (F.TILE_VE_STATUS_REFUSED n.val) = 1 := by
  have hflag : Ending (tileFields n.val) n s (s.flag (F.TILE_VE_STATUS_REFUSED n.val)) := (Ending.refl h).set _ 1 (tileFields_tile _ _ _ _)
  have hrest : Ending (fun g => perfWin g.off) n (s.flag (F.TILE_VE_STATUS_REFUSED n.val)) (s.vRefuse n d status) :=
    ((Ending.refl (hflag.keeps.memWf h)).refusedSummary _ _).complete (fun _ hg => hg) (tileIx_lt_blocks n) _
  rw [hrest.writes.get_off _ (fun g hg => ?_) (by simp [F.TILE_VE_STATUS_REFUSED])]
  · exact State.get_set _ 1 (State.regsOk_of_memWf h) (by simp [F.TILE_VE_STATUS_REFUSED]) (by simp [F.TILE_VE_STATUS_REFUSED])
  · have hlt := hg.2
    simp only [F.TILE_VE_STATUS_REFUSED]
    omega

/-- The end of a vector command (R205). -/
theorem State.vEnd_report (h : s.memWf = true) (hfree : s.tileFenced n.val = false) (d : BitVec 512) (elems : List (List Elem)) (pre : Results)
    (isat oor : Nat) : ∃ x, VecReport n d s (s.vEnd n d elems pre isat oor)
      (recordBits (vTag d + x * 2 ^ 32 + sat16 oor * 2 ^ 96 + (b2n (oor != 0) + 2 * b2n (isat != 0)) * 2 ^ 112) (numStatus (countRows elems) stOk)) ∧
        x < 2 ^ 64 := by
  unfold State.vEnd
  extract_lets k cnt nf s1 s2 s3 s4
  have h1 : Ending (tileFields n.val) n s s1 :=
    (((Ending.refl h).flagIf _ _ (tileFields_tile _ _ _ _)).flagIf _ _ (tileFields_tile _ _ _ _)).flagIf _ _ (tileFields_tile _ _ _ _)
  have h2 : Ending (tileFields n.val) n s s2 := .ite (h1.set _ _ (tileFields_tile _ _ _ _)) h1
  have h3 : Ending (tileFields n.val) n s s3 := .ite (h2.putSummary _ _) h2
  have h4 : Ending (tileFields n.val) n s s4 := .ite (h3.bump _ _ (tileFields_tile _ _ _ _)) h3
  have h5 := h4.sticky cnt.nonfin (nf != 0)
  have ht1 : s1.tile n = s.tile n := by simp [s1, State.tile_flagIf]
  have ht2 : s2.tile n = s.tile n := by
    unfold s2
    split
    · exact ht1
    · exact ht1
  have ht4 : s4.tile n = s3.tile n := by
    unfold s4
    split <;> simp
  have hrecs : ((s4.sticky n cnt.nonfin (nf != 0)).tile n).recs = (s.tile n).recs := by
    rw [State.recs_sticky, ht4, ← ht2]
    unfold s3
    split
    · exact State.recs_putSummary _ _ _ _
    · rfl
  refine ⟨sat32 nf + sat32 isat * 2 ^ 32, ⟨h5.complete tileFields_perf (tileIx_lt_blocks n) _, ?_, fun i hi => ?_⟩, ?_⟩
  · rw [h5.recs_complete (fun _ => tileFields_off) hfree hrecs]
    congr 2
    omega
  · rw [State.sf_complete, State.sf_sticky, ht4, ← ht2]
    unfold s3
    split
    · next hv => exact State.sf_putSummary _ _ _ _ _ fun hk => hi ⟨hv, hk⟩
    · rfl
  · have ha := sat32_lt nf
    have hb := sat32_lt isat
    omega

end

/-- What a unit leaves alone that accesses its tile's memory and then reports. -/
theorem TileAccess.then_ending {n : TileIx} {st : Nat → Prop} {s u t : State} (h : TileAccess n st s u) (k : Ending (tileFields n.val) n u t) :
    s.tileBytesBut n st t ∧ (t.tile n).cru = (s.tile n).cru ∧ (t.tile n).portA = (s.tile n).portA ∧ (t.tile n).portB = (s.tile n).portB ∧
      (t.tile n).portT = (s.tile n).portT ∧ (t.tile n).dwq = (s.tile n).dwq ∧ s.onTile n t := by
  obtain ⟨-, -, hcru, ha, hb, ht, hd, -⟩ := TileSt.held_of_unitPart h.unitPart
  obtain ⟨kcru, ka, kb, kt, kd⟩ := TileSt.units_of_held k.held
  exact ⟨h.bytes.trans (k.tileBytes st) h.noted.stash, kcru.trans hcru, ka.trans ha, kb.trans hb, kt.trans ht, kd.trans hd, h.onTile.trans k.onTile⟩

theorem TileAccess.tileFenced {n : TileIx} {st : Nat → Prop} {s u : State} (h : TileAccess n st s u) (k : Nat) : u.tileFenced k = s.tileFenced k := by
  rw [State.tileFenced, h.get_off F.FLT_FENCE_TILE_TILES (by decide), State.tileFenced]

/-- Settles O27: the units of a vector command access tile memory alone (`State.opVector_cases`), and its end reports (`State.vEnd_report`). -/
theorem vectorCommandsComplete : Obligations.VectorCommandsComplete := by
  intro c n op d s hc hwf hfree hpend e
  refine ⟨_, State.exec_vector hc hfree hpend, ?_⟩
  generalize s.scalarNow c = sf
  have hagree := s.rungVector_agree n op d
  have htag : vTag e = vTag d := hagree.dfld
  have hsum : vSummary e = vSummary d := hagree.dbit
  have hslot : vSumSlot e = vSumSlot d := hagree.dfld
  rcases State.opVector_cases hwf n op d sf with ⟨hst, heq⟩ | ⟨hst, u, elems, pre, isat, oor, hu, heq⟩
  · have hr := State.vRefuse_report hwf hfree.2.1 e (vStatus op e)
    rw [heq]
    obtain ⟨hbytes, hcru, hA, hB, hT, hdwq, hon⟩ := (TileAccess.refl (st := fun a => vStatus op e = stOk ∧ vStored e a) hwf).then_ending hr.ending
    refine ⟨⟨_, hr.recs, ?_, ?_⟩, hbytes, fun _ => State.get_vRefuse hwf _ _, fun i hi => hr.sf i (by rwa [hsum, hslot]), hcru, hA, hB, hT, hdwq, hon⟩
    · rw [← htag]
      exact recTag_low (x := 0) (vTag_lt e) (by omega) _
    · exact recStatus_recordBits _ _ (statusOf_lt _ _)
  · obtain ⟨x, hr, -⟩ := State.vEnd_report hu.memWf ((hu.tileFenced n.val).trans hfree.2.1) e elems pre isat oor
    rw [heq]
    obtain ⟨hbytes, hcru, hA, hB, hT, hdwq, hon⟩ := hu.then_ending hr.ending
    obtain ⟨hrecs, hsf, -⟩ := TileSt.held_of_unitPart hu.unitPart
    refine ⟨⟨_, by rw [hr.recs, hrecs], ?_, ?_⟩, hbytes.mono fun a ha => ⟨hst, ha⟩, fun h => absurd hst h, fun i hi => ?_, hcru, hA, hB, hT, hdwq, hon⟩
    · rw [← htag]
      exact recTag_low (vTag_lt e) (x := x + sat16 oor * 2 ^ 64 + (b2n (oor != 0) + 2 * b2n (isat != 0)) * 2 ^ 80) (by omega) _
    · rw [recStatus_recordBits _ _ (by decide)]
      exact hst.symm
    · rw [hr.sf i (by rwa [hsum, hslot]), hsf]

end Sys2Proof.Machine
end

section
/-! SUPPORT. O28: the operands and the results of the lanes of a vector command (R199 to R204). -/

namespace Sys2Proof.Machine

section
variable {n : TileIx} {s : State}

/-- Element of row r and lane l of operand j, as it stands in tile memory. -/
def State.laneAt (s : State) (n : TileIx) (d : BitVec 512) (j r l : Nat) : Lane :=
  laneOf (vFmt d j) (leNat (s.tileRead n (vBase d j + (r * vPitch d j + l * vStride d j) * elemBytes (vFmt d j)) (elemBytes (vFmt d j))).1)

/-- Every element of operand j lies in tile memory. -/
def laneInside (d : BitVec 512) (j : Nat) : Prop :=
  ∀ r < vRows d, ∀ l < vLanes d, vBase d j + (r * vPitch d j + l * vStride d j) * elemBytes (vFmt d j) + elemBytes (vFmt d j) ≤ tileBytes

/-- The operand that a command reads: nothing where its operation takes none. -/
def State.lanesAt (s : State) (n : TileIx) (d : BitVec 512) (j : Nat) : List (List Lane) :=
  if vUses (vOp d) j then (List.range (vRows d)).map fun r => (List.range (vLanes d)).map fun l => s.laneAt n d j r l else []

theorem State.laneAt_access {t : State} (h : TileAccess n (fun _ => False) s t) (d : BitVec 512) (j r l : Nat) :
    t.laneAt n d j r l = s.laneAt n d j r l := by
  rw [State.laneAt, h.tileRead fun _ _ => id, State.laneAt]

theorem State.lanesAt_access {t : State} (h : TileAccess n (fun _ => False) s t) (d : BitVec 512) (j : Nat) : t.lanesAt n d j = s.lanesAt n d j := by
  unfold State.lanesAt
  simp only [State.laneAt_access h]

/-- An operand in tile memory is read as it stands. -/
theorem State.vRead_values (h : s.memWf = true) {d : BitVec 512} (sf : U32) {j : Nat} (hj : vScalarOp d ≠ j) (hin : vUses (vOp d) j = true → laneInside d j) :
    (s.vRead n d sf j).2.1 = s.lanesAt n d j := by
  unfold State.vRead State.lanesAt
  by_cases hu : vUses (vOp d) j = true
  · extract_lets f w
    rw [if_neg (by simp [hu]), if_neg (by simp [hj]), if_pos hu]
    have hin := hin hu
    refine (foldl_collect (P := TileAccess n (fun _ => False) s) (g := fun r => (List.range (vLanes d)).map fun l => s.laneAt n d j r l)
      (TileAccess.refl h) fun p r hr hp => ?_).2
    have hrow := foldl_collect (P := TileAccess n (fun _ => False) s) (g := fun l => s.laneAt n d j r l)
      (f := fun (a : State × List Lane × Bool) l =>
        let (s1, b, bad) := a.1.tmRead n (vBase d j + (r * vPitch d j + l * vStride d j) * w) w
        (s1, a.2.1 ++ [laneOf f (leNat b)], a.2.2 || bad)) (l := List.range (vLanes d)) (p := (p.1, [], false)) hp fun q l hl hq =>
      ⟨hq.trans (.tmRead hq.memWf _ _), ?_⟩
    · exact ⟨hrow.1, congrArg (fun x => p.2.1 ++ [x]) hrow.2⟩
    · show q.2.1 ++ [laneOf f (leNat (q.1.tmRead n _ w).2.1)] = _
      rw [State.tmRead_data hq.memWf (hin r (List.mem_range.1 hr) l (List.mem_range.1 hl)), ← State.laneAt_access hq]
      rfl
  · rw [if_pos (by simpa using hu), if_neg hu]

/-- The results of the lanes, from the operands as they were. -/
def State.laneOuts (s : State) (n : TileIx) (d : BitVec 512) : List (List LaneOut) :=
  s.vRows_ n d (s.lanesAt n d 1) (s.lanesAt n d 2) (s.lanesAt n d 3)

theorem State.laneRows_access {t : State} (h : TileAccess n (fun _ => False) s t) (d : BitVec 512) (a b c : List (List Lane)) :
    t.vRows_ n d a b c = s.vRows_ n d a b c := by
  have hstep : t.stepNo = s.stepNo := by rw [State.stepNo, h.get_off F.SEAL_STEP_STEP_COUNTER (by decide), State.stepNo]
  obtain ⟨hrecs, -⟩ := TileSt.held_of_unitPart h.unitPart
  simp only [State.vRows_, State.vDraw, State.vFree, hstep, hrecs, h.free]

/-- The end of a lane command: what its lanes give. -/
def State.laneEnd (s : State) (n : TileIx) (op : Nat) (d : BitVec 512) (rows : List (List LaneOut)) : State :=
  s.vEnd n d (rows.map fun r => r.map fun e => e.elem) (preOf (op == vCmp || vSrc d == fInt32) (rows.map fun r => r.map fun e => e.pre))
    (rows.flatten.filter fun e => e.isat).length (rows.flatten.filter fun e => e.oor).length

/-- A vector command other than CVT writes what its lanes give for the operands as they were, and ends. -/
theorem State.opVector_lanes (h : s.memWf = true) {op : Nat} {d : BitVec 512} (sf : U32) (hst : vStatus op d = stOk) (hop : op ≠ vCvt)
    (hscalar : vScalarOp d = 0) (hin : ∀ j, 1 ≤ j → j ≤ 3 → vUses (vOp d) j = true → laneInside d j) :
    ∃ u bad, TileAccess n (fun _ => False) s u ∧
      s.opVector n op d sf = (u.vWrite n d (((s.laneOuts n d).map fun r => r.map fun e => e.elem).map fun r => r.map fun e => e.code) bad).laneEnd n op d (s.laneOuts n d) := by
  have hd : s.rungVector n op d = d := by rw [State.rungVector, if_neg (by simp [hop])]
  have h1 : TileAccess n (fun _ => False) s (s.vRead n d sf 1).1 := .vRead h d sf 1
  have h2 := h1.trans (.vRead h1.memWf d sf 2)
  have h3 := h2.trans (.vRead h2.memWf d sf 3)
  refine ⟨_, (s.vRead n d sf 1).2.2 || ((s.vRead n d sf 1).1.vRead n d sf 2).2.2 || (((s.vRead n d sf 1).1.vRead n d sf 2).1.vRead n d sf 3).2.2, h3, ?_⟩
  have hrows : (((s.vRead n d sf 1).1.vRead n d sf 2).1.vRead n d sf 3).1.vRows_ n d (s.vRead n d sf 1).2.1 ((s.vRead n d sf 1).1.vRead n d sf 2).2.1
      (((s.vRead n d sf 1).1.vRead n d sf 2).1.vRead n d sf 3).2.1 = s.laneOuts n d := by
    rw [State.laneRows_access h3, State.vRead_values h sf (by omega) (hin 1 (by decide) (by decide)),
      State.vRead_values h1.memWf sf (by omega) (hin 2 (by decide) (by decide)), State.lanesAt_access h1,
      State.vRead_values h2.memWf sf (by omega) (hin 3 (by decide) (by decide)), State.lanesAt_access h2]
    rfl
  unfold State.opVector
  rw [hd]
  extract_lets e status int
  rw [if_neg (by simp [e, status, hst]), if_neg (by simp [hop])]
  rw [← hrows]
  rfl

/-! The flags at the end. -/

/-- The fields that the end of a vector command writes once LANE_OOR and INT_SAT stand. -/
def vEndFields (n : Nat) (g : Field) : Prop :=
  perfWin g.off ∨ g = F.TILE_VE_STATUS_LAST_OOR_TAG n ∨ g = F.TILE_VE_STATUS_NONFIN_OUT n ∨ g = F.TILE_UPD_STAT_RESID_SAT n

theorem vEndFields_apart {k lo : Nat} (hlo : lo < 2) {g : Field} (hg : vEndFields k g) : Field.apart ⟨0x100600 + k * 0x10000, lo, 1⟩ g := by
  rcases hg with hg | rfl | rfl | rfl
  · exact .inl (by have := hg.2; simp only; omega)
  · exact .inr (.inl (by simp only [F.TILE_VE_STATUS_LAST_OOR_TAG]; omega))
  · exact .inr (.inl (by simp only [F.TILE_VE_STATUS_NONFIN_OUT]; omega))
  · exact .inl (by simp only [F.TILE_UPD_STAT_RESID_SAT]; omega)

/-- The end of a vector command sets its flags first. -/
theorem State.vEnd_flagged (h : s.memWf = true) (d : BitVec 512) (elems : List (List Elem)) (pre : Results) (isat oor : Nat) :
    ∃ nf : Bool, Ending (vEndFields n.val) n (((s.flagIf (isat != 0) (F.TILE_VE_STATUS_INT_SAT n.val)).flagIf nf
      (F.TILE_VE_STATUS_NONFIN_OUT n.val)).flagIf (oor != 0) (F.TILE_VE_STATUS_LANE_OOR n.val)) (s.vEnd n d elems pre isat oor) := by
  unfold State.vEnd
  extract_lets k cnt nf s1 s2 s3 s4
  refine ⟨nf != 0, ?_⟩
  have h1 : Ending (tileFields n.val) n s s1 :=
    (((Ending.refl h).flagIf _ _ (tileFields_tile _ _ _ _)).flagIf _ _ (tileFields_tile _ _ _ _)).flagIf _ _ (tileFields_tile _ _ _ _)
  have hs1 : Ending (vEndFields n.val) n s1 s1 := .refl (h1.keeps.memWf h)
  have e2 : Ending (vEndFields n.val) n s1 s2 := .ite (hs1.set _ _ (.inr (.inl rfl))) hs1
  have e3 : Ending (vEndFields n.val) n s1 s3 := .ite (e2.putSummary _ _) e2
  have e4 : Ending (vEndFields n.val) n s1 s4 := .ite (e3.bump _ _ (.inr (.inr (.inr rfl)))) e3
  exact (e4.sticky cnt.nonfin (nf != 0)).complete (fun _ hg => .inl hg) (tileIx_lt_blocks n) _

/-- Setting another flag leaves a flag alone. -/
theorem State.get_flagIf_ne (h : s.regsOk) (b : Bool) {f g : Field} (hd : g.apart f) (hg : g.lo + g.w ≤ 64) : (s.flagIf b f).get g = s.get g := by
  cases b
  · rfl
  · exact State.get_set_ne f g 1 h hd hg

/-- LANE_OOR and INT_SAT are set where a lane gave them, and stay otherwise (R204, R205). -/
theorem State.get_vEnd (h : s.memWf = true) (d : BitVec 512) (elems : List (List Elem)) (pre : Results) (isat oor : Nat) :
    (s.vEnd n d elems pre isat oor).get (F.TILE_VE_STATUS_LANE_OOR n.val) = (if oor != 0 then 1 else s.get (F.TILE_VE_STATUS_LANE_OOR n.val)) ∧
      (s.vEnd n d elems pre isat oor).get (F.TILE_VE_STATUS_INT_SAT n.val) = (if isat != 0 then 1 else s.get (F.TILE_VE_STATUS_INT_SAT n.val)) := by
  obtain ⟨nf, he⟩ := State.vEnd_flagged (n := n) h d elems pre isat oor
  have hL : (F.TILE_VE_STATUS_LANE_OOR n.val).lo + (F.TILE_VE_STATUS_LANE_OOR n.val).w ≤ 64 := by simp [F.TILE_VE_STATUS_LANE_OOR]
  have hI : (F.TILE_VE_STATUS_INT_SAT n.val).lo + (F.TILE_VE_STATUS_INT_SAT n.val).w ≤ 64 := by simp [F.TILE_VE_STATUS_INT_SAT]
  have hLN : (F.TILE_VE_STATUS_LANE_OOR n.val).apart (F.TILE_VE_STATUS_NONFIN_OUT n.val) := vEndFields_apart (by decide) (.inr (.inr (.inl rfl)))
  have hIN : (F.TILE_VE_STATUS_INT_SAT n.val).apart (F.TILE_VE_STATUS_NONFIN_OUT n.val) := vEndFields_apart (by decide) (.inr (.inr (.inl rfl)))
  have hLI : (F.TILE_VE_STATUS_LANE_OOR n.val).apart (F.TILE_VE_STATUS_INT_SAT n.val) :=
    .inr (.inl (by simp [F.TILE_VE_STATUS_LANE_OOR, F.TILE_VE_STATUS_INT_SAT]))
  have hIL : (F.TILE_VE_STATUS_INT_SAT n.val).apart (F.TILE_VE_STATUS_LANE_OOR n.val) :=
    .inr (.inr (by simp [F.TILE_VE_STATUS_LANE_OOR, F.TILE_VE_STATUS_INT_SAT]))
  have hok := State.regsOk_of_memWf h
  have hok1 := (Writes.refl (W := fun _ => True) hok).flagIf (isat != 0) (F.TILE_VE_STATUS_INT_SAT n.val) trivial
  have hok2 := hok1.flagIf nf (F.TILE_VE_STATUS_NONFIN_OUT n.val) trivial
  constructor
  · rw [he.writes.get _ hL fun g hg => vEndFields_apart (by decide) hg, State.get_flagIf hok2.regsOk _ _ rfl hL,
      State.get_flagIf_ne hok1.regsOk _ hLN hL, State.get_flagIf_ne hok _ hLI hL]
  · rw [he.writes.get _ hI fun g hg => vEndFields_apart (by decide) hg, State.get_flagIf_ne hok2.regsOk _ hIL hI,
      State.get_flagIf_ne hok1.regsOk _ hIN hI, State.get_flagIf hok _ _ rfl hI]

end

end Sys2Proof.Machine
end

section
/-! SUPPORT. O28: the result of one lane (R202 to R204), and the lane numbers of PERM (R204). -/

namespace Sys2Proof.Machine

theorem elemBytes_le (f : Nat) : elemBytes f ≤ 4 := by
  have hbits : fmtBits f ≤ 32 := by unfold fmtBits; grind
  exact Nat.le_trans (Nat.div_le_div_right hbits) (by decide)

theorem vOp_of_ok {op : Nat} {d : BitVec 512} (h : vStatus op d = stOk) : vOp d = op := by
  obtain ⟨hbad, -⟩ := statusOf_eq_stOk.1 h
  simp only [vBadLayout, Bool.or_eq_false_iff, bne_eq_false_iff_eq] at hbad
  tauto

/-- A vector command without a scalar operand asks for no entry of the scalar file. -/
theorem scalarAsked_eq_none {c : Instr} {n : TileIx} {op : Nat} {d : BitVec 512} (h : vectorOp c = some (n, op, d)) (hs : vScalarOp d = 0) :
    scalarAsked c = none := by
  have hk : scalarAsked c = if vScalarOp d != 0 then some (n, vScalarIdx d) else none := by
    rcases vectorOp_cases h with ⟨rfl, -⟩ | ⟨rfl, -⟩ | ⟨rfl, -⟩ | ⟨rfl, -⟩ | ⟨rfl, -⟩ | ⟨rfl, -⟩ | ⟨rfl, -⟩ | ⟨rfl, -⟩ | ⟨rfl, -⟩ <;> rfl
  rw [hk, if_neg (by simp [hs])]

/-- A command of the lanes without a scalar operand, its operands in tile memory: the write of its results and its end. -/
theorem State.exec_lanes {c : Instr} {n : TileIx} {op : Nat} {d : BitVec 512} {s : State} (hc : vectorOp c = some (n, op, d)) (hwf : s.memWf = true)
    (hfree : s.tileFree n) (hop : op ≠ vCvt) (hst : vStatus op d = stOk) (hscalar : vScalarOp d = 0)
    (hin : ∀ j, 1 ≤ j → j ≤ 3 → vUses (vOp d) j = true → laneInside d j) :
    ∃ u bad, TileAccess n (fun _ => False) s u ∧
      exec c s = .next ((u.vWrite n d (((s.laneOuts n d).map fun r => r.map fun e => e.elem).map fun r => r.map fun e => e.code) bad).laneEnd n op d
        (s.laneOuts n d)) := by
  obtain ⟨u, bad, hu, heq⟩ := State.opVector_lanes (n := n) hwf (s.scalarNow c) hst hop hscalar hin
  exact ⟨u, bad, hu, by rw [State.exec_vector hc hfree fun k hk => by simp [scalarAsked_eq_none hc hscalar] at hk, heq]⟩

theorem State.laneOuts_within (s : State) (n : TileIx) (d : BitVec 512) : Within (vRows d) (vLanes d) (s.laneOuts n d) := Within.table _

/-! One row of one lane. -/

section
variable {n : TileIx} {s : State}

/-- The one result of a command on one row of one lane. -/
theorem State.laneOuts_single {d : BitVec 512} (hrows : vRows d = 1) (hlanes : vLanes d = 1) (hA : vUses (vOp d) 1 = true) :
    let lane := fun j => if vUses (vOp d) j then laneOf (vFmt d j) (leNat (s.tileRead n (vBase d j) (elemBytes (vFmt d j))).1) else laneOf fInt32 0
    s.laneOuts n d = [[vLane d (s.vDraw d 0 0) (s.vFree n 0 0) [lane 1] (lane 1) (lane 2) (lane 3)]] := by
  intro lane
  have hlane : ∀ j, s.lanesAt n d j = if vUses (vOp d) j then [[lane j]] else [] := by
    intro j
    unfold State.lanesAt
    split
    · next hu => simp [hrows, hlanes, lane, hu, State.laneAt]
    · rfl
  have h2 : ((s.lanesAt n d 2).getD 0 []).getD 0 (laneOf fInt32 0) = lane 2 := by
    rw [hlane]
    by_cases hu : vUses (vOp d) 2 = true <;> simp [hu, lane]
  have h3 : ((s.lanesAt n d 3).getD 0 []).getD 0 (laneOf fInt32 0) = lane 3 := by
    rw [hlane]
    by_cases hu : vUses (vOp d) 3 = true <;> simp [hu, lane]
  have h1 : (s.lanesAt n d 1).getD 0 [] = [lane 1] := by rw [hlane, if_pos hA]; rfl
  have hrow : s.laneOuts n d = [[vLane d (s.vDraw d 0 0) (s.vFree n 0 0) ((s.lanesAt n d 1).getD 0 []) (((s.lanesAt n d 1).getD 0 []).getD 0 (laneOf fInt32 0))
      (((s.lanesAt n d 2).getD 0 []).getD 0 (laneOf fInt32 0)) (((s.lanesAt n d 3).getD 0 []).getD 0 (laneOf fInt32 0))]] := by
    rw [State.laneOuts, State.vRows_, hrows, hlanes]
    rfl
  rw [hrow, h1, h2, h3]
  rfl

/-- The bytes of one result. -/
theorem State.tileByte_vWrite_single (h : s.memWf = true) {d : BitVec 512} (x : Nat) (bad : Bool) (hin : vBase d 0 + elemBytes (vDst d) ≤ tileBytes) {i : Nat}
    (hi : i < elemBytes (vDst d)) :
    (s.vWrite n d [[x]] bad).tileByte n (vBase d 0 + i) = (leBytes (elemBytes (vDst d)) x).getD i 0 := by
  have hw : s.vWrite n d [[x]] bad = s.tmWrite n (vBase d 0) (leBytes (elemBytes (vDst d)) x) bad := by
    simp [State.vWrite, State.forEach]
  rw [hw]
  exact State.tileByte_tmWrite h (by rwa [leBytes_length]) bad (by rwa [leBytes_length])

end

theorem filter_single_length {α : Type} (p : α → Bool) (x : α) : (([[x]].flatten.filter p).length != 0) = p x := by
  cases hp : p x <;> simp [hp]

theorem sat16_lt (k : Nat) : sat16 k < 2 ^ 16 := Nat.lt_of_le_of_lt (Nat.min_le_left _ _) (by decide)

/-- OOR_LANES of a vector command's record (R205). -/
theorem oorLanes_recordBits {tag x k fl : Nat} (htag : tag < 2 ^ 32) (hx : x < 2 ^ 64) (hk : k < 2 ^ 16) (num : Nat) :
    recField (recordBits (tag + x * 2 ^ 32 + k * 2 ^ 96 + fl * 2 ^ 112) num) 111 96 = k := by
  rw [recField_recordBits_low _ _ 96 (by decide)]
  omega

/-- How a command of the lanes ends after the accesses of its unit. -/
theorem TileAccess.laneEnd {n : TileIx} {st : Nat → Prop} {s u : State} (h : TileAccess n st s u) (hfree : s.tileFree n) (op : Nat) (d : BitVec 512)
    (rows : List (List LaneOut)) :
    let t := u.laneEnd n op d rows
    (∀ a, t.tileByte n a = u.tileByte n a) ∧
      (∃ r, (t.tile n).recs = r :: (s.tile n).recs ∧ recStatus r = stOk ∧ recField r 111 96 = sat16 (rows.flatten.filter fun e => e.oor).length) ∧
      t.get (F.TILE_VE_STATUS_LANE_OOR n.val) =
        (if (rows.flatten.filter fun e => e.oor).length != 0 then 1 else s.get (F.TILE_VE_STATUS_LANE_OOR n.val)) ∧
      t.get (F.TILE_VE_STATUS_INT_SAT n.val) =
        (if (rows.flatten.filter fun e => e.isat).length != 0 then 1 else s.get (F.TILE_VE_STATUS_INT_SAT n.val)) := by
  intro t
  obtain ⟨x, hr, hx⟩ := State.vEnd_report h.memWf ((h.tileFenced n.val).trans hfree.2.1) d (rows.map fun r => r.map fun e => e.elem)
    (preOf (op == vCmp || vSrc d == fInt32) (rows.map fun r => r.map fun e => e.pre)) (rows.flatten.filter fun e => e.isat).length
    (rows.flatten.filter fun e => e.oor).length
  obtain ⟨hL, hI⟩ := State.get_vEnd (n := n) h.memWf d (rows.map fun r => r.map fun e => e.elem)
    (preOf (op == vCmp || vSrc d == fInt32) (rows.map fun r => r.map fun e => e.pre)) (rows.flatten.filter fun e => e.isat).length
    (rows.flatten.filter fun e => e.oor).length
  obtain ⟨hrecs, -⟩ := TileSt.held_of_unitPart h.unitPart
  have hget : ∀ lo, lo < 2 → u.get ⟨0x100600 + n.val * 0x10000, lo, 1⟩ = s.get ⟨0x100600 + n.val * 0x10000, lo, 1⟩ := fun lo hlo =>
    h.get_off _ (by constructor <;> simp only <;> omega) (by simp only; omega)
  refine ⟨fun a => hr.ending.tileByte n a, ⟨_, by rw [← hrecs]; exact hr.recs, recStatus_recordBits _ _ (by decide), ?_⟩, ?_, ?_⟩
  · exact oorLanes_recordBits (vTag_lt d) hx (sat16_lt _) _
  · exact hL.trans (congrArg _ (hget 0 (by decide)))
  · exact hI.trans (congrArg _ (hget 1 (by decide)))

/-- The results of one lane, in tile memory and in the flags. -/
theorem vectorLane_single (c : Instr) (n : TileIx) (op : Nat) (d : BitVec 512) (s : State) (hc : vectorOp c = some (n, op, d)) (hwf : s.memWf = true)
    (hfree : s.tileFree n) (hop : op ≠ vCvt) (hst : vStatus op d = stOk) (hrows : vRows d = 1) (hlanes : vLanes d = 1) (hscalar : vScalarOp d = 0)
    (hin : ∀ j ≤ 3, vBase d j + 8 ≤ tileBytes) :
    let lane := fun j => if vUses op j then laneOf (vFmt d j) (leNat (s.tileRead n (vBase d j) (elemBytes (vFmt d j))).1) else laneOf fInt32 0
    let r := vLane d (s.vDraw d 0 0) (s.vFree n 0 0) [lane 1] (lane 1) (lane 2) (lane 3)
    endsIn (exec c s) fun t =>
      (∀ i < elemBytes (vDst d), t.tileByte n (vBase d 0 + i) = (leBytes (elemBytes (vDst d)) r.elem.code).getD i 0) ∧
        t.get (F.TILE_VE_STATUS_LANE_OOR n.val) = (if r.oor then 1 else s.get (F.TILE_VE_STATUS_LANE_OOR n.val)) ∧
        t.get (F.TILE_VE_STATUS_INT_SAT n.val) = (if r.isat then 1 else s.get (F.TILE_VE_STATUS_INT_SAT n.val)) := by
  intro lane r
  have hvop := vOp_of_ok hst
  have hinside : ∀ j, 1 ≤ j → j ≤ 3 → vUses (vOp d) j = true → laneInside d j := by
    intro j _ hj _ r hr l hl
    have hw := elemBytes_le (vFmt d j)
    have hb := hin j hj
    rw [hrows, Nat.lt_one_iff] at hr
    rw [hlanes, Nat.lt_one_iff] at hl
    simp only [hr, hl, Nat.zero_mul, Nat.add_zero]
    omega
  obtain ⟨u, bad, hu, heq⟩ := State.exec_lanes hc hwf hfree hop hst hscalar hinside
  have houts : s.laneOuts n d = [[r]] := by
    have hone := State.laneOuts_single (s := s) (n := n) hrows hlanes rfl
    rw [hvop] at hone
    exact hone
  refine ⟨_, heq, ?_⟩
  rw [houts]
  simp only [List.map_cons, List.map_nil]
  have hw : TileAccess n (vStored d) u (u.vWrite n d [[r.elem.code]] bad) :=
    .vWrite hu.memWf (vDstScaled_eq_false hst hop) ⟨by simp [hrows], by simp [hlanes]⟩ bad
  obtain ⟨hbytes, -, hL, hI⟩ := ((hu.mono fun _ => False.elim).trans hw).laneEnd hfree op d [[r]]
  rw [filter_single_length] at hL hI
  refine ⟨fun i hi => ?_, hL, hI⟩
  have hdst := elemBytes_le (vDst d)
  have hbase := hin 0 (by decide)
  rw [hbytes]
  exact State.tileByte_vWrite_single hu.memWf _ bad (by omega) hi

/-- PERM gives zero for a lane number of VL or more. -/
theorem vLane_perm {d : BitVec 512} (u fr : Nat) (row : List Lane) (a b c : Lane) (hop : vOp d = vPerm) :
    vLane d u fr row a b c = if vLanes d ≤ c.code then ⟨exactElem 0, .fin false 0 0, false, true⟩ else moved d fr (row.getD c.code a) := by
  rw [vLane, hop]
  rfl

theorem vLane_perm_oor {d : BitVec 512} (u fr : Nat) (row : List Lane) (a b c : Lane) (hop : vOp d = vPerm) :
    (vLane d u fr row a b c).oor = decide (vLanes d ≤ c.code) := by
  rw [vLane_perm _ _ _ _ _ _ hop]
  split
  · next h => simp [h]
  · next h => simp [h, moved]

/-- The lanes of PERM whose lane number is out of range. -/
theorem State.laneOuts_oor {s : State} {n : TileIx} {d : BitVec 512} (hop : vOp d = vPerm) :
    ((s.laneOuts n d).flatten.filter fun e => e.oor).length = ((List.range (vRows d)).flatMap fun r => (List.range (vLanes d)).filter fun l =>
      decide (vLanes d ≤ (s.laneAt n d 3 r l).code)).length := by
  have hc : s.lanesAt n d 3 = (List.range (vRows d)).map fun r => (List.range (vLanes d)).map fun l => s.laneAt n d 3 r l := by
    rw [State.lanesAt, if_pos (by rw [hop]; rfl)]
  have hrow : ∀ r ∈ List.range (vRows d), ∀ l ∈ List.range (vLanes d),
      ((s.lanesAt n d 3).getD r []).getD l (laneOf fInt32 0) = s.laneAt n d 3 r l := by
    intro r hr l hl
    rw [hc]
    simp [List.mem_range.1 hr, List.mem_range.1 hl]
  rw [State.laneOuts, State.vRows_, ← List.flatMap_def, List.filter_flatMap, List.length_flatMap, List.length_flatMap]
  congr 1
  refine List.map_congr_left fun r hr => ?_
  rw [List.filter_map, List.length_map]
  congr 1
  refine List.filter_congr fun l hl => ?_
  rw [Function.comp_apply, vLane_perm_oor _ _ _ _ _ _ hop, hrow r hr l hl]

/-- PERM with its operands in tile memory (R204). -/
theorem vectorPerm_oor (n : TileIx) (d : BitVec 512) (s : State) (hwf : s.memWf = true) (hfree : s.tileFree n) (hst : vStatus vPerm d = stOk)
    (hscalar : vScalarOp d = 0)
    (hin : ∀ j ≤ 3, ∀ r < vRows d, ∀ l < vLanes d, vBase d j + (r * vPitch d j + l * vStride d j) * 8 + 8 ≤ tileBytes) :
    let oor := (List.range (vRows d)).flatMap (fun r => (List.range (vLanes d)).filter (fun l =>
      decide (vLanes d ≤ leNat (s.tileRead n (vBase d 3 + (r * vPitch d 3 + l * vStride d 3) * 4) 4).1)))
    endsIn (exec (.perm n d) s) fun t =>
      ∃ r, (t.tile n).recs = r :: (s.tile n).recs ∧ recStatus r = stOk ∧ recField r 111 96 = min 65535 oor.length ∧
        t.get (F.TILE_VE_STATUS_LANE_OOR n.val) = (if oor.isEmpty then s.get (F.TILE_VE_STATUS_LANE_OOR n.val) else 1) := by
  intro oor
  have hop := vOp_of_ok hst
  have hinside : ∀ j, 1 ≤ j → j ≤ 3 → vUses (vOp d) j = true → laneInside d j := by
    intro j _ hj _ r hr l hl
    have hw := elemBytes_le (vFmt d j)
    have hmul := Nat.mul_le_mul_left (r * vPitch d j + l * vStride d j) (Nat.le_trans hw (by decide : 4 ≤ 8))
    have hb := hin j hj r hr l hl
    omega
  obtain ⟨u, bad, hu, heq⟩ := State.exec_lanes (c := .perm n d) rfl hwf hfree (by decide) hst hscalar hinside
  have hw := TileAccess.vWrite (n := n) hu.memWf (vDstScaled_eq_false hst (by decide))
    (((s.laneOuts_within n d).map fun e => e.elem).map fun e => e.code) bad
  obtain ⟨-, ⟨r, hrecs, hok, hcount⟩, hL, -⟩ := ((hu.mono fun _ => False.elim).trans hw).laneEnd hfree vPerm d (s.laneOuts n d)
  have hfmt : vFmt d 3 = fInt32 := by rw [vFmt, hop]; rfl
  have hoor : ((s.laneOuts n d).flatten.filter fun e => e.oor).length = oor.length := by
    rw [State.laneOuts_oor hop]
    simp only [State.laneAt, hfmt]
    rfl
  rw [hoor] at hcount hL
  refine ⟨_, heq, r, hrecs, hok, hcount, hL.trans ?_⟩
  cases oor <;> rfl

/-- Settles O28: the operands are read as they stand (`State.vRead_values`), the lanes give `State.laneOuts`, and PERM's lanes out of range are counted. -/
theorem vectorLaneResults : Obligations.VectorLaneResults :=
  ⟨vectorLane_single, fun d u fr row a b c hop hc => by rw [vLane_perm u fr row a b c hop, if_pos hc]; exact ⟨rfl, rfl⟩, vectorPerm_oor⟩

end Sys2Proof.Machine
end

section
/-! SUPPORT. O30: what a conversion of a Ladle writes besides its destination (R82, R92), and the marks that a slot's reader leaves (R94). -/

namespace Sys2Proof.Machine

/-- The conversion works on as many rows as the result has (R76). -/
theorem rotateSource_length {l : Nat} {d : BitVec 512} {x : Values} (h : x.length ≤ lRows d) : (rotateSource l d x).1.length ≤ lOutRows l d := by
  unfold rotateSource lOutRows
  extract_lets nr ns
  split
  · simp [transposeOf]
  · split
    · exact h
    · simpa using h

section
variable {l : Nat} {d : BitVec 512} {whole : Bool} {clips : List U32} {step : Nat} {x : Values}

theorem convertValues_elems_length : (convertValues l d whole clips step x).elems.length = (rotateSource l d x).1.length := by
  simp only [convertValues, quantRows, List.length_map, List.length_zipIdx]

theorem convertValues_scales_length (hl : 2 ≤ l) (i : Nat) : ((convertValues l d whole clips step x).scales.getD i []).length ≤ blocks8 (lOutCols l d) := by
  have hblk : (if decide (l ≤ 1) && lRowOrder d then rowBlocking else tileBlocking) = tileBlocking := if_neg (by simp; omega)
  simp only [convertValues, hblk]
  split
  · exact scalesOf_row_length ..
  · exact Nat.zero_le _

/-- Without outliers a conversion writes the clip mask alone (R92). -/
theorem convertValues_writes (hl : 2 ≤ l) (ho : lOutlier d = 0) {w : Nat × List Byte} (hw : w ∈ (convertValues l d false clips step x).writes) :
    lClipMask d = true ∧ ∃ i < blocks8 (rotateSource l d x).1.length,
      w.1 = lMaskBase d + 8 * (i * lDstPitch d) ∧ w.2.length = 8 * blocks8 (lOutCols l d) := by
  have hblk : (if decide (l ≤ 1) && lRowOrder d then rowBlocking else tileBlocking) = tileBlocking := if_neg (by simp; omega)
  simp only [convertValues, hblk, ho, noOutliers] at hw
  simp only [Bool.false_eq_true, if_false, beq_self_eq_true, if_true, List.zipIdx_nil, List.map_nil, List.append_nil] at hw
  split at hw
  · next hm =>
    obtain ⟨i, hi, rfl⟩ := List.mem_map.1 hw
    exact ⟨hm, i, List.mem_range.1 hi, rfl, leBytes_length _ _⟩
  · exact absurd hw List.not_mem_nil

end

/-- What a conversion writes, and its result, stay in the destination and the clip mask. -/
theorem TileAccess.convStore {n : TileIx} {s : State} (h : s.memWf = true) {l : Nat} (hl : 2 ≤ l) {d : BitVec 512} (ho : lOutlier d = 0) {x : Values}
    (hx : x.length ≤ lRows d) (clips : List U32) (step : Nat) (copy bad : Bool) :
    let c := convertValues l d false clips step x
    TileAccess n (ladleStored l d copy) s ((s.forEach c.writes fun s w => s.tmWrite n w.1 w.2 bad).writePlane n (lDest l d copy) (lOutCols l d)
      (c.elems.map fun r => r.map fun e => e.code) c.scales bad) := by
  intro c
  have hrows := rotateSource_length (l := l) hx
  have hmask : TileAccess n (ladleStored l d copy) s (s.forEach c.writes fun s w => s.tmWrite n w.1 w.2 bad) := .forEach h fun t w hw ht => by
    obtain ⟨hm, i, hi, haddr, hlen⟩ := convertValues_writes hl ho hw
    refine (TileAccess.tmWrite ht.memWf w.1 w.2 bad).mono fun a ha => .inr ⟨hm, i, Nat.lt_of_lt_of_le hi ?_, ?_⟩
    · unfold blocks8
      omega
    · rwa [haddr, hlen] at ha
  refine hmask.trans ((TileAccess.writePlane hmask.memWf _ _ _ ?_ (convertValues_scales_length hl)).mono fun a ha => .inl ha)
  rwa [List.length_map, convertValues_elems_length]

/-! A slot is read. -/

/-- From `s` to `t` a Ladle noted the reading of a slot of tile n: nothing of the tile changed but the marks of its slots. -/
structure SlotMarks (n : TileIx) (s t : State) : Prop where
  keeps : Keeps [.regs, .tiles] s t
  writes : Writes (tileFields n.val) s t
  others : ∀ m, m ≠ n → t.tile m = s.tile m
  units : { t.tile n with cru := (s.tile n).cru } = s.tile n
  words : ∀ i : Fin 128, ((t.tile n).cru[i]).words = ((s.tile n).cru[i]).words

theorem State.slotRead_marks {s : State} (h : s.memWf = true) (n : TileIx) (slot : Nat) : SlotMarks n s (s.slotRead n slot) := by
  have hregs : Writes (tileFields n.val) s (s.slotRead n slot) := by
    unfold State.slotRead State.liveSlots
    exact ((Writes.refl (State.regsOk_of_memWf h)).of_regs.set _ _ (tileFields_tile _ _ _ _)).set _ _ (tileFields_tile _ _ _ _)
  refine ⟨State.slotRead_keeps (List.Subset.refl _) (Keeps.refl s) n slot, hregs,
    fun m hm => ?_, ?_, fun i => ?_⟩
  · unfold State.slotRead State.liveSlots
    simp only [State.tile_set]
    exact State.tile_modTile_ne _ _ _ _ (Ne.symm hm)
  · unfold State.slotRead State.liveSlots
    simp only [State.tile_set, State.tile_modTile_self]
  · unfold State.slotRead State.liveSlots
    simp only [State.tile_set, State.tile_modTile_self]
    simp only [Fin.getElem_fin, Vector.getElem_mapIdx]
    split <;> rfl

theorem SlotMarks.memNoted {n : TileIx} {s t : State} (h : SlotMarks n s t) : t.mem = s.mem := h.keeps.same.mem (by decide)

/-- What a read of a slot leaves of its tile. -/
theorem SlotMarks.tile {n : TileIx} {s t : State} (h : SlotMarks n s t) :
    (t.tile n).mem = (s.tile n).mem ∧ (t.tile n).poison = (s.tile n).poison ∧ (t.tile n).recs = (s.tile n).recs ∧ (t.tile n).sf = (s.tile n).sf ∧
      (t.tile n).portA = (s.tile n).portA ∧ (t.tile n).portB = (s.tile n).portB :=
  ⟨by simpa using congrArg TileSt.mem h.units, by simpa using congrArg TileSt.poison h.units, by simpa using congrArg TileSt.recs h.units,
    by simpa using congrArg TileSt.sf h.units, by simpa using congrArg TileSt.portA h.units, by simpa using congrArg TileSt.portB h.units⟩

theorem SlotMarks.onTile {n : TileIx} {s t : State} (h : SlotMarks n s t) : s.onTile n t :=
  ⟨h.others, h.writes.frame fun _ hg => .inl hg, h.keeps.same.mono (by decide), by rw [State.memNoted, h.memNoted]⟩

/-! The end of a Ladle command. -/

/-- A Ladle command ends with its record (R105). -/
theorem State.ladleEnd_report {s : State} {n : TileIx} (h : s.memWf = true) (hfree : s.tileFenced n.val = false) (l : Nat) (d : BitVec 512) (r : LRep) :
    Ending (tileFields n.val) n s (s.ladleEnd n l d r) ∧ ((s.ladleEnd n l d r).tile n).recs = ladleRecord l d r :: (s.tile n).recs ∧
      ((s.ladleEnd n l d r).tile n).sf = (s.tile n).sf := by
  unfold State.ladleEnd
  extract_lets k a b c a' s1 s2 s3
  have ha : Ending (tileFields n.val) n s a :=
    ((((Ending.refl h).flagIf _ _ (tileFields_tile _ _ _ _)).flagIf _ _ (tileFields_tile _ _ _ _)).flagIf _ _ (tileFields_tile _ _ _ _)).flagIf _ _
      (tileFields_tile _ _ _ _)
  have hc : Ending (tileFields n.val) n s c :=
    ((ha.flagIf _ _ (tileFields_tile _ _ _ _)).bump _ _ (tileFields_tile _ _ _ _)).bump _ _ (tileFields_tile _ _ _ _)
  have ha' : Ending (tileFields n.val) n s a' := ((Ending.refl h).flagIf _ _ (tileFields_tile _ _ _ _)).flagIf _ _ (tileFields_tile _ _ _ _)
  have h1 : Ending (tileFields n.val) n s s1 := .ite (.ite (hc.set _ _ (tileFields_tile _ _ _ _)) hc)
    (((ha'.flagIf _ _ (tileFields_tile _ _ _ _)).set _ _ (tileFields_tile _ _ _ _)).set _ _ (tileFields_tile _ _ _ _))
  have ht1 : s1.tile n = s.tile n := by
    unfold s1
    split
    · split <;> simp [State.tile_set, State.tile_flagIf, a, b, c]
    · simp [State.tile_set, State.tile_flagIf, a']
  have h2 : Ending (tileFields n.val) n s s2 := h1.modTile _ fun _ => rfl
  have h2s := h2.sticky r.cnt.nonfin false
  have hk := tileIx_lt_blocks n
  have hrecs : ((s2.sticky n r.cnt.nonfin false).tile n).recs = (s.tile n).recs := by
    rw [State.recs_sticky, State.tile_modTile_self, ht1]
  have hsf : ((s2.sticky n r.cnt.nonfin false).tile n).sf = (s.tile n).sf := by
    rw [State.sf_sticky, State.tile_modTile_self, ht1]
  refine ⟨((((h2s.complete tileFields_perf hk _).perfLadle tileFields_perf hk _ _ _).perfLadle tileFields_perf hk _ _ _).perfLadle
    tileFields_perf hk _ _ _).perfEvent tileFields_perf hk _ _, ?_, ?_⟩
  · rw [State.tile_perfEvent, State.tile_perfLadle, State.tile_perfLadle, State.tile_perfLadle]
    exact h2s.recs_complete (fun _ => tileFields_off) hfree hrecs _ _
  · rw [State.tile_perfEvent, State.tile_perfLadle, State.tile_perfLadle, State.tile_perfLadle, State.sf_complete, hsf]

theorem lTag_lt (d : BitVec 512) : lTag d < 2 ^ 32 := dfld_lt d 7 31 0

/-- TAG and STATUS of a Ladle command's record (R105). -/
theorem ladleRecord_fields (l : Nat) (d : BitVec 512) (r : LRep) (hr : r.status < 256) :
    recTag (ladleRecord l d r) = lTag d ∧ recStatus (ladleRecord l d r) = r.status :=
  ⟨recTag_low (x := lLayer d + l * 2 ^ 14 + sat16 r.outlierCh * 2 ^ 16 + sat16 r.spillCh * 2 ^ 32 + sat16 r.escPasses * 2 ^ 48
    + sat16 r.maxCand * 2 ^ 64 + r.lflags * 2 ^ 80) (lTag_lt d) (by omega) _, recStatus_recordBits _ _ hr⟩

end Sys2Proof.Machine
end

section
/-! SUPPORT. O30: CONVERT and RESULT_OUT (R78, R81, R93, R94). -/

namespace Sys2Proof.Machine

section
variable {s : State} {n : TileIx}

/-- A Ladle command that a tile's sequencer takes runs at once. -/
theorem State.exec_ladle {c : Instr} {l : Fin 4} (h : s.tileFree n) (hexec : exec c s = .next (s.issue c)) (hseq : seqOf c = some n)
    (hq : queueOf c = some (l.val, n.val)) (hdom : s.engineAt c = none → s.domainsOf c = [n.val, domNoc]) (hsc : scalarAsked c = none)
    (htry : ∀ w : Waiting, w.cmd = c → ∀ t : State, t.tryCmd w = t.tryUnit w) (hsame : Same [.regs, .mem, .tiles, .perf] s (s.atUnit c)) :
    exec c s = .next (s.atUnit c) := by
  have hl : l.val ≠ 6 := Nat.ne_of_lt (Nat.lt_trans l.isLt (by decide))
  have heng : s.engineAt c = none := by simp [State.engineAt, hq, hl]
  rw [hexec, State.issue_eq_atUnit (h.takes hseq hq hl (hdom heng) (by rw [State.scalarPends, hsc]) htry)]
  · rw [hsame.stalled (by decide)]
    exact h.idle.1
  · rw [hsame.stallReq (by decide)]
    exact h.idle.2

theorem State.exec_convert (h : s.tileFree n) (l : Fin 4) (d : BitVec 512) : exec (.convert n l d) s = .next (s.opConvertCmd n l.val d) :=
  State.exec_ladle h rfl rfl rfl (fun he => by simp [State.domainsOf, he, posterOf]) rfl (fun w hw t => by rw [State.tryCmd, hw])
    (State.opConvertCmd_keeps (List.Subset.refl _) (Keeps.refl s) n l.val d).same

theorem State.exec_resultOut (h : s.tileFree n) (l : Fin 4) (d : BitVec 512) : exec (.resultOut n l d) s = .next (s.opResultOutCmd n l.val d) :=
  State.exec_ladle h rfl rfl rfl (fun he => by simp [State.domainsOf, he, posterOf]) rfl (fun w hw t => by rw [State.tryCmd, hw])
    (State.opResultOutCmd_keeps (List.Subset.refl _) (Keeps.refl s) n l.val d).same

/-! What an accepted command says. -/

/-- A CONVERT or RESULT_OUT that is not refused is on its Ladle and handles no outliers (R78, R80). -/
theorem State.ladleStatus_ok {l op : Nat} {d : BitVec 512} (h : s.ladleStatus n l op d = stOk) (hop : op = opConvert ∨ op = opResultOut) :
    ladleRuns l op = true ∧ lOutlier d = 0 := by
  obtain ⟨hbad, -⟩ := statusOf_eq_stOk.1 h
  have hlop : lOp d = op := by
    by_contra hne
    simp [State.ladleBadLayout, hne] at hbad
  have hdel : lDelivers d = false := by
    rcases hop with rfl | rfl <;> rw [lDelivers, hlop] <;> rfl
  refine ⟨Bool.not_eq_false _ ▸ fun hruns => ?_, Nat.eq_zero_of_not_pos fun hpos => ?_⟩
  · simp [State.ladleBadLayout, hlop, hruns] at hbad
  · simp [State.ladleBadLayout, hdel, Nat.ne_of_gt hpos] at hbad

theorem ladleRuns_convert {l : Nat} (h : ladleRuns l opConvert = true) : l = 2 := by
  unfold ladleRuns at h
  split at h
  · exact absurd h (by decide)
  · split at h
    · next hl => simpa using hl
    · exact absurd h (by decide)

theorem ladleRuns_resultOut {l : Nat} (h : ladleRuns l opResultOut = true) : 3 ≤ l := by
  unfold ladleRuns at h
  split at h
  · exact absurd h (by decide)
  · split at h
    · exact absurd h (by decide)
    · next h1 h2 =>
      have hne : l ≠ 2 := by simpa using h2
      omega

theorem TileAccess.clipRead {st : Nat → Prop} (h : s.memWf = true) (l : Nat) (d : BitVec 512) : TileAccess n st s (s.clipRead n l d) :=
  .ite (.tmRead h _ _) (.refl h)

theorem State.setLayer_memWf (h : s.memWf = true) (k : Nat) : (s.setLayer n k).memWf = true :=
  ((Ending.refl (W := tileFields n.val) (n := n) h).setLayer k).keeps.memWf h

/-! CONVERT. -/

/-- CONVERT is refused, or writes its destination and its mask alone (R81, R92, R93). -/
theorem State.opConvertCmd_cases (h : s.memWf = true) (l : Nat) (d0 : BitVec 512) :
    let d := s.rungLadle n l d0
    let s0 := s.setLayer n (lLayer d)
    let status := s0.ladleStatus n l opConvert d
    (status ≠ stOk ∧ s.opConvertCmd n l d0 = s0.ladleEnd n l d (refusedRep status 0)) ∨
      (status = stOk ∧ ∃ u r, TileAccess n (ladleStored l d false) s0 u ∧ r.status = stOk ∧ s.opConvertCmd n l d0 = u.ladleEnd n l d r) := by
  intro d s0 status
  have h0 : s0.memWf = true := State.setLayer_memWf h _
  unfold State.opConvertCmd
  extract_lets clips dst
  by_cases hst : status = stOk
  · refine .inr ⟨hst, ?_⟩
    rw [if_neg (by simpa using hst)]
    obtain ⟨hruns, hout⟩ := State.ladleStatus_ok hst (.inl rfl)
    have hl := ladleRuns_convert hruns
    subst hl
    have hclip : TileAccess n (ladleStored 2 d false) s0 (s0.clipRead n 2 d) := .clipRead h0 _ _
    have hread := hclip.trans (.readPlane hclip.memWf (lSource d) (lRows d) (lCols d))
    have hsrc := State.readTensor_within (fun s a len => s.tmRead n a len) (s0.clipRead n 2 d) (lSource d) (lRows d) (lCols d)
    simp only
    split
    · refine ⟨_, _, hread.trans ((TileAccess.writePlane (rows := lCols d) hread.memWf dst (lRows d) _ ?_ fun i => ?_).mono fun a ha => .inl ha), rfl, rfl⟩
      · simp [transposeOf]
      · rw [List.getD_eq_getElem?_getD, List.getElem?_map]
        cases (List.range (blocks8 (lCols d)))[i]? <;> simp
    · exact ⟨_, _, hread.trans (.convStore hread.memWf (Nat.le_refl 2) hout (valuesOf_within hsrc _ _ _).1 _ _ false _), rfl, rfl⟩
  · exact .inl ⟨hst, by rw [if_pos (by simpa using hst)]⟩

/-! RESULT_OUT. -/

/-- RESULT_OUT is refused, or writes its destination and its mask alone and notes that its slot was read (R92, R94). -/
theorem State.opResultOutCmd_cases (h : s.memWf = true) (l : Nat) (d0 : BitVec 512) :
    let d := s.rungLadle n l d0
    let s0 := s.setLayer n (lLayer d)
    let held := if l == 3 && decide (lSrcBase d < 128) then ((s0.tile n).cru[slotIx (lSrcBase d)]).bad else stOk
    let status := max (s0.ladleStatus n l opResultOut d) held
    (status ≠ stOk ∧ s.opResultOutCmd n l d0 = s0.ladleEnd n l d (refusedRep status 0)) ∨
      (status = stOk ∧ ∃ u r, TileAccess n (ladleStored l d (s0.intCopy n l d)) s0 u ∧ r.status = stOk ∧
        s.opResultOutCmd n l d0 = (u.slotRead n (lSrcBase d)).ladleEnd n l d r) := by
  intro d s0 held status
  have h0 : s0.memWf = true := State.setLayer_memWf h _
  unfold State.opResultOutCmd
  extract_lets own slot held' status' c w at_ dst inside grid raw x v s1 s2
  by_cases hst : status = stOk
  · refine .inr ⟨hst, ?_⟩
    have hown : own = stOk := Nat.le_zero.1 (Nat.le_trans (Nat.le_max_left _ held) (Nat.le_of_eq hst))
    rw [if_neg (by simpa using hst)]
    obtain ⟨hruns, hout⟩ := State.ladleStatus_ok (s := s0) (n := n) (l := l) (d := d) hown (.inr rfl)
    have hl := ladleRuns_resultOut hruns
    have hrows : lOutRows l d = lRows d := if_neg (by simp; omega)
    have hcols : lOutCols l d = lCols d := if_neg (by simp; omega)
    split
    · refine ⟨_, _, (TileAccess.writePlane (rows := lRows d) h0 dst (lCols d) _ ?_ fun i => Nat.zero_le _).mono fun a ha => .inl ?_, rfl, rfl⟩
      · simp [raw, grid]
      · rwa [hrows, hcols]
    · next hcopy =>
      have hclip : TileAccess n (ladleStored l d (s0.intCopy n l d)) s0 (s0.clipRead n l d) := .clipRead h0 _ _
      have hx : x.length ≤ lRows d := by simp [x, grid]
      have hstore := TileAccess.convStore (n := n) hclip.memWf (Nat.le_trans (by decide) hl) hout hx (s0.clipList n l d) s.stepNo (s0.intCopy n l d) false
      rw [hcols] at hstore
      exact ⟨_, _, hclip.trans hstore, rfl, rfl⟩
  · exact .inl ⟨hst, by rw [if_pos (by simpa using hst)]⟩

/-! What both leave alone. -/

/-- The tile that a Ladle command of layer k finds. -/
theorem State.setLayer_tile (s : State) (k : Nat) : (s.setLayer n k).tile n = { s.tile n with layer := k } := by
  rw [State.setLayer, State.tile_modTile_self]

theorem State.ladleStatus_lt (l op : Nat) (d : BitVec 512) : s.ladleStatus n l op d ≤ stLayout := by
  unfold State.ladleStatus statusOf
  split
  · exact Nat.le_refl _
  · split <;> decide

/-- A refused Ladle command reports and changes nothing else. -/
theorem State.ladleRefused_frame (h : s.memWf = true) (hfree : s.tileFree n) (l k : Nat) (d : BitVec 512) (r : LRep) (st : Nat → Prop) :
    let t := (s.setLayer n k).ladleEnd n l d r
    (t.tile n).recs = ladleRecord l d r :: (s.tile n).recs ∧ s.tileBytesBut n st t ∧ (t.tile n).cru = (s.tile n).cru ∧
      (t.tile n).sf = (s.tile n).sf ∧ (t.tile n).portA = (s.tile n).portA ∧ (t.tile n).portB = (s.tile n).portB ∧ s.onTile n t := by
  intro t
  have h0 : Ending (tileFields n.val) n s (s.setLayer n k) := (Ending.refl h).setLayer k
  obtain ⟨he, hrecs, hsf⟩ := State.ladleEnd_report (h0.keeps.memWf h) hfree.2.1 l d r
  obtain ⟨hbytes, hcru, hA, hB, -, -, hon⟩ := (TileAccess.refl (st := st) h).then_ending (h0.trans he)
  rw [State.setLayer_tile] at hrecs hsf
  exact ⟨hrecs, hbytes, hcru, hsf, hA, hB, hon⟩

/-- What CONVERT leaves (R78, R81, R105). -/
theorem State.opConvertCmd_post (hwf : s.memWf = true) (hfree : s.tileFree n) (l : Nat) (d0 : BitVec 512) :
    let d := s.rungLadle n l d0
    let status := (s.setLayer n (lLayer d)).ladleStatus n l opConvert d
    let t := s.opConvertCmd n l d0
    (∃ r, (t.tile n).recs = r :: (s.tile n).recs ∧ recTag r = lTag d0 ∧ recStatus r = status) ∧
      s.tileBytesBut n (fun a => status = stOk ∧ ladleStored l d false a) t ∧ (t.tile n).cru = (s.tile n).cru ∧
      (t.tile n).sf = (s.tile n).sf ∧ (t.tile n).portA = (s.tile n).portA ∧ (t.tile n).portB = (s.tile n).portB ∧ s.onTile n t := by
  intro d status t
  have htag : lTag d = lTag d0 := s.lTag_rungLadle n l d0
  have h0 : Ending (tileFields n.val) n s (s.setLayer n (lLayer d)) := (Ending.refl hwf).setLayer _
  have ht0 := s.setLayer_tile (n := n) (lLayer d)
  rcases State.opConvertCmd_cases (n := n) hwf l d0 with ⟨hst, heq⟩ | ⟨hst, u, r, hu, hr, heq⟩ <;> unfold t <;> rw [heq]
  · obtain ⟨hrecs, hbytes, hcru, hsf, hA, hB, hon⟩ := State.ladleRefused_frame hwf hfree l (lLayer d) d (refusedRep status 0) _
    obtain ⟨hrt, hrs⟩ := ladleRecord_fields l d (refusedRep status 0) (Nat.lt_of_le_of_lt (State.ladleStatus_lt _ _ _) (by decide))
    exact ⟨⟨_, hrecs, hrt.trans htag, hrs⟩, hbytes, hcru, hsf, hA, hB, hon⟩
  · obtain ⟨he, hrecs, hsf⟩ := State.ladleEnd_report hu.memWf ((hu.tileFenced n.val).trans hfree.2.1) l d r
    obtain ⟨hbytes, hcru, hA, hB, -, -, hon⟩ := hu.then_ending he
    obtain ⟨hurecs, husf, -⟩ := TileSt.held_of_unitPart hu.unitPart
    obtain ⟨hrt, hrs⟩ := ladleRecord_fields l d r (by rw [hr]; decide)
    rw [hurecs, ht0] at hrecs
    rw [husf, ht0] at hsf
    rw [ht0] at hcru hA hB
    exact ⟨⟨_, hrecs, hrt.trans htag, (hrs.trans hr).trans hst.symm⟩, (h0.tileBytes _).trans (hbytes.mono fun a ha => ⟨hst, ha⟩) rfl, hcru, hsf, hA, hB,
      h0.onTile.trans hon⟩

/-- What RESULT_OUT leaves (R78, R94, R105). -/
theorem State.opResultOutCmd_post (hwf : s.memWf = true) (hfree : s.tileFree n) (l : Nat) (d0 : BitVec 512) :
    let d := s.rungLadle n l d0
    let held := if l == 3 && decide (lSrcBase d < 128) then ((s.tile n).cru[slotIx (lSrcBase d)]).bad else stOk
    let status := max ((s.setLayer n (lLayer d)).ladleStatus n l opResultOut d) held
    let t := s.opResultOutCmd n l d0
    (held ≤ stLayout → ∃ r, (t.tile n).recs = r :: (s.tile n).recs ∧ recTag r = lTag d0 ∧ recStatus r = status) ∧
      s.tileBytesBut n (fun a => status = stOk ∧ ladleStored l d (s.intCopy n l d) a) t ∧
      (∀ i : Fin 128, ((t.tile n).cru[i]).words = ((s.tile n).cru[i]).words) ∧
      (t.tile n).sf = (s.tile n).sf ∧ (t.tile n).portA = (s.tile n).portA ∧ (t.tile n).portB = (s.tile n).portB ∧ s.onTile n t := by
  intro d held status t
  have htag : lTag d = lTag d0 := s.lTag_rungLadle n l d0
  have h0 : Ending (tileFields n.val) n s (s.setLayer n (lLayer d)) := (Ending.refl hwf).setLayer _
  have ht0 := s.setLayer_tile (n := n) (lLayer d)
  have hcopy : (s.setLayer n (lLayer d)).intCopy n l d = s.intCopy n l d := by unfold State.intCopy; rw [ht0]
  have hcases := State.opResultOutCmd_cases (n := n) hwf l d0
  simp only [ht0, hcopy, d] at hcases
  rcases hcases with ⟨hst, heq⟩ | ⟨hst, u, r, hu, hr, heq⟩ <;> unfold t <;> rw [heq]
  · obtain ⟨hrecs, hbytes, hcru, hsf, hA, hB, hon⟩ := State.ladleRefused_frame hwf hfree l (lLayer d) d (refusedRep status 0) _
    refine ⟨fun hle => ?_, hbytes, fun i => by rw [hcru], hsf, hA, hB, hon⟩
    obtain ⟨hrt, hrs⟩ := ladleRecord_fields l d (refusedRep status 0)
      (Nat.lt_of_le_of_lt (Nat.max_le.2 ⟨State.ladleStatus_lt _ _ _, hle⟩) (by decide))
    exact ⟨_, hrecs, hrt.trans htag, hrs⟩
  · have hm := State.slotRead_marks hu.memWf n (lSrcBase d)
    obtain ⟨hmem, hpoison, hmrecs, hmsf, hmA, hmB⟩ := hm.tile
    have hfence : (u.slotRead n (lSrcBase d)).tileFenced n.val = false := by
      rw [State.tileFenced, hm.writes.get_off F.FLT_FENCE_TILE_TILES fun _ hg => tileFields_off hg]
      exact (hu.tileFenced n.val).trans hfree.2.1
    obtain ⟨he, hrecs, hsf⟩ := State.ladleEnd_report (hm.keeps.memWf hu.memWf) hfence l d r
    obtain ⟨hurecs, husf, hucru, huA, huB, -⟩ := TileSt.held_of_unitPart hu.unitPart
    obtain ⟨hcru, hA, hB, -⟩ := TileSt.units_of_held he.held
    obtain ⟨hrt, hrs⟩ := ladleRecord_fields l d r (by rw [hr]; decide)
    rw [ht0] at hurecs husf hucru huA huB
    have hbytes : s.tileBytesBut n (fun a => status = stOk ∧ ladleStored l d (s.intCopy n l d) a) ((u.slotRead n (lSrcBase d)).ladleEnd n l d r) :=
      ((h0.tileBytes _).trans (hu.bytes.mono fun a ha => ⟨hst, ha⟩) rfl).trans ((State.tileBytesBut.of_tile hmem hpoison _).trans (he.tileBytes _)
        (by rw [hm.memNoted])) hu.noted.stash
    exact ⟨fun _ => ⟨_, by rw [hrecs, hmrecs, hurecs], hrt.trans htag, (hrs.trans hr).trans hst.symm⟩, hbytes,
      fun i => by rw [hcru, hm.words, hucru], by rw [hsf, hmsf, husf], by rw [hA, hmA, huA], by rw [hB, hmB, huB],
      h0.onTile.trans (hu.onTile.trans (hm.onTile.trans he.onTile))⟩

end

/-- Settles O30: a refused command only reports (`State.ladleRefused_frame`); an accepted one writes where `State.opConvertCmd_cases` and
`State.opResultOutCmd_cases` say, and RESULT_OUT notes its read (`State.slotRead_marks`). -/
theorem convertAndResultOutStore : Obligations.ConvertAndResultOutStore := fun _ l d0 _ hwf hfree =>
  ⟨⟨_, State.exec_convert hfree l d0, State.opConvertCmd_post hwf hfree l.val d0⟩,
    ⟨_, State.exec_resultOut hfree l d0, State.opResultOutCmd_post hwf hfree l.val d0⟩⟩

end Sys2Proof.Machine
end

section
/-! SUPPORT. An access of a unit holds no command back that did not wait before: what a fault or a start discards is discarded (R208, R298, R364),
and nothing else touches the commands that wait. -/

namespace Sys2Proof.Machine

/-- No command waits. -/
def State.Idle (s : State) : Prop := s.stalled = []

section
variable {s t : State}

theorem State.Idle.keeps {L : List Piece} (h : s.Idle) (k : Keeps L s t) (hL : L.contains Piece.stalled = false) : t.Idle :=
  (k.same.stalled fun m => Bool.false_ne_true (hL.symm.trans (List.contains_iff_mem.mpr m))).trans h

theorem State.Idle.of_eq (h : s.Idle) (k : t.stalled = s.stalled := by exact rfl) : t.Idle := k.trans h

theorem State.Idle.taintTile (h : s.Idle) (n : TileIx) : (s.taintTile n).Idle := (s.taintTile_stalled n).trans h
theorem State.Idle.failTile (h : s.Idle) (n : TileIx) : (s.failTile n).Idle := h
theorem State.Idle.modTile (h : s.Idle) (n : TileIx) (f : TileSt → TileSt) : (s.modTile n f).Idle := h
theorem State.Idle.flag (h : s.Idle) (f : Field) : (s.flag f).Idle := (s.flag_stalled f).trans h
theorem State.Idle.bump (h : s.Idle) (f : Field) (n : Nat) : (s.bump f n).Idle := (s.bump_stalled f n).trans h

theorem State.Idle.setCast (h : s.Idle) (c : CastSt) : State.Idle { s with cast := c } := h
theorem State.Idle.setMem (h : s.Idle) (m : MemSt) : State.Idle { s with mem := m } := h

theorem State.Idle.ite {c : Prop} [Decidable c] (hs : s.Idle) (ht : t.Idle) : (if c then s else t).Idle := by
  split
  · exact hs
  · exact ht

/-! Fences and records (R364 to R372). -/

theorem State.Idle.dropWaiting (h : s.Idle) (p : Waiting → Bool) : (s.dropWaiting p).Idle := by
  unfold State.dropWaiting
  rw [if_pos (by rw [show s.stalled = [] from h]; rfl)]
  exact h

theorem State.Idle.fenceTile (h : s.Idle) (n : TileIx) : (s.fenceTile n).Idle := by
  unfold State.fenceTile
  extract_lets s1 tiles s2 x s3 y s4
  refine .ite h (State.Idle.keeps (.dropWaiting ?_ _) (State.fenceMail_keeps (List.Subset.refl _) (.refl _) n) rfl)
  have h4 : s4.Idle := h
  exact h4.keeps (State.loseItems_keeps (List.Subset.refl _) (.refl _) n.val) rfl

theorem State.Idle.fenceEng (h : s.Idle) (d : Nat) : (s.fenceEng d).Idle := by
  unfold State.fenceEng
  extract_lets v s1 s2 x s3 s4
  refine .ite h (State.forEach_induction (P := State.Idle) ?_ fun t n _ ht =>
    .ite (ht.failTile n) ht)
  have h1 : ((s1.bump F.FLT_STAT_FENCED_ENG 1).flag F.FLT_STAT_FENCE).Idle := by simpa [State.Idle, s1] using h
  have h2 : s2.Idle := h1.keeps (State.engFencedFlag_keeps (List.Subset.refl _) (.refl _) d) rfl
  exact State.Idle.dropWaiting (s := s3) h2 _

theorem State.Idle.fenceNow (h : s.Idle) (cls index : Nat) (answers : Bool) : (s.fenceNow cls index answers).Idle := by
  unfold State.fenceNow
  refine .ite ?_ (.ite ?_ (.ite ?_ (h.fenceEng _)))
  · split
    · exact h.fenceTile _
    · exact h
  · exact (h.keeps (State.portDown_keeps (List.Subset.refl _) (.refl _) index) rfl).of_eq
  · exact (h.keeps (State.fenceChannel_keeps (List.Subset.refl _) (.refl _) index answers) rfl).of_eq

@[simp] theorem State.allOff_stalled (s : State) (keep : List Nat) : (s.allOff keep).stalled = [] := rfl

theorem State.idle_enterMinimal (s : State) (reason : Nat) : (s.enterMinimal reason).Idle := by
  have h1 : (s.allOff [domCxl]).Idle := s.allOff_stalled _
  unfold State.enterMinimal
  generalize s.allOff [domCxl] = u at h1 ⊢
  extract_lets s1 s2 x s3
  have k2 : Keeps [.regs, .power, .start] u s2 := by
    refine State.set_keeps ?_ (State.set_keeps ?_ (State.setDomReq_keeps ?_ (State.setDom_keeps ?_ (.refl u) _ _) _ _) _ _) _ _ <;> decide
  have h2 : s2.Idle := h1.keeps k2 rfl
  have h3 : s3.Idle := h2.of_eq
  exact State.forEach_induction (P := State.Idle) h3 fun t c _ ht => ht.keeps (State.minimalAnswer_keeps (List.Subset.refl _) (.refl _) c) rfl

theorem State.Idle.moduleFailed (h : s.Idle) : s.moduleFailed.Idle :=
  .ite h (State.idle_enterMinimal _ _)

theorem State.Idle.postFull (h : s.Idle) (cls index severity kind syndrome address count rflags : Nat) (answers : Bool) :
    (s.postFull cls index severity kind syndrome address count rflags answers).Idle := by
  unfold State.postFull
  extract_lets r s0 busy lost stops fence flags s1 s2 s3 s4
  have h0 : s0.Idle := h.keeps (State.wake_keeps (List.Subset.refl _) (.refl _) _ _) rfl
  have h1 : s1.Idle := h0.keeps (State.flagIf_keeps (List.Subset.refl _) (.refl _) _ _) rfl
  have h2 : s2.Idle := .ite (h1.fenceNow _ _ _) h1
  have h3 : s3.Idle := h2.keeps (State.enqueueOrMerge_keeps (List.Subset.refl _) (.refl _) _) rfl
  have h4 : s4.Idle := .ite (h3.keeps (State.writeLedger_keeps (List.Subset.refl _) (.refl _)) rfl) h3
  exact .ite (h0.keeps (State.enqueueOrMerge_keeps (List.Subset.refl _) (.refl _) _) rfl) (.ite h4.moduleFailed h4)

/-! Channels and lines (R210, R212, R222, R225, R226). -/

theorem State.Idle.channelFails (h : s.Idle) (ch : Nat) (answers : Bool) : (s.channelFails ch answers).Idle := by
  unfold State.channelFails
  extract_lets st chanRec w x
  have hrec : ∀ t : State, t.Idle → (chanRec t).Idle := fun t ht => ht.postFull _ _ _ _ _ _ _ _ _
  have hout : ∀ b, (s.chOut ch b).Idle := fun b => h.keeps (State.chOut_keeps (List.Subset.refl _) (.refl _) ch b) rfl
  refine .ite (hrec _ (h.keeps (State.dstLost_keeps (List.Subset.refl _) (.refl _)) rfl)) (.ite (.ite h
    (hrec _ (h.keeps (State.srcDied_keeps (List.Subset.refl _) (.refl _)) rfl))) (.ite h (.ite (hrec _ (hout true)) (.ite (.ite h h) ?_))))
  split
  · next sp _ =>
    have hmig : (s.startMigration ch sp).Idle := h.keeps (State.startMigration_keeps (List.Subset.refl _) (.refl _) ch sp) rfl
    exact .ite hmig (hrec _ (hmig.keeps (State.srcDied_keeps (List.Subset.refl _) (.refl _)) rfl))
  · exact hrec _ (hout false)

theorem State.Idle.corrected (h : s.Idle) (ch : Nat) : (s.corrected ch).Idle := by
  unfold State.corrected
  extract_lets x s1 s2
  have h2 : s2.Idle := h
  exact .ite (h2.channelFails _ _) h2

theorem State.Idle.uncorrectable (h : s.Idle) (pl reread address : Nat) (persist : Bool) : (s.uncorrectable pl reread address persist).Idle := by
  unfold State.uncorrectable
  extract_lets ch s1 x s2 s3
  have h1 : s1.Idle := h
  have h2 : s2.Idle := .ite h1 h1
  have h3 : s3.Idle := h2.postFull _ _ _ _ _ _ _ _ _
  exact .ite (h3.channelFails _ _) h3

theorem State.Idle.meetErrors (h : s.Idle) (pl address : Nat) (persist scrub : Bool) : (s.meetErrors pl address persist scrub).Idle := by
  unfold State.meetErrors
  split
  · exact h
  · refine .ite h (.ite (State.Idle.corrected (.ite ?_ h) _) (h.uncorrectable _ _ _ _))
    exact h

theorem State.Idle.memAwake (h : s.Idle) (k : Nat) : (s.memAwake k).Idle := h.keeps (State.memAwake_keeps (List.Subset.refl _) (.refl _) k) rfl

theorem State.Idle.setWc (h : s.Idle) (k : Nat) (l : List WcEntry) : (s.setWc k l).Idle := h.keeps (State.setWc_keeps (List.Subset.refl _) (.refl _) k l) rfl

theorem State.Idle.writeLine (h : s.Idle) (q line : Nat) (d : Sparse Byte) (whole poison : Bool) : (s.writeLine q line d whole poison).Idle := by
  unfold State.writeLine
  split
  · exact h
  · split
    · exact h.of_eq
    · next pl _ _ =>
      have h1 := h.meetErrors pl 0 false false
      exact .ite h1.of_eq h1.of_eq

theorem State.Idle.flushEntry (h : s.Idle) (k : Nat) (e : WcEntry) : (s.flushEntry k e).Idle := (h.memAwake k).writeLine _ _ _ _ _

theorem State.Idle.wcMerge (h : s.Idle) (q line : Nat) (d : Sparse Byte) : (s.wcMerge q line d).Idle := by
  unfold State.wcMerge
  extract_lets k p s' l s1
  have h' : s'.Idle := h.memAwake k
  refine .ite ((h'.setWc _ _).writeLine _ _ _ _ _) ?_
  split
  · exact .ite ((h'.setWc _ _).flushEntry _ _) (h'.setWc _ _)
  · refine State.Idle.setWc ?_ _ _
    unfold s1
    clear s1
    clear_value l
    cases l with
    | nil => exact h'
    | cons o rest => exact .ite ((h'.setWc _ _).flushEntry _ _) h'

theorem State.Idle.writeDram (h : s.Idle) (q byte : Nat) (data : List Byte) (poison : Bool) : (s.writeDram q byte data poison).Idle := by
  unfold State.writeDram
  extract_lets line d k s0 s1 s2
  refine .ite (((h.memAwake _).setWc _ _).writeLine _ _ _ _ _) (.ite ?_ (h.wcMerge _ _ _))
  split
  · exact (h.wcMerge _ _ _).of_eq
  · exact h.wcMerge _ _ _

theorem State.Idle.readDram (h : s.Idle) (q byte n address : Nat) (persist : Bool) : (s.readDram q byte n address persist).1.Idle := by
  unfold State.readDram
  extract_lets line s'
  have h' : s'.Idle := h.memAwake _
  split
  · exact h'
  · next pl _ =>
    exact (h'.meetErrors pl _ _ _).keeps (State.flagIf_keeps (List.Subset.refl _) (.refl _) _ _) rfl

/-! Persistent pages (R174 to R176, R393). -/

theorem State.Idle.copyFrame (h : s.Idle) (src dst : Nat) : (s.copyFrame src dst).Idle := by
  unfold State.copyFrame
  refine State.forEach_induction (P := State.Idle) h fun t i _ ht => ?_
  split
  · next q b q' b' _ _ =>
    have h2 : ((t.memAwake (q / 8)).memAwake (q' / 8)).Idle := (ht.memAwake _).memAwake _
    simp only
    split
    · exact h2.writeLine _ _ _ _ _
    · exact ((h2.meetErrors _ _ _ _).setWc _ _).writeLine _ _ _ _ _
  · exact ht

theorem State.Idle.stageEntry (h : s.Idle) (page : Nat) : (s.stageEntry page).Idle := by
  unfold State.stageEntry
  split
  · exact h
  · refine .ite h ?_
    extract_lets k w
    have hw : w.Idle := h.flag _
    clear_value w
    split
    · split
      · exact hw
      · next f rest _ =>
        extract_lets t r1 c
        have ht : t.Idle := h.copyFrame _ _
        exact ht.setCast _
    · exact h

theorem State.Idle.shadow (h : s.Idle) (n : TileIx) (page : Nat) (whole : Bool) : (s.shadow n page whole).1.Idle := by
  unfold State.shadow
  split
  · exact h
  · extract_lets k s1 x
    have h1 : s1.Idle := h.stageEntry page
    split
    · split
      · exact (h.flag _).failTile n
      · next f rest _ =>
        extract_lets s2 src s3 y s4
        have h2 : s2.Idle := h1.setMem _
        have h3 : s3.Idle := .ite h2 (.ite ((h2.copyFrame src f).taintTile n) (h2.copyFrame src f))
        have h4 : s4.Idle := h3.setMem _
        split
        · exact h1
        · exact h4.bump _ _
    · exact (h.flag _).failTile n

/-! Accesses (R175, R211, R217). -/

theorem State.Idle.accessGate (h : s.Idle) (a : Nat) : (s.accessGate a).Idle := h.keeps (State.accessGate_keeps (List.Subset.refl _) (.refl _) a) rfl

theorem State.Idle.unitRead1 (h : s.Idle) (n : TileIx) (committed : Bool) (a len : Nat) : (s.unitRead1 n committed a len).1.Idle := by
  unfold State.unitRead1
  extract_lets pers v sg s0 onCommitted line
  split
  · have hg : sg.Idle := h.accessGate v
    have h0 : s0.Idle := .ite (hg.taintTile n) hg
    have h1 := fun q b => h0.readDram q b len a pers
    simp only
    split
    · split
      · exact (h1 _ _).postFull _ _ _ _ _ _ _ _ _
      · exact h1 _ _
    · exact h1 _ _
  · split
    · exact h.keeps (State.larderHeal_keeps (List.Subset.refl _) (.refl _) _ _ _) rfl
    · exact h
  · exact h

theorem State.Idle.unitWrite1 (h : s.Idle) (n : TileIx) (lo hi a : Nat) (data : List Byte) (poison : Bool) : (s.unitWrite1 n lo hi a data poison).Idle := by
  unfold State.unitWrite1
  refine .ite h ?_
  extract_lets page
  have hsh : (if s.persistent a then s.shadow n page (decide (lo ≤ page * 0x10000 ∧ page * 0x10000 + 0x10000 ≤ hi)) else (s, true)).1.Idle := by
    split
    · exact h.shadow _ _ _
    · exact h
  generalize (if s.persistent a then s.shadow n page (decide (lo ≤ page * 0x10000 ∧ page * 0x10000 + 0x10000 ≤ hi)) else (s, true)) = r at hsh ⊢
  obtain ⟨s1, go⟩ := r
  refine .ite hsh ?_
  extract_lets v
  split
  · have hg : (s1.accessGate v).Idle := State.Idle.accessGate hsh v
    exact State.Idle.writeDram (.ite (hg.taintTile n) hg) _ _ _ _
  · split
    · exact hsh
    · exact hsh
  · exact hsh

/-- Reads of a unit, and a store. -/
theorem State.Idle.unitRead (h : s.Idle) (n : TileIx) (committed : Bool) (a len : Nat) : (s.unitRead n committed a len).1.Idle :=
  foldl_fst_induction (P := State.Idle) (h.keeps (State.touch_keeps (List.Subset.refl _) (.refl _) _ _ _) rfl) fun _ _ _ hp => hp.unitRead1 _ _ _ _

theorem State.Idle.engRead (h : s.Idle) (n : TileIx) (a len : Nat) : (s.engRead n a len).1.Idle := by
  have h1 := h.unitRead n false a len
  exact .ite h1 h1

theorem State.Idle.unitStore (h : s.Idle) (n : TileIx) (a : Nat) (data : List Byte) (poison : Bool) : (s.unitStore n a data poison).Idle := by
  unfold State.unitStore
  extract_lets s0 x s1
  have h0 : s0.Idle := h.keeps (State.touch_keeps (List.Subset.refl _) (.refl _) _ _ _) rfl
  have h1 : s1.Idle := .ite h0 h0
  refine State.forEach_induction (P := State.Idle) h1 fun t p _ ht => ?_
  exact (ht.unitWrite1 _ _ _ _ _ _).keeps (State.noteStash_keeps (List.Subset.refl _) (.refl _) _ _) rfl

theorem State.Idle.updateStore (h : s.Idle) (n : TileIx) (a : Nat) (data : List Byte) (poison : Bool) : (s.updateStore n a data poison).Idle := by
  unfold State.updateStore
  split
  · exact h.unitStore _ _ _ _
  · simp only
    exact .ite (State.forEach_induction (P := State.Idle) (h.bump _ _) fun t r _ ht => ht.unitStore _ _ _ _) ((h.bump _ _).unitStore _ _ _ _)

theorem State.Idle.unitWrite (h : s.Idle) (n : TileIx) (a : Nat) (data : List Byte) (poison : Bool) : (s.unitWrite n a data poison).Idle := by
  unfold State.unitWrite
  exact .ite (h.unitStore _ _ _ _) (.ite ((h.flag _).modTile _ _) ((h.modTile _ _).updateStore _ _ _ _))

end

end Sys2Proof.Machine
end

section
/-! SUPPORT. Accesses of a zoo engine while no memory interface sleeps, no granule is in host bias and no line holds an error (R174, R210 to R222,
R236, R299, R352): what they may write. -/

namespace Sys2Proof.Machine

/-- The register fields that such an access may write. -/
def zooFields : List Field := [F.MEM_STAT_UNMAPPED, F.MEM_STAT_POISON_READ, F.MEM_STASH_STAT_STASH_POISON, F.MEM_STASH_STAT_RECOMPUTES]

/-- From `s` to `t` a zoo engine accessed memory: the tiles keep all but their bytes, their marks and their flags of the step. -/
structure ZooAccess (s t : State) : Prop where
  keeps : Keeps [.regs, .period, .mem, .tiles] s t
  writes : Writes (fun g => g ∈ zooFields) s t
  units : ∀ m, (t.tile m).unitPart = (s.tile m).unitPart
  used : t.period.used = s.period.used
  blocked : t.period.outBlocked = s.period.outBlocked
  slots : t.mem.slots = s.mem.slots
  quiet : t.memQuiet

section
variable {σ s t : State}

/-! Readiness of the memory interfaces. -/

/-- A one-bit flag that is set leaves every field as it is that reads 3 where both share a register. -/
theorem State.get_flag_of_three {f g : Field} (h : s.regsOk) (hf : f.lo < 2 ∧ f.w = 1) (hg : g.lo = 0 ∧ g.w = 3) (h3 : s.get g = 3) : (s.flag f).get g = 3 := by
  obtain ⟨hlo, hw⟩ := hf
  obtain ⟨hglo, hgw⟩ := hg
  by_cases ho : f.off = g.off
  · refine Eq.trans (Nat.eq_of_testBit_eq fun i => ?_) h3
    have hbit : (s.get g).testBit f.lo = true := by
      rw [h3]
      have : f.lo = 0 ∨ f.lo = 1 := by omega
      rcases this with h | h <;> rw [h] <;> rfl
    simp only [State.get, State.flag, State.set, State.rd_wr _ _ _ _ h, if_pos ho, fieldOf_testBit, hglo, Nat.zero_add, fieldPut_getLsbD, hw] at hbit ⊢
    by_cases hi : i = f.lo
    · subst hi
      rw [hbit]
      simp only [hgw]
      have : f.lo < 3 := by omega
      have h64 : f.lo < 64 := by omega
      simp [this, h64]
    · have hne : ¬ (f.lo ≤ i ∧ i < f.lo + 1) := by omega
      rw [if_neg hne, ← ho]
      by_cases h3 : i < g.w
      · simp [h3, show i < 64 by omega]
      · simp [h3]
  · rw [State.flag, State.get_set_ne _ _ _ h (.inl (Ne.symm ho)) (by omega)]
    exact h3

/-- Quiet memory stays quiet where its interfaces stay ON. -/
theorem State.memQuiet.congr (h : s.memQuiet) (hdom : ∀ d, s.dom d = 3 → t.dom d = 3) (hpower : t.power = s.power) (hwb : t.wb = s.wb)
    (hslots : t.mem.slots = s.mem.slots) (hbias : t.mem.hostBias = s.mem.hostBias) (hlatent : t.mem.latent = s.mem.latent) : t.memQuiet := by
  obtain ⟨h1, h2, h3, h4⟩ := h
  refine ⟨fun q hq => ?_, hbias.trans h2, hlatent.trans h3, fun a => ?_⟩
  · have hr := h1 q (hslots ▸ hq)
    simp only [State.domReady, Bool.and_eq_true, beq_iff_eq] at hr ⊢
    exact ⟨hdom _ hr.1, by rw [hpower]; exact hr.2⟩
  · rw [State.persistent, State.layout_congr hwb]
    exact h4 a

/-! One rule for each update. -/

theorem ZooAccess.refl (h : s.regsOk) (hq : s.memQuiet) : ZooAccess s s := ⟨.refl s, .refl h, fun _ => rfl, rfl, rfl, rfl, hq⟩

theorem ZooAccess.trans {u : State} (h : ZooAccess s t) (k : ZooAccess t u) : ZooAccess s u :=
  ⟨h.keeps.trans k.keeps, h.writes.trans k.writes, fun m => (k.units m).trans (h.units m), k.used.trans h.used, k.blocked.trans h.blocked, k.slots.trans h.slots, k.quiet⟩

theorem ZooAccess.ite {c : Prop} [Decidable c] (hs : ZooAccess σ s) (ht : ZooAccess σ t) : ZooAccess σ (if c then s else t) := by
  split
  · exact hs
  · exact ht

/-- A flag of MEM_STAT. -/
theorem ZooAccess.flag (h : ZooAccess σ s) {f : Field} (hf : f ∈ zooFields) (hbit : f.lo < 2 ∧ f.w = 1) : ZooAccess σ (s.flag f) where
  keeps := State.flag_keeps (by decide) h.keeps f
  writes := h.writes.set f 1 hf
  units := h.units
  used := h.used
  blocked := h.blocked
  slots := h.slots
  quiet := h.quiet.congr (fun _ h3 => State.get_flag_of_three h.writes.regsOk hbit ⟨rfl, rfl⟩ h3) rfl rfl rfl rfl rfl

theorem ZooAccess.unmapped (h : ZooAccess σ s) : ZooAccess σ (s.flag F.MEM_STAT_UNMAPPED) := h.flag (by decide) (by decide)
theorem ZooAccess.poisonRead (h : ZooAccess σ s) : ZooAccess σ (s.flag F.MEM_STAT_POISON_READ) := h.flag (by decide) (by decide)

/-- A count of MEM_STASH_STAT. -/
theorem ZooAccess.bump (h : ZooAccess σ s) {f : Field} (k : Nat) (hf : f ∈ zooFields) (hbit : 3 ≤ f.lo) : ZooAccess σ (s.bump f k) where
  keeps := State.bump_keeps (by decide) h.keeps f k
  writes := h.writes.set f _ hf
  units := h.units
  used := h.used
  blocked := h.blocked
  slots := h.slots
  quiet := h.quiet.congr (fun d h3 => (State.get_set_ne f (F.PWR_DOM_STAT_STATE d) _ h.writes.regsOk (.inr (.inl hbit))
    (Nat.le_of_ble_eq_true rfl)).trans h3) rfl rfl rfl rfl rfl

/-- An update of bonded memory that leaves its map, the biases and the errors. -/
theorem ZooAccess.mem (h : ZooAccess σ s) (k : Keeps [.mem] s t) (hslots : t.mem.slots = s.mem.slots) (hbias : t.mem.hostBias = s.mem.hostBias)
    (hlatent : t.mem.latent = s.mem.latent) : ZooAccess σ t where
  keeps := h.keeps.trans ⟨k.pending, k.sent, k.memWf, k.same.mono (by decide)⟩
  writes := h.writes.of_regs (k.same.regs (by decide))
  units m := by rw [State.tile_congr (k.same.tiles (by decide))]; exact h.units m
  used := by rw [k.same.period (by decide)]; exact h.used
  blocked := by rw [k.same.period (by decide)]; exact h.blocked
  slots := hslots.trans h.slots
  quiet := h.quiet.congr (fun d h3 => (State.get_congr (k.same.regs (by decide)) _).trans h3) (k.same.power (by decide)) (k.same.wb (by decide)) hslots hbias
    hlatent

/-- An update of the bytes, the marks or the flags of a tile. -/
theorem ZooAccess.modTile (h : ZooAccess σ s) (n : TileIx) (f : TileSt → TileSt) (hu : ∀ t, (f t).unitPart = t.unitPart)
    (hwf : ∀ t : TileSt, t.wf = true → (f t).wf = true) : ZooAccess σ (s.modTile n f) where
  keeps := State.modTile_keeps (by decide) h.keeps n f hwf
  writes := h.writes.of_regs
  units m := by
    by_cases hm : n = m
    · rw [← hm, State.tile_modTile_self, hu, h.units]
    · rw [State.tile_modTile_ne _ _ _ _ hm, h.units]
  used := h.used
  blocked := h.blocked
  slots := h.slots
  quiet := h.quiet

theorem ZooAccess.taintTile (h : ZooAccess σ s) (n : TileIx) : ZooAccess σ (s.taintTile n) := h.modTile n _ (fun _ => rfl) fun _ ht => ht
theorem ZooAccess.failTile (h : ZooAccess σ s) (n : TileIx) : ZooAccess σ (s.failTile n) := h.modTile n _ (fun _ => rfl) fun _ ht => ht

theorem ZooAccess.tileWrite (h : ZooAccess σ s) (n : TileIx) (a : Nat) (data : List Byte) (poison : Bool) : ZooAccess σ (s.tileWrite n a data poison) where
  keeps := State.tileWrite_keeps (by decide) h.keeps n a data poison
  writes := h.writes.of_regs
  units m := by
    by_cases hm : n = m
    · rw [← hm, State.tileWrite, State.tile_modTile_self]
      exact h.units n
    · rw [State.tileWrite, State.tile_modTile_ne _ _ _ _ hm, h.units]
  used := h.used
  blocked := h.blocked
  slots := h.slots
  quiet := h.quiet

/-- The note of poisoned output (R363). -/
theorem ZooAccess.outPoison (h : ZooAccess σ s) (b : Bool) : ZooAccess σ { s with period := { s.period with outPoison := b } } where
  keeps := Keeps.upd (s := s) (M := [.period]) (by decide) h.keeps
  writes := h.writes.of_regs
  units := h.units
  used := h.used
  blocked := h.blocked
  slots := h.slots
  quiet := h.quiet

theorem ZooAccess.touch (h : ZooAccess σ s) (a len : Nat) (write : Bool) : ZooAccess σ (s.touch a len write) := by
  refine h.mem (State.touch_keeps (List.Subset.refl _) (.refl s) a len write) ?_ ?_ ?_ <;> unfold State.touch <;> extract_lets hit <;> split <;> rfl

theorem ZooAccess.noteStash (h : ZooAccess σ s) (a : Nat) (data : List Byte) : ZooAccess σ (s.noteStash a data) := by
  refine h.mem (State.noteStash_keeps (List.Subset.refl _) (.refl s) a data) ?_ ?_ ?_ <;> unfold State.noteStash <;> split <;> rfl

theorem ZooAccess.setWc (h : ZooAccess σ s) (k : Nat) (l : List WcEntry) : ZooAccess σ (s.setWc k l) := by
  refine h.mem (State.setWc_keeps (List.Subset.refl _) (.refl s) k l) ?_ ?_ ?_ <;> unfold State.setWc <;> split <;> rfl

theorem ZooAccess.putLine (h : ZooAccess σ s) (pl : Nat) (d : Sparse Byte) : ZooAccess σ (s.putLine pl d) :=
  h.mem (State.putLine_keeps (List.Subset.refl _) (.refl s) pl d) rfl rfl rfl

theorem ZooAccess.setPoison (h : ZooAccess σ s) (pl : Nat) (p : Bool) : ZooAccess σ (s.setPoison pl p) :=
  h.mem (State.setPoison_keeps (List.Subset.refl _) (.refl s) pl p) rfl rfl rfl

theorem ZooAccess.stashPoison (h : ZooAccess σ s) (t l : Nat) : ZooAccess σ (s.stashPoison t l) := by
  unfold State.stashPoison State.recompute
  extract_lets base first between kept others
  have h1 := h.bump (f := F.MEM_STASH_STAT_STASH_POISON) 1 (by decide) (by decide)
  refine ZooAccess.bump ?_ _ (by decide) (by decide)
  exact h1.mem (Keeps.upd (M := [.mem]) (s := s.bump F.MEM_STASH_STAT_STASH_POISON 1) (by decide) (.refl _)) rfl rfl rfl

theorem ZooAccess.larderHeal (h : ZooAccess σ s) (n : TileIx) (a len : Nat) : ZooAccess σ (s.larderHeal n a len) :=
  .ite h (State.forEach_induction h fun t e _ ht => (ht.stashPoison n.val e.1).modTile n _ (fun _ => rfl) fun x hx => by
    simp only [TileSt.wf, Bool.and_eq_true] at hx ⊢
    exact ⟨hx.1, NatSet.filter_sorted _ hx.2⟩)

/-! Lines. -/

/-- An interface that is ON need not wake. -/
theorem State.memAwake_of_ready {k : Nat} (h : s.domReady (domMem k) = true) : s.memAwake k = s := by
  unfold State.memAwake
  rw [if_neg]
  simp [State.asleep, State.dom_of_domReady h]

theorem ZooAccess.writeLine (h : ZooAccess σ s) (q line : Nat) (d : Sparse Byte) (whole poison : Bool) :
    ZooAccess σ (s.writeLine q line d whole poison) := by
  unfold State.writeLine
  split
  · exact h
  · next pl _ =>
    split
    · have herase : Sparse.erase s.mem.latent pl = s.mem.latent := by rw [h.quiet.2.2.1]; rfl
      rw [herase]
      exact (h.putLine _ _).setPoison _ _
    · rw [State.meetErrors_of_none h.quiet.2.2.1]
      exact .ite ((h.putLine _ _).setPoison _ _) (h.putLine _ _)

/-- Stack `k` has a position in use: its interface is ON. -/
def State.inUse (s : State) (k : Nat) : Prop := ∃ q ∈ s.mem.slots, q / 8 = k

theorem ZooAccess.awake (h : ZooAccess σ s) {k : Nat} (hk : σ.inUse k) : s.memAwake k = s := by
  obtain ⟨q, hq, rfl⟩ := hk
  exact State.memAwake_of_ready (h.quiet.1 q (h.slots ▸ hq))

theorem ZooAccess.flushEntry (h : ZooAccess σ s) {k : Nat} (hk : σ.inUse k) (e : WcEntry) : ZooAccess σ (s.flushEntry k e) := by
  rw [State.flushEntry, h.awake hk]
  exact h.writeLine _ _ _ _ _

theorem ZooAccess.wcMerge (h : ZooAccess σ s) {q : Nat} (hk : σ.inUse (q / 8)) (line : Nat) (d : Sparse Byte) : ZooAccess σ (s.wcMerge q line d) := by
  unfold State.wcMerge
  extract_lets k p s' l s1
  have h' : ZooAccess σ s' := by rw [show s' = s from h.awake hk]; exact h
  refine .ite ((h'.setWc _ _).writeLine _ _ _ _ _) ?_
  split
  · exact .ite ((h'.setWc _ _).flushEntry hk _) (h'.setWc _ _)
  · refine ZooAccess.setWc ?_ _ _
    unfold s1
    clear s1
    clear_value l
    cases l with
    | nil => exact h'
    | cons o rest => exact .ite ((h'.setWc _ _).flushEntry hk _) h'

theorem ZooAccess.writeDram (h : ZooAccess σ s) {q : Nat} (hk : σ.inUse (q / 8)) (byte : Nat) (data : List Byte) (poison : Bool) :
    ZooAccess σ (s.writeDram q byte data poison) := by
  unfold State.writeDram
  extract_lets line d k s0 s1 s2
  have h0 : s0 = s := h.awake hk
  have h2 : ZooAccess σ s2 := h.wcMerge hk _ _
  refine .ite ?_ (.ite ?_ h2)
  · unfold s1
    rw [h0]
    exact (h.setWc _ _).writeLine _ _ _ _ _
  · split
    · exact h2.setPoison _ _
    · exact h2

theorem ZooAccess.readDram (h : ZooAccess σ s) {q : Nat} (hk : σ.inUse (q / 8)) (byte n address : Nat) (persist : Bool) :
    ZooAccess σ (s.readDram q byte n address persist).1 := by
  unfold State.readDram
  extract_lets line s'
  have h' : ZooAccess σ s' := by rw [show s' = s from h.awake hk]; exact h
  split
  · exact h'.poisonRead
  · next pl _ =>
    rw [State.meetErrors_of_none h'.quiet.2.2.1]
    show ZooAccess σ (s'.flagIf _ _)
    unfold State.flagIf
    exact .ite h'.poisonRead h'

/-! Accesses by address. -/

/-- A module address in bonded memory lies at a position in use (R213 to R215). -/
theorem State.decodeAddr_slots {a q b : Nat} (h : s.decodeAddr a = .dram q b) : q ∈ s.mem.slots := by
  unfold State.decodeAddr at h
  split at h
  · simp only at h
    split at h
    · split at h
      · next hq => cases h; exact List.mem_of_getElem? hq
      · cases h
    · cases h
  · split at h
    · simp only at h
      split at h
      · split at h
        · next hq => cases h; exact List.mem_of_mem_filter (List.mem_of_getElem? hq)
        · cases h
      · cases h
    · simp only at h
      split at h
      · split at h <;> cases h
      · cases h

theorem State.memQuiet.view (h : s.memQuiet) (committed : Bool) (a : Nat) : s.view committed a = a := by
  rw [State.view, h.2.2.2 a]
  rfl

/-- Nothing holds an access back. -/
theorem State.memQuiet.accessGate (h : s.memQuiet) (a : Nat) : s.accessGate a = s := by
  unfold State.accessGate
  split
  · next q b hq =>
    simp [h.2.1, h.1 q (State.decodeAddr_slots hq)]
  · rfl

theorem ZooAccess.inUse (h : ZooAccess σ s) {a q b : Nat} (hq : s.decodeAddr a = .dram q b) : σ.inUse (q / 8) :=
  ⟨q, h.slots ▸ State.decodeAddr_slots hq, rfl⟩

theorem ZooAccess.unitRead1 (h : ZooAccess σ s) (n : TileIx) (a len : Nat) : ZooAccess σ (s.unitRead1 n false a len).1 := by
  unfold State.unitRead1
  rw [h.quiet.view, h.quiet.2.2.2 a]
  extract_lets pers v sg s0 onCommitted line
  split
  · next q b hq =>
    have hg : ZooAccess σ sg := by rw [show sg = s from h.quiet.accessGate v]; exact h
    have h0 : ZooAccess σ s0 := .ite (hg.taintTile n) hg
    have h1 := h0.readDram (h.inUse hq) b len a pers
    simp only [onCommitted, pers, Bool.false_and, Bool.and_false, Bool.false_eq_true, if_false]
    exact h1
  · split
    · exact h.larderHeal _ _ _
    · exact h
  · exact h.unmapped.failTile n

theorem ZooAccess.unitWrite1 (h : ZooAccess σ s) (n : TileIx) (lo hi a : Nat) (data : List Byte) (poison : Bool) :
    ZooAccess σ (s.unitWrite1 n lo hi a data poison) := by
  unfold State.unitWrite1
  refine .ite h ?_
  rw [h.quiet.2.2.2 a]
  simp only [Bool.false_eq_true, if_false, Bool.not_true]
  rw [h.quiet.view]
  split
  · next q b hq =>
    rw [h.quiet.accessGate]
    exact ZooAccess.writeDram (.ite (h.taintTile n) h) (h.inUse hq) _ _ _
  · split
    · exact h.tileWrite _ _ _ _
    · exact h
  · exact h.unmapped.failTile n

theorem ZooAccess.unitRead (h : ZooAccess σ s) (n : TileIx) (a len : Nat) : ZooAccess σ (s.unitRead n false a len).1 :=
  foldl_fst_induction (P := ZooAccess σ) (h.touch _ _ _) fun _ _ _ hp => hp.unitRead1 n _ _

theorem ZooAccess.engRead (h : ZooAccess σ s) (n : TileIx) (a len : Nat) : ZooAccess σ (s.engRead n a len).1 := by
  have h1 := h.unitRead n a len
  exact .ite (h1.taintTile n) h1

/-- A unit's write to memory without persistent pages is a store. -/
theorem State.memQuiet.unitWrite (h : s.memQuiet) (n : TileIx) (a : Nat) (data : List Byte) (poison : Bool) :
    s.unitWrite n a data poison = s.unitStore n a data poison := by
  rw [State.unitWrite, if_pos (by rw [h.2.2.2 a]; simp)]

theorem ZooAccess.unitWrite (h : ZooAccess σ s) (n : TileIx) (a : Nat) (data : List Byte) (poison : Bool) : ZooAccess σ (s.unitWrite n a data poison) := by
  rw [h.quiet.unitWrite]
  unfold State.unitStore
  extract_lets s0 x s1
  have h0 : ZooAccess σ s0 := h.touch _ _ _
  have h1 : ZooAccess σ s1 := .ite (h0.outPoison true) h0
  exact State.forEach_induction (P := ZooAccess σ) h1 fun t p _ ht => (ht.unitWrite1 n _ _ _ _ _).noteStash _ _

end

end Sys2Proof.Machine
end

section
/-! SUPPORT. O35, O36: commands of the zoo engines. How one reaches its engine (R178, R208), what an engine leaves alone, and what every step of its
work keeps. -/

namespace Sys2Proof.Machine

/-! A command at its engine. -/

/-- A command of a zoo engine: the tile that posts it and the domain of its engine. -/
structure EngineCommand (c : Instr) (d : Nat) (n : TileIx) : Prop where
  exec : ∀ s, exec c s = .next (s.issue c)
  queue : queueOf c = some (6, d)
  seq : seqOf c = some n
  scalar : scalarAsked c = none
  tries : ∀ w : Waiting, w.cmd = c → ∀ t : State, t.tryCmd w = t.tryUnit w

theorem EngineCommand.takes {s : State} {c : Instr} {d : Nat} {n : TileIx} (hc : EngineCommand c d n) (h : s.engineFree d n) : s.Takes c := by
  obtain ⟨htile, hfence, hready⟩ := h
  have heng : s.engineAt c = some (s.bindEng d) := by simp [State.engineAt, hc.queue]
  have hdoms : ∀ k ∈ s.domainsOf c, s.domReady k = true := by
    obtain ⟨-, -, -, hnoc, -, -⟩ := htile
    unfold State.domainsOf
    split
    · next k hk =>
      rw [heng] at hk
      cases hk
      simp [hready, hnoc]
    · next hk =>
      rw [heng] at hk
      cases hk
  refine ⟨htile.idle.1, htile.mayPost hc.seq, ?_, by rw [State.scalarPends, hc.scalar], State.asleepFor_eq_nil hdoms, State.cappedFor_eq_nil hdoms, hc.tries⟩
  rw [State.unitLives, heng]
  simp [htile.1, hfence, State.dom_of_domReady hready]

/-- A command of a free engine does what the engine does with it, unless an access holds it back. -/
theorem EngineCommand.exec_eq {s : State} {c : Instr} {d : Nat} {n : TileIx} (hc : EngineCommand c d n) (h : s.engineFree d n)
    (hidle : s.Idle → (s.atUnit c).Idle) (hstall : (s.atUnit c).stallReq = false) : Machine.exec c s = .next (s.atUnit c) := by
  rw [hc.exec, State.issue_eq_atUnit (hc.takes h) (hidle h.1.idle.1) hstall]

/-! The engine bound to another's work (R208). -/

theorem State.bindEng_mem {s : State} {d : Nat} (h : d ∈ engKind d) : s.bindEng d ∈ engKind d := by
  unfold State.bindEng
  extract_lets m l
  split
  · cases hl : l with
    | nil => exact h
    | cons a rest =>
      have hlt : Config.standIn d m % (a :: rest).length < (a :: rest).length := Nat.mod_lt _ (Nat.succ_pos _)
      rw [List.getD_eq_getElem _ _ hlt]
      have hmem : (a :: rest)[Config.standIn d m % (a :: rest).length] ∈ l := by rw [hl]; exact List.getElem_mem hlt
      exact List.mem_of_mem_filter hmem
  · exact h

/-- The Tally or Kiln that runs a command is the one of the bound domain. -/
theorem State.dom_engFor {s : State} {dom : Nat → Nat} (t : EngIx) (hkind : ∀ e : EngIx, engKind (dom e.val) = (List.range 8).map dom) :
    dom (s.engFor dom t).val = s.bindEng (dom t.val) := by
  have hmem : s.bindEng (dom t.val) ∈ engKind (dom t.val) := State.bindEng_mem (by rw [hkind]; exact List.mem_map.2 ⟨t.val, List.mem_range.2 t.isLt, rfl⟩)
  rw [hkind] at hmem
  obtain ⟨e, he, hdom⟩ := List.mem_map.1 hmem
  unfold State.engFor
  cases hf : (List.finRange 8).find? fun e => dom e.val == s.bindEng (dom t.val) with
  | none =>
    have hno := List.find?_eq_none.1 hf ⟨e, List.mem_range.1 he⟩ (List.mem_finRange _)
    exact absurd (by simpa using hdom) hno
  | some x => simpa using List.find?_some hf

theorem engKind_kiln (e : EngIx) : engKind (domKiln e.val) = (List.range 8).map domKiln := by
  rw [engKind, if_neg (by unfold domKiln; omega), if_neg (by unfold domKiln; omega)]

theorem engKind_tally (e : EngIx) : engKind (domTally e.val) = (List.range 8).map domTally := by
  have he : e.val < 8 := e.isLt
  rw [engKind, if_neg (by unfold domTally; omega), if_pos (by unfold domTally; omega)]

/-! What every step of an engine's work keeps. -/

/-- A property of states that reads, writes and marks of an engine's work for tile n keep. -/
structure KeptByUnit (P : State → Prop) (n : TileIx) : Prop where
  read : ∀ t a len, P t → P (t.engRead n a len).1
  write : ∀ t a data bad, P t → P (t.unitWrite n a data bad)
  mark : ∀ t b, P t → P (t.modTile n fun x => { x with poisonUsed := b })

/-- Nothing waits, and memory is in its canonical form. -/
theorem State.Idle.keptByUnit (n : TileIx) : KeptByUnit (fun t => t.Idle ∧ t.memWf = true) n where
  read t a len h := ⟨h.1.engRead n a len, (State.engRead_keeps (List.Subset.refl _) (Keeps.refl t) n a len).memWf h.2⟩
  write t a data bad h := ⟨h.1.unitWrite n a data bad, (State.unitWrite_keeps (List.Subset.refl _) (Keeps.refl t) n a data bad).memWf h.2⟩
  mark t b h := ⟨h.1, (State.modTile_keeps (L := [.tiles]) (List.Subset.refl _) (Keeps.refl t) n (fun x => { x with poisonUsed := b })
    fun _ ht => ht).memWf h.2⟩

theorem ZooAccess.keptByUnit (σ : State) (n : TileIx) : KeptByUnit (ZooAccess σ) n :=
  ⟨fun _ a len h => h.engRead n a len, fun _ a data bad h => h.unitWrite n a data bad, fun _ _ h => h.modTile n _ (fun _ => rfl) fun _ ht => ht⟩

/-! The frame of an engine. -/

theorem State.useEngine_used (s : State) (d : Nat) (n : TileIx) : (d, n.val) ∈ (s.useEngine d n).period.used := by
  unfold State.useEngine
  split
  · next h => exact List.contains_iff_mem.1 h
  · exact List.mem_cons_self

theorem State.useEngine_same (s : State) (d : Nat) (n : TileIx) : Same [.period] s (s.useEngine d n) :=
  (State.useEngine_keeps (List.Subset.refl _) (Keeps.refl s) d n).same

theorem State.useEngine_idle {s : State} (h : s.Idle) (d : Nat) (n : TileIx) : (s.useEngine d n).Idle :=
  h.keeps (State.useEngine_keeps (List.Subset.refl _) (Keeps.refl s) d n) rfl

theorem State.useEngine_memWf {s : State} (h : s.memWf = true) (d : Nat) (n : TileIx) : (s.useEngine d n).memWf = true :=
  (State.useEngine_keeps (L := [.period]) (List.Subset.refl _) (Keeps.refl s) d n).memWf h

theorem State.memQuiet.useEngine {s : State} (h : s.memQuiet) (d : Nat) (n : TileIx) : (s.useEngine d n).memQuiet := by
  have hs := s.useEngine_same d n
  have hmem := hs.mem (by decide)
  exact h.congr (fun _ h3 => (State.get_congr (hs.regs (by decide)) _).trans h3) (hs.power (by decide)) (hs.wb (by decide)) (by rw [hmem]) (by rw [hmem])
    (by rw [hmem])

/-- The fields that the end of an engine's command writes: its status register, and the counters. -/
def engineFields (o : Nat) (g : Field) : Prop := perfWin g.off ∨ g.off = o

theorem engineFields_perf {o : Nat} (g : Field) (h : perfWin g.off) : engineFields o g := .inl h

theorem engineFields_off {o : Nat} (ho : 0x600000 ≤ o) (g : Field) (h : engineFields o g) : g.off ≠ 0x50010 := by
  rcases h with h | h
  · exact Nat.ne_of_lt (Nat.lt_trans h.2 (by decide))
  · exact Nat.ne_of_gt (by omega)

theorem zooFields_off {g : Field} (h : g ∈ zooFields) : g.off = 0xC0018 ∨ g.off = 0xC0030 := by
  simp only [zooFields, List.mem_cons, List.not_mem_nil, or_false] at h
  rcases h with rfl | rfl | rfl | rfl <;> decide

/-- A register that no access of an engine writes. -/
theorem ZooAccess.get_off {s t : State} (h : ZooAccess s t) (f : Field) (h1 : f.off ≠ 0xC0018 ∧ f.off ≠ 0xC0030) (hf : f.lo + f.w ≤ 64 := by decide) :
    t.get f = s.get f :=
  h.writes.get_off f (fun _ hg ho => (zooFields_off hg).elim (fun h => h1.1 (ho.symm.trans h)) fun h => h1.2 (ho.symm.trans h)) hf

theorem ZooAccess.tileFenced {s t : State} (h : ZooAccess s t) (k : Nat) : t.tileFenced k = s.tileFenced k := by
  rw [State.tileFenced, h.get_off F.FLT_FENCE_TILE_TILES (by decide), State.tileFenced]

theorem State.tileFenced_useEngine (s : State) (d : Nat) (n : TileIx) (k : Nat) : (s.useEngine d n).tileFenced k = s.tileFenced k := by
  rw [State.tileFenced, State.get_congr ((s.useEngine_same d n).regs (by decide)), State.tileFenced]

/-- What an engine leaves alone that accesses memory and then reports. -/
theorem ZooAccess.byEngine {s u t : State} {n : TileIx} {d o : Nat} (h : ZooAccess (s.useEngine d n) u) (k : Ending (engineFields o) n u t) :
    s.byEngine n d o t := by
  have hs := s.useEngine_same d n
  have htile : ∀ m, (s.useEngine d n).tile m = s.tile m := State.tile_congr (hs.tiles (by decide))
  refine ⟨?_, fun m hm => ?_, fun m => ?_, ?_, ?_⟩
  · rw [k.keeps.same.period (by decide), h.used]
    exact s.useEngine_used d n
  · obtain ⟨hrecs, -⟩ := TileSt.held_of_unitPart (h.units m)
    rw [k.others m hm, hrecs, htile]
  · obtain ⟨-, -, hcru, hA, hB, hT, hdwq, -⟩ := TileSt.held_of_unitPart (h.units m)
    rw [htile] at hcru hA hB hT hdwq
    by_cases hm : m = n
    · subst hm
      obtain ⟨kcru, kA, kB, kT, kdwq⟩ := TileSt.units_of_held k.held
      exact ⟨kdwq.trans hdwq, kcru.trans hcru, kA.trans hA, kB.trans hB, kT.trans hT⟩
    · rw [k.others m hm]
      exact ⟨hdwq, hcru, hA, hB, hT⟩
  · intro f hf hwin hl
    rw [k.writes.frame (win := fun x => perfWin x ∨ x = o) (l := []) (fun _ hg => .inl hg) f hf hwin fun _ hg => absurd hg List.not_mem_nil,
      h.writes.get f hf fun g hg => hl g (by simp only [zooFields, List.mem_cons, List.not_mem_nil, or_false] at hg ⊢; exact hg),
      State.get_congr (hs.regs (by decide))]
  · exact ((hs.mono (by decide)).trans (h.keeps.same.mono (by decide))).trans (k.keeps.same.mono (by decide))

/-- With quiet memory no access holds a command back. -/
theorem ZooAccess.quiet_stallReq {s u t : State} {W : Field → Prop} {n : TileIx} {d : Nat} (h : ZooAccess (s.useEngine d n) u) (k : Ending W n u t)
    (hs : s.stallReq = false) : t.stallReq = false := by
  rw [k.keeps.same.stallReq (by decide), h.keeps.same.stallReq (by decide), (s.useEngine_same d n).stallReq (by decide), hs]

/-- A command that accesses nothing changes no memory. -/
theorem Ending.memory_kept {s t : State} {W : Field → Prop} {n : TileIx} {d : Nat} (k : Ending W n (s.useEngine d n) t) :
    t.mem = s.mem ∧ ∀ m, (t.tile m).mem = (s.tile m).mem := by
  have hs := s.useEngine_same d n
  have htile : ∀ m, (s.useEngine d n).tile m = s.tile m := State.tile_congr (hs.tiles (by decide))
  refine ⟨(k.keeps.same.mem (by decide)).trans (hs.mem (by decide)), fun m => ?_⟩
  by_cases hm : m = n
  · rw [hm, TileSt.mem_of_held k.held, htile]
  · rw [k.others m hm, htile]

/-- With quiet memory a command of a free engine does what its engine does. -/
theorem EngineCommand.exec_quiet {s u t : State} {c : Instr} {d e : Nat} {n : TileIx} {W : Field → Prop} (hc : EngineCommand c d n) (h : s.engineFree d n)
    (hidle : s.Idle → (s.atUnit c).Idle) (ht : s.atUnit c = t) (hu : ZooAccess (s.useEngine e n) u) (he : Ending W n u t) :
    Machine.exec c s = .next t := by
  rw [← ht]
  refine hc.exec_eq h hidle ?_
  rw [ht]
  exact hu.quiet_stallReq he h.1.idle.2

/-! How a command of an engine ends. -/

section
variable {s : State} {n : TileIx} {o : Nat}

/-- A refused command flags it and reports. -/
theorem State.refuse_report (h : s.memWf = true) (ho : 0x600000 ≤ o) {f : Field} (hoff : f.off = o) (hw : f.w = 1) (hf : f.lo + f.w ≤ 64) (summary : Bool)
    (slot : Nat) {b : Nat} (hb : b < 119) (r : BitVec 256) :
    let t := ((s.flag f).refusedSummary n summary slot).complete n b r
    Ending (engineFields o) n s t ∧ (s.tileFenced n.val = false → (t.tile n).recs = r :: (s.tile n).recs) ∧ t.get f = 1 := by
  intro t
  have hflag : Ending (engineFields o) n s (s.flag f) := (Ending.refl h).set _ 1 (.inr hoff)
  have hsum := hflag.refusedSummary summary slot
  have hrest : Ending (fun g => perfWin g.off) n (s.flag f) t :=
    ((Ending.refl (hflag.keeps.memWf h)).refusedSummary _ _).complete (fun _ hg => hg) hb _
  refine ⟨hsum.complete engineFields_perf hb _, fun hfree => hsum.recs_complete (engineFields_off ho) hfree ?_ _ _, ?_⟩
  · unfold State.refusedSummary
    split
    · rw [State.recs_putSummary, State.tile_flag]
    · rw [State.tile_flag]
  · rw [hrest.writes.get_off f (fun g hg => ?_) hf]
    · exact State.get_set f 1 (State.regsOk_of_memWf h) hf (by rw [hw]; decide)
    · have hlt := hg.2
      omega

/-- A count of 32 bits that rises, saturating. -/
theorem State.get_bump (h : s.regsOk) (f : Field) (k : Nat) (hw : f.w = 32) (hf : f.lo + f.w ≤ 64) :
    (s.bump f k).get f = min 0xFFFFFFFF (s.get f + k) := by
  have hmax : 2 ^ f.w - 1 = 0xFFFFFFFF := by
    rw [hw]
    decide
  have hlt : Nat.min 0xFFFFFFFF (s.get f + k) < 2 ^ f.w := by
    rw [hw]
    exact Nat.lt_of_le_of_lt (Nat.min_le_left _ _) (by decide)
  rw [State.bump, hmax]
  exact State.get_set f _ h hf hlt

/-- The flags of an engine's status register stand below its count of the step. -/
def flagsOf (o : Nat) (g : Field) : Prop := g.off = o ∧ g.lo + g.w ≤ 32

/-- A command that sets flags, counts its work in the upper half of the status register and reports. -/
theorem Ending.counted {u v : State} (h : Ending (flagsOf o) n s u) {f : Field} (hoff : f.off = o) (ho : 0x600000 ≤ o) (hlo : f.lo = 32) (hw : f.w = 32)
    {k : Nat} (hv : Ending (fun g => perfWin g.off) n (u.bump f k) v) {b : Nat} (hb : b < 119) (r : BitVec 256) :
    Ending (engineFields o) n s (v.complete n b r) ∧
      (s.tileFenced n.val = false → (v.tile n).recs = (u.tile n).recs → (u.tile n).recs = (s.tile n).recs →
        ((v.complete n b r).tile n).recs = r :: (s.tile n).recs) ∧
      (v.complete n b r).get f = min 0xFFFFFFFF (s.get f + k) := by
  have hf : f.lo + f.w ≤ 64 := by omega
  have hbump : Ending (engineFields o) n s (u.bump f k) := (h.mono fun _ hg => .inr hg.1).bump f k (.inr hoff)
  have hv' : Ending (engineFields o) n s v := hbump.trans (hv.mono fun _ hg => .inl hg)
  refine ⟨hv'.complete engineFields_perf hb r, fun hfree hr1 hr2 => hv'.recs_complete (engineFields_off ho) hfree (hr1.trans hr2) b r, ?_⟩
  rw [(hv.complete (fun _ hg => hg) hb r).writes.get_off f (fun g hg => ?_) hf, State.get_bump h.writes.regsOk f k hw hf,
    h.writes.get f hf fun g hg => .inr (.inr (by rw [hlo]; exact hg.2))]
  have hlt := hg.2
  omega

end

end Sys2Proof.Machine
end

section
/-! SUPPORT. O35: the Kilns (R195 to R198). -/

namespace Sys2Proof.Machine

/-! The parts of a Kiln command. -/

/-- The bytes that a Kiln command reads. -/
def State.kilnRead (s : State) (n : TileIx) (d : BitVec 256) : State × List Byte × Bool := s.engRead n (kSrcBase d) (elemBytes (kSrc d) * kCount d)

/-- What the elements of a Kiln command give. -/
def State.kilnOut (s : State) (n : TileIx) (op : Nat) (d : BitVec 256) : List KOut :=
  (chunksOf (elemBytes (kSrc d)) (kCount d) (s.kilnRead n d).2.1).zipIdx.map fun e =>
    kElem op d (if rndMode (kRnd d) == 2 then srDraw s.stepNo (kTag d % 2 ^ 24) e.2 else 0) (leNat e.1)

/-- The bytes of a Kiln command's results. -/
def kilnBytes (d : BitVec 256) (out : List KOut) : List Byte := (out.map fun o => leBytes (elemBytes (kDst d)) o.elem.code).flatten

/-- A Kiln command has written its results. -/
def State.kilnDone (s : State) (n : TileIx) (op : Nat) (d : BitVec 256) : State :=
  (s.kilnRead n d).1.unitWrite n (kDstBase d) (kilnBytes d (s.kilnOut n op d)) (s.kilnRead n d).2.2

/-- A Kiln command after its results: flags, counts, summary and record (R198). -/
def State.kilnEnd (s : State) (k : EngIx) (n : TileIx) (d : BitVec 256) (out : List KOut) : State :=
  let cnt := out.foldl (fun (c : Cnt) o => c.elem o.elem) Cnt.zero
  let dom := (out.filter (fun o => o.domain)).length
  let s3 := ((s.flagIf (dom != 0) (F.ENG_KIL_STAT_DOMAIN k.val)).flagIf (cnt.nonfin != 0) (F.ENG_KIL_STAT_NONFIN k.val)).flagIf (cnt.sat != 0)
    (F.ENG_KIL_STAT_SAT k.val)
  let s4 := s3.bump (F.ENG_KIL_STAT_ELEMS_STEP k.val) (kCount d)
  let s5 := if kSummary d then
      s4.putSummary n (kSumSlot d) (summaryOf false (.floats [out.map (fun o => o.pre)]) (summaryFlags cnt false false false false)) else s4
  ((((s5.perfEvent (domKiln k.val) 0x2C (kCount d)).perfEvent (domKiln k.val) 0x2D dom).sticky n cnt.nonfin (dom != 0)).complete n (domKiln k.val)
    (recordBits (kTag d + sat32 (kCount d) * 2 ^ 32 + sat32 dom * 2 ^ 64) (numStatus cnt stOk)))

section
variable {s : State} {k : EngIx} {n : TileIx} {op : Nat} {d : BitVec 256}

/-- A Kiln command that is not refused reads its elements, writes their results and ends. -/
theorem State.opKiln_eq (h : kRefused op d = false) : s.opKiln k n op d = (s.kilnDone n op d).kilnEnd k n d (s.kilnOut n op d) := by
  unfold State.opKiln
  rw [if_neg (by simp [h])]
  rfl

theorem State.opKiln_refused (h : kRefused op d = true) : s.opKiln k n op d = s.kRefuse k n d := by
  unfold State.opKiln
  rw [if_pos h]

/-! The end of a Kiln command. -/

/-- The status register of Kiln k. -/
def kilnReg (k : EngIx) : Nat := 0x618000 + k.val * 0x1000

theorem kilnReg_ge (k : EngIx) : 0x600000 ≤ kilnReg k := Nat.le_trans (by decide) (Nat.le_add_right 0x618000 _)

theorem domKiln_lt (k : EngIx) : domKiln k.val < 119 := Nat.lt_of_lt_of_le (Nat.add_lt_add_left k.isLt 88) (by decide)

theorem kTag_lt (d : BitVec 256) : kTag d < 2 ^ 32 := dfld_lt d 0 31 0

/-- A refused Kiln command only reports. -/
theorem State.kRefuse_report (h : s.memWf = true) :
    Ending (engineFields (kilnReg k)) n s (s.kRefuse k n d) ∧
      (s.tileFenced n.val = false →
        ((s.kRefuse k n d).tile n).recs = recordBits (kTag d) (numStatus Cnt.zero stLayout) :: (s.tile n).recs) ∧
      (s.kRefuse k n d).get (F.ENG_KIL_STAT_REFUSED k.val) = 1 :=
  State.refuse_report h (kilnReg_ge k) rfl rfl (by simp [F.ENG_KIL_STAT_REFUSED]) _ _ (domKiln_lt k) _

/-- The end of a Kiln command (R198): its record, and the elements of the step. -/
theorem State.kilnEnd_report (h : s.memWf = true) (out : List KOut) :
    Ending (engineFields (kilnReg k)) n s (s.kilnEnd k n d out) ∧
      (s.tileFenced n.val = false → ∃ (x : Nat) (cnt : Cnt), ((s.kilnEnd k n d out).tile n).recs =
        recordBits (kTag d + sat32 (kCount d) * 2 ^ 32 + x * 2 ^ 64) (numStatus cnt stOk) :: (s.tile n).recs) ∧
      (s.kilnEnd k n d out).get (F.ENG_KIL_STAT_ELEMS_STEP k.val) = min 0xFFFFFFFF (s.get (F.ENG_KIL_STAT_ELEMS_STEP k.val) + kCount d) := by
  unfold State.kilnEnd
  extract_lets cnt dom s3 s4 s5
  have hk := domKiln_lt k
  have h3 : Ending (flagsOf (kilnReg k)) n s s3 :=
    (((Ending.refl h).flagIf _ _ ⟨rfl, by simp [F.ENG_KIL_STAT_DOMAIN]⟩).flagIf _ _ ⟨rfl, by simp [F.ENG_KIL_STAT_NONFIN]⟩).flagIf _ _
      ⟨rfl, by simp [F.ENG_KIL_STAT_SAT]⟩
  have hwf4 : s4.memWf = true := ((h3.mono fun _ _ => trivial).bump (W := fun _ => True) _ _ trivial).keeps.memWf h
  have h5 : Ending (fun g => perfWin g.off) n s4 s5 := .ite ((Ending.refl hwf4).putSummary _ _) (.refl hwf4)
  have hrest := ((h5.perfEvent (fun _ hg => hg) hk 0x2C (kCount d)).perfEvent (fun _ hg => hg) hk 0x2D dom).sticky cnt.nonfin (dom != 0)
  obtain ⟨he, hrecs, helems⟩ := h3.counted (f := F.ENG_KIL_STAT_ELEMS_STEP k.val) rfl (kilnReg_ge k) rfl rfl hrest hk
    (recordBits (kTag d + sat32 (kCount d) * 2 ^ 32 + sat32 dom * 2 ^ 64) (numStatus cnt stOk))
  refine ⟨he, fun hfree => ⟨sat32 dom, cnt, hrecs hfree ?_ (by simp [s3, State.tile_flagIf])⟩, helems⟩
  rw [State.recs_sticky, State.tile_perfEvent, State.tile_perfEvent]
  unfold s5
  split
  · rw [State.recs_putSummary, State.tile_bump]
  · rw [State.tile_bump]

end

end Sys2Proof.Machine
end

section
/-! SUPPORT. O35: a Kiln command at its engine, and one element between tile memories (R195, R196, R213). -/

namespace Sys2Proof.Machine

theorem kilnOf_cases {c : Instr} {k : EngIx} {n : TileIx} {op : Nat} {d : BitVec 256} (h : kilnOf c = some (k, n, op, d)) :
    (c = .exp k n d ∧ op = kExpOp) ∨ (c = .log k n d ∧ op = kLogOp) ∨ (c = .recip k n d ∧ op = kRecipOp) ∨ (c = .rsqrt k n d ∧ op = kRsqrtOp) ∨
      (c = .tanh k n d ∧ op = kTanhOp) ∨ (c = .sigmoid k n d ∧ op = kSigmoidOp) := by
  unfold kilnOf at h
  split at h <;> cases h <;> simp

/-- A Kiln command goes to its Kiln. -/
theorem kilnCommand {c : Instr} {k : EngIx} {n : TileIx} {op : Nat} {d : BitVec 256} (h : kilnOf c = some (k, n, op, d)) :
    EngineCommand c (domKiln k.val) n ∧ ∀ s : State, s.atUnit c = s.atKiln k n op d := by
  rcases kilnOf_cases h with ⟨rfl, rfl⟩ | ⟨rfl, rfl⟩ | ⟨rfl, rfl⟩ | ⟨rfl, rfl⟩ | ⟨rfl, rfl⟩ | ⟨rfl, rfl⟩ <;>
    refine ⟨⟨fun _ => rfl, rfl, rfl, rfl, fun w hw t => ?_⟩, fun _ => rfl⟩ <;>
    rw [State.tryCmd, hw]

section
variable {s : State} {n : TileIx} {op : Nat} {d : BitVec 256}

/-- What every step of a unit's work keeps, a Kiln command keeps up to its end. -/
theorem KeptByUnit.kilnDone {P : State → Prop} (hP : KeptByUnit P n) (h : P s) : P (s.kilnDone n op d) := hP.write _ _ _ _ (hP.read _ _ _ h)

/-- A Kiln command holds nothing back but itself. -/
theorem State.Idle.opKiln (h : s.Idle) (hwf : s.memWf = true) (k : EngIx) (n : TileIx) (op : Nat) (d : BitVec 256) : (s.opKiln k n op d).Idle := by
  cases hr : kRefused op d with
  | true =>
    rw [State.opKiln_refused hr]
    exact h.keeps (State.kRefuse_report hwf).1.keeps rfl
  | false =>
    rw [State.opKiln_eq hr]
    obtain ⟨hidle, hmem⟩ := (State.Idle.keptByUnit n).kilnDone (d := d) (op := op) ⟨h, hwf⟩
    exact State.Idle.keeps hidle (State.kilnEnd_report hmem _).1.keeps rfl

end

/-! One element in tile memory. -/

theorem linePieces_single {a len : Nat} (h0 : 0 < len) (hfit : a % 512 + len ≤ 512) : linePieces a len = [(a, len)] := by
  have hmin : Nat.min len (512 - a % 512) = len := Nat.min_eq_left (by omega)
  rw [linePieces, show len / 512 + 2 = (len / 512 + 1) + 1 from rfl, pieces, if_neg (Nat.ne_of_gt h0)]
  simp only [hmin, Nat.sub_self]
  rfl

theorem State.decodeAddr_tileAddr (s : State) (m : TileIx) {a : Nat} (ha : a < tileBytes) : s.decodeAddr (tileAddr m.val a) = .tile m.val a := by
  have hm := m.isLt
  have ha' : a < 0x600000 := ha
  have h1 : (tileAddr m.val a - 0xC000000000) / 0x1000000 = m.val := by unfold tileAddr; omega
  have h2 : (tileAddr m.val a - 0xC000000000) % 0x1000000 = a := by unfold tileAddr; omega
  unfold State.decodeAddr
  rw [if_neg (by unfold tileAddr; omega), if_neg (by unfold tileAddr; omega), if_pos (by unfold tileAddr; omega), h1, h2]
  exact if_pos ha'

theorem allTiles_find (m : TileIx) : allTiles.find? (fun t => t.val == m.val) = some m := by
  cases hf : allTiles.find? fun t => t.val == m.val with
  | none => exact absurd (by simp) (List.find?_eq_none.1 hf m (List.mem_finRange _))
  | some x => exact congrArg some (Fin.ext (by simpa using List.find?_some hf))

section
variable {s : State}

/-- A zoo engine reads bytes of one line of a tile's memory as they stand. -/
theorem State.engRead_tile (h : s.memWf = true) (hq : s.memQuiet) (n m : TileIx) {a len : Nat} (ha : a < tileBytes) (h0 : 0 < len)
    (hfit : tileAddr m.val a % 512 + len ≤ 512) : (s.engRead n (tileAddr m.val a) len).2.1 = (s.tileRead m a len).1 := by
  have ht : TileAccess m (fun _ => False) s (s.touch (tileAddr m.val a) len false) := .touch h _ _ _
  have hl := ht.trans (.larderHeal ht.memWf a len)
  have hqt : (s.touch (tileAddr m.val a) len false).memQuiet := ((ZooAccess.refl (State.regsOk_of_memWf h) hq).touch _ _ _).quiet
  have hread : (s.engRead n (tileAddr m.val a) len).2.1 =
      [] ++ ((s.touch (tileAddr m.val a) len false).unitRead1 n false (tileAddr m.val a) len).2.1 := by
    simp only [State.engRead, State.unitRead, linePieces_single h0 hfit, List.foldl_cons, List.foldl_nil]
  rw [hread, List.nil_append, ← hl.tileRead (fun _ _ => id)]
  simp only [State.unitRead1, hqt.view, State.decodeAddr_tileAddr _ m ha, allTiles_find]

/-- A unit's write of bytes of one line of a tile's memory. -/
theorem State.tileByte_unitWrite (h : s.memWf = true) (hq : s.memQuiet) (hb : s.period.outBlocked = false) (n m : TileIx) {a : Nat} {data : List Byte}
    (ha : a < tileBytes) (hfit : tileAddr m.val a % 512 + data.length ≤ 512) (poison : Bool) {i : Nat} (hi : i < data.length) :
    (s.unitWrite n (tileAddr m.val a) data poison).tileByte m (a + i) = data.getD i 0 := by
  have hz := ZooAccess.refl (State.regsOk_of_memWf h) hq
  rw [hq.unitWrite]
  unfold State.unitStore
  extract_lets s0 x s1
  have h0 : ZooAccess s s0 := hz.touch _ _ _
  have h1 : ZooAccess s s1 := .ite (h0.outPoison true) h0
  have hone : linePieces (tileAddr m.val a) data.length = [(tileAddr m.val a, data.length)] := linePieces_single (by omega) hfit
  rw [hone]
  simp only [List.foldl_cons, List.foldl_nil, Nat.sub_self, List.drop_zero, List.take_length]
  have hw : s1.unitWrite1 n (tileAddr m.val a) (tileAddr m.val a + data.length) (tileAddr m.val a) data poison = s1.tileWrite m a data poison := by
    have hview := h1.quiet.view false (tileAddr m.val a)
    simp only [State.unitWrite1, h1.blocked, hb, h1.quiet.2.2.2, hview, State.decodeAddr_tileAddr _ m ha, allTiles_find, Bool.false_and, Bool.false_eq_true,
      if_false, Bool.not_true]
  rw [hw]
  have hnote : ∀ t : State, (t.noteStash (tileAddr m.val a) data).tileByte m (a + i) = t.tileByte m (a + i) := by
    intro t
    have hs := (State.noteStash_keeps (List.Subset.refl _) (Keeps.refl t) (tileAddr m.val a) data).same
    rw [State.tileByte, State.tile_congr (hs.tiles (by decide)), hs.free (by decide), State.tileByte]
  rw [hnote]
  exact State.tileByte_tileWrite (h1.keeps.memWf h) a data poison hi

end

/-! What a Kiln command leaves. -/

section
variable {s : State} {k : EngIx} {n : TileIx} {op : Nat} {d : BitVec 256}

/-- COUNT of a Kiln command's record (R198). -/
theorem count_recordBits {tag x k : Nat} (htag : tag < 2 ^ 32) (num : Nat) :
    recField (recordBits (tag + sat32 k * 2 ^ 32 + x * 2 ^ 64) num) 63 32 = sat32 k := by
  have hk := sat32_lt k
  rw [recField_recordBits_low _ _ 32 (by decide)]
  omega

/-- With quiet memory a Kiln command accesses memory and reports. -/
theorem State.opKiln_post (hwf : s.memWf = true) (hq : s.memQuiet) (hfree : s.tileFenced n.val = false) :
    let t := s.opKiln k n op d
    (∃ u, ZooAccess s u ∧ Ending (engineFields (kilnReg k)) n u t ∧ (kRefused op d = true → u = s)) ∧
      (∃ r, (t.tile n).recs = r :: (s.tile n).recs ∧ recTag r = kTag d ∧ recStatus r = (if kRefused op d then stLayout else stOk) ∧
        (kRefused op d = false → recField r 63 32 = min 0xFFFFFFFF (kCount d))) ∧
      (kRefused op d = true → t.get (F.ENG_KIL_STAT_REFUSED k.val) = 1) ∧
      (kRefused op d = false → t.get (F.ENG_KIL_STAT_ELEMS_STEP k.val) = min 0xFFFFFFFF (s.get (F.ENG_KIL_STAT_ELEMS_STEP k.val) + kCount d)) := by
  intro t
  have hz := ZooAccess.refl (State.regsOk_of_memWf hwf) hq
  cases hr : kRefused op d with
  | true =>
    have ht : t = s.kRefuse k n d := State.opKiln_refused hr
    obtain ⟨he, hrecs, hreg⟩ := State.kRefuse_report (k := k) (n := n) (d := d) hwf
    rw [ht]
    refine ⟨⟨s, hz, he, fun _ => rfl⟩, ⟨_, hrecs hfree, recTag_low (x := 0) (kTag_lt d) (by omega) _, recStatus_recordBits _ _ (by decide),
      fun h => absurd h (by decide)⟩, fun _ => hreg, fun h => absurd h (by decide)⟩
  | false =>
    have hu : ZooAccess s (s.kilnDone n op d) := (ZooAccess.keptByUnit s n).kilnDone hz
    have hk : t = (s.kilnDone n op d).kilnEnd k n d (s.kilnOut n op d) := State.opKiln_eq hr
    obtain ⟨he, hrecs, hreg⟩ := State.kilnEnd_report (k := k) (n := n) (d := d) (hu.keeps.memWf hwf) (s.kilnOut n op d)
    obtain ⟨x, cnt, hrec⟩ := hrecs ((hu.tileFenced n.val).trans hfree)
    obtain ⟨hurecs, -⟩ := TileSt.held_of_unitPart (hu.units n)
    have hget := hu.get_off (F.ENG_KIL_STAT_ELEMS_STEP k.val) (by simp only [F.ENG_KIL_STAT_ELEMS_STEP]; omega) (by simp [F.ENG_KIL_STAT_ELEMS_STEP])
    rw [hurecs] at hrec
    rw [hget] at hreg
    rw [hk]
    exact ⟨⟨_, hu, he, fun h => absurd h (by decide)⟩, ⟨_, hrec, recTag_low (x := sat32 (kCount d) + x * 2 ^ 32) (kTag_lt d) (by omega) _,
      recStatus_recordBits _ _ (by decide), fun _ => count_recordBits (kTag_lt d) _⟩, fun h => absurd h (by decide), fun _ => hreg⟩

/-- The sources and destinations of a Kiln command lie on multiples of their elements, of 2 or 4 bytes (R198). -/
theorem kilnAligned (h : kRefused op d = false) :
    (elemBytes (kSrc d) = 2 ∨ elemBytes (kSrc d) = 4) ∧ kSrcBase d % elemBytes (kSrc d) = 0 ∧ (elemBytes (kDst d) = 2 ∨ elemBytes (kDst d) = 4) ∧
      kDstBase d % elemBytes (kDst d) = 0 := by
  have hwide : ∀ f, wideFloat f = true → elemBytes f = 2 ∨ elemBytes f = 4 := by
    intro f hf
    simp only [wideFloat, Bool.or_eq_true, beq_iff_eq] at hf
    rcases hf with (rfl | rfl) | rfl <;> decide
  simp only [kRefused, Bool.or_eq_false_iff, Bool.not_eq_false', bne_eq_false_iff_eq] at h
  obtain ⟨⟨⟨⟨⟨⟨⟨-, hsrc⟩, hdst⟩, -⟩, -⟩, hsb⟩, hdb⟩, -⟩ := h
  have hs := hwide _ hsrc
  have ht := hwide _ hdst
  refine ⟨hs, ?_, ht, ?_⟩
  · rwa [show Nat.max 1 (elemBytes (kSrc d)) = elemBytes (kSrc d) from Nat.max_eq_right (by omega)] at hsb
  · rwa [show Nat.max 1 (elemBytes (kDst d)) = elemBytes (kDst d) from Nat.max_eq_right (by omega)] at hdb

theorem chunksOf_single {α : Type} {w : Nat} {l : List α} (hl : l.length = w) (hw : 0 < w) : chunksOf w 1 l = [l] := by
  have hne : l.isEmpty = false := by
    cases l with
    | nil => simp only [List.length_nil] at hl; omega
    | cons _ _ => rfl
  rw [chunksOf, hne, List.take_of_length_le (Nat.le_of_eq hl)]
  rfl

/-- One element between tile memories becomes the code of R195 and R196. -/
theorem State.opKiln_single (hwf : s.memWf = true) (hq : s.memQuiet) (hb : s.period.outBlocked = false) (hr : kRefused op d = false) (hcount : kCount d = 1)
    {m m' : TileIx} {a a' : Nat} (hsrc : kSrcBase d = tileAddr m.val a) (hdst : kDstBase d = tileAddr m'.val a') (ha : a + 4 ≤ tileBytes)
    (ha' : a' + 4 ≤ tileBytes) {i : Nat} (hi : i < elemBytes (kDst d)) :
    let x := leNat (s.tileRead m a (elemBytes (kSrc d))).1
    let u := if rndMode (kRnd d) == 2 then srDraw s.stepNo (kTag d % 2 ^ 24) 0 else 0
    (s.opKiln k n op d).tileByte m' (a' + i) = (leBytes (elemBytes (kDst d)) (kElem op d u x).elem.code).getD i 0 := by
  intro x u
  obtain ⟨hsw, hsa, hdw, hda⟩ := kilnAligned hr
  have hsfit : tileAddr m.val a % 512 + elemBytes (kSrc d) ≤ 512 := by
    rw [hsrc] at hsa
    rcases hsw with h | h <;> rw [h] at hsa ⊢ <;> omega
  have hdfit : tileAddr m'.val a' % 512 + elemBytes (kDst d) ≤ 512 := by
    rw [hdst] at hda
    rcases hdw with h | h <;> rw [h] at hda ⊢ <;> omega
  have hread : s.kilnRead n d = s.engRead n (tileAddr m.val a) (elemBytes (kSrc d)) := by rw [State.kilnRead, hcount, Nat.mul_one, hsrc]
  have hz : ZooAccess s (s.kilnRead n d).1 := (ZooAccess.refl (State.regsOk_of_memWf hwf) hq).engRead _ _ _
  have hdata : (s.kilnRead n d).2.1 = (s.tileRead m a (elemBytes (kSrc d))).1 := by
    rw [hread]
    exact State.engRead_tile hwf hq n m (by omega) (by omega) hsfit
  have hout : s.kilnOut n op d = [kElem op d u x] := by
    rw [State.kilnOut, hcount, hdata, chunksOf_single (by simp [State.tileRead]) (by omega)]
    rfl
  have hbytes : kilnBytes d [kElem op d u x] = leBytes (elemBytes (kDst d)) (kElem op d u x).elem.code := by
    simp [kilnBytes]
  have hu : ZooAccess s (s.kilnDone n op d) := (ZooAccess.keptByUnit s n).kilnDone (ZooAccess.refl (State.regsOk_of_memWf hwf) hq)
  rw [State.opKiln_eq hr, (State.kilnEnd_report (hu.keeps.memWf hwf) _).1.tileByte m' (a' + i), State.kilnDone, hout, hbytes, hdst]
  exact State.tileByte_unitWrite (hz.keeps.memWf hwf) hz.quiet (hz.blocked.trans hb) n m' (by omega) (by rwa [leBytes_length]) _ (by rwa [leBytes_length])

end

/-- Settles O35: the Kiln's accesses are `ZooAccess` with quiet memory (`State.opKiln_post`), no access holds a waiting command back
(`State.Idle.opKiln`), and one element is followed through tile memory (`State.opKiln_single`). -/
theorem kilnCommandsComplete : Obligations.KilnCommandsComplete := by
  intro c k n op d s hc hwf hfree
  obtain ⟨hcmd, hat⟩ := kilnCommand hc
  set s' := s.useEngine (s.bindEng (domKiln k.val)) n with hs'
  have hwf' : s'.memWf = true := State.useEngine_memWf hwf _ _
  have hsame : Same [.period] s s' := s.useEngine_same _ _
  have hatk : s.atUnit c = s'.opKiln (s.engFor domKiln k) n op d := hat s
  have hidle : s.Idle → (s.atUnit c).Idle := fun h => by
    rw [hatk]
    exact State.Idle.opKiln (State.useEngine_idle h _ _) hwf' _ _ _ _
  refine ⟨hcmd.exec_eq hfree hidle, fun hq => ?_⟩
  have hq' : s'.memQuiet := hq.useEngine _ _
  obtain ⟨⟨u, hu, he, hsame_of_refused⟩, ⟨r, hrecs, htag, hst, hcount⟩, hrefused, helems⟩ :=
    State.opKiln_post (k := s.engFor domKiln k) (n := n) (op := op) (d := d) hwf' hq' ((s.tileFenced_useEngine _ _ _).trans hfree.1.2.1)
  have hexec := hcmd.exec_quiet hfree hidle hatk hu he
  refine ⟨⟨_, hexec, ⟨r, ?_, htag, hst, hcount⟩, fun hr => ?_, fun hr => ?_, ?_⟩, fun m m' a a' hb hr h1 hsrc hdst ha ha' => ⟨_, hexec, fun i hi => ?_⟩⟩
  · rw [hrecs, State.tile_congr (hsame.tiles (by decide))]
  · obtain rfl := hsame_of_refused hr
    exact ⟨he.memory_kept.1, he.memory_kept.2, hrefused hr⟩
  · rw [helems hr, State.get_congr (hsame.regs (by decide))]
  · have hby := hu.byEngine he
    rwa [← State.dom_engFor k engKind_kiln] at hby
  · have hread : (s'.tileRead m a (elemBytes (kSrc d))).1 = (s.tileRead m a (elemBytes (kSrc d))).1 := by
      simp only [State.tileRead, State.tileByte, State.tile_congr (hsame.tiles (by decide)), hsame.free (by decide)]
    have hstep : s'.stepNo = s.stepNo := by rw [State.stepNo, State.get_congr (hsame.regs (by decide)), State.stepNo]
    have hblocked : s'.period.outBlocked = false := by
      rw [hs', State.useEngine]
      split
      · exact hb
      · exact hb
    rw [State.opKiln_single hwf' hq' hblocked hr h1 hsrc hdst ha ha' hi, hread, hstep]

end Sys2Proof.Machine
end

section
/-! SUPPORT. O36: what a segment gives (R189, R190, R192). -/

namespace Sys2Proof.Machine

section
variable {int neg : Bool} {xs ys : List TVal}

theorem tReduce_count : tReduce tCount int neg xs ys = ([.int xs.length], 0) := rfl

theorem tReduce_max_nil : tReduce tMax int neg [] ys = ([if neg then (if int then .int (-2147483648) else .flt (inf32 true)) else tZero int], 0) := rfl

theorem tReduce_max_cons (x : TVal) (rest : List TVal) : tReduce tMax int neg (x :: rest) ys = ([rest.foldl tMore x], 0) := rfl

theorem tReduce_sum : tReduce tSum int neg xs ys = ([(tTotal int xs).1], (tTotal int xs).2) := rfl

theorem tReduce_mean : tReduce tMean int neg xs ys = ([tDivide (tTotal int xs).1 xs.length], (tTotal int xs).2) := rfl

theorem tReduce_dot : (tReduce tDot int neg xs ys).1 = [(tTotal int ((xs.zip ys).map fun p => (tMul p.1 p.2).1)).1] := by
  have hmap : ((xs.zip ys).map fun p => tMul p.1 p.2).map (fun p => p.1) = (xs.zip ys).map fun p => (tMul p.1 p.2).1 := by
    rw [List.map_map]
    rfl
  rw [← hmap]
  rfl

end

/-! The maximum of integers. -/

theorem foldl_tMore_int (l : List Int) (x : Int) :
    ∃ m : Int, (l.map TVal.int).foldl tMore (.int x) = .int m ∧ (m = x ∨ m ∈ l) ∧ x ≤ m ∧ ∀ y ∈ l, y ≤ m := by
  induction l generalizing x with
  | nil => exact ⟨x, rfl, .inl rfl, le_refl x, fun _ h => absurd h List.not_mem_nil⟩
  | cons a l ih =>
    obtain ⟨m, hm, hmem, hle, hall⟩ := ih (if x < a then a else x)
    have hxa : x ≤ m ∧ a ≤ m := by
      split at hle <;> omega
    refine ⟨m, hm, ?_, hxa.1, fun y hy => ?_⟩
    · rcases hmem with h | h
      · split at h
        · exact .inr (h ▸ List.mem_cons_self)
        · exact .inl h
      · exact .inr (List.mem_cons_of_mem _ h)
    · rcases List.mem_cons.1 hy with rfl | h
      · exact hxa.2
      · exact hall y h

/-- MAX of a segment of integers is their maximum (R190). -/
theorem tReduce_max_ints {neg : Bool} {ys : List TVal} {l : List Int} (h : l ≠ []) :
    ∃ m, tReduce tMax true neg (l.map TVal.int) ys = ([.int m], 0) ∧ m ∈ l ∧ ∀ x ∈ l, x ≤ m := by
  cases l with
  | nil => exact absurd rfl h
  | cons a l =>
    obtain ⟨m, hm, hmem, hle, hall⟩ := foldl_tMore_int l a
    refine ⟨m, by rw [List.map_cons, tReduce_max_cons, hm], List.mem_cons.2 hmem, fun x hx => ?_⟩
    rcases List.mem_cons.1 hx with rfl | h
    · exact hle
    · exact hall x h

/-! Sums of integers. -/

/-- An integer in the range of INT32 does not saturate. -/
theorem satInt_of_range {v : Int} (h : -2147483648 ≤ v ∧ v ≤ 2147483647) : int32 (satInt v).1 = v ∧ (satInt v).2 = false := by
  have hsat : satInt v = (BitVec.ofInt 32 v, false) := by
    rw [satInt, if_neg (by omega), if_neg (by omega)]
  rw [hsat]
  refine ⟨?_, rfl⟩
  have hnat : (BitVec.ofInt 32 v).toNat = (v % 4294967296).toNat := by
    rw [BitVec.toNat_ofInt]
    rfl
  simp only [int32, toSigned, hnat]
  split <;> omega

theorem tAdd_int {a b : Int} (k : Nat) (h : -2147483648 ≤ a + b ∧ a + b ≤ 2147483647) : tAdd (.int a, k) (.int b) = (.int (a + b), k) := by
  obtain ⟨hv, hs⟩ := satInt_of_range h
  simp [tAdd, hv, hs, b2n]

theorem foldl_tAdd_int (l : List Int) (a : Int) (h : ∀ k ≤ l.length, -2147483648 ≤ a + (l.take k).sum ∧ a + (l.take k).sum ≤ 2147483647) :
    (l.map TVal.int).foldl tAdd (.int a, 0) = (.int (a + l.sum), 0) := by
  induction l generalizing a with
  | nil => simp
  | cons b l ih =>
    have hab : -2147483648 ≤ a + b ∧ a + b ≤ 2147483647 := by simpa using h 1 (by simp)
    rw [List.map_cons, List.foldl_cons, tAdd_int 0 hab, ih (a + b) fun k hk => ?_, List.sum_cons, add_assoc]
    have hk1 := h (k + 1) (by simpa using hk)
    rwa [List.take_succ_cons, List.sum_cons, ← add_assoc] at hk1

/-- SUM of a segment of integers whose partial sums stay in the range of INT32 is their sum (R190). -/
theorem tReduce_sum_ints {neg : Bool} {ys : List TVal} {l : List Int}
    (h : ∀ k ≤ l.length, -2147483648 ≤ (l.take k).sum ∧ (l.take k).sum ≤ 2147483647) :
    tReduce tSum true neg (l.map TVal.int) ys = ([.int l.sum], 0) := by
  have hfold := foldl_tAdd_int l 0 fun k hk => by simpa using h k hk
  rw [tReduce_sum, tTotal, show tZero true = .int 0 from rfl, hfold]
  simp

end Sys2Proof.Machine
end

section
/-! SUPPORT. O36: the Tallies (R189 to R194). -/

namespace Sys2Proof.Machine

/-! The accesses of a Tally command. -/

section
variable {P : State → Prop} {n : TileIx} {s : State}

theorem KeptByUnit.engInts (hP : KeptByUnit P n) (h : P s) (a count : Nat) : P (s.engInts n a count).1 := hP.read s _ _ h

theorem KeptByUnit.tSegments (hP : KeptByUnit P n) (h : P s) (d : BitVec 512) : P (s.tSegments n d).1 := by
  unfold State.tSegments
  split
  · exact h
  · exact hP.engInts h (tOff d) (tSegs d + 1)

theorem KeptByUnit.tRow (hP : KeptByUnit P n) (h : P s) (base f cols r : Nat) : P (s.tRow n base f cols r).1 := hP.read s _ _ h

theorem KeptByUnit.tXrow (hP : KeptByUnit P n) (h : P s) (d : BitVec 512) (r : Nat) : P (s.tXrow n d r).1 := by
  unfold State.tXrow
  split
  · exact State.readTensor_induction (fun t a k ht => hP.read t a k ht) h _ _ _
  · exact hP.tRow h _ _ _ _

theorem KeptByUnit.tRows {get : State → Nat → State × List TVal} (hget : ∀ t r, P t → P (get t r).1) (h : P s) (l : List Nat) :
    P (s.tRows get l).1 := by
  refine foldl_fst_induction (P := P) h fun p r _ hp => ?_
  split
  · exact hp
  · exact hget _ _ hp

theorem KeptByUnit.tColumns (hP : KeptByUnit P n) (h : P s) (d : BitVec 512) (rows : List Nat) (x y : Sparse (List TVal)) :
    P (s.tColumns n d rows x y) :=
  hP.write _ _ _ _ (hP.write _ _ _ _ (hP.read _ _ _ (hP.read _ _ _ h)))

theorem KeptByUnit.taintTile (hP : KeptByUnit P n) (h : P s) : P (s.taintTile n) := hP.mark s true h

end

section
variable {P : State → Prop} {n : TileIx} {s : State}

theorem KeptByUnit.elements (hP : KeptByUnit P n) (h : P s) (op : Nat) (d : BitVec 512) (rows : List Nat) :
    P (if op == tCount then (s, []) else s.tRows (fun s r => s.tXrow n d r) rows).1 := by
  split
  · exact h
  · exact KeptByUnit.tRows (P := P) (get := fun s r => s.tXrow n d r) (fun t r ht => hP.tXrow ht d r) h rows

theorem KeptByUnit.factors (hP : KeptByUnit P n) (h : P s) (op : Nat) (d : BitVec 512) (rows : List Nat) :
    P (if tNeedsY op then s.tRows (fun s r => s.tRow n (tY d) (tYfmt d) (tCols d) r) rows else (s, [])).1 := by
  split
  · exact KeptByUnit.tRows (P := P) (get := fun s r => s.tRow n (tY d) (tYfmt d) (tCols d) r) (fun t r ht => hP.tRow ht _ _ _ r) h rows
  · exact h

theorem KeptByUnit.taintIf (hP : KeptByUnit P n) (h : P s) {b : Bool} : P (if b then s.taintTile n else s) := by
  split
  · exact hP.taintTile h
  · exact h

theorem KeptByUnit.sums (hP : KeptByUnit P n) (h : P s) {d : BitVec 512} {rows : List Nat} {x y : Sparse (List TVal)} :
    P (if tColAcc d then s.tColumns n d rows x y else s) := by
  split
  · exact hP.tColumns h _ _ _ _
  · exact h

end

/-! The end of a Tally command. -/

/-- What a Tally command reports: counts of its conversions, saturations, empty segments, elements, a decreasing offset, its results. -/
structure TallyReport where
  cnt : Cnt
  isat : Nat
  empty : Nat
  elems : Nat
  bad : Bool
  pre : Results

/-- A Tally command after its results: flags, counts, summary and record (R194). -/
def State.tallyEnd (s : State) (t : EngIx) (n : TileIx) (d : BitVec 512) (r : TallyReport) : State :=
  let k := t.val
  let s6 := ((s.flagIf (r.isat != 0) (F.ENG_TAL_STAT_INT_SAT k)).flagIf r.bad (F.ENG_TAL_STAT_BAD_OFFSET k)).flagIf (r.empty != 0)
    (F.ENG_TAL_STAT_EMPTY_SEG k)
  let s7 := s6.bump (F.ENG_TAL_STAT_SEGS_STEP k) (tSegs d)
  let s8 := if tSummary d then
      s7.putSummary n (tSumSlot d) (summaryOf false r.pre (summaryFlags r.cnt false false (r.isat != 0) (r.empty != 0))) else s7
  let b := domTally k
  let s9 := ((s8.perfEvent b 0x28 r.elems).perfEvent b 0x29 (tSegs d)).perfEvent b 0x2A r.empty
  (s9.sticky n r.cnt.nonfin false).complete n b
    (recordBits (tTag d + sat32 (tSegs d) * 2 ^ 32 + sat32 r.empty * 2 ^ 64 + (b2n (r.empty != 0) + 2 * b2n r.bad + 4 * b2n (r.isat != 0)) * 2 ^ 96)
      (numStatus r.cnt stOk))

section
variable {s : State} {k : EngIx} {n : TileIx} {op : Nat} {d : BitVec 512}

theorem State.opTally_refused (h : tRefused op d = true) : s.opTally k n op d = s.tRefuse k n d := by
  unfold State.opTally
  rw [if_pos h]

/-- What every step of a unit's work keeps, a Tally command keeps up to its end. -/
theorem State.opTally_cases {P : State → Prop} (hP : KeptByUnit P n) (h : P s) (hr : tRefused op d = false) :
    ∃ u r, P u ∧ s.opTally k n op d = u.tallyEnd k n d r := by
  unfold State.opTally
  rw [if_neg (by simp [hr])]
  refine ⟨_, ⟨_, _, _, _, _, _⟩, ?_, rfl⟩
  have h1 := hP.tSegments (hP.mark s false h) d
  refine hP.sums ?_
  refine State.forEach_induction (hP.taintIf ?_) fun t o _ ht => State.forEach_induction ht fun t' a _ ht' => hP.write _ _ _ _ ht'
  exact hP.factors (hP.elements h1 _ _ _) _ _ _

/-- The status register of Tally k. -/
def tallyReg (k : EngIx) : Nat := 0x610000 + k.val * 0x1000

theorem tallyReg_ge (k : EngIx) : 0x600000 ≤ tallyReg k := Nat.le_trans (by decide) (Nat.le_add_right 0x610000 _)

theorem domTally_lt (k : EngIx) : domTally k.val < 119 := Nat.lt_of_lt_of_le (Nat.add_lt_add_left k.isLt 80) (by decide)

theorem tTag_lt (d : BitVec 512) : tTag d < 2 ^ 32 := dfld_lt d _ _ _

/-- A refused Tally command only reports. -/
theorem State.tRefuse_report (h : s.memWf = true) :
    Ending (engineFields (tallyReg k)) n s (s.tRefuse k n d) ∧
      (s.tileFenced n.val = false →
        ((s.tRefuse k n d).tile n).recs = recordBits (tTag d) (numStatus Cnt.zero stLayout) :: (s.tile n).recs) ∧
      (s.tRefuse k n d).get (F.ENG_TAL_STAT_REFUSED k.val) = 1 :=
  State.refuse_report h (tallyReg_ge k) rfl rfl (by simp [F.ENG_TAL_STAT_REFUSED]) _ _ (domTally_lt k) _

/-- The end of a Tally command (R194): its record, and the segments of the step. -/
theorem State.tallyEnd_report (h : s.memWf = true) (r : TallyReport) :
    Ending (engineFields (tallyReg k)) n s (s.tallyEnd k n d r) ∧
      (s.tileFenced n.val = false → ∃ x : Nat, ((s.tallyEnd k n d r).tile n).recs =
        recordBits (tTag d + sat32 (tSegs d) * 2 ^ 32 + x * 2 ^ 64) (numStatus r.cnt stOk) :: (s.tile n).recs) ∧
      (s.tallyEnd k n d r).get (F.ENG_TAL_STAT_SEGS_STEP k.val) = min 0xFFFFFFFF (s.get (F.ENG_TAL_STAT_SEGS_STEP k.val) + tSegs d) := by
  unfold State.tallyEnd
  extract_lets k' s6 s7 s8 b s9
  have hb : b < 119 := domTally_lt k
  have h6 : Ending (flagsOf (tallyReg k)) n s s6 :=
    (((Ending.refl h).flagIf _ _ ⟨rfl, by simp [F.ENG_TAL_STAT_INT_SAT]⟩).flagIf _ _ ⟨rfl, by simp [F.ENG_TAL_STAT_BAD_OFFSET]⟩).flagIf _ _
      ⟨rfl, by simp [F.ENG_TAL_STAT_EMPTY_SEG]⟩
  have hwf7 : s7.memWf = true := ((h6.mono fun _ _ => trivial).bump (W := fun _ => True) _ _ trivial).keeps.memWf h
  have h8 : Ending (fun g => perfWin g.off) n s7 s8 := .ite ((Ending.refl hwf7).putSummary _ _) (.refl hwf7)
  have hrest := (((h8.perfEvent (fun _ hg => hg) hb 0x28 r.elems).perfEvent (fun _ hg => hg) hb 0x29 (tSegs d)).perfEvent (fun _ hg => hg) hb 0x2A
    r.empty).sticky r.cnt.nonfin false
  obtain ⟨he, hrecs, hsegs⟩ := h6.counted (f := F.ENG_TAL_STAT_SEGS_STEP k.val) rfl (tallyReg_ge k) rfl rfl hrest hb
    (recordBits (tTag d + sat32 (tSegs d) * 2 ^ 32 + sat32 r.empty * 2 ^ 64 + (b2n (r.empty != 0) + 2 * b2n r.bad + 4 * b2n (r.isat != 0)) * 2 ^ 96)
      (numStatus r.cnt stOk))
  refine ⟨he, fun hfree => ⟨sat32 r.empty + (b2n (r.empty != 0) + 2 * b2n r.bad + 4 * b2n (r.isat != 0)) * 2 ^ 32, ?_⟩, hsegs⟩
  rw [hrecs hfree ?_ (by simp [s6, State.tile_flagIf])]
  · congr 2
    omega
  · rw [State.recs_sticky, State.tile_perfEvent, State.tile_perfEvent, State.tile_perfEvent]
    unfold s8
    split
    · rw [State.recs_putSummary, State.tile_bump]
    · rw [State.tile_bump]

end

end Sys2Proof.Machine
end

section
/-! SUPPORT. O36: a Tally command at its engine (R189 to R194). -/

namespace Sys2Proof.Machine

theorem tallyOf_cases {c : Instr} {e : EngIx} {n : TileIx} {op : Nat} {d : BitVec 512} (h : tallyOf c = some (e, n, op, d)) :
    (c = .segSum e n d ∧ op = tSum) ∨ (c = .segMax e n d ∧ op = tMax) ∨ (c = .segMean e n d ∧ op = tMean) ∨ (c = .segCount e n d ∧ op = tCount) ∨
      (c = .segDot e n d ∧ op = tDot) ∨ (c = .segPair e n d ∧ op = tPair) := by
  unfold tallyOf at h
  split at h <;> cases h <;> simp

/-- A Tally command goes to its Tally. -/
theorem tallyCommand {c : Instr} {e : EngIx} {n : TileIx} {op : Nat} {d : BitVec 512} (h : tallyOf c = some (e, n, op, d)) :
    EngineCommand c (domTally e.val) n ∧ ∀ s : State, s.atUnit c = s.atTally e n op d := by
  rcases tallyOf_cases h with ⟨rfl, rfl⟩ | ⟨rfl, rfl⟩ | ⟨rfl, rfl⟩ | ⟨rfl, rfl⟩ | ⟨rfl, rfl⟩ | ⟨rfl, rfl⟩ <;>
    refine ⟨⟨fun _ => rfl, rfl, rfl, rfl, fun w hw t => ?_⟩, fun _ => rfl⟩ <;>
    rw [State.tryCmd, hw]

section
variable {s : State} {k : EngIx} {n : TileIx} {op : Nat} {d : BitVec 512}

/-- A Tally command holds nothing back but itself. -/
theorem State.Idle.opTally (h : s.Idle) (hwf : s.memWf = true) (k : EngIx) (n : TileIx) (op : Nat) (d : BitVec 512) : (s.opTally k n op d).Idle := by
  cases hr : tRefused op d with
  | true =>
    rw [State.opTally_refused hr]
    exact h.keeps (State.tRefuse_report hwf).1.keeps rfl
  | false =>
    obtain ⟨u, r, ⟨hidle, hmem⟩, heq⟩ := State.opTally_cases (k := k) (State.Idle.keptByUnit n) ⟨h, hwf⟩ hr
    rw [heq]
    exact State.Idle.keeps hidle (State.tallyEnd_report hmem r).1.keeps rfl

theorem tSegs_lt (d : BitVec 512) : tSegs d < 2 ^ 32 := dfld_lt d _ _ _

/-- With quiet memory a Tally command accesses memory and reports. -/
theorem State.opTally_post (hwf : s.memWf = true) (hq : s.memQuiet) (hfree : s.tileFenced n.val = false) :
    let t := s.opTally k n op d
    (∃ u, ZooAccess s u ∧ Ending (engineFields (tallyReg k)) n u t ∧ (tRefused op d = true → u = s)) ∧
      (∃ r, (t.tile n).recs = r :: (s.tile n).recs ∧ recTag r = tTag d ∧ recStatus r = (if tRefused op d then stLayout else stOk) ∧
        (tRefused op d = false → recField r 63 32 = tSegs d)) ∧
      (tRefused op d = true → t.get (F.ENG_TAL_STAT_REFUSED k.val) = 1) ∧
      (tRefused op d = false → t.get (F.ENG_TAL_STAT_SEGS_STEP k.val) = min 0xFFFFFFFF (s.get (F.ENG_TAL_STAT_SEGS_STEP k.val) + tSegs d)) := by
  intro t
  have hz := ZooAccess.refl (State.regsOk_of_memWf hwf) hq
  cases hr : tRefused op d with
  | true =>
    have ht : t = s.tRefuse k n d := State.opTally_refused hr
    obtain ⟨he, hrecs, hreg⟩ := State.tRefuse_report (k := k) (n := n) (d := d) hwf
    rw [ht]
    exact ⟨⟨s, hz, he, fun _ => rfl⟩, ⟨_, hrecs hfree, recTag_low (x := 0) (tTag_lt d) (by omega) _, recStatus_recordBits _ _ (by decide),
      fun h => absurd h (by decide)⟩, fun _ => hreg, fun h => absurd h (by decide)⟩
  | false =>
    obtain ⟨u, r, hu, heq⟩ := State.opTally_cases (k := k) (ZooAccess.keptByUnit s n) hz hr
    obtain ⟨he, hrecs, hreg⟩ := State.tallyEnd_report (k := k) (n := n) (d := d) (hu.keeps.memWf hwf) r
    obtain ⟨x, hrec⟩ := hrecs ((hu.tileFenced n.val).trans hfree)
    obtain ⟨hurecs, -⟩ := TileSt.held_of_unitPart (hu.units n)
    have hget := hu.get_off (F.ENG_TAL_STAT_SEGS_STEP k.val) (by simp only [F.ENG_TAL_STAT_SEGS_STEP]; omega) (by simp [F.ENG_TAL_STAT_SEGS_STEP])
    have hsegs : sat32 (tSegs d) = tSegs d := Nat.min_eq_right (Nat.le_of_lt_succ (tSegs_lt d))
    rw [hurecs] at hrec
    rw [hget] at hreg
    rw [show t = u.tallyEnd k n d r from heq]
    exact ⟨⟨u, hu, he, fun h => absurd h (by decide)⟩, ⟨_, hrec, recTag_low (x := sat32 (tSegs d) + x * 2 ^ 32) (tTag_lt d) (by omega) _,
      recStatus_recordBits _ _ (by decide), fun _ => (count_recordBits (tTag_lt d) _).trans hsegs⟩, fun h => absurd h (by decide), fun _ => hreg⟩

end

/-- A Tally command on a free Tally (R194, R208). -/
theorem tallyCommand_completes (c : Instr) (e : EngIx) (n : TileIx) (op : Nat) (d : BitVec 512) (s : State) (hc : tallyOf c = some (e, n, op, d))
    (hwf : s.memWf = true) (hfree : s.engineFree (domTally e.val) n) :
    ((s.atUnit c).stallReq = false → exec c s = .next (s.atUnit c)) ∧ (s.memQuiet →
    let k := s.engFor domTally e
    endsIn (exec c s) fun t =>
      (∃ r, (t.tile n).recs = r :: (s.tile n).recs ∧ recTag r = tTag d ∧ recStatus r = (if tRefused op d then stLayout else stOk) ∧
        (tRefused op d = false → recField r 63 32 = tSegs d)) ∧
        (tRefused op d = true → t.mem = s.mem ∧ (∀ m, (t.tile m).mem = (s.tile m).mem) ∧ t.get (F.ENG_TAL_STAT_REFUSED k.val) = 1) ∧
        (tRefused op d = false → t.get (F.ENG_TAL_STAT_SEGS_STEP k.val) =
          min 0xFFFFFFFF (s.get (F.ENG_TAL_STAT_SEGS_STEP k.val) + tSegs d)) ∧
        s.byEngine n (domTally k.val) (0x610000 + k.val * 0x1000) t) := by
  obtain ⟨hcmd, hat⟩ := tallyCommand hc
  set s' := s.useEngine (s.bindEng (domTally e.val)) n with hs'
  have hwf' : s'.memWf = true := State.useEngine_memWf hwf _ _
  have hsame : Same [.period] s s' := s.useEngine_same _ _
  have hatt : s.atUnit c = s'.opTally (s.engFor domTally e) n op d := hat s
  have hidle : s.Idle → (s.atUnit c).Idle := fun h => by
    rw [hatt]
    exact State.Idle.opTally (State.useEngine_idle h _ _) hwf' _ _ _ _
  refine ⟨hcmd.exec_eq hfree hidle, fun hq => ?_⟩
  obtain ⟨⟨u, hu, he, hsame_of_refused⟩, ⟨r, hrecs, htag, hst, hcount⟩, hrefused, hsegs⟩ :=
    State.opTally_post (k := s.engFor domTally e) (n := n) (op := op) (d := d) hwf' (hq.useEngine _ _)
      ((s.tileFenced_useEngine _ _ _).trans hfree.1.2.1)
  refine ⟨_, hcmd.exec_quiet hfree hidle hatt hu he, ⟨r, ?_, htag, hst, hcount⟩, fun hr => ?_, fun hr => ?_, ?_⟩
  · rw [hrecs, State.tile_congr (hsame.tiles (by decide))]
  · obtain rfl := hsame_of_refused hr
    exact ⟨he.memory_kept.1, he.memory_kept.2, hrefused hr⟩
  · rw [hsegs hr, State.get_congr (hsame.regs (by decide))]
  · have hby := hu.byEngine he
    rwa [← State.dom_engFor e engKind_tally] at hby

/-- Settles O36: the command (`tallyCommand_completes`), and what a segment gives, an equation for each operation. -/
theorem tallyCommandsComplete : Obligations.TallyCommandsComplete :=
  ⟨tallyCommand_completes, fun _ _ _ _ => ⟨tReduce_count, tReduce_max_nil, fun _ h => tReduce_max_ints h, fun _ h => tReduce_sum_ints h,
    by rw [tReduce_mean, tReduce_sum]; rfl, by rw [tReduce_dot, tReduce_sum]⟩⟩

end Sys2Proof.Machine
end

section
/-! SUPPORT. O29: FLT_FENCE_TILE stays as it is while errors of memory are recorded and their channels fail (R210, R212, R225, R226, R231, R371,
R374). -/

namespace Sys2Proof.Machine

/-- From `s` to `t` the register of the fenced tiles is not written. -/
abbrev FenceKept (s t : State) : Prop := Writes (fun g => g.off ≠ 0x50010) s t

/-- A register of an array that begins above FLT_FENCE_TILE. -/
theorem arrayOff_ne {b k : Nat} (h : 0x50010 < b) : b + k ≠ 0x50010 := by omega

section
variable {σ s : State}

theorem FenceKept.set (h : FenceKept σ s) (f : Field) (x : Nat) (hf : f.off ≠ 0x50010) : FenceKept σ (s.set f x) :=
  Writes.set h f x hf

theorem FenceKept.tileFenced (h : FenceKept σ s) (k : Nat) : s.tileFenced k = σ.tileFenced k := by
  rw [State.tileFenced, h.get_off F.FLT_FENCE_TILE_TILES (fun _ hg => hg) (by decide), State.tileFenced]

/-! Domains that wake, records, minimal mode. -/

theorem FenceKept.wakeEvent (h : FenceKept σ s) (d code : Nat) (hd : 0x10100 + d * 0x8 ≠ 0x50010) : FenceKept σ (s.wakeEvent d code) := by
  have h2 : FenceKept σ ((s.set (F.PWR_DOM_STAT_LAST_WAKE d) code).bump (F.PWR_DOM_STAT_WAKES d) 1) := (h.set _ code hd).set _ _ hd
  exact .ite ((h2.set F.CLK_STAT_CORE_STOPPED 0 (by decide)).set F.CLK_STAT_CORE_LOCK 1 (by decide)) h2

theorem FenceKept.wake (h : FenceKept σ s) (d code : Nat) (hd : 0x10100 + d * 0x8 ≠ 0x50010) : FenceKept σ (s.wake d code) :=
  .ite ((h.wakeEvent d code hd).of_regs rfl) h

theorem FenceKept.writeLedger (h : FenceKept σ s) : FenceKept σ s.writeLedger := by
  have h1 : FenceKept σ s.flashAccess := .ite (h.wakeEvent domFlash 1 (by decide)) h
  exact h1.of_regs rfl

theorem FenceKept.enqueue (h : FenceKept σ s) (r : ErrRec) : FenceKept σ (s.enqueue r) :=
  h.trans ((State.enqueue_writes h.regsOk r).mono (by decide))

theorem FenceKept.mergeRec (h : FenceKept σ s) (r : ErrRec) : FenceKept σ (s.mergeRec r) := by
  have h1 : FenceKept σ (s.bump F.FLT_QUEUE_OVF_COUNT 1) := h.set _ _ (by decide)
  exact .ite (h1.of_regs rfl) (h1.set F.FLT_QUEUE_LOST_UE 1 (by decide))

theorem FenceKept.enqueueOrMerge (h : FenceKept σ s) (r : ErrRec) : FenceKept σ (s.enqueueOrMerge r) := by
  refine .ite (h.enqueue r) (.ite (h.mergeRec r) ?_)
  split
  · next c rest _ =>
    have h1 : FenceKept σ { s with flt := { s.flt with queue := rest } } := h.of_regs rfl
    exact (h1.mergeRec c).enqueue r
  · exact h.mergeRec r

theorem FenceKept.allOff (h : FenceKept σ s) (keep : List Nat) : FenceKept σ (s.allOff keep) := by
  have h1 : FenceKept σ (s.domsOff keep) := h.trans ((State.domsOff_regsIn h.regsOk keep).writes.mono fun g hg => by
    rcases hg with hg | hg <;> omega)
  have hclk : ∀ {t : State}, FenceKept σ t → ∀ f : Field, f.off = 0x20010 → FenceKept σ (t.set f 0) := fun ht f hf =>
    ht.set f 0 (by rw [hf]; decide)
  exact (hclk (hclk (hclk (hclk (hclk h1 _ rfl) _ rfl) _ rfl) _ rfl) _ rfl).of_regs (s.allOff_regs keep)

theorem FenceKept.enterMinimal (h : FenceKept σ s) (reason : Nat) : FenceKept σ (s.enterMinimal reason) :=
  (((((h.allOff [domCxl]).set (F.PWR_DOM_STAT_STATE domCxl) 3 (by decide)).set (F.PWR_DOM_STAT_REQ_STATE domCxl) 3 (by decide)).set
    F.MGT_BOOTSTAT_MODE 2 (by decide)).set F.MGT_BOOTSTAT_REASON reason (by decide)).of_regs (s.enterMinimal_regs reason)

theorem FenceKept.moduleFailed (h : FenceKept σ s) : FenceKept σ s.moduleFailed := by
  unfold State.moduleFailed
  extract_lets s1 x s2
  have h1 : FenceKept σ s1 := h.enqueueOrMerge _
  have h2 : FenceKept σ s2 := h1.of_regs rfl
  exact .ite h (h2.writeLedger.enterMinimal _)

/-! Channels. -/

theorem FenceKept.setChState (h : FenceKept σ s) (ch st : Nat) : FenceKept σ (s.setChState ch st) := h.set _ st (arrayOff_ne (by decide))

theorem FenceKept.cause (h : FenceKept σ s) (f : Field) (fn1 : Bool) (v : Nat) (hf : f.off ≠ 0x50010) : FenceKept σ (s.cause f fn1 v) :=
  Writes.cause h f fn1 v hf

theorem FenceKept.chOut (h : FenceKept σ s) (ch : Nat) (dead : Bool) : FenceKept σ (s.chOut ch dead) := by
  unfold State.chOut
  extract_lets u s1 s2
  have hu : FenceKept σ u := .ite (h.set F.MEM_MAP_STAT_SPARES_LEFT _ (by decide)) h
  have h1 : FenceKept σ s1 := hu.setChState _ _
  have h2 : FenceKept σ s2 := (h1.set (if dead then F.MEM_STAT_CH_DEAD else F.MEM_STAT_FENCE_PENDING) 1 (by cases dead <;> decide)).cause _ _ _ (by decide)
  exact h2.of_regs rfl

theorem FenceKept.stopMigration (h : FenceKept σ s) (srcSt dstSt : Nat) : FenceKept σ (s.stopMigration srcSt dstSt) :=
  (((h.setChState _ _).setChState _ _).set F.MEM_MIG_STAT_STATE 0 (by decide)).of_regs rfl

theorem FenceKept.startMigration (h : FenceKept σ s) (src dst : Nat) : FenceKept σ (s.startMigration src dst) := by
  unfold State.startMigration
  extract_lets s1 s2 s3
  have h1 : FenceKept σ s1 := (h.setChState _ _).setChState _ _
  have h2 : FenceKept σ s2 := by
    have hmig : ∀ {t : State}, FenceKept σ t → ∀ (f : Field) (x : Nat), f.off = 0xC0028 → FenceKept σ (t.set f x) := fun ht f x hf =>
      ht.set f x (by rw [hf]; decide)
    have hm := hmig (hmig (hmig (hmig (hmig h1 F.MEM_MIG_STAT_STATE 1 rfl) F.MEM_MIG_STAT_PROGRESS 0 rfl) F.MEM_MIG_STAT_SRC_STACK (chStack src) rfl)
      F.MEM_MIG_STAT_SRC_CH (chPhys src) rfl) F.MEM_MIG_STAT_DST_CH (chPhys dst) rfl
    exact .ite hm (hmig hm F.MEM_MIG_STAT_STATE _ rfl)
  have h3 : FenceKept σ s3 := h2.set F.MEM_MAP_STAT_SPARES_LEFT _ (by decide)
  exact h3.of_regs rfl

theorem FenceKept.srcDied (h : FenceKept σ s) : FenceKept σ s.srcDied := by
  unfold State.srcDied
  extract_lets src dst p s1 s2
  have h1 : FenceKept σ s1 := h.stopMigration _ _
  have h2 : FenceKept σ s2 := (h1.set F.MEM_STAT_CH_DEAD 1 (by decide)).cause _ _ _ (by decide)
  split
  · exact h2.of_regs rfl
  · exact h2

theorem FenceKept.dstLost (h : FenceKept σ s) : FenceKept σ s.dstLost := ((h.stopMigration _ _).chOut _ _).of_regs rfl

theorem FenceKept.fenceChannel (h : FenceKept σ s) (ch : Nat) (answers : Bool) : FenceKept σ (s.fenceChannel ch answers) :=
  .ite h (.ite (.ite (((h.setChState _ _).set F.MEM_STAT_FENCE_PENDING 1 (by decide)).cause _ _ _ (by decide)) h.srcDied) (.ite h.dstLost (h.chOut _ _)))

/-- A record of a channel fences that channel at most, or the module fails. -/
theorem FenceKept.postDram (h : FenceKept σ s) (ch severity kind syndrome address count rflags : Nat) (answers : Bool) :
    FenceKept σ (s.postFull clsDram ch severity kind syndrome address count rflags answers) := by
  unfold State.postFull
  extract_lets r s0 busy lost stops fence flags s1 s2 s3 s4
  have h0 : FenceKept σ s0 := h.wake domTimetable 5 (by decide)
  have h1 : FenceKept σ s1 := h0.flagIf _ _ (by decide)
  have h2 : FenceKept σ s2 := .ite ((h1.fenceChannel ch answers).set F.FLT_STAT_FENCE 1 (by decide)) h1
  have h3 : FenceKept σ s3 := h2.enqueueOrMerge _
  have h4 : FenceKept σ s4 := .ite h3.writeLedger h3
  exact .ite (h0.enqueueOrMerge r) (.ite h4.moduleFailed h4)

theorem FenceKept.channelFails (h : FenceKept σ s) (ch : Nat) (answers : Bool) : FenceKept σ (s.channelFails ch answers) := by
  unfold State.channelFails
  extract_lets st chanRec w x
  have hrec : ∀ t : State, FenceKept σ t → FenceKept σ (chanRec t) := fun t ht => ht.postDram _ _ _ _ _ _ _ _
  have hwait : FenceKept σ { s with ledger := { x with waiting := w } } := h.of_regs rfl
  refine .ite (hrec _ h.dstLost) (.ite (.ite h (hrec _ h.srcDied)) (.ite h (.ite (hrec _ (h.chOut _ _))
    (.ite (.ite h (hwait.set F.MEM_MIG_STAT_QUEUED _ (by decide))) ?_))))
  split
  · exact .ite (h.startMigration _ _) (hrec _ (h.startMigration _ _).srcDied)
  · exact hrec _ (h.chOut _ _)

/-! Lines. -/

theorem FenceKept.corrected (h : FenceKept σ s) (ch : Nat) : FenceKept σ (s.corrected ch) := by
  unfold State.corrected
  extract_lets x s1 s2
  have h1 : FenceKept σ s1 := h.of_regs rfl
  have h2 : FenceKept σ s2 := h1.set _ _ (arrayOff_ne (by decide))
  exact .ite (h2.channelFails _ _) h2

theorem FenceKept.uncorrectable (h : FenceKept σ s) (pl reread address : Nat) (persist : Bool) :
    FenceKept σ (s.uncorrectable pl reread address persist) := by
  unfold State.uncorrectable
  extract_lets ch s1 x s2 s3
  have h1 : FenceKept σ s1 := Writes.of_regs (h.set (F.MEM_CH_STAT_UNCORR ch) _ (arrayOff_ne (by decide))) rfl
  have h2 : FenceKept σ s2 := .ite (h1.of_regs rfl) h1
  have h3 : FenceKept σ s3 := h2.postDram _ _ _ _ _ _ _ _
  exact .ite (h3.channelFails _ _) h3

theorem FenceKept.meetErrors (h : FenceKept σ s) (pl address : Nat) (persist scrub : Bool) : FenceKept σ (s.meetErrors pl address persist scrub) := by
  unfold State.meetErrors
  split
  · exact h
  · extract_lets m u
    have hm : FenceKept σ { s with mem := { m with latent := Sparse.erase s.mem.latent pl } } := h.of_regs rfl
    have hu : FenceKept σ u := .ite hm h
    exact .ite h (.ite (hu.corrected _) (h.uncorrectable _ _ _ _))

theorem FenceKept.putLine (h : FenceKept σ s) (pl : Nat) (d : Sparse Byte) : FenceKept σ (s.putLine pl d) := h.of_regs rfl

theorem FenceKept.setPoison (h : FenceKept σ s) (pl : Nat) (p : Bool) : FenceKept σ (s.setPoison pl p) := h.of_regs rfl

theorem FenceKept.writeLine (h : FenceKept σ s) (q line : Nat) (d : Sparse Byte) (whole poison : Bool) :
    FenceKept σ (s.writeLine q line d whole poison) := by
  unfold State.writeLine
  split
  · exact h
  · next pl _ =>
    extract_lets m s1 t s2
    have h1 : FenceKept σ s1 := h.of_regs rfl
    have ht : FenceKept σ t := h.meetErrors pl 0 false false
    have h2 : FenceKept σ s2 := ht.putLine _ _
    exact .ite ((h1.putLine _ _).setPoison _ _) (.ite (h2.setPoison _ _) h2)

/-! Accesses through an interface that is ready. -/

theorem State.setWc_ready {k : Nat} (l : List WcEntry) (h : s.domReady (domMem k) = true) : (s.setWc k l).domReady (domMem k) = true := by
  unfold State.setWc
  split
  · exact h
  · exact h

theorem FenceKept.setWc (h : FenceKept σ s) (k : Nat) (l : List WcEntry) : FenceKept σ (s.setWc k l) :=
  h.of_same (State.setWc_keeps (List.Subset.refl _) (.refl s) k l).same (by decide)

theorem FenceKept.flushEntry {k : Nat} (h : FenceKept σ s) (hk : s.domReady (domMem k) = true) (l : List WcEntry) (e : WcEntry) :
    FenceKept σ ((s.setWc k l).flushEntry k e) := by
  rw [State.flushEntry, State.memAwake_of_ready (State.setWc_ready l hk)]
  exact (h.setWc k l).writeLine _ _ _ _ _

theorem FenceKept.wcMerge {q : Nat} (h : FenceKept σ s) (hk : s.domReady (domMem (q / 8)) = true) (line : Nat) (d : Sparse Byte) :
    FenceKept σ (s.wcMerge q line d) := by
  unfold State.wcMerge
  extract_lets k p u l oldest
  have hu : u = s := State.memAwake_of_ready hk
  clear_value u
  subst hu
  refine .ite ((h.setWc _ _).writeLine _ _ _ _ _) ?_
  split
  · exact .ite (h.flushEntry hk _ _) (h.setWc _ _)
  · refine FenceKept.setWc ?_ _ _
    unfold oldest
    clear oldest
    clear_value l
    cases l with
    | nil => exact h
    | cons o rest => exact .ite (h.flushEntry hk _ _) h

theorem FenceKept.writeDram {q : Nat} (h : FenceKept σ s) (hk : s.domReady (domMem (q / 8)) = true) (byte : Nat) (data : List Byte) (poison : Bool) :
    FenceKept σ (s.writeDram q byte data poison) := by
  unfold State.writeDram
  extract_lets line d k u s1 s2
  have hu : u = s := State.memAwake_of_ready hk
  have h1 : FenceKept σ s1 := by
    unfold s1
    rw [hu]
    exact h.setWc _ _
  have h2 : FenceKept σ s2 := h.wcMerge hk _ _
  refine .ite (h1.writeLine _ _ _ _ _) (.ite ?_ h2)
  split
  · exact h2.setPoison _ _
  · exact h2

theorem FenceKept.readDram {q : Nat} (h : FenceKept σ s) (hk : s.domReady (domMem (q / 8)) = true) (byte n address : Nat) (persist : Bool) :
    FenceKept σ (s.readDram q byte n address persist).1 := by
  unfold State.readDram
  extract_lets line u
  have hu : u = s := State.memAwake_of_ready hk
  clear_value u
  subst hu
  split
  · exact h.set F.MEM_STAT_POISON_READ 1 (by decide)
  · exact (h.meetErrors _ _ _ _).flagIf _ _ (by decide)

end

end Sys2Proof.Machine
end

section
/-! SUPPORT. O29: a tile is fenced by no access of a unit that does not wait for its memory interface, nor by the reload of a stash (R226, R234,
R299, R352). -/

namespace Sys2Proof.Machine

/-- Since `σ` an access asked for a wait, or the register of the fenced tiles is not written. -/
def FenceSpared (σ s : State) : Prop := s.stallReq = true ∨ FenceKept σ s

section
variable {σ s t : State}

theorem FenceSpared.ite {c : Prop} [Decidable c] (hs : FenceSpared σ s) (ht : FenceSpared σ t) : FenceSpared σ (if c then s else t) := by
  split
  · exact hs
  · exact ht

/-- An operation that asks for no wait and does not write the register. -/
theorem FenceSpared.step {L : List Piece} (h : FenceSpared σ s) (k : Keeps L s t) (hw : FenceKept σ s → FenceKept σ t)
    (hL : L.contains Piece.stallReq = false) : FenceSpared σ t :=
  h.imp (fun hs => (k.same.stallReq fun m => Bool.false_ne_true (hL.symm.trans (List.contains_iff_mem.mpr m))).trans hs) hw

theorem FenceSpared.of_eq (h : FenceSpared σ s) (hstall : t.stallReq = s.stallReq) (hregs : t.regs = s.regs) : FenceSpared σ t :=
  h.imp hstall.trans fun hk => hk.of_regs hregs

theorem FenceSpared.set (h : FenceSpared σ s) (f : Field) (x : Nat) (hf : f.off ≠ 0x50010) : FenceSpared σ (s.set f x) :=
  h.imp id fun hk => hk.set f x hf

theorem FenceSpared.modTile (h : FenceSpared σ s) (n : TileIx) (f : TileSt → TileSt) : FenceSpared σ (s.modTile n f) := h.of_eq rfl rfl

theorem FenceSpared.taintTile (h : FenceSpared σ s) (n : TileIx) : FenceSpared σ (s.taintTile n) := h.modTile n _

theorem FenceSpared.failTile (h : FenceSpared σ s) (n : TileIx) : FenceSpared σ (s.failTile n) := h.modTile n _

theorem FenceSpared.unmapped (h : FenceSpared σ s) (n : TileIx) : FenceSpared σ ((s.flag F.MEM_STAT_UNMAPPED).failTile n) :=
  (h.set F.MEM_STAT_UNMAPPED 1 (by decide)).failTile n

/-- A record of a channel. -/
theorem FenceSpared.postDram (h : FenceSpared σ s) (ch severity kind syndrome address count rflags : Nat) (answers : Bool) :
    FenceSpared σ (s.postFull clsDram ch severity kind syndrome address count rflags answers) :=
  h.step (State.postFull_keeps (List.Subset.refl _) (.refl s) _ _ _ _ _ _ _ _ _) (fun hk => hk.postDram _ _ _ _ _ _ _ _) rfl

theorem FenceSpared.touch (h : FenceSpared σ s) (a len : Nat) (write : Bool) : FenceSpared σ (s.touch a len write) :=
  have k := State.touch_keeps (List.Subset.refl _) (.refl s) a len write
  h.step k (fun hk => hk.of_same k.same (by decide)) rfl

theorem FenceSpared.noteStash (h : FenceSpared σ s) (a : Nat) (data : List Byte) : FenceSpared σ (s.noteStash a data) :=
  have k := State.noteStash_keeps (List.Subset.refl _) (.refl s) a data
  h.step k (fun hk => hk.of_same k.same (by decide)) rfl

theorem FenceSpared.recompute (h : FenceSpared σ s) (layers : List (List (TileIx × Nat))) (m l : Nat) : FenceSpared σ (s.recompute layers m l) := by
  unfold State.recompute
  extract_lets base first between kept others mem
  refine FenceSpared.set ?_ F.MEM_STASH_STAT_RECOMPUTES _ (by decide)
  exact h.of_eq rfl rfl

theorem FenceSpared.stashPoison (h : FenceSpared σ s) (m l : Nat) : FenceSpared σ (s.stashPoison m l) :=
  (h.set F.MEM_STASH_STAT_STASH_POISON _ (by decide)).recompute _ _ _

theorem FenceSpared.larderHeal (h : FenceSpared σ s) (n : TileIx) (a len : Nat) : FenceSpared σ (s.larderHeal n a len) :=
  .ite h (State.forEach_induction h fun _ e _ ht => (ht.stashPoison n.val e.1).modTile n _)

theorem FenceSpared.countReload (h : FenceSpared σ s) (n : TileIx) (a len : Nat) (before : State) : FenceSpared σ (s.countReload n a len before) := by
  unfold State.countReload
  split
  · exact .ite (h.stashPoison _ _) h
  · exact h

/-! One line. -/

/-- An access waits, or its interface is ready. -/
theorem State.accessGate_cases {a q b : Nat} (h : s.decodeAddr a = .dram q b) :
    (s.accessGate a).stallReq = true ∨ s.accessGate a = s ∧ s.domReady (domMem (q / 8)) = true := by
  unfold State.accessGate
  rw [h]
  simp only
  split
  · exact .inl rfl
  · split
    · next hr => exact .inr ⟨rfl, hr⟩
    · exact .inl rfl

/-- An access to memory whose gate let it pass, where a dead channel taints the tile (R226). -/
theorem FenceSpared.gated (h : FenceSpared σ s) (n : TileIx) {a q b : Nat} (ha : s.decodeAddr a = .dram q b) {f : State → State} {L : List Piece}
    (hf : ∀ u : State, Keeps L u (f u)) (hw : ∀ u : State, u.domReady (domMem (q / 8)) = true → FenceKept σ u → FenceKept σ (f u))
    (hL : L.contains Piece.stallReq = false) :
    FenceSpared σ (f (if (s.accessGate a).deadAt a then (s.accessGate a).taintTile n else s.accessGate a)) := by
  have hkeep : ∀ u : State, u.stallReq = true → (f u).stallReq = true := fun u hu =>
    ((hf u).same.stallReq fun m => Bool.false_ne_true (hL.symm.trans (List.contains_iff_mem.mpr m))).trans hu
  rcases State.accessGate_cases ha with hstall | ⟨heq, hready⟩
  · refine .inl (hkeep _ ?_)
    split
    · exact hstall
    · exact hstall
  · rw [heq]
    rcases h with hs | hk
    · refine .inl (hkeep _ ?_)
      split
      · exact hs
      · exact hs
    · refine .inr (hw _ ?_ (.ite (hk.of_regs rfl) hk))
      split
      · exact hready
      · exact hready

theorem FenceSpared.unitRead1 (h : FenceSpared σ s) (n : TileIx) (committed : Bool) (a len : Nat) : FenceSpared σ (s.unitRead1 n committed a len).1 := by
  unfold State.unitRead1
  extract_lets pers v sg u onCommitted line
  split
  · next q b hd =>
    have h1 : FenceSpared σ (u.readDram q b len a pers).1 :=
      h.gated n hd (f := fun u => (u.readDram q b len a pers).1) (fun u => State.readDram_keeps (List.Subset.refl _) (.refl u) q b len a pers)
        (fun u hr hk => hk.readDram hr b len a pers) rfl
    clear_value u
    generalize u.readDram q b len a pers = r at h1 ⊢
    simp only
    split
    · split
      · exact h1.postDram _ _ _ _ _ _ _ _
      · exact h1
    · exact h1
  · split
    · exact h.larderHeal _ _ _
    · exact h
  · exact h.unmapped n

theorem FenceSpared.unitRead (h : FenceSpared σ s) (n : TileIx) (committed : Bool) (a len : Nat) : FenceSpared σ (s.unitRead n committed a len).1 :=
  foldl_fst_induction (P := FenceSpared σ) (h.touch _ _ _) fun _ _ _ hp => hp.unitRead1 _ _ _ _

/-! Writes above the DRAM, where no page has its byte 0 on a channel. -/

/-- A module address from the tiles' memories on names no line of DRAM (R213). -/
theorem State.decodeAddr_of_ge {a : Nat} (ha : 0xC000000000 ≤ a) (q b : Nat) : s.decodeAddr a ≠ .dram q b := by
  unfold State.decodeAddr
  rw [if_neg (by omega), if_neg (by omega)]
  split
  · simp only
    split <;> exact Loc.noConfusion
  · exact Loc.noConfusion

theorem State.pageStack_of_ge {a : Nat} (ha : 0xC000000000 ≤ a) : s.pageStack (a / 0x10000) = 32 := by
  unfold State.pageStack
  split
  · next q b hd => exact absurd hd (State.decodeAddr_of_ge (by omega) q b)
  · rfl

/-- Such a page has its shadow already, or takes none. -/
theorem FenceSpared.shadow (h : FenceSpared σ s) (n : TileIx) {a : Nat} (ha : 0xC000000000 ≤ a) (whole : Bool) :
    FenceSpared σ (s.shadow n (a / 0x10000) whole).1 := by
  unfold State.shadow
  split
  · exact h
  · extract_lets k u
    rw [dif_neg (by rw [show k = 32 from State.pageStack_of_ge ha]; decide)]
    exact (h.set (F.TILE_UPD_STAT_SHADOW_EXHAUST n.val) 1 (arrayOff_ne (by decide))).failTile n

theorem FenceSpared.unitWrite1 (h : FenceSpared σ s) (n : TileIx) (lo hi : Nat) {a : Nat} (ha : 0xC000000000 ≤ a) (data : List Byte) (poison : Bool) :
    FenceSpared σ (s.unitWrite1 n lo hi a data poison) := by
  unfold State.unitWrite1
  refine .ite h ?_
  extract_lets page
  have hsh : FenceSpared σ (if s.persistent a then s.shadow n page (decide (lo ≤ page * 0x10000 ∧ page * 0x10000 + 0x10000 ≤ hi)) else (s, true)).1 := by
    split
    · exact h.shadow n ha _
    · exact h
  generalize (if s.persistent a then s.shadow n page (decide (lo ≤ page * 0x10000 ∧ page * 0x10000 + 0x10000 ≤ hi)) else (s, true)) = r at hsh ⊢
  obtain ⟨u, go⟩ := r
  simp only at hsh ⊢
  refine .ite hsh ?_
  split
  · next q b hd =>
    exact hsh.gated n hd (f := fun u => u.writeDram q b data poison) (fun u => State.writeDram_keeps (List.Subset.refl _) (.refl u) q b data poison)
      (fun u hr hk => hk.writeDram hr b data poison) rfl
  · split
    · exact hsh.modTile _ _
    · exact hsh
  · exact hsh.unmapped n

/-! Stores. -/

/-- The pieces of an access begin no lower than the access. -/
theorem le_of_mem_pieces {p : Nat × Nat} : ∀ {fuel a n : Nat}, p ∈ pieces fuel a n → a ≤ p.1
  | 0, _, _, h => absurd h List.not_mem_nil
  | fuel + 1, a, n, h => by
    unfold pieces at h
    split at h
    · exact absurd h List.not_mem_nil
    · rcases List.mem_cons.1 h with rfl | h
      · exact Nat.le_refl a
      · exact Nat.le_trans (Nat.le_add_right _ _) (le_of_mem_pieces h)

/-- So do the runs of a write that are not frozen. -/
theorem le_of_mem_thawedRuns {l : List FreezeMask} {b : List Byte} : ∀ {a : Nat} {r : Nat × List Byte}, r ∈ thawedRuns l a b → a ≤ r.1 := by
  induction b with
  | nil => exact fun h => absurd h List.not_mem_nil
  | cons x rest ih =>
    intro a r h
    unfold thawedRuns at h
    extract_lets runs at h
    have hruns : ∀ {r : Nat × List Byte}, r ∈ runs → a ≤ r.1 := fun h => Nat.le_of_succ_le (ih h)
    clear_value runs
    split at h
    · exact hruns h
    · split at h
      · split at h
        · rcases List.mem_cons.1 h with rfl | h
          · exact Nat.le_refl a
          · exact hruns (List.mem_cons_of_mem _ h)
        · rcases List.mem_cons.1 h with rfl | h
          · exact Nat.le_refl a
          · exact hruns h
      · rw [List.mem_singleton.1 h]

theorem FenceSpared.unitStore (h : FenceSpared σ s) (n : TileIx) {a : Nat} (ha : 0xC000000000 ≤ a) (data : List Byte) (poison : Bool) :
    FenceSpared σ (s.unitStore n a data poison) := by
  unfold State.unitStore
  extract_lets u p v
  have hu : FenceSpared σ u := h.touch _ _ _
  have hv : FenceSpared σ v := .ite (hu.of_eq rfl rfl) hu
  exact State.forEach_induction hv fun _ p hp ht => (ht.unitWrite1 n _ _ (Nat.le_trans ha (le_of_mem_pieces hp)) _ _).noteStash _ _

theorem FenceSpared.updateStore (h : FenceSpared σ s) (n : TileIx) {a : Nat} (ha : 0xC000000000 ≤ a) (data : List Byte) (poison : Bool) :
    FenceSpared σ (s.updateStore n a data poison) := by
  unfold State.updateStore
  split
  · exact h.unitStore n ha data poison
  · simp only
    have h1 := fun k => h.set (F.TILE_UPD_STAT_RANGE_CLAMP n.val) k (arrayOff_ne (by decide))
    exact .ite (State.forEach_induction (h1 _) fun _ r hr ht => ht.unitStore n (Nat.le_trans ha (le_of_mem_thawedRuns hr)) _ _)
      ((h1 _).unitStore n ha _ _)

theorem FenceSpared.unitWrite (h : FenceSpared σ s) (n : TileIx) {a : Nat} (ha : 0xC000000000 ≤ a) (data : List Byte) (poison : Bool) :
    FenceSpared σ (s.unitWrite n a data poison) :=
  .ite (h.unitStore n ha data poison) (.ite ((h.set (F.TILE_UPD_STAT_UPDATE_SKIPPED n.val) 1 (arrayOff_ne (by decide))).modTile n _)
    ((h.modTile n _).updateStore n ha data poison))

/-! The reload of a stash (R234). -/

theorem FenceSpared.moveBytes (h : FenceSpared σ s) (n : TileIx) (src : Nat) {dst : Nat} (hdst : 0xC000000000 ≤ dst) (len : Nat) :
    FenceSpared σ (s.moveBytes n src dst len) := by
  refine FenceSpared.countReload (State.forEach_induction h fun t p _ ht => ?_) _ _ _ _
  have hr := ht.unitRead n false p.1 p.2
  have hp : 0xC000000000 ≤ dst + (p.1 - src) := Nat.le_trans hdst (Nat.le_add_right _ _)
  exact .ite ((hr.modTile n _).unitWrite n hp _ _) (hr.unitWrite n hp _ _)

theorem FenceSpared.reachLayer (h : FenceSpared σ s) (n : TileIx) (l : Nat) : FenceSpared σ (s.reachLayer n l) := by
  unfold State.reachLayer State.reloadStash
  extract_lets key m s1
  have h1 : FenceSpared σ s1 := h.of_eq rfl rfl
  refine .ite h (.ite (.ite h1 (h1.recompute _ _ _)) ?_)
  split
  · exact h1
  · split
    · exact h1
    · exact State.forEach_induction h1 fun _ e _ ht =>
        ht.moveBytes n _ (Nat.le_trans (Nat.le_add_right 0xC000000000 _) (Nat.le_add_right _ _)) _

/-- A reload that does not wait fences no tile. -/
theorem State.tileFenced_reachLayer (hok : s.regsOk) {n : TileIx} {l : Nat} (hstall : (s.reachLayer n l).stallReq = false) (k : Nat) :
    (s.reachLayer n l).tileFenced k = s.tileFenced k := by
  rcases FenceSpared.reachLayer (.inr (.refl hok)) n l with h | h
  · exact absurd (hstall.symm.trans h) Bool.false_ne_true
  · exact h.tileFenced k

/-! No command waits for it. -/

theorem State.Idle.countReload (h : s.Idle) (n : TileIx) (a len : Nat) (before : State) : (s.countReload n a len before).Idle := by
  unfold State.countReload
  split
  · exact .ite (h.keeps (State.stashPoison_keeps (List.Subset.refl _) (.refl s) _ _) rfl) h
  · exact h

theorem State.Idle.moveBytes (h : s.Idle) (n : TileIx) (src dst len : Nat) : (s.moveBytes n src dst len).Idle := by
  unfold State.moveBytes
  refine State.Idle.countReload (State.forEach_induction (P := State.Idle) h fun t p _ ht => ?_) _ _ _ _
  have hr := ht.unitRead n false p.1 p.2
  exact .ite ((hr.modTile n _).unitWrite n _ _ _) (hr.unitWrite n _ _ _)

theorem State.Idle.reachLayer (h : s.Idle) (n : TileIx) (l : Nat) : (s.reachLayer n l).Idle := by
  unfold State.reachLayer State.reloadStash
  extract_lets key m s1
  have h1 : s1.Idle := h
  refine .ite h (.ite (.ite h1 (h1.keeps (State.recompute_keeps (List.Subset.refl _) (.refl s1) _ _ _) rfl)) ?_)
  split
  · exact h1
  · split
    · exact h1
    · exact State.forEach_induction (P := State.Idle) h1 fun _ e _ ht => ht.moveBytes n _ _ _

end

end Sys2Proof.Machine
end

section
/-! SUPPORT. O29: OPERAND_IN and TRANSPOSE_IN (R76, R78, R80 to R82, R105, R235, R254). -/

namespace Sys2Proof.Machine

/-! The descriptor as the layer's rung changes it. -/

theorem lLayer_setDesc (d : BitVec 512) (k lo w v : Nat) (h : 64 * k + lo + w ≤ 44 ∨ 56 ≤ 64 * k + lo) :
    lLayer (setDesc d k lo w v) = lLayer d :=
  (setDesc_agree d k lo w v).dfld (hk := by decide) (hout := h.symm.imp (fun h => Nat.lt_of_lt_of_le (by decide) h) fun h => Nat.le_trans h (by decide))

theorem lLayer_g4Field (d : BitVec 512) (lo : Nat) (h : lo + 4 ≤ 44) : lLayer (g4Field d lo) = lLayer d := by
  unfold g4Field
  split
  · exact lLayer_setDesc d 0 lo 4 fFp4 (.inl (by omega))
  · rfl

/-- A Ladle command that its layer's rung rewrites keeps its layer: the rung changes bits below it, and words above. -/
theorem State.lLayer_rungLadle (s : State) (n : TileIx) (l : Nat) (d : BitVec 512) : lLayer (s.rungLadle n l d) = lLayer d := by
  unfold State.rungLadle
  extract_lets k rot d1 d2 d3 d4
  have h1 : lLayer d1 = lLayer d := by simp (disch := decide) only [d1, apply_ite lLayer, lLayer_setDesc, ite_self]
  have h2 : lLayer d2 = lLayer d := by simp (disch := decide) only [d2, apply_ite lLayer, lLayer_setDesc, h1, ite_self]
  have h3 : lLayer d3 = lLayer d := by simp (disch := decide) only [d3, apply_ite lLayer, lLayer_g4Field, h2, ite_self]
  have h4 : lLayer d4 = lLayer d := by simp (disch := decide) only [d4, apply_ite lLayer, lLayer_setDesc, h3, ite_self]
  simp (disch := decide) only [apply_ite lLayer, lLayer_setDesc, h4, ite_self]

/-! The operand at its port. -/

/-- Ladle l delivers an operand, or its refusal, at its port; the result-out Ladle has none. -/
def State.deliver (s : State) (n : TileIx) (l : Nat) (o : Operand) : State := if l == 3 then s else s.modTile n (fun t => t.pushPort l o)

section
variable {s u v : State} {n : TileIx}

/-- The tile at which an operand was delivered holds it last at the port of its Ladle, and keeps the rest. -/
theorem State.tile_deliver (s : State) (n : TileIx) (l : Fin 4) (o : Operand) :
    (s.deliver n l.val o).tile n = { s.tile n with
      portA := (s.tile n).portA ++ (if l = 0 then [o] else [])
      portB := (s.tile n).portB ++ (if l = 1 then [o] else [])
      portT := (s.tile n).portT ++ (if l = 2 then [o] else []) } := by
  unfold State.deliver TileSt.pushPort
  fin_cases l <;> simp [State.tile_modTile_self]

theorem State.deliver_regs (s : State) (n : TileIx) (l : Nat) (o : Operand) : (s.deliver n l o).regs = s.regs := by
  unfold State.deliver
  split
  · rfl
  · exact State.modTile_regs _ _ _

theorem State.deliver_onTile (h : s.regsOk) (l : Nat) (o : Operand) : s.onTile n (s.deliver n l o) := by
  have hsame : Same [.tiles] s (s.deliver n l o) := by
    unfold State.deliver
    split
    · exact .refl s
    · exact (Same.refl s).upd (M := [.tiles]) (List.Subset.refl _)
  refine ⟨fun m hm => ?_, ((Writes.refl (W := fun _ => False) h).of_regs (s.deliver_regs n l o)).frame fun _ hg => hg.elim, hsame.mono (by decide), ?_⟩
  · unfold State.deliver
    split
    · rfl
    · exact State.tile_modTile_ne _ _ _ _ (Ne.symm hm)
  · rw [State.memNoted, hsame.mem (by decide)]

/-- What the delivery leaves, after reads of tile memory and perhaps a report. -/
theorem State.deliver_frame (hu : TileAccess n (fun _ => False) s u) (hv : Ending (tileFields n.val) n u v) (l : Fin 4) (o : Operand) :
    let t := v.deliver n l.val o
    ((t.tile n).portA = (s.tile n).portA ++ (if l = 0 then [o] else []) ∧ (t.tile n).portB = (s.tile n).portB ++ (if l = 1 then [o] else []) ∧
      (t.tile n).portT = (s.tile n).portT ++ (if l = 2 then [o] else [])) ∧
      s.tileBytesBut n (fun _ => False) t ∧ (t.tile n).cru = (s.tile n).cru ∧ (t.tile n).dwq = (s.tile n).dwq ∧ s.onTile n t := by
  intro t
  obtain ⟨hbytes, hcru, hA, hB, hT, hdwq, hon⟩ := hu.then_ending hv
  have ht : t.tile n = _ := State.tile_deliver v n l o
  have hkept : v.tileBytesBut n (fun _ => False) t := .of_tile (by rw [ht]) (by rw [ht]) _
  refine ⟨⟨?_, ?_, ?_⟩, hbytes.trans hkept (by rw [hon.2.2.2]), ?_, ?_, hon.trans (State.deliver_onTile hv.writes.regsOk _ _)⟩ <;> rw [ht]
  · rw [hA]
  · rw [hB]
  · rw [hT]
  · exact hcru
  · exact hdwq

/-! A refused command. -/

@[simp] theorem State.layer_sticky (s : State) (n : TileIx) (k : Nat) (b : Bool) : ((s.sticky n k b).tile n).layer = (s.tile n).layer := by
  unfold State.sticky
  split
  · rfl
  · rw [State.tile_modTile_self]

@[simp] theorem State.layer_complete (s : State) (n : TileIx) (b : Nat) (r : BitVec 256) : ((s.complete n b r).tile n).layer = (s.tile n).layer := by
  rw [State.complete, State.tile_perfEvent]
  split
  · rfl
  · rw [State.record, State.tile_modTile_self]

/-- The registers of a refusal (R103). -/
def State.noteRefusal (s : State) (n : TileIx) (l : Nat) (d : BitVec 512) (status lflags : Nat) : State :=
  ((((s.flagIf (status == stLayout) (F.TILE_LDL_STAT_BAD_LAYOUT n.val)).flagIf (status == stScale) (F.TILE_LDL_STAT_BAD_SCALE n.val)).flagIf
    (bit lflags 3) (F.TILE_LDL_STAT_BASIS_MISMATCH n.val)).set (F.TILE_LDL_STAT_LAST_REFUSED_TAG n.val) (lTag d)).set
      (F.TILE_LDL_STAT_LAST_REFUSED_LADLE n.val) l

/-- Once a refusal stands in the registers, what is left of it is the report to the tile, and the counters. -/
theorem State.ladleEnd_refused (h : s.memWf = true) (l : Nat) (d : BitVec 512) {status lflags : Nat} (hst : status ≠ stOk) :
    Ending (fun g => perfWin g.off) n (s.noteRefusal n l d status lflags) (s.ladleEnd n l d (refusedRep status lflags)) ∧
      ((s.ladleEnd n l d (refusedRep status lflags)).tile n).layer = (s.tile n).layer := by
  unfold State.ladleEnd
  extract_lets k a b c a' s1 s2 s3
  have h1 : s1 = s.noteRefusal n l d status lflags := if_neg (by simpa [refusedRep] using hst)
  have hwf : s1.memWf = true := by
    rw [h1]
    exact (State.set_keeps (List.Subset.refl _) (State.set_keeps (List.Subset.refl _) (State.flagIf_keeps (List.Subset.refl _)
      (State.flagIf_keeps (List.Subset.refl _) (State.flagIf_keeps (List.Subset.refl _) (.refl s) _ _) _ _) _ _) _ _) _ _).memWf h
  have h2 : Ending (fun g => perfWin g.off) n s1 s2 := (Ending.refl hwf).modTile _ fun _ => rfl
  have hk := tileIx_lt_blocks n
  refine ⟨h1 ▸ (((((h2.sticky _ _).complete (fun _ hg => hg) hk _).perfLadle (fun _ hg => hg) hk _ _ _).perfLadle (fun _ hg => hg) hk _ _ _).perfLadle
    (fun _ hg => hg) hk _ _ _).perfEvent (fun _ hg => hg) hk _ _, ?_⟩
  rw [State.tile_perfEvent, State.tile_perfLadle, State.tile_perfLadle, State.tile_perfLadle, State.layer_complete, State.layer_sticky,
    State.tile_modTile_self, h1]
  simp only [State.noteRefusal, State.tile_set, State.tile_flagIf]

/-- A refusal leaves its TAG and its Ladle. -/
theorem State.get_lastRefused (h : s.memWf = true) (l : Fin 4) (d : BitVec 512) {status lflags : Nat} (hst : status ≠ stOk) :
    (s.ladleEnd n l.val d (refusedRep status lflags)).get (F.TILE_LDL_STAT_LAST_REFUSED_TAG n.val) = lTag d ∧
      (s.ladleEnd n l.val d (refusedRep status lflags)).get (F.TILE_LDL_STAT_LAST_REFUSED_LADLE n.val) = l.val := by
  obtain ⟨hend, -⟩ := State.ladleEnd_refused (n := n) h l.val d (lflags := lflags) hst
  have hperf : ∀ g : Field, perfWin g.off → g.off ≠ 0x100400 + n.val * 0x10000 := fun g hg => by
    have hlt := hg.2
    omega
  have hflags : ∀ b c e : Bool, (((s.flagIf b (F.TILE_LDL_STAT_BAD_LAYOUT n.val)).flagIf c (F.TILE_LDL_STAT_BAD_SCALE n.val)).flagIf e
      (F.TILE_LDL_STAT_BASIS_MISMATCH n.val)).regsOk := fun b c e =>
    (Ending.flagIf (W := fun _ => True) (Ending.flagIf (Ending.flagIf (Ending.refl (n := n) h) b _ trivial) c _ trivial) e _ trivial).writes.regsOk
  constructor
  · rw [hend.writes.get_off _ hperf (by simp [F.TILE_LDL_STAT_LAST_REFUSED_TAG]), State.noteRefusal,
      State.get_set_ne _ _ _ (State.set_regsOk _ _ _ (hflags _ _ _))
        (.inr (.inr (by simp [F.TILE_LDL_STAT_LAST_REFUSED_TAG, F.TILE_LDL_STAT_LAST_REFUSED_LADLE]))) (by simp [F.TILE_LDL_STAT_LAST_REFUSED_TAG])]
    exact State.get_set _ _ (hflags _ _ _) (by simp [F.TILE_LDL_STAT_LAST_REFUSED_TAG]) (lTag_lt d)
  · rw [hend.writes.get_off _ hperf (by simp [F.TILE_LDL_STAT_LAST_REFUSED_LADLE]), State.noteRefusal]
    exact State.get_set _ _ (State.set_regsOk _ _ _ (hflags _ _ _)) (by simp [F.TILE_LDL_STAT_LAST_REFUSED_LADLE]) l.isLt

/-! The command. -/

/-- The operand of a command, or its refusal; its Ladle only reads (R80, R81). -/
theorem State.makeOperand_cases (h : s.memWf = true) (l op : Nat) (d : BitVec 512) :
    let status := s.ladleStatus n l op d
    let r := s.makeOperand n l op d
    (r.2.d = d ∧ r.2.ladle = l ∧ r.2.status = status) ∧ TileAccess n (fun _ => False) s r.1 ∧ (status ≠ stOk → r.1 = s) := by
  intro status r
  unfold r State.makeOperand
  extract_lets
  by_cases hst : status = stOk
  · have hclip : TileAccess n (fun _ => False) s (s.clipRead n l d) := .clipRead h _ _
    have hread := hclip.trans (.readPlane hclip.memWf (lSource d) (lRows d) (lCols d))
    rw [if_neg (by simpa using hst)]
    simp only
    split
    · exact ⟨⟨rfl, rfl, hst.symm⟩, hread, absurd hst⟩
    · exact ⟨⟨rfl, rfl, hst.symm⟩, hread, absurd hst⟩
  · rw [if_pos (by simpa using hst)]
    exact ⟨⟨rfl, rfl, rfl⟩, .refl h, fun _ => rfl⟩

/-- The command once its tile has come to its layer: the operand or its refusal goes to its port, and a refusal reports. -/
def State.putOperand (s : State) (n : TileIx) (l op : Nat) (d : BitVec 512) : State :=
  let r := s.makeOperand n l op d
  (if r.2.status ≠ stOk then r.1.ladleEnd n l d (refusedRep r.2.status 0) else r.1).deliver n l r.2

/-- What the command leaves of the state in which its tile has come to its layer. -/
theorem State.putOperand_post (h : s.memWf = true) (hfree : s.tileFenced n.val = false) (l : Fin 4) (op : Nat) (d : BitVec 512) :
    let status := s.ladleStatus n l.val op d
    let t := s.putOperand n l.val op d
    (∃ o : Operand, o.d = d ∧ o.ladle = l.val ∧ o.status = status ∧
      (t.tile n).portA = (s.tile n).portA ++ (if l = 0 then [o] else []) ∧
      (t.tile n).portB = (s.tile n).portB ++ (if l = 1 then [o] else []) ∧
      (t.tile n).portT = (s.tile n).portT ++ (if l = 2 then [o] else [])) ∧
    (status = stOk → (t.tile n).recs = (s.tile n).recs) ∧
    (status ≠ stOk → (∃ r, (t.tile n).recs = r :: (s.tile n).recs ∧ recTag r = lTag d ∧ recStatus r = status) ∧
      t.get (F.TILE_LDL_STAT_LAST_REFUSED_TAG n.val) = lTag d ∧ t.get (F.TILE_LDL_STAT_LAST_REFUSED_LADLE n.val) = l.val) ∧
    s.tileBytesBut n (fun _ => False) t ∧ (t.tile n).cru = (s.tile n).cru ∧ (t.tile n).sf = (s.tile n).sf ∧
    (t.tile n).dwq = (s.tile n).dwq ∧ (t.tile n).layer = (s.tile n).layer ∧ s.onTile n t := by
  intro status t
  obtain ⟨⟨hd, hl, hs⟩, hread, hsame⟩ := State.makeOperand_cases (n := n) h l.val op d
  unfold t State.putOperand
  generalize s.makeOperand n l.val op d = r at hd hl hs hread hsame ⊢
  obtain ⟨u, o⟩ := r
  simp only at hd hl hs hread hsame ⊢
  by_cases hst : status = stOk
  · obtain ⟨hports, hbytes, hcru, hdwq, hon⟩ := State.deliver_frame hread (.refl hread.memWf) l o
    obtain ⟨hrecs, hsf, -, -, -, -, -, hlayer⟩ := TileSt.held_of_unitPart hread.unitPart
    rw [if_neg (not_not.2 (hs.trans hst))]
    refine ⟨⟨o, hd, hl, hs, hports⟩, fun _ => ?_, absurd hst, hbytes, hcru, ?_, hdwq, ?_, hon⟩ <;> rw [State.tile_deliver]
    · exact hrecs
    · exact hsf
    · exact hlayer
  · obtain rfl := hsame hst
    obtain ⟨he, hrecs, hsf⟩ := State.ladleEnd_report h hfree l.val d (refusedRep o.status 0)
    obtain ⟨hports, hbytes, hcru, hdwq, hon⟩ := State.deliver_frame hread he l o
    have hbad : o.status ≠ stOk := fun he => hst (hs.symm.trans he)
    obtain ⟨htag, hladle⟩ := State.get_lastRefused (n := n) h l d (lflags := 0) hbad
    obtain ⟨hrt, hrs⟩ := ladleRecord_fields l.val d (refusedRep o.status 0) (by
      rw [refusedRep, hs]
      exact Nat.lt_of_le_of_lt (State.ladleStatus_lt _ _ _) (by decide))
    rw [if_pos hbad]
    refine ⟨⟨o, hd, hl, hs, hports⟩, fun hok => absurd hok hst, fun _ => ⟨⟨_, ?_, hrt, hrs.trans hs⟩, ?_, ?_⟩, hbytes, hcru, ?_, hdwq, ?_, hon⟩
    · rw [State.tile_deliver]
      exact hrecs
    · rw [State.get_congr (State.deliver_regs _ _ _ _), htag]
    · rw [State.get_congr (State.deliver_regs _ _ _ _), hladle]
    · rw [State.tile_deliver]
      exact hsf
    · rw [State.tile_deliver]
      exact (State.ladleEnd_refused h l.val d hbad).2

/-! The layer. -/

/-- The tile comes to the layer of an operand's command: the first TRANSPOSE_IN of a layer reloads its stash (R234). -/
def State.toLayer (s : State) (n : TileIx) (op k : Nat) : State :=
  if op = opTransposeIn then (s.setLayer n k).reachLayer n k else s.setLayer n k

theorem State.opOperand_eq (s : State) (n : TileIx) (l op : Nat) (d0 : BitVec 512) :
    s.opOperand n l op d0 = (s.toLayer n op (lLayer (s.rungLadle n l d0))).putOperand n l op (s.rungLadle n l d0) := by
  unfold State.opOperand State.putOperand State.deliver State.toLayer
  simp only [beq_iff_eq, bne_iff_ne]

theorem State.reachLayer_of_known {k : Nat} (h : s.period.stepActive = false ∨ s.mem.reached.contains (64 * k + n.val) = true) :
    s.reachLayer n k = s := by
  refine if_pos (Bool.or_eq_true_iff.2 (h.imp_left fun h => ?_))
  rw [h]
  rfl

theorem State.toLayer_of_known {op k : Nat} (h : s.period.stepActive = false ∨ s.mem.reached.contains (64 * k + n.val) = true) :
    s.toLayer n op k = s.setLayer n k := by
  unfold State.toLayer
  rw [State.reachLayer_of_known (s := s.setLayer n k) h, ite_self]

theorem State.toLayer_memWf (h : s.memWf = true) (op k : Nat) : (s.toLayer n op k).memWf = true := by
  unfold State.toLayer
  split
  · exact (State.reachLayer_keeps (List.Subset.refl _) (.refl _) n k).memWf (State.setLayer_memWf h k)
  · exact State.setLayer_memWf h k

theorem State.Idle.toLayer (h : s.Idle) (n : TileIx) (op k : Nat) : (s.toLayer n op k).Idle := by
  unfold State.toLayer
  split
  · exact State.Idle.reachLayer (h.modTile n _) n k
  · exact h.modTile n _

/-- The tile is not fenced meanwhile, unless the command waits. -/
theorem State.toLayer_tileFenced (h : s.memWf = true) {op k : Nat} (hstall : (s.toLayer n op k).stallReq = false) (m : Nat) :
    (s.toLayer n op k).tileFenced m = s.tileFenced m := by
  unfold State.toLayer at hstall ⊢
  split at hstall
  · next hop =>
    rw [if_pos hop]
    exact State.tileFenced_reachLayer (s := s.setLayer n k) (State.regsOk_of_memWf (State.setLayer_memWf h k)) hstall m
  · next hop =>
    rw [if_neg hop]
    rfl

/-! The command is taken. -/

/-- A Ladle command that a tile's sequencer takes runs at once, unless an access holds it back. -/
theorem State.exec_ladle_of_passed {c : Instr} {l : Fin 4} (h : s.tileFree n) (hexec : exec c s = .next (s.issue c)) (hseq : seqOf c = some n)
    (hq : queueOf c = some (l.val, n.val)) (hdom : s.engineAt c = none → s.domainsOf c = [n.val, domNoc]) (hsc : scalarAsked c = none)
    (htry : ∀ w : Waiting, w.cmd = c → ∀ t : State, t.tryCmd w = t.tryUnit w) (hidle : (s.atUnit c).Idle) (hstall : (s.atUnit c).stallReq = false) :
    exec c s = .next (s.atUnit c) := by
  have hl : l.val ≠ 6 := Nat.ne_of_lt (Nat.lt_trans l.isLt (by decide))
  have heng : s.engineAt c = none := by simp [State.engineAt, hq, hl]
  rw [hexec, State.issue_eq_atUnit (h.takes hseq hq hl (hdom heng) (by rw [State.scalarPends, hsc]) htry) hidle hstall]

theorem State.exec_operand {c : Instr} {l : Fin 4} {op : Nat} {d : BitVec 512}
    (hc : (c = .operandIn n l d ∧ op = opOperandIn) ∨ (c = .transposeIn n l d ∧ op = opTransposeIn)) (h : s.tileFree n)
    (hidle : (s.opOperand n l.val op d).Idle) (hstall : (s.opOperand n l.val op d).stallReq = false) :
    exec c s = .next (s.opOperand n l.val op d) := by
  rcases hc with ⟨rfl, rfl⟩ | ⟨rfl, rfl⟩
  · exact State.exec_ladle_of_passed h rfl rfl rfl (fun he => by simp [State.domainsOf, he, posterOf]) rfl (fun w hw t => by rw [State.tryCmd, hw])
      hidle hstall
  · exact State.exec_ladle_of_passed h rfl rfl rfl (fun he => by simp [State.domainsOf, he, posterOf]) rfl (fun w hw t => by rw [State.tryCmd, hw])
      hidle hstall

end

/-- Settles O29: once its tile has come to the layer (`State.toLayer`), the command reads, delivers and perhaps reports (`State.putOperand_post`); a
reload that did not wait has fenced no tile (`State.toLayer_tileFenced`), so that the record is not lost. -/
theorem operandsReachTheirPort : Obligations.OperandsReachTheirPort := by
  intro c n l op d0 s hc hwf hfree d s0 s1 status
  refine ⟨fun hknown => State.toLayer_of_known hknown, fun hstall => ?_⟩
  have hfence : s1.tileFenced n.val = false := (State.toLayer_tileFenced hwf hstall n.val).trans hfree.2.1
  have hidle : s1.Idle := State.Idle.toLayer hfree.idle.1 n op _
  have hwf1 : s1.memWf = true := State.toLayer_memWf hwf op _
  obtain ⟨⟨o, hport⟩, haccepted, hrefused, hbytes, hcru, hsf, hdwq, hlayer, hon⟩ := State.putOperand_post hwf1 hfence l op d
  have hop : s.opOperand n l.val op d0 = s1.putOperand n l.val op d := s.opOperand_eq n l.val op d0
  have hrest := hon.2.2.1
  refine ⟨_, State.exec_operand hc hfree ?_ ?_, ?_⟩ <;> rw [hop]
  · exact (hrest.stalled (by decide)).trans hidle
  · exact (hrest.stallReq (by decide)).trans hstall
  · rw [s.lTag_rungLadle n l.val d0] at hrefused
    refine ⟨fun _ => ⟨o, hport⟩, haccepted, hrefused, hbytes, hcru, hsf, hdwq, fun hsame => ?_, hon⟩
    rw [hlayer, hsame, show s0.tile n = _ from s.setLayer_tile _]
    exact s.lLayer_rungLadle n l.val d0

end Sys2Proof.Machine
end

section
/-! SUPPORT. O31, O32: words of tile memory (R118, R136), fields of the record of a matrix command (R133), and how a command of a tile's unit is
taken. -/

namespace Sys2Proof.Machine

/-! Words and bytes. -/

theorem leNat_leBytes (k x : Nat) : leNat (leBytes k x) = x % 256 ^ k := by
  induction k generalizing x with
  | zero => rw [Nat.pow_zero, Nat.mod_one]; rfl
  | succ k ih =>
    rw [leBytes, leNat, ih, BitVec.toNat_ofNat, show 256 ^ (k + 1) = 256 * 256 ^ k from Nat.pow_succ']
    exact Nat.mod_mul.symm

theorem wordBytes_cons (w : U32) (l : List U32) : wordBytes (w :: l) = leBytes 4 w.toNat ++ wordBytes l := rfl

theorem wordBytes_length (l : List U32) : (wordBytes l).length = 4 * l.length := by
  induction l with
  | nil => rfl
  | cons w l ih => rw [wordBytes_cons, List.length_append, leBytes_length, ih, List.length_cons]; omega

theorem wordBytes_getD (l : List U32) {i j : Nat} (hi : i < l.length) (hj : j < 4) :
    (wordBytes l).getD (4 * i + j) 0 = (leBytes 4 (l.getD i 0).toNat).getD j 0 := by
  induction l generalizing i with
  | nil => exact absurd hi (Nat.not_lt_zero i)
  | cons w l ih =>
    rw [wordBytes_cons]
    cases i with
    | zero => rw [List.getD_append _ _ _ _ (by rw [leBytes_length]; omega), Nat.mul_zero, Nat.zero_add, List.getD_cons_zero]
    | succ i =>
      rw [List.getD_append_right _ _ _ _ (by rw [leBytes_length]; omega), leBytes_length, List.getD_cons_succ,
        ← ih (Nat.lt_of_succ_lt_succ hi)]
      congr 1
      omega

theorem getD_map_range {α : Type} (f : Nat → α) {k i : Nat} (hi : i < k) (z : α) : ((List.range k).map f).getD i z = f i := by
  rw [List.getD_eq_getElem?_getD, List.getElem?_map, List.getElem?_range hi]
  rfl

/-- A table cut into pieces. -/
theorem chunksOf_map_range {α : Type} {w : Nat} (hw : 0 < w) (f : Nat → α) {k fuel : Nat} (hf : k ≤ fuel) :
    chunksOf w fuel ((List.range (w * k)).map f) = (List.range k).map fun j => (List.range w).map fun i => f (w * j + i) := by
  induction k generalizing f fuel with
  | zero => cases fuel <;> rfl
  | succ k ih =>
    obtain ⟨fuel, rfl⟩ : ∃ m, fuel = m + 1 := ⟨fuel - 1, by omega⟩
    have hcut : (List.range (w * (k + 1))).map f = (List.range w).map f ++ (List.range (w * k)).map fun i => f (w + i) := by
      rw [Nat.mul_succ, Nat.add_comm, List.range_add, List.map_append, List.map_map]
      rfl
    have hne : ((List.range w).map f ++ (List.range (w * k)).map fun i => f (w + i)).isEmpty = false :=
      List.isEmpty_eq_false_iff.2 (List.ne_nil_of_length_pos (by rw [List.length_append, List.length_map, List.length_range]; omega))
    rw [hcut, chunksOf, hne, List.take_left' (by simp), List.drop_left' (by simp), ih _ (Nat.le_of_succ_le_succ hf),
      List.range_succ_eq_map, List.map_cons, List.map_map]
    simp only [Bool.false_eq_true, if_false, Nat.mul_zero, Nat.zero_add, List.cons.injEq, true_and]
    refine List.map_congr_left fun j _ => List.map_congr_left fun i _ => ?_
    show f _ = f _
    congr 1
    rw [Nat.succ_eq_add_one, Nat.mul_succ]
    omega

section
variable {n : TileIx} {s : State}

/-- The words of bytes of tile memory. -/
theorem words32_tileRead (a k : Nat) : words32 (s.tileRead n a (4 * k)).1 = (List.range k).map fun i => s.tileWord n (a + 4 * i) := by
  rw [words32, State.tileRead, chunksOf_map_range (by decide) _ (by simp only [List.length_map, List.length_range]; omega), List.map_map]
  refine List.map_congr_left fun i _ => ?_
  rw [Function.comp, State.tileWord]
  simp only [Nat.add_assoc]

theorem State.tileWord_of_bytes {a : Nat} {x : U32} (h : ∀ j < 4, s.tileByte n (a + j) = (leBytes 4 x.toNat).getD j 0) : s.tileWord n a = x := by
  have hb : (List.range 4).map (fun j => s.tileByte n (a + j)) = leBytes 4 x.toNat :=
    (List.map_congr_left fun j hj => h j (List.mem_range.1 hj)).trans rfl
  rw [State.tileWord, hb, leNat_leBytes, show 256 ^ 4 = 2 ^ 32 from rfl, Nat.mod_eq_of_lt x.isLt, BitVec.ofNat_toNat, BitVec.setWidth_eq]

/-- A word that was written. -/
theorem State.tileWord_tmWrite (h : s.memWf = true) {a : Nat} {l : List U32} (hlen : a + 4 * l.length ≤ tileBytes) (poison : Bool) {i : Nat}
    (hi : i < l.length) : (s.tmWrite n a (wordBytes l) poison).tileWord n (a + 4 * i) = l.getD i 0 := by
  refine State.tileWord_of_bytes fun j hj => ?_
  rw [Nat.add_assoc, State.tileByte_tmWrite h (by rwa [wordBytes_length]) _ (by rw [wordBytes_length]; omega), wordBytes_getD _ hi hj]

theorem State.tileWord_congr {t : State} (h : ∀ a, t.tileByte n a = s.tileByte n a) (a : Nat) : t.tileWord n a = s.tileWord n a := by
  unfold State.tileWord
  simp only [h]

/-- An update of the tile alone. -/
theorem State.modTile_onTile (h : s.regsOk) (f : TileSt → TileSt) : s.onTile n (s.modTile n f) :=
  ⟨fun _ hm => State.tile_modTile_ne _ _ _ _ (Ne.symm hm), (((Writes.refl (W := fun _ => False) h).of_regs).frame fun _ hg => hg.elim),
    ((Same.refl s).upd (M := [.tiles]) (List.Subset.refl _)).mono (by decide), .refl s⟩

/-- A command that a unit of a free tile takes, and whose accesses go on. -/
theorem State.issue_tileUnit {c : Instr} {q : Nat} (h : s.tileFree n) (hseq : seqOf c = some n) (hq : queueOf c = some (q, n.val)) (hq6 : q ≠ 6)
    (hdom : s.domainsOf c = [n.val, domNoc]) (hsc : scalarAsked c = none)
    (htry : ∀ w : Waiting, w.cmd = c → ∀ t : State, t.tryCmd w = t.tryUnit w) (hidle : (s.atUnit c).stalled = [])
    (hstall : (s.atUnit c).stallReq = false) : s.issue c = s.atUnit c :=
  State.issue_eq_atUnit (h.takes hseq hq hq6 hdom (by rw [State.scalarPends, hsc]) htry) hidle hstall

end

/-! The record of a matrix command. -/

theorem mTag_lt (d : BitVec 256) : mTag d < 2 ^ 32 := dfld_lt d 2 31 0
theorem mLayer_lt (d : BitVec 256) : mLayer d < 2 ^ 12 := dfld_lt d 0 55 44
theorem mSlot_lt (d : BitVec 256) : mSlot d < 2 ^ 7 := dfld_lt d 0 31 25

/-- A number without its bits above the lowest 128, and those bits. -/
theorem ofNat_eq_recordBits (x : Nat) : BitVec.ofNat 256 x = recordBits x (x / 2 ^ 128) := by
  rw [recordBits, Nat.mod_add_div' x (2 ^ 128)]

/-- TAG and STATUS of the record of a matrix command. -/
theorem mxRecord_fields {tag layer slot status mflags cycles nonfin intSat rowFail colFail firstRow firstCol : Nat} (htag : tag < 2 ^ 32)
    (hlayer : layer < 2 ^ 12) (hslot : slot < 2 ^ 7) (hstatus : status < 2 ^ 8) (hflags : mflags < 2 ^ 8) (hrow : firstRow < 2 ^ 16)
    (hcol : firstCol < 2 ^ 16) :
    recTag (mxRecord tag layer slot status mflags cycles nonfin intSat rowFail colFail firstRow firstCol) = tag ∧
      recStatus (mxRecord tag layer slot status mflags cycles nonfin intSat rowFail colFail firstRow firstCol) = status := by
  have h1 := sat32_lt cycles
  have h2 := sat32_lt nonfin
  have h3 := sat32_lt intSat
  have h4 := sat16_lt rowFail
  have h5 := sat16_lt colFail
  unfold mxRecord
  rw [ofNat_eq_recordBits]
  constructor
  · rw [recTag, recField_recordBits_low _ _ 0 (by decide)]
    omega
  · rw [recStatus, recField_recordBits_high _ _ (by decide) (by decide)]
    omega

end Sys2Proof.Machine
end

section
/-! SUPPORT. O32: CRU_COPY (R113, R120). -/

namespace Sys2Proof.Machine

section
variable {s : State} {n : TileIx}

/-! Slots that remember a refusal. -/

/-- The slots that `p` names remember the status of a refused command (R113). -/
def State.markSlots (s : State) (n : TileIx) (p : Nat → Bool) (status : Nat) : State :=
  s.modTile n fun t => { t with cru := t.cru.mapIdx fun i c => if p i then { c with bad := status } else c }

theorem State.markSlots_memWf (h : s.memWf = true) (p : Nat → Bool) (status : Nat) : (s.markSlots n p status).memWf = true := by
  unfold State.markSlots
  exact Keeps.memWf (L := [.tiles]) (State.modTile_keeps (List.Subset.refl _) (.refl s) n _ fun t ht => TileSt.wf_upd (t := t) rfl rfl ht) h

theorem State.markSlots_slot (p : Nat → Bool) (status : Nat) (i : Fin 128) :
    ((s.markSlots n p status).tile n).cru[i] = if p i.val then { (s.tile n).cru[i] with bad := status } else (s.tile n).cru[i] := by
  rw [State.markSlots, State.tile_modTile_self]
  simp only [Fin.getElem_fin, Vector.getElem_mapIdx]

/-- What a refused command of the array reports: REFUSED, and its record. -/
theorem State.refusal_report (h : s.memWf = true) (hfree : s.tileFenced n.val = false) (r : BitVec 256) :
    let t := (s.flag (F.TILE_MX_STAT_REFUSED n.val)).complete n n.val r
    Ending (tileFields n.val) n s t ∧ (t.tile n).recs = r :: (s.tile n).recs ∧ (t.tile n).sf = (s.tile n).sf ∧
      t.get (F.TILE_MX_STAT_REFUSED n.val) = 1 := by
  intro t
  have hflag : Ending (tileFields n.val) n s (s.flag (F.TILE_MX_STAT_REFUSED n.val)) := (Ending.refl h).set _ 1 (tileFields_tile _ _ _ _)
  have hrest : Ending (fun g => perfWin g.off) n (s.flag (F.TILE_MX_STAT_REFUSED n.val)) t :=
    (Ending.refl (hflag.keeps.memWf h)).complete (fun _ hg => hg) (tileIx_lt_blocks n) _
  refine ⟨hflag.trans (hrest.mono tileFields_perf), hflag.recs_complete (fun _ => tileFields_off) hfree rfl _ _, State.sf_complete _ _ _ _, ?_⟩
  rw [hrest.writes.get_off _ (fun g hg => ?_) (by simp [F.TILE_MX_STAT_REFUSED])]
  · exact State.get_set _ 1 (State.regsOk_of_memWf h) (by simp [F.TILE_MX_STAT_REFUSED]) (by simp [F.TILE_MX_STAT_REFUSED])
  · have hlt := hg.2
    simp only [F.TILE_MX_STAT_REFUSED]
    omega

/-! The command. -/

/-- The words of the slot, or of the pair, that a slot belongs to (R118). -/
def State.slotWords (s : State) (n : TileIx) (slot : Nat) : List U32 :=
  (List.range (if ((s.tile n).cru[slotIx slot]).fmt = 1 then 8192 else 4096)).map fun i => s.cruWord n (s.pairBase n slot + i / 4096) (i % 4096)

theorem State.opCruCopyCmd_accepted {d : BitVec 256} (hop : mOp d = opCruCopyCode) (hal : mLoad d % 512 = 0) :
    s.opCruCopyCmd n d = ((s.tmWrite n (mLoad d) (wordBytes (s.slotWords n (mSlot d))) false).slotRead n (mSlot d)).complete n n.val
      (mxRecord (mTag d) 0 (mSlot d) stOk 0 (if ((s.tile n).cru[slotIx (mSlot d)]).fmt = 1 then 512 else 256) 0 0 0 0 0xFFFF 0xFFFF) := by
  unfold State.opCruCopyCmd State.slotWords
  rw [if_neg (by simp [hop, hal])]
  simp only [beq_iff_eq]
  rfl

theorem State.opCruCopyCmd_refused {d : BitVec 256} (h : mOp d ≠ opCruCopyCode ∨ mLoad d % 512 ≠ 0) :
    s.opCruCopyCmd n d = ((s.markSlots n (fun i => i == mSlot d) stLayout).flag (F.TILE_MX_STAT_REFUSED n.val)).complete n n.val
      (mxRecord (mTag d) 0 (mSlot d) stLayout 0 0 0 0 0 0 0xFFFF 0xFFFF) :=
  if_pos (by simpa using h)

/-- An accepted CRU_COPY puts the words at LOAD_BASE and notes that its slot was read. -/
theorem State.opCruCopyCmd_copies (h : s.memWf = true) (hfree : s.tileFenced n.val = false) {d : BitVec 256} (hop : mOp d = opCruCopyCode)
    (hal : mLoad d % 512 = 0) :
    let l := s.slotWords n (mSlot d)
    let t := s.opCruCopyCmd n d
    mLoad d + 4 * l.length ≤ tileBytes →
    (∀ i < l.length, t.tileWord n (mLoad d + 4 * i) = l.getD i 0) ∧
      (∃ r, (t.tile n).recs = r :: (s.tile n).recs ∧ recTag r = mTag d ∧ recStatus r = stOk) ∧
      s.tileBytesBut n (fun a => mLoad d ≤ a ∧ a < mLoad d + 4 * l.length) t ∧ s.onTile n t := by
  intro l t hlen
  have hu := TileAccess.tmWrite (n := n) h (mLoad d) (wordBytes l) false
  rw [wordBytes_length] at hu
  have hword : ∀ i < l.length, (s.tmWrite n (mLoad d) (wordBytes l) false).tileWord n (mLoad d + 4 * i) = l.getD i 0 := fun i hi =>
    State.tileWord_tmWrite h hlen false hi
  unfold t
  rw [State.opCruCopyCmd_accepted hop hal]
  generalize s.tmWrite n (mLoad d) (wordBytes l) false = u at hu hword ⊢
  have hm := State.slotRead_marks hu.memWf n (mSlot d)
  obtain ⟨hmem, hpoison, hrecs, -⟩ := hm.tile
  generalize u.slotRead n (mSlot d) = v at hm hmem hpoison hrecs ⊢
  have hv : v.memWf = true := hm.keeps.memWf hu.memWf
  have he (r : BitVec 256) : Ending (tileFields n.val) n v (v.complete n n.val r) :=
    (Ending.refl hv).complete tileFields_perf (tileIx_lt_blocks n) _
  have hfence : v.tileFenced n.val = false := by
    rw [State.tileFenced, hm.writes.get_off F.FLT_FENCE_TILE_TILES fun _ hg => tileFields_off hg]
    exact (hu.tileFenced n.val).trans hfree
  have hbyte : ∀ a, v.tileByte n a = u.tileByte n a := fun a => by
    rw [State.tileByte, hmem, hm.keeps.same.free (by decide), State.tileByte]
  have hrec (r : BitVec 256) : ((v.complete n n.val r).tile n).recs = r :: (s.tile n).recs := by
    rw [State.recs_complete hfence, hrecs, (TileSt.held_of_unitPart hu.unitPart).1]
  refine ⟨fun i hi => ?_, ⟨_, hrec _, mxRecord_fields (mTag_lt d) (by decide) (mSlot_lt d) (by decide) (by decide) (by decide) (by decide)⟩, ?_,
    hu.onTile.trans (hm.onTile.trans (he _).onTile)⟩
  · rw [State.tileWord_congr fun a => ((he _).tileByte n a).trans (hbyte a)]
    exact hword i hi
  · exact hu.bytes.trans ((State.tileBytesBut.of_tile hmem hpoison _).trans ((he _).tileBytes _) (by rw [hm.memNoted])) hu.noted.stash

/-- A refused CRU_COPY leaves its status with the slot. -/
theorem State.opCruCopyCmd_refuses (h : s.memWf = true) (hfree : s.tileFenced n.val = false) {d : BitVec 256}
    (hbad : mOp d ≠ opCruCopyCode ∨ mLoad d % 512 ≠ 0) :
    let t := s.opCruCopyCmd n d
    ((t.tile n).cru[slotIx (mSlot d)]).bad = stLayout ∧ t.get (F.TILE_MX_STAT_REFUSED n.val) = 1 ∧
      (∃ r, (t.tile n).recs = r :: (s.tile n).recs ∧ recTag r = mTag d ∧ recStatus r = stLayout) ∧
      (t.tile n).mem = (s.tile n).mem ∧ s.onTile n t := by
  intro t
  have hslot := State.markSlots_slot (s := s) (n := n) (fun i => i == mSlot d) stLayout (slotIx (mSlot d))
  have hu := State.markSlots_memWf (n := n) h (fun i => i == mSlot d) stLayout
  have hon : s.onTile n (s.markSlots n (fun i => i == mSlot d) stLayout) := State.modTile_onTile (State.regsOk_of_memWf h) _
  have hrecs : ((s.markSlots n (fun i => i == mSlot d) stLayout).tile n).recs = (s.tile n).recs := by rw [State.markSlots, State.tile_modTile_self]
  have hmem : ((s.markSlots n (fun i => i == mSlot d) stLayout).tile n).mem = (s.tile n).mem := by rw [State.markSlots, State.tile_modTile_self]
  have hfence : (s.markSlots n (fun i => i == mSlot d) stLayout).tileFenced n.val = false := hfree
  unfold t
  rw [State.opCruCopyCmd_refused hbad]
  generalize s.markSlots n (fun i => i == mSlot d) stLayout = u at *
  obtain ⟨he, hr, -, hflag⟩ := State.refusal_report (n := n) hu hfence (mxRecord (mTag d) 0 (mSlot d) stLayout 0 0 0 0 0 0 0xFFFF 0xFFFF)
  refine ⟨?_, hflag, ⟨_, hr.trans (by rw [hrecs]), mxRecord_fields (mTag_lt d) (by decide) (mSlot_lt d) (by decide) (by decide) (by decide) (by decide)⟩,
    (TileSt.mem_of_held he.held).trans hmem, hon.trans he.onTile⟩
  rw [(TileSt.units_of_held he.held).1, hslot, if_pos]
  simpa [slotIx] using Nat.mod_eq_of_lt (mSlot_lt d)

theorem State.exec_cruCopy (h : s.tileFree n) (d : BitVec 256) : exec (.cruCopy n d) s = .next (s.opCruCopyCmd n d) := by
  have hsame := (State.opCruCopyCmd_keeps (List.Subset.refl _) (Keeps.refl s) n d).same
  refine congrArg Host.Outcome.next (State.issue_tileUnit (q := 4) h rfl rfl (by decide) rfl rfl (fun w hw t => by rw [State.tryCmd, hw])
    ((hsame.stalled (by decide)).trans h.idle.1) ((hsame.stallReq (by decide)).trans h.idle.2))

end

end Sys2Proof.Machine
end

section
/-! SUPPORT. O32: SPLIT_COMBINE (R134 to R138, R140, R146). -/

namespace Sys2Proof.Machine

section
variable {s : State} {n : TileIx}

/-! The positions of a partial buffer. -/

theorem State.modTile_modTile (s : State) (n : TileIx) (f g : TileSt → TileSt) : (s.modTile n f).modTile n g = s.modTile n fun t => g (f t) := by
  rw [State.modTile, State.tile_modTile_self]
  simp [State.modTile, State.setTile]

/-- The filled positions of the tile's partial buffers are `l` (R136). -/
def State.setParts (s : State) (n : TileIx) (l : List (Nat × PartRef)) : State := s.modTile n fun t => { t with parts := l }

theorem State.setParts_self (s : State) (n : TileIx) : s.setParts n (s.tile n).parts = s := by
  show ({ s with tiles := s.tiles.set n.val s.tiles[n.val] } : State) = s
  rw [Vector.set_getElem_self]

/-- What arrives fills positions of the combining tile, and does no more. -/
theorem State.partsArrive_eq (s : State) (n : TileIx) (c : CombineCmd) : ∃ l, s.partsArrive n c = s.setParts n l := by
  unfold State.partsArrive
  split
  · refine State.forEach_induction (P := fun t => ∃ l, t = s.setParts n l) ⟨_, (s.setParts_self n).symm⟩ fun t r _ ht => ?_
    obtain ⟨l, rfl⟩ := ht
    unfold State.partArrives
    split
    · split
      · exact ⟨_, State.modTile_modTile s n _ _⟩
      · exact ⟨l, rfl⟩
    · exact ⟨l, rfl⟩
  · exact ⟨_, (s.setParts_self n).symm⟩

theorem State.tile_setParts (s : State) (n : TileIx) (l : List (Nat × PartRef)) : (s.setParts n l).tile n = { s.tile n with parts := l } :=
  State.tile_modTile_self _ _ _

theorem State.setParts_memWf (h : s.memWf = true) (l : List (Nat × PartRef)) : (s.setParts n l).memWf = true := by
  unfold State.setParts
  exact Keeps.memWf (L := [.tiles]) (State.modTile_keeps (List.Subset.refl _) (.refl s) n _ fun t ht => TileSt.wf_upd (t := t) rfl rfl ht) h

theorem State.setParts_tileWord (s : State) (n : TileIx) (l : List (Nat × PartRef)) (a : Nat) : (s.setParts n l).tileWord n a = s.tileWord n a :=
  State.tileWord_congr (fun a => by rw [State.tileByte, State.tile_setParts]; rfl) a

/-! The operands of the combine. -/

/-- Bytes of one partial (R136). -/
def partBytes (acc : Nat) : Nat := if acc = 1 then 32768 else 16384

/-- Entry e of the partial at address a, as the combine takes it: the rounded sum of a compensated pair (R137). -/
def State.partEntry (s : State) (n : TileIx) (acc a e : Nat) : U32 :=
  if acc = 1 then add32 (s.tileWord n (a + 8 * e)) (s.tileWord n (a + 8 * e + 4)) else s.tileWord n (a + 4 * e)

/-- The entries of the partial at address a. -/
def State.partEntries (s : State) (n : TileIx) (acc a : Nat) : List U32 := (List.range 4096).map (s.partEntry n acc a)

theorem partValues_tileRead (acc a : Nat) : partValues acc (s.tileRead n a (partBytes acc)).1 = s.partEntries n acc a := by
  unfold partValues partBytes State.partEntries
  by_cases hacc : acc = 1
  · rw [if_pos (beq_iff_eq.2 hacc), if_pos hacc, show 32768 = 4 * 8192 from rfl, words32_tileRead, show 8192 = 2 * 4096 from rfl,
      chunksOf_map_range (by decide) _ (Nat.le_refl _), List.map_map]
    refine List.map_congr_left fun e _ => ?_
    rw [State.partEntry, if_pos hacc]
    show add32 (s.tileWord n (a + 4 * (2 * e + 0))) (s.tileWord n (a + 4 * (2 * e + 1))) = _
    congr 2 <;> omega
  · rw [if_neg (by simpa using hacc), if_neg hacc, show 16384 = 4 * 4096 from rfl, words32_tileRead]
    refine List.map_congr_left fun e _ => ?_
    rw [State.partEntry, if_neg hacc]

theorem State.partEntries_getD (s : State) (n : TileIx) (acc a : Nat) {i : Nat} (hi : i < 4096) :
    (s.partEntries n acc a).getD i 0 = s.partEntry n acc a i := getD_map_range _ hi _

/-- A partial is read: the state after it, its operands behind those of the parts before, whether poison was among them. -/
def readPart (n : TileIx) (p : SplitPlan) (a : State × List (List U32) × Bool) (r : PartRef) : State × List (List U32) × Bool :=
  let q := a.1.tmRead n (p.buffer + partBytes p.acc * r.index) (partBytes p.acc)
  (q.1, a.2.1 ++ [partValues p.acc q.2.1], a.2.2 || q.2.2 || r.poison)

/-- The partials are read in part order: the state after it, their operands, whether poison was among them. -/
def State.readParts (s : State) (n : TileIx) (p : SplitPlan) (l : List PartRef) : State × List (List U32) × Bool :=
  l.foldl (readPart n p) (s, [], false)

theorem State.readParts_values (h : s.memWf = true) {p : SplitPlan} {l : List PartRef}
    (hin : ∀ r ∈ l, p.buffer + partBytes p.acc * r.index + partBytes p.acc ≤ tileBytes) :
    TileAccess n (fun _ => False) s (s.readParts n p l).1 ∧
      (s.readParts n p l).2.1 = l.map fun r => s.partEntries n p.acc (p.buffer + partBytes p.acc * r.index) := by
  have hstep (q : State × List (List U32) × Bool) (r : PartRef) (hr : r ∈ l) (hq : TileAccess n (fun _ => False) s q.1) :
      TileAccess n (fun _ => False) s (readPart n p q r).1 ∧
        (readPart n p q r).2.1 = q.2.1 ++ [s.partEntries n p.acc (p.buffer + partBytes p.acc * r.index)] := by
    refine ⟨hq.trans (.tmRead hq.memWf _ _), ?_⟩
    show q.2.1 ++ [partValues p.acc (q.1.tmRead n _ _).2.1] = _
    rw [State.tmRead_data hq.memWf (hin r hr), hq.tileRead fun _ _ => id, partValues_tileRead]
  obtain ⟨hread, hvals⟩ := foldl_collect (p := (s, [], false)) (.refl h) hstep
  exact ⟨hread, hvals.trans (List.nil_append _)⟩

/-! The combine. -/

/-- What a combine reports: saturation, non-finite results, its record (R138). -/
def State.combineEnd (s : State) (n : TileIx) (tag sat nf nfIn : Nat) : State :=
  (((s.flagIf (sat != 0) (F.TILE_VE_STATUS_INT_SAT n.val)).flagIf (nf != 0) (F.TILE_VE_STATUS_NONFIN_OUT n.val)).sticky n nfIn (nf != 0)).complete n
    n.val (recordBits (tag + sat32 nf * 2 ^ 32 + sat32 sat * 2 ^ 64 + 2 * b2n (sat != 0) * 2 ^ 112) (numStatus ⟨0, 0, nfIn⟩ stOk))

theorem State.combineEnd_report (h : s.memWf = true) (hfree : s.tileFenced n.val = false) {tag : Nat} (htag : tag < 2 ^ 32) (sat nf nfIn : Nat) :
    Ending (tileFields n.val) n s (s.combineEnd n tag sat nf nfIn) ∧
      ∃ r, ((s.combineEnd n tag sat nf nfIn).tile n).recs = r :: (s.tile n).recs ∧ recTag r = tag ∧ recStatus r = stOk := by
  have hend := (((Ending.refl (W := tileFields n.val) (n := n) h).flagIf (sat != 0) (F.TILE_VE_STATUS_INT_SAT n.val) (tileFields_tile _ _ _ _)).flagIf
    (nf != 0) (F.TILE_VE_STATUS_NONFIN_OUT n.val) (tileFields_tile _ _ _ _)).sticky nfIn (nf != 0)
  refine ⟨hend.complete tileFields_perf (tileIx_lt_blocks n) _, _, hend.recs_complete (fun _ => tileFields_off) hfree ?_ _ _, ?_,
    recStatus_recordBits _ _ (by decide)⟩
  · rw [State.recs_sticky, State.tile_flagIf, State.tile_flagIf]
  · exact recTag_low (x := sat32 nf + sat32 sat * 2 ^ 32 + 2 * b2n (sat != 0) * 2 ^ 80) htag (by omega) _

/-- The results of a combine, by entry, with the saturating additions (R137). -/
def combinedEntries (acc : Nat) (vals : List (List U32)) : List (U32 × Nat) :=
  (List.range 4096).map fun e => combineEntry acc (vals.map fun v => v.getD e 0#32)

theorem combinedEntries_getD (acc : Nat) (vals : List (List U32)) {i : Nat} (hi : i < 4096) :
    ((combinedEntries acc vals).map Prod.fst).getD i 0 = (combineEntry acc (vals.map fun v => v.getD i 0)).1 := by
  rw [combinedEntries, List.map_map, getD_map_range _ hi]
  rfl

theorem combinedEntries_length (acc : Nat) (vals : List (List U32)) : ((combinedEntries acc vals).map Prod.fst).length = 4096 := by
  rw [List.length_map, combinedEntries, List.length_map, List.length_range]

/-- The non-finite values of a list, where the format has such (R138). -/
def nonfinCount (acc : Nat) (l : List U32) : Nat := if acc == 2 then 0 else (l.filter fun x => !isFin32 x).length

/-- A combine reads its partials, writes its result at DST, which is marked where a partial is poisoned, and reports. -/
theorem State.combineParts_eq (s : State) (n : TileIx) (c : CombineCmd) (p : SplitPlan) (l : List PartRef) :
    let q := s.readParts n p l
    let e := combinedEntries p.acc q.2.1
    let w := q.1.tmWrite n c.dst (wordBytes (e.map Prod.fst)) q.2.2
    s.combineParts n c p l = (if q.2.2 then w.taintTile n else w).combineEnd n c.tag.toNat (sumNat (e.map Prod.snd)) (nonfinCount p.acc (e.map Prod.fst))
      (sumNat (q.2.1.map (nonfinCount p.acc))) := by
  have hsize : partBytes p.acc = if p.acc == 1 then 32768 else 16384 := by simp only [partBytes, beq_iff_eq]
  intro q e w
  have hw : (e.map fun x => leBytes 4 x.1.toNat).flatten = wordBytes (e.map Prod.fst) := by rw [wordBytes, List.map_map]; rfl
  unfold State.combineParts
  rw [← hsize]
  unfold w
  rw [← hw]
  rfl

/-- A combine whose partials and result lie in tile memory (R137, R138). -/
theorem State.combineParts_post (h : s.memWf = true) (hfree : s.tileFenced n.val = false) {c : CombineCmd} {p : SplitPlan} {l : List PartRef}
    (hin : ∀ r ∈ l, p.buffer + partBytes p.acc * r.index + partBytes p.acc ≤ tileBytes) (hdst : c.dst + 16384 ≤ tileBytes) :
    let t := s.combineParts n c p l
    (∀ i < 4096, t.tileWord n (c.dst + 4 * i) =
      (combineEntry p.acc (l.map fun r => s.partEntry n p.acc (p.buffer + partBytes p.acc * r.index) i)).1) ∧
      (∃ r, (t.tile n).recs = r :: (s.tile n).recs ∧ recTag r = c.tag.toNat ∧ recStatus r = stOk) ∧
      (t.tile n).parts = (s.tile n).parts ∧ s.tileBytesBut n (fun a => c.dst ≤ a ∧ a < c.dst + 16384) t ∧ s.onTile n t := by
  intro t
  obtain ⟨hread, hvals⟩ := State.readParts_values (n := n) h hin
  have heq : t = _ := s.combineParts_eq n c p l
  rw [heq, hvals]
  generalize sumNat ((l.map _).map _) = nfIn
  generalize (s.readParts n p l).1 = u at hread ⊢
  generalize (s.readParts n p l).2.2 = bad
  have hword (i : Nat) (hi : i < 4096) := combinedEntries_getD p.acc (l.map fun r =>
    s.partEntries n p.acc (p.buffer + partBytes p.acc * r.index)) hi
  simp +contextual only [List.map_map, Function.comp_def, State.partEntries_getD] at hword
  have hlen := combinedEntries_length p.acc (l.map fun r => s.partEntries n p.acc (p.buffer + partBytes p.acc * r.index))
  generalize combinedEntries p.acc (l.map fun r => s.partEntries n p.acc (p.buffer + partBytes p.acc * r.index)) = e at hword hlen ⊢
  generalize sumNat (e.map Prod.snd) = sat
  generalize nonfinCount p.acc (e.map Prod.fst) = nf
  generalize e.map Prod.fst = ws at hword hlen ⊢
  have hwrite := TileAccess.tmWrite (n := n) hread.memWf c.dst (wordBytes ws) bad
  rw [wordBytes_length, hlen] at hwrite
  have hbytes (i : Nat) (hi : i < 4096) : (u.tmWrite n c.dst (wordBytes ws) bad).tileWord n (c.dst + 4 * i) = ws.getD i 0 :=
    State.tileWord_tmWrite hread.memWf (by rwa [hlen]) bad (by rwa [hlen])
  generalize u.tmWrite n c.dst (wordBytes ws) bad = w at hwrite hbytes ⊢
  have htaint : TileAccess n (fun _ => False) w (if bad = true then w.taintTile n else w) := .ite (.taintTile hwrite.memWf) (.refl hwrite.memWf)
  generalize (if bad = true then w.taintTile n else w) = v at htaint ⊢
  have hall : TileAccess n (fun a => c.dst ≤ a ∧ a < c.dst + 16384) s v :=
    (hread.mono fun _ => False.elim).trans (hwrite.trans (htaint.mono fun _ => False.elim))
  obtain ⟨he, r, hrecs, hr⟩ := State.combineEnd_report (n := n) hall.memWf ((hall.tileFenced n.val).trans hfree) c.tag.isLt sat nf nfIn
  obtain ⟨hb, -, -, -, -, -, hon⟩ := hall.then_ending he
  refine ⟨fun i hi => ?_, ⟨r, hrecs.trans (by rw [(TileSt.held_of_unitPart hall.unitPart).1]), hr⟩, ?_, hb, hon⟩
  · rw [State.tileWord_congr fun a => (he.tileByte n a).trans (htaint.tileByte id), hbytes i hi, hword i hi]
  · have h1 := congrArg TileSt.parts he.held
    have h2 := congrArg TileSt.parts hall.unitPart
    exact h1.trans h2

/-! The command. -/

theorem State.execSplitCombine_of_free (h : s.tileFree n) (c : CombineCmd) :
    exec (.splitCombine n c) s = .next ((s.partsArrive n c).issue (.splitCombine n c)) := by
  have hpost : s.mayPost (.splitCombine n c) = true := h.mayPost rfl
  have hwait : s.combineWaits n c.plan = false := by rw [State.combineWaits, h.idle.1]; rfl
  show execSplitCombine n c s = _
  simp only [execSplitCombine, hpost, hwait]
  rfl

theorem State.takes_splitCombine (h : s.tileFree n) (c : CombineCmd) : s.Takes (.splitCombine n c) :=
  h.takes (q := 5) rfl rfl (by decide) rfl rfl fun w hw t => by rw [State.tryCmd, hw]

/-- A combine whose partials have all arrived: a refused part fails the step (R146), else the partials are combined. -/
theorem State.opSplitCombine_ready {c : CombineCmd} {p : SplitPlan} {l : List PartRef} (hp : s.splitPlan n c.plan = some p)
    (hl : s.partsReady n c.plan p = some l) :
    s.opSplitCombine n c =
      let s1 := s.modTile n (fun t => { t with parts := t.parts.filter (fun x => x.1 != c.plan) })
      if l.any (fun r => bits r.mstatus.toNat 11 8 != 0) then s1.failTile n else s1.combineParts n c p l := by
  unfold State.opSplitCombine
  rw [hp]
  simp only
  rw [hl]

theorem State.opSplitCombine_missing {c : CombineCmd} {p : SplitPlan} (hp : s.splitPlan n c.plan = some p) (hl : s.partsReady n c.plan p = none) :
    s.opSplitCombine n c = { s with stallReq := true } := by
  unfold State.opSplitCombine
  rw [hp]
  simp only
  rw [hl]

/-! A command that its unit holds back. -/

theorem State.stallEffects_of_power {t : State} (h : t.power = s.power) : s.stallEffects t =
    (s.flagIf (t.on F.MGT_HDM_BIAS_STALL) F.MGT_HDM_BIAS_STALL).flagIf (t.on F.ENG_CAST_STAT_STAGE_WAIT) F.ENG_CAST_STAT_STAGE_WAIT := by
  have hnew : t.power.waking.filter (fun w => !s.power.waking.contains w) = [] := by
    rw [h, List.filter_eq_nil_iff]
    intro w hw
    simpa using hw
  rw [State.stallEffects, hnew]
  rfl

theorem State.seqHeld_of_idle (h : s.stalled = []) (c : Instr) : s.seqHeld c = false := by
  unfold State.seqHeld
  split
  · rw [h]; rfl
  · rfl

theorem State.queueFull_of_idle (h : s.stalled = []) (c : Instr) : s.queueFull c = false := by
  unfold State.queueFull
  split
  · rw [State.waitingIn, h]
    simp
  · rfl

/-- A command that its unit takes and that an access holds back stands in the unit's queue. -/
theorem State.issue_eq_waits {c : Instr} (h : s.Takes c) (hstall : (s.atUnit c).stallReq = true) (hunit : unitQueued c = true)
    (hsum : summaryAsked c = none) (hidle : (s.stallEffects (s.atUnit c)).stalled = []) :
    let w : Waiting := ⟨c, s.scalarNow c, true, false⟩
    s.issue c = ((s.stallEffects (s.atUnit c)).wait w).setDepths [w] := by
  intro w
  have hblocked : s.blocked c = false := by rw [State.blocked, h.idle]; rfl
  have hwaits : (s.stallEffects (s.atUnit c)).waitAtUnit ⟨c, s.scalarNow c, false, false⟩ = (s.stallEffects (s.atUnit c)).wait w := by
    simp only [State.waitAtUnit, hunit, State.awaitSummary, hsum]
    rfl
  have htry : s.tryCmd ⟨c, 0, false, false⟩ = (s.stallEffects (s.atUnit c)).wait w := by
    rw [h.unitKind _ rfl, ← hwaits]
    simp only [State.tryUnit, State.atSequencer, State.runUnit, State.seqHeld_of_idle h.idle, State.queueFull_of_idle h.idle, h.scalar, h.awake,
      hblocked, h.uncapped]
    exact if_pos hstall
  have hstalled : ((s.stallEffects (s.atUnit c)).wait w).stalled = [w] := by rw [State.wait, hidle]; rfl
  simp only [State.issue, h.posts, h.lives, htry, hstalled, h.idle]
  rfl

/-- A combine that waits for its partials. -/
theorem State.splitCombine_waits (h : s.memWf = true) (hfree : s.tileFree n) {c : CombineCmd} {p : SplitPlan} (hp : s.splitPlan n c.plan = some p)
    (hl : s.partsReady n c.plan p = none) :
    let t := s.issue (.splitCombine n c)
    t.stalled = [⟨.splitCombine n c, 0, true, false⟩] ∧ t.get (F.TILE_VE_STATUS_QUEUE_DEPTH n.val) = 1 ∧ t.tile n = s.tile n := by
  have hop : s.atUnit (.splitCombine n c) = { s with stallReq := true } := State.opSplitCombine_missing hp hl
  have heff := State.stallEffects_of_power (s := s) (t := { s with stallReq := true }) rfl
  have hu : Ending (fun _ => True) n s (s.stallEffects (s.atUnit (.splitCombine n c))) := by
    rw [hop, heff]
    exact ((Ending.refl h).flagIf _ _ trivial).flagIf _ _ trivial
  have htile : (s.stallEffects (s.atUnit (.splitCombine n c))).tile n = s.tile n := by rw [hop, heff, State.tile_flagIf, State.tile_flagIf]
  have hidle : (s.stallEffects (s.atUnit (.splitCombine n c))).stalled = [] := (hu.keeps.same.stalled (by decide)).trans hfree.idle.1
  intro t
  have ht : t = _ := State.issue_eq_waits (State.takes_splitCombine hfree c) (by rw [hop]) rfl rfl hidle
  rw [ht]
  generalize s.stallEffects (s.atUnit (.splitCombine n c)) = u at *
  have hone : (u.wait ⟨.splitCombine n c, 0, true, false⟩).waitingIn (5, n.val) = 1 := by
    simp [State.waitingIn, State.wait, hidle, State.queueAt, queueOf]
  have hdepth : (u.wait ⟨.splitCombine n c, 0, true, false⟩).setDepths [⟨.splitCombine n c, 0, true, false⟩] =
      (u.wait ⟨.splitCombine n c, 0, true, false⟩).set (F.TILE_VE_STATUS_QUEUE_DEPTH n.val) 1 := by
    show (u.wait ⟨.splitCombine n c, 0, true, false⟩).set _ (Nat.min 64 ((u.wait ⟨.splitCombine n c, 0, true, false⟩).waitingIn (5, n.val))) = _
    rw [hone]
    rfl
  show ((u.wait ⟨.splitCombine n c, 0, true, false⟩).setDepths [⟨.splitCombine n c, 0, true, false⟩]).stalled = _ ∧ _
  refine ⟨?_, ?_, ?_⟩
  · rw [hdepth]
    show u.stalled ++ _ = _
    rw [hidle]
    rfl
  · refine (congrArg (fun x : State => x.get (F.TILE_VE_STATUS_QUEUE_DEPTH n.val)) hdepth).trans
      (State.get_set (s := u.wait ⟨.splitCombine n c, 0, true, false⟩) _ 1 hu.writes.regsOk ?_ ?_) <;> simp [F.TILE_VE_STATUS_QUEUE_DEPTH]
  · exact (congrArg (fun x : State => x.tile n) hdepth).trans htile

end

end Sys2Proof.Machine
end

section
/-! SUPPORT. O32: the statement. -/

namespace Sys2Proof.Machine

section
variable {s : State} {n : TileIx}

theorem State.setParts_onTile (h : s.memWf = true) (l : List (Nat × PartRef)) : s.onTile n (s.setParts n l) :=
  State.modTile_onTile (State.regsOk_of_memWf h) _

/-- A combine of a plan of the tile, once what arrives has filled its positions. -/
theorem State.exec_splitCombine_ready {c : CombineCmd} {p : SplitPlan} {l : List PartRef} (hfree : s.tileFree n)
    (hp : s.splitPlan n c.plan = some p) (hl : (s.partsArrive n c).partsReady n c.plan p = some l) :
    exec (.splitCombine n c) s = .next (
      let freed := (s.partsArrive n c).modTile n (fun t => { t with parts := t.parts.filter (fun x => x.1 != c.plan) })
      if l.any (fun r => bits r.mstatus.toNat 11 8 != 0) then freed.failTile n else freed.combineParts n c p l) := by
  obtain ⟨parts, hparts⟩ := s.partsArrive_eq n c
  have hfree1 : (s.partsArrive n c).tileFree n := by rw [hparts]; exact hfree
  have hp1 : (s.partsArrive n c).splitPlan n c.plan = some p := by rw [hparts]; exact hp
  have hat : (s.partsArrive n c).atUnit (.splitCombine n c) = _ := State.opSplitCombine_ready hp1 hl
  have hsame := (State.opSplitCombine_keeps (List.Subset.refl _) (Keeps.refl (s.partsArrive n c)) n c).same
  rw [State.execSplitCombine_of_free hfree, State.issue_eq_atUnit (State.takes_splitCombine hfree1 c), hat]
  · exact (hsame.stalled (by decide)).trans hfree1.idle.1
  · rw [hat]
    dsimp only
    split
    · exact hfree1.idle.2
    · exact ((State.combineParts_keeps (List.Subset.refl _) (Keeps.refl _) n c p l).same.stallReq (by decide)).trans hfree1.idle.2

theorem State.exec_splitCombine_of_none {c : CombineCmd} (hfree : s.tileFree n) (hp : s.splitPlan n c.plan = none) :
    exec (.splitCombine n c) s = .next s := by
  have harrive : s.partsArrive n c = s := by rw [State.partsArrive, hp]
  have hat : s.atUnit (.splitCombine n c) = s := by
    show s.opSplitCombine n c = s
    rw [State.opSplitCombine, hp]
  rw [State.execSplitCombine_of_free hfree, harrive, State.issue_eq_atUnit (State.takes_splitCombine hfree c), hat]
  · rw [hat]
    exact hfree.idle.1
  · rw [hat]
    exact hfree.idle.2

theorem State.slotWords_length (s : State) (n : TileIx) (slot : Nat) :
    (s.slotWords n slot).length = (if ((s.tile n).cru[slotIx slot]).fmt = 1 then 32768 else 16384) / 4 := by
  rw [State.slotWords, List.length_map, List.length_range]
  split <;> rfl

/-- An accepted CRU_COPY moves the slot, or the pair, bit for bit (R120). -/
theorem State.exec_cruCopy_moves (h : s.memWf = true) (hfree : s.tileFree n) {d : BitVec 256} (hop : mOp d = opCruCopyCode) (hal : mLoad d % 512 = 0)
    {size : Nat} (hsize : size = if ((s.tile n).cru[slotIx (mSlot d)]).fmt = 1 then 32768 else 16384) (hlen : mLoad d + size ≤ tileBytes) :
    endsIn (exec (.cruCopy n d) s) fun t =>
      (∀ i < size / 4, t.tileWord n (mLoad d + 4 * i) = s.cruWord n (s.pairBase n (mSlot d) + i / 4096) (i % 4096)) ∧
        (∃ r, (t.tile n).recs = r :: (s.tile n).recs ∧ recTag r = mTag d ∧ recStatus r = stOk) ∧
        s.tileBytesBut n (fun a => mLoad d ≤ a ∧ a < mLoad d + size) t ∧ s.onTile n t := by
  have hcount : (s.slotWords n (mSlot d)).length = size / 4 := by rw [State.slotWords_length, hsize]
  have hfour : 4 * (size / 4) = size := by rw [hsize]; split <;> rfl
  have hrange : size / 4 = if ((s.tile n).cru[slotIx (mSlot d)]).fmt = 1 then 8192 else 4096 := by rw [hsize]; split <;> rfl
  obtain ⟨hwords, hrec, hbytes, hon⟩ := State.opCruCopyCmd_copies (n := n) h hfree.2.1 hop hal (by rwa [hcount, hfour])
  rw [hcount] at hwords
  rw [hcount, hfour] at hbytes
  exact ⟨_, State.exec_cruCopy hfree d, fun i hi => (hwords i hi).trans (getD_map_range _ (hrange ▸ hi) _), hrec, hbytes, hon⟩

/-- A combine whose positions are all filled by accepted parts (R136 to R138). -/
theorem State.exec_splitCombine_combines (h : s.memWf = true) (hfree : s.tileFree n) {c : CombineCmd} {p : SplitPlan} {l : List PartRef}
    (hp : s.splitPlan n c.plan = some p) (hl : (s.partsArrive n c).partsReady n c.plan p = some l) {size : Nat} (hsize : size = partBytes p.acc)
    (hok : ∀ r ∈ l, bits r.mstatus.toNat 11 8 = 0 ∧ p.buffer + size * r.index + size ≤ tileBytes) (hdst : c.dst + 16384 ≤ tileBytes) :
    let freed := (s.partsArrive n c).modTile n (fun t => { t with parts := t.parts.filter (fun x => x.1 != c.plan) })
    endsIn (exec (.splitCombine n c) s) fun t =>
      (∀ i < 4096, t.tileWord n (c.dst + 4 * i) =
        (combineEntry p.acc (l.map fun r => s.partEntry n p.acc (p.buffer + size * r.index) i)).1) ∧
        (∃ r, (t.tile n).recs = r :: (s.tile n).recs ∧ recTag r = c.tag.toNat ∧ recStatus r = stOk) ∧
        (t.tile n).parts = (freed.tile n).parts ∧ s.tileBytesBut n (fun a => c.dst ≤ a ∧ a < c.dst + 16384) t ∧ s.onTile n t := by
  intro freed
  subst hsize
  obtain ⟨parts, hparts⟩ := s.partsArrive_eq n c
  have hfreed : freed = s.setParts n (parts.filter fun x => x.1 != c.plan) := by
    unfold freed
    rw [hparts]
    exact State.modTile_modTile s n _ _
  have hgood : l.any (fun r => bits r.mstatus.toNat 11 8 != 0) = false := List.any_eq_false.2 fun r hr => by simp [(hok r hr).1]
  have hexec : exec (.splitCombine n c) s = .next (freed.combineParts n c p l) :=
    (State.exec_splitCombine_ready hfree hp hl).trans (by rw [hgood]; rfl)
  rw [hfreed] at hexec ⊢
  obtain ⟨hwords, hrec, hkept, hbytes, hon⟩ := State.combineParts_post (n := n) (c := c)
    (State.setParts_memWf h (parts.filter fun x => x.1 != c.plan)) hfree.2.1 (fun r hr => (hok r hr).2) hdst
  have ht := s.tile_setParts n (parts.filter fun x => x.1 != c.plan)
  refine ⟨_, hexec, fun i hi => (hwords i hi).trans ?_, by rwa [ht] at hrec, hkept, ?_, (State.setParts_onTile h _).trans hon⟩
  · simp only [State.partEntry, State.setParts_tileWord]
  · exact (State.tileBytesBut.of_tile (by rw [ht]) (by rw [ht]) _).trans hbytes rfl

/-- A combine with a refused part fails the step, and frees the positions (R146). -/
theorem State.exec_splitCombine_fails (hfree : s.tileFree n) {c : CombineCmd} {p : SplitPlan} {l : List PartRef}
    (hp : s.splitPlan n c.plan = some p) (hl : (s.partsArrive n c).partsReady n c.plan p = some l)
    (hbad : ∃ r ∈ l, bits r.mstatus.toNat 11 8 ≠ 0) :
    exec (.splitCombine n c) s =
      .next (((s.partsArrive n c).modTile n (fun t => { t with parts := t.parts.filter (fun x => x.1 != c.plan) })).failTile n) := by
  obtain ⟨r, hr, hne⟩ := hbad
  have hany : l.any (fun r => bits r.mstatus.toNat 11 8 != 0) = true := List.any_eq_true.2 ⟨r, hr, by simpa using hne⟩
  rw [State.exec_splitCombine_ready hfree hp hl, hany]
  rfl

/-- A combine that misses a partial waits in its queue (R136, R178). -/
theorem State.exec_splitCombine_waits (h : s.memWf = true) (hfree : s.tileFree n) {c : CombineCmd} {p : SplitPlan}
    (hp : s.splitPlan n c.plan = some p) (hl : (s.partsArrive n c).partsReady n c.plan p = none) :
    endsIn (exec (.splitCombine n c) s) fun t =>
      t.stalled = [⟨.splitCombine n c, 0, true, false⟩] ∧ t.get (F.TILE_VE_STATUS_QUEUE_DEPTH n.val) = 1 ∧ t.tile n = (s.partsArrive n c).tile n := by
  refine ⟨_, State.execSplitCombine_of_free hfree c, ?_⟩
  obtain ⟨parts, hparts⟩ := s.partsArrive_eq n c
  rw [hparts] at hl ⊢
  exact State.splitCombine_waits (State.setParts_memWf h parts) hfree hp hl

end

/-- Settles O32: CRU_COPY writes the slot's words (`State.opCruCopyCmd_copies`) or reports its refusal (`State.opCruCopyCmd_refuses`); the partials
that arrive fill positions alone (`State.partsArrive_eq`), and the combine finds them all there (`State.combineParts_post`) or waits
(`State.splitCombine_waits`). -/
theorem partialsMoveAndCombine : Obligations.PartialsMoveAndCombine := by
  intro n s hwf hfree
  refine ⟨fun _ hop hal => State.exec_cruCopy_moves hwf hfree hop hal rfl,
    fun d hbad => ⟨_, State.exec_cruCopy hfree d, State.opCruCopyCmd_refuses hwf hfree.2.1 hbad⟩,
    fun c p hp => ⟨fun l hl hok hdst => ?_, fun _ hl hbad => State.exec_splitCombine_fails hfree hp hl hbad,
      fun hl => State.exec_splitCombine_waits hwf hfree hp hl⟩,
    fun _ hp => State.exec_splitCombine_of_none hfree hp⟩
  exact State.exec_splitCombine_combines hwf hfree hp hl rfl hok hdst

end Sys2Proof.Machine
end

section
/-! SUPPORT. O31: what every part of a matrix command keeps (R80, R109 to R133). -/

namespace Sys2Proof.Machine

/-- A tile without what a matrix command may write: memory, flags and notes of the step, Crucible, records. -/
def TileSt.besideMatrix (t : TileSt) : TileSt :=
  { t with mem := [], poison := [], failed := false, poisonUsed := false, cksFailed := false, cru := TileSt.init.cru, recs := [], nonfin := false,
           origin := none, layer := 0, spill := [], sat := [] }

/-- The register fields that a matrix command may write: those of its tile, the counters, those of an access to tile memory and of a record. -/
def mxFields (n : Nat) (g : Field) : Prop := tileFields n g ∨ g ∈ tmFields ∨ g ∈ queueFields

/-- The parts of the state that a matrix command writes but for the record of a failed checksum. -/
def mxPieces : List Piece := [.regs, .mem, .tiles, .perf]

/-- From `s` to `t` part of a matrix command of tile n ran: of the tile's memory it wrote bytes of `st`, of the state parts of `L`. -/
structure MxWork (L : List Piece) (n : TileIx) (st : Nat → Prop) (s t : State) : Prop where
  memWf : t.memWf = true
  same : Same L s t
  writes : Writes (mxFields n.val) s t
  others : ∀ m, m ≠ n → t.tile m = s.tile m
  beside : (t.tile n).besideMatrix = (s.tile n).besideMatrix
  noted : s.memNoted t
  bytes : s.tileBytesBut n st t

/-- Part of a matrix command that leaves the Crucible and the records alone. -/
structure MxQuiet (L : List Piece) (n : TileIx) (st : Nat → Prop) (s t : State) : Prop extends MxWork L n st s t where
  cru : (t.tile n).cru = (s.tile n).cru
  recs : (t.tile n).recs = (s.tile n).recs

section
variable {L : List Piece} {n : TileIx} {st : Nat → Prop} {s t u : State}

theorem MxWork.trans (h : MxWork L n st s t) (k : MxWork L n st t u) : MxWork L n st s u where
  memWf := k.memWf
  same := h.same.trans k.same
  writes := h.writes.trans k.writes
  others m hm := (k.others m hm).trans (h.others m hm)
  beside := k.beside.trans h.beside
  noted := h.noted.trans k.noted
  bytes := h.bytes.trans k.bytes h.noted.stash

theorem MxWork.mono {M : List Piece} {S : Nat → Prop} (h : MxWork M n S s t) (hL : M ⊆ L) (hS : ∀ a, S a → st a) : MxWork L n st s t :=
  { h with same := h.same.mono hL, bytes := h.bytes.mono hS }

theorem MxQuiet.refl (h : s.memWf = true) : MxQuiet L n st s s :=
  ⟨⟨h, .refl s, .refl (State.regsOk_of_memWf h), fun _ _ => rfl, rfl, .refl s, .refl s n st⟩, rfl, rfl⟩

theorem MxQuiet.trans (h : MxQuiet L n st s t) (k : MxQuiet L n st t u) : MxQuiet L n st s u :=
  ⟨h.toMxWork.trans k.toMxWork, k.cru.trans h.cru, k.recs.trans h.recs⟩

theorem MxQuiet.mono {M : List Piece} {S : Nat → Prop} (h : MxQuiet M n S s t) (hL : M ⊆ L) (hS : ∀ a, S a → st a) : MxQuiet L n st s t :=
  ⟨h.toMxWork.mono hL hS, h.cru, h.recs⟩

theorem MxQuiet.ite {c : Prop} [Decidable c] (ht : MxQuiet L n st s t) (hu : MxQuiet L n st s u) : MxQuiet L n st s (if c then t else u) := by
  split
  · exact ht
  · exact hu

/-- An access to tile memory. -/
theorem TileAccess.mxQuiet (h : TileAccess n st s t) : MxQuiet mxPieces n st s t where
  memWf := h.memWf
  same := h.same.mono (by decide)
  writes := h.writes.mono fun _ hg => .inr (.inl hg)
  others := h.others
  beside := by
    have hb := congrArg TileSt.besideMatrix h.unitPart
    exact hb
  noted := h.noted
  bytes := h.bytes
  cru := (TileSt.held_of_unitPart h.unitPart).2.2.1
  recs := (TileSt.held_of_unitPart h.unitPart).1

/-- A report that leaves the scalar file alone. -/
theorem Ending.mxWork (hs : s.memWf = true) (h : Ending (tileFields n.val) n s t) (hsf : (t.tile n).sf = (s.tile n).sf) : MxWork mxPieces n st s t where
  memWf := h.keeps.memWf hs
  same := h.keeps.same.mono (by decide)
  writes := h.writes.mono fun _ => .inl
  others := h.others
  beside := by
    have hb : ∀ t : TileSt, t.besideMatrix = { t.held with sf := t.sf }.besideMatrix := fun _ => rfl
    rw [hb, h.held, hsf, ← hb]
  noted := by rw [State.memNoted, h.keeps.same.mem (by decide)]
  bytes := h.tileBytes st

/-- An update of registers of the tile and of counters. -/
theorem Ending.mxQuiet (hs : s.memWf = true) (h : Ending (tileFields n.val) n s t) (ht : t.tile n = s.tile n) : MxQuiet mxPieces n st s t :=
  ⟨h.mxWork hs (by rw [ht]), by rw [ht], by rw [ht]⟩

/-- An update of the part of the tile that a matrix command may write, memory apart. -/
theorem MxWork.modTile (h : s.memWf = true) (f : TileSt → TileSt) (hm : ∀ t, (f t).mem = t.mem) (hp : ∀ t, (f t).poison = t.poison)
    (hb : ∀ t, (f t).besideMatrix = t.besideMatrix) : MxWork mxPieces n st s (s.modTile n f) where
  memWf := (State.modTile_keeps (L := [.tiles]) (List.Subset.refl _) (Keeps.refl s) n _ fun t => TileSt.wf_upd (hm t) (hp t)).memWf h
  same := (Same.refl s).upd (M := [.tiles]) (by decide)
  writes := (Writes.refl (State.regsOk_of_memWf h)).of_regs
  others _ hne := State.tile_modTile_ne _ _ _ _ (Ne.symm hne)
  beside := by rw [State.tile_modTile_self, hb]
  noted := .refl s
  bytes := .of_tile (by rw [State.tile_modTile_self, hm]) (by rw [State.tile_modTile_self, hp]) st

/-! What such a part leaves as it was. -/

theorem mxFields_off {g : Field} (h : mxFields n.val g) :
    g.off = 0xC0018 ∨ g.off = 0xC0030 ∨ g.off = 0x50008 ∨ (0x40000 ≤ g.off ∧ g.off < 0x50000) ∨ 0x100000 ≤ g.off := by
  rcases h with (h | h) | h | h
  · exact .inr (.inr (.inr (.inl h)))
  · exact .inr (.inr (.inr (.inr (Nat.le_trans (Nat.le_add_right _ _) h.1))))
  · exact (tmFields_off h).imp_right .inl
  · exact .inr (.inr (.inl ((by decide : ∀ g ∈ queueFields, g.off = 0x50008) g h)))

/-- A register outside the windows that a matrix command writes. -/
theorem MxWork.get_off (h : MxWork L n st s t) (f : Field)
    (ho : f.off ≠ 0xC0018 ∧ f.off ≠ 0xC0030 ∧ f.off ≠ 0x50008 ∧ (f.off < 0x40000 ∨ 0x50000 ≤ f.off) ∧ f.off < 0x100000 := by decide)
    (hf : f.lo + f.w ≤ 64 := by decide) : t.get f = s.get f :=
  h.writes.get_off f (fun g hg he => by have hoff := mxFields_off hg; omega) hf

theorem MxWork.tileFenced (h : MxWork L n st s t) (k : Nat) : t.tileFenced k = s.tileFenced k := by
  rw [State.tileFenced, h.get_off F.FLT_FENCE_TILE_TILES, State.tileFenced]

theorem MxWork.roomFor (h : MxWork L n st s t) (hL : Piece.flt ∉ L) {cls index : Nat} (hroom : s.roomFor cls index) : t.roomFor cls index := by
  refine hroom.congr (h.same.flt hL) fun f hf => ?_
  simp only [List.mem_cons, List.not_mem_nil, or_false] at hf
  rcases hf with rfl | rfl | rfl | rfl | rfl | rfl <;> exact h.get_off _

theorem MxWork.units (h : MxWork L n st s t) :
    (t.tile n).portA = (s.tile n).portA ∧ (t.tile n).portB = (s.tile n).portB ∧ (t.tile n).portT = (s.tile n).portT ∧
      (t.tile n).sf = (s.tile n).sf ∧ (t.tile n).dwq = (s.tile n).dwq ∧ (t.tile n).part = (s.tile n).part := by
  have hb := h.beside
  exact ⟨by simpa [TileSt.besideMatrix] using congrArg TileSt.portA hb,
    by simpa [TileSt.besideMatrix] using congrArg TileSt.portB hb,
    by simpa [TileSt.besideMatrix] using congrArg TileSt.portT hb,
    by simpa [TileSt.besideMatrix] using congrArg TileSt.sf hb,
    by simpa [TileSt.besideMatrix] using congrArg TileSt.dwq hb,
    by simpa [TileSt.besideMatrix] using congrArg TileSt.part hb⟩

theorem MxWork.noVoteDue (h : MxWork L n st s t) (hp : Piece.period ∉ L) (hs : Piece.seals ∉ L) (hv : s.noVoteDue) : t.noVoteDue := by
  have hpart (m : TileIx) : (t.tile m).part = (s.tile m).part := by
    by_cases hm : m = n
    · rw [hm]
      exact h.units.2.2.2.2.2
    · rw [h.others m hm]
  unfold State.noVoteDue
  simp only [h.same.period hp, h.same.seals hs, h.tileFenced, hpart]
  exact hv

theorem State.voteIfComplete_of_noVoteDue (h : s.noVoteDue) : s.voteIfComplete = s := by
  unfold State.voteIfComplete
  refine if_neg fun hdue => ?_
  simp only [Bool.and_eq_true, Bool.not_eq_true'] at hdue
  obtain ⟨⟨⟨hstep, hparts⟩, hvoted⟩, -⟩ := hdue
  rcases h with h | h | ⟨m, hf, hm⟩
  · rw [h] at hstep
    exact Bool.noConfusion hstep
  · rw [h] at hvoted
    exact Bool.noConfusion hvoted
  · have hall := List.all_eq_true.1 hparts m (List.mem_finRange m)
    rw [hf, hm] at hall
    exact Bool.noConfusion hall

end

end Sys2Proof.Machine
end

section
/-! SUPPORT. O31: the operands are taken (R77, R80), and a MATMUL is refused (R113). -/

namespace Sys2Proof.Machine

section
variable {s : State} {n : TileIx}

/-- The bytes that the Ladle command of an operand writes (R80, R92, R99). -/
def Operand.stored (o : Operand) (x : Nat) : Prop := ∃ w ∈ o.writes, w.1 ≤ x ∧ x < w.1 + w.2.length

/-- From `s` to `t` operands were taken: the Crucible is the same, and at most `k` Ladle commands reported. -/
structure OperandWork (k : Nat) (n : TileIx) (st : Nat → Prop) (s t : State) : Prop extends MxWork mxPieces n st s t where
  cru : (t.tile n).cru = (s.tile n).cru
  recs : ∃ l, (t.tile n).recs = l ++ (s.tile n).recs ∧ l.length ≤ k

theorem OperandWork.trans {j k : Nat} {st : Nat → Prop} {t u : State} (h : OperandWork j n st s t) (i : OperandWork k n st t u) :
    OperandWork (j + k) n st s u := by
  obtain ⟨l, hl, hj⟩ := h.recs
  obtain ⟨m, hm, hk⟩ := i.recs
  exact ⟨h.toMxWork.trans i.toMxWork, i.cru.trans h.cru, m ++ l, by rw [hm, hl, List.append_assoc], by rw [List.length_append]; omega⟩

theorem OperandWork.mono {k : Nat} {S st : Nat → Prop} {t : State} (h : OperandWork k n S s t) (hS : ∀ a, S a → st a) : OperandWork k n st s t :=
  ⟨h.toMxWork.mono (List.Subset.refl _) hS, h.cru, h.recs⟩

/-- The end of a Ladle command is its report. -/
theorem State.ladleEnd_work {st : Nat → Prop} (h : s.memWf = true) (hfree : s.tileFenced n.val = false) (l : Nat) (d : BitVec 512) (r : LRep) :
    OperandWork 1 n st s (s.ladleEnd n l d r) := by
  obtain ⟨he, hrecs, hsf⟩ := State.ladleEnd_report h hfree l d r
  exact ⟨he.mxWork h hsf, (TileSt.units_of_held he.held).1, [_], hrecs, Nat.le_refl 1⟩

/-- An operand that is taken: its Ladle command is carried out, or refused after all. -/
theorem State.operandTaken_work (h : s.memWf = true) (hfree : s.tileFenced n.val = false) (o : Operand) (status lflags : Nat) :
    OperandWork 1 n o.stored s (s.operandTaken n o status lflags) := by
  unfold State.operandTaken
  split
  · exact ⟨(MxQuiet.refl h).toMxWork, rfl, [], rfl, Nat.zero_le 1⟩
  · split
    · exact State.ladleEnd_work h hfree _ _ _
    · have hw : TileAccess n o.stored s (s.forEach o.writes fun s w => s.tmWrite n w.1 w.2 o.poison) := .forEach h fun t w hw ht =>
        (TileAccess.tmWrite ht.memWf w.1 w.2 o.poison).mono fun x hx => ⟨w, hw, hx⟩
      have hq := hw.mxQuiet
      have hwork : OperandWork 0 n o.stored s (s.forEach o.writes fun s w => s.tmWrite n w.1 w.2 o.poison) :=
        ⟨hq.toMxWork, hq.cru, [], hq.recs, Nat.le_refl 0⟩
      exact hwork.trans (State.ladleEnd_work hw.memWf ((hw.tileFenced n.val).trans hfree) _ _ _)

/-- Both operands are taken; a mismatch of their bases refuses both (R80, R86). -/
def State.mxTaken (s : State) (n : TileIx) (d : BitVec 256) (a b : Operand) : State :=
  if Nat.max (opStatus d a) (opStatus d b) == stOk && a.basis != b.basis then (s.operandTaken n a stLayout 8).operandTaken n b stLayout 8
  else (s.operandTaken n a (opStatus d a) 0).operandTaken n b (opStatus d b) 0

theorem State.mxTaken_work (h : s.memWf = true) (hfree : s.tileFenced n.val = false) (d : BitVec 256) (a b : Operand) :
    OperandWork 2 n (fun x => a.stored x ∨ b.stored x) s (s.mxTaken n d a b) := by
  have hboth (sa sb fl : Nat) : OperandWork 2 n (fun x => a.stored x ∨ b.stored x) s ((s.operandTaken n a sa fl).operandTaken n b sb fl) := by
    have ha := State.operandTaken_work h hfree a sa fl
    exact (ha.mono fun _ => .inl).trans
      ((State.operandTaken_work ha.memWf ((ha.tileFenced n.val).trans hfree) b sb fl).mono fun _ => .inr)
  unfold State.mxTaken
  split <;> exact hboth _ _ _

/-! The status. -/

/-- The status of a MATMUL with its operands (R80, R113). -/
def State.mxStatus (s : State) (n : TileIx) (d : BitVec 256) (a b : Operand) : Nat :=
  if s.mxOwn n d a b then stLayout
  else if max (opStatus d a) (opStatus d b) ≠ stOk then max (opStatus d a) (opStatus d b)
  else if a.basis ≠ b.basis then stLayout else stOk

theorem opStatus_le {d : BitVec 256} {o : Operand} (h : o.status ≤ stLayout) : opStatus d o ≤ stLayout := by
  unfold opStatus
  split
  · exact Nat.le_refl _
  · exact h

theorem State.mxStatus_le {d : BitVec 256} {a b : Operand} (ha : a.status ≤ stLayout) (hb : b.status ≤ stLayout) :
    s.mxStatus n d a b ≤ stLayout := by
  unfold State.mxStatus
  split
  · exact Nat.le_refl _
  · split
    · exact Nat.max_le.2 ⟨opStatus_le ha, opStatus_le hb⟩
    · split <;> decide

/-- A MATMUL with both operands at its ports takes them, and is refused or carried out. -/
theorem State.opMatmulCmd_eq {d : BitVec 256} {a b : Operand} {la lb : List Operand} (hop : mOp d = opMatmulCode) (hsel : mSel d ≠ 3)
    (hA : (s.tile n).sideA (mSel d) = a :: la) (hB : (s.tile n).sideB (mSel d) = b :: lb) (stalls : Nat) (us : List Upset) :
    let s1 := (s.setLayer n (mLayer d)).modTile n (fun t => t.popPorts (mSel d))
    s.opMatmulCmd n d stalls us =
      if s1.mxStatus n d a b = stOk then (s1.mxTaken n d a b).mxRun n d a b stalls us
      else (s1.mxTaken n d a b).mxRefuse n d (s1.mxStatus n d a b) := by
  intro s1
  have hA0 : ((s.setLayer n (mLayer d)).tile n).sideA (mSel d) = a :: la := by rw [State.setLayer_tile]; exact hA
  have hB0 : ((s.setLayer n (mLayer d)).tile n).sideB (mSel d) = b :: lb := by rw [State.setLayer_tile]; exact hB
  have hneither : ¬ (mOp d != opMatmulCode || mSel d == 3) = true := by simp [hop, hsel]
  unfold State.opMatmulCmd
  rw [if_neg hneither, hA0, hB0]
  show (if (s1.mxOwn n d a b || (Nat.max (opStatus d a) (opStatus d b) == stOk && a.basis != b.basis)) = true then
      (s1.mxTaken n d a b).mxRefuse n d stLayout
    else if (Nat.max (opStatus d a) (opStatus d b) != stOk) = true then (s1.mxTaken n d a b).mxRefuse n d (Nat.max (opStatus d a) (opStatus d b))
    else (s1.mxTaken n d a b).mxRun n d a b stalls us) = _
  unfold State.mxStatus
  have hlay : ¬ stLayout = stOk := by decide
  by_cases hown : s1.mxOwn n d a b = true
  · rw [if_pos (by rw [hown]; rfl), if_pos hown, if_neg hlay]
  · rw [if_neg hown, Bool.eq_false_iff.2 hown, Bool.false_or]
    by_cases hmax : max (opStatus d a) (opStatus d b) = stOk
    · have hmax' : Nat.max (opStatus d a) (opStatus d b) = stOk := hmax
      rw [if_neg (not_not.2 hmax), hmax']
      by_cases hbasis : a.basis = b.basis
      · simp [hbasis]
      · simp [hbasis, hlay]
    · have hmax' : Nat.max (opStatus d a) (opStatus d b) ≠ stOk := hmax
      rw [if_pos hmax, if_neg (by simp [hmax']), if_pos (by simpa using hmax'), if_neg hmax]

/-! The refusal. -/

/-- A refused MATMUL reports, and its slots remember the status (R113). -/
theorem State.mxRefuse_post {st : Nat → Prop} (h : s.memWf = true) (hfree : s.tileFenced n.val = false) (d : BitVec 256) {status : Nat}
    (hst : status < 2 ^ 8) :
    let t := s.mxRefuse n d status
    MxWork mxPieces n st s t ∧ (∃ r, (t.tile n).recs = r :: (s.tile n).recs ∧ recTag r = mTag d ∧ recStatus r = status) ∧
      ∀ i : Fin 128, (t.tile n).cru[i] = if (mxSlots d).contains i.val then { (s.tile n).cru[i] with bad := status } else (s.tile n).cru[i] := by
  have hslots := State.markSlots_slot (s := s) (n := n) (mxSlots d).contains status
  have hu : MxWork mxPieces n st s (s.markSlots n (mxSlots d).contains status) := .modTile h _ (fun _ => rfl) (fun _ => rfl) fun _ => rfl
  have hrecs : ((s.markSlots n (mxSlots d).contains status).tile n).recs = (s.tile n).recs := by rw [State.markSlots, State.tile_modTile_self]
  intro t
  have ht : t = ((s.markSlots n (mxSlots d).contains status).flag (F.TILE_MX_STAT_REFUSED n.val)).complete n n.val
    (mxRecord (mTag d) (mLayer d) (mSlot d) status 0 0 0 0 0 0 0xFFFF 0xFFFF) := rfl
  rw [ht]
  generalize s.markSlots n (mxSlots d).contains status = u at *
  obtain ⟨he, hr, hsf, -⟩ := State.refusal_report (n := n) hu.memWf ((hu.tileFenced n.val).trans hfree)
    (mxRecord (mTag d) (mLayer d) (mSlot d) status 0 0 0 0 0 0 0xFFFF 0xFFFF)
  refine ⟨hu.trans (he.mxWork hu.memWf hsf), ⟨_, hr.trans (by rw [hrecs]), mxRecord_fields (mTag_lt d) (mLayer_lt d) (mSlot_lt d) hst (by decide)
    (by decide) (by decide)⟩, fun i => ?_⟩
  rw [(TileSt.units_of_held he.held).1]
  exact hslots i

end

end Sys2Proof.Machine
end

section
/-! SUPPORT. O31: what a MATMUL computes (R114 to R121), and the lines of its checksum (R128 to R130). -/

namespace Sys2Proof.Machine

theorem shapeRows_bounds (sh : Nat) : 32 ≤ shapeRows sh ∧ shapeRows sh ≤ 256 := by
  unfold shapeRows
  split
  · decide
  · split
    · decide
    · split <;> decide

theorem shapeCols_le (sh : Nat) : shapeCols sh ≤ 256 :=
  Nat.le_trans (Nat.div_le_div_left (shapeRows_bounds sh).1 (by decide)) (by decide)

/-! Lines of the checksum. -/

theorem transposeOf_length {α : Type} (cols : Nat) (l : List (List α)) : (transposeOf cols l).length = cols := by
  rw [transposeOf, List.length_map, List.length_range]

theorem Operand.lines_length (o : Operand) (rows k : Nat) : (o.lines rows k).length = rows := by
  rw [Operand.lines, List.length_map, List.length_range]

theorem codesOf_length (f : Nat) (o : Operand) (rows k : Nat) : (codesOf f o rows k).length = rows := by
  rw [codesOf, List.length_map, List.length_range]

theorem floatCks_length_le (t k : Nat) (mine theirs : List (List U32)) (results : List (List (List U32))) (bad : Nat → Bool) :
    (floatCks t k mine theirs results bad).length ≤ results.length := by
  simp only [floatCks, List.length_map, List.length_zipIdx, List.length_zip]
  exact Nat.min_le_right _ _

theorem intCks_length_le (k : Nat) (mine theirs : List (List Int)) (results : List (List (List Int))) (bad : Nat → Bool) :
    (intCks k mine theirs results bad).length ≤ results.length := by
  simp only [intCks, List.length_map, List.length_zipIdx, List.length_zip]
  exact Nat.min_le_right _ _

/-- At most 256 rows and columns are checked. -/
def MxOut.small (o : MxOut) : Prop := o.rows.length ≤ 256 ∧ o.cols.length ≤ 256

theorem mxFloat_small (d : BitVec 256) (a b : Operand) (us : List Upset) (init : List (U32 × U32)) (cks : Option Nat) :
    (mxFloat d a b us init cks).small := by
  unfold mxFloat MxOut.small
  extract_lets nr nc k al bl w res ent finite bad turned badRow badCol af bf ck
  have hres : res.length ≤ 256 := by
    rw [List.length_map, List.length_zipIdx, Operand.lines_length]
    exact (shapeRows_bounds _).2
  have hcols : (transposeOf nc res).length ≤ 256 := (transposeOf_length nc res).trans_le (shapeCols_le _)
  have hck : ck.1.length ≤ 256 ∧ ck.2.length ≤ 256 := by
    unfold ck
    split
    · exact ⟨Nat.zero_le _, Nat.zero_le _⟩
    · dsimp only
      exact ⟨(floatCks_length_le ..).trans hres, (floatCks_length_le ..).trans hcols⟩
  exact hck

theorem mxInt_small (d : BitVec 256) (a b : Operand) (us : List Upset) (init : List U32) (cks : Bool) : (mxInt d a b us init cks).small := by
  unfold mxInt MxOut.small
  extract_lets nr nc k f al bl res ent sat satRow satCol rows cols
  have hres : res.length ≤ 256 := by
    rw [List.length_map, List.length_zipIdx, codesOf_length]
    exact (shapeRows_bounds _).2
  have hcols : (transposeOf nc res).length ≤ 256 := (transposeOf_length nc res).trans_le (shapeCols_le _)
  have hck : rows.length ≤ 256 ∧ cols.length ≤ 256 := by
    unfold rows cols
    split
    · exact ⟨(intCks_length_le ..).trans hres, (intCks_length_le ..).trans hcols⟩
    · exact ⟨Nat.zero_le _, Nat.zero_le _⟩
  exact hck

theorem firstFail_lt {l : List CksLine} (h : l.length ≤ 256) : firstFail l < 2 ^ 16 := by
  unfold firstFail
  split
  · next e he =>
    have hlt := List.snd_lt_of_mem_zipIdx (List.mem_of_find?_eq_some he)
    omega
  · decide

/-! What the command computes. -/

/-- What a MATMUL computes from its initial entries under TILEn_MX_CFG `cfg`. -/
def mxOutput (cfg : Nat) (d : BitVec 256) (a b : Operand) (us : List Upset) (init : List (U32 × U32)) : MxOut :=
  if mAcc d == 2 then mxInt d a b us (init.map (fun e => e.1)) (mCks d && bit cfg 0)
  else mxFloat d a b us init (if mCks d && bit cfg 0 then some (tolOf (bits cfg 12 8)) else none)

theorem mxOutput_small (cfg : Nat) (d : BitVec 256) (a b : Operand) (us : List Upset) (init : List (U32 × U32)) : (mxOutput cfg d a b us init).small := by
  unfold mxOutput
  split
  · exact mxInt_small _ _ _ _ _ _
  · exact mxFloat_small _ _ _ _ _ _

/-- The checksum does not change the words: those of a tile that starts at zero are the product (R128). -/
theorem mxOutput_words (cfg : Nat) (d : BitVec 256) (a b : Operand) :
    (mxOutput cfg d a b [] (List.replicate 4096 (0#32, 0#32))).words = mxProduct d a b := by
  have hint (init : List U32) (cks : Bool) : (mxInt d a b [] init cks).words = (mxInt d a b [] init false).words := rfl
  have hfloat (init : List (U32 × U32)) (cks : Option Nat) : (mxFloat d a b [] init cks).words = (mxFloat d a b [] init none).words := rfl
  unfold mxOutput mxProduct
  split
  · simp only [hint, List.map_replicate]
  · rw [hfloat]

end Sys2Proof.Machine
end

section
/-! SUPPORT. O31: a MATMUL is carried out (R118, R120, R129 to R133). -/

namespace Sys2Proof.Machine

section
variable {s : State} {n : TileIx} {st : Nat → Prop}

/-! The slots. -/

theorem State.liveSlots_quiet (h : s.memWf = true) : MxQuiet mxPieces n st s (s.liveSlots n) :=
  Ending.mxQuiet h (((Ending.refl h).set _ _ (tileFields_tile _ _ _ _)).set _ _ (tileFields_tile _ _ _ _)) rfl

/-- The result takes its slots, and no other changes (R118). -/
theorem State.cruStore_post (h : s.memWf = true) (d : BitVec 256) (rows cols : Nat) (words : List U32) :
    let t := s.cruStore n d rows cols words
    MxWork mxPieces n st s t ∧ (t.tile n).recs = (s.tile n).recs ∧
      (∀ i : Fin 128, i.val ∉ mxSlots d → (t.tile n).cru[i] = (s.tile n).cru[i]) ∧
      ∀ i : Fin 128, i.val ∈ mxSlots d → ((t.tile n).cru[i]).fmt = mAcc d ∧
        ((t.tile n).cru[i]).words = (words.drop (4096 * (i.val - mSlot d))).take 4096 := by
  intro t
  unfold t State.cruStore
  extract_lets goOn
  generalize hu : s.modTile n _ = u
  have hwork : MxWork mxPieces n st s u := hu ▸ .modTile h _ (fun _ => rfl) (fun _ => rfl) fun _ => rfl
  have hlive := State.liveSlots_quiet (n := n) (st := st) hwork.memWf
  refine ⟨hwork.trans hlive.toMxWork, ?_, fun i hi => ?_, fun i hi => ?_⟩
  · rw [hlive.recs, ← hu, State.tile_modTile_self]
  · rw [hlive.cru, ← hu, State.tile_modTile_self]
    simp [hi]
  · rw [hlive.cru, ← hu, State.tile_modTile_self]
    simp [hi]

/-- The initial entries are read (R120). -/
theorem State.mxInitial_quiet (h : s.memWf = true) (d : BitVec 256) : MxQuiet mxPieces n st s (s.mxInitial n d).1 := by
  unfold State.mxInitial
  split
  · exact .refl h
  · split
    · exact .refl h
    · exact (TileAccess.tmRead h _ _).mxQuiet

theorem State.mxInitial_zero {d : BitVec 256} (h : mInit d = 0) : s.mxInitial n d = (s, List.replicate 4096 (0#32, 0#32)) :=
  if_pos (beq_iff_eq.2 h)

/-! Counts. -/

theorem State.sprueCount_quiet (h : s.memWf = true) (d : BitVec 256) (o : Operand) : MxQuiet mxPieces n st s (s.sprueCount n d o) := by
  refine Ending.mxQuiet h (((((Ending.refl h).bump _ _ (tileFields_tile _ _ _ _)).bump _ _ (tileFields_tile _ _ _ _)).perfEvent tileFields_perf
    (tileIx_lt_blocks n) _ _).perfEvent tileFields_perf (tileIx_lt_blocks n) _ _) ?_
  rw [State.sprueCount, State.tile_perfEvent, State.tile_perfEvent, State.tile_bump, State.tile_bump]

/-- The result stands in its slots, and what the command found shows in the registers. -/
def State.mxStored (s : State) (n : TileIx) (d : BitVec 256) (a b : Operand) (o : MxOut) : State :=
  ((((s.cruStore n d a.rows b.rows o.words).flagIf (o.intSat != 0) (F.TILE_MX_STAT_INT_SAT n.val)).flagIf (o.nonfin != 0)
    (F.TILE_MX_STAT_NONFIN_OUT n.val)).flagIf ((o.rows ++ o.cols).any fun l => l.skip) (F.TILE_MX_STAT_CKS_SKIPPED n.val)).sprueCount n d a
    |>.sprueCount n d b

theorem State.mxStored_quiet (h : s.memWf = true) (d : BitVec 256) (a b : Operand) (o : MxOut) :
    MxQuiet mxPieces n st (s.cruStore n d a.rows b.rows o.words) (s.mxStored n d a b o) := by
  have hstore := (State.cruStore_post (n := n) (st := st) h d a.rows b.rows o.words).1
  have hflags : MxQuiet mxPieces n st (s.cruStore n d a.rows b.rows o.words)
      ((((s.cruStore n d a.rows b.rows o.words).flagIf (o.intSat != 0) (F.TILE_MX_STAT_INT_SAT n.val)).flagIf (o.nonfin != 0)
        (F.TILE_MX_STAT_NONFIN_OUT n.val)).flagIf ((o.rows ++ o.cols).any fun l => l.skip) (F.TILE_MX_STAT_CKS_SKIPPED n.val)) :=
    Ending.mxQuiet hstore.memWf ((((Ending.refl hstore.memWf).flagIf _ _ (tileFields_tile _ _ _ _)).flagIf _ _ (tileFields_tile _ _ _ _)).flagIf _ _
      (tileFields_tile _ _ _ _)) (by rw [State.tile_flagIf, State.tile_flagIf, State.tile_flagIf])
  have ha := hflags.trans (State.sprueCount_quiet hflags.memWf d a)
  exact ha.trans (State.sprueCount_quiet ha.memWf d b)

/-! A failing checksum. -/

/-- What a failing checksum leaves in the registers and at its tile (R130). -/
def State.cksNoted (s : State) (n : TileIx) (d : BitVec 256) (o : MxOut) : State :=
  let k := n.val
  let r := firstFail o.rows
  let c := firstFail o.cols
  let s1 := (((s.flag (F.TILE_MX_STAT_CKS_FAIL k)).set (F.TILE_MX_CKS_LAST_FAIL_TAG k) (mTag d)).bump (F.TILE_MX_CKS_FAIL_OPS_STEP k) 1).setB
    (F.TILE_MX_CKS_ROW_VALID k) (r != 0xFFFF)
  let s2 := ((s1.setB (F.TILE_MX_CKS_COL_VALID k) (c != 0xFFFF)).set (F.TILE_MX_CKS_LAST_FAIL_ROW k) (if r == 0xFFFF then 0 else r)).set
    (F.TILE_MX_CKS_LAST_FAIL_COL k) (if c == 0xFFFF then 0 else c)
  let s3 := (s2.modTile n (fun t => { t with cksFailed := true })).perfEvent k 0x1B 1
  if bit (s3.tile n).mxCfg.toNat 1 then s3.failTile n else s3

theorem State.cksNoted_quiet (h : s.memWf = true) (d : BitVec 256) (o : MxOut) : MxQuiet mxPieces n st s (s.cksNoted n d o) := by
  unfold State.cksNoted
  extract_lets k r c s1 s2 s3
  have h1 : Ending (tileFields n.val) n s s1 :=
    ((((Ending.refl h).set _ _ (tileFields_tile _ _ _ _)).set _ _ (tileFields_tile _ _ _ _)).bump _ _ (tileFields_tile _ _ _ _)).set _ _
      (tileFields_tile _ _ _ _)
  have h2 : MxQuiet mxPieces n st s s2 :=
    Ending.mxQuiet h (((h1.set _ _ (tileFields_tile _ _ _ _)).set _ _ (tileFields_tile _ _ _ _)).set _ _ (tileFields_tile _ _ _ _)) rfl
  have hmark : MxQuiet mxPieces n st s2 (s2.modTile n fun t => { t with cksFailed := true }) :=
    ⟨.modTile h2.memWf _ (fun _ => rfl) (fun _ => rfl) fun _ => rfl, by rw [State.tile_modTile_self], by rw [State.tile_modTile_self]⟩
  have h3 : MxQuiet mxPieces n st s s3 := (h2.trans hmark).trans (Ending.mxQuiet hmark.memWf
    ((Ending.refl hmark.memWf).perfEvent tileFields_perf (tileIx_lt_blocks n) _ _) (State.tile_perfEvent _ _ _ _ _))
  exact .ite (h3.trans (TileAccess.failTile h3.memWf).mxQuiet) h3

theorem State.enqueue_quiet (h : s.memWf = true) (r : ErrRec) : MxQuiet (.flt :: mxPieces) n st s (s.enqueue r) := by
  have hsame := s.enqueue_same r
  have ht : ∀ m, (s.enqueue r).tile m = s.tile m := State.tile_congr (hsame.tiles (by decide))
  exact ⟨⟨(State.enqueue_keeps (List.Subset.refl _) (Keeps.refl s) r).memWf h, hsame.mono (by decide),
    (State.enqueue_writes (State.regsOk_of_memWf h) r).mono fun _ hg => .inr (.inr hg), fun m _ => ht m, by rw [ht],
    by rw [State.memNoted, hsame.mem (by decide)], .of_tile (by rw [ht]) (by rw [ht]) st⟩, by rw [ht], by rw [ht]⟩

/-- A failing checksum queues its record and does no more, where the queue has room and no vote is due. -/
theorem State.cksFailed_quiet (h : s.memWf = true) (hroom : s.roomFor clsTile n.val) (hvote : s.noVoteDue) (d : BitVec 256) (o : MxOut) :
    MxQuiet (.flt :: mxPieces) n st s (s.cksFailed n d o) := by
  have hnoted := State.cksNoted_quiet (n := n) (st := st) h d o
  have heq : s.cksFailed n d o = ((s.cksNoted n d o).postFull clsTile n.val 1 0x06 (firstFail o.rows + 65536 * firstFail o.cols) (mTag d) 1 0
    true).voteIfComplete := rfl
  rw [heq, State.postFull_of_room (State.regsOk_of_memWf hnoted.memWf) (hnoted.roomFor (by decide) hroom) (by decide)]
  have hall := (hnoted.mono (List.subset_cons_self _ _) fun _ => id).trans (State.enqueue_quiet hnoted.memWf
    ((s.cksNoted n d o).mkRec clsTile n.val 1 0x06 (firstFail o.rows + 65536 * firstFail o.cols) (mTag d) 1 0))
  rwa [State.voteIfComplete_of_noVoteDue (hall.noVoteDue (by decide) (by decide) hvote)]

/-! The command. -/

/-- A MATMUL that is carried out computes, stores, perhaps fails its checksum, and reports. -/
theorem State.mxRun_eq (d : BitVec 256) (a b : Operand) (stalls : Nat) (us : List Upset) :
    let q := s.mxInitial n d
    let o := mxOutput (s.tile n).mxCfg.toNat d a b us q.2
    let u := q.1.mxStored n d a b o
    ∃ mflags < 2 ^ 8, s.mxRun n d a b stalls us =
      ((if countFail o.rows != 0 || countFail o.cols != 0 then u.cksFailed n d o else u).sticky n 0 (o.nonfin != 0)).complete n n.val
        (mxRecord (mTag d) (mLayer d) (mSlot d) stOk mflags (mxCycles d a b stalls) o.nonfin o.intSat (countFail o.rows) (countFail o.cols)
          (firstFail o.rows) (firstFail o.cols)) := by
  intro q o u
  refine ⟨b2n (countFail o.rows != 0 || countFail o.cols != 0) + 2 * b2n ((o.rows ++ o.cols).any fun l => l.skip) + 4 * b2n (o.intSat != 0)
    + 8 * b2n (o.nonfin != 0) + 16 * b2n (mCks d && !bit (s.tile n).mxCfg.toNat 0), ?_, rfl⟩
  have h1 := b2n_le (countFail o.rows != 0 || countFail o.cols != 0)
  have h2 := b2n_le ((o.rows ++ o.cols).any fun l => l.skip)
  have h3 := b2n_le (o.intSat != 0)
  have h4 := b2n_le (o.nonfin != 0)
  have h5 := b2n_le (mCks d && !bit (s.tile n).mxCfg.toNat 0)
  omega

/-- What a MATMUL that is carried out leaves. -/
theorem State.mxRun_post (h : s.memWf = true) (hfree : s.tileFenced n.val = false) (hroom : s.roomFor clsTile n.val) (hvote : s.noVoteDue)
    (d : BitVec 256) (a b : Operand) (stalls : Nat) (us : List Upset) :
    let t := s.mxRun n d a b stalls us
    MxWork (.flt :: mxPieces) n st s t ∧ (∃ r, (t.tile n).recs = r :: (s.tile n).recs ∧ recTag r = mTag d ∧ recStatus r = stOk) ∧
      (∀ i : Fin 128, i.val ∉ mxSlots d → (t.tile n).cru[i] = (s.tile n).cru[i]) ∧
      (mInit d = 0 → us = [] → ∀ i : Fin 128, i.val ∈ mxSlots d → ((t.tile n).cru[i]).fmt = mAcc d ∧
        ((t.tile n).cru[i]).words = ((mxProduct d a b).drop (4096 * (i.val - mSlot d))).take 4096) := by
  intro t
  obtain ⟨mflags, hflags, heq⟩ := State.mxRun_eq (s := s) (n := n) d a b stalls us
  have hinit := State.mxInitial_quiet (n := n) (st := st) h d
  have hzero : mInit d = 0 → us = [] → (mxOutput (s.tile n).mxCfg.toNat d a b us (s.mxInitial n d).2).words = mxProduct d a b := by
    rintro h0 rfl
    rw [State.mxInitial_zero h0, mxOutput_words]
  have hsmall := mxOutput_small (s.tile n).mxCfg.toNat d a b us (s.mxInitial n d).2
  have ht : t = _ := heq
  rw [ht]
  generalize mxOutput (s.tile n).mxCfg.toNat d a b us (s.mxInitial n d).2 = o at hzero hsmall ⊢
  generalize (s.mxInitial n d).1 = v at hinit ⊢
  obtain ⟨hstore, hrecs, hout, hin⟩ := State.cruStore_post (n := n) (st := st) hinit.memWf d a.rows b.rows o.words
  have hstored := State.mxStored_quiet (n := n) (st := st) hinit.memWf d a b o
  have hbefore : MxWork mxPieces n st s (v.mxStored n d a b o) := (hinit.toMxWork.trans hstore).trans hstored.toMxWork
  have hcks : MxQuiet (.flt :: mxPieces) n st (v.mxStored n d a b o)
      (if countFail o.rows != 0 || countFail o.cols != 0 then (v.mxStored n d a b o).cksFailed n d o else v.mxStored n d a b o) :=
    .ite (State.cksFailed_quiet hbefore.memWf (hbefore.roomFor (by decide) hroom) (hbefore.noVoteDue (by decide) (by decide) hvote) d o)
      (.refl hbefore.memWf)
  generalize (if countFail o.rows != 0 || countFail o.cols != 0 then (v.mxStored n d a b o).cksFailed n d o else v.mxStored n d a b o) = w at hcks ⊢
  have hw := (hbefore.mono (List.subset_cons_self _ _) fun _ => id).trans hcks.toMxWork
  have he := (Ending.refl (W := tileFields n.val) (n := n) hw.memWf).sticky 0 (o.nonfin != 0)
  have hend (r : BitVec 256) := he.complete tileFields_perf (tileIx_lt_blocks n) r
  have hrec (r : BitVec 256) : (((w.sticky n 0 (o.nonfin != 0)).complete n n.val r).tile n).recs = r :: (s.tile n).recs := by
    rw [he.recs_complete (fun _ => tileFields_off) ((hw.tileFenced n.val).trans hfree) (State.recs_sticky _ _ _ _), hcks.recs, hstored.recs, hrecs,
      hinit.recs]
  have hcru (r : BitVec 256) : (((w.sticky n 0 (o.nonfin != 0)).complete n n.val r).tile n).cru =
      ((v.cruStore n d a.rows b.rows o.words).tile n).cru := by
    rw [(TileSt.units_of_held (hend r).held).1, hcks.cru, hstored.cru]
  refine ⟨hw.trans (((hend _).mxWork hw.memWf ?_).mono (List.subset_cons_self _ _) fun _ => id), ⟨_, hrec _, mxRecord_fields (mTag_lt d) (mLayer_lt d)
    (mSlot_lt d) (by decide) hflags (firstFail_lt hsmall.1) (firstFail_lt hsmall.2)⟩, fun i hi => ?_, fun h0 hus i hi => ?_⟩
  · rw [State.sf_complete, State.sf_sticky]
  · rw [hcru, hout i hi, hinit.cru]
  · rw [hcru, ← hzero h0 hus]
    exact hin i hi

end

end Sys2Proof.Machine
end

section
/-! SUPPORT. O31: the statement. -/

namespace Sys2Proof.Machine

section
variable {s : State} {n : TileIx}

theorem State.exec_matmul {t : State} (h : s.tileFree n) {d : BitVec 256} {stalls : Nat} {us : List Upset} (ht : s.opMatmulCmd n d stalls us = t)
    (hsame : Same [.regs, .tiles, .mem, .flt, .perf] s t) : exec (.matmul n d stalls us) s = .next t := by
  subst ht
  exact congrArg Host.Outcome.next (State.issue_tileUnit (q := 4) h rfl rfl (by decide) rfl rfl (fun w hw t => by rw [State.tryCmd, hw])
    ((hsame.stalled (by decide)).trans h.idle.1) ((hsame.stallReq (by decide)).trans h.idle.2))

/-- Both operands leave their ports, and the tile comes to the layer of the command (R77). -/
def State.mxPopped (s : State) (n : TileIx) (d : BitVec 256) : State := (s.setLayer n (mLayer d)).modTile n fun t => t.popPorts (mSel d)

theorem State.tile_mxPopped (s : State) (n : TileIx) (d : BitVec 256) :
    (s.mxPopped n d).tile n = { (s.tile n).popPorts (mSel d) with layer := mLayer d } := by
  rw [State.mxPopped, State.tile_modTile_self, State.setLayer_tile]
  rfl

theorem State.tile_mxPopped_ne (s : State) (d : BitVec 256) {m : TileIx} (h : m ≠ n) : (s.mxPopped n d).tile m = s.tile m :=
  (State.tile_modTile_ne _ _ _ _ (Ne.symm h)).trans (State.tile_modTile_ne _ _ _ _ (Ne.symm h))

theorem State.mxPopped_memWf (h : s.memWf = true) (d : BitVec 256) : (s.mxPopped n d).memWf = true := by
  unfold State.mxPopped
  exact Keeps.memWf (L := [.tiles]) (State.modTile_keeps (List.Subset.refl _) (.refl _) n _ fun t ht => TileSt.wf_upd (t := t) rfl rfl ht)
    (State.setLayer_memWf h _)

theorem State.mxPopped_noVoteDue (h : s.noVoteDue) (d : BitVec 256) : (s.mxPopped n d).noVoteDue := by
  refine h.imp_right fun h => h.imp_right fun ⟨m, hf, hm⟩ => ⟨m, hf, ?_⟩
  by_cases hmn : m = n
  · subst hmn
    rw [State.tile_mxPopped]
    exact hm
  · rw [State.tile_mxPopped_ne s d hmn]
    exact hm

/-- What a MATMUL leaves of the state in which both operands have left their ports. -/
theorem State.opMatmulCmd_post {d : BitVec 256} {a b : Operand} (h : s.memWf = true) (hfree : s.tileFenced n.val = false)
    (hroom : s.roomFor clsTile n.val) (hvote : s.noVoteDue) (ha : a.status ≤ stLayout) (hb : b.status ≤ stLayout) (stalls : Nat) (us : List Upset) :
    let status := s.mxStatus n d a b
    let t := if status = stOk then (s.mxTaken n d a b).mxRun n d a b stalls us else (s.mxTaken n d a b).mxRefuse n d status
    MxWork (.flt :: mxPieces) n (fun x => a.stored x ∨ b.stored x) s t ∧
      (∃ r l, (t.tile n).recs = r :: (l ++ (s.tile n).recs) ∧ l.length ≤ 2 ∧ recTag r = mTag d ∧ recStatus r = status) ∧
      (∀ i : Fin 128, status ≠ stOk ∨ i.val ∉ mxSlots d → ((t.tile n).cru[i]).words = ((s.tile n).cru[i]).words) ∧
      (status ≠ stOk → ∀ i : Fin 128, i.val ∈ mxSlots d → ((t.tile n).cru[i]).bad = status) ∧
      (status = stOk → mInit d = 0 → us = [] → ∀ i : Fin 128, i.val ∈ mxSlots d →
        ((t.tile n).cru[i]).fmt = mAcc d ∧ ((t.tile n).cru[i]).words = ((mxProduct d a b).drop (4096 * (i.val - mSlot d))).take 4096) := by
  intro status t
  have htaken := State.mxTaken_work h hfree d a b
  have hlt : status < 2 ^ 8 := Nat.lt_of_le_of_lt (State.mxStatus_le ha hb) (by decide)
  obtain ⟨l, hl, hlen⟩ := htaken.recs
  have hcru := htaken.cru
  have hwork := htaken.toMxWork.mono (L := .flt :: mxPieces) (List.subset_cons_self _ _) fun _ => id
  have hfence := (htaken.tileFenced n.val).trans hfree
  have hroom2 := htaken.roomFor (by decide) hroom
  have hvote2 := htaken.noVoteDue (by decide) (by decide) hvote
  have hwf := htaken.memWf
  unfold t
  generalize s.mxTaken n d a b = u at hl hcru hwork hfence hroom2 hvote2 hwf ⊢
  by_cases hst : status = stOk
  · obtain ⟨hrun, ⟨r, hrec, hr⟩, hout, hin⟩ := State.mxRun_post (st := fun x => a.stored x ∨ b.stored x) hwf hfence hroom2 hvote2 d a b stalls us
    rw [if_pos hst]
    refine ⟨hwork.trans hrun, ⟨r, l, hrec.trans (by rw [hl]), hlen, by rwa [hst]⟩, fun i hi => ?_, absurd hst, fun _ => hin⟩
    rw [hout i (hi.resolve_left (not_not.2 hst)), hcru]
  · obtain ⟨hrefuse, ⟨r, hrec, hr⟩, hslot⟩ := State.mxRefuse_post (st := fun x => a.stored x ∨ b.stored x) hwf hfence d hlt
    rw [if_neg hst]
    refine ⟨hwork.trans (hrefuse.mono (List.subset_cons_self _ _) fun _ => id), ⟨r, l, hrec.trans (by rw [hl]), hlen, hr⟩, fun i _ => ?_,
      fun _ i hi => ?_, fun h => absurd h hst⟩
    · rw [hslot, hcru]
      split <;> rfl
    · rw [hslot, if_pos (by simpa using hi)]

end

/-- Settles O31: both operands leave their ports and are taken (`State.mxTaken_work`); the command is refused (`State.mxRefuse_post`) or carried out
(`State.mxRun_post`), and a failed checksum finds room for its record and no vote due (`State.cksFailed_quiet`). -/
theorem matmulTakesItsOperands : Obligations.MatmulTakesItsOperands := by
  intro n d stalls us s a b hwf hfree hroom hvote hop hsel hA hB ha hb s1 status
  have ht1 : s1.tile n = { (s.tile n).popPorts (mSel d) with layer := mLayer d } := s.tile_mxPopped n d
  have hsame1 : Same [.regs, .tiles, .mem, .flt, .perf] s s1 := (Same.refl s).upd (M := [.tiles]) (by decide)
  have hcmd := State.opMatmulCmd_eq hop hsel hA hB stalls us
  obtain ⟨hwork, hrecs, hwords, hbad, hproduct⟩ := State.opMatmulCmd_post (s := s1) (n := n) (d := d) (State.mxPopped_memWf hwf d) hfree.2.1 hroom
    (State.mxPopped_noVoteDue hvote d) ha hb stalls us
  obtain ⟨hportA, hportB, hportT, hsf, hdwq, -⟩ := hwork.units
  have hsame := hsame1.trans (hwork.same.mono (by decide))
  rw [ht1] at hrecs hwords hportA hportB hportT hsf hdwq
  have hpopped : s.tileBytesBut n (fun x => a.stored x ∨ b.stored x) s1 := .of_tile (by rw [ht1]; rfl) (by rw [ht1]; rfl) _
  refine ⟨_, State.exec_matmul hfree hcmd hsame, hrecs, hportA, hportB, hportT, hwords, hbad, hproduct, ?_, hsf, hdwq,
    fun m hm => (hwork.others m hm).trans (s.tile_mxPopped_ne d hm), hsame, (State.memNoted.refl s).trans hwork.noted⟩
  refine (hpopped.trans hwork.bytes rfl).mono fun x hx => ?_
  rcases hx with ⟨w, hw, hin⟩ | ⟨w, hw, hin⟩
  · exact ⟨w, List.mem_append_left _ hw, hin⟩
  · exact ⟨w, List.mem_append_right _ hw, hin⟩

end Sys2Proof.Machine
end
